-- ==== Sys2Proof/Word.lean ====
section
/-!
DEFINITION. Words and tables: the value types every file of the model uses.

The part is little-endian and byte addressed (R6, spec/00); a g register is 64 bits (R35, spec/02), a vector lane 32.
A sparse table is a list of key and value pairs; an unlisted key stands for the reset value that its reader names.
-/

namespace Sys2Proof

/-- A 64-bit word, the width of a g register (R35). -/
abbrev Word := BitVec 64

/-- A byte of memory (R6). -/
abbrev Byte := BitVec 8

/-- A vector lane (R35, R282). -/
abbrev Lane := BitVec 32

/-- A sparse table keyed by a natural number. -/
abbrev Tab (α : Type) := List (Nat × α)

/-- The word that holds a natural number modulo 2^64. -/
abbrev word (n : Nat) : Word := BitVec.ofNat 64 n

/-- One bit of a natural number. -/
abbrev nbit (n i : Nat) : Bool := n.testBit i

/-- Bits [lo + w - 1 : lo] of a natural number. -/
abbrev nfield (n lo w : Nat) : Nat := (n >>> lo) % 2 ^ w

/-- Bits [lo + w - 1 : lo] of a word, as a number. -/
abbrev wfield (x : Word) (lo w : Nat) : Nat := nfield x.toNat lo w

/-- A Boolean as a word, 1 or 0. -/
abbrev ofBool (b : Bool) : Word := if b then 1#64 else 0#64

/-- The upper bound of a virtual address (R86, spec/04). -/
abbrev vaTop : Nat := 2 ^ 56

end Sys2Proof
end

