-- ==== Sys2Proof/Machine/Num.lean ====
section
/-!
DEFINITION. Number formats, conversions and binary32 arithmetic (R56 to R76, spec/03).

A value is decoded to an exact dyadic number, operated on exactly, and rounded once (R74).
-/

namespace Sys2Proof.Num

/-- The rounding modes (R63). -/
inductive Rm where
  | rne | rtz | rdn | rup
deriving DecidableEq, Repr

/-- The mode a two-bit field names (R63). -/
def rmOf (n : Nat) : Rm :=
  match n % 4 with
  | 0 => .rne
  | 1 => .rtz
  | 2 => .rdn
  | _ => .rup

/-- A decoded floating-point value: `fin s m e` is (-1)^s * m * 2^e. -/
inductive Fp where
  | nan
  | inf (s : Bool)
  | fin (s : Bool) (m : Nat) (e : Int)
deriving DecidableEq, Repr

/-- An unblocked floating-point layout (R60): exponent bits, fraction bits, bias, whether it has infinities, whether
it has NaN patterns. -/
structure FFmt where
  eb : Nat
  fb : Nat
  bias : Nat
  hasInf : Bool
  hasNan : Bool
deriving DecidableEq, Repr

def f32F : FFmt := ⟨8, 23, 127, true, true⟩
def bf16F : FFmt := ⟨8, 7, 127, true, true⟩
def f16F : FFmt := ⟨5, 10, 15, true, true⟩
def e4m3F : FFmt := ⟨4, 3, 7, false, true⟩
def e5m2F : FFmt := ⟨5, 2, 15, true, true⟩
/-- The MX element E2M1 (R70): no NaN and no infinity. -/
def e2m1F : FFmt := ⟨2, 1, 1, false, false⟩

/-- The largest finite magnitude pattern (R60). -/
def FFmt.maxPat (f : FFmt) : Nat :=
  if f.hasInf then (2 ^ f.eb - 1) * 2 ^ f.fb - 1
  else if f.hasNan then 2 ^ (f.eb + f.fb) - 2 else 2 ^ (f.eb + f.fb) - 1

/-- The infinity magnitude pattern, for a format that has one. -/
def FFmt.infPat (f : FFmt) : Nat := (2 ^ f.eb - 1) * 2 ^ f.fb

/-- The NaN the part writes (R60). -/
def FFmt.nanPat (f : FFmt) : Nat :=
  if f.hasInf then f.infPat + 2 ^ (f.fb - 1) else 2 ^ (f.eb + f.fb) - 1

/-- The exponent of the smallest subnormal. -/
def FFmt.emin (f : FFmt) : Int := 1 - (f.bias : Int) - (f.fb : Int)

/-- A pattern's value (R60). -/
def FFmt.decode (f : FFmt) (n : Nat) : Fp :=
  let s := nbit n (f.eb + f.fb)
  let ex := nfield n f.fb f.eb
  let fr := n % 2 ^ f.fb
  if f.hasInf && ex == 2 ^ f.eb - 1 then (if fr == 0 then .inf s else .nan)
  else if !f.hasInf && f.hasNan && ex == 2 ^ f.eb - 1 && fr == 2 ^ f.fb - 1 then .nan
  else if ex == 0 then .fin s fr f.emin
  else .fin s (2 ^ f.fb + fr) (f.emin + (ex : Int) - 1)

/-- m / 2^d rounded to an integer in a mode (R63); `s` is the sign of the value. -/
def roundShift (rm : Rm) (s : Bool) (m d : Nat) : Nat :=
  let q := m >>> d
  let r := m % 2 ^ d
  let up :=
    match rm with
    | .rne => decide (2 * r > 2 ^ d) || (decide (2 * r = 2 ^ d) && decide (r ≠ 0) && q % 2 == 1)
    | .rtz => false
    | .rdn => s && r != 0
    | .rup => !s && r != 0
  if up then q + 1 else q

/-- The magnitude pattern of m * 2^e rounded once, before any overflow is judged. -/
def FFmt.magPat (f : FFmt) (rm : Rm) (s : Bool) (m : Nat) (e : Int) : Nat :=
  if m == 0 then 0
  else
    let q := max (e + (m.log2 : Int) - (f.fb : Int)) f.emin
    let r := if e ≥ q then m <<< (e - q).toNat else roundShift rm s m (q - e).toNat
    if r < 2 ^ f.fb then r else ((q - f.emin).toNat + 1) * 2 ^ f.fb + (r - 2 ^ f.fb)

/-- The sign bit of a pattern. -/
def FFmt.signBit (f : FFmt) (s : Bool) : Nat := if s then 2 ^ (f.eb + f.fb) else 0

/-- A conversion into a format (R64): `sat` chooses the largest finite value on overflow (a conversion) or infinity
(an arithmetic result, R74). -/
def FFmt.encode (f : FFmt) (rm : Rm) (sat : Bool) (x : Fp) : Nat :=
  match x with
  | .nan => f.nanPat
  | .inf s => f.signBit s + (if f.hasInf then f.infPat else f.maxPat)
  | .fin s m e =>
    let p := f.magPat rm s m e
    f.signBit s + (if p > f.maxPat then (if sat || !f.hasInf then f.maxPat else f.infPat) else p)

/-- The value of a binary32 pattern. -/
def dec32 (x : Lane) : Fp := f32F.decode x.toNat

/-- A binary32 result, rounded to nearest even and not saturated (R74). -/
def enc32 (x : Fp) : Lane := BitVec.ofNat 32 (f32F.encode .rne false x)

/-- A binary32 result in a mode. -/
def enc32m (rm : Rm) (x : Fp) : Lane := BitVec.ofNat 32 (f32F.encode rm false x)

/-- The canonical NaN (R74). -/
def nan32 : Lane := 0x7FC00000#32

/-- The signed integer m * 2^k with k ≥ 0 from a sign and magnitude. -/
def sgn (s : Bool) (m : Nat) : Int := if s then -(m : Int) else (m : Int)

/-- An exact integer multiple of 2^e as a value; an exact zero is +0 (R74). -/
def ofInt (i : Int) (e : Int) : Fp := .fin (decide (i < 0)) i.natAbs e

/-- The exact sum. The sum of two zeros of one sign keeps the sign; another exact zero is +0, as IEEE 754 rounds to
nearest (R74). -/
def Fp.add (a b : Fp) : Fp :=
  match a, b with
  | .nan, _ => .nan
  | _, .nan => .nan
  | .inf s, .inf t => if s == t then .inf s else .nan
  | .inf s, .fin _ _ _ => .inf s
  | .fin _ _ _, .inf t => .inf t
  | .fin s m e, .fin t n f =>
    if m == 0 && n == 0 then .fin (s && t) 0 (min e f)
    else
      let g := min e f
      ofInt (sgn s (m <<< (e - g).toNat) + sgn t (n <<< (f - g).toNat)) g

/-- The exact product. -/
def Fp.mul (a b : Fp) : Fp :=
  match a, b with
  | .nan, _ => .nan
  | _, .nan => .nan
  | .inf s, .inf t => .inf (s != t)
  | .inf s, .fin t n _ => if n == 0 then .nan else .inf (s != t)
  | .fin s m _, .inf t => if m == 0 then .nan else .inf (s != t)
  | .fin s m e, .fin t n f => .fin (s != t) (m * n) (e + f)

/-- The value with its sign flipped. -/
def Fp.neg : Fp → Fp
  | .nan => .nan
  | .inf s => .inf (!s)
  | .fin s m e => .fin (!s) m e

def fadd (a b : Lane) : Lane := enc32 ((dec32 a).add (dec32 b))
def fsub (a b : Lane) : Lane := enc32 ((dec32 a).add (dec32 b).neg)
def fmul (a b : Lane) : Lane := enc32 ((dec32 a).mul (dec32 b))
/-- a * b + c with the product and the sum exact and one rounding (R74). -/
def ffma (a b c : Lane) : Lane := enc32 (((dec32 a).mul (dec32 b)).add (dec32 c))

/-- A binary32 pattern is a NaN. -/
def isNan (x : Lane) : Bool := decide (x.toNat % 2 ^ 31 > 0x7F800000)

/-- A key that orders binary32 values with -0 equal to +0. -/
def key (x : Lane) : Int :=
  if nbit x.toNat 31 then -((x.toNat % 2 ^ 31 : Nat) : Int) else ((x.toNat % 2 ^ 31 : Nat) : Int)

/-- A key that orders binary32 values with -0 below +0 (R75). -/
def keyz (x : Lane) : Int :=
  if nbit x.toNat 31 then -((x.toNat % 2 ^ 31 : Nat) : Int) - 1 else ((x.toNat % 2 ^ 31 : Nat) : Int)

def fmin (a b : Lane) : Lane := if isNan a || isNan b then nan32 else if keyz a ≤ keyz b then a else b
def fmax (a b : Lane) : Lane := if isNan a || isNan b then nan32 else if keyz a ≥ keyz b then a else b
/-- IEEE 754 maximumNumber (R75). -/
def fmaxn (a b : Lane) : Lane :=
  if isNan a then (if isNan b then nan32 else b) else if isNan b then a else if keyz a ≥ keyz b then a else b

/-- The value rounded to an integer in a mode; none for a NaN or an infinity. -/
def Fp.toInt (rm : Rm) : Fp → Option Int
  | .nan => none
  | .inf _ => none
  | .fin s m e => some (sgn s (if e ≥ 0 then m <<< e.toNat else roundShift rm s m (-e).toNat))

/-- An integer held to [lo, hi]. -/
def clampInt (lo hi i : Int) : Int := if i < lo then lo else if i > hi then hi else i

/-- A conversion to an integer range: rounded, saturated, NaN to 0 (R65, R223). -/
def toIntSat (rm : Rm) (lo hi : Int) (x : Fp) : Int :=
  match x with
  | .nan => 0
  | .inf s => if s then lo else hi
  | .fin _ _ _ => clampInt lo hi ((x.toInt rm).getD 0)

/-- FCVT RND and VCVT RND (R223): the integral value; zeros and infinities keep their sign. -/
def rnd32 (rm : Rm) (x : Lane) : Lane :=
  match dec32 x with
  | .nan => nan32
  | .inf _ => x
  | .fin s m e =>
    let v := if e ≥ 0 then m <<< e.toNat else roundShift rm s m (-e).toNat
    enc32 (.fin s v 0)

/-! ### LG6N (R66 to R69) -/

/-- The table of 2^(f/4) in 1/1024 (R67). -/
def lgTab (f : Nat) : Nat :=
  match f % 4 with
  | 0 => 1024
  | 1 => 1218
  | 2 => 1448
  | _ => 1722

/-- The decoded value of one LG6N element code `c` under exponent byte `x` and micro-exponent bit `mu` (R67). -/
def lgValue (x mu c : Nat) : Fp :=
  let s := nbit c 5
  let m := c % 32
  if x == 255 then .nan
  else if m == 0 then (if s then .nan else .fin false 0 0)
  else .fin s (lgTab m) ((x : Int) - 127 - (mu : Int) + ((m / 4 : Nat) : Int) - 14)

/-- The number a list of bytes holds, the first byte least significant (R6). -/
def leNat : List Byte → Nat
  | [] => 0
  | b :: bs => b.toNat + 256 * leNat bs

/-- The low `n` bytes of a number, the least significant first (R6). -/
def leBytes : Nat → Nat → List Byte
  | 0, _ => []
  | n + 1, x => BitVec.ofNat 8 x :: leBytes n (x / 256)

/-- The element codes of an LG6N block (R66). -/
def lgCode (blk : Nat) (j : Nat) : Nat := nfield blk (16 + 6 * j) 6

/-- Conversion of a blocked value into binary32: exact, saturated to the largest finite value (R62). -/
def encBlk (x : Fp) : Lane := BitVec.ofNat 32 (f32F.encode .rne true x)

/-- The 16 lanes of an LG6N block (R66, R67). -/
def lgDecode (bs : List Byte) : List Lane :=
  let n := leNat bs
  (List.range 16).map fun j => encBlk (lgValue (n % 256) (nfield n (8 + j / 2) 1) (lgCode n j))

/-- An infinite input becomes the largest finite value of its sign (R69, R71). -/
def noInf (x : Lane) : Lane :=
  if x.toNat % 2 ^ 31 == 0x7F800000 then BitVec.ofNat 32 (x.toNat - 1) else x

/-- The rounded log code L of a nonzero finite binary32 input (R68). -/
def lgL (x : Lane) : Option Int :=
  match dec32 x with
  | .fin _ m e =>
    if m == 0 then none
    else
      let l := m.log2
      let f := (m <<< (23 - l)) % 2 ^ 23
      let fc := (if f ≥ 0x0B95C2 then 1 else 0) + (if f ≥ 0x25FED7 then 1 else 0)
        + (if f > 0x45672A then 1 else 0) + (if f ≥ 0x6AC0C7 then 1 else 0)
      some (4 * (e + (l : Int)) + fc)
  | _ => none

/-- The largest of the defined entries of a list. -/
def maxOpt : List (Option Int) → Option Int
  | [] => none
  | o :: os =>
    match o, maxOpt os with
    | none, r => r
    | some x, none => some x
    | some x, some y => some (max x y)

/-- The exponent byte of a block (R69, step 1). -/
def lgX (ls : List (Option Int)) : Nat :=
  match maxOpt ls with
  | none => 0
  | some l => (clampInt 0 254 (127 + (-((15 - l) / 4)))).toNat

/-- An input's code against a scale (R68). -/
def lgN (x mu : Nat) (l : Int) : Int := l - 4 * ((x : Int) - 127 - (mu : Int)) + 16

/-- The element written (R69, step 3). -/
def lgElem (x mu : Nat) (v : Lane) : Nat :=
  if isNan v then 32
  else
    match lgL v with
    | none => 0
    | some l =>
      let n := lgN x mu l
      let s := if nbit v.toNat 31 then 32 else 0
      if n ≤ 0 then 0 else if n ≥ 32 then s + 31 else s + n.toNat

/-- The micro-exponent of a pair is 1 when each element is zero, NaN or has n ≤ 27 (R69, step 2). -/
def lgMu (x : Nat) (v : Lane) : Bool :=
  isNan v || (match lgL v with
    | none => true
    | some l => decide (lgN x 0 l ≤ 27))

/-- The sum of a list of shifted numbers. -/
def packBits (w : Nat) : List Nat → Nat
  | [] => 0
  | n :: ns => n % 2 ^ w + 2 ^ w * packBits w ns

/-- The 14 bytes of an LG6N block (R69). -/
def lgEncode (vs : List Lane) : List Byte :=
  let ws := vs.map noInf
  let x := lgX (ws.map lgL)
  let at' (i : Nat) := ws.getD i 0#32
  let mu := packBits 1 ((List.range 8).map fun i => if lgMu x (at' (2 * i)) && lgMu x (at' (2 * i + 1)) then 1 else 0)
  let els := packBits 6 ((List.range 16).map fun j => lgElem x (nfield mu (j / 2) 1) (at' j))
  leBytes 14 (x + 256 * mu + 65536 * els)

/-! ### MX blocks (R70 to R73) -/

/-- An MX element's value before the block scale (R70); `code` is the FMT code 9, 10 or 11. -/
def mxElemValue (code n : Nat) : Fp :=
  if code == 9 then e4m3F.decode n
  else if code == 10 then e2m1F.decode n
  else ofInt (BitVec.ofNat 8 n).toInt (-6)

/-- Bits of one MX element. -/
def mxBits (code : Nat) : Nat := if code == 10 then 4 else 8

/-- A value scaled by 2^k. -/
def Fp.scale (k : Int) : Fp → Fp
  | .fin s m e => .fin s m (e + k)
  | x => x

/-- The 32 lanes of an MX block (R70). -/
def mxDecode (code : Nat) (bs : List Byte) : List Lane :=
  let n := leNat bs
  let p := n % 256
  (List.range 32).map fun j =>
    if p == 255 then nan32
    else encBlk ((mxElemValue code (nfield n (8 + mxBits code * j) (mxBits code))).scale ((p : Int) - 127))

/-- floor(log2 |v|) of a nonzero finite input. -/
def flog2 (x : Lane) : Option Int :=
  match dec32 x with
  | .fin _ m e => if m == 0 then none else some (e + (m.log2 : Int))
  | _ => none

/-- An INT8 element: i = v * 2^6 rounded, saturated to [-127, 127] (R71). -/
def mxInt8 (rm : Rm) (x : Fp) : Nat := (BitVec.ofInt 8 (toIntSat rm (-127) 127 (x.scale 6))).toNat

/-- One MX element as written (R71 to R73). -/
def mxElem (rm : Rm) (code p : Nat) (v : Lane) : Nat :=
  let x := (dec32 v).scale (127 - (p : Int))
  if code == 9 then (if isNan v then 0x7F else e4m3F.encode rm true x)
  else if code == 10 then e2m1F.encode rm true x
  else mxInt8 rm x

/-- The bytes of an MX block (R71 to R73). -/
def mxEncode (rm : Rm) (code : Nat) (vs : List Lane) : List Byte :=
  let ws := vs.map noInf
  let w := mxBits code
  let len := 1 + 4 * w
  if code != 9 && ws.any isNan then leBytes len 0xFF
  else
    let emax : Int := if code == 9 then 8 else if code == 10 then 2 else 0
    let p := match maxOpt (ws.map flog2) with
      | none => 0
      | some l => (clampInt 0 254 (l - emax + 127)).toNat
    leBytes len (p + 256 * packBits w (ws.map (mxElem rm code p)))

/-! ### Format codes of a fat pointer (R56) -/

/-- A format row (R56): legal BLK, element bits, elements in a unit, bytes in a unit, class (0 raw, 1 FP32, 2 integer). -/
structure FmtRow where
  blk : Nat
  ebits : Nat
  ue : Nat
  ub : Nat
  cls : Nat
deriving DecidableEq, Repr

/-- The row of a format code; none for a reserved code. -/
def fmtRow (c : Nat) : Option FmtRow :=
  match c with
  | 0 => some ⟨0, 8, 1, 1, 0⟩
  | 1 => some ⟨0, 32, 1, 4, 1⟩
  | 2 => some ⟨0, 16, 1, 2, 1⟩
  | 3 => some ⟨0, 16, 1, 2, 1⟩
  | 4 => some ⟨0, 8, 1, 1, 1⟩
  | 5 => some ⟨0, 8, 1, 1, 1⟩
  | 6 => some ⟨0, 8, 1, 1, 2⟩
  | 7 => some ⟨0, 4, 2, 1, 2⟩
  | 8 => some ⟨4, 6, 16, 14, 1⟩
  | 9 => some ⟨5, 8, 32, 33, 1⟩
  | 10 => some ⟨5, 4, 32, 17, 1⟩
  | 11 => some ⟨5, 8, 32, 33, 1⟩
  | 12 => some ⟨0, 32, 1, 4, 2⟩
  | _ => none

/-- The unblocked floating-point layout of a format code. -/
def fmtFloat (c : Nat) : Option FFmt :=
  match c with
  | 1 => some f32F
  | 2 => some bf16F
  | 3 => some f16F
  | 4 => some e4m3F
  | 5 => some e5m2F
  | _ => none

/-- The lanes that the bytes of whole units hold, in element order (R59, R62). F32 patterns stand unchanged (R240, R304);
integers come sign-extended. -/
def unitLanes (c : Nat) (bs : List Byte) : List Lane :=
  match c with
  | 8 => lgDecode bs
  | 9 => mxDecode 9 bs
  | 10 => mxDecode 10 bs
  | 11 => mxDecode 11 bs
  | 6 => [BitVec.ofInt 32 (BitVec.ofNat 8 (leNat bs)).toInt]
  | 7 => let n := leNat bs
         [BitVec.ofInt 32 (BitVec.ofNat 4 n).toInt, BitVec.ofInt 32 (BitVec.ofNat 4 (n / 16)).toInt]
  | 12 => [BitVec.ofNat 32 (leNat bs)]
  | 1 => [BitVec.ofNat 32 (leNat bs)]
  | _ =>
    match fmtFloat c with
    | some f => [enc32 (f.decode (leNat bs))]
    | none => [BitVec.ofNat 32 (leNat bs)]

/-- The bytes of one whole unit from its lanes, the FP32 class (R64, R68, R71) or the integer class (R65). -/
def unitBytes (rm : Rm) (c : Nat) (vs : List Lane) : List Byte :=
  match c with
  | 8 => lgEncode vs
  | 9 => mxEncode rm 9 vs
  | 10 => mxEncode rm 10 vs
  | 11 => mxEncode rm 11 vs
  | 6 => leBytes 1 (BitVec.ofInt 8 (clampInt (-128) 127 (vs.headD 0#32).toInt)).toNat
  | 7 => leBytes 1 ((BitVec.ofInt 4 (clampInt (-8) 7 (vs.headD 0#32).toInt)).toNat
          + 16 * (BitVec.ofInt 4 (clampInt (-8) 7 ((vs.drop 1).headD 0#32).toInt)).toNat)
  | 12 => leBytes 4 (vs.headD 0#32).toNat
  | 1 => leBytes 4 (vs.headD 0#32).toNat
  | _ =>
    match fmtFloat c with
    | some f => leBytes ((1 + f.eb + f.fb) / 8) (f.encode rm true (dec32 (vs.headD 0#32)))
    | none => leBytes 4 (vs.headD 0#32).toNat

/-- The concatenation of units, each of `ue` lanes. -/
def unitsBytes (rm : Rm) (c ue : Nat) : Nat → List Lane → List Byte
  | 0, _ => []
  | n + 1, vs => unitBytes rm c (vs.take ue) ++ unitsBytes rm c ue n (vs.drop ue)

/-- The lanes of `n` units of `ub` bytes. -/
def unitsLanes (c ub : Nat) : Nat → List Byte → List Lane
  | 0, _ => []
  | n + 1, bs => unitLanes c (bs.take ub) ++ unitsLanes c ub n (bs.drop ub)

/-! ### Scalar conversions (R223) -/

/-- The result of FCVT by conversion code (R223); none for a reserved code. -/
def fcvt (code : Nat) (rm : Rm) (b : Word) : Option Word :=
  let x := dec32 (b.truncate 32)
  let lo (l : Lane) : Word := l.zeroExtend 64
  match code with
  | 0 => some (BitVec.ofInt 64 (toIntSat rm (-(2 ^ 63)) (2 ^ 63 - 1) x))
  | 1 => some (lo (enc32m rm (ofInt b.toInt 0)))
  | 2 => some (BitVec.ofInt 64 (toIntSat rm 0 (2 ^ 64 - 1) x))
  | 3 => some (lo (enc32m rm (ofInt (b.toNat : Int) 0)))
  | 4 => some (word (bf16F.encode rm true x))
  | 5 => some (word (f16F.encode rm true x))
  | 6 => some (word (e4m3F.encode rm true x))
  | 7 => some (word (e5m2F.encode rm true x))
  | 8 => some (lo (enc32 (bf16F.decode (b.toNat % 2 ^ 16))))
  | 9 => some (lo (enc32 (f16F.decode (b.toNat % 2 ^ 16))))
  | 10 => some (lo (enc32 (e4m3F.decode (b.toNat % 2 ^ 8))))
  | 11 => some (lo (enc32 (e5m2F.decode (b.toNat % 2 ^ 8))))
  | 12 => some (lo (rnd32 rm (b.truncate 32)))
  | _ => none

/-! ### Reciprocal, root, exponential and logarithm (R292)

Each forms more bits than binary32 keeps, with the inexact remainder in the lowest bit, and rounds once. -/

/-- 1 / x. -/
def frcp (v : Lane) : Lane :=
  match dec32 v with
  | .nan => nan32
  | .inf s => enc32 (.fin s 0 0)
  | .fin s m e =>
    if m == 0 then enc32 (.inf s)
    else
      let n := 2 ^ 80
      let q := n / m
      enc32 (.fin s (2 * q + (if n % m == 0 then 0 else 1)) (-e - 81))

/-- The integer square root, bit by bit from bit `i - 1` down. -/
def isqrt (x : Nat) : Nat → Nat → Nat
  | 0, r => r
  | i + 1, r =>
    let t := r + 2 ^ i
    isqrt x i (if t * t ≤ x then t else r)

/-- 1 / sqrt(x). -/
def frsq (v : Lane) : Lane :=
  match dec32 v with
  | .nan => nan32
  | .inf s => if s then nan32 else 0#32
  | .fin s m e =>
    if m == 0 then enc32 (.inf s)
    else if s then nan32
    else
      -- x = m * 2^e with e made even; 1/sqrt(x) = sqrt(2^160 / m) * 2^(-80 - e/2)
      let m' := if e % 2 == 0 then m else 2 * m
      let e' := if e % 2 == 0 then e else e - 1
      let q := 2 ^ 160 / m'
      let r := isqrt q 82 0
      let exact := r * r == q && 2 ^ 160 % m' == 0
      enc32 (.fin false (2 * r + (if exact then 0 else 1)) (-81 - e' / 2))

/-- The product of 2^(2^-k) over the set bits of a 140-bit fraction, from bit k = 1 down (160-bit fixed point). -/
def expFrac (f : Nat) : Nat → Nat → Nat → Nat → Nat
  | 0, _, _, acc => acc
  | n + 1, k, root, acc =>
    let root' := isqrt (root * 2 ^ 160) 162 0
    expFrac f n (k + 1) root' (if nbit f (140 - k) then acc * root' / 2 ^ 160 else acc)

/-- 2^x. DEDUCED (log 11): 2^(fraction) is formed to about 130 bits and rounded once. -/
def fexp2 (v : Lane) : Lane :=
  match dec32 v with
  | .nan => nan32
  | .inf s => if s then 0#32 else enc32 (.inf false)
  | .fin s m e =>
    let x := key v
    if m == 0 then 0x3F800000#32
    else if x ≥ 0x43000000 then enc32 (.inf false)
    else if x ≤ -0x43160000 then 0#32
    else
      -- the value in units of 2^-140, rounded down, with a sticky bit
      let up := e + 140
      let i : Int := if up ≥ 0 then sgn s (m <<< up.toNat)
        else (sgn s m) / ((2 : Int) ^ (-up).toNat)
      let lost := decide (up < 0) && decide (m % 2 ^ (-up).toNat ≠ 0)
      let n := i / ((2 : Int) ^ 140)
      let f := (i % ((2 : Int) ^ 140)).toNat
      if f == 0 && !lost then enc32 (.fin false 1 n)
      else enc32 (.fin false (2 * expFrac f 140 1 (2 ^ 161) (2 ^ 160) + 1) (n - 161))

/-- The fraction bits of log2 of y in [1, 2), in 300-bit fixed point, by repeated squaring. -/
def logFrac : Nat → Nat → Nat → Nat
  | 0, _, acc => acc
  | n + 1, y, acc =>
    let q := y * y / 2 ^ 300
    if q ≥ 2 ^ 301 then logFrac n (q / 2) (2 * acc + 1) else logFrac n q (2 * acc)

/-- log2 x. DEDUCED (log 11): the fraction is formed to 130 bits and rounded once. -/
def flog2v (v : Lane) : Lane :=
  match dec32 v with
  | .nan => nan32
  | .inf s => if s then nan32 else v
  | .fin s m e =>
    if m == 0 then enc32 (.inf true)
    else if s then nan32
    else
      let l := m.log2
      let n := e + (l : Int)
      let y := m <<< (300 - l)
      if y == 2 ^ 300 then enc32 (ofInt n 0)
      else enc32 (ofInt (2 * (n * (2 : Int) ^ 130 + (logFrac 130 y 0 : Nat)) + 1) (-131))

end Sys2Proof.Num
end

