-- ==== Sys2Proof/Syntax.lean ====
section
/-!
DEFINITION. The instructions and events of the part: one constructor for each row of spec/opcode_table.json, the
instructions first. An encoded instruction carries the operands its words hold. An event's operands stand in State.ev
(structure EvArg), as an instruction's words stand in State.cur; its docstring names the fields it reads.
-/

namespace Sys2Proof

/-- The operands of one encoded instruction as its words give them (R193 to R199, spec/09): the operand numbers of the
fields A, B and C (six bits where EXR stands), the last-use bits, whether EXR stands, the EXQ payload, the EXI payloads
in the order written, and the low bits of the base word (imm6 of form I, off11 of form J, zero in form R). -/
structure Ops where
  a : BitVec 6 := 0
  b : BitVec 6 := 0
  c : BitVec 6 := 0
  l : Bool := false
  la : Bool := false
  exr : Bool := false
  exq : Option (BitVec 9) := none
  xi : List (BitVec 9) := []
  lo : BitVec 11 := 0
deriving DecidableEq, Repr

/-- An XPUT or QSEND on its way (R249 to R251, spec/11): the target word, the package it goes to, the register or queue
index, the payload and sender words, the strand that sent it, its access record, its tenant, partition and gang tag
(R428, R402), whether it is marked SPILL (R102) and whether it comes from another package. -/
structure Msg where
  isQ : Bool
  target : Word
  pkg : Nat
  idx : Nat
  payload : Word
  sender : Word
  srcSid : Nat
  acc : Nat
  tenant : Nat
  part : Nat
  tag : Nat
  spill : Bool
  foreign : Bool
deriving DecidableEq, Repr

/-- An instruction forwarded by the leader of a vector group (R46 to R48, spec/02): its words, its address, the next
address the leader takes, and whether the leader's outcome is compared. -/
structure Fwd where
  ipc : Nat
  words : List (BitVec 16)
  next : Nat
  compare : Bool
deriving DecidableEq, Repr

/-- An acquire request (R117, spec/05): guard, exclusive or shared, FRESH, the requesting core and strand, its team and
range-table entry, the handle's queue index, and the sub-blocks' last version known (VLAST). -/
structure GReq where
  guard : Word
  excl : Bool
  fresh : Bool
  cid : Nat
  sid : Nat
  team : Nat
  entry : Nat
  qix : Nat
  vlast : Nat
  issued : Nat
deriving DecidableEq, Repr

/-- What a strand asks of a Verger that holds it until the answer (R268): BIND, UNBIND, GFREE, GNEW, and GSTAT of word
`n`. -/
inductive GOp where
  | bind
  | unbind
  | free
  | new
  | stat (n : Nat)
deriving DecidableEq, Repr

/-- Such a message (R125, R268): the guard (of GNEW, its die's place), the core and strand with its generation, the record that
holds the strand, the destination register, the issue cycle, and BIND's record. -/
structure GAsk where
  op : GOp
  guard : Word
  cid : Nat
  sid : Nat
  gen : Nat
  id : Nat
  rid : Nat
  issued : Nat
  words : List Word
deriving DecidableEq, Repr

/-- A release (R123, spec/05): guard, core, entry, whether the hold was exclusive, the sub-blocks written. -/
structure GRel where
  guard : Word
  cid : Nat
  entry : Nat
  excl : Bool
  dirty : List Nat
deriving DecidableEq, Repr

/-- A forward to the last holder (R122, spec/05), whose image starts at the memory key `key`. -/
structure GFwd where
  req : GReq
  holder : Nat
  key : Nat
  subs : List Nat
  payload : Word
deriving DecidableEq, Repr

/-- A delivery and its grant entry (R118, spec/05): the request, the bytes by image offset, the grant payload, the
status. -/
structure Grant where
  req : GReq
  bytes : List Host.Cell
  payload : Word
deriving DecidableEq, Repr

/-- A contribution, partial or result of a combining instance (R173 to R175, spec/08): the values, the status and the
senders it covers. -/
structure Contrib where
  vals : List Word
  status : Nat
  count : Nat
deriving DecidableEq, Repr

/-- A partial, or a result, on its way to a Pavilion (R179, spec/08): the package and E-die it goes to, the group and the
sequence number, the kind of its sender (0 the local package, 1 a package, 2 a reducing switch) and its number, where an
answer goes (the root node's tile, or the sender's E-die), the sender's tenant, the value and status. -/
structure FerPart where
  pkg : Nat
  fer : Nat
  group : Nat
  seq : Nat
  kind : Nat
  sender : Nat
  back : Nat
  tenant : Nat
  c : Contrib
deriving DecidableEq, Repr

/-- An escalation message (R391, spec/19). -/
structure Escal where
  row : Nat
  pkg : Nat
  tenant : Nat
  part : Nat
  core : Nat
  slot : Nat
  cause : Nat
  tvalue : Word
  tval2 : Word
  tepc : Nat
deriving DecidableEq, Repr

/-- The operands of PART_MAKE (R452, spec/22): partition number, tenant, rectangle (x0, y0, width, height), the entry
template, the trap vector, ALLOW, the counter array and its length, the task queues (cluster, queue). -/
structure PartSpec where
  part : Nat
  tenant : Nat
  x0 : Nat
  y0 : Nat
  w : Nat
  h : Nat
  tmpl : List (Nat × Word × Word)
  tvec : Nat
  allow : Word
  dcbase : Nat
  dcnum : Nat
  queues : List (Nat × Nat)
deriving DecidableEq, Repr

/-- One grant of a partition's list (R373, spec/18). -/
structure GrantEnt where
  base : Nat
  limit : Nat
  rd : Bool
  wr : Bool
  store : Bool
deriving DecidableEq, Repr

/-- One leaf written by MAP (R452, R409): the page number VA[55:16], the leaf entry, and its backing entry. -/
structure MapEnt where
  page : Nat
  leaf : Word
  backing : Option (Word × Word)
deriving DecidableEq, Repr

/-- The operands of ROUTE (R452, R178, R449): Pavilion group routes and route-table entries. -/
structure RouteSpec where
  fer : Nat
  group : Nat
  w0 : Word
  w1 : Word
  dest : Nat
  port : Nat
  hops : Nat
deriving DecidableEq, Repr

/-- The operands of HOSTMAP (R450). -/
structure HostMapEnt where
  index : Nat
  make : Bool
  base : Nat
  size : Nat
  va : Nat
  tenant : Nat
  write : Bool
deriving DecidableEq, Repr

/-- What an event carries besides numbers. -/
inductive Payload where
  | none
  | msg (m : Msg)
  | fwd (f : Fwd)
  | greq (r : GReq)
  | gask (q : GAsk)
  | gtrap (q : GAsk) (cause : Nat) (tv tv2 : Word)
  | grel (r : GRel)
  | gfwd (f : GFwd)
  | grant (d : Grant)
  | contrib (c : Contrib)
  | fer (p : FerPart)
  | escal (e : Escal)
  | part (p : PartSpec)
  | grants (l : List GrantEnt)
  | maps (l : List MapEnt)
  | route (r : RouteSpec)
  | hmap (h : HostMapEnt)
  | words (l : List Word)
  | bytes (l : List Byte)
  | cells (l : List Host.Cell)
deriving DecidableEq, Repr

/-- The operands of an event: numbers, words, a flag and a payload, as the event's docstring in Instr names them. -/
structure EvArg where
  a : Nat := 0
  b : Nat := 0
  c : Nat := 0
  d : Nat := 0
  e : Nat := 0
  w : Word := 0#64
  w2 : Word := 0#64
  flag : Bool := false
  p : Payload := .none
deriving DecidableEq, Repr

/-- One step of the part (spec/opcode_table.json, spec/95): an instruction or an event. -/
inductive Instr where
  /-- UDF (R234). -/
  | udf (o : Ops)
  /-- ADD (R216). -/
  | add (o : Ops)
  /-- SUB (R216). -/
  | sub_ (o : Ops)
  /-- AND (R216). -/
  | and_ (o : Ops)
  /-- OR (R216). -/
  | or_ (o : Ops)
  /-- XOR (R216). -/
  | xor_ (o : Ops)
  /-- SHL (R216). -/
  | shl (o : Ops)
  /-- SHR (R216). -/
  | shr (o : Ops)
  /-- SRA (R216). -/
  | sra (o : Ops)
  /-- MUL (R216). -/
  | mul_ (o : Ops)
  /-- MOV (R218). -/
  | mov (o : Ops)
  /-- ADDI (R220). -/
  | addi (o : Ops)
  /-- LI (R220). -/
  | li (o : Ops)
  /-- SLT (R216). -/
  | slt (o : Ops)
  /-- SLTU (R216). -/
  | sltu (o : Ops)
  /-- SEQ (R216). -/
  | seq_ (o : Ops)
  /-- BEQ (R224). -/
  | beq (o : Ops)
  /-- BNE (R224). -/
  | bne (o : Ops)
  /-- BLT (R224). -/
  | blt (o : Ops)
  /-- BGE (R224). -/
  | bge (o : Ops)
  /-- BLTU (R224). -/
  | bltu (o : Ops)
  /-- BGEU (R224). -/
  | bgeu (o : Ops)
  /-- J (R225). -/
  | jmp (o : Ops)
  /-- JAL (R225). -/
  | jal (o : Ops)
  /-- JALR (R226). -/
  | jalr (o : Ops)
  /-- LDD (R238). -/
  | ldd (o : Ops)
  /-- LDW (R240). -/
  | ldw (o : Ops)
  /-- STD (R238). -/
  | std (o : Ops)
  /-- STW (R240). -/
  | stw (o : Ops)
  /-- PADD (R242). -/
  | padd (o : Ops)
  /-- QADV (R248). -/
  | qadv (o : Ops)
  /-- MULH (R216). -/
  | mulh (o : Ops)
  /-- MULHU (R216). -/
  | mulhu (o : Ops)
  /-- DIV (R217). -/
  | div_ (o : Ops)
  /-- DIVU (R217). -/
  | divu (o : Ops)
  /-- REM (R217). -/
  | rem_ (o : Ops)
  /-- REMU (R217). -/
  | remu (o : Ops)
  /-- MIN (R216). -/
  | min_ (o : Ops)
  /-- MAX (R216). -/
  | max_ (o : Ops)
  /-- MINU (R216). -/
  | minu (o : Ops)
  /-- MAXU (R216). -/
  | maxu (o : Ops)
  /-- CLZ (R218). -/
  | clz (o : Ops)
  /-- POPC (R218). -/
  | popc (o : Ops)
  /-- BFX (R219). -/
  | bfx (o : Ops)
  /-- BFI (R219). -/
  | bfi (o : Ops)
  /-- ANDI (R220). -/
  | andi (o : Ops)
  /-- ORI (R220). -/
  | ori (o : Ops)
  /-- XORI (R220). -/
  | xori (o : Ops)
  /-- SHLI (R220). -/
  | shli (o : Ops)
  /-- SHRI (R220). -/
  | shri (o : Ops)
  /-- SRAI (R220). -/
  | srai (o : Ops)
  /-- LIH (R220). -/
  | lih (o : Ops)
  /-- SLTI (R220). -/
  | slti (o : Ops)
  /-- LOOP (R230). -/
  | loop_ (o : Ops)
  /-- LOOPI (R230). -/
  | loopi (o : Ops)
  /-- PUSHB (R232). -/
  | pushb (o : Ops)
  /-- BRQ (R233). -/
  | brq (o : Ops)
  /-- FADD (R221). -/
  | fadd (o : Ops)
  /-- FMUL (R221). -/
  | fmul (o : Ops)
  /-- FFMA (R221). -/
  | ffma (o : Ops)
  /-- FCMP (R222). -/
  | fcmp (o : Ops)
  /-- FCVT (R223). -/
  | fcvt (o : Ops)
  /-- LDB (R238). -/
  | ldb (o : Ops)
  /-- LDBU (R238). -/
  | ldbu (o : Ops)
  /-- LDH (R238). -/
  | ldh (o : Ops)
  /-- LDHU (R238). -/
  | ldhu (o : Ops)
  /-- LDWU (R238). -/
  | ldwu (o : Ops)
  /-- STB (R238). -/
  | stb (o : Ops)
  /-- STH (R238). -/
  | sth (o : Ops)
  /-- LDACQ (R142). -/
  | ldacq (o : Ops)
  /-- STREL (R142). -/
  | strel (o : Ops)
  /-- FENCE (R140). -/
  | fence (o : Ops)
  /-- PTAG (R243). -/
  | ptag (o : Ops)
  /-- PFMT (R244). -/
  | pfmt (o : Ops)
  /-- PSPAN (R245). -/
  | pspan (o : Ops)
  /-- QBIND (R246). -/
  | qbind (o : Ops)
  /-- QFILL (R247). -/
  | qfill (o : Ops)
  /-- XPUT (R250). -/
  | xput (o : Ops)
  /-- CLRP (R252). -/
  | clrp (o : Ops)
  /-- TESTP (R253). -/
  | testp (o : Ops)
  /-- WAITW (R255). -/
  | waitw (o : Ops)
  /-- CPY (R259). -/
  | cpy (o : Ops)
  /-- GET (R261). -/
  | get_ (o : Ops)
  /-- PUT (R261). -/
  | put_ (o : Ops)
  /-- SREAD (R262). -/
  | sread (o : Ops)
  /-- SWRITE (R262). -/
  | swrite (o : Ops)
  /-- QSEND (R251). -/
  | qsend (o : Ops)
  /-- QSEND_WHO (R251). -/
  | qsendWho (o : Ops)
  /-- TIME (R256). -/
  | time_ (o : Ops)
  /-- SELF (R257). -/
  | self_ (o : Ops)
  /-- BIND (R109). -/
  | bind_ (o : Ops)
  /-- UNBIND (R112). -/
  | unbind (o : Ops)
  /-- ACQS (R117). -/
  | acqs (o : Ops)
  /-- ACQX (R117). -/
  | acqx (o : Ops)
  /-- REL (R123). -/
  | rel_ (o : Ops)
  /-- GSTAT (R266). -/
  | gstat (o : Ops)
  /-- GSTAT_VERGER (R266). -/
  | gstatVerger (o : Ops)
  /-- GNEW (R267). -/
  | gnew (o : Ops)
  /-- GFREE (R106). -/
  | gfree (o : Ops)
  /-- ATOM (R269). -/
  | atom (o : Ops)
  /-- CAS (R270). -/
  | cas (o : Ops)
  /-- ATOMSC (R271). -/
  | atomsc (o : Ops)
  /-- LDSC (R271). -/
  | ldsc (o : Ops)
  /-- STSC (R271). -/
  | stsc (o : Ops)
  /-- BAR (R272). -/
  | bar_ (o : Ops)
  /-- SSTEP (R50). -/
  | sstep (o : Ops)
  /-- SSYNC (R50). -/
  | ssync (o : Ops)
  /-- LDREF (R276). -/
  | ldref (o : Ops)
  /-- STREF (R275). -/
  | stref (o : Ops)
  /-- LDK (R275). -/
  | ldk (o : Ops)
  /-- STK (R275). -/
  | stk (o : Ops)
  /-- KMOV (R277). -/
  | kmov (o : Ops)
  /-- KMOV_TO_G (R277). -/
  | kmovToG (o : Ops)
  /-- KMOV_FROM_G (R277). -/
  | kmovFromG (o : Ops)
  /-- KNEW (R165). -/
  | knew (o : Ops)
  /-- KPIN (R164). -/
  | kpin (o : Ops)
  /-- KUNPIN (R164). -/
  | kunpin (o : Ops)
  /-- KCMP (R279). -/
  | kcmp (o : Ops)
  /-- KNULL (R275). -/
  | knull (o : Ops)
  /-- VADD (R289). -/
  | vadd (o : Ops)
  /-- VSUB (R289). -/
  | vsub (o : Ops)
  /-- VMUL (R289). -/
  | vmul (o : Ops)
  /-- VFMA (R290). -/
  | vfma (o : Ops)
  /-- VMIN (R289). -/
  | vmin (o : Ops)
  /-- VMAX (R289). -/
  | vmax (o : Ops)
  /-- VABS (R289). -/
  | vabs (o : Ops)
  /-- VNEG (R289). -/
  | vneg (o : Ops)
  /-- VCMP (R291). -/
  | vcmp (o : Ops)
  /-- VSEL (R290). -/
  | vsel (o : Ops)
  /-- VAND (R289). -/
  | vand (o : Ops)
  /-- VOR (R289). -/
  | vor (o : Ops)
  /-- VXOR (R289). -/
  | vxor (o : Ops)
  /-- VSHL (R289). -/
  | vshl (o : Ops)
  /-- VSHR (R289). -/
  | vshr (o : Ops)
  /-- VIADD (R289). -/
  | viadd (o : Ops)
  /-- VISUB (R289). -/
  | visub (o : Ops)
  /-- VIMUL (R289). -/
  | vimul (o : Ops)
  /-- VRCP (R292). -/
  | vrcp (o : Ops)
  /-- VRSQ (R292). -/
  | vrsq (o : Ops)
  /-- VEXP2 (R292). -/
  | vexp2 (o : Ops)
  /-- VLOG2 (R292). -/
  | vlog2 (o : Ops)
  /-- VRED (R295). -/
  | vred (o : Ops)
  /-- VSCAN (R296). -/
  | vscan (o : Ops)
  /-- VPERM (R297). -/
  | vperm (o : Ops)
  /-- VBCAST (R298). -/
  | vbcast (o : Ops)
  /-- VEXT (R299). -/
  | vext (o : Ops)
  /-- VINS (R300). -/
  | vins (o : Ops)
  /-- VIOTA (R294). -/
  | viota (o : Ops)
  /-- VCVT (R293). -/
  | vcvt (o : Ops)
  /-- VMOV (R289). -/
  | vmov (o : Ops)
  /-- VLD (R304). -/
  | vld (o : Ops)
  /-- VST (R304). -/
  | vst (o : Ops)
  /-- VLDX (R305). -/
  | vldx (o : Ops)
  /-- VSTX (R305). -/
  | vstx (o : Ops)
  /-- VSTM (R305). -/
  | vstm (o : Ops)
  /-- VLDS (R305). -/
  | vlds (o : Ops)
  /-- VSTS (R305). -/
  | vsts (o : Ops)
  /-- VTOPK (R301). -/
  | vtopk (o : Ops)
  /-- VBSCALE (R302). -/
  | vbscale (o : Ops)
  /-- GJOIN (R308). -/
  | gjoin (o : Ops)
  /-- GLEAVE (R309). -/
  | gleave (o : Ops)
  /-- REJOIN (R48). -/
  | rejoin (o : Ops)
  /-- VSHARE (R307). -/
  | vshare (o : Ops)
  /-- START (R312). -/
  | start_ (o : Ops)
  /-- STARTP (R312). -/
  | startp (o : Ops)
  /-- STOP (R314). -/
  | stop_ (o : Ops)
  /-- JOINS (R315). -/
  | joins (o : Ops)
  /-- LIVE (R316). -/
  | live_ (o : Ops)
  /-- LIVE_GET (R316). -/
  | liveGet (o : Ops)
  /-- YIELD (R317). -/
  | yield (o : Ops)
  /-- MXC (R319). -/
  | mxc (o : Ops)
  /-- MXCAP (R318). -/
  | mxcap (o : Ops)
  /-- MXCAP_GET (R318). -/
  | mxcapGet (o : Ops)
  /-- EPI (R327). -/
  | epi (o : Ops)
  /-- HCOMPACT (R332). -/
  | hcompact (o : Ops)
  /-- TQPUT (R337). -/
  | tqput (o : Ops)
  /-- TQGET (R338). -/
  | tqget (o : Ops)
  /-- TDEC (R342). -/
  | tdec (o : Ops)
  /-- TDSET (R340). -/
  | tdset (o : Ops)
  /-- TDBIND (R341). -/
  | tdbind (o : Ops)
  /-- LAUNCH (R343). -/
  | launch (o : Ops)
  /-- GCONT (R344). -/
  | gcont (o : Ops)
  /-- GSCAN (R345). -/
  | gscan (o : Ops)
  /-- A2A (R346). -/
  | a2a (o : Ops)
  /-- SYSRD (R378). -/
  | sysrd (o : Ops)
  /-- SYSRD_B (R371). -/
  | sysrdB (o : Ops)
  /-- SYSWR (R378). -/
  | syswr (o : Ops)
  /-- SYSWR_B (R371). -/
  | syswrB (o : Ops)
  /-- TRET (R379). -/
  | tret (o : Ops)
  /-- TRET_SKIP (R379). -/
  | tretSkip (o : Ops)
  /-- TRET_LEAVE (R379). -/
  | tretLeave (o : Ops)
  /-- TRET_KILL (R379). -/
  | tretKill (o : Ops)
  /-- SVC (R380). -/
  | svc (o : Ops)
  /-- BRK (R380). -/
  | brk (o : Ops)
  /-- RTSET (R381). -/
  | rtset (o : Ops)
  /-- RTGET (R381). -/
  | rtget (o : Ops)
  /-- CTXSAVE (R382). -/
  | ctxsave (o : Ops)
  /-- CTXLOAD (R382). -/
  | ctxload (o : Ops)
  /-- KILLS (R383). -/
  | kills (o : Ops)
  /-- KILLS_RESUME (R383). -/
  | killsResume (o : Ops)
  /-- SNAP (R384). -/
  | snap (o : Ops)
  /-- HALT (R384). -/
  | halt_ (o : Ops)
  /-- WFE (R384). -/
  | wfe (o : Ops)
  /-- ORPHAN (R385). -/
  | orphan (o : Ops)
  /-- GSWITCH (R386). -/
  | gswitch (o : Ops)
  /-- TMSG (R386). -/
  | tmsg (o : Ops)
  /-- VSHARE_APPLY (R307); a: cid, b: w. -/
  | vshareApply
  /-- REGISTER_EVICT (R38); a: sid, b: r. -/
  | registerEvict
  /-- REGISTER_FETCH (R39); a: sid, b: r, c: gen. -/
  | registerFetch
  /-- RESULT_WRITEBACK (R213); a: sid, b: gen, c: dst, w: val, w2: the descriptor of a handle that is the destination. -/
  | resultWriteback
  /-- PRES_TIMEOUT (R42); a: sid, b: gen, c: r, d: since. -/
  | presTimeout
  /-- XPUT_ARRIVAL (R43); payload: m. -/
  | xputArrival
  /-- VECTOR_QUARTER_ISSUE (R45); a: tid. -/
  | vectorQuarterIssue
  /-- VECTOR_RESULT (R289); a: cid, b: vid, c: quarter, payload: the eight lanes. -/
  | vectorResult
  /-- FOLLOWER_ISSUE (R46); a: sid, b: gen, payload: f. -/
  | followerIssue
  /-- GROUP_FORM (R308); a: gkey. -/
  | groupForm
  /-- GJOIN_TIMEOUT (R308); a: gkey, b: since. -/
  | gjoinTimeout
  /-- SUPERSTEP_BOUNDARY (R52); a: gid, b: stepNo. -/
  | superstepBoundary
  /-- ACCESS_PERFORM (R236); a: id. -/
  | accessPerform
  /-- LOAD_RESULT (R236); a: id. -/
  | loadResult
  /-- STORE_ACK (R396); a: id. -/
  | storeAck
  /-- ATOMIC_PERFORM (R254); a: id. -/
  | atomicPerform
  /-- WATCH_MADE (R255); a: id. -/
  | watchMade
  /-- WATCH_WAKE (R255); a: id. -/
  | watchWake
  /-- WATCH_RETRY (R255); a: id. -/
  | watchRetry
  /-- QSEND_ARRIVAL (R102); payload: m. -/
  | qsendArrival
  /-- QSEND_ANSWER (R102); a: id, b: ans. -/
  | qsendAnswer
  /-- QSEND_RESEND (R102); a: id. -/
  | qsendResend
  /-- RING_APPEND_DONE (R102); a: rkey, b: epoch, c: position, payload: m. -/
  | ringAppendDone
  /-- RECEIVE_QUEUE_REFILL (R103); a: rkey. -/
  | receiveQueueRefill
  /-- SC_COMPLETE (R143); a: id. -/
  | scComplete
  /-- RELEASE_SEND (R123); a: rid. -/
  | releaseSend
  /-- GUARD_REQUEST (R126); payload: r. -/
  | guardRequest
  /-- GUARD_REQUEST_RESEND (R107); payload: r. -/
  | guardRequestResend
  /-- GUARD_RELEASE (R126); a: the write-behind it came through (0: none), payload: r. -/
  | guardRelease
  /-- GUARD_FORWARD (R122); payload: f. -/
  | guardForward
  /-- GRANT_ARRIVAL (R118); payload: d. -/
  | grantArrival
  /-- GRANT_RETRY (R121); payload: d. -/
  | grantRetry
  /-- WRITE_BEHIND_COMPLETE (R124); a: wid. -/
  | writeBehindComplete
  /-- WBDONE (R124); w: guard, a: ver. -/
  | wbdone
  /-- GUARD_PACKAGE_FAILURE (R127); a: pkg, b: failed. -/
  | guardPackageFailure
  /-- HOME_LOST_ANSWER (R128); payload: r. -/
  | homeLostAnswer
  /-- HEAP_BARRIER_WAKE (R160); a: id of the access; with flag, w: the word that an access of the barrier answered. -/
  | heapBarrierWake
  /-- INFL_DECREMENT (R160); a: pkg, b: address of the object entry, c: tenant. -/
  | inflDecrement
  /-- HEAL_CAS (R161); a: pkg, b: va, c: tenant, w: old, w2: new. -/
  | healCas
  /-- BARRIER_LATE_TRAP (R163); a: id, b: cause, c: reason, w: tv. -/
  | barrierLateTrap
  /-- RELOC_COMMAND (R333); a: cmd. -/
  | relocCommand
  /-- RELOC_PARSE (R162); a: cmd, b: 0 the reads, 1 the flip that follows the parsing. -/
  | relocParse
  /-- FLIP_ARRIVAL (R162); a: cmd, b: cid, c: 0, or one bound on the accesses that the core still waits for. -/
  | flipArrival
  /-- FLIP_ACK (R162); a: cmd, b: cid. -/
  | flipAck
  /-- RELOC_OBJECT_BUSY (R162); a: cmd, b: address of the object entry, c: phase (0 mark, 1 wait for INFL and PINS, 2 copy chosen), d: destination. -/
  | relocObjectBusy
  /-- RELOC_OBJECT_DONE (R162); a: cmd, b: address of the object entry, c: phase (0 copied, 1 its entry written), d: destination. -/
  | relocObjectDone
  /-- RELOC_COMPLETE (R162); a: cmd, c: status. -/
  | relocComplete
  /-- CN_PARTIAL (R173); a: nkey (tile id * 256 + group), b: SEQ, c: position (0 to 3 a core, 4 + port a child), payload: c. -/
  | cnPartial
  /-- CN_INSTANCE_COMPLETE (R174); a: nkey, b: SEQ, payload: c. -/
  | cnInstanceComplete
  /-- CN_RESULT_ARRIVAL (R175); a: nkey, b: SEQ, flag: at a node (else at core c), c: cid, payload: c. -/
  | cnResultArrival
  /-- CN_RESULT_UNBLOCK (R175); a: nkey, b: SEQ or cid of a drained stream, c: cid, payload: c. -/
  | cnResultUnblock
  /-- FER_ARRIVAL (R179); payload: p. -/
  | ferArrival
  /-- FER_SLOT_TIMEOUT (R180); a: fkey, b: key of the slot, c: opened. -/
  | ferSlotTimeout
  /-- FER_PARENT_RESULT (R179); payload: p. -/
  | ferParentResult
  /-- FER_WAIT_RELEASE (R179); a: fkey, payload: p. -/
  | ferWaitRelease
  /-- FER_HALT_NOTICE (R181); a: fkey, b: group. -/
  | ferHaltNotice
  /-- FER_RESUME_NOTICE (R181); a: fkey, b: group. -/
  | ferResumeNotice
  /-- A2A_PARCEL_WRITE (R474); a: cmd, b: 0 the reading of its lists, else one parcel (c: package, w: address, w2: cycle of its last answer, payload: bytes). -/
  | a2aParcelWrite
  /-- A2A_CONTRIBUTE (R347); a: cmd, b: 1 when one parcel has been answered. -/
  | a2aContribute
  /-- COPY_COMPLETE (R260); a: cmd. -/
  | copyComplete
  /-- COMPLETION_ELEMENT_PLACE (R263); a: sid, b: handle, c: cmd, w: elem, flag: the last of the command. -/
  | completionElementPlace
  /-- GET_REQUEST_SERVE (R261); a: cmd, b: 1 before the request leaves. -/
  | getRequestServe
  /-- REMOTE_ATOMIC_SERVE (R261); a: cmd, b: 1 before the request leaves. -/
  | remoteAtomicServe
  /-- GET_COMPLETE (R261); a: cmd. -/
  | getComplete
  /-- PUT_DATA_ARRIVAL (R261); a: cmd. -/
  | putDataArrival
  /-- PUT_LOCAL_COMPLETE (R473); a: cmd. -/
  | putLocalComplete
  /-- PUT_REMOTE_COMPLETE (R261); a: cmd. -/
  | putRemoteComplete
  /-- STORAGE_IO_COMPLETE (R262); a: cmd, b: nvst. -/
  | storageIoComplete
  /-- MATRIX_COMMAND_ARRIVAL (R320); a: cmd. -/
  | matrixCommandArrival
  /-- MATRIX_COMMAND_RESEND (R320); a: cmd. -/
  | matrixCommandResend
  /-- SHADOW_ENTRY (R320); a: tid. -/
  | shadowEntry
  /-- MODE (R322); a: cmd. -/
  | mode_
  /-- LOADB (R323); a: cmd. -/
  | loadb
  /-- RUN (R324); a: cmd. -/
  | run_
  /-- CLEAR (R325); a: cmd. -/
  | clear_
  /-- MATRIX_COMMAND_COMPLETE (R320); a: cmd, b: status. -/
  | matrixCommandComplete
  /-- MATRIX_NOTICE_ARRIVAL (R320); a: cmd, b: status. -/
  | matrixNoticeArrival
  /-- EPI_START (R331); a: cmd, b: 0 the start, 1 a cycle of conversion, 2 a write, 3 its acknowledgement, c: the step of the command that a conversion belongs to, d: the address written. -/
  | epiStart
  /-- EPI_COMPLETE (R331); a: cmd, b: the step of the command that it belongs to, c: 5 for an invalid one. -/
  | epiComplete
  /-- TQ_REFILL (R336); a: qkey. -/
  | tqRefill
  /-- TDEC_APPLY (R342); a: pkey, b: index, c: sid, d: gen, w: the wait it answers, w2: its place in issue order, e: 0 at the counter, 1 the answer, 2 the answer of an underflow. -/
  | tdecApply
  /-- TDSET_APPLY (R340); a: pkey, b: index, c: count, d: cid, w2: its place in issue order. -/
  | tdsetApply
  /-- TDBIND_APPLY (R341); a: pkey, b: index, d: cid, w: qword, w2: its place in issue order, payload: rec. -/
  | tdbindApply
  /-- RELEASED_RECORD_PUSH (R342); a: pkey, w: qword, payload: rec. -/
  | releasedRecordPush
  /-- BAR_RELEASE (R273); a: gid, b: b, c: episode. -/
  | barRelease
  /-- BAR_TIMEOUT (R273); a: gid, b: b, c: episode. -/
  | barTimeout
  /-- TAKE_TRAP (R374); a: cid. -/
  | takeTrap
  /-- TEAM_SWAP_OUT (R475); a: cid, b: team, c: the access that parked, d: 0 the decision, 1 the saving. -/
  | teamSwapOut
  /-- TEAM_RESTORE (R362); a: cid, b: team. -/
  | teamRestore
  /-- GANG_SWITCH (R400); a: pkey, b: 0 at the stamp, 1 draining, 2 the end, w: the stamp. -/
  | gangSwitch
  /-- GANG_SAVE (R403); a: pkey, b: gid. -/
  | gangSave
  /-- GANG_RESTORE (R400); a: pkey, b: gid. -/
  | gangRestore
  /-- FALLOUT_PHASE (R402); a: gid, b: hops. -/
  | falloutPhase
  /-- EPI_SWITCH_TIMEOUT (R401); a: tid. -/
  | epiSwitchTimeout
  /-- ESCALATION_ARRIVAL (R392); payload: e. -/
  | escalationArrival
  /-- TRC_NOTICE_ARRIVAL (R395); a: rkey, b: generation, c: slot, d: trow, e: partition, w: sender, w2: payload. -/
  | trcNoticeArrival
  /-- REMOTE_REJECTION (R397); a: id. -/
  | remoteRejection
  /-- MTU_ACCESS_DECIDE (R411); a: id. -/
  | mtuAccessDecide
  /-- MTU_PARK_RETRY (R413); a: id. -/
  | mtuParkRetry
  /-- SQE_FILL_REQUEST (R415); a: pkg, b: page. -/
  | sqeFillRequest
  /-- SQE_FILL_COMPLETE (R415); a: pkg, b: page, c: nvst. -/
  | sqeFillComplete
  /-- MTU_INSTALL_NOTICE (R415); a: pkg, b: page. -/
  | mtuInstallNotice
  /-- SQE_FILL_FAIL (R418); a: pkg, b: page, c: reason, d: nvst. -/
  | sqeFillFail
  /-- SQE_COMMAND_TIMEOUT (R418); a: pkg, b: page, c: issued. -/
  | sqeCommandTimeout
  /-- PARKED_ACCESS_ANSWER (R413); a: id. -/
  | parkedAccessAnswer
  /-- PARKED_ACCESS_FAIL (R421); a: id, b: cause, c: reason, d: nvst. -/
  | parkedAccessFail
  /-- FAULT_SERVE (R420); a: pkg, b: page, c: requester, d: hops (5: unreachable). -/
  | faultServe
  /-- PAGE_MIGRATION_ARRIVAL (R420); a: pkg, b: page, c: owner, flag: dirty, d: phase, payload: the cells of the page. -/
  | pageMigrationArrival
  /-- MIGRATION_ACK (R420); a: pkg, b: page, c: requester. -/
  | migrationAck
  /-- EVICT_WRITEBACK_COMPLETE (R419); a: pkg, b: page, flag: write, c: nvst. -/
  | evictWritebackComplete
  /-- LINK_FLIT_RECEIVE (R443); a: port, b: seqNo, flag: crcOk. -/
  | linkFlitReceive
  /-- LINK_NAK (R443); a: port, b: seqNo. -/
  | linkNak
  /-- LINK_ACK (R443); a: port, b: seqNo. -/
  | linkAck
  /-- TRANSPORT_PACKET_ARRIVAL (R445); a: pkt, b: the resends when it was sent. -/
  | transportPacketArrival
  /-- TRANSPORT_ACK (R444); a: pkt. -/
  | transportAck
  /-- TRANSPORT_RESEND (R445); a: pkt, b: the resends when the timer was set. -/
  | transportResend
  /-- LANE_LOSS (R446); a: port, b: mask of the lanes lost. -/
  | laneLoss
  /-- LINK_RETRAIN_DONE (R446); a: port. -/
  | linkRetrainDone
  /-- BANDWIDTH_EVENT_ARRIVAL (R447); a: port, b: rkey, c: slot, d: generation, e: partition, w: payload. -/
  | bandwidthEventArrival
  /-- KEEPALIVE_SEND (R454); a: port. -/
  | keepaliveSend
  /-- KEEPALIVE_TIMEOUT (R454); a: port, b: since. -/
  | keepaliveTimeout
  /-- PACKAGE_FAILURE_DECLARE (R454); a: pkg, b: failed. -/
  | packageFailureDeclare
  /-- FAILURE_NOTICE (R454); a: pkg, b: failed, flag: as the package takes it (else as it spreads). -/
  | failureNotice
  /-- HOST_MEM_ACCESS (R450); a: pkg, b: host address, c: bytes, d: tag, flag: write, payload: bytes. -/
  | hostMemAccess
  /-- CRZ_DOOR (R451); a: pkg, b: tail; with flag, c: queue size, w: queue base, w2: completion base. -/
  | crzDoor
  /-- IDENTIFY (R452); a: pkg, b: cmd. -/
  | identify
  /-- NEGOTIATE (R452); a: pkg, b: cmd, w: feat0, w2: feat1 (no bit of it is offered). -/
  | negotiate
  /-- PATCH (R470); a: pkg, b: cmd, c: version. -/
  | patch_
  /-- PART_MAKE (R452); a: pkg, b: cmd, payload: p. -/
  | partMake
  /-- PART_END (R452); a: pkg, b: cmd, c: part, flag: once the partition has emptied. -/
  | partEnd
  /-- TENANT_KEY_ERASE (R469); a: pkg, b: tenant. -/
  | tenantKeyErase
  /-- GRANT (R373); a: pkg, b: cmd, c: part, payload: grants. -/
  | grant_
  /-- MAP (R452); a: pkg, b: cmd, payload: leaves. -/
  | map_
  /-- OWN (R411); a: pkg, b: cmd, c: index, w: w0, w2: w1. -/
  | own_
  /-- EVICT (R419); a: pkg, b: cmd, c: page, d: phase. -/
  | evict
  /-- ROUTE (R452); a: pkg, b: cmd, flag: a route-table entry (else a group route), payload: r. -/
  | route_
  /-- HOSTMAP (R450); a: pkg, b: cmd, payload: h. -/
  | hostmap
  /-- JOB (R430); a: pkg, b: cmd, c: part, d: tag, payload: desc. -/
  | job_
  /-- LOG (R452); a: pkg, b: cmd, c: which. -/
  | log_
  /-- UNSUPPORTED_COMMAND (R452); a: pkg, b: cmd. -/
  | unsupportedCommand
  /-- GANG_PLACE (R435); a: pkey. -/
  | gangPlace
  /-- JOB_END (R434); a: pkey, b: job, c: phase (0 drain, 1 kill, 2 the end). -/
  | jobEnd
  /-- TILE_CLEAR (R433); a: gid, b: 1 at a switch. -/
  | tileClear
  /-- TDU_JDONE (R434); a: cid, b: job. -/
  | tduJdone
  /-- TDU_JKILL (R434); a: cid, b: job, flag: one cycle later. -/
  | tduJkill
  /-- TDU_QBASE_WRITE (R437); a: qkey, w: val. -/
  | tduQbaseWrite
  /-- TDU_DCBASE_WRITE (R438); a: pkey, flag: num, w: val. -/
  | tduDcbaseWrite
  /-- REGISTER_WRITE (R368); a: cid, b: system register below 4096, block register word below 2^40, 2^40 + n for range-table entry n, w: val, w2: its second word. -/
  | registerWrite
  /-- PARTITION_REGISTER_PROPAGATE (R369); a: pkey, b: reg, c: cid, w: val. -/
  | partitionRegisterPropagate
  /-- TSTAT_WRITE (R368); a: cid, w: val. -/
  | tstatWrite
  /-- ORPHSTAT_WRITE (R368); a: cid, w: val. -/
  | orphstatWrite
  /-- ORPHSTAT_READ (R368); a: cid, b: dst. -/
  | orphstatRead
  /-- SLICE_WRITE (R368); a: pkey, b: cid, w: val. -/
  | sliceWrite
  /-- SNAPCTL_WRITE (R368); a: pkey, b: cid, w: val. -/
  | snapctlWrite
  /-- TRC_POP (R394); a: trow, b: part. -/
  | trcPop
  /-- TRC_LOST_READ (R394); a: trow, b: part, c: sid, d: dst, e: latency. -/
  | trcLostRead
  /-- FER_PSTAT_READ (R448); a: port, b: sid, c: dst, e: latency. -/
  | ferPstatRead
  /-- FER_EVLOST_READ (R448); a: pkey, b: fer, c: sid, d: dst, e: latency. -/
  | ferEvlostRead
  /-- DEBUG_STOP_REQUEST (R457); a: pkey. -/
  | debugStopRequest
  /-- DEBUG_STOP (R458); a: pkey, b: 1 where the drain is still to be waited for, c: gid. -/
  | debugStop
  /-- DEBUG_RESUME (R458); a: pkey. -/
  | debugResume
  /-- TDU_STEP (R459); a: pkey, b: cid, c: slot. -/
  | tduStep
  /-- STEP_DONE (R459); a: pkey, b: cid, c: slot. -/
  | stepDone
  /-- TDU_STEPST_READ (R457); a: pkey, b: sid, c: dst, e: latency. -/
  | tduStepstRead
  /-- TDU_TRBASE_WRITE (R457); a: pkey, w: val. -/
  | tduTrbaseWrite
  /-- TRACE_SAMPLE (R461); a: pkey, w: the configuration it was set up with. -/
  | traceSample
  /-- SNAPSHOT_FIRE (R462); a: pkey, b: 1 for a stamp, w: the stamp. -/
  | snapshotFire
  /-- LIFETIME_COUNTER_UPDATE (R463); a: pkg, payload: counts reported, as words. -/
  | lifetimeCounterUpdate
  /-- MACRO_SCRUB (R464); a: tid, b: mask of the macros found corrupted. -/
  | macroScrub
  /-- POWER_ON (R465); a: pkg, b: step, flag: a step ends (else the power comes on). -/
  | powerOn
  /-- THERMAL_TRIP (R471); a: pkg. -/
  | thermalTrip
  /-- GET_VERSION (R467); a: pkg. -/
  | getVersion
  /-- GET_CAPABILITIES (R467); a: pkg. -/
  | getCapabilities
  /-- NEGOTIATE_ALGORITHMS (R467); a: pkg. -/
  | negotiateAlgorithms
  /-- GET_DIGESTS (R467); a: pkg. -/
  | getDigests
  /-- GET_CERTIFICATE (R468); a: pkg, b: off, c: len. -/
  | getCertificate
  /-- CHALLENGE (R467); a: pkg, b: nonce. -/
  | challenge
  /-- GET_MEASUREMENTS (R466); a: pkg, b: block. -/
  | getMeasurements
  /-- POWER_LOSS (R463); a: pkg. -/
  | powerLoss
  /-- SSD_PORT_LINK_CHANGE (R418); a: pkg, b: port, flag: up. -/
  | ssdPortLinkChange
  /-- WFE_TIMEOUT (R384); a: cid, b: armed. -/
  | wfeTimeout
  /-- TILE_FAILURE (R431); a: tid. -/
  | tileFailure
deriving DecidableEq, Repr

end Sys2Proof
end

