-- ==== Sys2Proof/WellFormed.lean ====
section
/-!
DEFINITION. Well-formed instructions: the operand fields that an encoding can hold and that its row accepts
(R193 to R204, spec/09).
-/

namespace Sys2Proof

/-- The form of a base word (R193). -/
inductive Form where
  | r | i | j
deriving DecidableEq, Repr

/-- What a field may name (R200): a G field; a G field that refuses handles with ILLEGAL (`gn`, C of FFMA, CAS, MXC,
EPI, TDBIND) or with QUEUE_KIND (`gq`, R99); a vector or reference field; a field that must name a handle (`h`); an
unused field (`z`); raw bits (`bits`), of which `bits4` leaves the top bit unused. -/
inductive Kind where
  | g | gn | gq | v | k | h | z | bits | bits4
deriving DecidableEq, Repr

/-- One row of the opcode map (R202, R203): page, opcode, variant among the rows of one opcode, form, feature bit, whether
EXR is required, the EXI words required, the kinds of A and B without EXR, of A, B and C with it, and the
constructor. -/
structure Row where
  page : Nat
  op : Nat
  variant : Nat
  form : Form
  feature : Nat
  exrReq : Bool
  xiMin : Nat
  a0 : Kind
  b0 : Kind
  a1 : Kind
  b1 : Kind
  c1 : Kind
  build : Ops → Instr

/-- Opcodes of page 0 (R202, R203). -/
def page0a : List Row :=
  [ ⟨0, 0, 0, .r, 0, false, 0, .bits, .bits, .bits, .bits, .bits, .udf⟩
  , ⟨0, 1, 0, .r, 0, false, 0, .g, .g, .g, .g, .g, .add⟩
  , ⟨0, 2, 0, .r, 0, false, 0, .g, .g, .g, .g, .g, .sub_⟩
  , ⟨0, 3, 0, .r, 0, false, 0, .g, .g, .g, .g, .g, .and_⟩
  , ⟨0, 4, 0, .r, 0, false, 0, .g, .g, .g, .g, .g, .or_⟩
  , ⟨0, 5, 0, .r, 0, false, 0, .g, .g, .g, .g, .g, .xor_⟩
  , ⟨0, 6, 0, .r, 0, false, 0, .g, .g, .g, .g, .g, .shl⟩
  , ⟨0, 7, 0, .r, 0, false, 0, .g, .g, .g, .g, .g, .shr⟩
  , ⟨0, 8, 0, .r, 0, false, 0, .g, .g, .g, .g, .g, .sra⟩
  , ⟨0, 9, 0, .r, 0, false, 0, .g, .g, .g, .g, .g, .mul_⟩
  , ⟨0, 10, 0, .r, 0, false, 0, .g, .g, .z, .g, .g, .mov⟩
  , ⟨0, 11, 0, .i, 0, false, 0, .g, .z, .g, .z, .g, .addi⟩ ]

/-- Opcodes of page 0 (R202, R203). -/
def page0b : List Row :=
  [ ⟨0, 12, 0, .i, 0, false, 0, .g, .z, .z, .z, .g, .li⟩
  , ⟨0, 13, 0, .r, 0, false, 0, .g, .g, .g, .g, .g, .slt⟩
  , ⟨0, 14, 0, .r, 0, false, 0, .g, .g, .g, .g, .g, .sltu⟩
  , ⟨0, 15, 0, .r, 0, false, 0, .g, .g, .g, .g, .g, .seq_⟩
  , ⟨0, 16, 0, .r, 0, false, 1, .g, .g, .g, .g, .z, .beq⟩
  , ⟨0, 17, 0, .r, 0, false, 1, .g, .g, .g, .g, .z, .bne⟩
  , ⟨0, 18, 0, .r, 0, false, 1, .g, .g, .g, .g, .z, .blt⟩
  , ⟨0, 19, 0, .r, 0, false, 1, .g, .g, .g, .g, .z, .bge⟩
  , ⟨0, 20, 0, .r, 0, false, 1, .g, .g, .g, .g, .z, .bltu⟩
  , ⟨0, 21, 0, .r, 0, false, 1, .g, .g, .g, .g, .z, .bgeu⟩
  , ⟨0, 22, 0, .j, 0, false, 0, .z, .z, .z, .z, .z, .jmp⟩
  , ⟨0, 23, 0, .j, 0, false, 0, .z, .z, .z, .z, .z, .jal⟩ ]

/-- Opcodes of page 0 (R202, R203). -/
def page0c : List Row :=
  [ ⟨0, 24, 0, .r, 0, false, 0, .g, .g, .z, .g, .g, .jalr⟩
  , ⟨0, 25, 0, .r, 0, false, 0, .g, .g, .z, .g, .g, .ldd⟩
  , ⟨0, 26, 0, .r, 0, false, 0, .g, .g, .z, .g, .g, .ldw⟩
  , ⟨0, 27, 0, .r, 0, false, 0, .g, .g, .g, .g, .z, .std⟩
  , ⟨0, 28, 0, .r, 0, false, 0, .g, .g, .g, .g, .z, .stw⟩
  , ⟨0, 29, 0, .r, 0, false, 0, .g, .g, .g, .g, .g, .padd⟩
  , ⟨0, 30, 0, .i, 0, false, 0, .bits, .z, .bits, .z, .z, .qadv⟩ ]

/-- Every row of page 0. -/
def page0 : List Row := page0a ++ page0b ++ page0c

/-- Opcodes of page 1 (R202, R203). -/
def page1a : List Row :=
  [ ⟨1, 0, 0, .r, 0, false, 0, .g, .g, .g, .g, .g, .mulh⟩
  , ⟨1, 1, 0, .r, 0, false, 0, .g, .g, .g, .g, .g, .mulhu⟩
  , ⟨1, 2, 0, .r, 0, false, 0, .g, .g, .g, .g, .g, .div_⟩
  , ⟨1, 3, 0, .r, 0, false, 0, .g, .g, .g, .g, .g, .divu⟩
  , ⟨1, 4, 0, .r, 0, false, 0, .g, .g, .g, .g, .g, .rem_⟩
  , ⟨1, 5, 0, .r, 0, false, 0, .g, .g, .g, .g, .g, .remu⟩
  , ⟨1, 6, 0, .r, 0, false, 0, .g, .g, .g, .g, .g, .min_⟩
  , ⟨1, 7, 0, .r, 0, false, 0, .g, .g, .g, .g, .g, .max_⟩
  , ⟨1, 8, 0, .r, 0, false, 0, .g, .g, .g, .g, .g, .minu⟩
  , ⟨1, 9, 0, .r, 0, false, 0, .g, .g, .g, .g, .g, .maxu⟩
  , ⟨1, 10, 0, .r, 0, false, 0, .g, .g, .z, .g, .g, .clz⟩
  , ⟨1, 11, 0, .r, 0, false, 0, .g, .g, .z, .g, .g, .popc⟩ ]

/-- Opcodes of page 1 (R202, R203). -/
def page1b : List Row :=
  [ ⟨1, 12, 0, .r, 0, false, 1, .g, .g, .z, .g, .g, .bfx⟩
  , ⟨1, 13, 0, .r, 0, false, 0, .g, .g, .g, .g, .g, .bfi⟩
  , ⟨1, 14, 0, .i, 0, false, 0, .g, .z, .g, .z, .g, .andi⟩
  , ⟨1, 15, 0, .i, 0, false, 0, .g, .z, .g, .z, .g, .ori⟩
  , ⟨1, 16, 0, .i, 0, false, 0, .g, .z, .g, .z, .g, .xori⟩
  , ⟨1, 17, 0, .i, 0, false, 0, .g, .z, .g, .z, .g, .shli⟩
  , ⟨1, 18, 0, .i, 0, false, 0, .g, .z, .g, .z, .g, .shri⟩
  , ⟨1, 19, 0, .i, 0, false, 0, .g, .z, .g, .z, .g, .srai⟩
  , ⟨1, 20, 0, .i, 0, false, 0, .g, .z, .g, .z, .g, .lih⟩
  , ⟨1, 21, 0, .i, 0, false, 0, .g, .z, .g, .z, .g, .slti⟩
  , ⟨1, 22, 0, .r, 0, false, 1, .g, .z, .g, .z, .z, .loop_⟩
  , ⟨1, 23, 0, .i, 0, false, 1, .bits, .z, .bits, .z, .z, .loopi⟩ ]

/-- Opcodes of page 1 (R202, R203). -/
def page1c : List Row :=
  [ ⟨1, 24, 0, .r, 0, false, 0, .z, .g, .z, .g, .z, .pushb⟩
  , ⟨1, 25, 0, .j, 0, false, 0, .z, .z, .z, .z, .z, .brq⟩
  , ⟨1, 26, 0, .r, 0, false, 0, .g, .g, .g, .g, .g, .fadd⟩
  , ⟨1, 27, 0, .r, 0, false, 0, .g, .g, .g, .g, .g, .fmul⟩
  , ⟨1, 28, 0, .r, 0, true, 0, .g, .g, .g, .g, .gn, .ffma⟩
  , ⟨1, 29, 0, .r, 0, false, 1, .g, .g, .g, .g, .g, .fcmp⟩
  , ⟨1, 30, 0, .r, 0, false, 1, .g, .g, .z, .g, .g, .fcvt⟩ ]

/-- Every row of page 1. -/
def page1 : List Row := page1a ++ page1b ++ page1c

/-- Opcodes of page 2 (R202, R203). -/
def page2a : List Row :=
  [ ⟨2, 0, 0, .r, 0, false, 0, .g, .g, .z, .g, .g, .ldb⟩
  , ⟨2, 1, 0, .r, 0, false, 0, .g, .g, .z, .g, .g, .ldbu⟩
  , ⟨2, 2, 0, .r, 0, false, 0, .g, .g, .z, .g, .g, .ldh⟩
  , ⟨2, 3, 0, .r, 0, false, 0, .g, .g, .z, .g, .g, .ldhu⟩
  , ⟨2, 4, 0, .r, 0, false, 0, .g, .g, .z, .g, .g, .ldwu⟩
  , ⟨2, 5, 0, .r, 0, false, 0, .g, .g, .g, .g, .z, .stb⟩
  , ⟨2, 6, 0, .r, 0, false, 0, .g, .g, .g, .g, .z, .sth⟩
  , ⟨2, 7, 0, .r, 0, false, 0, .g, .g, .z, .g, .g, .ldacq⟩
  , ⟨2, 8, 0, .r, 0, false, 0, .g, .g, .g, .g, .z, .strel⟩
  , ⟨2, 9, 0, .i, 0, false, 0, .bits4, .z, .bits4, .z, .z, .fence⟩
  , ⟨2, 10, 0, .r, 0, false, 1, .g, .g, .z, .g, .g, .ptag⟩
  , ⟨2, 11, 0, .r, 0, false, 0, .g, .g, .z, .g, .g, .pfmt⟩ ]

/-- Opcodes of page 2 (R202, R203). -/
def page2b : List Row :=
  [ ⟨2, 12, 0, .r, 0, false, 0, .g, .g, .g, .g, .g, .pspan⟩
  , ⟨2, 13, 0, .r, 0, false, 0, .bits4, .g, .bits4, .g, .z, .qbind⟩
  , ⟨2, 14, 0, .r, 0, true, 0, .z, .h, .z, .h, .g, .qfill⟩
  , ⟨2, 15, 0, .r, 0, false, 1, .g, .g, .g, .g, .z, .xput⟩
  , ⟨2, 16, 0, .r, 0, false, 0, .gq, .z, .gq, .z, .z, .clrp⟩
  , ⟨2, 17, 0, .r, 0, false, 0, .g, .gq, .z, .gq, .g, .testp⟩
  , ⟨2, 18, 0, .r, 0, false, 0, .g, .g, .g, .g, .g, .waitw⟩
  , ⟨2, 19, 0, .r, 0, true, 0, .h, .g, .h, .g, .z, .cpy⟩
  , ⟨2, 20, 0, .r, 5, true, 0, .h, .g, .h, .g, .z, .get_⟩
  , ⟨2, 21, 0, .r, 5, true, 0, .h, .g, .h, .g, .z, .put_⟩
  , ⟨2, 22, 0, .r, 4, true, 0, .h, .g, .h, .g, .z, .sread⟩
  , ⟨2, 23, 0, .r, 4, true, 0, .h, .g, .h, .g, .z, .swrite⟩ ]

/-- Opcodes of page 2 (R202, R203). -/
def page2c : List Row :=
  [ ⟨2, 24, 0, .r, 0, false, 1, .g, .g, .g, .g, .z, .qsend⟩
  , ⟨2, 24, 1, .r, 0, true, 1, .z, .h, .z, .h, .g, .qsendWho⟩
  , ⟨2, 25, 0, .r, 0, false, 0, .g, .z, .z, .z, .g, .time_⟩
  , ⟨2, 26, 0, .r, 0, false, 0, .g, .z, .z, .z, .g, .self_⟩ ]

/-- Every row of page 2. -/
def page2 : List Row := page2a ++ page2b ++ page2c

/-- Opcodes of page 3 (R202, R203). -/
def page3a : List Row :=
  [ ⟨3, 0, 0, .r, 2, false, 0, .g, .g, .g, .g, .g, .bind_⟩
  , ⟨3, 1, 0, .r, 2, false, 0, .g, .z, .g, .z, .z, .unbind⟩
  , ⟨3, 2, 0, .r, 2, true, 0, .g, .h, .g, .h, .z, .acqs⟩
  , ⟨3, 3, 0, .r, 2, true, 0, .g, .h, .g, .h, .z, .acqx⟩
  , ⟨3, 4, 0, .r, 2, false, 0, .g, .z, .g, .z, .z, .rel_⟩
  , ⟨3, 5, 0, .r, 2, false, 0, .g, .g, .z, .g, .g, .gstat⟩
  , ⟨3, 5, 1, .r, 2, false, 0, .g, .g, .z, .g, .g, .gstatVerger⟩
  , ⟨3, 6, 0, .r, 2, false, 0, .g, .g, .z, .g, .g, .gnew⟩
  , ⟨3, 7, 0, .r, 2, false, 0, .g, .z, .g, .z, .z, .gfree⟩
  , ⟨3, 8, 0, .r, 0, true, 1, .g, .g, .g, .g, .g, .atom⟩
  , ⟨3, 9, 0, .r, 0, true, 0, .g, .g, .g, .g, .gn, .cas⟩
  , ⟨3, 10, 0, .r, 0, true, 1, .g, .g, .g, .g, .g, .atomsc⟩ ]

/-- Opcodes of page 3 (R202, R203). -/
def page3b : List Row :=
  [ ⟨3, 11, 0, .r, 0, false, 0, .g, .g, .z, .g, .g, .ldsc⟩
  , ⟨3, 12, 0, .r, 0, false, 0, .g, .g, .g, .g, .z, .stsc⟩
  , ⟨3, 13, 0, .i, 0, false, 0, .g, .z, .z, .z, .g, .bar_⟩
  , ⟨3, 14, 0, .r, 0, false, 0, .z, .z, .z, .z, .z, .sstep⟩
  , ⟨3, 15, 0, .r, 0, false, 0, .z, .z, .z, .z, .z, .ssync⟩
  , ⟨3, 16, 0, .r, 3, false, 0, .k, .k, .k, .k, .z, .ldref⟩
  , ⟨3, 17, 0, .r, 3, false, 0, .k, .k, .k, .k, .z, .stref⟩
  , ⟨3, 18, 0, .r, 3, false, 0, .gq, .k, .z, .k, .gq, .ldk⟩
  , ⟨3, 19, 0, .r, 3, false, 0, .gq, .k, .gq, .k, .z, .stk⟩
  , ⟨3, 20, 0, .r, 3, false, 0, .k, .k, .z, .k, .k, .kmov⟩
  , ⟨3, 20, 1, .r, 3, false, 0, .gq, .k, .z, .k, .gq, .kmovToG⟩
  , ⟨3, 20, 2, .r, 3, false, 0, .k, .gq, .z, .gq, .k, .kmovFromG⟩ ]

/-- Opcodes of page 3 (R202, R203). -/
def page3c : List Row :=
  [ ⟨3, 21, 0, .r, 3, false, 1, .k, .gq, .k, .gq, .z, .knew⟩
  , ⟨3, 22, 0, .r, 3, false, 0, .gq, .k, .gq, .k, .z, .kpin⟩
  , ⟨3, 23, 0, .r, 3, false, 0, .z, .k, .z, .k, .z, .kunpin⟩
  , ⟨3, 24, 0, .r, 3, true, 0, .k, .k, .k, .k, .gq, .kcmp⟩
  , ⟨3, 25, 0, .r, 3, false, 0, .gq, .k, .gq, .k, .z, .knull⟩ ]

/-- Every row of page 3. -/
def page3 : List Row := page3a ++ page3b ++ page3c

/-- Opcodes of page 4 (R202, R203). -/
def page4a : List Row :=
  [ ⟨4, 0, 0, .r, 0, false, 0, .v, .v, .v, .v, .v, .vadd⟩
  , ⟨4, 1, 0, .r, 0, false, 0, .v, .v, .v, .v, .v, .vsub⟩
  , ⟨4, 2, 0, .r, 0, false, 0, .v, .v, .v, .v, .v, .vmul⟩
  , ⟨4, 3, 0, .r, 0, true, 0, .v, .v, .v, .v, .v, .vfma⟩
  , ⟨4, 4, 0, .r, 0, false, 0, .v, .v, .v, .v, .v, .vmin⟩
  , ⟨4, 5, 0, .r, 0, false, 0, .v, .v, .v, .v, .v, .vmax⟩
  , ⟨4, 6, 0, .r, 0, false, 0, .v, .v, .z, .v, .v, .vabs⟩
  , ⟨4, 7, 0, .r, 0, false, 0, .v, .v, .z, .v, .v, .vneg⟩
  , ⟨4, 8, 0, .r, 0, false, 1, .v, .v, .v, .v, .v, .vcmp⟩
  , ⟨4, 9, 0, .r, 0, true, 0, .v, .v, .v, .v, .v, .vsel⟩
  , ⟨4, 10, 0, .r, 0, false, 0, .v, .v, .v, .v, .v, .vand⟩
  , ⟨4, 11, 0, .r, 0, false, 0, .v, .v, .v, .v, .v, .vor⟩ ]

/-- Opcodes of page 4 (R202, R203). -/
def page4b : List Row :=
  [ ⟨4, 12, 0, .r, 0, false, 0, .v, .v, .v, .v, .v, .vxor⟩
  , ⟨4, 13, 0, .r, 0, false, 0, .v, .v, .v, .v, .v, .vshl⟩
  , ⟨4, 14, 0, .r, 0, false, 0, .v, .v, .v, .v, .v, .vshr⟩
  , ⟨4, 15, 0, .r, 0, false, 0, .v, .v, .v, .v, .v, .viadd⟩
  , ⟨4, 16, 0, .r, 0, false, 0, .v, .v, .v, .v, .v, .visub⟩
  , ⟨4, 17, 0, .r, 0, false, 0, .v, .v, .v, .v, .v, .vimul⟩
  , ⟨4, 18, 0, .r, 0, false, 0, .v, .v, .z, .v, .v, .vrcp⟩
  , ⟨4, 19, 0, .r, 0, false, 0, .v, .v, .z, .v, .v, .vrsq⟩
  , ⟨4, 20, 0, .r, 0, false, 0, .v, .v, .z, .v, .v, .vexp2⟩
  , ⟨4, 21, 0, .r, 0, false, 0, .v, .v, .z, .v, .v, .vlog2⟩
  , ⟨4, 22, 0, .r, 0, false, 1, .v, .v, .z, .v, .v, .vred⟩
  , ⟨4, 23, 0, .r, 0, false, 1, .v, .v, .z, .v, .v, .vscan⟩ ]

/-- Opcodes of page 4 (R202, R203). -/
def page4c : List Row :=
  [ ⟨4, 24, 0, .r, 0, false, 0, .v, .v, .v, .v, .v, .vperm⟩
  , ⟨4, 25, 0, .r, 0, false, 0, .v, .gq, .z, .gq, .v, .vbcast⟩
  , ⟨4, 26, 0, .r, 0, false, 1, .gq, .v, .z, .v, .gq, .vext⟩
  , ⟨4, 27, 0, .r, 0, false, 1, .v, .gq, .v, .gq, .v, .vins⟩
  , ⟨4, 28, 0, .r, 0, false, 0, .v, .z, .z, .z, .v, .viota⟩
  , ⟨4, 29, 0, .r, 0, false, 1, .v, .v, .z, .v, .v, .vcvt⟩
  , ⟨4, 30, 0, .r, 0, false, 0, .v, .v, .z, .v, .v, .vmov⟩ ]

/-- Every row of page 4. -/
def page4 : List Row := page4a ++ page4b ++ page4c

/-- Opcodes of page 5 (R202, R203). -/
def page5a : List Row :=
  [ ⟨5, 0, 0, .r, 0, false, 0, .v, .gq, .z, .gq, .v, .vld⟩
  , ⟨5, 1, 0, .r, 0, false, 0, .v, .gq, .v, .gq, .z, .vst⟩
  , ⟨5, 2, 0, .r, 0, true, 0, .v, .gq, .v, .gq, .v, .vldx⟩
  , ⟨5, 3, 0, .r, 0, true, 0, .v, .gq, .v, .gq, .v, .vstx⟩
  , ⟨5, 4, 0, .r, 0, true, 0, .v, .gq, .v, .gq, .v, .vstm⟩
  , ⟨5, 5, 0, .r, 0, true, 0, .gq, .gq, .gq, .gq, .v, .vlds⟩
  , ⟨5, 6, 0, .r, 0, true, 0, .gq, .gq, .gq, .gq, .v, .vsts⟩
  , ⟨5, 7, 0, .r, 0, false, 1, .v, .v, .z, .v, .v, .vtopk⟩
  , ⟨5, 8, 0, .r, 0, false, 1, .v, .v, .z, .v, .v, .vbscale⟩
  , ⟨5, 9, 0, .r, 7, false, 0, .g, .g, .z, .g, .g, .gjoin⟩
  , ⟨5, 10, 0, .r, 7, false, 0, .z, .z, .z, .z, .z, .gleave⟩
  , ⟨5, 11, 0, .r, 7, false, 1, .z, .z, .z, .z, .z, .rejoin⟩ ]

/-- Opcodes of page 5 (R202, R203). -/
def page5b : List Row :=
  [ ⟨5, 12, 0, .i, 0, false, 0, .z, .z, .z, .z, .z, .vshare⟩ ]

/-- Every row of page 5. -/
def page5 : List Row := page5a ++ page5b

/-- Opcodes of page 6 (R202, R203). -/
def page6a : List Row :=
  [ ⟨6, 0, 0, .r, 0, false, 0, .g, .g, .z, .g, .g, .start_⟩
  , ⟨6, 1, 0, .r, 0, false, 0, .g, .g, .z, .g, .g, .startp⟩
  , ⟨6, 2, 0, .r, 0, false, 0, .z, .z, .z, .z, .z, .stop_⟩
  , ⟨6, 3, 0, .r, 0, false, 0, .g, .g, .z, .g, .g, .joins⟩
  , ⟨6, 4, 0, .r, 0, false, 0, .z, .g, .z, .g, .z, .live_⟩
  , ⟨6, 4, 1, .r, 0, false, 0, .g, .z, .z, .z, .g, .liveGet⟩
  , ⟨6, 5, 0, .r, 0, false, 0, .z, .z, .z, .z, .z, .yield⟩
  , ⟨6, 6, 0, .r, 1, true, 0, .h, .g, .h, .g, .gn, .mxc⟩
  , ⟨6, 7, 0, .r, 1, false, 0, .z, .g, .z, .g, .z, .mxcap⟩
  , ⟨6, 7, 1, .r, 1, false, 0, .g, .z, .z, .z, .g, .mxcapGet⟩
  , ⟨6, 8, 0, .r, 1, true, 0, .h, .g, .h, .g, .gn, .epi⟩
  , ⟨6, 9, 0, .r, 3, true, 0, .h, .g, .h, .g, .z, .hcompact⟩ ]

/-- Opcodes of page 6 (R202, R203). -/
def page6b : List Row :=
  [ ⟨6, 10, 0, .r, 0, false, 0, .g, .g, .g, .g, .z, .tqput⟩
  , ⟨6, 11, 0, .r, 0, true, 0, .g, .g, .g, .g, .g, .tqget⟩
  , ⟨6, 12, 0, .r, 0, false, 0, .g, .z, .g, .z, .z, .tdec⟩
  , ⟨6, 13, 0, .r, 0, false, 0, .g, .g, .g, .g, .z, .tdset⟩
  , ⟨6, 14, 0, .r, 0, true, 0, .g, .g, .g, .g, .gn, .tdbind⟩
  , ⟨6, 15, 0, .r, 0, false, 0, .g, .g, .z, .g, .g, .launch⟩
  , ⟨6, 16, 0, .r, 6, false, 1, .z, .g, .z, .g, .z, .gcont⟩
  , ⟨6, 17, 0, .r, 6, false, 1, .g, .g, .z, .g, .g, .gscan⟩
  , ⟨6, 18, 0, .r, 6, true, 0, .h, .g, .h, .g, .z, .a2a⟩ ]

/-- Every row of page 6. -/
def page6 : List Row := page6a ++ page6b

/-- Opcodes of page 7 (R202, R203). -/
def page7a : List Row :=
  [ ⟨7, 0, 0, .r, 0, false, 0, .g, .z, .z, .z, .g, .sysrd⟩
  , ⟨7, 0, 1, .r, 0, false, 0, .g, .g, .z, .g, .g, .sysrdB⟩
  , ⟨7, 1, 0, .r, 0, false, 0, .z, .g, .z, .g, .z, .syswr⟩
  , ⟨7, 1, 1, .r, 0, false, 0, .g, .g, .g, .g, .z, .syswrB⟩
  , ⟨7, 2, 0, .r, 0, false, 0, .z, .z, .z, .z, .z, .tret⟩
  , ⟨7, 2, 1, .r, 0, false, 0, .z, .z, .z, .z, .z, .tretSkip⟩
  , ⟨7, 2, 2, .r, 0, false, 0, .z, .z, .z, .z, .z, .tretLeave⟩
  , ⟨7, 2, 3, .r, 0, false, 0, .z, .z, .z, .z, .z, .tretKill⟩
  , ⟨7, 3, 0, .i, 0, false, 0, .z, .z, .z, .z, .z, .svc⟩
  , ⟨7, 4, 0, .i, 0, false, 0, .z, .z, .z, .z, .z, .brk⟩
  , ⟨7, 5, 0, .r, 0, false, 1, .g, .g, .g, .g, .z, .rtset⟩
  , ⟨7, 6, 0, .r, 0, false, 1, .g, .z, .z, .z, .g, .rtget⟩ ]

/-- Opcodes of page 7 (R202, R203). -/
def page7b : List Row :=
  [ ⟨7, 7, 0, .r, 0, false, 0, .g, .g, .z, .g, .g, .ctxsave⟩
  , ⟨7, 8, 0, .r, 0, false, 0, .g, .g, .z, .g, .g, .ctxload⟩
  , ⟨7, 9, 0, .r, 0, false, 0, .g, .g, .z, .g, .g, .kills⟩
  , ⟨7, 9, 1, .r, 0, false, 0, .g, .g, .z, .g, .g, .killsResume⟩
  , ⟨7, 10, 0, .r, 0, false, 0, .z, .g, .z, .g, .z, .snap⟩
  , ⟨7, 11, 0, .r, 0, false, 0, .z, .z, .z, .z, .z, .halt_⟩
  , ⟨7, 12, 0, .r, 0, false, 0, .g, .g, .z, .g, .g, .wfe⟩
  , ⟨7, 13, 0, .r, 0, true, 0, .g, .z, .g, .z, .g, .orphan⟩
  , ⟨7, 14, 0, .r, 0, false, 0, .g, .g, .z, .g, .g, .gswitch⟩
  , ⟨7, 15, 0, .r, 0, false, 0, .g, .g, .z, .g, .g, .tmsg⟩ ]

/-- Every row of page 7. -/
def page7 : List Row := page7a ++ page7b

/-- The opcode map (R202). -/
def rows : List Row := page0 ++ page1 ++ page2 ++ page3 ++ page4 ++ page5 ++ page6 ++ page7

/-- The row of a page, opcode and variant; none for a reserved opcode. -/
def rowOf (page op variant : Nat) : Option Row :=
  (match page with
    | 0 => page0
    | 1 => page1
    | 2 => page2
    | 3 => page3
    | 4 => page4
    | 5 => page5
    | 6 => page6
    | 7 => page7
    | _ => []).find? fun r => r.op == op && r.variant == variant

/-- The operands of an encoded instruction; none for an event. -/
def Instr.ops? : Instr → Option Ops
  | .udf o => some o
  | .add o => some o
  | .sub_ o => some o
  | .and_ o => some o
  | .or_ o => some o
  | .xor_ o => some o
  | .shl o => some o
  | .shr o => some o
  | .sra o => some o
  | .mul_ o => some o
  | .mov o => some o
  | .addi o => some o
  | .li o => some o
  | .slt o => some o
  | .sltu o => some o
  | .seq_ o => some o
  | .beq o => some o
  | .bne o => some o
  | .blt o => some o
  | .bge o => some o
  | .bltu o => some o
  | .bgeu o => some o
  | .jmp o => some o
  | .jal o => some o
  | .jalr o => some o
  | .ldd o => some o
  | .ldw o => some o
  | .std o => some o
  | .stw o => some o
  | .padd o => some o
  | .qadv o => some o
  | .mulh o => some o
  | .mulhu o => some o
  | .div_ o => some o
  | .divu o => some o
  | .rem_ o => some o
  | .remu o => some o
  | .min_ o => some o
  | .max_ o => some o
  | .minu o => some o
  | .maxu o => some o
  | .clz o => some o
  | .popc o => some o
  | .bfx o => some o
  | .bfi o => some o
  | .andi o => some o
  | .ori o => some o
  | .xori o => some o
  | .shli o => some o
  | .shri o => some o
  | .srai o => some o
  | .lih o => some o
  | .slti o => some o
  | .loop_ o => some o
  | .loopi o => some o
  | .pushb o => some o
  | .brq o => some o
  | .fadd o => some o
  | .fmul o => some o
  | .ffma o => some o
  | .fcmp o => some o
  | .fcvt o => some o
  | .ldb o => some o
  | .ldbu o => some o
  | .ldh o => some o
  | .ldhu o => some o
  | .ldwu o => some o
  | .stb o => some o
  | .sth o => some o
  | .ldacq o => some o
  | .strel o => some o
  | .fence o => some o
  | .ptag o => some o
  | .pfmt o => some o
  | .pspan o => some o
  | .qbind o => some o
  | .qfill o => some o
  | .xput o => some o
  | .clrp o => some o
  | .testp o => some o
  | .waitw o => some o
  | .cpy o => some o
  | .get_ o => some o
  | .put_ o => some o
  | .sread o => some o
  | .swrite o => some o
  | .qsend o => some o
  | .qsendWho o => some o
  | .time_ o => some o
  | .self_ o => some o
  | .bind_ o => some o
  | .unbind o => some o
  | .acqs o => some o
  | .acqx o => some o
  | .rel_ o => some o
  | .gstat o => some o
  | .gstatVerger o => some o
  | .gnew o => some o
  | .gfree o => some o
  | .atom o => some o
  | .cas o => some o
  | .atomsc o => some o
  | .ldsc o => some o
  | .stsc o => some o
  | .bar_ o => some o
  | .sstep o => some o
  | .ssync o => some o
  | .ldref o => some o
  | .stref o => some o
  | .ldk o => some o
  | .stk o => some o
  | .kmov o => some o
  | .kmovToG o => some o
  | .kmovFromG o => some o
  | .knew o => some o
  | .kpin o => some o
  | .kunpin o => some o
  | .kcmp o => some o
  | .knull o => some o
  | .vadd o => some o
  | .vsub o => some o
  | .vmul o => some o
  | .vfma o => some o
  | .vmin o => some o
  | .vmax o => some o
  | .vabs o => some o
  | .vneg o => some o
  | .vcmp o => some o
  | .vsel o => some o
  | .vand o => some o
  | .vor o => some o
  | .vxor o => some o
  | .vshl o => some o
  | .vshr o => some o
  | .viadd o => some o
  | .visub o => some o
  | .vimul o => some o
  | .vrcp o => some o
  | .vrsq o => some o
  | .vexp2 o => some o
  | .vlog2 o => some o
  | .vred o => some o
  | .vscan o => some o
  | .vperm o => some o
  | .vbcast o => some o
  | .vext o => some o
  | .vins o => some o
  | .viota o => some o
  | .vcvt o => some o
  | .vmov o => some o
  | .vld o => some o
  | .vst o => some o
  | .vldx o => some o
  | .vstx o => some o
  | .vstm o => some o
  | .vlds o => some o
  | .vsts o => some o
  | .vtopk o => some o
  | .vbscale o => some o
  | .gjoin o => some o
  | .gleave o => some o
  | .rejoin o => some o
  | .vshare o => some o
  | .start_ o => some o
  | .startp o => some o
  | .stop_ o => some o
  | .joins o => some o
  | .live_ o => some o
  | .liveGet o => some o
  | .yield o => some o
  | .mxc o => some o
  | .mxcap o => some o
  | .mxcapGet o => some o
  | .epi o => some o
  | .hcompact o => some o
  | .tqput o => some o
  | .tqget o => some o
  | .tdec o => some o
  | .tdset o => some o
  | .tdbind o => some o
  | .launch o => some o
  | .gcont o => some o
  | .gscan o => some o
  | .a2a o => some o
  | .sysrd o => some o
  | .sysrdB o => some o
  | .syswr o => some o
  | .syswrB o => some o
  | .tret o => some o
  | .tretSkip o => some o
  | .tretLeave o => some o
  | .tretKill o => some o
  | .svc o => some o
  | .brk o => some o
  | .rtset o => some o
  | .rtget o => some o
  | .ctxsave o => some o
  | .ctxload o => some o
  | .kills o => some o
  | .killsResume o => some o
  | .snap o => some o
  | .halt_ o => some o
  | .wfe o => some o
  | .orphan o => some o
  | .gswitch o => some o
  | .tmsg o => some o
  | .vshareApply => none
  | .registerEvict => none
  | .registerFetch => none
  | .resultWriteback => none
  | .presTimeout => none
  | .xputArrival => none
  | .vectorQuarterIssue => none
  | .vectorResult => none
  | .followerIssue => none
  | .groupForm => none
  | .gjoinTimeout => none
  | .superstepBoundary => none
  | .accessPerform => none
  | .loadResult => none
  | .storeAck => none
  | .atomicPerform => none
  | .watchMade => none
  | .watchWake => none
  | .watchRetry => none
  | .qsendArrival => none
  | .qsendAnswer => none
  | .qsendResend => none
  | .ringAppendDone => none
  | .receiveQueueRefill => none
  | .scComplete => none
  | .releaseSend => none
  | .guardRequest => none
  | .guardRequestResend => none
  | .guardRelease => none
  | .guardForward => none
  | .grantArrival => none
  | .grantRetry => none
  | .writeBehindComplete => none
  | .wbdone => none
  | .guardPackageFailure => none
  | .homeLostAnswer => none
  | .heapBarrierWake => none
  | .inflDecrement => none
  | .healCas => none
  | .barrierLateTrap => none
  | .relocCommand => none
  | .relocParse => none
  | .flipArrival => none
  | .flipAck => none
  | .relocObjectBusy => none
  | .relocObjectDone => none
  | .relocComplete => none
  | .cnPartial => none
  | .cnInstanceComplete => none
  | .cnResultArrival => none
  | .cnResultUnblock => none
  | .ferArrival => none
  | .ferSlotTimeout => none
  | .ferParentResult => none
  | .ferWaitRelease => none
  | .ferHaltNotice => none
  | .ferResumeNotice => none
  | .a2aParcelWrite => none
  | .a2aContribute => none
  | .copyComplete => none
  | .completionElementPlace => none
  | .getRequestServe => none
  | .remoteAtomicServe => none
  | .getComplete => none
  | .putDataArrival => none
  | .putLocalComplete => none
  | .putRemoteComplete => none
  | .storageIoComplete => none
  | .matrixCommandArrival => none
  | .matrixCommandResend => none
  | .shadowEntry => none
  | .mode_ => none
  | .loadb => none
  | .run_ => none
  | .clear_ => none
  | .matrixCommandComplete => none
  | .matrixNoticeArrival => none
  | .epiStart => none
  | .epiComplete => none
  | .tqRefill => none
  | .tdecApply => none
  | .tdsetApply => none
  | .tdbindApply => none
  | .releasedRecordPush => none
  | .barRelease => none
  | .barTimeout => none
  | .takeTrap => none
  | .teamSwapOut => none
  | .teamRestore => none
  | .gangSwitch => none
  | .gangSave => none
  | .gangRestore => none
  | .falloutPhase => none
  | .epiSwitchTimeout => none
  | .escalationArrival => none
  | .trcNoticeArrival => none
  | .remoteRejection => none
  | .mtuAccessDecide => none
  | .mtuParkRetry => none
  | .sqeFillRequest => none
  | .sqeFillComplete => none
  | .mtuInstallNotice => none
  | .sqeFillFail => none
  | .sqeCommandTimeout => none
  | .parkedAccessAnswer => none
  | .parkedAccessFail => none
  | .faultServe => none
  | .pageMigrationArrival => none
  | .migrationAck => none
  | .evictWritebackComplete => none
  | .linkFlitReceive => none
  | .linkNak => none
  | .linkAck => none
  | .transportPacketArrival => none
  | .transportAck => none
  | .transportResend => none
  | .laneLoss => none
  | .linkRetrainDone => none
  | .bandwidthEventArrival => none
  | .keepaliveSend => none
  | .keepaliveTimeout => none
  | .packageFailureDeclare => none
  | .failureNotice => none
  | .hostMemAccess => none
  | .crzDoor => none
  | .identify => none
  | .negotiate => none
  | .patch_ => none
  | .partMake => none
  | .partEnd => none
  | .tenantKeyErase => none
  | .grant_ => none
  | .map_ => none
  | .own_ => none
  | .evict => none
  | .route_ => none
  | .hostmap => none
  | .job_ => none
  | .log_ => none
  | .unsupportedCommand => none
  | .gangPlace => none
  | .jobEnd => none
  | .tileClear => none
  | .tduJdone => none
  | .tduJkill => none
  | .tduQbaseWrite => none
  | .tduDcbaseWrite => none
  | .registerWrite => none
  | .partitionRegisterPropagate => none
  | .tstatWrite => none
  | .orphstatWrite => none
  | .orphstatRead => none
  | .sliceWrite => none
  | .snapctlWrite => none
  | .trcPop => none
  | .trcLostRead => none
  | .ferPstatRead => none
  | .ferEvlostRead => none
  | .debugStopRequest => none
  | .debugStop => none
  | .debugResume => none
  | .tduStep => none
  | .stepDone => none
  | .tduStepstRead => none
  | .tduTrbaseWrite => none
  | .traceSample => none
  | .snapshotFire => none
  | .lifetimeCounterUpdate => none
  | .macroScrub => none
  | .powerOn => none
  | .thermalTrip => none
  | .getVersion => none
  | .getCapabilities => none
  | .negotiateAlgorithms => none
  | .getDigests => none
  | .getCertificate => none
  | .challenge => none
  | .getMeasurements => none
  | .powerLoss => none
  | .ssdPortLinkChange => none
  | .wfeTimeout => none
  | .tileFailure => none

/-- The page, opcode and variant of an encoded instruction (R202); none for an event. -/
def Instr.code : Instr → Option (Nat × Nat × Nat)
  | .udf _ => some (0, 0, 0)
  | .add _ => some (0, 1, 0)
  | .sub_ _ => some (0, 2, 0)
  | .and_ _ => some (0, 3, 0)
  | .or_ _ => some (0, 4, 0)
  | .xor_ _ => some (0, 5, 0)
  | .shl _ => some (0, 6, 0)
  | .shr _ => some (0, 7, 0)
  | .sra _ => some (0, 8, 0)
  | .mul_ _ => some (0, 9, 0)
  | .mov _ => some (0, 10, 0)
  | .addi _ => some (0, 11, 0)
  | .li _ => some (0, 12, 0)
  | .slt _ => some (0, 13, 0)
  | .sltu _ => some (0, 14, 0)
  | .seq_ _ => some (0, 15, 0)
  | .beq _ => some (0, 16, 0)
  | .bne _ => some (0, 17, 0)
  | .blt _ => some (0, 18, 0)
  | .bge _ => some (0, 19, 0)
  | .bltu _ => some (0, 20, 0)
  | .bgeu _ => some (0, 21, 0)
  | .jmp _ => some (0, 22, 0)
  | .jal _ => some (0, 23, 0)
  | .jalr _ => some (0, 24, 0)
  | .ldd _ => some (0, 25, 0)
  | .ldw _ => some (0, 26, 0)
  | .std _ => some (0, 27, 0)
  | .stw _ => some (0, 28, 0)
  | .padd _ => some (0, 29, 0)
  | .qadv _ => some (0, 30, 0)
  | .mulh _ => some (1, 0, 0)
  | .mulhu _ => some (1, 1, 0)
  | .div_ _ => some (1, 2, 0)
  | .divu _ => some (1, 3, 0)
  | .rem_ _ => some (1, 4, 0)
  | .remu _ => some (1, 5, 0)
  | .min_ _ => some (1, 6, 0)
  | .max_ _ => some (1, 7, 0)
  | .minu _ => some (1, 8, 0)
  | .maxu _ => some (1, 9, 0)
  | .clz _ => some (1, 10, 0)
  | .popc _ => some (1, 11, 0)
  | .bfx _ => some (1, 12, 0)
  | .bfi _ => some (1, 13, 0)
  | .andi _ => some (1, 14, 0)
  | .ori _ => some (1, 15, 0)
  | .xori _ => some (1, 16, 0)
  | .shli _ => some (1, 17, 0)
  | .shri _ => some (1, 18, 0)
  | .srai _ => some (1, 19, 0)
  | .lih _ => some (1, 20, 0)
  | .slti _ => some (1, 21, 0)
  | .loop_ _ => some (1, 22, 0)
  | .loopi _ => some (1, 23, 0)
  | .pushb _ => some (1, 24, 0)
  | .brq _ => some (1, 25, 0)
  | .fadd _ => some (1, 26, 0)
  | .fmul _ => some (1, 27, 0)
  | .ffma _ => some (1, 28, 0)
  | .fcmp _ => some (1, 29, 0)
  | .fcvt _ => some (1, 30, 0)
  | .ldb _ => some (2, 0, 0)
  | .ldbu _ => some (2, 1, 0)
  | .ldh _ => some (2, 2, 0)
  | .ldhu _ => some (2, 3, 0)
  | .ldwu _ => some (2, 4, 0)
  | .stb _ => some (2, 5, 0)
  | .sth _ => some (2, 6, 0)
  | .ldacq _ => some (2, 7, 0)
  | .strel _ => some (2, 8, 0)
  | .fence _ => some (2, 9, 0)
  | .ptag _ => some (2, 10, 0)
  | .pfmt _ => some (2, 11, 0)
  | .pspan _ => some (2, 12, 0)
  | .qbind _ => some (2, 13, 0)
  | .qfill _ => some (2, 14, 0)
  | .xput _ => some (2, 15, 0)
  | .clrp _ => some (2, 16, 0)
  | .testp _ => some (2, 17, 0)
  | .waitw _ => some (2, 18, 0)
  | .cpy _ => some (2, 19, 0)
  | .get_ _ => some (2, 20, 0)
  | .put_ _ => some (2, 21, 0)
  | .sread _ => some (2, 22, 0)
  | .swrite _ => some (2, 23, 0)
  | .qsend _ => some (2, 24, 0)
  | .qsendWho _ => some (2, 24, 1)
  | .time_ _ => some (2, 25, 0)
  | .self_ _ => some (2, 26, 0)
  | .bind_ _ => some (3, 0, 0)
  | .unbind _ => some (3, 1, 0)
  | .acqs _ => some (3, 2, 0)
  | .acqx _ => some (3, 3, 0)
  | .rel_ _ => some (3, 4, 0)
  | .gstat _ => some (3, 5, 0)
  | .gstatVerger _ => some (3, 5, 1)
  | .gnew _ => some (3, 6, 0)
  | .gfree _ => some (3, 7, 0)
  | .atom _ => some (3, 8, 0)
  | .cas _ => some (3, 9, 0)
  | .atomsc _ => some (3, 10, 0)
  | .ldsc _ => some (3, 11, 0)
  | .stsc _ => some (3, 12, 0)
  | .bar_ _ => some (3, 13, 0)
  | .sstep _ => some (3, 14, 0)
  | .ssync _ => some (3, 15, 0)
  | .ldref _ => some (3, 16, 0)
  | .stref _ => some (3, 17, 0)
  | .ldk _ => some (3, 18, 0)
  | .stk _ => some (3, 19, 0)
  | .kmov _ => some (3, 20, 0)
  | .kmovToG _ => some (3, 20, 1)
  | .kmovFromG _ => some (3, 20, 2)
  | .knew _ => some (3, 21, 0)
  | .kpin _ => some (3, 22, 0)
  | .kunpin _ => some (3, 23, 0)
  | .kcmp _ => some (3, 24, 0)
  | .knull _ => some (3, 25, 0)
  | .vadd _ => some (4, 0, 0)
  | .vsub _ => some (4, 1, 0)
  | .vmul _ => some (4, 2, 0)
  | .vfma _ => some (4, 3, 0)
  | .vmin _ => some (4, 4, 0)
  | .vmax _ => some (4, 5, 0)
  | .vabs _ => some (4, 6, 0)
  | .vneg _ => some (4, 7, 0)
  | .vcmp _ => some (4, 8, 0)
  | .vsel _ => some (4, 9, 0)
  | .vand _ => some (4, 10, 0)
  | .vor _ => some (4, 11, 0)
  | .vxor _ => some (4, 12, 0)
  | .vshl _ => some (4, 13, 0)
  | .vshr _ => some (4, 14, 0)
  | .viadd _ => some (4, 15, 0)
  | .visub _ => some (4, 16, 0)
  | .vimul _ => some (4, 17, 0)
  | .vrcp _ => some (4, 18, 0)
  | .vrsq _ => some (4, 19, 0)
  | .vexp2 _ => some (4, 20, 0)
  | .vlog2 _ => some (4, 21, 0)
  | .vred _ => some (4, 22, 0)
  | .vscan _ => some (4, 23, 0)
  | .vperm _ => some (4, 24, 0)
  | .vbcast _ => some (4, 25, 0)
  | .vext _ => some (4, 26, 0)
  | .vins _ => some (4, 27, 0)
  | .viota _ => some (4, 28, 0)
  | .vcvt _ => some (4, 29, 0)
  | .vmov _ => some (4, 30, 0)
  | .vld _ => some (5, 0, 0)
  | .vst _ => some (5, 1, 0)
  | .vldx _ => some (5, 2, 0)
  | .vstx _ => some (5, 3, 0)
  | .vstm _ => some (5, 4, 0)
  | .vlds _ => some (5, 5, 0)
  | .vsts _ => some (5, 6, 0)
  | .vtopk _ => some (5, 7, 0)
  | .vbscale _ => some (5, 8, 0)
  | .gjoin _ => some (5, 9, 0)
  | .gleave _ => some (5, 10, 0)
  | .rejoin _ => some (5, 11, 0)
  | .vshare _ => some (5, 12, 0)
  | .start_ _ => some (6, 0, 0)
  | .startp _ => some (6, 1, 0)
  | .stop_ _ => some (6, 2, 0)
  | .joins _ => some (6, 3, 0)
  | .live_ _ => some (6, 4, 0)
  | .liveGet _ => some (6, 4, 1)
  | .yield _ => some (6, 5, 0)
  | .mxc _ => some (6, 6, 0)
  | .mxcap _ => some (6, 7, 0)
  | .mxcapGet _ => some (6, 7, 1)
  | .epi _ => some (6, 8, 0)
  | .hcompact _ => some (6, 9, 0)
  | .tqput _ => some (6, 10, 0)
  | .tqget _ => some (6, 11, 0)
  | .tdec _ => some (6, 12, 0)
  | .tdset _ => some (6, 13, 0)
  | .tdbind _ => some (6, 14, 0)
  | .launch _ => some (6, 15, 0)
  | .gcont _ => some (6, 16, 0)
  | .gscan _ => some (6, 17, 0)
  | .a2a _ => some (6, 18, 0)
  | .sysrd _ => some (7, 0, 0)
  | .sysrdB _ => some (7, 0, 1)
  | .syswr _ => some (7, 1, 0)
  | .syswrB _ => some (7, 1, 1)
  | .tret _ => some (7, 2, 0)
  | .tretSkip _ => some (7, 2, 1)
  | .tretLeave _ => some (7, 2, 2)
  | .tretKill _ => some (7, 2, 3)
  | .svc _ => some (7, 3, 0)
  | .brk _ => some (7, 4, 0)
  | .rtset _ => some (7, 5, 0)
  | .rtget _ => some (7, 6, 0)
  | .ctxsave _ => some (7, 7, 0)
  | .ctxload _ => some (7, 8, 0)
  | .kills _ => some (7, 9, 0)
  | .killsResume _ => some (7, 9, 1)
  | .snap _ => some (7, 10, 0)
  | .halt_ _ => some (7, 11, 0)
  | .wfe _ => some (7, 12, 0)
  | .orphan _ => some (7, 13, 0)
  | .gswitch _ => some (7, 14, 0)
  | .tmsg _ => some (7, 15, 0)
  | .vshareApply => none
  | .registerEvict => none
  | .registerFetch => none
  | .resultWriteback => none
  | .presTimeout => none
  | .xputArrival => none
  | .vectorQuarterIssue => none
  | .vectorResult => none
  | .followerIssue => none
  | .groupForm => none
  | .gjoinTimeout => none
  | .superstepBoundary => none
  | .accessPerform => none
  | .loadResult => none
  | .storeAck => none
  | .atomicPerform => none
  | .watchMade => none
  | .watchWake => none
  | .watchRetry => none
  | .qsendArrival => none
  | .qsendAnswer => none
  | .qsendResend => none
  | .ringAppendDone => none
  | .receiveQueueRefill => none
  | .scComplete => none
  | .releaseSend => none
  | .guardRequest => none
  | .guardRequestResend => none
  | .guardRelease => none
  | .guardForward => none
  | .grantArrival => none
  | .grantRetry => none
  | .writeBehindComplete => none
  | .wbdone => none
  | .guardPackageFailure => none
  | .homeLostAnswer => none
  | .heapBarrierWake => none
  | .inflDecrement => none
  | .healCas => none
  | .barrierLateTrap => none
  | .relocCommand => none
  | .relocParse => none
  | .flipArrival => none
  | .flipAck => none
  | .relocObjectBusy => none
  | .relocObjectDone => none
  | .relocComplete => none
  | .cnPartial => none
  | .cnInstanceComplete => none
  | .cnResultArrival => none
  | .cnResultUnblock => none
  | .ferArrival => none
  | .ferSlotTimeout => none
  | .ferParentResult => none
  | .ferWaitRelease => none
  | .ferHaltNotice => none
  | .ferResumeNotice => none
  | .a2aParcelWrite => none
  | .a2aContribute => none
  | .copyComplete => none
  | .completionElementPlace => none
  | .getRequestServe => none
  | .remoteAtomicServe => none
  | .getComplete => none
  | .putDataArrival => none
  | .putLocalComplete => none
  | .putRemoteComplete => none
  | .storageIoComplete => none
  | .matrixCommandArrival => none
  | .matrixCommandResend => none
  | .shadowEntry => none
  | .mode_ => none
  | .loadb => none
  | .run_ => none
  | .clear_ => none
  | .matrixCommandComplete => none
  | .matrixNoticeArrival => none
  | .epiStart => none
  | .epiComplete => none
  | .tqRefill => none
  | .tdecApply => none
  | .tdsetApply => none
  | .tdbindApply => none
  | .releasedRecordPush => none
  | .barRelease => none
  | .barTimeout => none
  | .takeTrap => none
  | .teamSwapOut => none
  | .teamRestore => none
  | .gangSwitch => none
  | .gangSave => none
  | .gangRestore => none
  | .falloutPhase => none
  | .epiSwitchTimeout => none
  | .escalationArrival => none
  | .trcNoticeArrival => none
  | .remoteRejection => none
  | .mtuAccessDecide => none
  | .mtuParkRetry => none
  | .sqeFillRequest => none
  | .sqeFillComplete => none
  | .mtuInstallNotice => none
  | .sqeFillFail => none
  | .sqeCommandTimeout => none
  | .parkedAccessAnswer => none
  | .parkedAccessFail => none
  | .faultServe => none
  | .pageMigrationArrival => none
  | .migrationAck => none
  | .evictWritebackComplete => none
  | .linkFlitReceive => none
  | .linkNak => none
  | .linkAck => none
  | .transportPacketArrival => none
  | .transportAck => none
  | .transportResend => none
  | .laneLoss => none
  | .linkRetrainDone => none
  | .bandwidthEventArrival => none
  | .keepaliveSend => none
  | .keepaliveTimeout => none
  | .packageFailureDeclare => none
  | .failureNotice => none
  | .hostMemAccess => none
  | .crzDoor => none
  | .identify => none
  | .negotiate => none
  | .patch_ => none
  | .partMake => none
  | .partEnd => none
  | .tenantKeyErase => none
  | .grant_ => none
  | .map_ => none
  | .own_ => none
  | .evict => none
  | .route_ => none
  | .hostmap => none
  | .job_ => none
  | .log_ => none
  | .unsupportedCommand => none
  | .gangPlace => none
  | .jobEnd => none
  | .tileClear => none
  | .tduJdone => none
  | .tduJkill => none
  | .tduQbaseWrite => none
  | .tduDcbaseWrite => none
  | .registerWrite => none
  | .partitionRegisterPropagate => none
  | .tstatWrite => none
  | .orphstatWrite => none
  | .orphstatRead => none
  | .sliceWrite => none
  | .snapctlWrite => none
  | .trcPop => none
  | .trcLostRead => none
  | .ferPstatRead => none
  | .ferEvlostRead => none
  | .debugStopRequest => none
  | .debugStop => none
  | .debugResume => none
  | .tduStep => none
  | .stepDone => none
  | .tduStepstRead => none
  | .tduTrbaseWrite => none
  | .traceSample => none
  | .snapshotFire => none
  | .lifetimeCounterUpdate => none
  | .macroScrub => none
  | .powerOn => none
  | .thermalTrip => none
  | .getVersion => none
  | .getCapabilities => none
  | .negotiateAlgorithms => none
  | .getDigests => none
  | .getCertificate => none
  | .challenge => none
  | .getMeasurements => none
  | .powerLoss => none
  | .ssdPortLinkChange => none
  | .wfeTimeout => none
  | .tileFailure => none

/-- Why a word sequence is refused at decode (R204): ILLEGAL with a reason, or QUEUE_KIND with TVALUE. -/
inductive DecErr where
  | illegal (reason : Nat)
  | queueKind (tvalue : Nat)
deriving DecidableEq, Repr

/-- The check of one operand number against its field's kind (R200, R99). -/
def Kind.check (kd : Kind) (n : Nat) : Option DecErr :=
  match kd with
  | .g => none
  | .gn => if 32 ≤ n ∧ n < 48 then some (.illegal 7) else none
  | .gq => if 32 ≤ n ∧ n < 48 then some (.queueKind (n - 32)) else none
  | .v => if n < 32 then none else if n < 48 then some (.queueKind (n - 32)) else some (.illegal 7)
  | .k => if n < 16 then none else if n < 32 then some (.illegal 7)
          else if n < 48 then some (.queueKind (n - 32)) else some (.illegal 7)
  | .h => if 32 ≤ n ∧ n < 48 then none else some (.queueKind (256 + n))
  | .z => if n = 0 then none else some (.illegal 7)
  | .bits => none
  | .bits4 => if n < 16 then none else some (.illegal 7)

/-- A last-use bit may stand only on a field that reads an operand (R204 step 8, R212). -/
def Kind.checkLast (kd : Kind) (l : Bool) : Option DecErr :=
  if l && (kd == .z || kd == .bits || kd == .bits4) then some (.illegal 7) else none

/-- UDF accepts any fields (R234). -/
def Row.isUdf (r : Row) : Bool := r.page == 0 && r.op == 0

/-- The kind of B: VBCAST with an EXI takes a vector (R298). -/
def Row.bKind (r : Row) (o : Ops) : Kind :=
  if r.page == 4 && r.op == 25 && !o.xi.isEmpty then .v else if o.exr then r.b1 else r.b0

/-- FENCE leaves its imm6 unused (R258). -/
def Row.immUnused (r : Row) (o : Ops) : Bool := r.page == 2 && r.op == 9 && o.lo != 0

/-- The operand checks of step 8 (R204), A then B then C, then an unused immediate. -/
def Row.check8 (r : Row) (o : Ops) : Option DecErr :=
  if r.isUdf then none
  else
    let ka := if o.exr then r.a1 else r.a0
    let kb := if r.form == .r then r.bKind o else .z
    (ka.check o.a.toNat).or <| (ka.checkLast o.la).or <| (kb.check o.b.toNat).or <| (kb.checkLast o.l).or <|
      (if o.exr then r.c1.check o.c.toNat else none).or <| if r.immUnused o then some (.illegal 7) else none

/-- The number an EXI list holds, the first most significant (R196). -/
def xiNat : List (BitVec 9) → Nat → Nat
  | [], n => n
  | x :: xs, n => xiNat xs (n * 512 + x.toNat)

/-- The immediate bits of form R (R196): value and width. -/
def Ops.bits (o : Ops) : Nat := xiNat o.xi 0

/-- The variant of an opcode that its immediate selects (R251, R266, R277, R316, R318, R379, R383, R378). -/
def variantOf (page op bits nxi : Nat) : Nat :=
  match page, op with
  | 2, 24 => if bits.testBit 2 then 1 else 0
  | 3, 5 => if bits % 4 = 1 ∨ bits % 4 = 2 then 1 else 0
  | 3, 20 => if bits % 4 = 3 then 0 else bits % 4
  | 6, 4 => bits % 2
  | 6, 7 => bits % 2
  | 7, 0 => if nxi = 0 then 1 else 0
  | 7, 1 => if nxi = 0 then 1 else 0
  | 7, 2 => bits % 4
  | 7, 9 => bits % 2
  | _, _ => 0

/-- The prefixes an instruction of this row and these operands carries in its shortest encoding. -/
def Row.prefixes (r : Row) (o : Ops) : Nat :=
  (if r.page = 0 then 0 else 1) + (if o.exr then 1 else 0) + (if o.exq.isSome then 1 else 0) + o.xi.length

/-- The fields that the form and the prefixes can hold (R193, R197, R199). -/
def Row.shapeOk (r : Row) (o : Ops) : Bool :=
  match r.form with
  | .r => decide (o.lo = 0) && (o.exr || (decide (o.a.toNat < 32) && decide (o.b.toNat < 32) && decide (o.c = 0) && !o.la))
  | .i => decide (o.b = 0) && !o.l && decide (o.lo.toNat < 64)
          && (o.exr || (decide (o.a.toNat < 32) && decide (o.c = 0) && !o.la))
  | .j => decide (o.a = 0) && decide (o.b = 0) && decide (o.c = 0) && !o.l && !o.la && !o.exr && o.exq.isNone

/-- The operands that a row accepts (R195 to R204, steps 1, 6, 7 and 8, and the choice of variant). -/
def Row.opsOk (r : Row) (o : Ops) : Bool :=
  r.shapeOk o && (!r.isUdf || o == {}) && decide (o.xi.length ≤ 3) && decide (r.prefixes o ≤ 4)
  && (!r.exrReq || o.exr) && decide (r.xiMin ≤ o.xi.length) && (r.check8 o).isNone
  && decide (variantOf r.page r.op o.bits o.xi.length = r.variant)

/-- A well-formed instruction: its words exist and decode. UDF has a trap for its meaning and no operands that its row
checks, so its canonical term is the all-zero word. An event has no words. -/
def Instr.wf (i : Instr) : Bool :=
  match i.code, i.ops? with
  | some (p, op, v), some o =>
    match rowOf p op v with
    | some r => r.opsOk o
    | none => false
  | _, _ => false

end Sys2Proof
end

