-- ==== Sys2Proof/Decode.lean ====
section
/-!
DEFINITION. Decoding: from the words of an instruction to its constructor, or the reason of its refusal (R190 to R204,
spec/09); then the encoder.
-/

namespace Sys2Proof

/-- Bits [lo + w - 1 : lo] of an instruction word. -/
abbrev hw (x : BitVec 16) (lo w : Nat) : BitVec w := x.extractLsb' lo w

/-- A word with op 31 is a prefix (R193). -/
def isPrefixWord (x : BitVec 16) : Bool := hw x 11 5 == 31#5

/-- The prefixes collected so far, then the base word (R194, R195). -/
structure Raw where
  xi : List (BitVec 9) := []
  exr : Option (BitVec 9) := none
  exp : Option (BitVec 9) := none
  exq : Option (BitVec 9) := none
  base : BitVec 16 := 0
deriving DecidableEq, Repr

/-- The number of words of an instruction: up to and including the first word that is no prefix, at most five
(R190, R195). None where the list ends first. -/
def lengthOf : Nat → List (BitVec 16) → Option Nat
  | 0, _ => some 0
  | _, [] => none
  | fuel + 1, x :: xs =>
    if isPrefixWord x then (lengthOf fuel xs).map (· + 1) else some 1

/-- Adds one prefix word; none where it breaks a limit of R195. -/
def Raw.addPrefix (r : Raw) (x : BitVec 16) : Option Raw :=
  let p := hw x 0 9
  match (hw x 9 2).toNat with
  | 0 => if r.xi.length < 3 then some (Raw.mk (r.xi ++ [p]) r.exr r.exp r.exq r.base) else none
  | 1 => if r.exr.isNone then some (Raw.mk r.xi (some p) r.exp r.exq r.base) else none
  | 2 => if r.exp.isNone then some (Raw.mk r.xi r.exr (some p) r.exq r.base) else none
  | _ => if r.exq.isNone then some (Raw.mk r.xi r.exr r.exp (some p) r.base) else none

/-- Reads at most `fuel` prefixes and the base word; none where a limit of R195 is broken. -/
def parse : Nat → Raw → List (BitVec 16) → Option Raw
  | _, _, [] => none
  | 0, r, x :: _ => if isPrefixWord x then none else some (Raw.mk r.xi r.exr r.exp r.exq x)
  | fuel + 1, r, x :: xs =>
    if isPrefixWord x then
      match r.addPrefix x with
      | some r' => parse fuel r' xs
      | none => none
    else some (Raw.mk r.xi r.exr r.exp r.exq x)

/-- The operands of form R (R193, R197). -/
def Raw.opsR (r : Raw) : Ops :=
  match r.exr with
  | none => Ops.mk (0#1 ++ hw r.base 6 5) (0#1 ++ hw r.base 1 5) 0 (hw r.base 0 1 == 1#1) false false r.exq r.xi 0
  | some p =>
    Ops.mk (p.extractLsb' 2 1 ++ hw r.base 6 5) (p.extractLsb' 1 1 ++ hw r.base 1 5)
      (p.extractLsb' 0 1 ++ p.extractLsb' 4 5) (hw r.base 0 1 == 1#1) (p.extractLsb' 3 1 == 1#1) true r.exq r.xi 0

/-- The operands of form I (R193, R199). -/
def Raw.opsI (r : Raw) : Ops :=
  match r.exr with
  | none => Ops.mk (0#1 ++ hw r.base 6 5) 0 0 false false false r.exq r.xi (0#5 ++ hw r.base 0 6)
  | some p =>
    Ops.mk (p.extractLsb' 2 1 ++ hw r.base 6 5) 0 (p.extractLsb' 0 1 ++ p.extractLsb' 4 5) false
      (p.extractLsb' 3 1 == 1#1) true r.exq r.xi (0#5 ++ hw r.base 0 6)

/-- The operands of form J (R193). -/
def Raw.opsJ (r : Raw) : Ops := Ops.mk 0 0 0 false false false none r.xi (hw r.base 0 11)

/-- The operands that a form reads. -/
def Raw.opsOf (r : Raw) (f : Form) : Ops :=
  match f with
  | .r => r.opsR
  | .i => r.opsI
  | .j => r.opsJ

/-- Step 6 of R204: a prefix that the form refuses. -/
def Raw.refused (r : Raw) (f : Form) : Bool :=
  match f with
  | .r => false
  | .i => match r.exr with
    | some p => p.extractLsb' 1 1 == 1#1
    | none => false
  | .j => r.exr.isSome || r.exq.isSome

/-- Steps 2 to 8 of R204 on collected words; `feat` says which feature bits are accepted (R1). -/
def Raw.decode (feat : Nat → Bool) (r : Raw) : Except DecErr Instr :=
  let page := (r.exp.getD 0).toNat
  let op := (hw r.base 11 5).toNat
  if page ≥ 8 then .error (.illegal 3)
  else if page = 0 ∧ op = 0 then .error (.illegal 1)
  else
    match rowOf page op (variantOf page op (xiNat r.xi 0) r.xi.length) with
    | none => .error (.illegal 2)
    | some row =>
      if row.feature ≠ 0 ∧ feat row.feature = false then .error (.illegal 8)
      else if r.refused row.form then .error (.illegal 6)
      else
        let o := r.opsOf row.form
        if (row.exrReq && !o.exr) || decide (o.xi.length < row.xiMin) then .error (.illegal 5)
        else
          match row.check8 o with
          | some e => .error e
          | none => .ok (row.build o)

/-- Decoding of a list of words: the instruction, or the check of R204 that fails first. -/
def decodeWords (feat : Nat → Bool) (ws : List (BitVec 16)) : Except DecErr Instr :=
  match parse 4 (Raw.mk [] none none none 0) ws with
  | none => .error (.illegal 4)
  | some r => r.decode feat

/-- The instruction that an accepted sequence names; UDF, whose meaning is its trap, answers for the words R234 gives it. -/
def decode (feat : Nat → Bool) (ws : List (BitVec 16)) : Option Instr :=
  match decodeWords feat ws with
  | .ok i => some i
  | .error (.illegal 1) => some (.udf (Ops.mk 0 0 0 false false false none [] 0))
  | .error _ => none

/-! ### The encoder, from the same tables (R193 to R199, R207) -/

/-- A prefix word (R194). -/
def prefixWord (kind : BitVec 2) (payload : BitVec 9) : BitVec 16 := 31#5 ++ kind ++ payload

/-- The EXR payload (R194). -/
def Ops.exrPayload (o : Ops) : BitVec 9 :=
  o.c.extractLsb' 0 5 ++ (if o.la then 1#1 else 0#1) ++ o.a.extractLsb' 5 1 ++ o.b.extractLsb' 5 1 ++ o.c.extractLsb' 5 1

/-- The base word (R193). -/
def Row.baseWord (r : Row) (o : Ops) : BitVec 16 :=
  match r.form with
  | .r => BitVec.ofNat 5 r.op ++ o.a.extractLsb' 0 5 ++ o.b.extractLsb' 0 5 ++ (if o.l then 1#1 else 0#1)
  | .i => BitVec.ofNat 5 r.op ++ o.a.extractLsb' 0 5 ++ o.lo.extractLsb' 0 6
  | .j => BitVec.ofNat 5 r.op ++ o.lo

/-- The words of a row's instruction, prefixes in the order EXP, EXR, EXQ, EXI (R207). -/
def Row.encode (r : Row) (o : Ops) : List (BitVec 16) :=
  (if r.page = 0 then [] else [prefixWord 2#2 (BitVec.ofNat 9 r.page)])
  ++ (if o.exr then [prefixWord 1#2 o.exrPayload] else [])
  ++ (match o.exq with
    | some p => [prefixWord 3#2 p]
    | none => [])
  ++ o.xi.map (prefixWord 0#2) ++ [r.baseWord o]

/-- The words of a well-formed instruction; no words for an event. -/
def encode (i : Instr) : List (BitVec 16) :=
  match i.code, i.ops? with
  | some (p, op, v), some o =>
    match rowOf p op v with
    | some r => r.encode o
    | none => []
  | _, _ => []

/-! ### The table's numbering -/

/-- The words of an instruction of `nbits` bits whose base word is the low word of `w`, in address order: the table
numbers the base word's bits 15:0 and the prefixes above it, and memory holds the prefixes first (R190). -/
def tableWords : Nat → Nat → List (BitVec 16)
  | 0, _ => []
  | n + 1, w => tableWords n (w / 65536) ++ [BitVec.ofNat 16 w]

/-- The instruction this decoder reads from the bits `w`, numbered as spec/opcode_table.json numbers them, every feature
accepted (R1). -/
def decodeTableWord (nbits w : Nat) : Option Instr := decode (fun _ => true) (tableWords ((nbits + 15) / 16) w)

end Sys2Proof
end

