-- ==== Sys2Proof/Config.lean ====
section
/-!
DEFINITION. What the spec leaves to the implementation, as constants with no value here, and the free values.

Every constant is opaque: nothing in the model or in a proof can evaluate one. notes/assumptions names each.
-/

namespace Sys2Proof.Config

/-- DESIGN CHOICE (log 4): an unpredictable 64-bit value (R3, R41), one for each value of the free counter. -/
opaque freeWord : Nat → Word

/-- DESIGN CHOICE (log 5): the cycles a walk of the page table adds to an access, before it is held to [0, 640] (R408). -/
opaque walkCycles : Nat → Nat

/-- DESIGN CHOICE (log 10): the bytes of a certificate chain, a digest or a signature, which the spec does not give
(R466 to R468). -/
opaque trustBytes : Nat → Nat → List Byte

/-- DESIGN CHOICE (log 10): whether a signature or measurement compares equal (R465, R466, R470). -/
opaque trustOk : Nat → Bool

/-- DESIGN CHOICE (log 4): whether a namespace of an SSD port has logical blocks of 4 KiB; else of 512 bytes (R416). -/
opaque bigBlocks : Nat → Nat → Bool

/-- DESIGN CHOICE (log 112): whether a namespace of an SSD port has another format than those two, so that the port refuses it (R416). -/
opaque otherFormat : Nat → Nat → Bool

/-- DESIGN CHOICE (log 34): the measured SWITCH_MIN of a partition of W by H tiles, in µs (R404). -/
opaque switchMin : Nat → Nat → Nat

/-- DESIGN CHOICE (log 34): the page of 4 KiB at which firmware keeps a package's copy of the domain's heap table (R154). -/
opaque heapTabPage : Nat → Nat

/-- DESIGN CHOICE (log 33): the physical address that firmware assigns to a tile's record in the save area of a gang (R403). -/
opaque saveArea : Nat → Nat → Nat

/-- DESIGN CHOICE (log 34): the fused minimum version of an errata patch table (R470). -/
opaque minPatch : Nat

/-- DESIGN CHOICE (log 79): a partition's right to a namespace of an SSD port, by partition key, port and NSID; the spec says that it is
checked and not where it stands (R262). -/
opaque storageRight : Nat → Nat → Nat → Bool

/-- DESIGN CHOICE (log 77): the register that a core's full file evicts, among those it may (R37): chosen by the part. -/
opaque evictChoice : Nat → Nat → Nat

/-- DESIGN CHOICE (log 92): which of its values a fetch takes of a word that the strand need not yet see as written, by cycle, strand
and address (R191). -/
opaque fetchPick : Nat → Nat → Nat → Nat

end Sys2Proof.Config
end

