-- ==== Sys2Proof/Machine/State.lean ====
section
/-!
DEFINITION. The state of the part as plain data: strands, cores, tiles, packages, everything in flight, and the agenda
of events still due. Numbers that key the tables: core id = package * 8192 + core (R12); strand id = core id * 16 + slot;
tile id = package * 2048 + tile; partition key = package * 64 + partition.
-/

namespace Sys2Proof.Machine

/-- Why a run stops with a fault. -/
inductive Fault where
  /-- For a unit that the state does not have. No meaning of this model raises it: every row of the table has an effect on every
  path. Safe. -/
  | noSuchUnit (what : String)
deriving DecidableEq, Repr

/-- Why an instruction is refused. -/
inductive Refusal where
  /-- For an arm of Dispatch whose meaning is not written. No arm is without one. Safe: nothing would be claimed of it. -/
  | notModelled (mnemonic : String)
  /-- For an instruction whose operands stand in a layout that the spec does not give. No meaning of this model raises it. Safe. -/
  | layoutNotGiven (what : String)
deriving DecidableEq, Repr

/-- The state of a context slot (R26, spec/02). -/
inductive SlotSt where
  | free | ready | waiting | parked | swapped | trapped
deriving DecidableEq, Repr

/-- Where the spill map holds a register (R37, R38): nowhere, in the physical file, parked in an idle bank of it, in an
accumulator column or in the frame, or on its way back (R39). -/
inductive Place where
  | none
  | phys
  | bank (b : Nat)
  | column (c : Nat)
  | frame
  | fetching
deriving DecidableEq, Repr

/-- An instruction that was abandoned while its effect was under way (R374, R400): the record that stands for it (0: none), its address,
INH at that time, and whether it has completed meanwhile. -/
structure Redo where
  id : Nat
  pc : Nat
  inh : Bool
  passed : Bool := false
deriving DecidableEq, Repr

/-- One context slot and its strand (R23 to R29, R35, R36, spec/02; R368, spec/18). Registers g, k and q stand in tables
of State. `busy` lists the registers with a result still to come (R213); `hold` marks a strand whose waiting instruction
another agent completes; `tried`, `readyAt` and `issued` are the issue rules' own counts (R31, R421); `after` are the
accesses that a start releases to the strand (R149), `yieldOn` the strands that a YIELD waits for, with their counts
(R317); `killed` marks a strand that a kill has stopped (R383), `lastPc` the last instruction it issued (R461); `freeAt` is the cycle from
which the slot was last FREE, `trapAt` that of its strand's last trap (R315); `lastAt` is one more than the cycle of its last issue (R38);
`portw` holds the words written to slots of command ports and not yet pushed, by 16 times the handle and the slots beyond the
write count (R97, R100). The strand's own writes issued up to cycle `codeAt` are fetched new; `codeDie` and `codeTile` say so of the
scratchpads of its die and tile; `codeSeen` gives, by strand, the cycle up to which that strand's are, by a hand-over of R149, and
`codeReg` the regions of memory handed over by a grant, with the cycle (R191); `bornAt` is the cycle of the start. `kills` are the registers that a held instruction uses for the last time: they die when it completes (R40,
R389); `redo` is an instruction abandoned under way; `killAt` is one more than the cycle of the kill (R387). -/
structure Slot where
  st : SlotSt := .free
  gen : Nat := 0
  pc : Nat := 0
  xseq : Bool := false
  paired : Bool := false
  partner : Nat := 0
  pairSet : Nat := 0
  team : Nat := 0
  part : Bool := false
  arrived : Bool := false
  pres : Word := 0xFFFFFFFFFFFFFFFF#64
  live : Word := 0xFFFFFFFFFFFFFFFF#64
  wrG : Word := 0#64
  wrK : BitVec 16 := 0
  lc0 : Word := 0#64
  lc1 : Word := 0#64
  lb0 : Word := 0#64
  lb1 : Word := 0#64
  tcause : Nat := 0
  tvalue : Word := 0#64
  tval2 : Word := 0#64
  tepc : Nat := 0
  hbump : Nat := 0
  hlim : Nat := 0
  busy : List Nat := []
  wr1 : Option (Nat × Nat) := none
  waitReg : Option (Nat × Nat) := none
  hold : Bool := false
  ilen : Nat := 1
  readyAt : Nat := 0
  tried : Nat := 0
  issued : Nat := 0
  arrivals : List (Nat × Nat) := []
  fwd : List Fwd := []
  portw : Tab Word := []
  frozen : Bool := false
  heldBy : Nat := 0
  after : List Nat := []
  yieldOn : List (Nat × Nat) := []
  killed : Bool := false
  lastPc : Nat := 0
  freeAt : Nat := 0
  trapAt : Nat := 0
  lastAt : Nat := 0
  codeAt : Nat := 0
  codeDie : Nat := 0
  codeTile : Nat := 0
  codeSeen : Tab Nat := []
  codeReg : List (Nat × Nat × Nat) := []
  bornAt : Nat := 0
  kills : Word := 0#64
  redo : Option Redo := none
  killAt : Nat := 0
deriving DecidableEq, Repr

/-- A bound queue handle (R94, spec/04): kind, engine, channel, size code, header offset, queue index, overflow ring
address, group. -/
structure Handle where
  kind : Nat := 0
  eng : Nat := 0
  ch : Nat := 0
  sz : Nat := 0
  hdr : Nat := 0
  qix : Nat := 0
  osz : Nat := 0
  ring : Nat := 0
  group : Nat := 0
deriving DecidableEq, Repr

/-- One core (R14, R31, spec/01, 02; R368, R372, R374, R384, spec/18; R399, spec/19); `retAt` is the cycle after the one in which slot 0
goes on after its last TRET (R379), `tookAt` one more than the cycle of the last trap that slot 0 took (R387). -/
structure Core where
  modeS : Bool := false
  strict : Bool := false
  tvec : Nat := 0
  tslot : Nat := 0
  inh : Bool := false
  pmode : Bool := false
  retAt : Nat := 0
  tookAt : Nat := 0
  pend : List Nat := []
  dbl : Bool := false
  lost : Bool := false
  ocount : Nat := 0
  orphans : List (Word × Word) := []
  prestmo : Nat := 0
  sendtmo : Nat := 256
  swapthr : Nat := 50000
  tenant : Nat := 0
  part : Nat := 0
  slice : Nat := 1000
  clamped : Bool := false
  switchMin : Nat := 0
  bartmo : Nat := 0
  grptmo : Nat := 0
  heaptab : Nat := 0
  snapSrc : Nat := 0
  snapEvent : Nat := 0
  events : List Nat := []
  wfe : Option (Nat × Nat) := none
  dsel : Tab Word := []
  halted : Bool := false
  gang : Option Nat := none
  lastA : Nat := 10
  lastX : Nat := 10
  usedA : Nat := 0
  usedX : Nat := 0
  weight : Nat := 4
  group : Option Nat := none
  attached : Bool := false
deriving DecidableEq, Repr

/-- The binding behind a user range-table entry (R109, R110, R114, spec/05; R183, spec/08); `acq` is the strand whose acquire is
pending (R119). -/
structure Binding where
  guard : Word := 0#64
  team : Nat := 0
  vlast : Nat := 0
  pend : Bool := false
  qkey : Nat := 0
  acq : Nat := 0
deriving DecidableEq, Repr

/-- A pair-queue set (R32 to R34, spec/02): A to X, X to A, and the branch-outcome queue, whose entries are tagged with
the pushing side (true: X) and the cycle from which the partner may take them. Data entries are slots of free-running
rings. -/
structure PairSet where
  used : Bool := false
  ax : List (Nat × Word) := []
  axR : Nat := 0
  axW : Nat := 0
  xa : List (Nat × Word) := []
  xaR : Nat := 0
  xaW : Nat := 0
  br : List (Bool × Bool × Nat) := []
deriving DecidableEq, Repr

/-- A mesh receive queue (R101 to R104, R472, spec/04): owner slot, ring, ring counts, the filled hardware slots (sender,
payload), ring appends still to be performed, how often the queue has changed its ring, how many entries have come to a hardware
slot, and the numbers of the grants among them that a read has taken (R119). Of the ring's positions, counted without end: `ahead` are
the entries performed before an earlier one, `gaps` those that hold nothing because their store failed, `spent` those that hold a grant
which a read has taken. -/
structure RxQ where
  owner : Option Nat := none
  ring : Nat := 0
  osz : Nat := 0
  rrd : Nat := 0
  rwr : Nat := 0
  pendApp : Nat := 0
  epoch : Nat := 0
  takes : Nat := 0
  read : List Nat := []
  ents : List (Word × Word) := []
  ahead : List Nat := []
  gaps : List Nat := []
  spent : List Nat := []
deriving DecidableEq, Repr

/-- A combine extract stream (R175, R176, spec/08): the strand that bound it and its elements (value, status). -/
structure Ext where
  owner : Option Nat := none
  inj : Option Nat := none
  ents : List (Word × Word) := []
  waiting : List Contrib := []
deriving DecidableEq, Repr

/-- What an access does when it is performed (R236, R254, R255, R271). -/
inductive AccKind where
  | load | store | atom | cas | watch | fetch | msg | put
deriving DecidableEq, Repr

/-- How a loaded value is widened (R59, R238): zero- or sign-extended from so many bits, or converted from a format. -/
inductive Ext1 where
  | zext | sext (bits : Nat) | fmt (code : Nat)
deriving DecidableEq, Repr

/-- Where an answer goes: nowhere, an operand register, a reference field, a handle's binding, a quarter of a vector
instruction, a queue's ring entry at its position, an engine's command, the barrier of a heap access, the host (R450). -/
inductive Ret where
  | none
  | reg (dst : Nat) (ext : Ext1)
  | kref (dst : Nat)
  | handle (h : Nat)
  | lane (vid quarter : Nat) (code : Nat)
  | ring (rkey pos : Nat) (m : Msg)
  | engine (cmd : Nat)
  | heap (hop : Nat)
  | host (pkg tag : Nat)
deriving DecidableEq, Repr

/-- An access in flight (R236, spec/11; R396, R397, spec/19; R411 to R413, spec/20): what it is, its strand and the
instruction that issued it, its address, the key of its first byte once known, its bank, its data, where its answer
goes, the cycle it is performed and the cycles from there to its answer, what it holds (a request slot, a remote-store
entry), the gang it belongs to (R400), the cycle it parked (R463), whether the slow path of a barrier sent it, the
number of the header's store that is performed before it (R278; 0 where there is none), the cycle of its issue (R475). -/
structure Acc where
  kind : AccKind
  sid : Nat
  gen : Nat
  ipc : Nat
  order : Nat
  dpkg : Nat
  dev : Bool
  va : Nat
  size : Nat
  key : Option Nat
  bank : Nat
  data : List Byte := []
  cmp : List Byte := []
  op : Nat := 0
  ret : Ret := .none
  perfAt : Nat
  ansLat : Nat
  slot : Bool := false
  remote : Bool := false
  rejected : Bool := false
  performed : Bool := false
  answered : Bool := false
  parked : Bool := false
  decided : Bool := false
  acq : Bool := false
  sc : Option (Nat × Nat) := none
  store : Bool := false
  tenant : Nat := 0
  part : Nat := 0
  xchg : Bool := false
  tvalue : Word := 0#64
  heap : Nat := 64
  infl : Nat := 0
  cells : List Host.Cell := []
  gang : Option Nat := none
  parkAt : Nat := 0
  late : Bool := false
  behind : Nat := 0
  issuedAt : Nat := 0
deriving DecidableEq, Repr

/-- An access through a reference, under the number of the access it ends in (R160, R161, R164, R276, R279): 0 LDK,
1 LDREF, 2 STK or STREF, 3 KPIN, 4 KUNPIN, 5 KCMP, 6 KCMP of one register; the stage: 0 page entry read, 1 object entry read, 2 INFL + 1, 3 waiting
for DONE, 4 field or header access; the reference at its barrier, the one a trap reports, the k register to rewrite (16:
none), the field offset, the destination, the address of the object entry, whether the field came from an old copy, the
field's address and the value it held, the reference and register of KCMP still to come, the result of its first; the address of the
page entry of its reference (and of KCMP's second), one more than the address of a read
that waits for a request slot, and whether that is INFL + 1; the stage 5: the heap entry of a loaded reference read. -/
structure HeapOp where
  kind : Nat
  stage : Nat := 0
  second : Bool := false
  k : Word
  tv : Word
  kn : Nat := 16
  off : Int := 0
  dst : Nat := 0
  entry : Nat := 0
  oldc : Bool := false
  field : Nat := 0
  v0 : Word := 0#64
  kb : Word := 0#64
  knb : Nat := 16
  r1 : Nat := 0
  pva : Nat := 0
  pvb : Nat := 0
  want : Nat := 0
  inc : Bool := false
deriving DecidableEq, Repr

/-- One vector instruction in a core's vector queue (R44, R282 to R284, spec/12): the row's page and opcode, the strand,
the v register it writes (32: none) or the g register VEXT writes, the v registers it reads, the fields A, B and C, the
immediate, a scalar read at push; of a memory instruction the format, the bytes of an element, the address, each lane's
address, the bytes that have arrived (by quarter and address); the quarters issued, the quarters whose lanes are written,
the cycle of the push. -/
structure VEnt where
  vid : Nat
  page : Nat
  op : Nat
  sid : Nat
  gen : Nat
  ipc : Nat
  order : Nat
  dst : Nat := 32
  gdst : Nat := 0
  reads : List Nat := []
  va : Nat := 0
  vb : Nat := 0
  vc : Nat := 0
  imm : Nat := 0
  nxi : Nat := 0
  scalar : Word := 0#64
  fmt : Nat := 0
  z : Nat := 4
  addr : Nat := 0
  lanes : List Nat := []
  cells : List Host.Cell := []
  issued : List Nat := []
  done : List Nat := []
  pushed : Nat := 0
deriving DecidableEq, Repr

/-- A command of an engine, from its push to its last element (R259 to R264, R319, R327, R332, R346): engine, channel,
the pushing strand, its port handle, the descriptor, the target tile, the rank of acceptance, progress, the list
of pages that a relocation has read and checked (R333), and the status its element will carry. -/
structure Cmd where
  eng : Nat
  ch : Nat := 0
  op : Nat := 0
  sid : Nat
  gen : Nat
  ipc : Nat := 0
  handle : Nat := 0
  desc : List Word
  tile : Nat := 0
  rank : Nat := 0
  cpl : Bool := false
  elem : Bool := false
  status : Nat := 0
  nvst : Nat := 0
  resumed : Bool := false
  row : Nat := 0
  off : Nat := 0
  step : Nat := 0
  data : List Byte := []
  aux : List Nat := []
  pages : Nat := 0
  nstay : Nat := 0
  nextAt : Nat := 0
  placed : Bool := false
  xchg : Bool := false
  slotFree : Bool := false
  result : Word := 0#64
  user : Nat := 0
  entries : List Nat := []
  list : List Nat := []
  gang : Option Nat := none
  acc : Nat := 0
deriving DecidableEq, Repr

/-- One tile (R14, R45, R318 to R331, R428). -/
structure Tile where
  failed : Bool := false
  tenant : Nat := 0
  part : Option Nat := none
  allow : Word := 0#64
  fmt : Nat := 2
  nmac : Nat := 0
  loaded : List Nat := []
  cap : Nat := 0
  capNext : List (Nat × Nat) := []
  inq : List Nat := []
  shadow : Option Nat := none
  active : Option Nat := none
  beside : List Nat := []
  einq : List Nat := []
  eactive : Option Nat := none
  rank : Nat := 0
  errs : List (Nat × Nat) := []
  ptr : List Nat := [0, 0, 0, 0]
  deficit : List (List Nat) := [[0, 0, 0, 0], [0, 0, 0, 0], [0, 0, 0, 0], [0, 0, 0, 0]]
  copyq : List (List Nat) := [[], [], [], []]
deriving DecidableEq, Repr

/-- The state of a guard (R107, R126, spec/05). -/
inductive GSt where
  | free | shared | excl | broken | uninit
deriving DecidableEq, Repr

/-- A guard's descriptor and queue (R107). A holder is a core id and a range-table entry, with 64 times one more than the
gang's number added. `lastMsg` is one more than the cycle of the Verger's last message for it (R125); `lastKey` the memory key of
the last exclusive holder's image (R122). -/
structure Guard where
  st : GSt := .uninit
  home : Bool := false
  tenant : Nat := 0
  ver : Nat := 0
  wbver : Nat := 0
  base : Nat := 0
  nsb : Nat := 0
  last : Word := 0#64
  lastRt : Nat := 0
  lastCid : Nat := 0
  lastKey : Nat := 0
  lastv : Bool := false
  stamps : Nat := 0
  holders : List (Nat × Nat) := []
  binds : List (Nat × Nat) := []
  waiting : List GReq := []
  lastMsg : Nat := 0
deriving DecidableEq, Repr

/-- A release waiting for earlier accesses (R123), or a write-behind in progress (R124); `key` is the memory key of the image. -/
structure WriteBehind where
  rel : GRel
  ver : Nat := 0
  issued : Nat := 0
  sid : Nat := 0
  key : Nat := 0
  accs : List Nat := []
  sent : Bool := false
  handled : Bool := false
  data : List Byte := []
deriving DecidableEq, Repr

/-- One instance of a combining group at a node (R173, R174, spec/08): its cores' contributions, its children's partials,
whether its own partial has left. -/
structure CnInst where
  seq : Nat
  cores : List (Nat × Word) := []
  kids : List (Nat × Contrib) := []
  sent : Bool := false
deriving DecidableEq, Repr

/-- Where a core's result of an instance goes (R175, R345, R347): the strand that contributed, and 0 its extract handle,
1 the register `dst` of a GSCAN that the instruction at `npc` follows, 2 the A2A command `cmd`. -/
structure CnWait where
  sid : Nat
  gen : Nat := 0
  kind : Nat := 0
  dst : Nat := 0
  npc : Nat := 0
  cmd : Nat := 0
deriving DecidableEq, Repr

/-- A reduction slot of a Pavilion (R179, R180): 0 FREE, 1 OPEN, 2 CLOSED; its key, its arrivals, its time. -/
structure FerSlot where
  st : Nat := 0
  tenant : Nat := 0
  group : Nat := 0
  seq : Nat := 0
  arr : List FerPart := []
  opened : Nat := 0
  spent : Nat := 0
  halted : Bool := false
  memberHalted : Bool := false
  waitParent : Bool := false
  kept : Contrib := ⟨[], 0, 0⟩
  waiting : List FerPart := []
deriving DecidableEq, Repr

/-- A Pavilion's registers (R448; FER_LNOTIFY and FER_EVLOST by partition), the groups whose route holds a halt notice (R181), and
the results that have left for reducing switches, each by switch number with its SEQ (R449). -/
structure Fer where
  lnotify : List (Nat × Word) := []
  toSwitch : List (Nat × Contrib) := []
  late : Nat := 0
  wait : Nat := 0
  tsfree : Nat := 33554432
  resends : Nat := 0
  noroute : Nat := 0
  halts : List Nat := []
  evlost : List (Nat × Nat) := []
deriving DecidableEq, Repr

/-- A record in a task queue: its push, and the cycle from which it may be taken (R336, R353). -/
structure TaskRec where
  words : List Word
  pushed : Nat
  ready : Nat := 0
deriving DecidableEq, Repr

/-- A task queue of a TDU slice (R336, R437). -/
structure TduQ where
  en : Bool := false
  part : Nat := 0
  owned : Bool := false
  rsz : Nat := 0
  base : Nat := 0
  rd : Nat := 0
  wr : Nat := 0
  ents : List TaskRec := []
  ages : List Nat := []
  refill : Bool := false
deriving DecidableEq, Repr

/-- A job (R429 to R431, R434): 0 waiting, 1 resident, 2 saved, 3 ending. -/
structure Job where
  num : Nat
  desc : List Word
  super : Bool
  fromHost : Bool := false
  seq : Nat
  st : Nat := 0
  gid : Nat := 0
  done : List Nat := []
  tag : Nat := 0
  status : Nat := 0
  after : List Nat := []
  codeSeen : Tab Nat := []
deriving DecidableEq, Repr

/-- A partition (R427, R432, R437, R438, R457, R368, R386, R400). `switching` is 0 between switches, 1 while a switch
drains, 2 while it saves and clears, 3 at its step 5; `stepping` is the strand that TDU_STEP names, with 0 until it is tried and
then one more than the next record number. -/
structure Part where
  made : Bool := false
  tenant : Nat := 0
  x0 : Nat := 0
  y0 : Nat := 0
  w : Nat := 0
  h : Nat := 0
  tmpl : List (Nat × Word × Word) := []
  tvec : Nat := 0
  allow : Word := 0#64
  grants : List GrantEnt := []
  switchMin : Nat := 0
  heapTab : Nat := 0
  dcbase : Nat := 0
  dcnum : Nat := 0
  zerorel : Nat := 0
  held : List (Word × List Word × Nat) := []
  codeSeen : Tab Nat := []
  jobs : List Job := []
  nextJob : Nat := 1
  stamp : Option Nat := none
  lastSwitch : Option Nat := none
  switching : Nat := 0
  armed : Bool := false
  snapSrc : Nat := 0
  snapEvent : Nat := 0
  snapAt : Option Nat := none
  fired : Bool := false
  snap : List (Nat × Word) := []
  stopreq : Bool := false
  stopped : Bool := false
  bpstop : Bool := false
  stopss : Word := 0#64
  stepDone : Bool := false
  stepWaited : Bool := false
  stepNotReady : Bool := false
  stepping : Option (Nat × Nat) := none
  bps : List Word := [0#64, 0#64, 0#64, 0#64]
  trbase : Nat := 0
  trcfg : Word := 0#64
  trwr : Nat := 0
  imbal : List Word := [0#64, 0#64, 0#64, 0#64]
deriving DecidableEq, Repr

/-- A gang, resident (`active`) or saved (R49 to R52, R402): its fall-out messages stand beside the router that holds each,
in the order in which they fell out. `halted` is 0 while it runs, 1 while a debug stop drains it, 2 stopped (R458), 3 while it
comes back (R402); `ended` is one more than the cycle in which its last exchange step ended (R460). -/
structure Gang where
  pkey : Nat
  job : Nat
  x0 : Nat
  y0 : Nat
  w : Nat
  h : Nat
  sstep : Bool := false
  exch : Bool := false
  count : Word := 0#64
  stepNo : Nat := 0
  posted : Bool := false
  puts : Nat := 0
  putAck : Nat := 0
  arrivedAt : List (Nat × Nat) := []
  tag : Nat := 0
  bmask : Nat := 0
  active : Bool := true
  halted : Nat := 0
  ended : Nat := 0
  fallout : List (Nat × Msg) := []
deriving DecidableEq, Repr

/-- One episode of a barrier (R272, R273): cores arrived, waiting strands and destinations, the first arrival, members
still owed the time-out, strands waiting for the next episode. -/
structure Bar where
  episode : Nat := 0
  cores : List Nat := []
  waiters : List (Nat × Nat) := []
  first : Nat := 0
  owed : List Nat := []
  early : List (Nat × Nat) := []
deriving DecidableEq, Repr

/-- A vector group forming or formed (R46 to R48, R308): the word, the members arrived (strand, destination), the first
arrival, whether it has formed, its leader, its attached followers, detached followers, and those waiting at a REJOIN
(strand, tag; tag 256: attached by the REJOIN that the leader issues). -/
structure VGroup where
  word : Word
  members : List (Nat × Nat) := []
  first : Nat := 0
  formed : Bool := false
  leader : Nat := 0
  attached : List Nat := []
  detached : List Nat := []
  waiting : List (Nat × Nat) := []
deriving DecidableEq, Repr

/-- A die's memory-side translation unit (R408, R413, R423, R398). -/
structure Mtu where
  parked : Nat := 0
  lpark : Nat := 0
  fails : Nat := 0
  remote : Nat := 0
  walks : Nat := 0
  log : List (Nat × Nat × Nat) := []
  logLost : Nat := 0
  seen : List Nat := []
deriving DecidableEq, Repr

/-- A storage queue engine (R416 to R418, R424); `aborts` are the Abort commands issued, each with its port and the cycle in which the command
that it ends was submitted. -/
structure Sqe where
  frames : List Nat := []
  reads : Nat := 0
  writes : Nat := 0
  noframe : Nat := 0
  errors : Nat := 0
  tmo : Nat := 25000000
  link : Nat := 0
  waiting : List Nat := []
  aborts : List (Nat × Nat) := []
deriving DecidableEq, Repr

/-- A page fill or migration in progress (R415, R420): the frame taken, the cycle its command was submitted. -/
structure Fill where
  frame : Nat
  issued : Nat
  waiting : Bool := false
deriving DecidableEq, Repr

/-- The header and CRC-32 of a flit (R441): the virtual channel, the sequence number, the type, the credit. Its payload is the packet's,
whose record stands in State; the spec gives no values for the type, the credit and the CRC, which are free (log 47). -/
structure Flit where
  seq : Nat
  vc : Nat := 0
  typ : Nat := 0
  credit : Nat := 0
  crc : Nat := 0
deriving DecidableEq, Repr

/-- A Knazan port (R443, R446, R448, R454); `arr` gives the cycle in which the last packet for each destination reaches it (R449). -/
structure Port where
  up : Bool := false
  width : Nat := 0
  lanes : Nat := 0
  retraining : Bool := false
  replays : Nat := 0
  sendSeq : Nat := 0
  recvSeq : Nat := 0
  replay : List Flit := []
  arr : List (Nat × Nat) := []
  lastRx : Nat := 0
  lastTx : Nat := 0
  peer : Option Nat := none
deriving DecidableEq, Repr

/-- A transport packet that waits for the store (`st` 0), is held in it (1), or has been sent from it and is not yet
acknowledged (2) (R444, R445): the Pavilion, the destination, the bytes, the cycles of its way, what happens once every packet of its
message `msg` has arrived, the resends, the port it was sent on, whether it has arrived; `upto` is the message's bytes up to its end, `vc`
its virtual channel, `kept` whether the store holds it until it is acknowledged, `since` the cycle in which it entered the store. -/
structure Packet where
  fk : Nat
  dst : Nat
  bytes : Nat
  toGo : Nat
  ev : Instr
  arg : EvArg
  st : Nat := 0
  resends : Nat := 0
  port : Nat := 0
  arrived : Bool := false
  msg : Nat := 0
  upto : Nat := 0
  vc : Nat := 0
  kept : Bool := true
  since : Nat := 0
deriving DecidableEq, Repr

/-- A record of a row trap collector (R393). -/
structure TrcRec where
  cause : Nat
  pv : Bool
  tenant : Nat
  part : Nat
  count : Nat
  core : Nat
  tvalue : Word
  tval2 : Word
  tepc : Nat
  slot : Nat
  cores : List Nat
deriving DecidableEq, Repr

/-- A partition's registers at a row trap collector (R394). -/
structure TrcPart where
  notify : Word := 0#64
  lost : Nat := 0
deriving DecidableEq, Repr

/-- The save area of a gang (R403): its tiles' scratchpads, accumulators, macros and vector registers, its cores' and tiles' own
state, what was due to happen in them, and the cycle of the save. -/
structure Saved where
  mem : List Host.Cell := []
  acc : Tab Lane := []
  macros : Tab (List Byte) := []
  v : Tab Lane := []
  dirty : Tab Bool := []
  slots : Tab Slot := []
  g : Tab Word := []
  k : Tab Word := []
  q : Tab Handle := []
  place : Tab Place := []
  file : Tab Nat := []
  cores : Tab Core := []
  rt : Tab (Word × Word) := []
  binds : Tab Binding := []
  pairs : Tab PairSet := []
  rx : Tab RxQ := []
  ext : Tab Ext := []
  vq : Tab (List VEnt) := []
  tiles : Tab Tile := []
  cnGrp : Tab Word := []
  cnInst : Tab CnInst := []
  cnNext : Tab Nat := []
  cnWait : Tab CnWait := []
  events : List (Nat × Instr × EvArg) := []
  at_ : Nat := 0
deriving DecidableEq, Repr

/-- A package (R19, R257, R451, R452, R463, R465 to R471). `cmdq` holds the operands of the commands that the host has written to the Crazon
queue, typed, in queue order (log 9); `heapTab` the address of its copy of the domain's heap table (R154); `hostq` what the part has handed to the host (a tag, bytes); `life` the lifetime counters in
the trust die's store and `lifeNow` the counts since it was last updated, by key; `failedPkgs` the packages declared failed (R454),
`lostPkgs` those declared unreachable (R445), `backed` the pages that have a backing entry (R409). -/
structure Pkg where
  present : Bool := false
  domain : Nat := 0
  powered : Bool := false
  failed : Bool := false
  fatal : Bool := false
  ptbase : Nat := 0
  backBase : Nat := 0
  gmTabsz : Nat := 1048576
  gmTabbase : Tab Nat := []
  rq : List (Nat × Nat) := []
  rle : List Nat := []
  rleMoved : Nat := 0
  rleStayed : Nat := 0
  copying : Nat := 0
  negotiated : Bool := false
  feat0 : Word := 0#64
  feat1 : Word := 0#64
  qbase : Nat := 0
  qsz : Nat := 0
  door : Nat := 0
  cbase : Nat := 0
  head : Nat := 0
  hostmaps : List HostMapEnt := []
  measures : List (Nat × Nat) := []
  keys : List (Nat × Nat) := []
  patched : Bool := false
  halted : Bool := false
  life : List (Nat × Nat) := []
  lifeNow : List (Nat × Nat) := []
  hostq : List (Nat × List Byte) := []
  fabricHalted : Bool := false
  ptTables : Nat := 0
  cmdq : List EvArg := []
  heapTab : Nat := 0
  crzBusy : Bool := false
  evictErr : Nat := 0
  ctail : Nat := 0
  routes : List (Nat × Nat × Nat) := []
  failedPkgs : List Nat := []
  lostPkgs : List Nat := []
  backed : List Nat := []
deriving DecidableEq, Repr

/-- The instruction register (R190): the strand whose instruction is at issue, its address, its words, the address a
transfer of control goes to, the cycles to the next instruction, whether the meaning has settled the strand's next
state itself, and whether the strand is WAITING for those cycles (R317). -/
structure Cur where
  sid : Nat := 0
  ipc : Nat := 0
  words : List (BitVec 16) := []
  xfer : Option Nat := none
  cost : Nat := 1
  manual : Bool := false
  idle : Bool := false
deriving DecidableEq, Repr

/-- A write of a byte (R191): what the byte was before, the cycle in which the write was issued, and who wrote: 0 a unit, 1 the guard
unit, else 2 more than the strand. -/
structure Wrote where
  was : Byte
  issued : Nat
  by' : Nat
deriving DecidableEq, Repr

/-- The state of every package the model holds. `banks` gives, by bank, one more than the core it served last and than the cycle
in which it served it (R405); `engines`, by 8-byte location, one more than the cycle in which its home atomic engine last performed
an access (R254); `news`, by count word or queue, a cycle and the slots filled or freed in it, which a wait sees in the
following cycle (R100); `file` gives the bank of each register in a core's physical file, 8 for one that still needs a place there,
and `place` the others that are held (R37), both by 128 times the strand and the register identifier; `olds` the writes of each
byte, the latest first (R191); `hands`, by task queue and cycle of a push, what the records pushed then hand over, and `decs`, by partition
and counter, what its decrementers do (R149); `parcelFails` the package, place and status of each parcel that failed
before the A2A that receives it was issued (R184), `unitFails` the guards and pages of guard accesses that failed (R422). -/
structure State where
  now : Nat := 0
  nextId : Nat := 1
  free : Nat := 0
  cur : Cur := {}
  ev : EvArg := {}
  agenda : List (Nat × Instr × EvArg) := []
  mem : List Host.Cell := []
  olds : Tab (List Wrote) := []
  hands : List (Nat × Nat × Tab Nat) := []
  decs : List (Nat × Nat × Tab Nat) := []
  ssd : List Host.Cell := []
  slots : Tab Slot := []
  g : Tab Word := []
  k : Tab Word := []
  q : Tab Handle := []
  place : Tab Place := []
  file : Tab Nat := []
  cores : Tab Core := []
  rt : Tab (Word × Word) := []
  binds : Tab Binding := []
  pairs : Tab PairSet := []
  rx : Tab RxQ := []
  ext : Tab Ext := []
  v : Tab Lane := []
  vq : Tab (List VEnt) := []
  good : Tab Nat := []
  accs : Tab Acc := []
  banks : Tab (Nat × Nat) := []
  engines : Tab Nat := []
  news : Tab (Nat × Nat) := []
  cmds : Tab Cmd := []
  parcelFails : List (Nat × Nat × Nat) := []
  unitFails : List (Nat × Nat) := []
  tiles : Tab Tile := []
  acc : Tab Lane := []
  macros : Tab (List Byte) := []
  dirty : Tab Bool := []
  guards : Tab Guard := []
  wbs : Tab WriteBehind := []
  hops : Tab HeapOp := []
  cnGrp : Tab Word := []
  cnInst : Tab CnInst := []
  cnNext : Tab Nat := []
  cnWait : Tab CnWait := []
  cnErr : Tab Nat := []
  ferGrp : Tab (Word × Word) := []
  ferSlot : Tab FerSlot := []
  fer : Tab Fer := []
  tduq : Tab TduQ := []
  parts : Tab Part := []
  gangs : Tab Gang := []
  bars : Tab Bar := []
  groups : Tab VGroup := []
  mtus : Tab Mtu := []
  own : Tab (Word × Word) := []
  sqes : Tab Sqe := []
  fills : Tab Fill := []
  ports : Tab Port := []
  pkts : Tab Packet := []
  trcs : Tab (List TrcRec) := []
  trcp : Tab TrcPart := []
  pkgs : Tab Pkg := []
  saves : Tab Saved := []
deriving DecidableEq, Repr

/-- The machine right after reset: package 0 is present and powered down to its trust die, which has bring-up to run
(R465, spec/24); every table lists nothing, so every register holds the value INVENTORY.md gives it (log 1, log 8). -/
def State.reset : State :=
  { agenda := [(0, .powerOn, {})]
    pkgs := [(0, { present := true })] }

end Sys2Proof.Machine
end

