-- ==== Sys2Proof/Machine/Tab.lean ====
section
/-!
DEFINITION. Reading and writing the tables of State, and the canonical memory.

A table is read with the value of its unlisted keys. Memory is a list of (address, byte) pairs with addresses strictly
rising and no zero byte, so that equal memories are equal data.
-/

namespace Sys2Proof.Machine

/-- The entry of a key; `d` where none is listed. -/
def tget {α : Type} (t : Tab α) (k : Nat) (d : α) : α :=
  match t with
  | [] => d
  | (j, x) :: r => if j = k then x else tget r k d

/-- The entry of a key, if one is listed. -/
def tfind {α : Type} (t : Tab α) (k : Nat) : Option α :=
  match t with
  | [] => none
  | (j, x) :: r => if j = k then some x else tfind r k

/-- The table with a key's entry replaced, or inserted in key order. -/
def tput {α : Type} (t : Tab α) (k : Nat) (x : α) : Tab α :=
  match t with
  | [] => [(k, x)]
  | (j, y) :: r => if j = k then (k, x) :: r else if k < j then (k, x) :: (j, y) :: r else (j, y) :: tput r k x

/-- The table without a key. -/
def tdel {α : Type} (t : Tab α) (k : Nat) : Tab α := t.filter fun p => p.1 != k

/-- The byte at an address; an address not listed reads as zero (log 2). -/
def mget (m : List Host.Cell) (a : Nat) : Byte :=
  match m with
  | [] => 0#8
  | (j, x) :: r => if j = a then x else mget r a

/-- Memory with one byte written; a zero byte is not listed. -/
def mset (m : List Host.Cell) (a : Nat) (b : Byte) : List Host.Cell :=
  match m with
  | [] => if b = 0#8 then [] else [(a, b)]
  | (j, x) :: r =>
    if j = a then (if b = 0#8 then r else (a, b) :: r)
    else if a < j then (if b = 0#8 then (j, x) :: r else (a, b) :: (j, x) :: r)
    else (j, x) :: mset r a b

/-- Every listed address is above `lo`, they rise strictly, and no byte is zero. -/
def mwfFrom : Option Nat → List Host.Cell → Bool
  | _, [] => true
  | none, (a, b) :: r => (b != 0#8) && mwfFrom (some a) r
  | some lo, (a, b) :: r => decide (lo < a) && (b != 0#8) && mwfFrom (some a) r

/-- The canonical form of memory. -/
def Memory.wf (m : List Host.Cell) : Bool := mwfFrom none m

/-- `n` bytes from an address up. -/
def mread (m : List Host.Cell) (a : Nat) : Nat → List Byte
  | 0 => []
  | n + 1 => mget m a :: mread m (a + 1) n

/-- Bytes written from an address up. -/
def mwrite (m : List Host.Cell) (a : Nat) : List Byte → List Host.Cell
  | [] => m
  | b :: bs => mwrite (mset m a b) (a + 1) bs

/-- The little-endian number of some bytes (R6). -/
def bytesNat : List Byte → Nat
  | [] => 0
  | b :: bs => b.toNat + 256 * bytesNat bs

/-- The low `n` bytes of a number (R6). -/
def natBytes : Nat → Nat → List Byte
  | 0, _ => []
  | n + 1, x => BitVec.ofNat 8 x :: natBytes n (x / 256)

/-- The 8-byte words of a list of bytes. -/
def bytesWords : Nat → List Byte → List Word
  | 0, _ => []
  | n + 1, bs => BitVec.ofNat 64 (bytesNat (bs.take 8)) :: bytesWords n (bs.drop 8)

/-- The bytes of a list of words. -/
def wordsBytes : List Word → List Byte
  | [] => []
  | w :: ws => natBytes 8 w.toNat ++ wordsBytes ws

end Sys2Proof.Machine
end

