-- ==== Sys2Proof/Machine/Ops.lean ====
section
/-!
DEFINITION. The named operations over the state: numbering and distances, accessors, memory, the agenda, taking a trap
and returning from one, the frame of an instruction's issue, and the checks of a memory operand.
-/

namespace Sys2Proof.Machine

/-- What exec answers. -/
abbrev Res := Host.Outcome State Fault Refusal

/-! ### Numbering and distances (R12, R13, R87, R88) -/

def pkgOfC (cid : Nat) : Nat := cid / 8192
def cidOf (sid : Nat) : Nat := sid / 16
def slotNo (sid : Nat) : Nat := sid % 16
def tidOfC (cid : Nat) : Nat := cid / 4
def tileX (tid : Nat) : Nat := tid % 2048 % 64
def tileY (tid : Nat) : Nat := tid % 2048 / 64
def dieOfXY (x y : Nat) : Nat := (y / 16) * 4 + x / 16
def dieOfTile (tid : Nat) : Nat := dieOfXY (tileX tid) (tileY tid)
def clusterOf (tid : Nat) : Nat := (tileY tid / 4) * 16 + tileX tid / 4
def natDist (a b : Nat) : Nat := (a - b) + (b - a)

/-- Hops of a dimension-ordered message between two places (R13). -/
def hopsXY (x y x' y' : Nat) : Nat := natDist x x' + natDist y y'

/-- Die boundaries crossed on that route (R13). -/
def crossXY (x y x' y' : Nat) : Nat := natDist (x / 16) (x' / 16) + natDist (y / 16) (y' / 16)

def hops (t u : Nat) : Nat := hopsXY (tileX t) (tileY t) (tileX u) (tileY u)
def crossings (t u : Nat) : Nat := crossXY (tileX t) (tileY t) (tileX u) (tileY u)

/-- The coordinate of the tile of a die's 16-wide span that is nearest (R236). -/
def nearest (x lo : Nat) : Nat := if x < lo then lo else if lo + 15 < x then lo + 15 else x

/-- Hops and crossings from a tile to the nearest tile of a compute die (R236). -/
def dieDist (t die : Nat) : Nat × Nat :=
  let x := nearest (tileX t) (die % 4 * 16)
  let y := nearest (tileY t) (die / 4 * 16)
  (hopsXY (tileX t) (tileY t) x y, crossXY (tileX t) (tileY t) x y)

/-- The time base, in ns, at 2.5 cycles a ns (R16, R256). -/
def timeNs (now : Nat) : Nat := now * 2 / 5

/-- The frame splice of R415, R420: the cells of `[src, src + n)` of one byte store as cells that start at `dst`. -/
def cellsOf (m : List Host.Cell) (src n dst : Nat) : List Host.Cell :=
  (m.filter fun p => decide (src ≤ p.1) && decide (p.1 < src + n)).map fun p => (p.1 - src + dst, p.2)

/-- A byte store with `[dst, dst + n)` cleared and then written with cells. -/
def splice (m : List Host.Cell) (dst n : Nat) (cells : List Host.Cell) : List Host.Cell :=
  cells.foldl (fun m c => mset m c.1 c.2) (m.filter fun p => decide (p.1 < dst) || decide (dst + n ≤ p.1))

/-- The memory key of a device-memory physical address of a package (R408). -/
def devKey (pkg pa : Nat) : Nat := pkg * 2 ^ 42 + pa % 2 ^ 40

/-- The memory key of a scratchpad byte (R88). -/
def spKey (tid off : Nat) : Nat := (tid / 2048) * 2 ^ 42 + 2 ^ 41 + (tid % 2048) * 2 ^ 20 + off % 2 ^ 20

/-- A key that names a scratchpad byte. -/
def isSpKey (key : Nat) : Bool := nbit key 41

/-- The tile of a scratchpad key. -/
def spTile (key : Nat) : Nat := (key / 2 ^ 42) * 2048 + nfield key 20 11

/-- The first address of the local window space (R86). -/
def windowBase : Nat := 0xFF000000000000

/-- Inside the local window space (R86). -/
def inWindow (va : Nat) : Bool := decide (windowBase ≤ va) && decide (va < windowBase + 2 ^ 32)

/-- The tile that a window address names for a strand of tile `own`; none where nothing decodes (R88). -/
def windowTile (own va : Nat) : Option Nat :=
  let t := nfield va 20 12
  let p := (own / 2048) * 2048
  if t < 0x7FF then some (p + t) else if t = 0x7FF then some own else if t = 0x800 then some (p + 0x7FF) else none

/-! ### Accessors -/

def slotAt (s : State) (sid : Nat) : Slot := tget s.slots sid {}
def putSlot (sid : Nat) (x : Slot) (s : State) : State := { s with slots := tput s.slots sid x }
def modSlot (sid : Nat) (f : Slot → Slot) (s : State) : State := putSlot sid (f (slotAt s sid)) s
def coreAt (s : State) (cid : Nat) : Core := tget s.cores cid {}
def putCore (cid : Nat) (x : Core) (s : State) : State := { s with cores := tput s.cores cid x }
def modCore (cid : Nat) (f : Core → Core) (s : State) : State := putCore cid (f (coreAt s cid)) s
def tileAt (s : State) (tid : Nat) : Tile := tget s.tiles tid {}
def modTile (tid : Nat) (f : Tile → Tile) (s : State) : State := { s with tiles := tput s.tiles tid (f (tileAt s tid)) }
def partAt (s : State) (pk : Nat) : Part := tget s.parts pk {}
def modPart (pk : Nat) (f : Part → Part) (s : State) : State := { s with parts := tput s.parts pk (f (partAt s pk)) }
def pkgAt (s : State) (p : Nat) : Pkg := tget s.pkgs p {}
def modPkg (p : Nat) (f : Pkg → Pkg) (s : State) : State := { s with pkgs := tput s.pkgs p (f (pkgAt s p)) }
def rxAt (s : State) (rk : Nat) : RxQ := tget s.rx rk {}
def modRx (rk : Nat) (f : RxQ → RxQ) (s : State) : State := { s with rx := tput s.rx rk (f (rxAt s rk)) }
def bindAt (s : State) (e : Nat) : Binding := tget s.binds e {}
def modBind (e : Nat) (f : Binding → Binding) (s : State) : State := { s with binds := tput s.binds e (f (bindAt s e)) }
def rtAt (s : State) (e : Nat) : Word × Word := tget s.rt e (0#64, 0#64)
def putRt (e : Nat) (x : Word × Word) (s : State) : State := { s with rt := tput s.rt e x }
def modAcc (id : Nat) (f : Acc → Acc) (s : State) : State :=
  match tfind s.accs id with
  | some a => { s with accs := tput s.accs id (f a) }
  | none => s
def modCmd (id : Nat) (f : Cmd → Cmd) (s : State) : State :=
  match tfind s.cmds id with
  | some a => { s with cmds := tput s.cmds id (f a) }
  | none => s
def gangAt (s : State) (gid : Nat) : Option Gang := tfind s.gangs gid
def modGang (gid : Nat) (f : Gang → Gang) (s : State) : State :=
  match tfind s.gangs gid with
  | some x => { s with gangs := tput s.gangs gid (f x) }
  | none => s
/-- A feature bit that a package's driver has accepted (R1, R453). -/
def accepted (s : State) (pkg n : Nat) : Bool :=
  if n < 64 then (pkgAt s pkg).feat0.toNat.testBit n else (pkgAt s pkg).feat1.toNat.testBit (n - 64)
/-- The base architecture is always there; every other feature is, once accepted (R1). -/
def hasFeature (s : State) (pkg n : Nat) : Bool := n == 0 || accepted s pkg n
def gangOfCore (s : State) (cid : Nat) : Option Gang := (coreAt s cid).gang.bind (tfind s.gangs)
/-- The partition key of a core (R368 PARTID). -/
def pkeyOf (s : State) (cid : Nat) : Nat := pkgOfC cid * 64 + (coreAt s cid).part

/-- A core that issues nothing: its partition is switching gangs or stopped, or its gang drains for a stop or comes back
(R400, R402, R458). -/
def partHeld (s : State) (cid : Nat) : Bool :=
  let p := partAt s (pkeyOf s cid)
  decide (p.switching ≠ 0) || p.stopped || (match gangOfCore s cid with
    | some g => g.halted != 0
    | none => false)

/-- Puts an event on the agenda, after those already there. -/
def post (due : Nat) (ev : Instr) (arg : EvArg) (s : State) : State :=
  { s with agenda := s.agenda ++ [(due, ev, arg)] }

/-- A new record number. -/
def freshId (s : State) : Nat × State := (s.nextId, { s with nextId := s.nextId + 1 })

/-- Switch hops to a package: the fewest of the route table's entries for it; 0 where it lists none. -/
def switchHops (s : State) (p q : Nat) : Nat :=
  ((pkgAt s p).routes.filterMap fun r => if r.1 = q then some r.2.2 else none).foldl
    (fun m h => match m with
      | none => some h
      | some x => some (min x h)) none |>.getD 0

/-- The cycles of one crossing (R250). -/
def crossing (s : State) (p q : Nat) : Nat := 1000 + 375 * switchHops s p q

/-- The bytes of a message's packets: at most 65 flits with 56 bytes of payload each (R441). -/
def packetBytes (n : Nat) : List Nat := (List.range (max 1 ((n + 3639) / 3640))).map fun i => min 3640 (n - 3640 * i)

/-- Records the packets of a message, which are ready to leave their package at cycle `t`; `k` is what they have in common. -/
def postPackets (k : Packet) (t : Nat) (s : State) : State :=
  let first := s.nextId
  (packetBytes k.bytes).zipIdx.foldl (fun s p =>
    let (id, s) := freshId s
    post t .transportResend { a := id }
      { s with pkts := tput s.pkts id { k with bytes := p.1, msg := first, upto := 3640 * p.2 + p.1 } }) s

/-- A message that no retransmission store holds (R444) goes from package `p` to `q` on a virtual channel; `ev` happens at cycle `t`, or later
where the link holds it up. Within a package it takes no link. -/
def overLink (p q vc bytes t : Nat) (ev : Instr) (arg : EvArg) (s : State) : State :=
  if p = q then post t ev arg s
  else postPackets { fk := p * 2, dst := q, bytes := bytes, toGo := crossing s p q, ev := ev, arg := arg, vc := vc, kept := false }
    (t - crossing s p q) s

/-- The next free value, and the state with the counter moved on (log 4). -/
def freeValue (s : State) : Word × State := (Config.freeWord s.free, { s with free := s.free + 1 })

/-- g register `r` of a strand; g0 reads as zero (R35). -/
def gGet (s : State) (sid r : Nat) : Word := if r = 0 then 0#64 else tget s.g (sid * 64 + r) 0#64

/-- A k register; null until written (R40). -/
def kGet (s : State) (sid r : Nat) : Word := tget s.k (sid * 16 + r) 0#64

/-- A handle's descriptor; unbound until bound (R28). -/
def hGet (s : State) (sid h : Nat) : Handle := tget s.q (sid * 16 + h) {}

/-- The key of a register in the spill map. -/
def fileKey (sid r : Nat) : Nat := sid * 128 + r
/-- The core of a register of the spill map. -/
def fileCore (key : Nat) : Nat := cidOf (key / 128)

/-- The registers that a bank of a core's physical file holds or parks (R37, R38). -/
def bankLoad (s : State) (cid b : Nat) : Nat :=
  (s.file.filter fun p => p.2 == b && fileCore p.1 == cid).length
  + (s.place.filter fun p => p.2 == .bank b && fileCore p.1 == cid).length

/-- The bank that a register takes: the first with room, 8 where none has any (R14, R37, log 77). -/
def bankFor (s : State) (cid : Nat) : Nat := ((List.range 8).find? fun b => decide (bankLoad s cid b < 32)).getD 8

/-- The physical file with a register in it; one that is parked stays where it is (R37). -/
def fileHold (s : State) (key : Nat) : Tab Nat :=
  if (tfind s.file key).isSome || tget s.place key .phys != .phys then s.file
  else tput s.file key (bankFor s (fileCore key))

/-- The spill map of a register (R37): dead and never written registers are nowhere. -/
def spillMap (s : State) (sid r : Nat) : Place :=
  match tget s.place (fileKey sid r) .phys with
  | .phys => if (tfind s.file (fileKey sid r)).isSome then .phys else .none
  | p => p

/-- Registers leave the spill map (R38, R40). -/
def dropPlaces (gone : Nat → Bool) (s : State) : State :=
  { s with
    place := s.place.filter fun p => !gone p.1
    file := s.file.filter fun p => !gone p.1 }

/-- Every register of a strand leaves it. -/
def dropStrand (sid : Nat) (s : State) : State := dropPlaces (fun k => k / 128 == sid) s

/-- A register takes its place in the physical file. -/
def holdReg (key : Nat) (s : State) : State := { s with file := fileHold s key }

/-- A bank is idle: no register of a strand that has issued in the last 64 cycles stands in it (R38). -/
def bankIdle (s : State) (cid b : Nat) : Bool :=
  let quiet (k : Nat) : Bool := fileCore k != cid || (slotAt s (k / 128)).lastAt == 0 || decide ((slotAt s (k / 128)).lastAt + 63 < s.now)
  (s.file.all fun p => p.2 != b || quiet p.1) && (s.place.all fun p => p.2 != .bank b || quiet p.1)

/-- The registers parked in an accumulator column of a tile (R38). -/
def columnLoad (s : State) (tid c : Nat) : Nat :=
  (s.place.filter fun p => p.2 == .column c && tidOfC (fileCore p.1) == tid).length

/-- Where an evicted register is parked: the first place of R38 with room; one that leaves a bank looks at no bank. -/
def parkPlace (s : State) (key : Nat) (fromBank : Bool) : Place :=
  let cid := fileCore key
  let tid := tidOfC cid
  let n := 128 * (tileAt s tid).nmac
  match (if fromBank then none else (List.range 8).find? fun b => bankIdle s cid b && decide (bankLoad s cid b < 32)) with
  | some b => .bank b
  | none =>
    match ((List.range (768 - n)).find? fun i => decide (columnLoad s tid (n + i) < 32)) with
    | some i => .column (n + i)
    | none => .frame

/-- The registers of a core that wait for a place in its physical file take one where there is room. -/
def settleFile (cid : Nat) (s : State) : State :=
  ((s.file.filter fun p => p.2 == 8 && fileCore p.1 == cid).map (·.1)).foldl
    (fun s k => { s with file := tput s.file k (bankFor s cid) }) s

/-- The register that a full physical file evicts next, where one still needs a place: one held or parked there, of another
strand, with no result to come (R37, log 77). -/
def overfull (s : State) : Option Nat :=
  match s.file.find? fun p => p.2 == 8 with
  | none => none
  | some (k, _) =>
    let may (j : Nat) : Bool := fileCore j == fileCore k && j / 128 != k / 128 && !(slotAt s (j / 128)).busy.contains (j % 128)
    let l := (s.file.filterMap fun p => if p.2 != 8 && may p.1 then some p.1 else none)
      ++ (s.place.filterMap fun p => match p.2 with
        | .bank _ => if may p.1 then some p.1 else none
        | _ => none)
    if l.isEmpty then none else l[Config.evictChoice s.now k % l.length]?

/-- A write of a g register: the value, presence set, live, written (R40, R42), held (R37), its pending last use gone; a write to g0 is discarded (R35). -/
def gSet (sid r : Nat) (x : Word) (s : State) : State :=
  if r = 0 then s
  else
    let sl := slotAt s sid
    { s with
      g := tput s.g (sid * 64 + r) x
      file := fileHold s (fileKey sid r)
      slots := tput s.slots sid { sl with
        pres := sl.pres ||| word (2 ^ r)
        live := sl.live ||| word (2 ^ r)
        wrG := sl.wrG ||| word (2 ^ r)
        kills := sl.kills &&& ~~~ word (2 ^ r) } }

/-- A write of a k register (R40). -/
def kSet (sid r : Nat) (x : Word) (s : State) : State :=
  let sl := slotAt s sid
  { s with
    k := tput s.k (sid * 16 + r) x
    file := fileHold s (fileKey sid (64 + r))
    slots := tput s.slots sid { sl with wrK := sl.wrK ||| BitVec.ofNat 16 (2 ^ r) } }

/-! ### Memory -/

/-- Eight bytes at a key. -/
def mem64 (s : State) (key : Nat) : Word := BitVec.ofNat 64 (bytesNat (mread s.mem key 8))

/-- The engine's answer to a watched word that now differs is on its way (R255): each made watch of a changed word is
marked and its wake posted. -/
def wakeWatches (s : State) : List (Nat × Acc) → State
  | [] => s
  | (id, a) :: r =>
    let s := wakeWatches s r
    match a.kind, a.key with
    | .watch, some key =>
      if a.performed && !a.answered && mread s.mem key 8 != a.cmp then
        post (s.now + a.op) .watchWake { a := id }
          { s with accs := tput s.accs id { a with answered := true, data := mread s.mem key 8 } }
      else s
    | _, _ => s

/-- The dirty bit of each scratchpad line that a write touches (R116). -/
def markDirty (key : Nat) : Nat → Tab Bool → Tab Bool
  | 0, d => d
  | n + 1, d => tput (markDirty key n d) ((key + n) / 256) true

/-- A write of bytes joins what is known of each byte's writes, for fetches that need not see it yet (R191): by `w.1`, issued in
cycle `w.2`. -/
def keepOlds (w : Nat × Nat) (m : List Host.Cell) (key : Nat) : List Byte → Tab (List Wrote) → Tab (List Wrote)
  | [], t => t
  | b :: r, t =>
    let l := tget t key []
    keepOlds w m (key + 1) r (if l.isEmpty && mget m key == b then t else tput t key (⟨mget m key, w.2, w.1⟩ :: l))

/-- The later of two cycles, by strand. -/
def joinSeen (a b : Tab Nat) : Tab Nat := b.foldl (fun t p => tput t p.1 (max p.2 (tget t p.1 0))) a

/-- What a hand-over of a strand covers (R149, R191): its own writes so far, and those that it has been handed itself. -/
def handed (s : State) (sid : Nat) : Tab Nat := joinSeen [(sid, s.now)] (slotAt s sid).codeSeen

/-- A hand-over to a strand. -/
def handTo (sid : Nat) (t : Tab Nat) (s : State) : State := modSlot sid (fun x => { x with codeSeen := joinSeen x.codeSeen t }) s

/-- The writer of a write that a strand issued. -/
def strandWriter (sid issued : Nat) : Nat × Nat := (sid + 2, issued)

/-- Bytes that are replaced as a whole keep no earlier value. -/
def dropOlds (p : Nat → Bool) (s : State) : State := { s with olds := s.olds.filter fun x => !p x.1 }

/-- A write performed at memory: the bytes, the dirty bits, and the wakes of watches (R116, R255). -/
def memWrite (key : Nat) (bs : List Byte) (s : State) (w : Nat × Nat := (0, 0)) : State :=
  let s := { s with
    mem := mwrite s.mem key bs
    olds := keepOlds w s.mem key bs s.olds
    dirty := if isSpKey key then markDirty key bs.length s.dirty else s.dirty }
  wakeWatches s s.accs

/-- Eight bytes written at a key. -/
def memSet64 (key : Nat) (w : Word) (s : State) : State := memWrite key (natBytes 8 w.toNat) s

/-- A byte-by-byte write at listed keys. -/
def memWriteCells (w : Nat × Nat) : List Host.Cell → State → State
  | [], s => s
  | (k, b) :: r, s => memWriteCells w r (memWrite k [b] s w)

/-! ### Translation (R408, R409) -/

/-- One level of the page table: the entry at index `ix` of the table at physical address `pa`. -/
def ptEntry (s : State) (pkg pa ix : Nat) : Word := mem64 s (devKey pkg (pa + 8 * ix))

/-- The address of a page's leaf entry, by the walk of R409; none where an upper entry is not valid. -/
def leafAddr (s : State) (pkg va : Nat) : Option Nat :=
  let t0 := (pkgAt s pkg).ptbase
  let e0 := ptEntry s pkg t0 (nfield va 46 10)
  let e1 := ptEntry s pkg (wfield e0 13 27 * 8192) (nfield va 36 10)
  let e2 := ptEntry s pkg (wfield e1 13 27 * 8192) (nfield va 26 10)
  if wfield e0 0 1 = 1 ∧ wfield e1 0 1 = 1 ∧ wfield e2 0 1 = 1
  then some (wfield e2 13 27 * 8192 + 8 * nfield va 16 10) else none

/-- A page's leaf entry; zero (V clear) where the walk finds none. -/
def leafOf (s : State) (pkg va : Nat) : Word :=
  match leafAddr s pkg va with
  | some pa => mem64 s (devKey pkg pa)
  | none => 0#64

/-- Writes a page's leaf entry, where its table exists. -/
def setLeaf (pkg va : Nat) (w : Word) (s : State) : State :=
  match leafAddr s pkg va with
  | some pa => { s with mem := mwrite s.mem (devKey pkg pa) (natBytes 8 w.toNat) }
  | none => s

def leafV (e : Word) : Bool := wfield e 0 1 == 1
/-- ST, with a reserved code read as FATAL (R409). -/
def leafSt (e : Word) : Nat := if wfield e 1 3 ≥ 5 then 4 else wfield e 1 3
def leafFrame (e : Word) : Nat := wfield e 8 24
def leafTenant (e : Word) : Nat := wfield e 52 12
/-- A leaf with bits [lo + w - 1 : lo] replaced. -/
def setField (e : Word) (lo w v : Nat) : Word :=
  word (e.toNat - nfield e.toNat lo w * 2 ^ lo + v % 2 ^ w * 2 ^ lo)

/-- Changes the record of an MTU. -/
def modMtu (k : Nat) (f : Mtu → Mtu) (s : State) : State := { s with mtus := tput s.mtus k (f (tget s.mtus k {})) }

/-- The MTU key of a device address. -/
def mtuOfVa (pkg va : Nat) : Nat := pkg * 8 + nfield va 12 4 / 2

/-- A changed leaf leaves every translation cache of its package (R408). -/
def dropLeaf (pkg page : Nat) (s : State) : State :=
  (List.range 8).foldl (fun s d => modMtu (pkg * 8 + d) (fun m => { m with seen := m.seen.erase page }) s) s

/-- Writes a leaf and drops it from the caches. -/
def changeLeaf (pkg page : Nat) (e : Word) (s : State) : State := dropLeaf pkg page (setLeaf pkg (page * 65536) e s)

/-- Sets D in the leaf of a page before its first write (R409). -/
def markD (pkg va : Nat) (s : State) : State :=
  let e := leafOf s pkg va
  if leafV e && leafSt e == 0 && wfield e 4 1 == 0 then changeLeaf pkg (va / 65536) (setField e 4 1 1) s else s

/-- The key of a resident page's byte. -/
def resKey (pkg va : Nat) (e : Word) : Nat := devKey pkg (leafFrame e * 65536 + va % 65536)

/-- A resident page that the memory controllers encrypt, whose tenant has no key installed (R409, R469). -/
def encLost (s : State) (pkg : Nat) (e : Word) : Bool :=
  leafSt e == 0 && wfield e 5 1 == 1 && !((pkgAt s pkg).keys.any fun k => k.1 == leafTenant e)

/-- A package identity of 21 bits (R19): the state's number of a package holds its own in bits 15:0. -/
def identityOf (s : State) (p : Nat) : Nat := (pkgAt s p).domain * 65536 + p % 65536

/-- The lowest-numbered valid ownership entry that covers an address: its owner and MIG (R411). -/
def ownerOf (s : State) (pkg va : Nat) : Option (Nat × Bool) :=
  (List.range 128).findSome? fun i =>
    let (w0, w1) := tget s.own (pkg * 128 + i) (0#64, 0#64)
    if wfield w0 0 1 = 1 ∧ wfield w0 16 40 ≤ va / 65536 ∧ va / 65536 < wfield w1 0 40
    then some (wfield w1 40 21, wfield w0 1 1 == 1) else none

/-- What an engine or block unit finds at an address it reads or writes itself (R411, R422): a key; a page it must wait
for; or a failure (cause, reason). -/
inductive EngPage where
  | ok (key : Nat)
  | wait
  | fail (cause reason : Nat)
deriving DecidableEq, Repr

/-- The decision of R411 for a unit's own access, with a tenant. -/
def engDecide (s : State) (pkg va tenant : Nat) : EngPage :=
  let e := leafOf s pkg va
  if leafV e then
    if leafTenant e != 0 && leafTenant e != tenant then .fail 0x19 4
    else if encLost s pkg e then .fail 0x19 4
    else match leafSt e with
      | 0 => .ok (resKey pkg va e)
      | 4 => .fail 0x19 3
      | _ => .wait
  else
    match ownerOf s pkg va with
    | none => .fail 0x19 1
    | some (o, _) => if o = identityOf s pkg then .fail 0x19 2 else .wait

/-- The key an engine reads or writes for one byte of a window or device address. -/
def engKey (s : State) (own va tenant : Nat) : EngPage :=
  if inWindow va then
    match windowTile own va with
    | some t => .ok (spKey t va)
    | none => .fail 0x19 2
  else engDecide s (own / 2048) va tenant

/-- The first address of each unit of `u` bytes that `n` bytes at `va` touch. -/
def unitStarts (u va n : Nat) : List Nat :=
  if n = 0 then [] else (List.range ((va + n - 1) / u - va / u + 1)).map fun i => max va ((va / u + i) * u)

/-- The first address of each page that they touch. -/
def pageStarts (va n : Nat) : List Nat := unitStarts 65536 va n

/-- The bytes of a span that lie in the page of one of its addresses, from there on. -/
def inPage (va n a : Nat) : Nat := min (65536 - a % 65536) (va + n - a)

/-- `n` bytes as an engine reads them; none where a page is not there. -/
def engRead (s : State) (own va tenant n : Nat) : Option (List Byte) :=
  (pageStarts va n).foldr (fun a r => match engKey s own a tenant, r with
    | .ok key, some l => some (mread s.mem key (inPage va n a) ++ l)
    | _, _ => none) (some [])

/-- An engine's write of bytes, those of each page at its frame. -/
def engWrite (own va tenant : Nat) (bs : List Byte) (s : State) (w : Nat × Nat := (0, 0)) : State :=
  (pageStarts va bs.length).foldl (fun s a => match engKey s own a tenant with
    | .ok key => memWrite key ((bs.drop (a - va)).take (inPage va bs.length a)) s w
    | _ => s) s

/-- Sets D in every page a write touches (R409). -/
def markDSpan (own va n : Nat) (s : State) : State :=
  (pageStarts va n).foldl (fun s a => if inWindow a then s else markD (own / 2048) a s) s

/-- The bytes of a trace record, each where its page is. -/
def traceBytes (tid va tenant : Nat) (bs : List Byte) (s : State) : State :=
  engWrite tid va tenant bs (markDSpan tid va bs.length s)

/-- An event of a partition's snapshot trigger: it fires where SNAPCTL names the event and is armed (R462, R368). -/
def fireEvent (pk code : Nat) (s : State) : State :=
  let p := partAt s pk
  if p.snapSrc = 1 ∧ p.snapEvent = code ∧ p.armed = true then post s.now .snapshotFire { a := pk } s else s

/-- The same for every partition of a package. -/
def fireEventPkg (pkg code : Nat) (s : State) : State :=
  s.parts.foldl (fun s p => if p.1 / 64 = pkg then fireEvent p.1 code s else s) s

/-- A lifetime counter counts, by its key: 0x10000 + port, 0x20000 + die, 0x30000 + bin, 0x70000 + die (R463). -/
def bumpLife (pkg key : Nat) (s : State) : State :=
  modPkg pkg (fun k => { k with lifeNow := tput k.lifeNow key (tget k.lifeNow key 0 + 1) }) s

/-! ### Frames of strands (R36) -/

/-- The key of a slot's context frame (R36). -/
def frameKey (sid : Nat) : Nat :=
  spKey (tidOfC (cidOf sid)) (0xF5000 + (cidOf sid % 4) * 0x2C00 + slotNo sid * 0x400)

def slotCode (st : SlotSt) : Nat :=
  match st with
  | .free => 0
  | .ready => 1
  | .waiting => 2
  | .parked => 3
  | .swapped => 4
  | .trapped => 5

/-- The slot word of a frame (R36). -/
def slotWord (x : Slot) : Word :=
  word (slotCode x.st + x.gen % 256 * 2 ^ 8 + (if x.xseq then 2 ^ 16 else 0) + (if x.paired then 2 ^ 17 else 0)
    + x.partner % 16 * 2 ^ 18 + (if x.part then 2 ^ 22 else 0))

/-- A handle's 16-byte frame image, in a layout of the model's (R36 leaves it to the part; log 12). -/
def handleWord (h : Handle) : Word :=
  word (h.kind + h.eng * 2 ^ 4 + h.ch * 2 ^ 8 + h.sz * 2 ^ 10 + h.hdr * 2 ^ 16 + h.qix * 2 ^ 36 + h.osz * 2 ^ 38 + h.group * 2 ^ 42)

/-- The 1 KiB frame of a strand as its state now stands (R36); `pc` is the PC field. -/
def frameBytes (s : State) (sid pc : Nat) : List Byte :=
  let x := slotAt s sid
  wordsBytes ((List.range 64).map (gGet s sid) ++ (List.range 16).map (kGet s sid))
  ++ wordsBytes ((List.range 16).flatMap fun h => [handleWord (hGet s sid h), word (hGet s sid h).ring])
  ++ wordsBytes [word pc, x.pres, x.live, x.lc0, x.lc1, x.lb0, x.lb1, word x.tcause, x.tvalue, x.tval2, word x.tepc,
      slotWord x, word x.hbump, word x.hlim, 0#64, 0#64]

/-- A strand's state written to its frame. -/
def saveFrame (sid pc : Nat) (s : State) : State := { s with mem := mwrite s.mem (frameKey sid) (frameBytes s sid pc) }

/-! ### Loop decisions and held instructions (R229 to R231) -/

/-- CUR of a loop counter (R229). -/
def lcCur (w : Word) : Nat := w.toNat % 2 ^ 32
def lcInit (w : Word) : Nat := w.toNat / 2 ^ 32
def lcMake (init cur : Nat) : Word := word (cur % 2 ^ 32 + init % 2 ^ 32 * 2 ^ 32)
/-- The start and end addresses of a bounds word (R36, R230). -/
def lbStart (w : Word) : Nat := w.toNat % 2 ^ 56
def lbEnd (w : Word) : Nat := (lbStart w + 2 * (w.toNat / 2 ^ 56)) % vaTop

/-- The loop decision at an instruction that completes without a transfer (R231): the strand with its counters moved,
and the address it goes on at. -/
def loopEnd (x : Slot) (ipc next : Nat) : Slot × Nat :=
  let e0 := lcCur x.lc0 != 0 && lbEnd x.lb0 == ipc
  let e1 := lcCur x.lc1 != 0 && lbEnd x.lb1 == ipc
  let outer (x : Slot) : Slot × Nat :=
    let n := lcCur x.lc1 - 1
    let x := { x with lc1 := lcMake (lcInit x.lc1) n }
    if n != 0 then (x, lbStart x.lb1) else ({ x with lc0 := 0#64 }, next)
  if e0 then
    let n := lcCur x.lc0 - 1
    let x := { x with lc0 := lcMake (lcInit x.lc0) n }
    if n != 0 then (x, lbStart x.lb0)
    else if e1 then outer { x with lc0 := lcMake (lcInit x.lc0) (lcInit x.lc0) }
    else (x, next)
  else if e1 then outer x
  else (x, next)

/-- The last uses of a held instruction take effect: its registers die, and are dropped (R38, R40). -/
def applyKills (sid : Nat) (s : State) : State :=
  let m := (slotAt s sid).kills
  if m = 0#64 then s
  else dropPlaces (fun k => k / 128 == sid && m.toNat.testBit (k % 128))
    (modSlot sid (fun x => { x with live := x.live &&& ~~~ m, kills := 0#64 }) s)

/-- The last uses in `t` of an instruction that was issued in `s` and is still held wait for its completion: one that traps or is
abandoned has no effect (R389, R400). -/
def deferKills (sid : Nat) (s t : State) : State :=
  let m := (slotAt s sid).live &&& ~~~ (slotAt t sid).live
  if m = 0#64 ∨ (slotAt t sid).hold = false then t
  else
    let mine (k : Nat) : Bool := k / 128 == sid && m.toNat.testBit (k % 128)
    let t := modSlot sid (fun x => { x with live := x.live ||| m, kills := m }) t
    { t with
      place := (s.place.filter fun p => mine p.1).foldl (fun l p => tput l p.1 p.2) t.place
      file := (s.file.filter fun p => mine p.1).foldl (fun l p => tput l p.1 p.2) t.file }

/-- Completes a held instruction of a strand: it goes on after it, `k` cycles from now. -/
def resume (sid k : Nat) (s : State) : State :=
  let s := applyKills sid s
  let x := slotAt s sid
  let (x', next) := loopEnd x x.pc ((x.pc + 2 * x.ilen) % vaTop)
  putSlot sid { x' with
    st := if x.st = .swapped then .swapped else .ready
    hold := false
    heldBy := 0
    pc := next
    readyAt := s.now + k
    issued := x.issued + 1 } s

/-! ### Held instructions and their abandoning (R374, R400) -/

/-- The strand is still held by that record, in that life of its slot. -/
def heldOn (s : State) (sid gen id : Nat) : Bool :=
  let x := slotAt s sid
  x.gen == gen && x.hold && x.heldBy == id && x.st != .free && x.st != .trapped

/-- An access leaves its MTU's parking place. -/
def unpark (a : Acc) (s : State) : State :=
  if a.parked then
    bumpLife a.dpkg (0x30000 + min 15 ((s.now - a.parkAt).log2 - 10)) (modMtu (mtuOfVa a.dpkg a.va) (fun m => { m with parked := m.parked - 1 }) s)
  else s

/-- A held strand goes on, `k` cycles from now; the instruction of one that was abandoned meanwhile has completed all the same. -/
def goesOn (sid gen id k : Nat) (s : State) : State :=
  if heldOn s sid gen id then resume sid k s
  else
    match (slotAt s sid).redo with
    | some r => if (slotAt s sid).gen = gen ∧ r.id = id then modSlot sid (fun x => { x with redo := some { r with passed := true } }) s else s
    | none => s

/-- The same for a wait that no record stands for: a barrier, a boundary. -/
def goesOnHeld (sid k : Nat) (s : State) : State :=
  let x := slotAt s sid
  if x.hold && x.st != .trapped && x.st != .free then resume sid k s else goesOn sid x.gen 0 k s

/-- The answer of a held instruction is for its strand: it is held, or will be again. -/
def answersTo (s : State) (sid gen id : Nat) : Bool :=
  heldOn s sid gen id || ((slotAt s sid).gen == gen && (slotAt s sid).redo.any fun r => r.id == id && !r.passed)

/-- A wait for no record that a strand is in, or will be in again. -/
def answersHeld (s : State) (sid : Nat) : Bool :=
  let x := slotAt s sid
  (x.hold && x.st != .trapped && x.st != .free) || answersTo s sid x.gen 0

/-- The strand is left out of what it was waiting in: watches, held messages, barriers, groups. -/
def dropWaits (sid : Nat) (s : State) : State :=
  let cid := cidOf sid
  let gone (id : Nat) (a : Acc) : Bool :=
    a.sid == sid && (a.kind == .watch
      || (a.kind == .msg && s.agenda.any fun e => e.2.1 == .qsendResend && e.2.2.a == id))
  let ids := (s.accs.filter fun p => gone p.1 p.2).map (·.1)
  let s := { s with
    accs := s.accs.filter fun p => !(ids.contains p.1)
    agenda := s.agenda.filter fun e => !(e.2.1 == .qsendResend && ids.contains e.2.2.a)
    bars := s.bars.map fun b => (b.1, { b.2 with
      waiters := b.2.waiters.filter fun w => w.1 != sid
      early := b.2.early.filter fun w => w.1 != sid }) }
  match (coreAt s cid).group with
  | none => s
  | some gk =>
    match tfind s.groups gk with
    | none => s
    | some g =>
      if g.formed then { s with groups := tput s.groups gk { g with waiting := g.waiting.filter fun w => w.1 != sid } }
      else if g.members.any fun m => m.1 == sid then
        let m := g.members.filter fun m => m.1 != sid
        modCore cid (fun c => { c with group := none })
          { s with groups := if m.isEmpty then tdel s.groups gk else tput s.groups gk { g with members := m } }
      else s

/-- What a strand waits for is an arrival at a barrier or boundary, which no record stands for. -/
def hasArrived (s : State) (sid : Nat) : Bool :=
  (slotAt s sid).arrived || s.bars.any fun b => (b.2.waiters.any fun w => w.1 == sid) || b.2.early.any fun w => w.1 == sid

/-- The record that a held strand waits for. -/
def waitRecord (s : State) (sid : Nat) : Nat := if hasArrived s sid then 0 else (slotAt s sid).heldBy

/-- The effect of a strand's held instruction is under way in record `id`, and is not begun again when the abandoned instruction issues
again (R400 for a counted arrival at a barrier; log 101): an arrival, an SC access, a message awaiting its answer, a pin, a TDEC. -/
def underWay (s : State) (sid id : Nat) : Bool :=
  if id = 0 then hasArrived s sid
  else
    (s.agenda.any fun e => e.2.1 == .tdecApply && e.2.2.w == word id)
    || (match tfind s.accs id with
      | some a => a.sid == sid && a.kind != .watch && a.kind != .fetch
          && !(a.kind == .msg && s.agenda.any fun e => e.2.1 == .qsendResend && e.2.2.a == id)
      | none => false)

/-- Abandons the WAITING or PARKED instruction of a strand: it issues again later (R374, R400). A watch, a held message and a join
are taken back. -/
def abandonWait (sid : Nat) (s : State) : State :=
  let x := slotAt s sid
  let ready (x : Slot) : Slot := { x with st := if x.st = .swapped then .swapped else .ready, hold := false, heldBy := 0, waitReg := none }
  if x.hold = false then modSlot sid ready s
  else if underWay s sid (waitRecord s sid) then
    modSlot sid (fun x => { ready x with redo := some { id := waitRecord s sid, pc := x.pc, inh := (coreAt s (cidOf sid)).inh } }) s
  else
    let s := match tfind s.accs x.heldBy with
      | some a => (match a.ret with
        | .reg d _ => modSlot sid (fun x => { x with busy := x.busy.erase (d % 128) }) (unpark a s)
        | _ => if a.kind = .watch then unpark a s else s)
      | none => s
    modSlot sid (fun x => { ready x with kills := 0#64 }) (dropWaits sid s)

/-! ### Traps (R374, R375, R389) -/

/-- The escalation record of a slot (R391). -/
def escalOf (s : State) (cid slot cause : Nat) : Escal :=
  let x := slotAt s (cid * 16 + slot)
  { row := tileY (tidOfC cid), pkg := pkgOfC cid, tenant := (coreAt s cid).tenant, part := (coreAt s cid).part,
    core := cid % 8192, slot := slot, cause := cause, tvalue := x.tvalue, tval2 := x.tval2, tepc := x.tepc }

/-- Sends an escalation west along the row to its trap collector (R391). -/
def sendEscal (cid slot cause : Nat) (s : State) : State :=
  let x := tileX (tidOfC cid)
  post (s.now + 2 + 3 * x + 8 * (x / 16) + 4) .escalationArrival { p := .escal (escalOf s cid slot cause) } s

/-- Latches a WFE event (R384). -/
def latch (cid ev : Nat) (s : State) : State :=
  let c := coreAt s cid
  if c.events.contains ev then s else putCore cid { c with events := c.events ++ [ev] } s

/-- The core becomes HALTED as HALT makes it (R384); the escalation carries the handled slot's values (R391). -/
def haltCore (cid : Nat) (s : State) : State := sendEscal cid (coreAt s cid).tslot 0 (modCore cid (fun c => { c with halted := true }) s)

/-- The lowest member of a list of slot numbers. -/
def lowest : List Nat → Option Nat
  | [] => none
  | x :: xs =>
    match lowest xs with
    | none => some x
    | some y => some (min x y)

/-- The word of latched events (R384). -/
def eventsWord (l : List Nat) : Word := word ((l.map fun i => 2 ^ i).sum)

/-- The events of a core as WFE shows them: bit 0 while a trap is pending, the rest latched (R384). -/
def wfeEvents (c : Core) : List Nat := if c.pend.isEmpty then c.events else 0 :: c.events

/-- Slot 0's WFE ends: the events go to its destination and are cleared, and the strand goes on after it (R384). -/
def endWfe (cid : Nat) (s : State) : State :=
  let c := coreAt s cid
  match c.wfe with
  | none => s
  | some (dst, _) =>
    let sid := cid * 16
    resume sid 1 (post (s.now + 1) .resultWriteback { a := sid, b := (slotAt s sid).gen, c := dst, w := eventsWord (wfeEvents c) }
      (putCore cid { c with wfe := none, events := [] } s))

/-- Latches an event, which ends a WFE in progress (R384). -/
def signal (cid ev : Nat) (s : State) : State :=
  let s := latch cid ev s
  if (coreAt s cid).wfe.isSome then endWfe cid s else s

/-- The core's partition switches gangs, or its gang comes back (R400, R402). -/
def switchHeld (s : State) (cid : Nat) : Bool :=
  decide ((partAt s (pkeyOf s cid)).switching ≠ 0) || (match gangOfCore s cid with
    | some g => g.halted == 3
    | none => false)

/-- TAKING A TRAP: slot 0 takes the lowest pending trapped slot into its handler (R374). TEPC(0) takes the PC slot 0 goes
on at, unless slot 0 itself trapped; TSTAT takes the slot, the mode before entry and INH; the mode becomes supervisor;
the PC becomes TVEC, and the first handler instruction issues 6 cycles later. A WFE ends with bit 0 (R384); any other instruction that
waits is abandoned. Nothing happens while INH is 1, while nothing is pending, where slot 0 holds no strand, or in a gang switch, after
which the trap is taken (R406); after a TRET it waits for the cycle after slot 0 goes on (R379). A strand of slot 0 that leads or follows
in a vector group stays attached through the handler of another slot's trap (DESIGN CHOICE, log 102). -/
def takeTrap (cid : Nat) (s : State) : State :=
  let c := coreAt s cid
  let sid0 := cid * 16
  if c.inh || (slotAt s sid0).st == .free || switchHeld s cid then s
  else
    match lowest c.pend with
    | none => s
    | some n =>
      if s.now < c.retAt then post c.retAt .takeTrap { a := cid } s else
      let st := (slotAt s sid0).st
      let s := if c.wfe.isSome then endWfe cid s else if st = .waiting ∨ st = .parked then abandonWait sid0 s else s
      let c := coreAt s cid
      let x := slotAt s sid0
      let s := putSlot sid0 { x with
        tepc := if n = 0 then x.tepc else x.pc
        pc := c.tvec
        st := .ready
        hold := false
        waitReg := none
        readyAt := s.now + 6 } s
      putCore cid { c with
        tslot := n
        pmode := c.modeS
        inh := true
        modeS := true
        tookAt := s.now + 1
        pend := c.pend.filter (· != n) } s

/-- The formed vector group a strand belongs to (R46, R308). -/
def groupOf (s : State) (sid : Nat) : Option (Nat × VGroup) :=
  match (coreAt s (cidOf sid)).group with
  | none => none
  | some gk =>
    match tfind s.groups gk with
    | none => none
    | some g =>
      if g.formed && (g.leader == sid || g.attached.contains sid || g.detached.contains sid) then some (gk, g) else none

/-- The strand follows a leader's stream (R46). -/
def followsLeader (s : State) (sid : Nat) : Bool :=
  match groupOf s sid with
  | some (_, g) => g.attached.contains sid
  | none => false

/-- What a leader has forwarded to a strand and is still on its way is gone (R47, R309). -/
def dropForwards (sid : Nat) (s : State) : State :=
  { modSlot sid (fun x => { x with fwd := [] }) s with agenda := s.agenda.filter fun e => !(e.2.1 == .followerIssue && e.2.2.a == sid) }

/-- An attached follower detaches: it fetches its own instructions from its own PC (R47). -/
def detach (sid : Nat) (s : State) : State :=
  match groupOf s sid with
  | none => s
  | some (gk, g) =>
    if g.attached.contains sid then
      dropForwards sid
        { s with groups := tput s.groups gk { g with attached := g.attached.erase sid, detached := g.detached ++ [sid] } }
    else s

/-- A trap or stop of a strand in its vector group: a leader's followers all detach, a follower detaches (R47). -/
def groupTrap (sid : Nat) (s : State) : State :=
  match groupOf s sid with
  | none => s
  | some (_, g) => if g.leader = sid then g.attached.foldl (fun s f => detach f s) s else detach sid s

/-- A strand traps: its trap registers are set, it is TRAPPED and pending (R374, R389), and slot 0 takes the trap at
once while INH is 0; of two helpers that trap in one cycle it takes the lower (R387). A trap of slot 0 while INH is 1 is a double trap,
which halts the core (R375). A strand being killed traps no more; a trap in the cycle of the kill shows in its registers (R383, R387). -/
def recordTrap (sid cause : Nat) (tv tv2 : Word) (epc : Nat) (s : State) : State :=
  if (slotAt s sid).killed then
    (if (slotAt s sid).killAt = s.now + 1 then
      modSlot sid (fun x => { x with tcause := cause, tvalue := tv, tval2 := tv2, tepc := epc, trapAt := s.now }) s
    else s)
  else
  let cid := cidOf sid
  let c := coreAt s cid
  let s := groupTrap sid s
  let s := modSlot sid (fun x => { x with
    st := .trapped
    tcause := cause
    tvalue := tv
    tval2 := tv2
    tepc := epc
    trapAt := s.now
    hold := false
    kills := 0#64
    redo := none
    waitReg := none
    heldBy := 0 }) s
  if slotNo sid = 0 && c.inh then
    haltCore cid (modCore cid (fun c => { c with dbl := true }) s)
  else
    let s := modCore cid (fun c => { c with
      pend := if c.pend.contains (slotNo sid) then c.pend else c.pend ++ [slotNo sid] }) s
    if c.inh && c.tookAt == s.now + 1 && decide (0 < slotNo sid) && decide (slotNo sid < c.tslot) then
      modCore cid (fun c => { c with tslot := slotNo sid, pend := c.pend.filter (· != slotNo sid) ++ [c.tslot] }) s
    else takeTrap cid (if c.inh && (coreAt s cid).wfe.isSome then endWfe cid s else s)

/-- RETURNING FROM A TRAP: slot 0 continues at TEPC(0) with MODE from PMODE and INH 0, 3 cycles after TRET (R379). -/
def returnFromTrap (cid : Nat) (s : State) : State :=
  let c := coreAt s cid
  let s := putCore cid { c with retAt := s.now + 4 } s
  let s := modSlot (cid * 16) (fun x => { x with st := .ready, pc := x.tepc, readyAt := s.now + 3, tcause := if c.tslot = 0 then 0 else x.tcause }) s
  post (s.now + 3) .takeTrap { a := cid, flag := true } s

/-- The cycle in which slot 0 goes on after a TRET: MODE and TSTAT change; a trap still pending is taken in the cycle after (R379). -/
def returnDone (cid : Nat) (s : State) : State :=
  let c := coreAt s cid
  if c.halted then s
  else
    let s := putCore cid { c with modeS := c.pmode, pmode := false, inh := false, tslot := 0 } s
    if c.pend.isEmpty then s else post (s.now + 1) .takeTrap { a := cid } s

/-! ### The frame of an instruction -/

/-- Why an instruction's body ends before its end: a trap (cause, TVALUE, TVAL2); a wait, tried again next cycle; a wait for something that
some accesses hold; a wait on a register's presence; a wait for a parked register's fetch; a state to keep while another agent completes the
instruction; a state to keep while the instruction itself is to be issued again; a fault; a refusal. -/
inductive Stop where
  | trap (cause : Nat) (tv tv2 : Word)
  | wait
  | waitOn (held : Acc → Bool)
  | waitReg (r : Nat)
  | fetchReg (r : Nat)
  | keep (s : State)
  | again (s : State)
  | fault (f : Fault)
  | refuse (r : Refusal)

/-- The body of an instruction. -/
abbrev M := StateT State (Except Stop)

/-- A precise trap (R389). -/
def trapM {α : Type} (cause : Nat) (tv : Word) (tv2 : Word := 0#64) : M α := fun _ => .error (.trap cause tv tv2)
def waitM {α : Type} : M α := fun _ => .error .wait
def stopM {α : Type} (e : Stop) : M α := fun _ => .error e
def updM (f : State → State) : M Unit := fun s => .ok ((), f s)
def askM {α : Type} (f : State → α) : M α := fun s => .ok (f s, s)
/-- Waits unless the condition holds. -/
def waitUnless (b : Bool) : M Unit := if b then pure () else waitM
/-- Waits for something that the accesses of `held` hold. -/
def waitOnUnless (held : Acc → Bool) (b : Bool) : M Unit := if b then pure () else fun _ => .error (.waitOn held)
/-- Keeps the state reached so far and leaves the strand to the agent that will complete the instruction. -/
def keepM {α : Type} (f : State → State) : M α := fun s => .error (.keep (f s))

/-- The first four words of the instruction at issue, absent words as zero (R204). -/
def firstFour (ws : List (BitVec 16)) : Word :=
  let at' (i : Nat) : Nat := (ws.getD i 0#16).toNat
  word (at' 0 + at' 1 * 2 ^ 16 + at' 2 * 2 ^ 32 + at' 3 * 2 ^ 48)

/-- ILLEGAL with a reason (R204). -/
def illegal {α : Type} (reason : Nat) : M α := fun s => .error (.trap 1 (firstFour s.cur.words) (word reason))

/-- The sequencer classes (R30, R202). -/
inductive Cls where
  | a | x | b | c | s | any
deriving DecidableEq, Repr

/-- Steps 9 and 10 of R204: the class against sequencer, slot and mode (R30). -/
def classTrap (cls : Cls) (s : State) : Option Nat :=
  let sid := s.cur.sid
  let xs := (slotAt s sid).xseq
  match cls with
  | .any => none
  | .b => none
  | .a => if xs then some 2 else none
  | .x => if xs && slotNo sid != 0 then none else some 2
  | .c => if slotNo sid = 0 then none else some 2
  | .s => if slotNo sid != 0 then some 2 else if (coreAt s (cidOf sid)).modeS then none else some 3

/-- Writes one trace record into a partition's ring, where it has one (R461); TRBASE is read as an address of the local
window or of device memory. -/
def traceWrite (pk : Nat) (ws : List Word) (s : State) : State :=
  let p := partAt s pk
  let rsz := wfield p.trcfg 0 5
  if rsz = 0 then s
  else
    let tid := pk / 64 * 2048 + p.y0 * 64 + p.x0
    let va := p.trbase + 32 * (p.trwr % 2 ^ rsz)
    modPart pk (fun p => { p with trwr := p.trwr + 1 }) (traceBytes tid va p.tenant (wordsBytes ws) s)

/-- Word 2 of a trace record of kind 1 to 3 (R461). -/
def traceWord2 (kind cid slot : Nat) : Word := word (kind + cid % 8192 * 2 ^ 4 + slot * 2 ^ 17)

/-- The superstep count of the gang on a core (R52, R461). -/
def countOf (s : State) (cid : Nat) : Word := (((gangOfCore s cid).map (·.count)).getD 0#64)

/-- An issuing PC that equals an enabled breakpoint writes a BREAK record and, with BPSTOP, asks for a stop (R460). -/
def breakHook (sid : Nat) (s : State) : State :=
  let cid := cidOf sid
  let pk := pkeyOf s cid
  let p := partAt s pk
  if p.bps.any (fun b => wfield b 0 1 == 1 && wfield b 1 55 * 2 == s.cur.ipc) then
    let s := traceWrite pk [word (timeNs s.now), countOf s cid, traceWord2 2 cid (slotNo sid), word s.cur.ipc] s
    let s := fireEvent pk 3 s
    if p.bpstop then post s.now .debugStopRequest { a := pk } (modPart pk (fun p => { p with stopreq := true }) s) else s
  else s

/-- Marks the issue on the strand's sequencer (R31). -/
def markIssue (sid : Nat) (s : State) : State :=
  let x := slotAt s sid
  breakHook sid (modCore (cidOf sid) (fun c => if x.xseq then { c with lastX := slotNo sid, usedX := s.now + 1 }
    else { c with lastA := slotNo sid, usedA := s.now + 1 }) (modSlot sid (fun x => { x with lastPc := s.cur.ipc, lastAt := s.now + 1 }) s))

/-- An instruction that traps at issue meets a breakpoint as another does; it takes nothing of its sequencer, which may issue
another strand's instruction in the same cycle ("costs the others nothing", spec/02; R31, R389). -/
def markTrap (sid : Nat) (s : State) : State := breakHook sid (modSlot sid (fun x => { x with lastPc := s.cur.ipc }) s)

/-- The address an instruction goes on at, with the loop decision where it did not transfer control (R190, R231). -/
def advance (s : State) (x : Slot) : Slot × Nat :=
  match s.cur.xfer with
  | some t => (x, t % vaTop)
  | none => loopEnd x s.cur.ipc ((s.cur.ipc + 2 * s.cur.words.length) % vaTop)

/-- What a vector group does when a strand has issued an instruction and takes `next`: a leader forwards it to each
attached follower, but for those that its own REJOIN has just attached; a follower whose own next address differs detaches (R46 to
R48, R227). -/
def forward (sid next : Nat) (s : State) : State :=
  match groupOf s sid with
  | none => s
  | some (gk, g) =>
    if g.leader = sid then
      (g.attached.filter fun f => !g.waiting.contains (f, 256)).foldl (fun s f =>
        let t := tidOfC (cidOf sid)
        let u := tidOfC (cidOf f)
        post (s.now + 1 + 3 * hops t u + 8 * crossings t u) .followerIssue
          { a := f, b := (slotAt s f).gen, p := .fwd ⟨s.cur.ipc, s.cur.words, next, true⟩ } s)
        { s with groups := tput s.groups gk { g with waiting := g.waiting.filter fun w => w.2 != 256 } }
    else
      match (slotAt s sid).fwd with
      | [] => s
      | f :: r =>
        let s := modSlot sid (fun x => { x with fwd := r }) s
        if f.compare && f.next != next then detach sid s else s

/-- An instruction completes: the PC moves on, with the loop decision, the strand may issue again after the
instruction's cycles, and the sequencer's round-robin moves on. -/
def completeIssue (s : State) : State :=
  let sid := s.cur.sid
  let x := slotAt s sid
  let (x', next) := advance s x
  let s := putSlot sid { x' with
    st := if s.cur.idle then .waiting else .ready
    pc := next
    readyAt := s.now + s.cur.cost
    waitReg := none
    issued := x.issued + 1 } s
  forward sid next (markIssue sid s)

/-- The strand has an access parked on a long fault (R236, R413). -/
def hasParked (s : State) (sid : Nat) : Bool :=
  s.accs.any fun p => p.2.sid == sid && p.2.gen == (slotAt s sid).gen && p.2.parked && p.2.kind != .watch

/-- The operands of the instruction at issue, as its words decode; none where they do not. -/
def curOps (s : State) : Option (Row × Ops) :=
  match decodeWords (fun _ => true) s.cur.words with
  | .ok i =>
    match i.code, i.ops? with
    | some (p, op, v), some o => (rowOf p op v).map fun r => (r, o)
    | _, _ => none
  | .error _ => none

/-- The register identifier that a field names; none for raw bits, vectors and absent fields (R200). -/
def kindNames (kd : Kind) (n : Nat) : List Nat :=
  match kd with
  | .g | .gn | .gq | .h => [if n < 32 then n else if n < 48 then 80 + (n - 32) else n - 16]
  | .k => [64 + n]
  | _ => []

/-- The registers that the instruction at issue names in its fields. -/
def namedRegs (s : State) : List Nat :=
  match curOps s with
  | none => []
  | some (r, o) =>
    kindNames (if o.exr then r.a1 else r.a0) o.a.toNat ++ (if r.form == .r then kindNames (r.bKind o) o.b.toNat else [])
    ++ (if o.exr then kindNames r.c1 o.c.toNat else [])

/-- The instruction at issue waits until the strand's accesses are done: STREL, FENCE, REL, STOP. -/
def waitsForAccs (s : State) : Bool :=
  match curOps s with
  | some (r, _) => (r.page == 2 && (r.op == 8 || r.op == 9)) || (r.page == 3 && r.op == 4) || (r.page == 6 && r.op == 2)
  | none => false

/-- The wait of the instruction at issue needs the result of an access of the strand that is parked, a register that it writes, what it
holds of what the instruction waits for, or its end (R26, R236, log 78). -/
def needsParked (s : State) (held : Acc → Bool) : Bool :=
  let sid := s.cur.sid
  let x := slotAt s sid
  let l := s.accs.filter fun p => p.2.sid == sid && p.2.gen == x.gen && p.2.parked && p.2.kind != .watch
  if l.isEmpty then false
  else
    let named := (namedRegs s).filter fun r => x.busy.contains r
    waitsForAccs s || l.any fun p => held p.2 || (match p.2.ret with
      | .reg d _ => named.contains (d % 128)
      | .kref d => named.contains (64 + d)
      | .handle h => named.contains (80 + h)
      | .heap hop => (match tfind s.hops hop with
        | some h => named.contains (h.dst % 128) || named.contains (64 + h.kn) || named.contains (64 + h.knb)
        | none => false)
      | _ => false)

/-- The cycles a fetch takes from where a register is parked (R39). -/
def fetchCycles (p : Place) : Nat :=
  match p with
  | .bank _ => 2
  | .column _ => 6
  | .frame => 8
  | _ => 0

/-- The fetch of one register starts, `n` cycles long. -/
def startFetch (sid n r : Nat) (s : State) : State :=
  post (s.now + n) .registerFetch { a := sid, b := r, c := (slotAt s sid).gen }
    { s with place := tput s.place (fileKey sid r) .fetching }

/-- The fetches of the parked registers that the instruction at issue names start at its first attempt; its g registers are
fetched together (R39). -/
def startFetches (s : State) : State :=
  let sid := s.cur.sid
  let at' (r : Nat) : Place := tget s.place (fileKey sid r) .phys
  if s.place.any fun p => p.1 / 128 == sid && fetchCycles p.2 != 0 then
    let l := (namedRegs s).eraseDups.filter fun r => fetchCycles (at' r) != 0
    let slow := ((l.filter fun r => decide (r < 64)).map fun r => fetchCycles (at' r)).foldl max 0
    l.foldl (fun s r => startFetch sid (if r < 64 then slow else fetchCycles (at' r)) r s) s
  else s

/-- A wait for what the accesses of `held` hold: the strand is WAITING, or PARKED where the wait needs a parked access of its own, and is
tried again in the next cycle (R26, R31, R236); what it names is fetched (R39). -/
def waitStateOn (held : Acc → Bool) (s : State) : State :=
  modSlot s.cur.sid (fun x => { x with
    st := if needsParked s held then .parked else .waiting
    tried := s.now + 1
    ilen := s.cur.words.length }) (startFetches s)

/-- A wait for something that no access holds. -/
def waitState (s : State) : State := waitStateOn (fun _ => false) s

/-- A wait on a clear presence bit; the first attempt starts the time-out (R42). -/
def waitPresence (r : Nat) (s : State) : State :=
  let sid := s.cur.sid
  let x := slotAt s sid
  let tmo := (coreAt s (cidOf sid)).prestmo
  let since := match x.waitReg with
    | some (r', t) => if r' = r then t else s.now
    | none => s.now
  let fresh := x.waitReg != some (r, since)
  let s := waitState (putSlot sid { x with waitReg := some (r, since) } s)
  if fresh && tmo != 0 then
    post (s.now + tmo) .presTimeout { a := sid, b := x.gen, c := r, d := since } s
  else s

/-- A wait for a parked register; the first attempt starts its fetch (R39). -/
def waitFetch (r : Nat) (s : State) : State :=
  let s := waitState s
  let n := fetchCycles (tget s.place (fileKey s.cur.sid r) .phys)
  if n = 0 then s else startFetch s.cur.sid n r s

/-- An instruction has issued and another agent completes it: the sequencer's round-robin moves on, and a vector group
forwards it, unless it trapped or stopped its strand. -/
def heldIssue (s : State) : State :=
  let x := slotAt s s.cur.sid
  let s := markIssue s.cur.sid s
  if x.st = .trapped ∨ x.st = .free then s else forward s.cur.sid (advance s x).2 s

/-- The state in which the body of the instruction at issue starts. -/
def atIssue (s : State) : State := { s with cur := { s.cur with xfer := none, cost := 1, manual := false, idle := false } }

/-- Issues one instruction: the class checks, the body, then its completion, its trap or its wait. A trap starts from
the state before the body, so the instruction has no other effect (R389). -/
def issue (cls : Cls) (s : State) (body : M Unit) : Res :=
  match classTrap cls s with
  | some cause => .next (recordTrap s.cur.sid cause 0#64 0#64 s.cur.ipc (markTrap s.cur.sid s))
  | none =>
    match body (atIssue s) with
    | .ok ((), s') => .next (if s'.cur.manual then heldIssue s' else completeIssue s')
    | .error (.trap cause tv tv2) => .next (recordTrap s.cur.sid cause tv tv2 s.cur.ipc (markTrap s.cur.sid s))
    | .error .wait => .next (waitState s)
    | .error (.waitOn held) => .next (waitStateOn held s)
    | .error (.waitReg r) => .next (waitPresence r s)
    | .error (.fetchReg r) => .next (waitFetch r s)
    | .error (.keep s') => .next (heldIssue
        (modSlot s.cur.sid (fun x => { x with ilen := s.cur.words.length, tried := s.now + 1 }) (deferKills s.cur.sid s s')))
    | .error (.again s') => .next (modSlot s.cur.sid (fun x => { x with tried := s.now + 1 }) s')
    | .error (.fault f) => .fault f
    | .error (.refuse r) => .refused r

/-- Leaves a strand waiting for another agent. -/
def holdStrand (sid : Nat) (st : SlotSt) (s : State) : State :=
  modSlot sid (fun x => { x with st := st, hold := true }) s

/-- Leaves a strand waiting for the record `id`. -/
def holdFor' (id sid : Nat) (st : SlotSt) (s : State) : State :=
  modSlot sid (fun x => { x with st := st, hold := true, heldBy := id }) s

/-- The strand issues its next instruction `k` cycles after this one. -/
def atCost (k : Nat) (s : State) : State := { s with cur := { s.cur with cost := k } }

def setCost (k : Nat) : M Unit := updM (atCost k)

/-- The strand is WAITING until its next instruction (R317). -/
def idleM : M Unit := updM fun s => { s with cur := { s.cur with idle := true } }

/-- A transfer of control. -/
def transfer (t k : Nat) (s : State) : State := { s with cur := { s.cur with xfer := some t, cost := k } }

def setPc (t k : Nat) : M Unit := updM (transfer t k)

/-! ### Memory operands (R57, R58, R83, R84, R90 to R92) -/

/-- User mode for a strand's accesses (R365, R92). -/
def userMode (s : State) (sid : Nat) : Bool := !(slotNo sid == 0 && (coreAt s (cidOf sid)).modeS)

/-- A pointer's format is not reserved, its BLK is legal and bit 56 is 0 (R57). -/
def ptrOk (row : Nat → Option Nat) (p : Word) : Bool :=
  match row (wfield p 60 4) with
  | some blk => wfield p 57 3 == blk && wfield p 56 1 == 0
  | none => false

/-- One range-table entry's fields (R90). -/
structure RtView where
  base : Nat
  limit : Nat
  cls : Nat
  valid : Bool
  rd : Bool
  wr : Bool
  hold : Nat
  usr : Bool
deriving DecidableEq, Repr

/-- The bits that the words of a range-table entry hold: reserved bits, and bits 7:0 of an address, read as zero (R4, R90). -/
def rtBits0 (w : Word) : Word := w &&& 0x0FFFFFFFFFFFFF00#64
def rtBits1 (w : Word) : Word := w &&& 0x3FFFFFFFFFFFFF00#64

def rtView (e : Word × Word) : RtView :=
  { base := wfield e.1 0 56, limit := wfield e.2 0 56, cls := wfield e.1 56 4, valid := wfield e.2 56 1 == 1,
    rd := wfield e.2 57 1 == 1, wr := wfield e.2 58 1 == 1, hold := wfield e.2 59 2, usr := wfield e.2 61 1 == 1 }

/-- The entry that covers an address (R90, R91). -/
def covers (v : RtView) (va : Nat) : Bool := v.valid && decide (v.cls < 7) && decide (v.base ≤ va) && decide (va < v.limit)

/-- The lowest-numbered valid entry that covers an address, from entry `64 - n` up. -/
def rtMatch (s : State) (cid va : Nat) : Nat → Option Nat
  | 0 => none
  | n + 1 => if covers (rtView (rtAt s (cid * 64 + (63 - n)))) va then some (63 - n) else rtMatch s cid va n

/-- The hold a strand's team sees in an entry: entries of another team's binding read 0 (R110). -/
def holdFor (s : State) (cid team e : Nat) : Nat :=
  let v := rtView (rtAt s (cid * 64 + e))
  if (v.cls == 2 || v.cls == 3 || v.cls == 4) && (bindAt s (cid * 64 + e)).team != team then 0 else v.hold

/-- A collective buffer in flight of the core that an access of `n` bytes touches (R183). -/
def collTouched (s : State) (cid va n : Nat) : Bool :=
  ((List.range 64).drop 16).any fun e =>
    let v := rtView (rtAt s (cid * 64 + e))
    v.valid && v.cls == 5 && decide (v.base < va + n) && decide (va < v.limit) && decide (v.base < v.limit)

/-- Steps 3 to 9 of R92 for `n` bytes at `va` against the matching entry: it, or the cause and TVALUE. -/
def rangeMatch (s : State) (cid team : Nat) (user : Bool) (va n : Nat) (rd wr : Bool) : Except (Nat × Nat) Nat :=
  if inWindow va && (windowTile (tidOfC cid) va).isNone then .error (6, va)
  else
    match rtMatch s cid va 64 with
    | none => .error (6, va)
    | some e =>
      let v := rtView (rtAt s (cid * 64 + e))
      if v.limit < va + n then .error (6, v.limit)
      else if (rd && !v.rd) || (wr && !v.wr) || (user && !v.usr) then .error (7, va)
      else if v.cls = 5 then .error (11, va)
      else if v.cls = 2 ∨ v.cls = 3 ∨ v.cls = 4 then
        (let h := holdFor s cid team e
         if h = 0 then .error (8, va) else if wr && h != 2 then .error (9, va) else .ok e)
      else .ok e

/-- The checks of R92: step 7 also meets a collective buffer that a supervisor entry covers too, which every A2A's is (R183, R346,
log 89). -/
def rangeCheck (s : State) (cid team : Nat) (user : Bool) (va n : Nat) (rd wr : Bool) : Except (Nat × Nat) Nat :=
  match rangeMatch s cid team user va n rd wr with
  | .ok e => if e < 16 ∧ collTouched s cid va n = true then .error (11, va) else .ok e
  | .error x => .error x

/-- Steps 3 to 6 of R92 only (fetches, bind checks): the matching entry's class, or the cause and TVALUE. -/
def rangeCheck6 (s : State) (cid : Nat) (user : Bool) (va n : Nat) (rd wr : Bool) : Except (Nat × Nat) Nat :=
  if inWindow va && (windowTile (tidOfC cid) va).isNone then .error (6, va)
  else
    match rtMatch s cid va 64 with
    | none => .error (6, va)
    | some e =>
      let v := rtView (rtAt s (cid * 64 + e))
      if v.limit < va + n then .error (6, v.limit)
      else if (rd && !v.rd) || (wr && !v.wr) || (user && !v.usr) then .error (7, va)
      else .ok v.cls

/-- The same as a step of an instruction. -/
def rangeM (va n : Nat) (rd wr : Bool) : M Nat := fun s =>
  let sid := s.cur.sid
  match rangeCheck s (cidOf sid) (slotAt s sid).team (userMode s sid) va n rd wr with
  | .ok e => .ok (e, s)
  | .error (cause, tv) => .error (.trap cause (word tv) 0#64)

/-- The same against the matching entry alone. -/
def rangeMatchM (va n : Nat) (rd wr : Bool) : M Nat := fun s =>
  let sid := s.cur.sid
  match rangeMatch s (cidOf sid) (slotAt s sid).team (userMode s sid) va n rd wr with
  | .ok e => .ok (e, s)
  | .error (cause, tv) => .error (.trap cause (word tv) 0#64)

/-- The effective address of `[p + off]` (R84): PTR_OVF where it leaves the address space. -/
def effAddr (p : Word) (off : Int) : M Nat :=
  let ea : Int := (wfield p 0 56 : Nat) + off
  if ea < 0 ∨ ea ≥ (vaTop : Nat) then trapM 13 p else pure ea.toNat

/-- Alignment (R58, R239): ALIGN with the address. -/
def alignM (ea n : Nat) : M Unit := if ea % n = 0 then pure () else trapM 5 (word ea)

end Sys2Proof.Machine
end

