-- ==== Sys2Proof/Machine/Operands.lean ====
section
/-!
DEFINITION. Every operand form: g registers with presence, liveness, pending results and spill places; k registers;
queue handles as sources and destinations; immediates; memory bases; and the writing of results.

A register identifier is 0 to 63 for g, 64 + i for k, 80 + i for a handle.
-/

namespace Sys2Proof.Machine

/-! ### Queue handles (R94 to R104, R32, R34, R174, R175) -/

/-- The slots of a command port by engine code (R94). -/
def portSlots (eng : Nat) : Nat :=
  match eng with
  | 0 => 2
  | 1 => 2
  | 2 => 8
  | 3 => 16
  | 4 => 16
  | 5 => 4
  | _ => 0

/-- Commands of a strand that still take a slot of a port (R259, R319; log 13). -/
def portUsed (s : State) (sid eng ch : Nat) : Nat :=
  (s.cmds.filter fun p => p.2.sid == sid && p.2.eng == eng && p.2.ch == ch && !p.2.slotFree).length

/-- The pair-queue set of a strand's pair. -/
def pairKey (s : State) (sid : Nat) : Nat := cidOf sid * 8 + (slotAt s sid).pairSet
def pairAt (s : State) (pk : Nat) : PairSet := tget s.pairs pk {}
def modPair (pk : Nat) (f : PairSet → PairSet) (s : State) : State := { s with pairs := tput s.pairs pk (f (pairAt s pk)) }

/-- The partner has stopped: its slot is FREE or no longer paired with this one (R34). -/
def partnerGone (s : State) (sid : Nat) : Bool :=
  let x := slotAt s sid
  let p := slotAt s (cidOf sid * 16 + x.partner)
  p.st == .free || !p.paired || p.partner != slotNo sid

/-- The queue's capacity, for the check of a wait count (R99). The spec gives a combine inject handle none: one contribution stands in it
(DESIGN CHOICE, log 99). -/
def hCap (h : Handle) : Nat :=
  match h.kind with
  | 1 => 2 ^ h.sz
  | 2 => 16
  | 3 => portSlots h.eng
  | 4 => 2 ^ h.sz
  | 5 => 64 + 2 ^ (h.osz + 6)
  | 6 => 1
  | 7 => 8
  | _ => 0

/-- The key of a ring's header (R96). -/
def ringKey (sid : Nat) (h : Handle) : Nat := spKey (tidOfC (cidOf sid)) h.hdr
def ringRd (s : State) (sid : Nat) (h : Handle) : Nat := (mem64 s (ringKey sid h)).toNat
def ringWr (s : State) (sid : Nat) (h : Handle) : Nat := (mem64 s (ringKey sid h + 8)).toNat
def ringSlotKey (sid : Nat) (h : Handle) (c : Nat) : Nat := ringKey sid h + 16 + 8 * (c % 2 ^ h.sz)
/-- Filled slots of a ring: WRC - RDC (R96). -/
def ringFilled (s : State) (sid : Nat) (h : Handle) : Nat := (ringWr s sid h + 2 ^ 64 - ringRd s sid h) % 2 ^ 64

def extAt (s : State) (k : Nat) : Ext := tget s.ext k {}
def modExt (k : Nat) (f : Ext → Ext) (s : State) : State := { s with ext := tput s.ext k (f (extAt s k)) }

/-- The instance that a core's next contribution to a group belongs to: the node's own where the core has made none (R174). -/
def cnNextOf (s : State) (cid g : Nat) : Nat :=
  (tfind s.cnNext (cid * 256 + g)).getD (wfield (tget s.cnGrp (tidOfC cid * 256 + g) 0#64) 32 16)

/-- A contribution of a core to group g would wait: its next instance is two or more beyond the oldest incomplete one at
its node, whose two instances are both held (R174), or the core's own result of the older one is still on its way from the node (R175). -/
def cnWouldWait (s : State) (cid g : Nat) : Bool :=
  let next := cnNextOf s cid g
  let seq := wfield (tget s.cnGrp (tidOfC cid * 256 + g) 0#64) 32 16
  decide ((next + 65536 - seq) % 65536 ≥ 2) || (tfind s.cnWait ((cid * 256 + g) * 2 + next % 2)).isSome

/-- The keys under which `news` holds a receive queue's arrivals and an extract stream's elements; a count word of a ring stands
under its own key. -/
def rxNews (rk : Nat) : Nat := 2 ^ 60 + rk
def extNews (k : Nat) : Nat := 2 ^ 61 + k

/-- The slots filled or freed in this cycle, which no wait sees before the following one (R100). -/
def newsNow (s : State) (key : Nat) : Nat :=
  let p := tget s.news key (0, 0)
  if p.1 = s.now then p.2 else 0

/-- Slots are filled or freed now. -/
def addNews (key n : Nat) (s : State) : State := { s with news := tput s.news key (s.now, newsNow s key + n) }

/-- A count of a ring moves on (R96, R100). -/
def bumpCount (key n : Nat) (s : State) : State :=
  addNews key n (memSet64 key (mem64 s key + word n) s)

/-- Filled slots a consumer sees: those of a receive queue are its hardware slots (R101). -/
def hFilled (s : State) (sid : Nat) (h : Handle) : Nat :=
  match h.kind with
  | 1 => ringFilled s sid h - newsNow s (ringKey sid h + 8)
  | 4 => ringFilled s sid h - newsNow s (ringKey sid h + 8)
  | 2 => let p := pairAt s (pairKey s sid)
         if (slotAt s sid).xseq then p.axW - p.axR else p.xaW - p.xaR
  | 5 => let rk := cidOf sid * 4 + h.qix
         (rxAt s rk).ents.length - newsNow s (rxNews rk)
  | 7 => let k := cidOf sid * 256 + h.group
         (extAt s k).ents.length - newsNow s (extNews k)
  | _ => 0

/-- Free slots a producer sees (R247). -/
def hFree (s : State) (sid : Nat) (h : Handle) : Nat :=
  match h.kind with
  | 1 => 2 ^ h.sz - ringFilled s sid h - newsNow s (ringKey sid h)
  | 4 => 2 ^ h.sz - ringFilled s sid h - newsNow s (ringKey sid h)
  | 2 => let p := pairAt s (pairKey s sid)
         16 - (if (slotAt s sid).xseq then p.xaW - p.xaR else p.axW - p.axR)
  | 3 => portSlots h.eng - portUsed s sid h.eng h.ch
  | 6 => if cnWouldWait s (cidOf sid) h.group then 0 else 1
  | _ => 0

/-- The slot a consumer reads with wait count w: the slot at RDC + w - 1; none where it is not yet in the queue. -/
def hPeekSlot (s : State) (sid : Nat) (h : Handle) (w : Nat) : Option Word :=
  match h.kind with
  | 1 => some (mem64 s (ringSlotKey sid h (ringRd s sid h + w - 1)))
  | 4 => some (mem64 s (ringSlotKey sid h (ringRd s sid h + w - 1)))
  | 2 => let p := pairAt s (pairKey s sid)
         if (slotAt s sid).xseq then some (tget p.ax ((p.axR + w - 1) % 16) 0#64)
         else some (tget p.xa ((p.xaR + w - 1) % 16) 0#64)
  | 5 => ((rxAt s (cidOf sid * 4 + h.qix)).ents[w - 1]?).map (·.2)
  | 7 => ((extAt s (cidOf sid * 256 + h.group)).ents[w - 1]?).map (·.1)
  | _ => none

/-- The sender or status word of the slot a consumer reads (R101, R175, R251). -/
def hSenderSlot (s : State) (sid : Nat) (h : Handle) (w : Nat) : Option Word :=
  match h.kind with
  | 5 => ((rxAt s (cidOf sid * 4 + h.qix)).ents[w - 1]?).map (·.1)
  | 7 => ((extAt s (cidOf sid * 256 + h.group)).ents[w - 1]?).map (·.2)
  | _ => none

/-- The hold that the first read of a grant's payload sets, in slot `w` of receive queue `rk` (R119): HOLD and VLAST in the entry the
grant names, PEND cleared; HOME_LOST only clears PEND. Only a read by the acquiring strand does so, and a further read of that slot changes nothing. -/
def grantRead (sid rk w : Nat) (sender payload : Word) (s : State) : State :=
  let cid := cidOf sid
  let e := cid * 64 + wfield sender 41 6
  let b := bindAt s e
  let n := (rxAt s rk).takes + w - (rxAt s rk).ents.length
  if wfield sender 62 2 = 2 ∧ b.pend = true ∧ b.acq = sid ∧ b.team = (slotAt s sid).team ∧ (rxAt s rk).read.contains n = false then
    let s := modRx rk (fun q => { q with read := (q.read.filter fun i => decide (q.takes < i + q.ents.length)) ++ [n] }) s
    let v := rtView (rtAt s e)
    let lo := spKey (tidOfC cid) v.base
    let s := modSlot sid (fun x => { x with codeReg := (x.codeReg.filter fun r => r.1 != lo) ++ [(lo, v.limit - v.base, s.now)] }) s
    let s := modBind e (fun b => { b with pend := false, vlast := if wfield payload 2 2 = 2 then b.vlast else wfield payload 32 32 }) s
    if wfield payload 2 2 = 2 then s
    else
      let r := rtAt s e
      putRt e (r.1, setField r.2 59 2 (wfield payload 0 2)) s
  else s

/-- Kinds that a source use allows (R94). -/
def kindSrc (k : Nat) : Bool := k == 1 || k == 2 || k == 4 || k == 5 || k == 7
/-- Kinds that a destination use allows (R94). -/
def kindDst (k : Nat) : Bool := k == 1 || k == 2 || k == 3 || k == 6

/-- A handle as a source operand (R97, R98, R99). A read of q15 that asks for more entries than a stopped partner left traps at once,
also while some are left (R34; DEDUCED, log 84). -/
def readHandle (hn w : Nat) (peek : Bool) : M Word := do
  let s ← askM id
  let sid := s.cur.sid
  let h := hGet s sid hn
  if (slotAt s sid).busy.contains (80 + hn) then waitM
  else if !kindSrc h.kind then trapM 0x0E (word hn)
  else if h.kind = 2 ∧ (slotAt s sid).paired = false then trapM 0x0E (word hn)
  else if h.kind = 2 ∧ partnerGone s sid = true ∧ hFilled s sid h < w ∧ peek = false then trapM 0x0E (word hn)
  else if hCap h < w then trapM 0x0E (word hn) (word w)
  else if peek then pure (word (min (hFilled s sid h) (2 ^ 32 - 1)))
  else if hFilled s sid h < w then waitM
  else
    match hPeekSlot s sid h w with
    | none => waitM
    | some x => do
      if h.kind = 5 then updM (grantRead sid (cidOf sid * 4 + h.qix) w ((hSenderSlot s sid h w).getD 0#64) x)
      pure x

/-- An X strand's vector accesses are drained: every vector store it pushed is acknowledged and every vector load
performed (R285). -/
def drained (s : State) (sid : Nat) : Bool :=
  !(slotAt s sid).xseq ||
  ((tget s.vq (cidOf sid) []).all fun e => e.sid != sid || e.page != 5 || e.op > 6 || e.issued.length == 4)
  && (s.accs.all fun p => p.2.sid != sid || (match p.2.ret with
      | .lane _ _ _ => p.2.performed && (!p.2.store || p.2.answered)
      | _ => true))

def drainM : M Unit := do
  let s ← askM id
  waitUnless (drained s s.cur.sid)

/-- The checks and the wait of a handle in a destination field (R97, R99, R34). -/
def dstHandleReady (hn w : Nat) : M Unit := do
  let s ← askM id
  let sid := s.cur.sid
  let h := hGet s sid hn
  if (slotAt s sid).busy.contains (80 + hn) then waitM
  else if !kindDst h.kind then trapM 0x0E (word hn)
  else if h.kind = 2 ∧ ((slotAt s sid).paired = false ∨ partnerGone s sid = true) then trapM 0x0E (word hn)
  else if hCap h < w then trapM 0x0E (word hn) (word w)
  else if h.kind = 6 ∧ wfield (tget s.cnGrp (tidOfC (cidOf sid) * 256 + h.group) 0#64) 1 4 > 10 then
    trapM 0x1D (word h.group)
  else if h.kind = 2 ∧ drained s sid = false then waitM
  else waitUnless (decide (w ≤ hFree s sid h))

/-- A contribution to a combining group on its way to its node (R174, R182), and where the core's result goes. -/
def contribute (cid g : Nat) (x : Word) (w : CnWait) (s : State) : State :=
  let next := cnNextOf s cid g
  let s := { s with
    cnNext := tput s.cnNext (cid * 256 + g) ((next + 1) % 65536)
    cnWait := tput s.cnWait ((cid * 256 + g) * 2 + next % 2) w }
  post (s.now + 2) .cnPartial { a := tidOfC cid * 256 + g, b := next, c := cid % 4, p := .contrib ⟨[x], 0, 1⟩ } s

/-- The descriptor of a handle whose slot is written also after its strand's STOP (R94, R213): a ring, a combine inject handle. -/
def handleDesc (h : Handle) : Word :=
  match h.kind with
  | 1 => word (1 + h.sz * 2 ^ 4 + h.hdr * 2 ^ 8)
  | 6 => word (6 + h.group * 2 ^ 8)
  | _ => 0#64

/-- The slot that a producer writes with wait count w: the slot at WRC + w - 1 (R97), of the WRC that stands when the result is written
(DEDUCED, log 100). A write to a combine inject handle contributes, or waits while both instances of its node are held (R174). -/
def writeHandle (sid hn w : Nat) (x : Word) (s : State) : State :=
  let h := hGet s sid hn
  match h.kind with
  | 1 => memSet64 (ringSlotKey sid h (ringWr s sid h + w - 1)) x s
  | 2 =>
    let isX := (slotAt s sid).xseq
    modPair (pairKey s sid) (fun p =>
      if isX then { p with xa := tput p.xa ((p.xaW + w - 1) % 16) x }
      else { p with ax := tput p.ax ((p.axW + w - 1) % 16) x }) s
  | 3 => modSlot sid (fun y => { y with portw := tput y.portw (hn * 16 + w - 1) x }) s
  | 6 =>
    if cnWouldWait s (cidOf sid) h.group then
      post (s.now + 1) .resultWriteback { a := sid, b := (slotAt s sid).gen, c := 80 + hn, w := x, w2 := handleDesc h }
        (modSlot sid (fun y => { y with busy := y.busy ++ [80 + hn] }) s)
    else contribute (cidOf sid) h.group x { sid := sid, gen := (slotAt s sid).gen } s
  | _ => s

/-- A command port's write count moves on by one: the words written to later slots stand one slot nearer (R97, R100). -/
def portShift (sid hn : Nat) (s : State) : State :=
  let near (p : Nat × Word) : Option (Nat × Word) :=
    if p.1 / 16 = hn then (if p.1 % 16 = 0 then none else some (p.1 - 1, p.2)) else some p
  modSlot sid (fun x => { x with portw := x.portw.filterMap near }) s

/-! ### Registers as operands (R39 to R42, R97, R200, R213) -/

/-- The register identifier a G operand number names (R200). -/
def regOf (n : Nat) : Nat := if n < 32 then n else if n < 48 then 80 + (n - 32) else n - 16

/-- A read of a g register as a source: it waits for a pending result, a fetch and a presence bit; a dead register traps
with DEADREG under STRICT, and otherwise yields a free value (R41). -/
def readG (r opn : Nat) : M Word := do
  let s ← askM id
  let sid := s.cur.sid
  let x := slotAt s sid
  if r = 0 then pure 0#64
  else if x.busy.contains r then waitM
  else
    let p := tget s.place (fileKey sid r) .phys
    if p != .phys then stopM (.fetchReg r)
    else if !x.pres.toNat.testBit r then stopM (.waitReg r)
    else if !x.live.toNat.testBit r then
      (if (coreAt s (cidOf sid)).strict then trapM 0x04 (word opn)
       else do
        let v ← askM fun s => (freeValue s).1
        updM fun s => (freeValue s).2
        pure v)
    else pure (gGet s sid r)

/-- A source operand of a G field. -/
def src (n w : Nat) (peek : Bool) : M Word :=
  if 32 ≤ n ∧ n < 48 then readHandle (n - 32) w peek else readG (regOf n) n

/-- A source operand of a K field: null until written, and waiting for a pending result (R40, R213). -/
def srcK (n : Nat) : M Word := do
  let s ← askM id
  let sid := s.cur.sid
  if (slotAt s sid).busy.contains (64 + n) then waitM
  else if tget s.place (fileKey sid (64 + n)) .phys != .phys then stopM (.fetchReg (64 + n))
  else pure (kGet s sid n)

/-- A destination may be written: no result is still pending in it, it is in the physical file, and a handle's wait is
met (R97, R213, R39). -/
def dstReady (n w : Nat) : M Unit := do
  if 32 ≤ n ∧ n < 48 then dstHandleReady (n - 32) w
  else
    let s ← askM id
    let sid := s.cur.sid
    let r := regOf n
    if r = 0 then pure ()
    else if (slotAt s sid).busy.contains r then waitM
    else if tget s.place (fileKey sid r) .phys != .phys then stopM (.fetchReg r)
    else pure ()

def dstReadyK (n : Nat) : M Unit := do
  let s ← askM id
  let sid := s.cur.sid
  if (slotAt s sid).busy.contains (64 + n) then waitM
  else if tget s.place (fileKey sid (64 + n)) .phys != .phys then stopM (.fetchReg (64 + n))
  else pure ()

/-- A result reaches its destination by register identifier (R213). A handle's identifier carries its wait count in
`id / 128`. -/
def writeReg (sid rid : Nat) (x : Word) (s : State) : State :=
  let r := rid % 128
  if r < 64 then gSet sid r x s
  else if r < 80 then kSet sid (r - 64) x s
  else writeHandle sid (r - 80) (rid / 128 + 1) x s

/-- A register has a result still to come (R213). -/
def addBusy (sid r : Nat) (s : State) : State := modSlot sid (fun x => { x with busy := x.busy ++ [r] }) s
def delBusy (sid r : Nat) (s : State) : State := modSlot sid (fun x => { x with busy := x.busy.erase r }) s

/-- The result of an instruction with latency `lat` (R213): written now where the next instruction may read it, and
otherwise by a RESULT_WRITEBACK, a handle's slot in the result cycle always, with the handle it names. The write cycle is kept, since a result that meets an
XPUT arrival stands. -/
def deliver (rid lat : Nat) (x : Word) (s : State) : State :=
  let sid := s.cur.sid
  if rid % 128 = 0 then s
  else if lat ≤ 1 ∧ rid % 128 < 80 then
    modSlot sid (fun y => { y with wr1 := some (rid % 128, s.now + 1) }) (writeReg sid rid x s)
  else
    let desc := if rid % 128 < 80 then 0#64 else handleDesc (hGet s sid (rid % 128 - 80))
    post (s.now + max 1 lat) .resultWriteback { a := sid, b := (slotAt s sid).gen, c := rid, w := x, w2 := desc }
      (addBusy sid (rid % 128) s)

def writeResult (rid lat : Nat) (x : Word) : M Unit := updM (deliver rid lat x)

/-! ### The fields of an instruction (R193 to R201) -/

def Ops.A (o : Ops) : Nat := o.a.toNat
def Ops.B (o : Ops) : Nat := o.b.toNat
def Ops.C (o : Ops) : Nat := o.c.toNat
/-- The wait counts and the peek flag of EXQ (R194, R97). -/
def wA (o : Ops) : Nat :=
  match o.exq with
  | some p => nfield p.toNat 5 4 + 1
  | none => 1
def wB (o : Ops) : Nat :=
  match o.exq with
  | some p => nfield p.toNat 1 4 + 1
  | none => 1
def peekOf (o : Ops) : Bool :=
  match o.exq with
  | some p => p.toNat.testBit 0
  | none => false

/-- The destination operand number: C with EXR, else A (R193, R197). -/
def dstN (o : Ops) : Nat := if o.exr then o.c.toNat else o.a.toNat
/-- The destination's wait count: that of A where A and the destination are one operand (R97, R198). -/
def dstW (o : Ops) : Nat := if o.exr && o.c != o.a then 1 else wA o
/-- The destination's register identifier. -/
def dstRid (o : Ops) : Nat :=
  let r := regOf (dstN o)
  if r ≥ 80 then r + 128 * (dstW o - 1) else r

def srcA (o : Ops) : M Word := src o.a.toNat (wA o) (peekOf o)
def srcB (o : Ops) : M Word := src o.b.toNat (wB o) (peekOf o)
/-- C as a third source: a g register (R221, R270, R311). -/
def srcC (o : Ops) : M Word := src o.c.toNat 1 false

/-- The last-use marks, applied after all reads; a dead register is dropped (R38, R40). -/
def killReg (n : Nat) (s : State) : State :=
  if 32 ≤ n ∧ n < 48 then s
  else
    let r := regOf n
    if r = 0 then s
    else dropPlaces (· == fileKey s.cur.sid r) (modSlot s.cur.sid (fun x => { x with live := x.live &&& ~~~ word (2 ^ r) }) s)

def markLast (o : Ops) (s : State) : State :=
  let s := if o.l then killReg o.b.toNat s else s
  if o.la then killReg o.a.toNat s else s

def lastUse (o : Ops) : M Unit := updM (markLast o)

/-- Only the mark of B (an A that is no G field). -/
def markLastB (o : Ops) (s : State) : State := if o.l then killReg o.b.toNat s else s

def lastUseB (o : Ops) : M Unit := updM (markLastB o)

/-- The number a list of EXI payloads holds, the first most significant (R196). -/
def exiNat : List (BitVec 9) → Nat → Nat
  | [], n => n
  | x :: xs, n => exiNat xs (n * 512 + x.toNat)

/-- The immediate `bits` and their width (R196). -/
def bitsR (o : Ops) : Nat × Nat := (exiNat o.xi 0, 9 * o.xi.length)
def bitsI (o : Ops) : Nat × Nat := (exiNat o.xi 0 * 64 + o.lo.toNat % 64, 9 * o.xi.length + 6)
def bitsJ (o : Ops) : Nat × Nat := (exiNat o.xi 0 * 2048 + o.lo.toNat, 9 * o.xi.length + 11)
/-- The sign extension of `bits` (R196); no bits are zero. -/
def signExt (p : Nat × Nat) : Int :=
  if p.2 = 0 then 0 else if p.1.testBit (p.2 - 1) then (p.1 : Int) - 2 ^ p.2 else p.1
def immR (o : Ops) : Int := signExt (bitsR o)
def immI (o : Ops) : Int := signExt (bitsI o)
def immJ (o : Ops) : Int := signExt (bitsJ o)
def wordI (i : Int) : Word := BitVec.ofInt 64 i

/-- ILLEGAL reason 9 unless the condition holds (R204 step 11). -/
def need9 (b : Bool) : M Unit := if b then pure () else illegal 9
/-- At most one EXI. -/
def oneXi (o : Ops) : M Unit := need9 (decide (o.xi.length ≤ 1))

/-- The format row of a fat pointer, or FMT (R57). -/
def fmtM (p : Word) : M Num.FmtRow :=
  match Num.fmtRow (wfield p 60 4) with
  | some r => if wfield p 57 3 = r.blk ∧ wfield p 56 1 = 0 then pure r else trapM 0x0C p
  | none => trapM 0x0C p

/-- A pointer that must be RAW (R239, R241). -/
def rawM (p : Word) : M Unit := do
  let _ ← fmtM p
  if wfield p 60 4 = 0 then pure () else trapM 0x0C p

/-- The effective address of a RAW memory operand with scale and alignment `n` (R235, R239). -/
def rawAddr (o : Ops) (p : Word) (scale align : Nat) : M Nat := do
  rawM p
  let ea ← effAddr p (immR o * scale)
  alignM ea align
  pure ea

end Sys2Proof.Machine
end

