-- ==== Sys2Proof/Machine/Access.lean ====
section
/-!
DEFINITION. Accesses in flight: routes and latencies (R236, R269), request slots and the remote-store table (R236, R396),
the router's check (R428), rejections (R397, R398), and the performing and answering of loads, stores and messages.
-/

namespace Sys2Proof.Machine

/-! ### Routes (R13, R87, R89, R236) -/

/-- Where an address lies from a tile: device memory or a tile's scratchpad, hops, die boundaries, bank. -/
structure Route where
  dev : Bool
  tid : Nat
  h : Nat
  c : Nat
  bank : Nat
deriving DecidableEq, Repr

/-- The bank number of a message, which names no bank (R133). -/
def msgBank : Nat := 2 ^ 30

def routeOf (own va : Nat) : Route :=
  if inWindow va then
    let t := (windowTile own va).getD own
    ⟨false, t, hops own t, crossings own t, 512 + t % 2048 * 16 + nfield va 5 4⟩
  else
    let (h, c) := dieDist own (nfield va 12 4 / 2)
    ⟨true, own, h, c, nfield va 7 9⟩

/-- Cycles from issue to the bank (R236, R269). -/
def perfDelay (r : Route) (own : Nat) (atomic conv : Bool) : Nat :=
  (if atomic then (if r.dev then 218 + 2 * r.h else 6 + 3 * r.h)
   else if r.dev then 216 + 2 * r.h
   else if r.tid = own then 2
   else 5 + 3 * r.h) + 8 * r.c + (if conv then 1 else 0)

/-- Cycles from the bank to the load result or acknowledgement (R236, R269). -/
def ansDelay (r : Route) (own : Nat) (atomic store : Bool) : Nat :=
  if atomic then 6 + (if r.dev then r.h else 3 * r.h) + 8 * r.c
  else if r.dev then 4 + r.h + 8 * r.c
  else if r.tid = own then (if store then 0 else 2)
  else 5 + 3 * r.h + 8 * r.c

/-- The load latency of R236 for an address. -/
def loadLatency (own va : Nat) : Nat :=
  let r := routeOf own va
  perfDelay r own false false + ansDelay r own false false

/-! ### Request slots and remote-store entries (R236, R396) -/

/-- The access belongs to the gang now on a core, or to none (R403, R433). -/
def accHere (s : State) (cid : Nat) (a : Acc) : Bool := a.gang.isNone || a.gang == (coreAt s cid).gang

def slotsUsed (s : State) (cid : Nat) : Nat :=
  (s.accs.filter fun p => cidOf p.2.sid == cid && p.2.slot && accHere s cid p.2).length
def bankUsed (s : State) (cid bank : Nat) : Nat :=
  (s.accs.filter fun p => cidOf p.2.sid == cid && p.2.slot && p.2.bank == bank && accHere s cid p.2).length
def remoteUsed (s : State) (cid : Nat) : Nat :=
  (s.accs.filter fun p => cidOf p.2.sid == cid && p.2.remote && accHere s cid p.2).length

/-- The accesses of a strand's present life. -/
def strandAccs (s : State) (sid : Nat) : Tab Acc :=
  s.accs.filter fun p => p.2.sid == sid && p.2.gen == (slotAt s sid).gen && accHere s (cidOf sid) p.2

/-- An LDACQ of the strand is not yet performed (R142). -/
def acqPending (s : State) (sid : Nat) : Bool := (strandAccs s sid).any fun p => p.2.acq && !p.2.performed

/-- The access may take its slot and its remote-store entry now. -/
def accFree (s : State) (sid bank : Nat) (slot remote : Bool) : Bool :=
  let cid := cidOf sid
  !acqPending s sid
  && (!slot || (decide (slotsUsed s cid < 16) && (bank == msgBank || decide (bankUsed s cid bank < 12))))
  && (!remote || decide (remoteUsed s cid < 32))

/-- An access holds what an access to a bank waits for: a request slot it may use, a remote-store entry, or its place before an LDACQ. -/
def holdsGate (s : State) (cid bank : Nat) (slot remote : Bool) (a : Acc) : Bool :=
  a.acq || (slot && a.slot && (decide (16 ≤ slotsUsed s cid) || a.bank == bank)) || (remote && a.remote && decide (32 ≤ remoteUsed s cid))

/-- Waits until it may. -/
def accGate (bank : Nat) (slot remote : Bool) : M Unit := do
  let s ← askM id
  waitOnUnless (holdsGate s (cidOf s.cur.sid) bank slot remote) (accFree s s.cur.sid bank slot remote)

/-- The event that performs an access. -/
def perfEvent (a : Acc) : Instr :=
  if a.sc.isSome then .scComplete
  else
    match a.kind with
    | .atom => .atomicPerform
    | .cas => .atomicPerform
    | .watch => .watchMade
    | _ => .accessPerform

/-- Records an access and sends it on its way: to the MTU, 110 cycles after issue, for device memory (R361), or to its
scratchpad bank. -/
def sendAcc (a : Acc) (s : State) : Nat × State :=
  let (id, s) := freshId s
  let s := { s with accs := tput s.accs id a }
  (id, if a.dev then post (s.now + 110) .mtuAccessDecide { a := id } s else post a.perfAt (perfEvent a) { a := id } s)

/-- The fields of an access that its strand and route give. -/
def accOf (s : State) (sid va n : Nat) (kind : AccKind) (atomic conv : Bool) : Acc :=
  let cid := cidOf sid
  let own := tidOfC cid
  let r := routeOf own va
  let st := kind == .store
  let far := r.dev || r.tid != own
  { kind := kind, sid := sid, gen := (slotAt s sid).gen, ipc := s.cur.ipc, order := (slotAt s sid).issued
    dpkg := pkgOfC cid, dev := r.dev, va := va, size := n
    key := if r.dev then none else some (spKey r.tid va)
    bank := r.bank, perfAt := s.now + perfDelay r own atomic conv, ansLat := ansDelay r own atomic st
    slot := far, remote := far && (st || kind == .atom || kind == .cas), store := st
    tenant := (coreAt s cid).tenant, part := (coreAt s cid).part, tvalue := word va, gang := (coreAt s cid).gang
    issuedAt := s.now }

/-! ### Supersteps (R50 to R52) -/

/-- A tile lies in a gang's rectangle. -/
def inGang (g : Gang) (tid : Nat) : Bool :=
  g.pkey / 64 == tid / 2048 && decide (g.x0 ≤ tileX tid) && decide (tileX tid < g.x0 + g.w)
  && decide (g.y0 ≤ tileY tid) && decide (tileY tid < g.y0 + g.h)

/-- R51's refusal in a compute step: a participant writes to another tile of its gang. -/
def stepRefuses (s : State) (sid tid : Nat) : Bool :=
  match gangOfCore s (cidOf sid) with
  | none => false
  | some g => g.sstep && !g.exch && (slotAt s sid).part && tid != tidOfC (cidOf sid) && inGang g tid

/-- A write that is an exchange put: in an exchange step, to another tile of the gang (R51). -/
def isXchg (s : State) (sid tid : Nat) : Bool :=
  match gangOfCore s (cidOf sid) with
  | none => false
  | some g => g.sstep && g.exch && tid != tidOfC (cidOf sid) && inGang g tid

/-- The window tile an address names, for R51; none for device memory. -/
def tileOfVa (own va : Nat) : Option Nat := if inWindow va then windowTile own va else none

def stepM (va : Nat) : M Unit := do
  let s ← askM id
  match tileOfVa (tidOfC (cidOf s.cur.sid)) va with
  | some t => if stepRefuses s s.cur.sid t then trapM 7 (word va) else pure ()
  | none => pure ()

/-- The cores of a gang. -/
def gangCores (g : Gang) : List Nat :=
  (List.range g.h).flatMap fun j => (List.range g.w).flatMap fun i =>
    (List.range 4).map fun c => (g.pkey / 64) * 8192 + ((g.y0 + j) * 64 + g.x0 + i) * 4 + c

/-- Every live participant of a core has executed the instruction that ends the step (R50). -/
def coreArrived (s : State) (cid : Nat) : Bool :=
  (List.range 11).all fun n =>
    let x := slotAt s (cid * 16 + n)
    x.st == .free || !x.part || x.arrived

/-- The cycle of a step's boundary: 4 + 2(W + H) after the last core's arrival, or after the last exchange put's acknowledgement (R52). -/
def boundaryAt (g : Gang) : Nat :=
  (g.arrivedAt.map (·.2)).foldl max (if g.exch then g.putAck else 0) + 4 + 2 * (g.w + g.h)

/-- Records the arrival cycle of a core that has arrived, and posts the step's boundary once every core has and, at the
end of an exchange step, every exchange put is acknowledged (R51, R52). -/
def stepCheck (gid cid : Nat) (s : State) : State :=
  match gangAt s gid with
  | none => s
  | some g =>
    if !g.sstep then s
    else
      let g := if coreArrived s cid && !(g.arrivedAt.any fun p => p.1 == cid)
        then { g with arrivedAt := g.arrivedAt ++ [(cid, s.now)] } else g
      let all := (gangCores g).all fun c => g.arrivedAt.any fun p => p.1 == c
      if all && !g.posted && (!g.exch || g.puts == 0) then
        post (max s.now (boundaryAt g)) .superstepBoundary { a := gid, b := g.stepNo }
          { s with gangs := tput s.gangs gid { g with posted := true } }
      else { s with gangs := tput s.gangs gid g }

/-- An exchange put is issued. -/
def xchgIssued (sid : Nat) (s : State) : State :=
  match (coreAt s (cidOf sid)).gang with
  | some gid => modGang gid (fun g => { g with puts := g.puts + 1 }) s
  | none => s

/-- An exchange put was acknowledged at cycle `t`. -/
def putDone (sid : Nat) (gang : Option Nat) (t : Nat) (s : State) : State :=
  match gang with
  | some gid => stepCheck gid (cidOf sid) (modGang gid (fun g => { g with puts := g.puts - 1, putAck := max g.putAck t }) s)
  | none => s

/-- An exchange put is acknowledged. -/
def xchgDone (sid : Nat) (gang : Option Nat) (s : State) : State := putDone sid gang s.now s

/-! ### Routers and rejections (R397, R398, R428) -/

/-- The destination router accepts a message of that tenant and partition; one from another package shows only its
tenant (R428). A tile in no partition accepts none (R427). -/
def routerOk (s : State) (tid tenant part : Nat) (foreign : Bool) : Bool :=
  let t := tileAt s tid
  t.part.isSome && t.tenant == tenant && (foreign || t.allow.toNat.testBit part)

/-- Logs a rejection at the MTU of a die: 64 entries, then a count (R398). -/
def logReject (mk cid va tenant : Nat) (s : State) : State :=
  let m := tget s.mtus mk {}
  { s with mtus := tput s.mtus mk (if m.log.length < 64 then { m with log := m.log ++ [(cid, va, tenant)] }
      else { m with logLost := m.logLost + 1 }) }

/-- The MTU key of a tile's die, and of a device address. -/
def mtuOfTile (tid : Nat) : Nat := tid / 2048 * 8 + dieOfTile tid

/-- A store or message is refused at its destination: logged there, and its entry marked rejected when the refusal
reaches the core (R397, R398). -/
def rejectAcc (id mk : Nat) (a : Acc) (s : State) : State :=
  overLink a.dpkg (pkgOfC (cidOf a.sid)) 1 8 (s.now + a.ansLat) .remoteRejection { a := id }
    (logReject mk (cidOf a.sid) a.va a.tenant (modAcc id (fun a => { a with performed := true }) s))

/-- A load, atomic or fetch is refused: it fails with PAGE_FATAL and that reason when the refusal reaches the core. -/
def failAcc (id reason : Nat) (a : Acc) (s : State) : State :=
  post (s.now + a.ansLat) .parkedAccessFail { a := id, b := 0x19, c := reason }
    (modAcc id (fun a => { a with performed := true }) s)

/-- What the router of another tile does with an access that it refuses. -/
def refuseAcc (id tid : Nat) (a : Acc) (s : State) : State :=
  if a.kind = .store then rejectAcc id (mtuOfTile tid) a s
  else failAcc id 4 a (logReject (mtuOfTile tid) (cidOf a.sid) a.va a.tenant s)

/-! ### Performing (R133 to R137) -/

/-- Where an access stands in its core's issue order: what the barrier of a reference sends, at its instruction's place (R137, R160). -/
def orderOf (id : Nat) (a : Acc) : Nat :=
  match a.ret with
  | .heap hid => hid
  | _ => id

/-- An earlier access of the same core to the same bank is not performed yet (R137). -/
def bankBlocked (s : State) (id : Nat) (a : Acc) : Bool :=
  s.accs.any fun p =>
    decide (p.1 < orderOf id a) && cidOf p.2.sid == cidOf a.sid && p.2.bank == a.bank && p.2.dpkg == a.dpkg
    && !p.2.performed && p.2.bank != msgBank && p.2.kind != .fetch

/-- The header of the object that an access names is not performed yet (R278). -/
def headerFirst (s : State) (a : Acc) : Bool :=
  decide (0 < a.behind) && (match tfind s.accs a.behind with
    | some b => !b.performed
    | none => false)

/-- The router of the tile of an access's key refuses it; within its own tile none is asked (R428), and an engine's remote atomic
has passed its destination's check. -/
def accRefused (s : State) (a : Acc) (key : Nat) : Bool :=
  !a.dev && !a.decided && spTile key != tidOfC (cidOf a.sid) && !routerOk s (spTile key) a.tenant a.part false

/-- The bank of an access, in the table of banks. -/
def bankKey (a : Acc) : Nat := a.dpkg * 2 ^ 31 + a.bank

/-- An access that a home atomic engine performs (R254). -/
def atEngine (a : Acc) : Bool := a.kind == .atom || a.kind == .cas || a.kind == .watch

/-- An access that takes no turn: an SC access is performed in its completion cycle (R144); the parked accesses of a page are
answered together (R413, the run printed in spec/17), and what the barrier's slow path sends goes beside an access issued in
that cycle (the same run); a fetch and an engine's look at a page name no bank of this model. -/
def noTurn (a : Acc) : Bool := a.sc.isSome || a.kind == .fetch || a.parked || a.late || (a.bank == msgBank && !atEngine a)

/-- A home atomic engine has performed its one access to a location in this cycle (R254). -/
def engineBusy (s : State) (key : Nat) : Bool := tget s.engines (key / 8) 0 == s.now + 1

/-- A home atomic engine performs an access to a location. -/
def engineTook (key : Nat) (s : State) : State := { s with engines := tput s.engines (key / 8) (s.now + 1) }

/-- The accesses that wait for their performance in this cycle: due, accepted, and behind none of their own core. -/
def atBanks (s : State) : List (Nat × Acc) :=
  s.agenda.filterMap fun e =>
    if e.1 ≤ s.now ∧ (e.2.1 == .accessPerform || e.2.1 == .atomicPerform || e.2.1 == .watchMade) = true then
      match tfind s.accs e.2.2.a with
      | some b =>
        match b.key with
        | some key => if b.performed || noTurn b || bankBlocked s e.2.2.a b || accRefused s b key then none else some (e.2.2.a, b)
        | none => none
      | none => none
    else none

/-- The distance of a core from the one a bank served last, in ascending core number, wrapping (R405). -/
def bankTurn (last1 cid : Nat) : Nat := (cid + 2 ^ 32 - last1) % 2 ^ 32

/-- Another access comes before this one, or the bank or engine has performed its one of this cycle: a bank takes the next
core after the one it served last (R405); an engine performs one per location, in order of arrival, then package, core and
slot (R254). -/
def notItsTurn (s : State) (id : Nat) (a : Acc) : Bool :=
  if noTurn a then false
  else if atEngine a then
    let key := a.key.getD 0
    engineBusy s key ||
    (atBanks s).any fun p => p.1 != id && atEngine p.2 && p.2.key.getD 0 / 8 == key / 8
      && (decide (p.2.perfAt < a.perfAt) || (p.2.perfAt == a.perfAt && decide (p.2.sid < a.sid)))
  else
    let b := tget s.banks (bankKey a) (0, 0)
    b.2 == s.now + 1 ||
    (atBanks s).any fun p => p.1 != id && !atEngine p.2 && bankKey p.2 == bankKey a
      && decide (bankTurn b.1 (cidOf p.2.sid) < bankTurn b.1 (cidOf a.sid))

/-- The bank or engine has performed its one of this cycle. -/
def tookTurn (a : Acc) (s : State) : State :=
  if noTurn a then s
  else if atEngine a then engineTook (a.key.getD 0) s
  else { s with banks := tput s.banks (bankKey a) (cidOf a.sid + 1, s.now + 1) }

/-- The event that brings an access's answer to its core (R236, R396, R413). -/
def answerEvent (a : Acc) : Instr :=
  if a.parked then .parkedAccessAnswer else if a.store then .storeAck else .loadResult

/-- An access at its bank: it waits for earlier ones of its core (R137), passes the router, waits for its turn (R254, R405), and
is performed by `act` on the key of its first byte; the answer is posted. -/
def atBank (id : Nat) (ev : Instr) (act : Acc → Nat → State → Acc × State) (s : State) : State :=
  match tfind s.accs id with
  | none => s
  | some a =>
    if a.performed then s
    else if bankBlocked s id a || headerFirst s a then post (s.now + 1) ev { a := id } s
    else
      match a.key with
      | none => s
      | some key =>
        if accRefused s a key then refuseAcc id (spTile key) a s
        else if notItsTurn s id a then post (s.now + 1) ev { a := id } s
        else
          let s := tookTurn a s
          let s := if a.dev && (a.store || a.kind == .atom || a.kind == .cas) then markD a.dpkg a.va s else s
          let (a, s) := act a key s
          post (s.now + a.ansLat) (answerEvent a) { a := id } { s with accs := tput s.accs id { a with performed := true } }

/-- A store admitted with INFL + 1 has been performed: INFL - 1 goes to its entry's atomic engine when the core knows
(R160). -/
def inflDown (a : Acc) (s : State) : State :=
  let own := tidOfC (cidOf a.sid)
  if a.infl = 0 then s
  else post (s.now + a.ansLat + perfDelay (routeOf own a.infl) own true false) .inflDecrement { a := a.dpkg, b := a.infl, c := a.tenant, d := a.sid } s

/-- The store of a ring entry is performed: the write count rises and ACCEPT leaves in this cycle (R102). -/
def appended (r : Acc × State) : Acc × State :=
  match r.1.ret with
  | .ring rk pos m => (r.1, if r.1.kind = .msg then r.2 else post r.2.now .ringAppendDone { a := rk, b := r.1.op, c := pos, p := .msg m } r.2)
  | _ => r

/-- ACCESS_PERFORM (R236): a load reads its bytes, a store writes them, a fetch finds its page. -/
def execAccessPerform (s : State) : Res :=
  .next (atBank s.ev.a .accessPerform (fun a key s =>
    let w := strandWriter a.sid a.issuedAt
    if a.store then appended <| (a, inflDown a (if a.cells.isEmpty then memWrite key a.data s w
      else memWriteCells w (a.cells.map fun c => (key + c.1, c.2)) s)) else ({ a with data := mread s.mem key a.size }, s)) s)

/-- The value of loaded bytes in a register (R59, R238, R240). -/
def extend (e : Ext1) (bs : List Byte) : Word :=
  match e with
  | .zext => word (bytesNat bs)
  | .sext b => BitVec.ofInt 64 (signExt (bytesNat bs, b))
  | .fmt c =>
    let l := (Num.unitLanes c bs).headD 0#32
    match Num.fmtRow c with
    | some r => if r.cls = 2 then BitVec.ofInt 64 l.toInt else ofLane' l
    | none => ofLane' l
where
  ofLane' (x : Lane) : Word := x.zeroExtend 64

/-- A register's value, presence and liveness in the frame of a strand that is swapped out or trapped (R43, R362). -/
def regToFrame (sid rid : Nat) (s : State) : State :=
  let k := frameKey sid
  let x := slotAt s sid
  let off := if rid < 64 then 8 * rid else 0x200 + 8 * (rid - 64)
  let v := if rid < 64 then gGet s sid rid else kGet s sid (rid - 64)
  if rid < 80 then
    { s with mem := mwrite (mwrite s.mem (k + off) (natBytes 8 v.toNat)) (k + 0x388) (wordsBytes [x.pres, x.live]) }
  else s

/-- A register written where it stands: in the frame alone of a team that is swapped out (R362), in the frame too where it is parked
there (R38). -/
def syncFrame (sid rid : Nat) (s : State) : State :=
  if (slotAt s sid).st = .swapped then
    let s := dropPlaces (· == fileKey sid rid) (regToFrame sid rid s)
    { s with place := tput s.place (fileKey sid rid) .frame }
  else if tget s.place (fileKey sid rid) .phys = .frame then regToFrame sid rid s
  else s

/-- A late result reaches its register; in the frame too where the team is swapped out (R362). -/
def lateResult (sid rid : Nat) (x : Word) (s : State) : State :=
  let s := delBusy sid (rid % 128) s
  if rid % 128 = 0 then s
  else
    syncFrame sid (rid % 128) (writeReg sid rid x s)

/-- A result that lands after its strand's STOP, before the slot is started again (the hand-off printed in spec/11): the
register of the FREE slot takes it, and the slot's other state stays. -/
def landFree (sid rid : Nat) (x : Word) (s : State) : State :=
  if rid % 128 = 0 ∨ 64 ≤ rid % 128 then s else { s with g := tput s.g (sid * 64 + rid % 128) x }

/-- A slot is FREE after the life `gen` of its strand. -/
def freedLife (s : State) (sid gen : Nat) : Bool := (slotAt s sid).gen == gen && (slotAt s sid).st == .free

/-- The strand that issued an access is still in that life. -/
def accLive (s : State) (a : Acc) : Bool := (slotAt s a.sid).gen == a.gen && (slotAt s a.sid).st != .free

/-- The result of an access: to its strand, or after the strand's STOP to the register of the FREE slot. -/
def landResult (a : Acc) (rid : Nat) (x : Word) (s : State) : State :=
  if accLive s a then lateResult a.sid rid x s
  else if freedLife s a.sid a.gen && (coreAt s (cidOf a.sid)).gang == a.gang then landFree a.sid rid x s
  else s

/-- A register of the access's strand waits no longer for it. -/
def landNone (a : Acc) (rid : Nat) (s : State) : State := if accLive s a then delBusy a.sid rid s else s

/-! ### Vector lanes of an access (R284, R303 to R306) -/

def setLane (cid vreg lane : Nat) (x : Lane) (s : State) : State :=
  { s with v := tput s.v (cid * 1024 + vreg * 32 + lane) x }
def getLane (s : State) (cid vreg lane : Nat) : Lane := tget s.v (cid * 1024 + vreg * 32 + lane) 0#32

def modVEnt (cid vid : Nat) (f : VEnt → VEnt) (s : State) : State :=
  { s with vq := tput s.vq cid ((tget s.vq cid []).map fun e => if e.vid = vid then f e else e) }

/-- Writes consecutive lanes of a register. -/
def setLanes (cid vreg lane : Nat) : List Lane → State → State
  | [], s => s
  | x :: xs, s => setLanes cid vreg (lane + 1) xs (if lane < 32 then setLane cid vreg lane x s else s)

/-- The unit of a vector format: elements and bytes; RAW counts as lanes of 4 bytes (R304). -/
def vUnit (code : Nat) : Nat × Nat :=
  if code = 0 then (1, 4) else ((Num.fmtRow code).map fun r => (r.ue, r.ub)).getD (1, 4)

/-- The first element, and the address and number of the bytes, of quarters `lo` to `hi` of a contiguous access. -/
def vSpan (e : VEnt) (lo hi : Nat) : Nat × Nat × Nat :=
  let (ue, ub) := vUnit e.fmt
  let e0 := 8 * lo / ue * ue
  let e1 := (8 * hi + 8 + ue - 1) / ue * ue
  (e0, e.addr + e0 / ue * ub, (e1 - e0) / ue * ub)

/-- The key of a byte that has arrived for a quarter. -/
def vCell (quarter va : Nat) : Nat := quarter * 2 ^ 60 + va

/-- The eight lanes of a quarter whose bytes have all arrived. -/
def vLanes (e : VEnt) (quarter : Nat) : List Lane :=
  let code := if e.fmt = 0 then 1 else e.fmt
  if e.lanes.isEmpty then
    let (ue, ub) := vUnit e.fmt
    let (e0, a, n) := vSpan e quarter quarter
    let bs := (List.range n).map fun i => mget e.cells (vCell quarter (a + i))
    ((Num.unitsLanes code ub ((n + ub - 1) / ub) bs).drop (8 * quarter - e0 / ue * ue)).take 8
  else
    ((e.lanes.drop (8 * quarter)).take 8).map fun a =>
      (Num.unitLanes code ((List.range e.z).map fun i => mget e.cells (vCell quarter (a + i)))).headD 0#32

/-- A later instruction has already written that quarter of the register: an earlier result no longer shows (R283). -/
def vSuperseded (q : List VEnt) (e : VEnt) (quarter : Nat) : Bool :=
  q.any fun x => decide (e.vid < x.vid) && x.dst == e.dst && x.done.contains quarter

/-- The queue without the instructions at its head that are wholly done. -/
def vTrim (q : List VEnt) : List VEnt := q.dropWhile fun e => e.issued.length == 4 && e.done.length == 4

/-- A quarter's lanes are written. -/
def vWrite (cid vid quarter : Nat) (xs : List Lane) (s : State) : State :=
  let q := tget s.vq cid []
  match q.find? fun e => e.vid == vid with
  | none => s
  | some e =>
    let s := if e.dst < 32 && !vSuperseded q e quarter then setLanes cid e.dst (8 * quarter) xs s else s
    { s with vq := tput s.vq cid (vTrim (q.map fun x => if x.vid = vid then { x with done := x.done ++ [quarter] } else x)) }

/-- An access of a quarter is answered: its bytes are kept, and the quarter's lanes are written once none is left (R284,
R306). -/
def laneAnswer (cid vid quarter : Nat) (load : Bool) (va : Nat) (bs : List Byte) (s : State) : State :=
  if !load then s
  else
    let cells := (bs.zip (List.range bs.length)).map fun p => (vCell quarter (va + p.2), p.1)
    let s := modVEnt cid vid (fun e => { e with cells := cells ++ e.cells }) s
    if s.accs.any fun p => (match p.2.ret with
        | .lane v k _ => v == vid && k == quarter
        | _ => false) then s
    else
      match (tget s.vq cid []).find? fun e => e.vid == vid with
      | none => s
      | some e => vWrite cid vid quarter (vLanes e quarter) s

/-! ### Binding a handle (R94, R95, R104) -/

/-- The descriptor words as a handle; none where a kind, code or field is out of its limits (R94, R95), which log 97 takes to
include reserved bits and a CH without ENG 2. -/
def handleOf (w0 w1 : Word) : Option Handle :=
  let k := wfield w0 0 4
  let clean (m : Nat) (w1ok : Bool) : Bool := (w0.toNat &&& (2 ^ 64 - 1 - m)) == 0 && w1ok
  let z1 := w1 == 0#64
  match k with
  | 0 => if clean 0xF z1 then some {} else none
  | 1 =>
    let sz := wfield w0 4 4
    let hd := wfield w0 8 20
    if clean 0xFFFFFFF z1 && decide (1 ≤ sz) && decide (sz ≤ 12) && hd % 16 == 0
    then some { kind := 1, sz := sz, hdr := hd } else none
  | 2 => if clean 0xF z1 then some { kind := 2 } else none
  | 3 =>
    let e := wfield w0 4 4
    if clean 0x3FF z1 && decide (e ≤ 5) && (e == 2 || wfield w0 8 2 == 0)
    then some { kind := 3, eng := e, ch := wfield w0 8 2 } else none
  | 4 =>
    let e := wfield w0 4 4
    let sz := wfield w0 10 4
    let hd := wfield w0 16 20
    if clean 0xFFFFF3FFF z1 && decide (e ≤ 5) && (e == 2 || wfield w0 8 2 == 0) && decide (1 ≤ sz) && decide (sz ≤ 12) && hd % 16 == 0
    then some { kind := 4, eng := e, ch := wfield w0 8 2, sz := sz, hdr := hd } else none
  | 5 =>
    if clean 0x3FF (wfield w1 56 8 == 0) && wfield w1 0 12 == 0
    then some { kind := 5, qix := wfield w0 4 2, osz := wfield w0 6 4, ring := wfield w1 0 56 } else none
  | 6 => if clean 0xFF0F z1 then some { kind := 6, group := wfield w0 8 8 } else none
  | 7 => if clean 0xFF0F z1 then some { kind := 7, group := wfield w0 8 8 } else none
  | _ => none

/-- The bytes of a ring, from its header or its first entry. -/
def ringBytes (h : Handle) : Nat := if h.kind = 5 then 16 * 2 ^ (h.osz + 6) else 16 + 8 * 2 ^ h.sz

/-- The room of a receive queue's overflow ring. -/
def ovRoom (q : RxQ) : Nat := 2 ^ (q.osz + 6) - (q.rwr - q.rrd) - q.pendApp

/-- A message that no strand waits for. -/
def noMsg (sender payload : Word) : Msg :=
  { isQ := true, target := 0#64, pkg := 0, idx := 0, payload := payload, sender := sender, srcSid := 0, acc := 0
    tenant := 0, part := 0, tag := 0, spill := true, foreign := false }

/-- The queue appends an entry to its overflow ring: a 16-byte store of its own core, with its partition's tenant (R102, R472). -/
def rxSpill (rk : Nat) (m : Msg) (s : State) : State :=
  let q := rxAt s rk
  let cid := rk / 4
  let own := tidOfC cid
  let pos := q.rwr + q.pendApp
  let va := q.ring + 16 * (pos % 2 ^ (q.osz + 6))
  let a := accOf s (cid * 16) va 16 .store false false
  let s := modRx rk (fun q => { q with pendApp := q.pendApp + 1 }) s
  (sendAcc { a with
    gen := 1000, data := wordsBytes [m.sender, m.payload], slot := false, remote := false, ret := .ring rk pos m, op := q.epoch
    ansLat := 0, perfAt := s.now + perfDelay (routeOf own va) own false false } s).2

/-- A message has arrived in a receive queue of slot 0: WFE's event 3 (R384). -/
def rxSignal (rk : Nat) (s : State) : State := if (rxAt s rk).owner = some 0 then signal (rk / 4) 3 s else s

/-- A message that arrives is appended to the queue's overflow ring (R102). -/
def rxAppend (rk : Nat) (m : Msg) (s : State) : State := rxSignal rk (rxSpill rk m s)

/-- An append of an earlier message of a sender to a queue's ring is still to be performed. -/
def appending (s : State) (rk : Nat) (sender : Word) : Bool :=
  s.accs.any fun p => !p.2.performed && p.2.kind == .store && p.2.op == (rxAt s rk).epoch && (match p.2.ret with
    | .ring k _ m => k == rk && m.sender == sender
    | _ => false)

/-- A queue whose ring count is zero (R102), for a message of a sender: an entry performed before an earlier one counts, and so does
an append of the same sender's that is in flight, whose message comes first (R103). -/
def ringZero (s : State) (rk : Nat) (sender : Word) : Bool :=
  let q := rxAt s rk
  q.rrd == q.rwr && q.ahead.isEmpty && !appending s rk sender

/-- The queue takes a message of a sender into a hardware slot (R102, R103). -/
def direct (s : State) (rk : Nat) (sender : Word) : Bool := ringZero s rk sender && decide ((rxAt s rk).ents.length < 64)

/-- The write count of a ring passes the entries that follow on it without a gap in time. -/
def ringCount : Nat → RxQ → RxQ
  | 0, q => q
  | n + 1, q =>
    if q.ahead.contains q.rwr then
      ringCount n { q with rwr := q.rwr + 1, pendApp := q.pendApp - 1, ahead := q.ahead.erase q.rwr }
    else q

/-- The entry at a position of the ring is performed, or holds nothing. -/
def ringSet (pos : Nat) (q : RxQ) : RxQ := ringCount (q.ahead.length + 1) { q with ahead := q.ahead ++ [pos] }

/-- Appends the filled slots of a receive queue, the first with number `n`, to its ring, in order, as a message is appended (R104, R472). -/
def spillAll (rk : Nat) : Nat → List (Word × Word) → State → State
  | _, [], s => modRx rk (fun q => { q with ents := [] }) s
  | n, (a, b) :: r, s =>
    let taken (q : RxQ) : RxQ := if q.read.contains n then { q with spent := q.spent ++ [q.rwr + q.pendApp] } else q
    spillAll rk (n + 1) r (rxSpill rk (noMsg a b) (modRx rk taken s))

/-- A wait for a grant of some binding names this receive queue (R121). -/
def awaitsGrant (s : State) (cid qix : Nat) : Bool :=
  s.binds.any fun p => p.1 / 64 == cid && p.2.pend && p.2.qkey == cid * 4 + qix && (rtView (rtAt s p.1)).hold == 0

/-- The group's entry at the issuing tile is valid and lists the core (R176). -/
def groupMember (s : State) (cid g : Nat) : Bool :=
  let e := tget s.cnGrp (tidOfC cid * 256 + g) 0#64
  wfield e 0 1 == 1 && wfield e (5 + cid % 4) 1 == 1

/-- The handle is a completion port, and a command of its engine and channel that the strand pushed with a completion is
or a PUT's local completion outstanding (R246, log 65). -/
def awaitsElement (s : State) (sid : Nat) (h : Handle) : Bool :=
  h.kind == 4 && s.cmds.any fun p =>
    p.2.sid == sid && p.2.gen == (slotAt s sid).gen && p.2.eng == h.eng && p.2.ch == h.ch
      && (p.2.cpl || (p.2.op == 21 && wfield (p.2.desc.getD 2 0#64) 45 1 == 1 && !p.2.elem))

/-- Another strand of the core has bound the group, for its contributions or its results (R176). -/
def boundByOther (s : State) (cid g sid : Nat) : Bool :=
  let x := extAt s (cid * 256 + g)
  (x.owner.isSome && x.owner != some sid) || (x.inj.isSome && x.inj != some sid)

/-- Why a bind is refused: cause, TVALUE, TVAL2; none where it is accepted (R95, R104, R121, R176, R246). For kind 5 a QIX
that is held comes before the ring's coverage; a rebind whose ring lacks room reports its handle number; and a ring of kind 1 or 4 that
one entry covers and that runs past the tile traps NO_RANGE with the first byte past it (log 97). -/
def bindRefusal (s : State) (sid hn : Nat) (h? : Option Handle) : Option (Nat × Word × Word) :=
  let cid := cidOf sid
  let old := hGet s sid hn
  let q := rxAt s (cid * 4 + old.qix)
  if old.kind = 5 ∧ awaitsGrant s cid old.qix = true then some (0x0A, word hn, 7#64)
  else if old.kind = 5 ∧ ovRoom q < q.ents.length then some (0x0F, word hn, 0#64)
  else if awaitsElement s sid old = true ∨ (h?.any (awaitsElement s sid)) = true then some (0x0E, word hn, 0#64)
  else
    match h? with
    | none => some (0x0E, word hn, 0#64)
    | some h =>
      let user := userMode s sid
      match h.kind with
      | 2 => if (slotAt s sid).paired then none else some (0x0E, word hn, 0#64)
      | 5 =>
        let other := rxAt s (cid * 4 + h.qix)
        if other.owner.isSome && other.owner != some (slotNo sid) then some (0x0E, word hn, 0#64)
        else
          match rangeCheck6 s cid user h.ring (ringBytes h) true true with
          | .error (c, tv) => some (c, word (if c = 7 then h.ring else tv), 0#64)
          | .ok cls => if cls = 0 then none else some (7, word h.ring, 0#64)
      | 7 =>
        if !groupMember s cid h.group then some (0x1D, word h.group, 0#64) else
        if boundByOther s cid h.group sid then some (0x0E, word hn, 0#64) else none
      | 6 =>
        if !groupMember s cid h.group then some (0x1D, word h.group, 0#64) else
        if boundByOther s cid h.group sid then some (0x0E, word hn, 0#64) else none
      | k =>
        if k = 1 ∨ k = 4 then
          let va (t : Nat) : Nat := windowBase + t * 2 ^ 20 + h.hdr
          let past := decide (2 ^ 20 < h.hdr + ringBytes h)
          match rangeCheck6 s cid user (va 0x7FF) (ringBytes h) true true with
          | .ok _ => if past then some (6, word (va 0x7FF + (2 ^ 20 - h.hdr)), 0#64) else none
          | .error (c, tv) =>
            let t := tidOfC cid % 2048
            match rangeCheck6 s cid user (va (if t = 0x7FF then 0x800 else t)) (ringBytes h) true true with
            | .ok _ => if past then some (c, word tv, 0#64) else none
            | .error _ => some (c, word tv, 0#64)
        else none

/-- A refill of a receive queue is on its way. -/
def refilling (s : State) (rk : Nat) : Bool :=
  s.agenda.any fun e => e.2.1 == .receiveQueueRefill && e.2.2.a == rk

/-- Starts a refill where 16 or fewer hardware slots are filled and the ring holds entries (R103): the ring is read as
device memory. -/
def refillCheck (rk : Nat) (s : State) : State :=
  let q := rxAt s rk
  if q.owner.isSome && decide (q.ents.length ≤ 16) && decide (q.rrd < q.rwr) && !refilling s rk then
    post (s.now + loadLatency (tidOfC (rk / 4)) q.ring) .receiveQueueRefill { a := rk } s
  else s

/-- Another handle of the strand is bound to the same group in the same way. -/
def groupBound (s : State) (sid hn : Nat) (h : Handle) : Bool :=
  (List.range 16).any fun k => k != hn && (hGet s sid k).kind == h.kind && (hGet s sid k).group == h.group

/-- Gives up a handle's binding (R104, R246); the elements of an extract stream that nothing is bound to are gone (R175, log 90). -/
def unbindHandle (sid hn : Nat) (s : State) : State :=
  let cid := cidOf sid
  let h := hGet s sid hn
  match h.kind with
  | 5 =>
    let rk := cid * 4 + h.qix
    let s := spillAll rk ((rxAt s rk).takes + 1 - (rxAt s rk).ents.length) (rxAt s rk).ents s
    modRx rk (fun q => { q with owner := none }) s
  | 6 => if groupBound s sid hn h then s else modExt (cid * 256 + h.group) (fun e => { e with inj := none }) s
  | 7 => if groupBound s sid hn h then s else modExt (cid * 256 + h.group) (fun e => { e with owner := none, ents := [] }) s
  | _ => s

/-- Binds a handle to an accepted descriptor (R95, R472); entries that an earlier binding left in the ring are read again (R103). -/
def bindHandle (sid hn : Nat) (h : Handle) (s : State) : State :=
  let cid := cidOf sid
  let s := if h.kind = 7 ∧ hGet s sid hn = h then s else unbindHandle sid hn s
  let s := { s with q := tput s.q (sid * 16 + hn) h }
  match h.kind with
  | 5 =>
    refillCheck (cid * 4 + h.qix) <| modRx (cid * 4 + h.qix) (fun q =>
      if q.ring = h.ring ∧ q.osz = h.osz then { q with owner := some (slotNo sid) }
      else { q with
        owner := some (slotNo sid), ring := h.ring, osz := h.osz, rrd := 0, rwr := 0, pendApp := 0, ahead := [], gaps := [], spent := []
        epoch := q.epoch + 1 }) s
  | 6 => modExt (cid * 256 + h.group) (fun e => { e with inj := some sid }) s
  | 7 => modExt (cid * 256 + h.group) (fun e => { e with owner := some sid }) s
  | _ => s

/-- The handle a descriptor's bytes describe. -/
def descHandle (bs : List Byte) : Option Handle := handleOf ((bytesWords 2 bs).getD 0 0#64) ((bytesWords 2 bs).getD 1 0#64)

/-- The descriptor of a QBIND, access `id`, has come back: the bind is checked on its values and takes effect, or the strand traps at
the QBIND (R246). A strand that waited at it goes on; one whose QBIND was abandoned meanwhile issues it again instead (R374, R400). -/
def bindAnswer (id hn : Nat) (a : Acc) (s : State) : State :=
  let sid := a.sid
  let s := delBusy sid (80 + hn) s
  let h := descHandle a.data
  match bindRefusal s sid hn h, h with
  | none, some h => goesOn sid a.gen id 1 (bindHandle sid hn h s)
  | some (c, tv, tv2), _ => if (slotAt s sid).redo.any fun r => r.id == id then s else recordTrap sid c tv tv2 a.ipc s
  | none, none => s

/-! ### Answers at the core -/

/-- An access through a reference is given up: its registers wait no longer, and its access is gone. -/
def dropHop (hid : Nat) (s : State) : State :=
  match tfind s.hops hid, tfind s.accs hid with
  | some h, some a =>
    let s := if h.kn < 16 then landNone a (64 + h.kn) s else s
    let s := if h.knb < 16 then landNone a (64 + h.knb) s else s
    let s := landNone a (h.dst % 128) s
    { s with hops := tdel s.hops hid, accs := tdel s.accs hid }
  | _, _ => { s with hops := tdel s.hops hid, accs := tdel s.accs hid }

/-- A parcel of an A2A that waited for its page comes to its destination again, or has failed with a status (R184). -/
def parcelAgain (a : Acc) (cmd status : Nat) (s : State) : State :=
  post s.now .a2aParcelWrite { a := cmd, b := a.op, c := a.dpkg, d := status, w := word a.order, w2 := a.tvalue, p := .bytes a.cmp } s

/-- An access's answer takes effect at its core. -/
def answerAcc (id : Nat) (s : State) : State :=
  match tfind s.accs id with
  | none => s
  | some a =>
    let s := { s with accs := tdel s.accs id }
    let s := if a.xchg then xchgDone a.sid a.gang s else s
    match a.ret with
    | .ring _ _ _ => s
    | .lane vid quarter _ => laneAnswer (cidOf a.sid) vid quarter (!a.store) a.va a.data s
    | .heap hop =>
      let s := if hop = id then { s with accs := tput s.accs id { a with answered := true, parked := false, slot := false } } else s
      post s.now .heapBarrierWake { a := hop, w := word (bytesNat a.data), flag := true } s
    | .engine cmd =>
      if a.kind = .atom ∨ a.kind = .cas then
        let p := pkgOfC (cidOf a.sid)
        overLink a.dpkg p 1 8 (s.now + (if a.dpkg = p then 0 else crossing s a.dpkg p)) .getComplete { a := cmd }
          (modCmd cmd (fun c => { c with data := a.data }) s)
      else if a.cmp.isEmpty then s else parcelAgain a cmd 0 s
    | .host p tag => modPkg p (fun k => { k with hostq := k.hostq ++ [(tag, a.data)] }) s
    | .reg dst e => landResult a dst (extend e a.data) s
    | r =>
      if !accLive s a then s
      else
        match r with
        | .handle h => bindAnswer id h a s
        | .kref dst => lateResult a.sid (64 + dst) (extend .zext a.data) s
        | _ =>
          if a.kind = .fetch ∧ heldOn s a.sid a.gen id = true then
            modSlot a.sid (fun x => { x with
              st := if x.st = .swapped then .swapped else .ready, hold := false, heldBy := 0, readyAt := s.now + 1 }) s
          else s

/-- The gang of an access is saved and will be resident again: its answer waits (R400). -/
def accAway (s : State) (id : Nat) : Bool :=
  match tfind s.accs id with
  | some a => (match a.gang with
    | some g => (coreAt s (cidOf a.sid)).gang != some g && (gangAt s g).isSome
    | none => false)
  | none => false

/-- An event of an access, after its gang is resident again. -/
def whenHere (ev : Instr) (act : State → State) (s : State) : State :=
  if accAway s s.ev.a then post (s.now + 1) ev s.ev s else act s

/-- The data of an access had an uncorrectable error: the die counts it (R463), and the access fails with PAGE_FATAL, reason 8 (R464). -/
def readError (id : Nat) (s : State) : State :=
  match tfind s.accs id with
  | some a =>
    let die := if a.dev then mtuOfVa a.dpkg a.va % 8 else dieOfTile (spTile (a.key.getD 0))
    post s.now .parkedAccessFail { a := id, b := 0x19, c := 8 } (bumpLife a.dpkg (0x70000 + die) s)
  | none => s

/-- LOAD_RESULT (R236): the result of a load, or the old value of an atomic, is written; `flag` says that its data had an uncorrectable
error, which comes from outside (R464, log 49). -/
def execLoadResult (s : State) : Res :=
  .next (whenHere .loadResult (fun s => if s.ev.flag then readError s.ev.a s else answerAcc s.ev.a s) s)

/-- STORE_ACK (R396): the acknowledgement frees the request slot and the remote-store entry; the acknowledgement of a
watch that is made frees its request slot alone (R255). -/
def execStoreAck (s : State) : Res :=
  .next (whenHere .storeAck (fun s => match tfind s.accs s.ev.a with
    | some a =>
      if a.kind = .watch then modAcc s.ev.a (fun a => { a with slot := false }) s
      else if a.rejected then s else answerAcc s.ev.a s
    | none => s) s)

/-- The store of a ring entry is refused or fails: the place in the ring is free again, or holds nothing where
a later entry follows, and its sender is answered FULL (log 80). -/
def ringLost (a : Acc) (s : State) : State :=
  match a.ret with
  | .ring rk pos m =>
    let lose (q : RxQ) : RxQ :=
      if q.epoch ≠ a.op then q
      else if pos + 1 = q.rwr + q.pendApp then { q with pendApp := q.pendApp - 1, spent := q.spent.filter (· != pos) }
      else ringSet pos { q with gaps := q.gaps ++ [pos] }
    if a.kind = .msg then s
    else post s.now .qsendAnswer { a := m.acc, b := 2 } (refillCheck rk (modRx rk lose s))
  | _ => s

/-- The access is the store of a ring entry. -/
def isRing (a : Acc) : Bool :=
  match a.ret with
  | .ring _ _ _ => a.kind == .store
  | _ => false

/-- REMOTE_REJECTION (R397): the entry stays in the table, marked; the request slot is free. A QSEND that holds its strand goes
on (R249); a refused store of a ring entry stands in no table. -/
def execRemoteRejection (s : State) : Res :=
  let s' := match tfind s.accs s.ev.a with
    | some a =>
      if isRing a then ringLost a { s with accs := tdel s.accs s.ev.a } else
      let s := if a.xchg then xchgDone a.sid a.gang s else s
      goesOn a.sid a.gen s.ev.a 1 s
    | none => s
  .next (modAcc s.ev.a (fun a => { a with
    rejected := true, slot := false, performed := true, answered := true, xchg := false, bank := msgBank }) s')

/-- A handle's result whose strand has stopped: the slot of a ring is written, a contribution is made (R174, R213). -/
def stoppedHandle (sid hn w : Nat) (desc x : Word) (s : State) : State :=
  match handleOf desc 0#64 with
  | some h =>
    let at' := s.q
    let s := { s with q := tput s.q (sid * 16 + hn) h }
    if h.kind = 6 ∧ cnWouldWait s (cidOf sid) h.group = true then post (s.now + 1) .resultWriteback s.ev { s with q := at' }
    else { writeHandle sid hn w x s with q := at' }
  | none => s

/-- RESULT_WRITEBACK (R213): a result is written at its latency. -/
def execResultWriteback (s : State) : Res :=
  let sid := s.ev.a
  let x := slotAt s sid
  let rid := s.ev.c
  .next (if x.gen = s.ev.b ∧ x.st ≠ .free then lateResult sid rid s.ev.w s
    else if 80 ≤ rid % 128 then
      (if s.ev.w2 = 0#64 then s else stoppedHandle sid (rid % 128 - 80) (rid / 128 + 1) s.ev.w2 s.ev.w s)
    else if freedLife s sid s.ev.b then landFree sid rid s.ev.w s else s)

/-! ### Memory as a strand sees it at issue (R135, R137) -/

/-- Where a store in flight will be performed; none where its page is not there. -/
def storeKey (s : State) (a : Acc) : Option Nat :=
  match a.key with
  | some k => some k
  | none => match engDecide s a.dpkg a.va a.tenant with
    | .ok k => some k
    | _ => none

/-- The atomics that the part makes itself: 16 PIN + 1 and 17 PIN - 1 of a header (R164), 18 INFL + 1 and 19 INFL - 1 of an
object entry (R160). -/
def atomPart (op : Nat) (m : Word) : Word :=
  match op with
  | 16 => if wfield m 56 1 = 1 ∨ wfield m 48 8 = 255 then m else m + word (2 ^ 48)
  | 17 => if wfield m 48 8 = 0 then m else m - word (2 ^ 48)
  | 18 => if wfield m 0 3 = 1 ∧ wfield m 56 8 < 255 then m + word (2 ^ 56) else m
  | _ => if wfield m 56 8 = 0 then m else m - word (2 ^ 56)

/-- The new value of an atomic operation (R269): `w` bytes. -/
def atomNew (op w : Nat) (m a : Word) : Word :=
  let m32 := m.truncate 32
  let a32 : Lane := a.truncate 32
  if w = 4 then
    let z (x : Lane) : Word := x.zeroExtend 64
    match op with
    | 0 => z (m32 + a32)
    | 1 => z (m32 &&& a32)
    | 2 => z (m32 ||| a32)
    | 3 => z (m32 ^^^ a32)
    | 4 => z a32
    | 5 => z (if m32.sle a32 then m32 else a32)
    | 6 => z (if a32.sle m32 then m32 else a32)
    | 7 => z (if m32.ule a32 then m32 else a32)
    | 8 => z (if a32.ule m32 then m32 else a32)
    | 9 => z (Num.fadd m32 a32)
    | _ => z (Num.fmax m32 a32)
  else
    match op with
    | 0 => m + a
    | 1 => m &&& a
    | 2 => m ||| a
    | 3 => m ^^^ a
    | 4 => a
    | 5 => if m.sle a then m else a
    | 6 => if a.sle m then m else a
    | 7 => if m.ule a then m else a
    | 8 => if a.ule m then m else a
    | _ => atomPart op m

/-- The bytes that an atomic leaves where it finds `old` (R269, R270). -/
def atomBytes (a : Acc) (old : List Byte) : List Byte :=
  if a.kind = .cas then (if old = a.cmp then a.data else old)
  else natBytes a.size (atomNew a.op a.size (word (bytesNat old)) (word (bytesNat a.data))).toNat

/-- What an access in flight writes at a key. -/
def writeInFlight (a : Acc) (k : Nat) (m : List Host.Cell) : List Host.Cell :=
  if !a.store then mwrite m k (atomBytes a (mread m k a.size))
  else if a.cells.isEmpty then mwrite m k a.data
  else a.cells.foldl (fun m c => mset m (k + c.1) c.2) m

/-- The state with the stores and atomics in flight performed that a strand's own later read would see: its own, and those of its core to its
own scratchpad (R135, R137). -/
def ownView (sid : Nat) (s : State) : State :=
  { s with mem := s.accs.foldl (fun m p =>
      if (p.2.store || p.2.kind == .atom || p.2.kind == .cas) && !p.2.performed && !p.2.rejected
          && (p.2.sid == sid || (cidOf p.2.sid == cidOf sid && !p.2.dev)) then
        match storeKey s p.2 with
        | some k => writeInFlight p.2 k m
        | none => m
      else m) s.mem }

/-! ### Issuing loads and stores -/

/-- Issues a load of `n` bytes into a register (R236, R237). -/
def sendLoad (o : Ops) (va n : Nat) (e : Ext1) (conv acq : Bool) (s : State) : State :=
  let sid := s.cur.sid
  let a := accOf s sid va n .load false conv
  let (_, s) := sendAcc { a with ret := .reg (dstRid o) e, acq := acq } s
  if dstRid o % 128 = 0 then s else addBusy sid (dstRid o % 128) s

def issueLoad (o : Ops) (va n : Nat) (e : Ext1) (conv acq : Bool) : M Unit := updM (sendLoad o va n e conv acq)

/-- Issues a store. -/
def sendStore (va : Nat) (bs : List Byte) (conv : Bool) (s : State) : State :=
  let sid := s.cur.sid
  let a := accOf s sid va bs.length .store false conv
  let x := match tileOfVa (tidOfC (cidOf sid)) va with
    | some t => isXchg s sid t
    | none => false
  let s := if x then xchgIssued sid s else s
  (sendAcc { a with data := bs, xchg := x } s).2

def issueStore (va : Nat) (bs : List Byte) (conv : Bool) : M Unit := updM (sendStore va bs conv)

/-- The gate of an access at an address. -/
def gateAt (va : Nat) (remote : Bool) : M Unit := do
  let s ← askM id
  let own := tidOfC (cidOf s.cur.sid)
  let r := routeOf own va
  let far := r.dev || r.tid != own
  accGate r.bank far (far && remote)

/-- PADD's rule (R85). -/
def ptrAdd (p : Word) (n : Int) : M Word := do
  let r ← fmtM p
  if n % r.ue ≠ 0 then trapM 0x0C p
  else
    let v : Int := (wfield p 0 56 : Nat) + n / r.ue * r.ub
    if v < 0 ∨ v ≥ (vaTop : Nat) then trapM 0x0D p
    else pure (word (p.toNat / 2 ^ 56 * 2 ^ 56 + v.toNat))

end Sys2Proof.Machine
end

