-- ==== Sys2Proof/Machine/Fetch.lean ====
section
/-!
DEFINITION. Fetching the words of an instruction (R190, R191, spec/09): each word is checked as a 2-byte load, and a word
of a page that is not resident parks the strand until the page is there.
-/

namespace Sys2Proof.Machine

/-- What the fetch of words answers. -/
inductive FetchR where
  | words (ws : List (BitVec 16))
  | trap (cause tv : Nat)
  | park (va : Nat)
deriving DecidableEq, Repr

/-- A fetch of the strand takes a byte as a write left it, or as a later one did (R191): a unit's write at once; the strand's own after a FENCE
ALL of its own whose scope covers the byte; another strand's after a hand-over of R149 that covers it, a grant's for its region only (log 92). -/
def fetchNew (s : State) (sid key : Nat) (w : Wrote) : Bool :=
  let x := slotAt s sid
  let own := tidOfC (cidOf sid)
  let sp := isSpKey key && spTile key / 2048 == own / 2048
  w.by' == 0
  || (if w.by' = sid + 2 ∧ x.bornAt ≤ w.issued then
      decide (w.issued < x.codeAt) || (sp && dieOfTile (spTile key) == dieOfTile own && decide (w.issued < x.codeDie))
        || (sp && spTile key == own && decide (w.issued < x.codeTile))
    else (1 < w.by' && decide (w.issued < tget x.codeSeen (w.by' - 2) 0))
      || x.codeReg.any fun r => decide (r.1 ≤ key) && decide (key < r.1 + r.2.1) && decide (w.issued ≤ r.2.2))

/-- The writes of a byte that the strand need not see yet, the latest first. -/
def fetchHidden (s : State) (sid key : Nat) : List Wrote := (tget s.olds key []).takeWhile fun w => !fetchNew s sid key w

/-- A byte as it was before its hidden writes from the `n`-th on, the latest being number 0. -/
def fetchByte (s : State) (key : Nat) (l : List Wrote) (n : Nat) : Byte := ((l.take n).getLast?.map (·.was)).getD (mget s.mem key)

/-- The word at a key as a fetch takes it: where the strand need not yet see all writes of it, as it is or as it was before some of them (R191). -/
def fetchedAt (s : State) (sid va key : Nat) : BitVec 16 :=
  let a := fetchHidden s sid key
  let b := fetchHidden s sid (key + 1)
  let n := if a.isEmpty && b.isEmpty then 0 else Config.fetchPick s.now sid va
  let i := n % (a.length + 1)
  let j := if a.map (·.issued) = b.map (·.issued) then i else n / (a.length + 1) % (b.length + 1)
  BitVec.ofNat 16 (bytesNat [fetchByte s key a i, fetchByte s (key + 1) b j])

/-- One word (R191): steps 3 to 6 of R92 with RD; PLAIN, LOCAL or STORE. -/
def fetchWord (s : State) (sid va : Nat) : FetchR :=
  let cid := cidOf sid
  match rangeCheck6 s cid (userMode s sid) va 2 true false with
  | .error (c, tv) => .trap c tv
  | .ok cls =>
    if cls != 0 && cls != 1 && cls != 6 then .trap 7 va
    else if inWindow va then
      match windowTile (tidOfC cid) va with
      | some t => .words [fetchedAt s sid va (spKey t va)]
      | none => .trap 6 va
    else
      match engDecide s (pkgOfC cid) va (coreAt s cid).tenant with
      | .ok key => .words [fetchedAt s sid va key]
      | _ => .park va

/-- The words from `va` up to the first that is no prefix, at most `fuel` (R190, R195). -/
def fetchWords (s : State) (sid : Nat) : Nat → Nat → FetchR
  | 0, _ => .words []
  | fuel + 1, va =>
    match fetchWord s sid (va % vaTop) with
    | .words ws =>
      if (ws.headD 0#16) >>> 11 == 31#16 then
        match fetchWords s sid fuel (va + 2) with
        | .words r => .words (ws ++ r)
        | e => e
      else .words ws
    | e => e

/-- The record of a fetch that waits for its page (R191, R411): the strand is PARKED, and fetches again when the page is
there. -/
def parkFetch (sid ipc va : Nat) (s : State) : State :=
  let (id, s) := freshId s
  let cid := cidOf sid
  let x := slotAt s sid
  let (h, c) := dieDist (tidOfC cid) (nfield va 12 4 / 2)
  let a : Acc :=
    { kind := .fetch, sid := sid, gen := x.gen, ipc := ipc, order := x.issued, dpkg := pkgOfC cid, dev := true,
      va := va, size := 2, key := none, bank := nfield va 7 9, perfAt := s.now + 216 + 2 * h + 8 * c,
      ansLat := 4 + h + 8 * c, tenant := (coreAt s cid).tenant, part := (coreAt s cid).part, gang := (coreAt s cid).gang, issuedAt := s.now }
  post (s.now + 110) .mtuAccessDecide { a := id }
    (holdFor' id sid .parked { s with accs := tput s.accs id a })

/-- The length in words of the instruction at an address, for a skip (R191, R230). -/
def lengthAt (va : Nat) : M Nat := do
  let s ← askM id
  match fetchWords s s.cur.sid 5 va with
  | .words ws => pure ws.length
  | .trap c tv => trapM c (word tv)
  | .park w => stopM (.again (parkFetch s.cur.sid s.cur.ipc w s))

end Sys2Proof.Machine
end

