-- ==== Sys2Proof/Machine/Mtu.lean ====
section
/-!
DEFINITION. Translation, parked accesses, page fills, migration and eviction (R408 to R425, spec/20; R361, R362, R475,
spec/17, 19): the MTUs, the storage queue engines and the fault processors.
-/

namespace Sys2Proof.Machine

/-! ### Between packages (R250, R445, R449) -/

def portAt (s : State) (k : Nat) : Port := tget s.ports k {}
def modPort (k : Nat) (f : Port → Port) (s : State) : State := { s with ports := tput s.ports k (f (portAt s k)) }

/-- A package can be reached from another: it is present, not declared failed or unreachable there, and the route table lists a port
that is up for it (R445). -/
def reachable (s : State) (p q : Nat) : Bool :=
  p == q || ((pkgAt s q).present && !(pkgAt s q).failed && !(pkgAt s p).failedPkgs.contains q && !(pkgAt s p).lostPkgs.contains q
    && (pkgAt s p).routes.any fun r => r.1 == q && (portAt s (p * 36 + r.2.1)).up)

/-- The package of an identity, where one is present (R19). -/
def keyOf (s : State) (ident : Nat) : Option Nat := (s.pkgs.find? fun p => p.2.present && identityOf s p.1 == ident).map (·.1)

/-! ### The page table's owner and counters -/

def mtuAt (s : State) (k : Nat) : Mtu := tget s.mtus k {}
def sqeAt (s : State) (k : Nat) : Sqe := tget s.sqes k {}
def modSqe (k : Nat) (f : Sqe → Sqe) (s : State) : State := { s with sqes := tput s.sqes k (f (sqeAt s k)) }

def fillKey (pkg page : Nat) : Nat := pkg * 2 ^ 40 + page

/-- The cycles a translation adds, a multiple of 160 up to 640, at least 160 at the MTU's first access to a page, free
otherwise (R408, log 5). -/
def walkCost (s : State) (first : Bool) : Nat :=
  let w := Config.walkCycles s.free
  if first then 160 * (1 + w % 4) else 160 * (w % 5)

/-- The access keeps the count of SWAPTHR: a long fault of a strand's own access, never a WAITW (R475). -/
def swapCounts (a : Acc) : Bool := a.kind != .watch && a.kind != .msg

/-- Looks for the swap-out of a team, once `t` has come (R361). -/
def postSwap (cid team t : Nat) (s : State) : State := post (max t (s.now + 1)) .teamSwapOut { a := cid, b := team } s

/-- The cycle of the issue of the oldest parked access of a team that counts towards SWAPTHR (R475). -/
def oldestParked (s : State) (cid team : Nat) : Option Nat :=
  lowest ((s.accs.filter fun p => cidOf p.2.sid == cid && p.2.parked && !p.2.performed && swapCounts p.2 && accLive s p.2
    && !((tfind s.hops p.1).any fun h => h.stage == 3)
    && (slotAt s p.2.sid).team == team).map (·.2.issuedAt))

/-- SWAPTHR of a core has been written: its teams' parked accesses are looked at with the new value (R414, R475). -/
def rearmSwap (cid : Nat) (s : State) : State :=
  (((List.range 11).map fun n => (slotAt s (cid * 16 + n)).team).eraseDups).foldl (fun s team =>
    match oldestParked s cid team with
    | some t => if (coreAt s cid).swapthr = 0 then s else postSwap cid team (t + (coreAt s cid).swapthr) s
    | none => s) s

/-- Parks an access at its MTU (R413); a team whose access waits SWAPTHR cycles from its issue is looked at for swap-out
(R361, R475). One that is parked already stays so. -/
def parkAcc (id mk : Nat) (a : Acc) (s : State) : State :=
  if a.parked then s
  else
    let s := modMtu mk (fun m => { m with parked := m.parked + 1, lpark := m.lpark + 1 }) s
    let s := { s with accs := tput s.accs id { a with parked := true, parkAt := s.now } }
    let cid := cidOf a.sid
    if (coreAt s cid).swapthr = 0 ∨ swapCounts a = false then s
    else postSwap cid (slotAt s a.sid).team (a.issuedAt + (coreAt s cid).swapthr) s

/-- A failure delivered to the core 110 cycles after the decision (R361). -/
def failParked (id cause reason nvst : Nat) (s : State) : State :=
  post (s.now + 110) .parkedAccessFail { a := id, b := cause, c := reason, d := nvst }
    (modAcc id (fun a => { a with performed := true }) s)

/-- A package's fault processor answers a fault of `requester` for access `id` with PAGE_FATAL and a reason (R420). -/
def answerFault (p requester page id reason : Nat) (s : State) : State :=
  overLink p requester 1 8 (s.now + (if p = requester then 0 else crossing s p requester)) .faultServe
    { a := requester, b := page, c := p, d := 16 + reason, w := word id } s

/-- Asks a package's fault processor for the page of an access (R411); where it has failed or cannot be reached, the requester's own answers
with reason 7 (R420). -/
def sendFault (pkg owner id : Nat) (a : Acc) (s : State) : State :=
  let q := owner % 65536
  let page := a.va / 65536
  let s := modMtu (mtuOfVa pkg a.va) (fun m => { m with remote := m.remote + 1 }) s
  if owner / 65536 = (pkgAt s pkg).domain ∧ reachable s pkg q = true then
    overLink pkg q 0 56 (s.now + crossing s pkg q) .faultServe
      { a := q, b := page, c := pkg, d := 0, e := a.va % 65536, w := word id } s
  else answerFault pkg pkg page id 7 s

/-- The storage queue engine of a page's port (R410, R416): the backing entry's words. -/
def backingOf (s : State) (pkg : Nat) (e : Word) : Word × Word :=
  let k := devKey pkg ((pkgAt s pkg).backBase + 16 * wfield e 32 20)
  (mem64 s k, mem64 s (k + 8))

/-- A page is claimed for a fill (R415): its entry is MOVING, and the fill goes to its engine. -/
def claimFill (pkg page : Nat) (e : Word) (s : State) : State :=
  post (s.now + 60) .sqeFillRequest { a := pkg, b := page } (changeLeaf pkg page (setField e 1 3 2) s)

/-- An access with its page's leaf: it is performed at its frame, parked, refused or failed (R411, R415). One that is parked is decided as
if it had arrived in the cycle of its answer, which is 110 cycles on its way (R413, R361). -/
def decideAcc (id : Nat) (a : Acc) (s : State) : State :=
  let pkg := a.dpkg
  let page := a.va / 65536
  let mk := mtuOfVa pkg a.va
  let e := leafOf s pkg a.va
  let a := if a.parked then { a with ansLat := 110 } else a
  let park (act : State → State) : State :=
    if !a.parked && decide (1024 ≤ (mtuAt s mk).parked) then post (s.now + 256) .mtuParkRetry { a := id } s else act (parkAcc id mk a s)
  if leafV e then
    if leafTenant e ≠ 0 ∧ leafTenant e ≠ a.tenant then
      (if a.store then
        rejectAcc id mk (if a.kind = .store then { a with ansLat := 110 } else a) (modAcc id (fun a => { a with parked := false }) (unpark a s))
      else failParked id 0x19 4 0 s)
    else
      if encLost s pkg e then failParked id 0x19 4 0 s
      else match leafSt e with
      | 0 =>
        let t := max a.perfAt s.now
        post t (perfEvent a) { a := id } { s with accs := tput s.accs id { a with key := some (resKey pkg a.va e), decided := true, perfAt := t } }
      | 4 => failParked id 0x19 3 0 s
      | 1 => park (claimFill pkg page e)
      | 3 => park (sendFault pkg (wfield e 8 21) id a)
      | _ => park fun s => s
  else
    match ownerOf s pkg a.va with
    | none => failParked id 0x19 1 0 s
    | some (o, _) => if o = identityOf s pkg then failParked id 0x19 2 0 s else park (sendFault pkg o id a)

/-- An access at its MTU: a translation that is not cached is walked for first, which is counted and adds its cycles; the MTU's first access
to a page always walks (R408). `walked`: the walk has ended. An SC access is performed in its own cycle all the same (R144). -/
def mtuDecide (id : Nat) (walked : Bool) (s : State) : State :=
  match tfind s.accs id with
  | none => s
  | some a =>
    let page := a.va / 65536
    let mk := mtuOfVa a.dpkg a.va
    let note (s : State) : State := modMtu mk (fun m => { m with seen := if m.seen.contains page then m.seen else page :: m.seen }) s
    if a.parked then decideAcc id a s
    else if walked then decideAcc id a (note s)
    else
      let cost := walkCost s (!(mtuAt s mk).seen.contains page)
      let s := { s with free := s.free + 1 }
      if cost = 0 then decideAcc id a s
      else
        let s := modMtu mk (fun m => { m with walks := m.walks + 1 }) s
        if a.sc.isSome then decideAcc id a (note s)
        else
          post (s.now + cost) .mtuAccessDecide { a := id, b := 1 } { s with accs := tput s.accs id { a with perfAt := a.perfAt + cost } }

/-- MTU_ACCESS_DECIDE (R408, R411): `b` 1 is the end of the walk. -/
def execMtuAccessDecide (s : State) : Res := .next (mtuDecide s.ev.a (s.ev.b == 1) s)

/-- MTU_PARK_RETRY (R413): the core sends the refused access again. -/
def execMtuParkRetry (s : State) : Res := .next (post (s.now + 110) .mtuAccessDecide { a := s.ev.a } s)

/-! ### Fills (R415 to R418) -/

/-- The key of a byte of an SSD's namespace. -/
def ssdKey (pkg port nsid off : Nat) : Nat := ((pkg * 16 + port) * 2 ^ 32 + nsid) * 2 ^ 80 + off

/-- A fill's backing entry: its port and namespace (R410). -/
def fillPort (s : State) (pkg page : Nat) : Nat × Nat :=
  let w1 := (backingOf s pkg (leafOf s pkg (page * 65536))).2
  (wfield w1 32 4, wfield w1 0 32)

/-- A port of a package can be used: its link is up (R418), and its SSD's namespace has blocks of 512 bytes or 4 KiB, without which the
port refuses it (R416; a refused command ends as where the port is not available, log 112). -/
def portReady (s : State) (pkg port nsid : Nat) : Bool :=
  decide ((sqeAt s (pkg * 4 + port / 4)).link / 2 ^ (port % 4) % 2 = 1) && !Config.otherFormat port nsid

/-- Submits the page read of a fill whose frame is taken; its doorbell rings 20 cycles on (R361), and from there the SSD
answers after a free number of cycles, or not before the time-out (log 4). -/
def submitFill (pkg page k frame : Nat) (s : State) : State :=
  let (w, s) := freeValue s
  let s := modSqe k (fun q => { q with reads := q.reads + 1 }) s
  let s := { s with fills := tput s.fills (fillKey pkg page) { frame := frame, issued := s.now } }
  let s := post (s.now + 20 + 40 + w.toNat) .sqeFillComplete { a := pkg, b := page, c := 0, d := s.now } s
  post (s.now + 20 + (sqeAt s k).tmo) .sqeCommandTimeout { a := pkg, b := page, c := s.now } s

/-- The page reads that a port's queue pair for fills holds (R416). -/
def fillsOut (s : State) (pkg port : Nat) : Nat :=
  (s.fills.filter fun f => f.1 / 2 ^ 40 == pkg && !f.2.waiting && (fillPort s pkg (f.1 % 2 ^ 40)).1 == port).length

/-- Takes a frame for a fill, or leaves it waiting in the engine (R417); a port that cannot be used fails it at once (R418), and one whose
queue pair holds 256 reads takes it later (R416, log 112). -/
def startFill (pkg page : Nat) (s : State) : State :=
  let (port, nsid) := fillPort s pkg page
  let k := pkg * 4 + port / 4
  if portReady s pkg port nsid = false then
    post s.now .sqeFillFail { a := pkg, b := page, c := 3, d := 0 }
      { s with fills := tput s.fills (fillKey pkg page) { frame := 0, issued := s.now, waiting := true } }
  else if 256 ≤ fillsOut s pkg port then post (s.now + 1) .sqeFillRequest { a := pkg, b := page } s
  else
    match (sqeAt s k).frames with
    | [] =>
      let s := modSqe k (fun q => { q with noframe := q.noframe + 1, waiting := q.waiting ++ [page] }) s
      { s with fills := tput s.fills (fillKey pkg page) { frame := 0, issued := s.now, waiting := true } }
    | f :: r => submitFill pkg page k f (modSqe k (fun q => { q with frames := r }) s)

/-- SQE_FILL_REQUEST (R415). -/
def execSqeFillRequest (s : State) : Res := .next (startFill s.ev.a s.ev.b s)

/-- A frame returned to an engine's pool goes to the oldest fill that waits for one (R417). -/
def returnFrame (pkg k frame : Nat) (s : State) : State :=
  match (sqeAt s k).waiting with
  | [] => modSqe k (fun q => { q with frames := q.frames ++ [frame] }) s
  | page :: r => submitFill pkg page k frame (modSqe k (fun q => { q with waiting := r }) s)

/-- SQE_FILL_COMPLETE (R415, R418): the engine acts 40 cycles after the completion it has seen of the command submitted at cycle `d`. -/
def execSqeFillComplete (s : State) : Res :=
  let pkg := s.ev.a
  let page := s.ev.b
  match tfind s.fills (fillKey pkg page) with
  | none => .next s
  | some f =>
    if f.waiting ∨ f.issued ≠ s.ev.d then .next s
    else
      let e := leafOf s pkg (page * 65536)
      let (w0, w1) := backingOf s pkg e
      if s.ev.c ≠ 0 then
        .next (post s.now .sqeFillFail { a := pkg, b := page, c := 1, d := s.ev.c } s)
      else
        let lbas := wfield w1 36 4
        let src := ssdKey pkg (wfield w1 32 4) (wfield w1 0 32) (w0.toNat * 2 ^ lbas)
        let dst := devKey pkg (f.frame * 65536)
        let s := dropOlds (fun a => decide (dst ≤ a) && decide (a < dst + 65536)) { s with
          mem := splice s.mem dst 65536 (cellsOf s.ssd src 65536 dst)
          fills := tdel s.fills (fillKey pkg page) }
        let e := setField (setField (setField e 1 3 0) 4 1 0) 8 24 f.frame
        .next (post s.now .mtuInstallNotice { a := pkg, b := page } (changeLeaf pkg page e s))

/-- An access among others in the order in which they parked. -/
def parkInsert (p : Nat × Acc) : Tab Acc → Tab Acc
  | [] => [p]
  | q :: r => if q.2.parkAt ≤ p.2.parkAt then q :: parkInsert p r else p :: q :: r

/-- The parked accesses of a page, in the order in which they were parked (R413). -/
def parkedOf (s : State) (pkg page : Nat) : List Nat :=
  ((s.accs.filter fun p => p.2.parked && p.2.dev && p.2.dpkg == pkg && p.2.va / 65536 == page && !p.2.performed).foldl
    (fun l p => parkInsert p l) []).map (·.1)

/-- MTU_INSTALL_NOTICE (R413, R415, R419): each parked access of the page is decided again. -/
def execMtuInstallNotice (s : State) : Res :=
  .next ((parkedOf s s.ev.a s.ev.b).foldl (fun s id => mtuDecide id false s) s)

/-- SQE_FILL_FAIL (R418, R424): the entry is STORED again, the frame it took returns, every parked access of the page fails. An error status
or a time-out is counted. -/
def execSqeFillFail (s : State) : Res :=
  let pkg := s.ev.a
  let page := s.ev.b
  match tfind s.fills (fillKey pkg page) with
  | none => .next s
  | some f =>
    let e := leafOf s pkg (page * 65536)
    let k := pkg * 4 + (fillPort s pkg page).1 / 4
    let s := changeLeaf pkg page (setField e 1 3 1) { s with fills := tdel s.fills (fillKey pkg page) }
    let s := modSqe k (fun q => { q with
      errors := q.errors + (if s.ev.c = 3 then 0 else 1)
      waiting := q.waiting.filter (· != page) }) s
    let s := if f.waiting then s else returnFrame pkg k f.frame s
    let (c, d) := (s.ev.c, s.ev.d)
    .next ((parkedOf s pkg page).foldl (fun s id => failParked id 0x18 c d s) s)

/-- SQE_COMMAND_TIMEOUT (R418): an Abort is issued on the port's admin queue, and not waited for; the engine acts 40 cycles on. -/
def execSqeCommandTimeout (s : State) : Res :=
  match tfind s.fills (fillKey s.ev.a s.ev.b) with
  | some f =>
    if f.issued = s.ev.c ∧ f.waiting = false then
      let port := (fillPort s s.ev.a s.ev.b).1
      .next (post (s.now + 40) .sqeFillFail { a := s.ev.a, b := s.ev.b, c := 2, d := 0 }
        (modSqe (s.ev.a * 4 + port / 4) (fun q => { q with aborts := q.aborts ++ [(port, s.ev.c)] })
          { s with fills := tput s.fills (fillKey s.ev.a s.ev.b) { f with issued := s.now } }))
    else .next s
  | none => .next s

/-- The strands of a team on a core. -/
def teamSlots (s : State) (cid team : Nat) : List Nat :=
  ((List.range 11).map (cid * 16 + ·)).filter fun sid => (slotAt s sid).st != .free && (slotAt s sid).team == team

/-- A parked access of a team is still waiting. -/
def teamWaits (s : State) (cid team : Nat) : Bool :=
  s.accs.any fun p => cidOf p.2.sid == cid && p.2.parked && p.2.kind != .watch && accLive s p.2 && (slotAt s p.2.sid).team == team

/-- Registers of a team held somewhere: live and written g, written k (R361). -/
def teamRegs (s : State) (l : List Nat) : Nat :=
  (l.map fun sid =>
    let x := slotAt s sid
    popN (x.live &&& x.wrG).toNat 64 + popN x.wrK.toNat 16).sum
where
  popN (x : Nat) : Nat → Nat
    | 0 => 0
    | n + 1 => popN x n + (if x.testBit n then 1 else 0)

/-- Posts the restore of a team that is swapped out or on its way, once its last parked access is answered (R361). -/
def postRestore (cid team : Nat) (s : State) : State :=
  let l := teamSlots s cid team
  if l.any (fun sid => (slotAt s sid).st == .swapped || (slotAt s sid).frozen) && !teamWaits s cid team then
    post (s.now + 16 + teamRegs s l) .teamRestore { a := cid, b := team } s
  else s

/-- A PARKED strand goes on in the cycle after the answer (the parked member of the run printed in spec/14). -/
def wakeParked (a : Acc) (s : State) : State :=
  if accLive s a && (slotAt s a.sid).st == .parked && !(slotAt s a.sid).hold then
    modSlot a.sid (fun x => { x with readyAt := max x.readyAt (s.now + 1) }) s
  else s

/-- The answer of a parked access of a saved gang: the parking place is free, and the result with its presence bit stands in the strand's frame
in the save area (R400, R403, R425). -/
def savedAnswer (id gid : Nat) (a : Acc) (s : State) : State :=
  let tid := tidOfC (cidOf a.sid)
  let k := devKey (tid / 2048) (Config.saveArea gid tid) + (frameKey a.sid - spKey tid 0)
  let s := modAcc id (fun a => { a with parked := false }) (unpark a s)
  match a.ret with
  | .reg dst e =>
    if dst % 128 = 0 ∨ 64 ≤ dst % 128 then s
    else
      let m := mwrite s.mem (k + 8 * (dst % 128)) (natBytes 8 (extend e a.data).toNat)
      let live := mem64 s (k + 0x388) ||| word (2 ^ (dst % 128))
      { s with mem := mwrite m (k + 0x388) (natBytes 8 live.toNat) }
  | .kref dst => { s with mem := mwrite s.mem (k + 0x200 + 8 * dst) (natBytes 8 (extend .zext a.data).toNat) }
  | _ => s

/-- PARKED_ACCESS_ANSWER (R413, R362): the answer reaches the core; a swapped team whose last parked access it was is
restored. The strand of a saved gang sees it once the gang is resident (R425). -/
def execParkedAccessAnswer (s : State) : Res :=
  match tfind s.accs s.ev.a with
  | none => .next s
  | some a =>
    if accAway s s.ev.a then
      .next (post (s.now + 1) .parkedAccessAnswer s.ev (if a.parked then savedAnswer s.ev.a (a.gang.getD 0) a s else s))
    else
    let s := wakeParked a (answerAcc s.ev.a (unpark a s))
    .next (if accLive s a then postRestore (cidOf a.sid) (slotAt s a.sid).team s else s)

/-- The TVAL2 word of a failed access (R421). -/
def failWord (s : State) (a : Acc) (reason nvst vdisc : Nat) : Word :=
  word (reason + vdisc % 256 * 2 ^ 8 + nvst % 2 ^ 15 * 2 ^ 16 + ((slotAt s a.sid).issued - a.order - 1) % 2 ^ 32 * 2 ^ 32)

/-- A vector instruction that failed and the strand's later ones are discarded (R287), with their accesses that are not
performed; how many later ones there were. -/
def discardVec (cid vid sid : Nat) (s : State) : Nat × State :=
  let q := tget s.vq cid []
  let gone := q.filter fun e => e.sid == sid && decide (vid ≤ e.vid)
  let s := { s with
    vq := tput s.vq cid (vTrim (q.filter fun e => !(e.sid == sid && decide (vid ≤ e.vid))))
    accs := s.accs.filter fun p => (match p.2.ret with
      | .lane v _ _ => cidOf p.2.sid != cid || p.2.performed || !(gone.any fun e => e.vid == v)
      | _ => true) }
  ((gone.filter fun e => e.vid != vid).length, gone.foldl (fun s e => if e.gdst = 0 then s else delBusy e.sid e.gdst s) s)

/-- A failure of an older access of the same strand reaches the core in this cycle too (R421). -/
def olderFails (s : State) (a : Acc) : Bool :=
  s.agenda.any fun e => decide (e.1 ≤ s.now) && e.2.1 == .parkedAccessFail && (match tfind s.accs e.2.2.a with
    | some b => b.sid == a.sid && b.gen == a.gen && decide (b.order < a.order)
    | none => false)

/-- The failure waits: for an older one of this cycle, for the end of a swap-out (R425), and for the resumption of a strand that is TRAPPED
for another cause than a failure (R421). -/
def failWaits (s : State) (a : Acc) : Bool :=
  let x := slotAt s a.sid
  accLive s a && (olderFails s a || x.frozen || (x.st == .trapped && !x.killed && x.tcause != 0x18 && x.tcause != 0x19))

/-- PARKED_ACCESS_FAIL (R421, R287): the failure traps the strand that issued the access, where it still lives and no failure has trapped
it; a swapped team is restored first (R414). -/
def execParkedAccessFail (s : State) : Res :=
  let id := s.ev.a
  match tfind s.accs id with
  | none => .next s
  | some a =>
    let x := slotAt s a.sid
    let cid := cidOf a.sid
    if accAway s id || failWaits s a then .next (post (if olderFails s a then s.now else s.now + 1) .parkedAccessFail s.ev s)
    else if accLive s a && x.st == .swapped then
      let ev := s.ev
      let t := s.now + 16 + teamRegs s (teamSlots s cid x.team)
      .next (post t .parkedAccessFail ev (post t .teamRestore { a := cid, b := x.team } s))
    else
      let s' := modMtu (mtuOfVa a.dpkg a.va) (fun m => { m with fails := m.fails + (if a.parked then 1 else 0) })
        (unpark a { s with accs := tdel s.accs id })
      let s' := if a.parked then fireEventPkg a.dpkg 7 s' else s'
      let s' := if a.xchg then xchgDone a.sid a.gang s' else s'
      let s' := match a.ret with
        | .reg dst _ => delBusy a.sid (dst % 128) s'
        | .kref dst => delBusy a.sid (64 + dst) s'
        | .handle h => delBusy a.sid (80 + h) s'
        | .ring _ _ _ => ringLost a s'
        | .engine cmd =>
          let st := if s.ev.b = 0x18 then 2 else if s.ev.c = 4 then 1 else 3
          if 2 ^ 60 ≤ cmd ∧ cmd < 2 ^ 61 then { s' with unitFails := s'.unitFails ++ [(cmd, a.va / 65536)] }
          else if a.cmp.isEmpty then modCmd cmd (fun c => { c with status := st, nvst := s.ev.d }) s' else parcelAgain a cmd st s'
        | .heap hop => dropHop hop s'
        | .host p tag => modPkg p (fun k => { k with hostq := k.hostq ++ [(2 ^ 32 + tag, [])] })
            (if a.store then logReject (mtuOfVa a.dpkg a.va) (cidOf a.sid) a.va a.tenant s' else s')
        | _ => s'
      let again (s : State) : State := if accLive s a then postRestore cid x.team s else s
      if !accLive s' a || x.st == .trapped then
        match a.ret with
        | .lane vid _ _ => .next (again (discardVec cid vid a.sid s').2)
        | _ => .next (again s')
      else
        let (vd, s') := match a.ret with
          | .lane vid _ _ => discardVec cid vid a.sid s'
          | _ => (0, s')
        .next (again (recordTrap a.sid s.ev.b (word a.va) (failWord s' a s.ev.c s.ev.d vd) a.ipc s'))

/-! ### Team swap-out and restore (R361, R362, R414, R475) -/

/-- A strand swapped out: its live, written registers and the rest of its state go to its frame, where the spill map then has them; a dead
one's place there keeps what it holds; the physical file and the parking places are free (R37, R362). -/
def swapFrame (sid : Nat) (s : State) : State :=
  let x := slotAt s sid
  let old := mread s.mem (frameKey sid) 0x400
  let new := frameBytes s sid x.pc
  let keep (i : Nat) : Bool := if i < 64 then (x.live &&& x.wrG).toNat.testBit i else decide (80 ≤ i) || x.wrK.toNat.testBit (i - 64)
  let bs := (List.range 0x400).map fun i => if keep (i / 8) then new.getD i 0#8 else old.getD i 0#8
  let s := dropStrand sid { s with mem := mwrite s.mem (frameKey sid) bs }
  ((List.range 80).filter fun i => i != 0 && keep i).foldl (fun s r => { s with place := tput s.place (fileKey sid r) .frame }) s

/-- TEAM_SWAP_OUT: `d` = 0 looks whether the swap may start (the oldest parked access of the team has waited SWAPTHR cycles since its issue
and a strand of it is PARKED), and looks again until it has ended; once started, the team issues nothing and its registers go to its
frames; `d` = 1, 16 + m cycles later, ends it. A TRAPPED strand stays so, with its registers in its frame too (R26, R361, R362, R475). -/
def execTeamSwapOut (s : State) : Res :=
  let cid := s.ev.a
  let team := s.ev.b
  let l := teamSlots s cid team
  if s.ev.d = 1 then
    .next <| l.foldl (fun s sid =>
      let x := slotAt s sid
      if !x.frozen then s
      else swapFrame sid (putSlot sid { x with st := if x.st = .trapped then .trapped else .swapped, frozen := false } s)) s
  else
    let thr := (coreAt s cid).swapthr
    match oldestParked s cid team with
    | none => .next s
    | some t =>
      if thr = 0 ∨ l.any (fun sid => (slotAt s sid).frozen || (slotAt s sid).st == .swapped) = true then .next s
      else if s.now < t + thr then .next (postSwap cid team (t + thr) s)
      else if l.any (fun sid => (slotAt s sid).st == .parked) then
        .next (post (s.now + 16 + teamRegs s l) .teamSwapOut { a := cid, b := team, d := 1 }
          (l.foldl (fun s sid => modSlot sid (fun x => { x with frozen := true }) s) s))
      else if s.agenda.any fun e => e.2.1 == .teamSwapOut && e.2.2.a == cid && e.2.2.b == team && e.2.2.d == 0 then .next s
      else .next (postSwap cid team 0 s)

/-- The g registers of mask `g` and the k registers of mask `kk` as a strand's frame holds them, presence and liveness too; the live
ones take places in the physical file (R362, R382). -/
def loadFrameRegs (sid : Nat) (g : Word) (kk : BitVec 16) (s : State) : State :=
  let k := frameKey sid
  let live := mem64 s (k + 0x390)
  let s := dropStrand sid { s with
    g := (List.range 63).foldl (fun t i => if g.toNat.testBit (i + 1) then tput t (sid * 64 + i + 1) (mem64 s (k + 8 * (i + 1))) else t) s.g
    k := (List.range 16).foldl (fun t i => if kk.toNat.testBit i then tput t (sid * 16 + i) (mem64 s (k + 0x200 + 8 * i)) else t) s.k }
  let s := modSlot sid (fun x => { x with pres := mem64 s (k + 0x388), live := live }) s
  let s := (List.range 63).foldl (fun s i => if (g &&& live).toNat.testBit (i + 1) then holdReg (fileKey sid (i + 1)) s else s) s
  (List.range 16).foldl (fun s i => if kk.toNat.testBit i then holdReg (fileKey sid (64 + i)) s else s) s

/-- The strand's wait is for an access parked at an engine or an MTU (R26). -/
def heldParked (s : State) (x : Slot) : Bool :=
  match tfind s.accs x.heldBy with
  | some a => x.hold && (a.kind == .watch || a.parked)
  | none => false

/-- TEAM_RESTORE (R361, R362): the frames' live registers come back and the strands go on at their instructions. -/
def execTeamRestore (s : State) : Res :=
  let l := teamSlots s s.ev.a s.ev.b
  if l.any fun sid => (slotAt s sid).frozen then .next (post (s.now + 1) .teamRestore s.ev s)
  else
    .next <| l.foldl (fun s sid =>
      let x := slotAt s sid
      if x.st = .swapped then
        modSlot sid (fun x => { x with
          st := if heldParked s x then .parked else if x.hold then .waiting else .ready
          readyAt := s.now }) (loadFrameRegs sid x.wrG x.wrK s)
      else if x.st = .trapped ∧ (s.place.any fun p => p.1 / 128 == sid && p.2 == .frame) = true then loadFrameRegs sid x.wrG x.wrK s
      else s) s

/-! ### Pages of other packages (R420) -/

/-- The E-die whose fault processor and pool serve an address: 0 for stacks 0 to 3 and 8 to 11 (R420). -/
def faultDie (va : Nat) : Nat := nfield va 14 1

/-- The engine whose pool serves migrations of a page: engine 0 or 2 by the stack's side (R420). -/
def migEngine (pkg va : Nat) : Nat := pkg * 4 + 2 * faultDie va

/-- The physical address of page table `n` of a package: below the backing table, downwards (log 34). -/
def tableAt (s : State) (pkg n : Nat) : Nat := (pkgAt s pkg).ptbase - 8192 * n

/-- The table below an entry, made where the entry is not valid. -/
def downTable (pkg table ix : Nat) (s : State) : Nat × State :=
  let e := ptEntry s pkg table ix
  if wfield e 0 1 = 1 then (wfield e 13 27 * 8192, s)
  else
    let n := (pkgAt s pkg).ptTables + 1
    let t := tableAt s pkg n
    (t, { modPkg pkg (fun k => { k with ptTables := n }) s with mem := mwrite s.mem (devKey pkg (table + 8 * ix)) (natBytes 8 (t + 1)) })

/-- A page's leaf written, with the tables above it that are not there yet. -/
def writeLeaf (pkg page : Nat) (e : Word) (s : State) : State :=
  let va := page * 65536
  let (t1, s) := downTable pkg (pkgAt s pkg).ptbase (nfield va 46 10) s
  let (t2, s) := downTable pkg t1 (nfield va 36 10) s
  let (_, s) := downTable pkg t2 (nfield va 26 10) s
  changeLeaf pkg page e s

/-- An access that was translated to a page's frame is not performed yet (R419 step 2). -/
def pageDraining (s : State) (pkg page : Nat) : Bool :=
  s.accs.any fun a => a.2.dev && a.2.dpkg == pkg && a.2.va / 65536 == page && a.2.decided && !a.2.performed

/-- A page is backed by an SSD (R409, R419): firmware's record, which a migration takes it out of (R420). -/
def backed (s : State) (pkg page : Nat) : Bool := (pkgAt s pkg).backed.contains page
def unback (pkg page : Nat) (s : State) : State := modPkg pkg (fun k => { k with backed := k.backed.filter (· != page) }) s

/-- FAULT_SERVE (R420): `d` is the hop count, or 16 and the reason of an answer to access `w` of this package; `w2` the stage of a migration:
0 the fault arrives, 1 it has been served 200 cycles on and the page is claimed, 2 the page is drained, at the least 224 cycles later. A
fault that comes back to a package that has the page meanwhile is over: its accesses were answered by the installation. -/
def execFaultServe (s : State) : Res :=
  let p := s.ev.a
  let page := s.ev.b
  let req := s.ev.c
  let va := page * 65536
  let id := s.ev.w.toNat
  let stage := s.ev.w2.toNat
  if 16 ≤ s.ev.d then
    match tfind s.accs id with
    | some a => .next (if a.parked && !a.performed then failParked id 0x19 (s.ev.d - 16) 0 s else s)
    | none => .next s
  else if (pkgAt s p).present = false ∨ (pkgAt s p).failed = true then .next s
  else
    let e := leafOf s p va
    let answer (reason : Nat) : Res := .next (answerFault p req page id reason s)
    if stage = 2 then
      if pageDraining s p page then .next (post (s.now + 1) .faultServe s.ev s)
      else
        .next (overLink p req 2 65536 (s.now + crossing s p req + 820) .pageMigrationArrival
          { a := req, b := page, c := p, flag := wfield e 4 1 == 1, d := leafTenant e, e := s.ev.e
            p := .cells (cellsOf s.mem (devKey p (leafFrame e * 65536)) 65536 0) } s)
    else if leafV e && leafSt e == 3 then
      let q := wfield e 8 21 % 65536
      if wfield e 8 21 = identityOf s req then .next s
      else if s.ev.d = 4 then answer 6
      else if reachable s p q then
        .next (overLink p q 0 56 (s.now + crossing s p q) .faultServe { s.ev with a := q, d := s.ev.d + 1, w2 := 0#64 } s)
      else answer 7
    else if !leafV e then answer 2
    else if leafSt e == 4 then answer 3
    else if (match ownerOf s p va with
        | some (_, m) => !m
        | none => true) then answer 5
    else if leafSt e == 1 then .next (post (s.now + 1) .faultServe s.ev (claimFill p page e s))
    else if leafSt e == 2 then .next (post (s.now + 1) .faultServe s.ev s)
    else if stage = 0 then .next (post (s.now + 200) .faultServe { s.ev with w2 := 1#64 } s)
    else .next (post (s.now + 224) .faultServe { s.ev with w2 := 2#64 } (changeLeaf p page (setField e 1 3 2) s))

/-- PAGE_MIGRATION_ARRIVAL (R420): the page is installed RESIDENT in a frame of the pool, 40 cycles after it arrived; it
waits where the pool is empty (R417). It comes without its backing. -/
def execPageMigrationArrival (s : State) : Res :=
  let p := s.ev.a
  let page := s.ev.b
  let k := migEngine p s.ev.e
  match (sqeAt s k).frames, s.ev.p with
  | f :: r, .cells cells =>
    let dst := devKey p (f * 65536)
    let s' := modSqe k (fun q => { q with frames := r }) s
    let s' := dropOlds (fun a => decide (dst ≤ a) && decide (a < dst + 65536))
      { s' with mem := splice s'.mem dst 65536 (cells.map fun c => (c.1 % 65536 + dst, c.2)) }
    let e := word (1 + (if s.ev.flag then 2 ^ 4 else 0) + f % 2 ^ 24 * 2 ^ 8 + s.ev.d % 2 ^ 12 * 2 ^ 52)
    let s' := writeLeaf p page e (unback p page s')
    .next (overLink p s.ev.c 1 8 (s.now + crossing s p s.ev.c) .migrationAck { a := s.ev.c, b := page, c := p, e := s.ev.e }
      (post (s.now + 40) .mtuInstallNotice { a := p, b := page } s'))
  | _, _ => .next (post (s.now + 256) .pageMigrationArrival s.ev s)

/-- MIGRATION_ACK (R420): the owner's entry becomes REMOTE and its frame returns to the pool. -/
def execMigrationAck (s : State) : Res :=
  let p := s.ev.a
  let page := s.ev.b
  let e := leafOf s p (page * 65536)
  let s' := changeLeaf p page (setField (setField (setField e 1 3 3) 4 1 0) 8 24 (identityOf s s.ev.c)) (unback p page s)
  .next (post s.now .mtuInstallNotice { a := p, b := page } (returnFrame p (migEngine p s.ev.e) (leafFrame e) s'))

/-- A Write (`stage` 0) or Flush (1) of a page's write-back is submitted (R416, R419): it ends after a free number of cycles, or at the
time-out; a port that cannot be used ends it at once. Where no NVMe status comes, the one that EVICT reports is a free value, with 2^16
added (log 112). -/
def writeCmd (pkg page port nsid stage : Nat) (s : State) : State :=
  let q := sqeAt s (pkg * 4 + port / 4)
  let (x, s) := freeValue s
  let arg : EvArg := { a := pkg, b := page, d := stage, flag := true }
  let none' : Nat := 2 ^ 16 + x.toNat / 2 ^ 48
  if portReady s pkg port nsid = false then post s.now .evictWritebackComplete { arg with c := none', e := 1 } s
  else if x.toNat < q.tmo then post (s.now + 1 + x.toNat) .evictWritebackComplete arg s
  else post (s.now + 1 + q.tmo) .evictWritebackComplete { arg with c := none' }
    (modSqe (pkg * 4 + port / 4) (fun q => { q with aborts := q.aborts ++ [(port, s.now)] }) s)

/-- EVICT_WRITEBACK_COMPLETE (R419, R424): after the Write the page's bytes are on the SSD, and the Flush follows; after the Flush, or for a
clean page at once, the page becomes STORED and its frame returns to the pool. With an error, which is counted unless the port could not
be used (`e` 1), it is RESIDENT again with D = 1. `flag`: a page is written back; `d` 1: the Flush has ended. -/
def execEvictWritebackComplete (s : State) : Res :=
  let p := s.ev.a
  let page := s.ev.b
  let e := leafOf s p (page * 65536)
  let (w0, w1) := backingOf s p e
  let port := wfield w1 32 4
  if leafSt e ≠ 2 then .next s
  else if s.ev.c ≠ 0 then
    let err := s.ev.c
    let n := if s.ev.e = 1 then 0 else 1
    let s := modPkg p (fun k => { k with evictErr := err }) s
    .next (post s.now .mtuInstallNotice { a := p, b := page }
      (modSqe (p * 4 + port / 4) (fun q => { q with errors := q.errors + n }) (changeLeaf p page (setField (setField e 1 3 0) 4 1 1) s)))
  else if s.ev.flag ∧ s.ev.d = 0 then
    let dst := ssdKey p port (wfield w1 0 32) (w0.toNat * 2 ^ wfield w1 36 4)
    .next (writeCmd p page port (wfield w1 0 32) 1
      { s with ssd := splice s.ssd dst 65536 (cellsOf s.mem (devKey p (leafFrame e * 65536)) 65536 dst) })
  else
    let s' := changeLeaf p page (setField (setField e 1 3 1) 4 1 0) s
    .next (post s.now .mtuInstallNotice { a := p, b := page } (returnFrame p (p * 4 + port / 4) (leafFrame e) s'))

end Sys2Proof.Machine
end

