-- ==== Sys2Proof/Machine/Links.lean ====
section
/-!
DEFINITION. Sending over Knazan Links: flits and their replay buffer (R441, R443), packets and the retransmission store (R444,
R445).
-/

namespace Sys2Proof.Machine

def ferAt (s : State) (fk : Nat) : Fer := tget s.fer fk {}
def modFer (fk : Nat) (f : Fer → Fer) (s : State) : State := { s with fer := tput s.fer fk (f (ferAt s fk)) }

/-- The Pavilion of a tile's half of its package (R178, R356). -/
def ferOfTile (tid : Nat) : Nat := tid / 2048 * 2 + (if tileX tid < 32 then 0 else 1)

/-- The store of a Pavilion has room for so many bytes. -/
def storeRoom (s : State) (fk n : Nat) : Bool := decide (n ≤ (ferAt s fk).tsfree)

/-- The port at the other end of a port's link is a port of the state. -/
def portPkg (k : Nat) : Nat := k / 36

/-- Sends `n` flits on a port: each takes a sequence number of 12 bits and a place in the replay buffer, and reaches the other
end with the cycles of one crossing (R441, R443). -/
def sendFlits (k vc : Nat) : Nat → State → State
  | 0, s => s
  | n + 1, s =>
    let (x, s) := freeValue (sendFlits k vc n s)
    let p := portAt s k
    let f : Flit := { seq := p.sendSeq, vc := vc, typ := wfield x 0 3, credit := wfield x 3 14, crc := wfield x 17 32 }
    let s := modPort k (fun p => { p with replay := p.replay ++ [f], sendSeq := (p.sendSeq + 1) % 4096, lastTx := s.now }) s
    match p.peer with
    | some q => post (s.now + 1000) .linkFlitReceive { a := q, b := p.sendSeq, flag := true } s
    | none => s

/-- The flits of a packet: 56 bytes of payload each (R441). -/
def flitsOf (bytes : Nat) : Nat := max 1 ((bytes + 55) / 56)

/-- The cycles that a message's bytes take longer on a port in its present width than at 80 bytes a cycle: a lane in use carries 10
(R264, R446). -/
def laneDelay (p : Port) (bytes : Nat) : Nat := (bytes + 10 * p.width - 1) / (10 * p.width) - (bytes + 79) / 80

/-- The first port that is up in the ordered list for a destination (R449). -/
def pickPort (s : State) (p q : Nat) : Option Nat :=
  ((pkgAt s p).routes.find? fun r => r.1 == q && (portAt s (p * 36 + r.2.1)).up).map fun r => p * 36 + r.2.1

/-- A command ends with STATUS LOST, by that event. -/
def lostCmd (ev : Instr) (arg : EvArg) (s : State) : State :=
  post s.now ev arg (modCmd arg.a (fun c => { c with status := if c.status = 0 then 4 else min 4 c.status }) s)

/-- A packet's command or message ends LOST, or is recorded as rejected, where its destination is unreachable (R445); so it does where it is
the answer that cannot come. The other packets of its message go with it. -/
def lostPkt (id : Nat) (s : State) : State :=
  match tfind s.pkts id with
  | none => s
  | some k =>
    let all := s.pkts.filter fun p => p.2.msg == k.msg
    let s := all.foldl (fun s p =>
      let s := { s with pkts := tdel s.pkts p.1 }
      if p.2.st = 0 || !p.2.kept then s else modFer p.2.fk (fun f => { f with tsfree := f.tsfree + p.2.bytes }) s) s
    match k.ev with
    | .putDataArrival => lostCmd .putRemoteComplete { a := k.arg.a } s
    | .getRequestServe => lostCmd .getComplete { a := k.arg.a } s
    | .remoteAtomicServe => lostCmd .getComplete { a := k.arg.a } s
    | .putRemoteComplete => lostCmd .putRemoteComplete { a := k.arg.a } s
    | .getComplete => lostCmd .getComplete { a := k.arg.a } s
    | .a2aParcelWrite => if all.all (fun p => p.2.arrived) then s else lostCmd .a2aContribute { a := k.arg.a, b := 1 } s
    | .storeAck => post s.now .remoteRejection { a := k.arg.a } s
    | .qsendAnswer => post s.now .remoteRejection { a := k.arg.a } s
    | .remoteRejection => post s.now .remoteRejection { a := k.arg.a } s
    | _ =>
      match k.arg.p with
      | .msg m => post s.now .remoteRejection { a := m.acc } s
      | _ => s

/-- A GET or PUT of a package that its destination has taken and not yet answered: nothing of it stands in its engine, in the store or on
a link. -/
def unanswered (s : State) (pkg dst id : Nat) (c : Cmd) : Bool :=
  (c.op == 20 || c.op == 21) && !c.placed && pkgOfC (cidOf c.sid) == pkg && keyOf s (wfield (c.desc.getD 2 0#64) 20 21) == some dst
  && dst != pkg && !(s.agenda.any fun e => e.2.2.a == id && (e.2.1 == .getComplete || e.2.1 == .putRemoteComplete
      || e.2.1 == .putLocalComplete || ((e.2.1 == .getRequestServe || e.2.1 == .remoteAtomicServe) && e.2.2.b == 1)))
  && !(s.pkts.any fun p => p.2.arg.a == id && (p.2.ev == .putRemoteComplete || p.2.ev == .getComplete))

/-- A destination has become unreachable: every entry for it is dropped, and each command concerned ends LOST (R445). -/
def lostAll (pkg dst : Nat) (s : State) : State :=
  let s := ((s.pkts.filter fun p => p.2.fk / 2 == pkg && p.2.dst == dst).map (·.1)).foldl (fun s id => lostPkt id s) s
  (s.cmds.filter fun p => unanswered s pkg dst p.1 p.2).foldl (fun s p =>
    lostCmd (if p.2.op = 21 then .putRemoteComplete else .getComplete) { a := p.1 } s) s

/-- The last byte of a QSEND is in the store: its strand goes on (R251, R473). -/
def localDone (k : Packet) (s : State) : State :=
  match k.arg.p with
  | .msg m => match tfind s.accs m.acc with
    | some a => goesOn a.sid a.gen m.acc 0 s
    | none => s
  | _ => s

/-- An earlier packet for the same destination waits for its port (R449). -/
def packetAhead (s : State) (id : Nat) (k : Packet) : Bool :=
  s.pkts.any fun p => p.2.st == 1 && p.2.fk / 2 == k.fk / 2 && p.2.dst == k.dst
    && decide (p.2.since < k.since ∨ p.2.since = k.since ∧ p.1 < id)

/-- The cycle in which a packet that leaves a port now is at its destination: after those that left the port for it before (R449). -/
def packetDue (s : State) (port : Nat) (k : Packet) : Nat :=
  let p := portAt s port
  max (s.now + k.toGo + laneDelay p k.upto) (tget p.arr k.dst 0)

/-- A packet enters the store as room allows, and leaves on a port as soon as that sends, after those before it: not while it retrains,
nor while its replay buffer is full (R443, R444, R446, R449). -/
def launchPkt (id : Nat) (s : State) : State :=
  match tfind s.pkts id with
  | none => s
  | some k =>
    let again (s : State) : State := post (s.now + 1) .transportResend { a := id, b := k.resends } s
    if k.st = 0 ∧ k.kept = true ∧ storeRoom s k.fk k.bytes = false then again s
    else
      let enters := k.st == 0
      let s := if enters && k.kept then modFer k.fk (fun f => { f with tsfree := f.tsfree - k.bytes }) s else s
      let k := { k with st := 1, since := if enters then s.now else k.since }
      let s := { s with pkts := tput s.pkts id k }
      let s := if enters && k.kept then localDone k s else s
      if reachable s (k.fk / 2) k.dst = false then lostPkt id s else
      match pickPort s (k.fk / 2) k.dst with
      | none => lostPkt id s
      | some port =>
        let p := portAt s port
        if p.retraining || decide (512 < p.replay.length + flitsOf k.bytes) || packetAhead s id k then again s
        else
          let due := packetDue s port k
          let s := sendFlits port k.vc (flitsOf k.bytes) { s with pkts := tput s.pkts id { k with st := 2, port := port } }
          let s := modPort port (fun p => { p with arr := tput p.arr k.dst due }) s
          let s := post due .transportPacketArrival { a := id, b := k.resends } s
          if k.kept then post (s.now + 125000) .transportResend { a := id, b := k.resends } s else s

/-- A new message that the store holds, which reaches it at cycle `t`; `ev` happens when all of it has arrived. Data beyond 56 bytes is
bulk (R442). -/
def sendPkt (fk dst bytes toGo : Nat) (ev : Instr) (arg : EvArg) (t : Nat) (s : State) : State :=
  postPackets { fk := fk, dst := dst, bytes := bytes, toGo := toGo, ev := ev, arg := arg
                vc := if (ev == .putDataArrival || ev == .a2aParcelWrite) && decide (56 < bytes) then 2 else 0 } t s

end Sys2Proof.Machine
end

