-- ==== Sys2Proof/Machine/Engine.lean ====
section
/-!
DEFINITION. Engine commands: issue of a command (R259), completion elements (R263), the copy engine (R260, R264), GET, PUT
and remote atomics (R261, R473), storage transfers (R262).
-/

namespace Sys2Proof.Machine

/-! ### Completion elements (R263) -/

/-- The word of a completion element. -/
def elemWord (tag status nvst : Nat) (resumed remote local' : Bool) : Word :=
  word (tag % 2 ^ 16 + status * 2 ^ 16 + (if resumed then 2 ^ 20 else 0) + (if remote then 2 ^ 21 else 0)
    + (if local' then 2 ^ 22 else 0) + nvst % 2 ^ 15 * 2 ^ 32)

/-- The lowest handle of a strand that is the completion port of an engine's channel. -/
def cplHandle (s : State) (sid eng ch : Nat) : Option Nat :=
  (List.range 16).find? fun h => (hGet s sid h).kind == 4 && (hGet s sid h).eng == eng && (hGet s sid h).ch == ch

/-- An element in a ring with a free slot, and the write count raised (R96). -/
def ringPush (sid hn : Nat) (x : Word) (s : State) : State :=
  let h := hGet s sid hn
  let c := ringWr s sid h
  bumpCount (ringKey sid h + 8) 1 (memSet64 (ringSlotKey sid h c) x s)

/-- The command's strand lives on and its gang is resident (R400). -/
def cmdLive (s : State) (c : Cmd) : Bool :=
  (slotAt s c.sid).gen == c.gen && (slotAt s c.sid).st != .free && (coreAt s (cidOf c.sid)).gang == c.gang

/-- The command's gang is saved and will be resident again. -/
def cmdAway (s : State) (c : Cmd) : Bool :=
  (coreAt s (cidOf c.sid)).gang != c.gang && (match c.gang with
    | some g => (gangAt s g).isSome
    | none => false)

/-- An element of the same completion ring is still held (R263). -/
def elemHeld (s : State) (sid hn : Nat) : Bool :=
  s.agenda.any fun e => e.2.1 == .completionElementPlace && e.2.2.a == sid && e.2.2.b == hn

/-- The bytes of a copy, and those it moves in a cycle: 64 in the own scratchpad and 32 elsewhere (R264). -/
def copyTotal (d : List Word) : Nat := wfield (d.getD 2 0#64) 0 20 * wfield (d.getD 2 0#64) 20 16
def copyRate (own : Nat) (d : List Word) : Nat :=
  let rs := routeOf own (wfield (d.getD 0 0#64) 0 56)
  let rd := routeOf own (wfield (d.getD 1 0#64) 0 56)
  if !rs.dev && rs.tid == own && !rd.dev && rd.tid == own then 64 else 32

/-- Cycles of a copy from byte `off` on: the source read latency, the movement, the last write's acknowledgement, and 4 (R264). -/
def copyTime (own : Nat) (d : List Word) (off : Nat) : Nat :=
  let rd := routeOf own (wfield (d.getD 1 0#64) 0 56)
  let rate := copyRate own d
  if copyTotal d = 0 then 1
  else loadLatency own (wfield (d.getD 0 0#64) 0 56) + (copyTotal d - off + rate - 1) / rate
    + perfDelay rd own false false + ansDelay rd own false true + 4

/-- Starts the command at the head of a copy channel, or goes on with one that a stop interrupted (R260, R401). -/
def copyStart (tid ch : Nat) (s : State) : State :=
  match ((tileAt s tid).copyq.getD ch []).head? with
  | none => s
  | some id =>
    match tfind s.cmds id with
    | none => s
    | some c =>
      post (s.now + copyTime tid c.desc c.off) .copyComplete { a := id, b := c.step } (modCmd id (fun c => { c with nextAt := s.now + 1 }) s)

/-- The copy channels of a tile are to stop, or have (R400 steps 3 and 4, R458). -/
def copyHeld (s : State) (tid : Nat) : Bool :=
  let p := partAt s (pkeyOf s (tid * 4))
  p.switching == 1 || p.switching == 2 || (match gangOfCore s (tid * 4) with
    | some g => g.halted == 1 || g.halted == 2
    | none => false)

/-- A command has ended: it leaves its engine, its port slot is free, and a copy channel goes on. -/
def endCmd (id : Nat) (s : State) : State :=
  match tfind s.cmds id with
  | none => s
  | some c =>
    let s := { s with cmds := tdel s.cmds id }
    if c.eng = 2 then
      let tid := tidOfC (cidOf c.sid)
      let s := modTile tid (fun t => { t with copyq := t.copyq.set c.ch ((t.copyq.getD c.ch []).filter (· != id)) }) s
      if copyHeld s tid then s else copyStart tid c.ch s
    else s

/-- Places an element of a command, or holds it where its ring is full, an earlier element is held, or its gang is away;
`last`: the command ends with it (R263). -/
def emit (id : Nat) (c : Cmd) (x : Word) (last held : Bool) (s : State) : State :=
  let done (s : State) : State := if last then endCmd id s else modCmd id (fun c => { c with elem := true }) s
  if cmdAway s c then post (s.now + 1) .completionElementPlace { a := c.sid, b := 16, c := id, w := x, flag := last } s
  else if !cmdLive s c then done s
  else
    match cplHandle s c.sid c.eng c.ch with
    | none => done s
    | some h =>
      if (!held && elemHeld s c.sid h) || decide (2 ^ (hGet s c.sid h).sz ≤ ringFilled s c.sid (hGet s c.sid h)) then
        post (s.now + 1) .completionElementPlace { a := c.sid, b := h, c := id, w := x, flag := last } s
      else done (ringPush c.sid h x s)

/-- COMPLETION_ELEMENT_PLACE (R263): a held element is placed once a slot is free; it is looked at every cycle. -/
def execCompletionElementPlace (s : State) : Res :=
  match tfind s.cmds s.ev.c with
  | none => .next s
  | some c => .next (emit s.ev.c c s.ev.w s.ev.flag true s)

/-- The end of a command with its one element, where it asks for one; its reads and writes are performed (R140). An exchange put's last
write was acknowledged 4 cycles ago where a copy made it, and now otherwise (R264, R52). -/
def complete (id : Nat) (c : Cmd) (tag : Nat) (remote : Bool) (s : State) : State :=
  let s := modCmd id (fun c => { c with placed := true, xchg := false }) s
  let s := if c.xchg then putDone c.sid c.gang (if c.eng = 2 then s.now - 4 else s.now) s else s
  if c.cpl then emit id c (elemWord tag c.status c.nvst c.resumed remote false) true false s else endCmd id s

/-! ### An engine's own accesses (R411, R422) -/

/-- The first address of a span whose MTU has not yet walked for its page: an engine's first access waits for the walk (R408). -/
def unwalked (s : State) (own va n : Nat) : Option Nat :=
  (unitStarts 8192 va n).find? fun a => !inWindow a && !(mtuAt s (mtuOfVa (own / 2048) a)).seen.contains (a / 65536)

/-- The first address of a span whose page is not there, with what an engine finds at it. -/
def engFind (s : State) (own va tenant n : Nat) : Nat × EngPage :=
  match (pageStarts va n).find? fun a => match engKey s own a tenant with
      | .ok _ => false
      | _ => true with
  | some a => (a, engKey s own a tenant)
  | none => (va, .ok 0)

/-- The first address of a span that an engine cannot access yet or at all, with what it finds at it. -/
def engCheck (s : State) (own va tenant n : Nat) : Nat × EngPage :=
  match engFind s own va tenant n, unwalked s own va n with
  | (_, .ok _), some a => (a, .wait)
  | e, _ => e

/-- An engine's access to a page that is not resident parks at the MTU on the engine's behalf (R422), and one to a page not yet walked for
is translated there (R408); the engine looks again every cycle. -/
def engPark (id pkg va tenant : Nat) (s : State) : State :=
  if s.accs.any fun p => p.2.ret == .engine id then s
  else
    let a : Acc :=
      { kind := .load, sid := pkg * 131072, gen := 1000, ipc := 0, order := 0, dpkg := pkg, dev := true, va := va, size := 1
        key := none, bank := msgBank, ret := .engine id, perfAt := s.now, ansLat := 0, tenant := tenant }
    let (aid, s) := freshId s
    post s.now .mtuAccessDecide { a := aid } { s with accs := tput s.accs aid a }

/-- An engine fails an access at once: status DENIED for a tenant's refusal, else PAGE_FATAL (R263). -/
def failStatus (reason : Nat) : Nat := if reason = 4 then 1 else 3

/-- The first address of a span in another tile's scratchpad whose router refuses an engine's access (R428), with the tile. -/
def engRouter (s : State) (own va n tenant part : Nat) : Option (Nat × Nat) :=
  (pageStarts va n).findSome? fun a => match tileOfVa own a with
    | some t => if t == own || routerOk s t tenant part false then none else some (t, a)
    | none => none

/-- Bytes moved one at a time in ascending address (R260). -/
def copyBytes (sid own src dst tenant : Nat) : Nat → State → State
  | 0, s => s
  | n + 1, s =>
    match engKey s own src tenant, engKey s own dst tenant with
    | .ok a, .ok b => copyBytes sid own (src + 1) (dst + 1) tenant n (memWrite b [mget s.mem a] s (strandWriter sid s.now))
    | _, _ => s

/-! ### Issue of a command (R259) -/

/-- The port operand A: a handle of kind 3 with this engine; `n` is the size of its descriptors, whose address the trap reports (R259), but for
MXC and EPI, whose first check names the handle alone (R319, R327).
The instruction waits first while a result for its port or its descriptor's base is still to come (R213). -/
def portM (o : Ops) (eng n : Nat) : M (Nat × Handle) := do
  let s ← askM id
  let hn := o.a.toNat - 32
  let sid := s.cur.sid
  let h := hGet s sid hn
  if (slotAt s sid).busy.contains (80 + hn) || (slotAt s sid).busy.contains (regOf o.b.toNat) then waitM
  else if h.kind ≠ 3 ∨ h.eng ≠ eng then
    if eng < 2 then trapM 0x0E (word hn)
    else do
      let p ← srcB o
      trapM 0x0E (word hn) (wordI (((wfield p 0 56 : Nat) + immR o * n) % (vaTop : Nat)))
  else pure (hn, h)

/-- The descriptor at `[gB+e]`: `n` bytes, `n`-aligned, in the issuing tile's scratchpad, as it is at issue. -/
def descM (o : Ops) (n : Nat) : M (Nat × List Word) := do
  let p ← srcB o
  rawM p
  let ea ← effAddr p (immR o * n)
  let s ← askM id
  let cid := cidOf s.cur.sid
  let own := tidOfC cid
  if tileOfVa own ea ≠ some own ∨ ea % n ≠ 0 then trapM 7 (word ea)
  else do
    let _ ← rangeM ea n true false
    pure (ea, bytesWords (n / 8) (mread (ownView s.cur.sid s).mem (spKey own ea) n))

/-- A limit fault of R259. -/
def limitM (hn dp : Nat) (ok : Bool) : M Unit := if ok then pure () else trapM 0x0E (word hn) (word dp)

/-- A span of a command against the core's table (R92): `n` bytes from `lo`, of a RAW pointer that must be legal (R57).
DESIGN CHOICE (log 113): a span of no bytes is no access, and nothing of its pointer is checked. -/
def spanBy (check : Nat → Nat → Bool → Bool → M Nat) (p : Word) (lo : Int) (n : Nat) (rd wr : Bool) : M Unit :=
  if n = 0 then pure ()
  else if wfield p 56 4 ≠ 0 then trapM 0x0C p
  else if lo < 0 ∨ lo + n > (vaTop : Nat) then trapM 0x0D p
  else do
    let _ ← check lo.toNat n rd wr

def spanM (p : Word) (lo : Int) (n : Nat) (rd wr : Bool) : M Unit := spanBy rangeM p lo n rd wr

/-- A wait count larger than the port traps; the push waits for that many free slots (R97, R99). -/
def portSlotM (o : Ops) (hn : Nat) (h : Handle) : M Unit := do
  let s ← askM id
  if hCap h < wA o then trapM 0x0E (word hn) (word (wA o))
  else waitUnless (decide (wA o ≤ hFree s s.cur.sid h) && !acqPending s s.cur.sid)

/-- A completion asked for needs a completion port of the strand (R259); a bind on its way may be that port's, and is waited
for (R246). -/
def cplM (hn dp eng ch : Nat) (want : Bool) : M Unit := do
  let s ← askM id
  let busy := (slotAt s s.cur.sid).busy
  let port := cplHandle s s.cur.sid eng ch
  if want && (match port with
      | some k => busy.contains (80 + k)
      | none => busy.any fun r => decide (80 ≤ r ∧ r < 96)) then waitM
  else limitM hn dp (!want || port.isSome)

/-- The earlier stores, atomics and messages of the strand in PACKAGE scope that the engine's reads come after (R147). -/
def releaseSet (s : State) (sid : Nat) : List Nat :=
  ((strandAccs s sid).filter fun p =>
    (p.2.store || p.2.kind == .atom || p.2.kind == .cas || p.2.kind == .msg) && !p.2.performed && p.2.dpkg == pkgOfC (cidOf sid)).map (·.1)

/-- They are all performed. -/
def released (s : State) (l : List Nat) : Bool :=
  l.all fun id => match tfind s.accs id with
    | some a => a.performed
    | none => true

/-- A new command of the strand at issue. -/
def newCmd (s : State) (eng ch op hn : Nat) (d : List Word) (cpl : Bool) : Cmd :=
  let sid := s.cur.sid
  { eng := eng, ch := ch, op := op, sid := sid, gen := (slotAt s sid).gen, ipc := s.cur.ipc, handle := hn, desc := d
    tile := tidOfC (cidOf sid), cpl := cpl, entries := releaseSet s sid, gang := (coreAt s (cidOf sid)).gang }

/-- Records a command, which takes the next slot of its port. -/
def addCmd (c : Cmd) (s : State) : Nat × State :=
  let (id, s) := freshId (portShift c.sid c.handle s)
  (id, { s with cmds := tput s.cmds id c })

def signed32 (n : Nat) : Int := (BitVec.ofNat 32 n).toInt

/-- A pointer of a descriptor with FMT RAW; its other bits are checked where it is used (R57, R260). -/
def isRaw (p : Word) : Bool := wfield p 60 4 == 0

/-- A row of a command's writes that R51 refuses in a compute step, by the first byte of it in another tile. -/
def rowRefused (s : State) (sid : Nat) (va n : Nat) : Option Nat :=
  let own := tidOfC (cidOf sid)
  (pageStarts va n).find? fun a => match tileOfVa own a with
    | some t => stepRefuses s sid t
    | none => false

/-- The addresses of the rows of one side of a command. -/
def rowVas (va : Nat) (stride : Int) (rows : Nat) : List Nat := (List.range rows).map fun (i : Nat) => ((va : Int) + (i : Int) * stride).toNat

/-- A command's rows, addressed from tile `own`, reach another tile of the gang in an exchange step: the command is an exchange put (R51). -/
def rowsXchg (s : State) (sid own va : Nat) (stride : Int) (len rows : Nat) : Bool :=
  match gangOfCore s (cidOf sid) with
  | none => false
  | some g => g.sstep && g.exch && (rowVas va stride rows).any fun a => (pageStarts a len).any fun b =>
      match tileOfVa own b with
      | some t => isXchg s sid t
      | none => false

/-- R51 for every row of a command's writes. -/
def stepRowsM (va : Nat) (stride : Int) (len rows : Nat) : M Unit := do
  let s ← askM id
  let sid := s.cur.sid
  let some g := gangOfCore s (cidOf sid) | pure ()
  if g.sstep && !g.exch && (slotAt s sid).part && len != 0 then
    match (rowVas va stride rows).findSome? fun a => rowRefused s sid a len with
    | some a => trapM 7 (word a)
    | none => pure ()
  else pure ()

/-! ### CPY (R260) -/

/-- The lowest address of the rows of a copy's side, and the bytes up to the highest. -/
def rowSpan (p : Word) (len rows : Nat) (stride : Int) : Int × Nat :=
  let v : Int := (wfield p 0 56 : Nat)
  let last : Int := ((rows : Int) - 1) * stride
  if len = 0 ∨ rows = 0 then (v, 0) else (v + min 0 last, len + last.natAbs)

/-- Puts a copy on its channel and starts it where it is the first. -/
def pushCopy (c : Cmd) (s : State) : State :=
  let tid := c.tile
  let (id, s) := addCmd c s
  let idle := ((tileAt s tid).copyq.getD c.ch []).isEmpty
  let s := modTile tid (fun t => { t with copyq := t.copyq.set c.ch ((t.copyq.getD c.ch []) ++ [id]) }) s
  if idle then copyStart tid c.ch s else s

/-- CPY (R259, R260). -/
def execCpy (o : Ops) (s : State) : Res :=
  issue .a s do
    let (hn, h) ← portM o 2 32
    let (dp, d) ← descM o 32
    let sp := d.getD 0 0#64
    let tp := d.getD 1 0#64
    let w2 := d.getD 2 0#64
    let w3 := d.getD 3 0#64
    let len := wfield w2 0 20
    let rows := wfield w2 20 16
    limitM hn dp (wfield w2 53 11 == 0 && isRaw sp && isRaw tp)
    let (sl, sn) := rowSpan sp len rows (signed32 (wfield w3 0 32))
    let (tl, tn) := rowSpan tp len rows (signed32 (wfield w3 32 32))
    spanM sp sl sn true false
    spanM tp tl tn false true
    if tn ≠ 0 then stepRowsM (wfield tp 0 56) (signed32 (wfield w3 32 32)) len rows
    let cpl := wfield w2 52 1 == 1
    cplM hn dp 2 h.ch cpl
    portSlotM o hn h
    lastUseB o
    updM fun s =>
      let x := rowsXchg s s.cur.sid (tidOfC (cidOf s.cur.sid)) (wfield tp 0 56) (signed32 (wfield w3 32 32)) len rows
      let s := if x then xchgIssued s.cur.sid s else s
      pushCopy { newCmd s 2 h.ch 19 hn d cpl with xchg := x } s
    setCost 5

/-- Bytes [lo, hi) of a copy, counted over its rows, moved in ascending order; D is set in the pages they touch (R409). -/
def copyRows (sid own src dst : Nat) (ss ds : Int) (tenant len lo hi : Nat) : Nat → State → State
  | 0, s => s
  | n + 1, s =>
    let s := copyRows sid own src dst ss ds tenant len lo hi n s
    let j := lo - n * len
    let d := ((dst : Int) + n * ds + j).toNat
    let m := min len (hi - n * len) - j
    copyBytes sid own ((src : Int) + n * ss + j).toNat d tenant m (markDSpan own d m s)

/-- What a copy finds before it moves a byte. -/
inductive CopyCan where
  | go
  | denied (tid va : Nat)
  | wait (va : Nat)
  | fail (va reason : Nat)

/-- What a copy finds at its rows, source before destination. -/
def copyRowsFind (s : State) (own ten len : Nat) (rows : List Nat) : Nat × EngPage :=
  (rows.findSome? fun a => match engCheck s own a ten len with
    | (_, .ok _) => none
    | e => some e).getD (0, .ok 0)

/-- Whether a copy may move its bytes: the routers let it, and each page that a row of it touches is there (R260, R422, R428). -/
def copyCan (s : State) (c : Cmd) : CopyCan :=
  let cid := cidOf c.sid
  let own := tidOfC cid
  let ten := (coreAt s cid).tenant
  let part := (coreAt s cid).part
  let w2 := c.desc.getD 2 0#64
  let w3 := c.desc.getD 3 0#64
  let len := wfield w2 0 20
  let src := rowVas (wfield (c.desc.getD 0 0#64) 0 56) (signed32 (wfield w3 0 32)) (wfield w2 20 16)
  let dst := rowVas (wfield (c.desc.getD 1 0#64) 0 56) (signed32 (wfield w3 32 32)) (wfield w2 20 16)
  match (src ++ dst).findSome? fun a => engRouter s own a len ten part with
  | some (t, a) => .denied t a
  | none =>
    match copyRowsFind s own ten len src, copyRowsFind s own ten len dst with
    | (a, .wait), _ => .wait a
    | _, (a, .wait) => .wait a
    | (a, .fail _ r), _ => .fail a r
    | _, (a, .fail _ r) => .fail a r
    | _, _ => .go

/-- Moves bytes [lo, hi) of a copy. -/
def copyMove (c : Cmd) (lo hi : Nat) (s : State) : State :=
  let w2 := c.desc.getD 2 0#64
  let w3 := c.desc.getD 3 0#64
  copyRows c.sid (tidOfC (cidOf c.sid)) (wfield (c.desc.getD 0 0#64) 0 56) (wfield (c.desc.getD 1 0#64) 0 56)
    (signed32 (wfield w3 0 32)) (signed32 (wfield w3 32 32)) (coreAt s (cidOf c.sid)).tenant (wfield w2 0 20) lo hi (wfield w2 20 16) s

/-- The first byte that a stopped copy has still to copy: those moved by now, up to a 32-byte boundary of their row (R401). -/
def copyReached (s : State) (c : Cmd) : Nat :=
  let own := tidOfC (cidOf c.sid)
  let len := wfield (c.desc.getD 2 0#64) 0 20
  let n := c.off + (s.now + 1 - c.nextAt - loadLatency own (wfield (c.desc.getD 0 0#64) 0 56)) * copyRate own c.desc
  min (copyTotal c.desc) (n / len * len + min len ((n % len + 31) / 32 * 32))

/-- A copy channel stops (R401): the bytes up to the boundary are moved, and the offset of the next is kept. One that has moved
all of them, or has ended, only has its end to come. -/
def copyStop (tid ch : Nat) (s : State) : State :=
  match ((tileAt s tid).copyq.getD ch []).head? with
  | none => s
  | some id =>
    match tfind s.cmds id with
    | none => s
    | some c =>
      let stop (off : Nat) (s : State) : State :=
        modCmd id (fun c => { c with off := off, step := c.step + 1, resumed := true, nextAt := 0 }) s
      if c.nextAt = 0 ∨ c.placed = true ∨ c.status ≠ 0 then s
      else if !released s c.entries then stop c.off s
      else
        match copyCan s c with
        | .wait _ => stop c.off s
        | .go =>
          let hi := copyReached s c
          if copyTotal c.desc ≤ hi then s else stop hi (copyMove c c.off hi s)
        | _ => s

/-- The data that an engine reads for a command has an uncorrectable error, which comes from outside: the command ends with status 3 (R464,
log 49). -/
def readErrorCmd (bad : Bool) (id : Nat) (s : State) : State := if bad then modCmd id (fun c => { c with status := 3 }) s else s

/-- COPY_COMPLETE (R260, R264, R422): the copy's bytes are moved, in one event (log 82), and its element placed; a page that is not there parks it,
a page or router that refuses it, which the destination die logs (R398), ends it with a status, as an error in its data does (`flag`, R464). -/
def execCopyComplete (s : State) : Res :=
  let id := s.ev.a
  let s := readErrorCmd s.ev.flag id s
  match tfind s.cmds id with
  | none => .next s
  | some c =>
    if !(((tileAt s c.tile).copyq.getD c.ch []).contains id) ∨ c.step ≠ s.ev.b ∨ c.placed = true then .next s
    else if !released s c.entries then .next (post (s.now + 1) .copyComplete s.ev s)
    else
      let tag := wfield (c.desc.getD 2 0#64) 36 16
      let cid := cidOf c.sid
      let pkg := tidOfC cid / 2048
      let ten := (coreAt s cid).tenant
      let stop (st : Nat) (s : State) : Res := .next (complete id { c with status := st } tag false
        (modCmd id (fun c => { c with status := st }) s))
      if c.status ≠ 0 ∨ copyTotal c.desc = 0 then .next (complete id c tag false s)
      else
        match copyCan s c with
        | .denied t a => stop 1 (logReject (mtuOfTile t) cid a ten s)
        | .wait a => .next (post (s.now + 1) .copyComplete s.ev (engPark id pkg a ten s))
        | .fail a r => stop (failStatus r) (if r = 4 then logReject (mtuOfVa pkg a) cid a ten s else s)
        | .go => .next (complete id c tag false (copyMove c c.off (copyTotal c.desc) s))

/-! ### GET and PUT (R261, R264, R356, R445, R473) -/

/-- The path of R356 from a tile to the Pavilion of its half. -/
def edgePath (tid : Nat) : Nat := if tileX tid < 32 then 3 * (tileX tid + 1) + 8 else 3 * (64 - tileX tid) + 8

/-- The fields of a transport descriptor. -/
def tLen (d : List Word) : Nat := wfield (d.getD 2 0#64) 0 20
def tPkg (d : List Word) : Nat := wfield (d.getD 2 0#64) 20 21
def tAop (d : List Word) : Nat := wfield (d.getD 2 0#64) 41 4
def tTag (d : List Word) : Nat := wfield (d.getD 2 0#64) 47 16
def tRemote (d : List Word) : Nat := wfield (d.getD 1 0#64) 0 56
def tLocal (d : List Word) : Nat := wfield (d.getD 0 0#64) 0 56

/-- The package a descriptor names, in any domain, where it can be reached (R19, R449). -/
def tTarget (s : State) (own : Nat) (d : List Word) : Option Nat :=
  match keyOf s (tPkg d) with
  | some q => if reachable s own q then some q else none
  | none => none

/-- Its number in the state. -/
def tKey (s : State) (d : List Word) : Nat := (keyOf s (tPkg d)).getD (tPkg d)

/-- The engine of a command of a tile still holds an element of an earlier one, behind which the command waits (R263). -/
def engHeld (s : State) (id : Nat) (c : Cmd) : Bool :=
  s.agenda.any fun e => e.2.1 == .completionElementPlace && decide (e.2.2.c < id) && (match tfind s.cmds e.2.2.c with
    | some d => d.eng == c.eng && d.tile == c.tile
    | none => false)

/-- The limits of a transport descriptor (R261). -/
def tOk (s : State) (own : Nat) (put : Bool) (d : List Word) : Bool :=
  let w2 := d.getD 2 0#64
  let aop := tAop d
  let len := tLen d
  isRaw (d.getD 0 0#64) && wfield (d.getD 1 0#64) 56 8 == 0 && wfield w2 63 1 == 0
  && decide (aop ≤ 12) && (aop == 0 || !put) && (put || wfield w2 45 1 == 0)
  && (aop != 0 || (d.getD 3 0#64) == 0#64)
  && (aop == 0 || len == 8 || len == 4) && (!(aop == 10 || aop == 11) || len == 4)
  && (aop == 0 || tPkg d / 65536 == (pkgAt s own).domain)

/-- The legs of a transfer in cycles: to the remote location, and back, with a GET's data (R264). -/
def tLeg (s : State) (own : Nat) (d : List Word) : Nat × Nat :=
  let p := own / 2048
  match tTarget s p d with
  | some q =>
    if q = p then
      let r := routeOf own (tRemote d)
      (perfDelay r own false false, ansDelay r own false false)
    else (crossing s p q, crossing s q p)
  | none => (0, 0)

/-- The cycles from push to the retransmission store of E-die (R473); 0 within the package. -/
def storePath (s : State) (own : Nat) (d : List Word) : Nat :=
  if tTarget s (own / 2048) d = some (own / 2048) then 0 else edgePath own

/-- The issue of GET or PUT. -/
def transportOp (put : Bool) (o : Ops) (s : State) : Res :=
  issue .a s do
    let (hn, h) ← portM o 3 32
    let (dp, d) ← descM o 32
    let s ← askM id
    let sid := s.cur.sid
    let own := tidOfC (cidOf sid)
    let p := own / 2048
    limitM hn dp (tOk s p put d)
    let len := tLen d
    let aop := tAop d
    spanM (d.getD 0 0#64) (tLocal d : Nat) len (put || aop == 12) (!put)
    if put && tPkg d == identityOf s p then stepRowsM (tRemote d) 0 len 1
    let w2 := d.getD 2 0#64
    let cpl := wfield w2 46 1 == 1
    cplM hn dp 3 0 cpl
    portSlotM o hn h
    let here := tPkg d == identityOf s p
    let ownOnly := here && (pageStarts (tRemote d) len).all fun a => tileOfVa own a == some own
    waitOnUnless (·.remote) (!put || len == 0 || ownOnly || decide (remoteUsed s (cidOf sid) < 32))
    lastUseB o
    updM fun s =>
      let cmp := engRead (ownView sid s) own (tLocal d) (coreAt s (cidOf sid)).tenant len
      let c := { newCmd s 3 0 (if put then 21 else 20) hn d cpl with
        result := word (bytesNat (if aop = 12 then cmp.getD [] else [])), step := if cmp.isSome then 1 else 0 }
      let x := put && here && rowsXchg s sid (tidOfC (cidOf sid)) (tRemote d) 0 len 1
      let s := if x then xchgIssued sid s else s
      if len = 0 ∧ aop = 0 then
        let (id, s) := addCmd c s
        post (s.now + 1) (if put then .putLocalComplete else .getComplete) { a := id } s
      else
        let (lead, s) := if put && !ownOnly then
            let (aid, s) := freshId s
            let a : Acc :=
              { kind := .put, sid := sid, gen := c.gen, ipc := c.ipc, order := (slotAt s sid).issued
                dpkg := tKey s d, dev := false, va := tRemote d, size := len, key := none, bank := msgBank
                perfAt := 0, ansLat := 0, remote := true, tvalue := word (tRemote d), gang := c.gang }
            (aid, { s with accs := tput s.accs aid a })
          else (0, s)
        let (id, s) := addCmd { c with acc := lead, xchg := x } s
        match tTarget s p d with
        | none =>
          let s := modCmd id (fun c => { c with status := 4 }) s
          post (s.now + 4 + edgePath own + 1) (if put then .putRemoteComplete else .getComplete) { a := id } s
        | some _ =>
          let e := storePath s own d
          if put then
            post (s.now + 4 + loadLatency own (tLocal d) + e + (len + 79) / 80 + (if e = 0 then 1 else 0)) .putLocalComplete { a := id } s
          else
            post (s.now + 4) (if aop = 0 then .getRequestServe else .remoteAtomicServe) { a := id, b := 1 } s
    setCost 5

/-- GET (R261). -/
def execGet (o : Ops) (s : State) : Res := transportOp false o s
/-- PUT (R261). -/
def execPut (o : Ops) (s : State) : Res := transportOp true o s

/-- The tile a remote window address names at its package (R261): 0x7FF is the issuing tile only at home. -/
def remoteTile (own q va : Nat) : Option Nat :=
  if q = own / 2048 then windowTile own va
  else if nfield va 20 12 = 0x7FF then none
  else windowTile (q * 2048) va

/-- The first address of a remote window span that names no tile, or whose tile's router refuses the transfer (R261, R428). -/
def remoteRefused (s : State) (own q va n tenant part : Nat) : Option Nat :=
  (pageStarts va n).find? fun a => inWindow a && (match remoteTile own q a with
    | some t => !((q == own / 2048 && t == own) || routerOk s t tenant part (q != own / 2048))
    | none => true)

/-- The tile by which a transfer's remote addresses are decoded. -/
def remoteBase (own q : Nat) : Nat := if q = own / 2048 then own else q * 2048

/-- What a transfer finds at its remote side: the key of its first byte, a page to wait for, or a status. -/
def remoteCheck (s : State) (own q va n tenant part : Nat) : Nat × EngPage :=
  match remoteRefused s own q va n tenant part with
  | some a => (a, .fail 0 4)
  | none =>
    match engCheck s (remoteBase own q) va tenant n with
    | (_, .ok _) => (va, engKey s (remoteBase own q) va tenant)
    | e => e

/-- The MTU that logs a transfer's refusal at an address: that of the tile's die, or of the page; a code that names no tile, at die 0
(R398, log 111). -/
def remoteMtu (own q a : Nat) : Nat :=
  if inWindow a then
    match remoteTile own q a with
    | some t => mtuOfTile t
    | none => q * 8
  else mtuOfVa q a

/-- The bytes at a remote side. -/
def remoteRead (s : State) (own q va n tenant : Nat) : List Byte := (engRead s (remoteBase own q) va tenant n).getD []

def remoteWrite (sid own q va tenant : Nat) (bs : List Byte) (s : State) : State :=
  engWrite (remoteBase own q) va tenant bs (markDSpan (remoteBase own q) va bs.length s) (strandWriter sid s.now)

/-- A GET request or remote atomic leaves its engine, once no element of an earlier command is held there (R263, R473); the
compare value of a CAS whose page was not there at issue is read first, after the strand's earlier accesses (R261, R147). -/
def sendRequest (ev : Instr) (id : Nat) (c : Cmd) (s : State) : State :=
  let own := tidOfC (cidOf c.sid)
  let e := storePath s own c.desc
  let leg := (tLeg s own c.desc).1
  let ten := (coreAt s (cidOf c.sid)).tenant
  if engHeld s id c then post (s.now + 1) ev { a := id, b := 1 } s
  else if tAop c.desc = 12 ∧ c.step = 0 then
    if !released s c.entries then post (s.now + 1) ev { a := id, b := 1 } s else
    match engCheck s own (tLocal c.desc) ten (tLen c.desc) with
    | (a, .wait) => post (s.now + 1) ev { a := id, b := 1 } (engPark id (own / 2048) a ten s)
    | (_, .fail _ r) => post s.now .getComplete { a := id } (modCmd id (fun c => { c with status := failStatus r }) s)
    | _ => post (s.now + 1) ev { a := id, b := 1 } (modCmd id (fun c => { c with
        step := 1, result := word (bytesNat ((engRead s own (tLocal c.desc) ten (tLen c.desc)).getD [])) }) s)
  else if e = 0 then post (s.now + 1 + leg) ev { a := id } s
  else sendPkt (ferOfTile own) (tKey s c.desc) 64 leg ev { a := id } (s.now + e + 1) s

/-- The answer of a served command is on its way back: a GET's with its data, at 80 bytes a cycle between packages (R264). -/
def answerBack (id : Nat) (c : Cmd) (s : State) : State :=
  let own := tidOfC (cidOf c.sid)
  let q := tKey s c.desc
  let n := if c.op = 21 then 8 else tLen c.desc
  let t := s.now + (tLeg s own c.desc).2 + (if q = own / 2048 ∨ c.op = 21 then 0 else (n + 79) / 80)
  overLink q (own / 2048) (if n ≤ 56 then 1 else 2) n t (if c.op = 21 then .putRemoteComplete else .getComplete) { a := id } s

/-- The common part of serving a command at its remote side; `act` serves it at the key of its first byte. -/
def serveRemote (ev : Instr) (n : Nat) (wait : Bool) (act : Nat → Cmd → Nat → State → State) (s : State) : Res :=
  let id := s.ev.a
  match tfind s.cmds id with
  | none => .next s
  | some c =>
    if s.ev.b = 1 ∧ wait = true then .next (sendRequest ev id c s) else
    let cid := cidOf c.sid
    let own := tidOfC cid
    let ten := (coreAt s cid).tenant
    let back (st : Nat) (s : State) : State := answerBack id c (modCmd id (fun c => { c with status := st }) s)
    match tTarget s (own / 2048) c.desc with
    | none => .next (back 4 s)
    | some q =>
      if wait && !released s c.entries then .next (post (s.now + 1) ev { a := id } s)
      else if c.status ≠ 0 then .next (back c.status s)
      else
        match remoteCheck s own q (tRemote c.desc) n ten (coreAt s cid).part with
        | (a, .wait) => .next (post (s.now + 1) ev { a := id } (engPark id q a ten s))
        | (a, .fail _ r) =>
          .next (back (failStatus r) (if r = 4 then logReject (remoteMtu own q a) cid a ten s else s))
        | (_, .ok key) => .next (act id c key s)

/-- GET_REQUEST_SERVE (R261): the remote bytes are read; with `flag` they have an uncorrectable error (R464). -/
def execGetRequestServe (s : State) : Res :=
  let s := readErrorCmd s.ev.flag s.ev.a s
  let n := match tfind s.cmds s.ev.a with
    | some c => tLen c.desc
    | none => 0
  serveRemote .getRequestServe n true (fun id c _ s =>
    let own := tidOfC (cidOf c.sid)
    let q := tKey s c.desc
    let bs := remoteRead s own q (tRemote c.desc) n (coreAt s (cidOf c.sid)).tenant
    modCmd id (fun c => { c with data := bs }) (answerBack id c s)) s

/-- A remote atomic at its location's home atomic engine, as ATOM is there (R254, R261): the old value goes back to its command. -/
def engineAtom (id : Nat) (c : Cmd) (n key : Nat) (s : State) : State :=
  let cid := cidOf c.sid
  let opnd := c.desc.getD 3 0#64
  let a : Acc :=
    { kind := if tAop c.desc = 12 then .cas else .atom, sid := c.sid, gen := 1000, ipc := c.ipc, order := 0, dpkg := tKey s c.desc
      dev := !inWindow (tRemote c.desc), va := tRemote c.desc, size := n, key := some key, bank := msgBank
      op := [0, 0, 1, 2, 3, 4, 5, 6, 7, 8, 9, 10].getD (tAop c.desc) 0, data := natBytes n opnd.toNat, cmp := natBytes n c.result.toNat
      ret := .engine id, perfAt := s.now, decided := true
      ansLat := if tKey s c.desc = pkgOfC cid then (tLeg s (tidOfC cid) c.desc).2 else (n + 79) / 80
      tenant := (coreAt s cid).tenant, part := (coreAt s cid).part }
  let (aid, s) := freshId s
  post s.now .atomicPerform { a := aid } { s with accs := tput s.accs aid a }

/-- REMOTE_ATOMIC_SERVE (R261): the operation takes its turn at the remote location's engine, aligned to LEN; a misaligned one
completes INVALID. -/
def execRemoteAtomicServe (s : State) : Res :=
  let bad := match tfind s.cmds s.ev.a with
    | some c => tRemote c.desc % tLen c.desc != 0
    | none => false
  let s := if bad then modCmd s.ev.a (fun c => { c with status := 5 }) s else s
  let n := match tfind s.cmds s.ev.a with
    | some c => tLen c.desc
    | none => 0
  serveRemote .remoteAtomicServe n true (fun id c key s => engineAtom id c n key s) s

/-- GET_COMPLETE (R261): the data is written at LOCAL and the element placed. -/
def execGetComplete (s : State) : Res :=
  let id := s.ev.a
  match tfind s.cmds id with
  | none => .next s
  | some c =>
    let cid := cidOf c.sid
    let own := tidOfC cid
    let ten := (coreAt s cid).tenant
    let tag := tTag c.desc
    if c.placed then .next s
    else if c.status ≠ 0 ∨ c.data = [] then .next (complete id c tag false s)
    else
      match engCheck s own (tLocal c.desc) ten c.data.length with
      | (a, .wait) => .next (post (s.now + 1) .getComplete { a := id } (engPark id (own / 2048) a ten s))
      | (_, .fail _ r) => .next (complete id { c with status := failStatus r } tag false s)
      | _ =>
        .next (complete id c tag false
          (engWrite own (tLocal c.desc) ten c.data (markDSpan own (tLocal c.desc) c.data.length s) (strandWriter c.sid s.now)))

/-- PUT_LOCAL_COMPLETE (R444, R473): the last byte of LOCAL enters the retransmission store, once it has room, and the data leaves; the local
element is placed in the cycle after (`b` 1), within the package in this one. A PUT of no bytes ends here (R261). One that waits for room
when its gang leaves goes on after it is back (R455). With `flag` its data has an uncorrectable error (R464). -/
def execPutLocalComplete (s : State) : Res :=
  let id := s.ev.a
  match tfind s.cmds id with
  | none => .next s
  | some c =>
    let cid := cidOf c.sid
    let own := tidOfC cid
    let ten := (coreAt s cid).tenant
    let tag := tTag c.desc
    let lcpl := wfield (c.desc.getD 2 0#64) 45 1 == 1
    let localElem (s : State) : State :=
      if lcpl then emit id c (elemWord tag c.status c.nvst c.resumed false true) false false s else s
    let n := tLen c.desc
    let failed (st : Nat) : Res := .next (post s.now .putRemoteComplete { a := id }
      (modCmd id (fun c => { c with status := st, acc := 0 }) { s with accs := tdel s.accs c.acc }))
    if s.ev.b = 1 then .next (localElem (modCmd id (fun c => { c with slotFree := true }) s))
    else if n = 0 then .next (post s.now .putRemoteComplete { a := id } (localElem s))
    else if !released s c.entries || engHeld s id c || (c.step == 1 && cmdAway s c) then
      .next (post (s.now + 1) .putLocalComplete { a := id } s)
    else
      match engCheck s own (tLocal c.desc) ten n with
      | (a, .wait) => .next (post (s.now + 1) .putLocalComplete { a := id } (engPark id (own / 2048) a ten s))
      | (_, .fail _ r) => failed (failStatus r)
      | _ =>
        if s.ev.flag then failed 3 else
        let far := storePath s own c.desc != 0
        if far && !storeRoom s (ferOfTile own) n then
          .next (post (s.now + 1) .putLocalComplete { a := id } (modCmd id (fun c => { c with step := 1 }) s))
        else
          let bs := (engRead s own (tLocal c.desc) ten n).getD []
          let s := modCmd id (fun c => { c with data := bs, step := 2 }) s
          let go := (tLeg s own c.desc).1
          .next (if far then post (s.now + 1) .putLocalComplete { a := id, b := 1 }
              (sendPkt (ferOfTile own) (tKey s c.desc) n go .putDataArrival { a := id } s.now s)
            else post (s.now + go) .putDataArrival { a := id } (localElem (modCmd id (fun c => { c with slotFree := true }) s)))

/-- PUT_DATA_ARRIVAL (R261, R398): the data is checked, translated and written at the remote package. -/
def execPutDataArrival (s : State) : Res :=
  let n := match tfind s.cmds s.ev.a with
    | some c => c.data.length
    | none => 0
  serveRemote .putDataArrival n false (fun id c _ s =>
    remoteWrite c.sid (tidOfC (cidOf c.sid)) (tKey s c.desc) (tRemote c.desc) (coreAt s (cidOf c.sid)).tenant c.data (answerBack id c s)) s

/-- PUT_REMOTE_COMPLETE (R261, R397): the acknowledgement frees the remote-store entry, or a refusal at the destination marks it rejected; the
element is placed. -/
def execPutRemoteComplete (s : State) : Res :=
  let id := s.ev.a
  match tfind s.cmds id with
  | none => .next s
  | some c =>
    if c.placed then .next s else
    let s := if c.status = 1 then modAcc c.acc (fun a => { a with rejected := true, performed := true }) s
      else { s with accs := tdel s.accs c.acc }
    .next (complete id c (tTag c.desc) true s)

/-! ### SREAD and SWRITE (R262, R416) -/

/-- The bytes of a storage transfer: logical blocks of the namespace (R416). -/
def sBytes (d : List Word) : Nat :=
  let w2 := d.getD 2 0#64
  (wfield w2 0 16 + 1) * (if Config.bigBlocks (wfield w2 16 4) (wfield w2 20 32) then 4096 else 512)

/-- A port's queue pair of SREAD or SWRITE holds 256 earlier commands (R416, log 112). -/
def pairFull (s : State) (id op pkg port : Nat) : Bool :=
  decide (256 ≤ (s.cmds.filter fun p => decide (p.1 < id) && p.2.op == op && !p.2.placed && pkgOfC (cidOf p.2.sid) == pkg
    && wfield (p.2.desc.getD 2 0#64) 16 4 == port).length)

/-- A storage command goes to its port's SSD, which answers after a free number of cycles, or at the time-out is given up with an Abort; it
waits for room in its queue pair, where `flag` of its event marks it. -/
def storageSubmit (id op pkg port : Nat) (s : State) : State :=
  if pairFull s id op pkg port then post (s.now + 1) .storageIoComplete { a := id, flag := true } s
  else
    let k := pkg * 4 + port / 4
    let (w, s) := freeValue s
    let tmo := (sqeAt s k).tmo
    if w.toNat < tmo then post (s.now + 80 + w.toNat) .storageIoComplete { a := id } s
    else post (s.now + 80 + tmo) .storageIoComplete { a := id, c := 1 }
      (modSqe k (fun q => { q with aborts := q.aborts ++ [(port, s.now)] }) s)

/-- The issue of SREAD or SWRITE, refused with DENIED where the partition has no right to the namespace (log 79); the SSD answers after a free number of cycles, or the time-out ends the command. -/
def storageOp (write : Bool) (o : Ops) (s : State) : Res :=
  issue .a s do
    let (hn, h) ← portM o 4 32
    let (dp, d) ← descM o 32
    let w2 := d.getD 2 0#64
    let w3 := d.getD 3 0#64
    let bp := d.getD 0 0#64
    limitM hn dp (isRaw bp && wfield bp 0 9 == 0 && !inWindow (wfield bp 0 56) && wfield w2 53 11 == 0 && wfield w3 16 48 == 0)
    spanM bp (wfield bp 0 56 : Nat) (sBytes d) write (!write)
    let cpl := wfield w2 52 1 == 1
    cplM hn dp 4 0 cpl
    portSlotM o hn h
    lastUseB o
    updM fun s =>
      let pkg := pkgOfC (cidOf s.cur.sid)
      let port := wfield w2 16 4
      let (id, s) := addCmd (newCmd s 4 0 (if write then 23 else 22) hn d cpl) s
      if sBytes d > 2 ^ 21 then
        post (s.now + 1) .storageIoComplete { a := id } (modCmd id (fun c => { c with status := 5 }) s)
      else if !Config.storageRight (pkeyOf s (cidOf s.cur.sid)) port (wfield w2 20 32) then
        post (s.now + 1) .storageIoComplete { a := id } (modCmd id (fun c => { c with status := 1 }) s)
      else if portReady s pkg port (wfield w2 20 32) = false then
        post (s.now + 1) .storageIoComplete { a := id } (modCmd id (fun c => { c with status := 2 }) s)
      else storageSubmit id (if write then 23 else 22) pkg port s
    setCost 5

/-- SREAD (R262). -/
def execSread (o : Ops) (s : State) : Res := storageOp false o s
/-- SWRITE (R262). -/
def execSwrite (o : Ops) (s : State) : Res := storageOp true o s

/-- STORAGE_IO_COMPLETE (R262, R263, R424): the blocks are moved and the element placed; an NVMe error (`b`) is reported in it and counted, as
a time-out is (`c` 1), and so is an uncorrectable error in the data that an SWRITE reads (`c` 2, R464). -/
def execStorageIoComplete (s : State) : Res :=
  let id := s.ev.a
  match tfind s.cmds id with
  | none => .next s
  | some c =>
    let own := tidOfC (cidOf c.sid)
    let ten := (coreAt s (cidOf c.sid)).tenant
    let d := c.desc
    let w2 := d.getD 2 0#64
    let n := sBytes d
    let va := wfield (d.getD 0 0#64) 0 56
    let tag := wfield (d.getD 3 0#64) 0 16
    let key := ssdKey (own / 2048) (wfield w2 16 4) (wfield w2 20 32)
      ((d.getD 1 0#64).toNat * (if Config.bigBlocks (wfield w2 16 4) (wfield w2 20 32) then 4096 else 512))
    let port := wfield w2 16 4
    let count (s : State) : State := modSqe (own / 2048 * 4 + port / 4) (fun q => { q with errors := q.errors + 1 }) s
    if s.ev.flag then .next (storageSubmit id c.op (own / 2048) port s)
    else if !released s c.entries || engHeld s id c then .next (post (s.now + 1) .storageIoComplete s.ev s)
    else if c.status ≠ 0 then .next (complete id c tag false s)
    else if s.ev.c = 1 then .next (complete id { c with status := 2 } tag false (count s))
    else if s.ev.b ≠ 0 then .next (complete id { c with status := 2, nvst := s.ev.b } tag false (count s))
    else
      match engCheck s own va ten n with
      | (a, .wait) => .next (post (s.now + 1) .storageIoComplete s.ev (engPark id (own / 2048) a ten s))
      | (_, .fail _ r) => .next (complete id { c with status := failStatus r } tag false s)
      | _ =>
        if c.op = 22 then
          .next (complete id c tag false (engWrite own va ten (mread s.ssd key n) (markDSpan own va n s) (strandWriter c.sid s.now)))
        else
          if s.ev.c = 2 then .next (complete id { c with status := 3 } tag false s) else
          let bs := (engRead s own va ten n).getD []
          .next (complete id c tag false { s with ssd := mwrite s.ssd key bs })

end Sys2Proof.Machine
end

