-- ==== Sys2Proof/Machine/Queue.lean ====
section
/-!
DEFINITION. Queue binding, space and advance (R246 to R248); messages, their arrival and answers (R43, R101 to R103, R249 to
R251, R399, R402, R472); presence (R42, R252, R253); watches (R255); TIME and SELF; registers parked and fetched (R37 to R39).
-/

namespace Sys2Proof.Machine

/-! ### QBIND, QFILL, QADV -/

/-- The own scratchpad descriptor of a QBIND takes effect 4 cycles after issue, any other at the load latency (R246); a pending
acquire that names the handle's receive queue traps it at issue (R121, R129). The bind is checked on the values that the load returns, and a
refused one traps precisely (R389, R176): a strand whose descriptor would be refused as it stands waits for it. -/
def execQbind (o : Ops) (s : State) : Res :=
  issue .b s do
    let hn := o.a.toNat % 16
    let p ← srcB o
    let ea ← rawAddr o p 16 16
    let _ ← rangeM ea 16 true false
    let s ← askM id
    let sid := s.cur.sid
    let old := hGet s sid hn
    if (slotAt s sid).busy.contains (80 + hn) then waitM
    else if old.kind = 5 ∧ awaitsGrant s (cidOf sid) old.qix = true then trapM 0x0A (word hn) 7#64
    gateAt ea false
    lastUseB o
    let s ← askM id
    let (id, t) := sendAcc { accOf s sid ea 16 .load false false with ret := .handle hn } s
    let t := addBusy sid (80 + hn) t
    match engRead (ownView sid s) (tidOfC (cidOf sid)) ea (coreAt s (cidOf sid)).tenant 16 with
    | some bs => if (bindRefusal s sid hn (descHandle bs)).isSome then keepM fun _ => holdFor' id sid .waiting t else updM fun _ => t
    | none => updM fun _ => t

/-- QFILL (R247): the slots a producer could write at once. -/
def execQfill (o : Ops) (s : State) : Res :=
  issue .b s do
    dstReady (dstN o) (dstW o)
    let hn := o.b.toNat - 32
    let s ← askM id
    let sid := s.cur.sid
    let h := hGet s sid hn
    if (slotAt s sid).busy.contains (80 + hn) then waitM
    else if h.kind = 0 ∨ h.kind = 5 ∨ h.kind = 7 then trapM 0x0E (word hn)
    else if hCap h < wB o then trapM 0x0E (word hn) (word (wB o))
    else do
      writeResult (dstRid o) 1 (word (min (hFree s sid h) (2 ^ 32 - 1)))

/-- A push of a command whose descriptor no engine instruction wrote: its first word is the word written to the slot, the
rest are zero (R100, log 13). -/
def pushRaw (sid hn : Nat) (x : Word) (s : State) : State :=
  let h := hGet s sid hn
  let c := newCmd s h.eng h.ch 0 hn [x, 0#64, 0#64, 0#64] false
  match h.eng with
  | 2 => pushCopy { c with op := 19 } s
  | 3 =>
    let (id, s) := addCmd { c with op := 20 } s
    post (s.now + 1) .getComplete { a := id } s
  | 4 =>
    let (id, s) := addCmd { c with op := 22, status := 5 } s
    post (s.now + 1) .storageIoComplete { a := id } s
  | 5 =>
    let (id, s) := addCmd { c with op := 9 } s
    post (s.now + 40) .relocCommand { a := id } s
  | _ =>
    let (id, s) := addCmd { c with op := 6 + 2 * h.eng, desc := [x, 0#64, 0#64, 0#64, 0#64, 0#64, 0#64, 0#64] } s
    post (s.now + 4) .matrixCommandArrival { a := id } s

/-- Pushes the commands of the next `n` slots of a port, in slot order: each with the word written to its slot, zero where none was
(R97, R100). -/
def pushRaws (sid hn : Nat) : Nat → State → State
  | 0, s => s
  | n + 1, s =>
    let x := tget (slotAt s sid).portw (hn * 16) 0#64
    pushRaws sid hn n (pushRaw sid hn x s)

/-- Moves the read count of a handle's queue by `n` (R100). -/
def advRead (sid hn n : Nat) (s : State) : State :=
  let cid := cidOf sid
  let h := hGet s sid hn
  match h.kind with
  | 2 =>
    let isX := (slotAt s sid).xseq
    modPair (pairKey s sid) (fun p => if isX then { p with axR := p.axR + n } else { p with xaR := p.xaR + n }) s
  | 5 =>
    refillCheck (cid * 4 + h.qix) (modRx (cid * 4 + h.qix) (fun q => { q with ents := q.ents.drop n }) s)
  | 7 =>
    let s := modExt (cid * 256 + h.group) (fun e => { e with ents := e.ents.drop n }) s
    if (extAt s (cid * 256 + h.group)).waiting.isEmpty then s
    else post s.now .cnResultUnblock { a := tidOfC cid * 256 + h.group, b := cid } s
  | _ => bumpCount (ringKey sid h) n s

/-- Moves the write count (R100); on a command port it is the push. -/
def advWrite (sid hn n : Nat) (s : State) : State :=
  let h := hGet s sid hn
  match h.kind with
  | 2 =>
    let isX := (slotAt s sid).xseq
    modPair (pairKey s sid) (fun p => if isX then { p with xaW := p.xaW + n } else { p with axW := p.axW + n }) s
  | 3 => pushRaws sid hn n s
  | _ => bumpCount (ringKey sid h + 8) n s

/-- The strand's earlier writes to a ring's slots are all performed, a result still due in a handle of the ring among them (R100). -/
def ringWritten (s : State) (sid : Nat) (h : Handle) : Bool :=
  let k := ringKey sid h
  ((List.range 16).all fun n =>
    let j := hGet s sid n
    !(slotAt s sid).busy.contains (80 + n) || j.kind != 1
      || decide (ringKey sid j + 16 + 8 * 2 ^ j.sz ≤ k + 16) || decide (k + 16 + 8 * 2 ^ h.sz ≤ ringKey sid j + 16)) &&
  ((tget s.vq (cidOf sid) []).all fun e => e.sid != sid || e.page != 5 || e.op > 6 || e.issued.length == 4)
  && (strandAccs s sid).all fun p => !p.2.store || p.2.performed || (match p.2.key with
    | some j => decide (j + max p.2.size p.2.data.length ≤ k + 16) || decide (k + 16 + 8 * 2 ^ h.sz ≤ j)
    | none => true)

/-- QADV (R248, R100): a write advance waits for the strand's earlier writes to a ring's slots, and drains an X strand for a pair link
and a command port (R285). A combine inject handle has no count to advance, and traps (log 81). -/
def execQadv (o : Ops) (s : State) : Res :=
  let n := (bitsI o).1
  issue .b s do
    need9 (!o.exr && o.exq.isNone && decide (0 < n) && decide (n < 2 ^ 32))
    let hn := o.a.toNat % 16
    let s ← askM id
    let sid := s.cur.sid
    let h := hGet s sid hn
    if (slotAt s sid).busy.contains (80 + hn) then waitM
    else if h.kind = 2 ∧ (slotAt s sid).paired = false then trapM 0x0E (word hn)
    else if o.a.toNat / 16 = 0 then
      (if !(h.kind == 1 || h.kind == 2 || h.kind == 4 || h.kind == 5 || h.kind == 7) then trapM 0x0E (word hn)
       else if h.kind = 2 ∧ partnerGone s sid = true ∧ hFilled s sid h < n then trapM 0x0E (word hn)
       else do
        waitUnless (decide (n ≤ hFilled s sid h))
        updM (advRead sid hn n))
    else if !(h.kind == 1 || h.kind == 2 || h.kind == 3) then trapM 0x0E (word hn)
    else if h.kind = 2 ∧ partnerGone s sid = true then trapM 0x0E (word hn)
    else do
      if h.kind = 2 ∨ h.kind = 3 then drainM
      waitUnless (h.kind != 1 || ringWritten s sid h)
      waitUnless (decide (n ≤ hFree s sid h))
      updM (advWrite sid hn n)

/-! ### Messages (R249 to R251) -/

/-- The SELF target word of a strand (R257). -/
def selfWord (s : State) (sid : Nat) : Word :=
  let cid := cidOf sid
  word (cid % 8192 + slotNo sid * 2 ^ 13 + (slotAt s sid).gen % 256 * 2 ^ 17 + pkgOfC cid * 2 ^ 25)

/-- The target's checks, and the package it lies in (R249). -/
def targetM (t : Word) (loc : Bool) : M Nat := do
  let s ← askM id
  let own := pkgOfC (cidOf s.cur.sid)
  let p := if loc then own else wfield t 25 16
  let feat5 := (pkgAt s own).feat0.toNat.testBit 5
  if wfield t 41 23 ≠ 0 ∨ wfield t 13 4 > 10 ∨ (p ≠ own ∧ feat5 = false) then trapM 6 t
  else pure p

def targetCid (m : Msg) : Nat := m.pkg * 8192 + wfield m.target 0 13
def targetSid (m : Msg) : Nat := targetCid m * 16 + wfield m.target 13 4

/-- The cycles of a message to its target core (R250). -/
def msgDelay (s : State) (cid : Nat) (m : Msg) : Nat :=
  let p := pkgOfC cid
  if m.pkg = p then
    let t := tidOfC cid
    let u := tidOfC (targetCid m)
    6 + 3 * hops t u + 8 * crossings t u
  else crossing s p m.pkg

/-- The tag of the gang on a core (R402). -/
def tagOf (s : State) (cid : Nat) : Nat := ((gangOfCore s cid).map (·.tag)).getD 0

/-- A message of the strand at issue, with its request slot and remote-store entry. -/
def sendMsg (isQ : Bool) (t : Word) (pkg idx : Nat) (x : Word) (spill : Bool) (s : State) : Nat × State :=
  let sid := s.cur.sid
  let cid := cidOf sid
  let m : Msg :=
    { isQ := isQ, target := t, pkg := pkg, idx := idx, payload := x, sender := selfWord s sid, srcSid := sid, acc := s.nextId
      tenant := (coreAt s cid).tenant, part := (coreAt s cid).part, tag := tagOf s cid, spill := spill
      foreign := pkg != pkgOfC cid }
  let d := msgDelay s cid m
  let a : Acc :=
    { kind := .msg, sid := sid, gen := (slotAt s sid).gen, ipc := s.cur.ipc, order := (slotAt s sid).issued, dpkg := pkg
      dev := false, va := t.toNat, size := 8, key := none, bank := msgBank, ret := .ring 0 0 m, perfAt := s.now + d, ansLat := d
      slot := true, remote := true, tvalue := t, gang := (coreAt s cid).gang, tenant := m.tenant, part := m.part }
  let (id, s) := freshId s
  let s := { s with accs := tput s.accs id a }
  if reachable s (pkgOfC cid) pkg then
    let ev : Instr := if isQ then .qsendArrival else .xputArrival
    let e := edgePath (tidOfC cid) + 1
    (id, if m.foreign then sendPkt (ferOfTile (tidOfC cid)) pkg 64 (d - e) ev { p := .msg m } (s.now + e) s
      else post (s.now + d) ev { p := .msg m } s)
  else (id, post (s.now + 1) .remoteRejection { a := id } s)

/-- XPUT (R249, R250): its destination register, its target, the compute-step rule (R51). -/
def execXput (o : Ops) (s : State) : Res :=
  let n := (bitsR o).1
  issue .b s do
    oneXi o
    need9 (decide (nfield n 6 3 = 0) && decide (n % 32 ≠ 0))
    let t ← srcA o
    let x ← srcB o
    let p ← targetM t (nbit n 5)
    let s ← askM id
    let sid := s.cur.sid
    let tile := p * 2048 + wfield t 2 11
    if stepRefuses s sid tile then trapM 7 t
    drainM
    accGate msgBank true true
    lastUse o
    updM fun s =>
      let x' := isXchg s sid tile
      let s := if x' then xchgIssued sid s else s
      let (id, s) := sendMsg false t p (n % 32) x false s
      modAcc id (fun a => { a with xchg := x' }) s

/-- QSEND (R251, R102): held until the answer within a package; to another package, until its last byte is in the retransmission store (R444, R473). -/
def execQsend (o : Ops) (s : State) : Res :=
  let n := (bitsR o).1
  issue .b s do
    oneXi o
    need9 (decide (nfield n 4 5 = 0))
    if o.exr && o.c.toNat ≠ 0 then illegal 7
    let t ← srcA o
    let x ← srcB o
    let p ← targetM t (nbit n 3)
    drainM
    accGate msgBank true true
    let s ← askM id
    let sid := s.cur.sid
    let cid := cidOf sid
    lastUse o
    if p = pkgOfC cid then
      let s ← askM id
      stopM (.keep (let (id, s) := sendMsg true t p (n % 4) x ((coreAt s cid).sendtmo == 0) s; holdFor' id sid .waiting s))
    else do
      let s ← askM id
      stopM (.keep (let (id, s) := sendMsg true t p (n % 4) x true s; holdFor' id sid .waiting s))

/-- QSEND.WHO (R251): the sender or status word of the slot that a read with that wait count would read. -/
def execQsendWho (o : Ops) (s : State) : Res :=
  let n := (bitsR o).1
  issue .b s do
    oneXi o
    need9 (decide (n = 4))
    dstReady (dstN o) (dstW o)
    let hn := o.b.toNat - 32
    let s ← askM id
    let sid := s.cur.sid
    let h := hGet s sid hn
    let w := wB o
    if (slotAt s sid).busy.contains (80 + hn) then waitM
    else if h.kind ≠ 5 ∧ h.kind ≠ 7 then trapM 0x0E (word hn)
    else if hCap h < w then trapM 0x0E (word hn) (word w)
    else if hFilled s sid h < w then waitM
    else
      match hSenderSlot s sid h w with
      | none => waitM
      | some x => do
        writeResult (dstRid o) 1 x

/-! ### Arrivals (R43, R101 to R103, R399, R402) -/

/-- A message goes to its target core's orphan queue (R399, R385). -/
def orphan (m : Msg) (s : State) : State :=
  let cid := targetCid m
  let hd := word (m.target.toNat % 2 ^ 41 + m.idx * 2 ^ 41 + (if m.isQ then 2 ^ 46 else 0) + 2 ^ 63)
  let s := modCore cid (fun c =>
    let c := { c with ocount := (c.ocount + 1) % 2 ^ 32 }
    if c.orphans.length < 16 then { c with orphans := c.orphans ++ [(hd, m.payload)] } else { c with lost := true }) s
  signal cid 2 s

/-- The destination acknowledges a message to its sender. -/
def ackMsg (m : Msg) (s : State) : State :=
  match tfind s.accs m.acc with
  | some a => overLink a.dpkg (pkgOfC (cidOf a.sid)) 1 8 (s.now + a.ansLat) .storeAck { a := m.acc }
      (modAcc m.acc (fun a => { a with performed := true }) s)
  | none => s

/-- The router of the target tile refuses a message (R428); within its own tile none is asked. -/
def msgRefused (s : State) (m : Msg) : Bool :=
  let t := tidOfC (targetCid m)
  t != tidOfC (cidOf m.srcSid) && !routerOk s t m.tenant m.part m.foreign

/-- A refused message is logged at its destination and reported to its sender (R249, R397, R398). -/
def refuseMsg (m : Msg) (s : State) : State :=
  match tfind s.accs m.acc with
  | some a => rejectAcc m.acc (mtuOfTile (tidOfC (targetCid m))) a s
  | none => s

/-- The message's slot lives in that generation and its gang is on the core (R43, R101, R402). -/
def msgFits (s : State) (m : Msg) : Bool :=
  let x := slotAt s (targetSid m)
  x.st != .free && x.gen % 256 == wfield m.target 17 8 && tagOf s (targetCid m) == m.tag

/-- XPUT_ARRIVAL (R43, R213, R250): the register is written, its presence and liveness set, in the frame too where the
strand is swapped out or trapped. A result written in this cycle stands (R213). -/
def execXputArrival (s : State) : Res :=
  match s.ev.p with
  | .msg m =>
    if msgRefused s m then .next (refuseMsg m s)
    else if !msgFits s m then .next (ackMsg m (orphan m s))
    else
      let sid := targetSid m
      let x := slotAt s sid
      let r := m.idx
      let stands := x.wr1 == some (r, s.now)
      let v := if stands then gGet s sid r else m.payload
      let s := gSet sid r v s
      let s := modSlot sid (fun x => { x with
        arrivals := (x.arrivals.filter fun p => p.2 == s.now) ++ [(r, s.now)]
        readyAt := match x.waitReg with
          | some (r', _) => if r' = r then max x.readyAt (s.now + 1) else x.readyAt
          | none => x.readyAt }) s
      let s := if x.st = .trapped then regToFrame sid r s else syncFrame sid r s
      .next (ackMsg m s)
  | _ => .next s

/-- An entry reaches a hardware slot of a receive queue. -/
def rxFill (rk : Nat) (sender payload : Word) (s : State) : State :=
  addNews (rxNews rk) 1 (modRx rk (fun q => { q with ents := q.ents ++ [(sender, payload)], takes := q.takes + 1 }) s)

/-- A message that arrives goes to a hardware slot of its queue. -/
def rxTake (rk : Nat) (sender payload : Word) (s : State) : State := rxSignal rk (rxFill rk sender payload s)

/-- Answers a QSEND: 0 ACCEPT, 1 HOLD, 2 FULL (R102). -/
def answerQ (m : Msg) (ans : Nat) (s : State) : State :=
  match tfind s.accs m.acc with
  | some a => overLink a.dpkg (pkgOfC (cidOf a.sid)) 1 8 (s.now + a.ansLat) .qsendAnswer { a := m.acc, b := ans } s
  | none => s

/-- A message at its queue, by the table of R102. -/
def judge (m : Msg) (s : State) : State :=
  let cid := targetCid m
  let rk := cid * 4 + m.idx
  let q := rxAt s rk
  if !msgFits s m || q.owner != some (wfield m.target 13 4) then answerQ m 0 (orphan m s)
  else
    if direct s rk m.sender then answerQ m 0 (rxTake rk m.sender m.payload s)
    else if ringZero s rk m.sender && !m.spill then answerQ m 1 s
    else if ovRoom q = 0 then answerQ m 2 s
    else rxAppend rk m s

/-- QSEND_ARRIVAL (R101, R102). -/
def execQsendArrival (s : State) : Res :=
  match s.ev.p with
  | .msg m => .next (if msgRefused s m then refuseMsg m s else judge m s)
  | _ => .next s

/-- RING_APPEND_DONE (R102, R472): the ring's write count rises, where the queue still has that ring, past the entries performed in
unbroken order, and ACCEPT leaves. A grant needs
no answer (R121). -/
def execRingAppendDone (s : State) : Res :=
  let rk := s.ev.a
  let s' := modRx rk (fun q => if q.epoch = s.ev.b then ringSet s.ev.c q else q) s
  match s.ev.p with
  | .msg m => .next (refillCheck rk (answerQ m 0 s'))
  | _ => .next (refillCheck rk s')

/-- The first entries of a ring as its queue reads them; none where a page is not there. -/
def ringEnts (s : State) (pkg ten : Nat) (q : RxQ) : Nat → Nat → List (Word × Word)
  | 0, _ => []
  | n + 1, c =>
    match engRead s (pkg * 2048) (q.ring + 16 * (c % 2 ^ (q.osz + 6))) ten 16 with
    | some bs =>
      let w := bytesWords 2 bs
      (w.getD 0 0#64, w.getD 1 0#64) :: ringEnts s pkg ten q n (c + 1)
    | none => []

/-- An entry of the ring at a position moves to a hardware slot; one whose store failed is passed over, and a grant that a read has taken
stays so (R103, R119). -/
def refillTake (rk pos : Nat) (e : Word × Word) (s : State) : State :=
  let q := rxAt s rk
  if q.gaps.contains pos then s
  else
    let s := rxFill rk e.1 e.2 s
    if q.spent.contains pos then modRx rk (fun q => { q with read := q.read ++ [q.takes] }) s else s

/-- RECEIVE_QUEUE_REFILL (R103): entries move from the head of the ring, in ring order, until it is empty or the slots are
full; a page of the ring that is not there is asked for (R422). -/
def execReceiveQueueRefill (s : State) : Res :=
  let rk := s.ev.a
  let q := rxAt s rk
  let cid := rk / 4
  if q.owner.isNone then .next s
  else
    let n := min (64 - q.ents.length) (q.rwr - q.rrd)
    let ten := (coreAt s cid).tenant
    let es := ringEnts s (pkgOfC cid) ten q n q.rrd
    let s' := es.zipIdx.foldl (fun s e => refillTake rk (q.rrd + e.2) e.1 s) s
    let later (i : Nat) : Bool := decide (q.rrd + es.length ≤ i)
    let s' := modRx rk (fun q => { q with rrd := q.rrd + es.length, gaps := q.gaps.filter later, spent := q.spent.filter later }) s'
    if es.length = n then .next s'
    else
      let va := q.ring + 16 * ((q.rrd + es.length) % 2 ^ (q.osz + 6))
      .next (post (s.now + 1) .receiveQueueRefill { a := rk } (engPark (2 ^ 40 + rk) (pkgOfC cid) va ten s'))

/-- QSEND_ANSWER (R102): ACCEPT lets the held strand go on, HOLD has it resend, unless it has been abandoned (R400), FULL traps it; from another package FULL is
a rejection (R397). -/
def execQsendAnswer (s : State) : Res :=
  let id := s.ev.a
  match tfind s.accs id with
  | none => .next s
  | some a =>
    if accAway s id then .next (post (s.now + 1) .qsendAnswer s.ev s) else
    let held := heldOn s a.sid a.gen id
    let foreign := a.dpkg != pkgOfC (cidOf a.sid)
    match s.ev.b with
    | 1 => .next (if held then post (s.now + (coreAt s (cidOf a.sid)).sendtmo) .qsendResend { a := id } s
        else { s with accs := tdel s.accs id })
    | 0 =>
      let s' := { s with accs := tdel s.accs id }
      .next (goesOn a.sid a.gen id 1 s')
    | _ =>
      if foreign then
        .next (post s.now .remoteRejection { a := id } (logReject (mtuOfTile (tidOfC (a.dpkg * 8192 + a.va % 8192))) (cidOf a.sid) a.va a.tenant s))
      else
        let s' := { s with accs := tdel s.accs id }
        .next (if held then recordTrap a.sid 0x0F (word a.va) 0#64 (slotAt s a.sid).pc s' else s')

/-- QSEND_RESEND (R102): the message goes again, marked SPILL. -/
def execQsendResend (s : State) : Res :=
  let id := s.ev.a
  match tfind s.accs id with
  | none => .next s
  | some a =>
    match a.ret with
    | .ring _ _ m => .next (post (s.now + a.ansLat) .qsendArrival { p := .msg { m with spill := true } } s)
    | _ => .next s

/-- A collector's count of drops for a partition rises (R393, R395). -/
def modTrc (trow part : Nat) (s : State) : State :=
  let k := trow * 64 + part
  { s with trcp := tput s.trcp k { tget s.trcp k {} with lost := ((tget s.trcp k {}).lost + 1) % 2 ^ 32 } }

/-- A notice of a unit of package `p` to a receive queue of package `q`, which the target word names (R249): the mesh timing within the
package, and over the links past it, `edge` cycles from the unit to the E-die; `lost` where it cannot be sent. -/
def sendNotice (p q within edge : Nat) (ev : Instr) (arg : EvArg) (lost : State → State) (s : State) : State :=
  if p = q then post (s.now + within) ev arg s
  else if reachable s p q && (pkgAt s p).feat0.toNat.testBit 5 then overLink p q 0 16 (s.now + edge + crossing s p q) ev arg s
  else lost s

/-- The receive queue takes a notice: its router accepts the sender's tenant (R428), and its slot and generation match (R249). -/
def noticeTaken (s : State) (rk slot gen pk : Nat) : Bool :=
  let q := rxAt s rk
  let x := slotAt s (rk / 4 * 16 + slot)
  q.owner == some slot && x.st != .free && x.gen % 256 == gen
  && routerOk s (tidOfC (rk / 4)) (partAt s pk).tenant (pk % 64) (pk / 64 != pkgOfC (rk / 4))

/-- TRC_NOTICE_ARRIVAL (R395): a collector's notice arrives at its receive queue as a message marked SPILL; no one is told
of a notice that is not taken. -/
def execTrcNoticeArrival (s : State) : Res :=
  let rk := s.ev.a
  let q := rxAt s rk
  let fill := modTrc s.ev.d s.ev.e
  if noticeTaken s rk s.ev.c s.ev.b (s.ev.d / 32 * 64 + s.ev.e) = false then .next (fill s)
  else if direct s rk s.ev.w then .next (rxTake rk s.ev.w s.ev.w2 s)
  else if ovRoom q = 0 then .next (fill s)
  else .next (rxAppend rk (noMsg s.ev.w s.ev.w2) s)

/-! ### Presence, parked registers (R37 to R42, R252, R253) -/

/-- The register that a field names is in the physical file (R39). -/
def heldM (n : Nat) : M Unit := do
  let s ← askM id
  let r := regOf n
  if r != 0 && tget s.place (fileKey s.cur.sid r) .phys != .phys then stopM (.fetchReg r) else pure ()

/-- CLRP (R252): an arrival of this cycle is applied after it. -/
def execClrp (o : Ops) (s : State) : Res :=
  issue .b s do
    let n := o.a.toNat
    if 32 ≤ n ∧ n < 48 then trapM 0x0E (word (n - 32))
    else do
      if o.exr && o.c.toNat ≠ 0 then illegal 7
      heldM n
      let r := regOf n
      updM fun s =>
        let sid := s.cur.sid
        let x := slotAt s sid
        if r = 0 ∨ x.arrivals.contains (r, s.now) = true then s
        else putSlot sid { x with pres := x.pres &&& ~~~ word (2 ^ r) } s

/-- TESTP (R253). -/
def execTestp (o : Ops) (s : State) : Res :=
  issue .b s do
    let n := o.b.toNat
    dstReady (dstN o) (dstW o)
    if 32 ≤ n ∧ n < 48 then trapM 0x0E (word (n - 32))
    else do
      heldM n
      let s ← askM id
      let x := slotAt s s.cur.sid
      writeResult (dstRid o) 1 (ofBool (regOf n == 0 || x.pres.toNat.testBit (regOf n)))

/-- PRES_TIMEOUT (R42): the presence wait has reached PRESTMO cycles; a strand that is swapped out or just restored is looked at again
in the next cycle. -/
def execPresTimeout (s : State) : Res :=
  let sid := s.ev.a
  let x := slotAt s sid
  let r := s.ev.c
  if x.gen = s.ev.b ∧ x.waitReg = some (r, s.ev.d) ∧ x.pres.toNat.testBit r = false then
    if x.st = .waiting ∨ x.st = .parked then .next (recordTrap sid 0x10 (word r) 0#64 x.pc s)
    else if x.st = .swapped ∨ x.st = .ready then .next (post (s.now + 1) .presTimeout s.ev s)
    else .next s
  else .next s

/-- An evicted register takes its parking place; one parked in the frame is written there (R38). -/
def evictReg (sid r : Nat) (fromBank : Bool) (s : State) : State :=
  let key := fileKey sid r
  let p := parkPlace s key fromBank
  let s := settleFile (cidOf sid) { s with place := tput s.place key p, file := tdel s.file key }
  if p = .frame then regToFrame sid r s else s

/-- REGISTER_EVICT (R37, R38): the part parks a register that its physical file holds, or moves one parked in a bank on; one with a
result to come stays. -/
def execRegisterEvict (s : State) : Res :=
  let sid := s.ev.a
  let r := s.ev.b
  if (slotAt s sid).busy.contains r then .next s
  else
    match tget s.place (fileKey sid r) .phys with
    | .phys => .next (if (tfind s.file (fileKey sid r)).isSome then evictReg sid r false s else s)
    | .bank _ => .next (evictReg sid r true s)
    | _ => .next s

/-- REGISTER_FETCH (R39): the register is back in the physical file. -/
def execRegisterFetch (s : State) : Res :=
  let key := fileKey s.ev.a s.ev.b
  if tget s.place key .phys = .fetching ∧ (slotAt s s.ev.a).gen = s.ev.c then
    .next (holdReg key { s with place := tput s.place key .phys })
  else .next s

/-! ### Watches (R254, R255) -/

/-- WAITW (R255). -/
def execWaitw (o : Ops) (s : State) : Res :=
  issue .a s do
    let p ← srcB o
    let a ← srcA o
    if o.exr then dstReady (dstN o) (dstW o)
    let ea ← rawAddr o p 8 8
    let _ ← rangeM ea 8 true false
    gateAt ea false
    lastUse o
    let s ← askM id
    let sid := s.cur.sid
    let acc := accOf s sid ea 8 .watch true false
    let half := (loadLatency (tidOfC (cidOf sid)) ea + 1) / 2
    let s := if o.exr && dstRid o % 128 ≠ 0 then addBusy sid (dstRid o % 128) s else s
    let (id, s) := sendAcc { acc with
      cmp := natBytes 8 a.toNat, op := half
      ret := if o.exr then .reg (dstRid o) .zext else .none } s
    stopM (.keep (holdFor' id sid .parked s))

/-- The engine of a watched key: the cluster of a tile, or the stack of a device address. -/
def engineOf (a : Acc) (key : Nat) : Nat :=
  if isSpKey key then spTile key / 2048 * 4096 + clusterOf (spTile key) else a.dpkg * 4096 + 1024 + nfield a.va 12 4

/-- WATCH_MADE (R255): the watch is made at the engine, or sent again where the engine holds 256; a word that differs wakes
the strand at once. -/
def execWatchMade (s : State) : Res :=
  let id := s.ev.a
  match tfind s.accs id with
  | none => .next s
  | some a =>
    match a.key with
    | none => .next s
    | some key =>
      if a.performed then .next s
      else if bankBlocked s id a then .next (post (s.now + 1) .watchMade { a := id } s)
      else if accRefused s a key then .next (refuseAcc id (spTile key) a s)
      else if notItsTurn s id a then .next (post (s.now + 1) .watchMade { a := id } s)
      else if 256 ≤ (s.accs.filter fun p => p.2.kind == .watch && p.2.performed && !p.2.answered
          && (match p.2.key with
            | some k => engineOf p.2 k == engineOf a key
            | none => false)).length then
        .next (post (s.now + 256) .watchRetry { a := id } s)
      else
        let s := tookTurn a (unpark a s)
        let v := mread s.mem key 8
        let s := post (s.now + a.ansLat) .storeAck { a := id } s
        let differs := v != a.cmp
        let s := { s with accs := tput s.accs id { a with
          performed := true, parked := false, answered := differs, data := v } }
        .next (if differs then post (s.now + a.op) .watchWake { a := id } s else s)

/-- WATCH_WAKE (R255): the strand is READY; the destination takes the word's value. -/
def execWatchWake (s : State) : Res :=
  let id := s.ev.a
  match tfind s.accs id with
  | none => .next s
  | some a =>
    let s' := { s with accs := tdel s.accs id }
    if heldOn s a.sid a.gen id then
      let s' := match a.ret with
        | .reg dst e => lateResult a.sid dst (extend e a.data) s'
        | _ => s'
      .next (resume a.sid 1 s')
    else .next s'

/-- WATCH_RETRY (R255): the watch is sent again. -/
def execWatchRetry (s : State) : Res :=
  match tfind s.accs s.ev.a with
  | some a =>
    let t := s.now + perfDelay (routeOf (tidOfC (cidOf a.sid)) a.va) (tidOfC (cidOf a.sid)) true false
    .next (post t .watchMade { a := s.ev.a } (modAcc s.ev.a (fun a => { a with perfAt := t }) s))
  | none => .next s

/-! ### TIME and SELF (R256, R257) -/

/-- TIME (R256). -/
def execTime (o : Ops) (s : State) : Res :=
  issue .b s do
    need9 o.xi.isEmpty
    dstReady (dstN o) (dstW o)
    let s ← askM id
    writeResult (dstRid o) 1 (word (timeNs s.now))

/-- A rectangle as SELF lays it out. -/
def rectWord (x0 y0 w h : Nat) : Nat := x0 + y0 * 2 ^ 6 + w * 2 ^ 11 + h * 2 ^ 18

/-- The words of SELF; none for codes 6 and 7. -/
def selfOf (s : State) (sid code : Nat) : Option Word :=
  let cid := cidOf sid
  let tid := tidOfC cid
  let ten := (coreAt s cid).tenant % 4096 * 2 ^ 24
  match code with
  | 0 => some (selfWord s sid)
  | 1 => some (word (tileX tid + tileY tid * 2 ^ 6 + cid % 4 * 2 ^ 11 + tid % 2048 * 2 ^ 13 + clusterOf tid * 2 ^ 24
      + slotNo sid * 2 ^ 31 + (if (slotAt s sid).xseq then 2 ^ 35 else 0)))
  | 2 => let p := partAt s (pkeyOf s cid)
         some (word (rectWord p.x0 p.y0 p.w p.h + ten))
  | 3 => match gangOfCore s cid with
         | some g => some (word (rectWord g.x0 g.y0 g.w g.h + ten))
         | none => some (word ten)
  | 4 => some (word (identityOf s (pkgOfC cid)))
  | 5 => some (countOf s cid)
  | _ => none

/-- SELF (R257). -/
def execSelf (o : Ops) (s : State) : Res :=
  let n := (bitsR o).1
  issue .b s do
    oneXi o
    need9 (decide (n < 8))
    let s ← askM id
    match selfOf s s.cur.sid n with
    | none => illegal 9
    | some w => do
      dstReady (dstN o) (dstW o)
      writeResult (dstRid o) 1 w

end Sys2Proof.Machine
end

