-- ==== Sys2Proof/Machine/Sync.lean ====
section
/-!
DEFINITION. Atomics (R254, R269, R270), the sequentially consistent accesses (R143, R144, R271), barrier wires (R272, R273),
supersteps (R50 to R52, R274), and software-defined vector groups (R46 to R48, R308, R309).
-/

namespace Sys2Proof.Machine

/-! ### Atomics -/

/-- The immediate of ATOM and ATOMSC: operation and width in bytes (R269). -/
def atomImm (o : Ops) : M (Nat × Nat) := do
  let n := (bitsR o).1
  oneXi o
  let op := n % 16
  let w := if nbit n 4 then 4 else 8
  need9 (decide (nfield n 5 4 = 0) && decide (op ≤ 10) && (w == 4 || decide (op < 9)))
  pure (op, w)

/-- The location of an atomic: RAW, no offset, aligned, with both rights. -/
def atomAddr (p : Word) (w : Nat) : M Nat := do
  rawM p
  let ea := wfield p 0 56
  alignM ea w
  let _ ← rangeM ea w true true
  pure ea

/-- ATOM (R269). -/
def execAtom (o : Ops) (s : State) : Res :=
  issue .a s do
    let (op, w) ← atomImm o
    let p ← srcB o
    let a ← srcA o
    dstReady (dstN o) (dstW o)
    let ea ← atomAddr p w
    gateAt ea true
    lastUse o
    updM fun s =>
      let sid := s.cur.sid
      let acc := accOf s sid ea w .atom true false
      let (_, s) := sendAcc { acc with op := op, data := natBytes w a.toNat, ret := .reg (dstRid o) .zext } s
      if dstRid o % 128 = 0 then s else addBusy sid (dstRid o % 128) s

/-- CAS (R270). -/
def execCas (o : Ops) (s : State) : Res :=
  let n := (bitsR o).1
  issue .a s do
    oneXi o
    need9 (decide (n < 2))
    let w := if n = 1 then 4 else 8
    let p ← srcB o
    let a ← srcA o
    let c ← srcC o
    dstReady (dstN o) (dstW o)
    let ea ← atomAddr p w
    gateAt ea true
    lastUse o
    updM fun s =>
      let sid := s.cur.sid
      let acc := accOf s sid ea w .cas true false
      let (_, s) := sendAcc { acc with
        data := natBytes w a.toNat, cmp := natBytes w c.toNat, ret := .reg (dstRid o) .zext } s
      if dstRid o % 128 = 0 then s else addBusy sid (dstRid o % 128) s

/-- What an atomic does at its engine: the old bytes are its answer. -/
def atomAct (a : Acc) (key : Nat) (s : State) : Acc × State :=
  let old := mread s.mem key a.size
  ({ a with data := old }, if a.kind = .cas ∧ old ≠ a.cmp then s else memWrite key (atomBytes a old) s (strandWriter a.sid a.issuedAt))

/-- ATOMIC_PERFORM (R254). -/
def execAtomicPerform (s : State) : Res := .next (atBank s.ev.a .atomicPerform atomAct s)

/-! ### Sequentially consistent accesses -/

/-- The completion cycle of an SC access issued now (R143). -/
def scCycle (now : Nat) : Nat := 32 * (now / 32 + 1) + 128

/-- The issue of an SC access: the wait of R144, then the access, held until its completion. -/
def issueSc (ea : Nat) (a : Acc) (busy : Nat) : M Unit := do
  let s ← askM id
  let sid := s.cur.sid
  waitUnless (loadsDone' s sid && storesDone' s sid)
  gateAt ea (a.store || a.kind == .atom)
  let s ← askM id
  let s := if busy % 128 = 0 then s else addBusy sid (busy % 128) s
  let t := scCycle s.now
  let (id, s) := sendAcc { a with perfAt := t, ansLat := 0, sc := some (s.now / 32, s.now) } s
  stopM (.keep (holdFor' id sid .waiting s))
where
  loadsDone' (s : State) (sid : Nat) : Bool :=
    (strandAccs s sid).all fun p => p.2.dpkg != pkgOfC (cidOf sid) || p.2.performed || p.2.kind == .msg || p.2.kind == .put
  storesDone' (s : State) (sid : Nat) : Bool :=
    (strandAccs s sid).all fun p => p.2.dpkg != pkgOfC (cidOf sid) || p.2.rejected
      || !(p.2.store || p.2.kind == .atom || p.2.kind == .cas || p.2.kind == .msg)

/-- ATOMSC (R271). -/
def execAtomsc (o : Ops) (s : State) : Res :=
  issue .a s do
    let (op, w) ← atomImm o
    let p ← srcB o
    let a ← srcA o
    dstReady (dstN o) (dstW o)
    let ea ← atomAddr p w
    lastUse o
    let s ← askM id
    let acc := accOf s s.cur.sid ea w .atom true false
    issueSc ea { acc with op := op, data := natBytes w a.toNat, ret := .reg (dstRid o) .zext } (dstRid o)

/-- LDSC (R271). -/
def execLdsc (o : Ops) (s : State) : Res :=
  issue .a s do
    let p ← srcB o
    dstReady (dstN o) (dstW o)
    let ea ← rawAddr o p 8 8
    let _ ← rangeM ea 8 true false
    lastUseB o
    let s ← askM id
    let acc := accOf s s.cur.sid ea 8 .load false false
    issueSc ea { acc with ret := .reg (dstRid o) .zext } (dstRid o)

/-- STSC (R271). -/
def execStsc (o : Ops) (s : State) : Res :=
  issue .a s do
    let p ← srcB o
    let a ← srcA o
    let ea ← rawAddr o p 8 8
    let _ ← rangeM ea 8 false true
    stepM ea
    lastUse o
    let s ← askM id
    let acc := accOf s s.cur.sid ea 8 .store false false
    issueSc ea { acc with data := natBytes 8 a.toNat } 0

/-- The place of an SC access in S: its window, then its core and slot (R143). -/
def scBefore (a b : Acc) : Bool :=
  let w (a : Acc) : Nat := (a.sc.map (·.1)).getD 0
  decide (w a < w b) || (w a == w b && decide (a.sid ≤ b.sid))

/-- The SC access that comes first in S among those of a package that are due at their banks and not performed (R143). -/
def firstSc (s : State) (pkg : Nat) : Option (Nat × Acc) :=
  (s.accs.filter fun p =>
    p.2.sc.isSome && !p.2.performed && !p.2.parked && p.2.key.isSome && decide (p.2.perfAt ≤ s.now) && p.2.dpkg == pkg).foldl
    (fun m p => match m with
      | none => some p
      | some q => if scBefore q.2 p.2 then some q else some p) none

/-- SC_COMPLETE (R143, R144): the next SC access of S is performed, its result written, and its strand goes on in the next
cycle. An earlier plain access of another strand of its core to its bank does not hold it up, as R137 would: R144 gives the cycle
(DESIGN CHOICE, log 83). -/
def execScComplete (s : State) : Res :=
  let pkg := match tfind s.accs s.ev.a with
    | some a => a.dpkg
    | none => 0
  let pick := match tfind s.accs s.ev.a with
    | some a => if a.parked then some (s.ev.a, a) else firstSc s pkg
    | none => firstSc s pkg
  match pick with
  | none => .next s
  | some (id, a) =>
    match a.key with
    | none => .next s
    | some key =>
      if !a.dev && spTile key != tidOfC (cidOf a.sid) && !routerOk s (spTile key) a.tenant a.part false then
        let s' := refuseAcc id (spTile key) a s
        .next (if a.store then goesOn a.sid a.gen id 1 s' else s')
      else
        let s := if a.dev && (a.store || a.kind == .atom) then markD a.dpkg a.va s else s
        let (a', s) := if a.store then (a, memWrite key a.data s (strandWriter a.sid a.issuedAt))
          else if a.kind = .atom then atomAct a key s
          else ({ a with data := mread s.mem key a.size }, s)
        let s := unpark a { s with accs := tdel s.accs id }
        if answersTo s a.sid a.gen id then
          let s := match a'.ret with
            | .reg dst e => lateResult a.sid dst (extend e a'.data) s
            | _ => s
          .next (goesOn a.sid a.gen id 1 s)
        else .next s

/-! ### Barrier wires -/

def barAt (s : State) (k : Nat) : Bar := tget s.bars k {}
def modBar (k : Nat) (f : Bar → Bar) (s : State) : State := { s with bars := tput s.bars k (f (barAt s k)) }

/-- The member cores of barrier b of a gang (R272, R429). -/
def barMembers (g : Gang) (b : Nat) : List Nat := (gangCores g).filter fun c => g.bmask.testBit (4 * b + c % 4)

/-- A strand arrives at an episode of barrier b and waits there (R272, R273). -/
def barArrive (gid b sid dst : Nat) (g : Gang) (s : State) : State :=
  let k := gid * 4 + b
  let cid := cidOf sid
  let x := barAt s k
  let first := x.cores.isEmpty
  let s := modBar k (fun x => { x with
    cores := if x.cores.contains cid then x.cores else x.cores ++ [cid]
    waiters := x.waiters ++ [(sid, dst)]
    first := if first then s.now else x.first }) s
  let x := barAt s k
  let tmo := (coreAt s cid).bartmo
  let s := if first && tmo != 0 then post (s.now + tmo) .barTimeout { a := gid, b := b, c := x.episode } s else s
  if (barMembers g b).all fun c => x.cores.contains c then
    post (s.now + 4 + 2 * (g.w + g.h)) .barRelease { a := gid, b := b, c := x.episode } s
  else s

/-- BAR (R272, R273): a member waits for the release; a member that a time-out has left behind takes status 1. -/
def execBar (o : Ops) (s : State) : Res :=
  let n := o.lo.toNat % 64
  issue .b s do
    need9 (decide (n < 4))
    if o.exr && o.a.toNat ≠ 0 then illegal 7
    drainM
    let s ← askM id
    let sid := s.cur.sid
    let cid := cidOf sid
    dstReady (dstN o) (dstW o)
    match (coreAt s cid).gang.bind fun gid => (gangAt s gid).map fun g => (gid, g) with
    | none => trapM 0x17 (word n)
    | some (gid, g) =>
      let k := gid * 4 + n
      let x := barAt s k
      if !(barMembers g n).contains cid then trapM 0x17 (word n)
      else if x.owed.contains cid then do
        updM fun s =>
          let owed := x.owed.erase cid
          let s := modBar k (fun x => { x with owed := owed, early := if owed.isEmpty then [] else x.early }) s
          if owed.isEmpty then x.early.foldl (fun s e => barArrive gid n e.1 e.2 g s) s else s
        writeResult (dstRid o) 1 1#64
      else if !x.owed.isEmpty then
        stopM (.keep (holdStrand sid .waiting (modBar k (fun x => { x with early := x.early ++ [(sid, dstRid o)] }) s)))
      else stopM (.keep (holdStrand sid .waiting (barArrive gid n sid (dstRid o) g s)))

/-- Gives every waiting strand its status. -/
def barAnswer (status : Word) : List (Nat × Nat) → State → State
  | [], s => s
  | (sid, dst) :: r, s =>
    barAnswer status r (if answersHeld s sid then goesOnHeld sid 1 (lateResult sid dst status s) else s)

/-- BAR_RELEASE (R273). -/
def execBarRelease (s : State) : Res :=
  let k := s.ev.a * 4 + s.ev.b
  let x := barAt s k
  if x.episode ≠ s.ev.c then .next s
  else .next (barAnswer 0#64 x.waiters (modBar k (fun x => { episode := x.episode + 1 }) s))

/-- BAR_TIMEOUT (R273): a last arrival in its cycle is a release. -/
def execBarTimeout (s : State) : Res :=
  let k := s.ev.a * 4 + s.ev.b
  let x := barAt s k
  match gangAt s s.ev.a with
  | none => .next s
  | some g =>
    let mem := barMembers g s.ev.b
    if x.episode ≠ s.ev.c ∨ mem.all (fun c => x.cores.contains c) = true then .next s
    else if !g.active then .next (post (s.now + 1) .barTimeout s.ev s)
    else
      .next (barAnswer 1#64 x.waiters
        (modBar k (fun x => { episode := x.episode + 1, owed := mem.filter fun c => !(x.cores.contains c) }) s))

/-! ### Supersteps -/

/-- SSTEP and SSYNC (R50, R51, R274): the strand has arrived at the boundary and waits for it. -/
def stepOp (exch : Bool) (o : Ops) (s : State) : Res :=
  issue .b s do
    need9 (!o.exr && o.exq.isNone && o.xi.isEmpty)
    let s ← askM id
    let sid := s.cur.sid
    let cid := cidOf sid
    match (coreAt s cid).gang.bind fun gid => (gangAt s gid).map fun g => (gid, g) with
    | none => trapM 0x17 0#64
    | some (gid, g) =>
      if !g.sstep || g.exch != exch then trapM 0x17 0#64
      else do
        drainM
        keepM fun s =>
          stepCheck gid cid (modSlot sid (fun x => { x with arrived := true }) (holdStrand sid .waiting s))

/-- SSTEP (R274). -/
def execSstep (o : Ops) (s : State) : Res := stepOp false o s
/-- SSYNC (R274). -/
def execSsync (o : Ops) (s : State) : Res := stepOp true o s

/-- The words 1 to 3 of an imbalance record (R461). -/
def imbalWords (g : Gang) : List Word :=
  let ts := g.arrivedAt.map (·.2)
  let lo := ts.foldl min (ts.headD 0)
  let hi := ts.foldl max 0
  let last := ((g.arrivedAt.find? fun p => p.2 == hi).map (·.1)).getD 0
  let sat (n : Nat) : Nat := min n (2 ^ 32 - 1)
  [word (timeNs lo), g.count, word (4 + last % 8192 * 2 ^ 4 + (if g.exch then 2 ^ 21 else 0)),
   word (sat (hi - lo) + sat (ts.map (· - lo)).sum * 2 ^ 32)]

/-- SUPERSTEP_BOUNDARY (R50 to R52, R458, R461): the step ends: the participants go on, the kind of step alternates, an
exchange step counts, and releases every participant's accesses to every participant (R149); the imbalance record is written; a stop
asked for lands at the end of an exchange step. -/
def execSuperstepBoundary (s : State) : Res :=
  let gid := s.ev.a
  match gangAt s gid with
  | none => .next s
  | some g =>
    if g.stepNo ≠ s.ev.b ∨ g.posted = false then .next s
    else
      let ws := imbalWords g
      let s := traceWrite g.pkey ws (modPart g.pkey (fun p => { p with imbal := ws }) s)
      let sids := (gangCores g).flatMap fun c => (List.range 11).map (c * 16 + ·)
      let s := { s with gangs := tput s.gangs gid { g with
        exch := !g.exch, count := if g.exch then g.count + 1#64 else g.count, stepNo := g.stepNo + 1
        posted := false, arrivedAt := [], ended := if g.exch then s.now + 1 else g.ended } }
      let handed := if g.exch then sids.flatMap fun sid => if (slotAt s sid).part then releaseSet s sid else [] else []
      let seen := if g.exch then sids.foldl (fun t sid => if (slotAt s sid).part then joinSeen t (Sys2Proof.Machine.handed s sid) else t) [] else []
      let s := sids.foldl (fun s sid =>
        let x := slotAt s sid
        if x.arrived then
          let s := handTo sid seen (modSlot sid (fun x => { x with arrived := false, after := x.after ++ handed }) s)
          goesOnHeld sid 0 s
        else s) s
      let s := (gangCores g).foldl (fun s c => stepCheck gid c s) s
      .next (if g.exch && (partAt s g.pkey).stopreq then post s.now .debugStop { a := g.pkey, c := gid } s else s)

/-! ### Vector groups (R46 to R48, R308, R309) -/

/-- The member cores of a GJOIN word (R308). -/
def groupCores (pkg : Nat) (w : Word) : List Nat :=
  (List.range (wfield w 14 4 + 1)).map fun j => pkg * 8192 + wfield w 0 13 + (if wfield w 13 1 = 1 then 256 * j else j)

/-- The malformed words of reason 1. -/
def groupBad (w : Word) : Bool :=
  let lead := wfield w 0 13
  let n := wfield w 14 4 + 1
  wfield w 26 38 != 0 || n == 1
  || (wfield w 13 1 == 0 && decide (lead % 256 + n > 256)) || (wfield w 13 1 == 1 && decide (lead / 256 + n > 32))

/-- GJOIN (R308): the last arrival forms the group after 2(6 + 3h) cycles. -/
def execGjoin (o : Ops) (s : State) : Res :=
  issue .b s do
    let w ← srcB o
    let s ← askM id
    let sid := s.cur.sid
    let cid := cidOf sid
    let pkg := pkgOfC cid
    let cores := groupCores pkg w
    dstReady (dstN o) (dstW o)
    if groupBad w then trapM 0x17 w 1#64
    else if !(cores.contains cid) || !(match gangOfCore s cid with
        | some g => cores.all fun c => inGang g (tidOfC c)
        | none => false) then trapM 0x17 w 2#64
    else if (coreAt s cid).group.isSome then trapM 0x17 w 3#64
    else do
      lastUse o
      keepM fun s =>
        let gk := match s.groups.find? fun p => p.2.word == w && !p.2.formed && p.1 / 2 ^ 40 == pkg with
          | some p => p.1
          | none => pkg * 2 ^ 40 + s.nextId
        let s := if (tfind s.groups gk).isSome then s else { s with nextId := s.nextId + 1 }
        let g : VGroup := (tfind s.groups gk).getD { word := w, first := s.now }
        let g := { g with members := g.members ++ [(sid, dstRid o)] }
        let s := holdStrand sid .waiting { s with
          groups := tput s.groups gk g
          cores := tput s.cores cid { coreAt s cid with group := some gk } }
        let tmo := (coreAt s cid).bartmo
        let s := if g.members.length = 1 ∧ tmo ≠ 0 then post (s.now + tmo) .gjoinTimeout { a := gk, b := g.first } s else s
        if g.members.length = cores.length then
          let lt := tidOfC (cores.headD 0)
          let far := cores.foldl (fun m c => max m (6 + 3 * hops lt (tidOfC c) + 8 * crossings lt (tidOfC c))) 6
          post (s.now + 2 * far) .groupForm { a := gk } s
        else s

/-- Gives the members of a group their status. -/
def groupAnswer (status : Word) : List (Nat × Nat) → State → State
  | [], s => s
  | (sid, dst) :: r, s =>
    let x := slotAt s sid
    groupAnswer status r (if x.hold && x.st != .free && x.st != .trapped then
      resume sid 1 (lateResult sid dst status s) else s)

/-- GROUP_FORM (R308, R46): every member takes status 0; the member on the lowest-numbered core leads. -/
def execGroupForm (s : State) : Res :=
  match tfind s.groups s.ev.a with
  | none => .next s
  | some g =>
    let lead := g.members.foldl (fun m p => if cidOf p.1 < cidOf m then p.1 else m) ((g.members.headD (0, 0)).1)
    let g' := { g with formed := true, leader := lead, attached := (g.members.map (·.1)).filter (· != lead), members := [] }
    .next (groupAnswer 0#64 g.members { s with groups := tput s.groups s.ev.a g' })

/-- GJOIN_TIMEOUT (R308): every waiting member takes status 1 and no group forms. -/
def execGjoinTimeout (s : State) : Res :=
  match tfind s.groups s.ev.a with
  | none => .next s
  | some g =>
    let all := decide (g.members.length = wfield g.word 14 4 + 1)
    if g.formed || all || g.first != s.ev.b then .next s
    else
      let s' := { s with groups := tdel s.groups s.ev.a }
      let s' := g.members.foldl (fun s p => modCore (cidOf p.1) (fun c => { c with group := none }) s) s'
      .next (groupAnswer 1#64 g.members s')

/-- Every detached follower is waiting at a REJOIN (R48). -/
def allAtRejoin (g : VGroup) : Bool := g.detached.all fun d => g.waiting.any fun w => w.1 == d

/-- The leader's REJOIN: followers waiting with its tag attach again and follow from the instruction after it, the others go on
detached (R48). -/
def rejoinAll (gk tag : Nat) (g : VGroup) (s : State) : State :=
  let back := (g.waiting.filter fun w => w.2 == tag).map (·.1)
  let next := (advance s (slotAt s s.cur.sid)).2
  let s := { s with groups := tput s.groups gk { g with
    attached := g.attached ++ back, detached := g.detached.filter fun d => !(back.contains d), waiting := back.map fun f => (f, 256) } }
  g.waiting.foldl (fun s w => if (slotAt s w.1).hold then
      (let s := resume w.1 1 s
       if w.2 = tag then modSlot w.1 (fun x => { x with pc := next }) s else s) else s) s

/-- Removes a strand from its vector group; the leader's leaving dissolves it (R48, R309). -/
def leaveGroup (sid : Nat) (s : State) : State :=
  match groupOf s sid with
  | none => s
  | some (gk, g) =>
    let s := modCore (cidOf sid) (fun c => { c with group := none }) s
    if g.leader = sid then
      let all := g.attached ++ g.detached
      let s := { s with groups := tdel s.groups gk }
      let s := all.foldl (fun s f => dropForwards f (modCore (cidOf f) (fun c => { c with group := none }) s)) s
      g.waiting.foldl (fun s w => if (slotAt s w.1).hold then resume w.1 1 s else s) s
    else
      dropForwards sid { s with groups := tput s.groups gk { g with
        attached := g.attached.erase sid, detached := g.detached.erase sid
        waiting := g.waiting.filter fun w => w.1 != sid } }

/-- GLEAVE (R309, R48). -/
def execGleave (o : Ops) (s : State) : Res :=
  issue .b s do
    need9 (!o.exr && o.exq.isNone && o.xi.isEmpty)
    updM fun s => leaveGroup s.cur.sid s

/-- REJOIN (R309, R48): a no-op of an attached member; a detached follower waits for the leader's; the leader waits until
every detached follower is at a REJOIN, has left or has stopped. -/
def execRejoin (o : Ops) (s : State) : Res :=
  let n := (bitsR o).1
  issue .b s do
    need9 (decide (o.xi.length = 1) && decide (n < 256))
    let s ← askM id
    let sid := s.cur.sid
    match groupOf s sid with
    | none => pure ()
    | some (gk, g) =>
      if g.leader = sid then do
        waitUnless (allAtRejoin g)
        updM (rejoinAll gk n g)
      else if g.attached.contains sid then pure ()
      else
        keepM fun s => holdStrand sid .waiting { s with
          groups := tput s.groups gk { g with waiting := g.waiting ++ [(sid, n)] } }

/-- FOLLOWER_ISSUE (R46): a forwarded instruction reaches its follower, which executes it by the issue rules of its own
core; a follower that has detached takes nothing. -/
def execFollowerIssue (s : State) : Res :=
  let sid := s.ev.a
  match s.ev.p with
  | .fwd f =>
    if (slotAt s sid).gen = s.ev.b ∧ followsLeader s sid = true then
      .next (modSlot sid (fun x => { x with fwd := x.fwd ++ [f] }) s)
    else .next s
  | _ => .next s

end Sys2Proof.Machine
end

