-- ==== Sys2Proof/Machine/Guards.lean ====
section
/-!
DEFINITION. Guards (R105 to R132, spec/05; R265 to R268, spec/11): identities, binding, acquiring and releasing, the Verger's
state table, deliveries, write-behinds, and what the failure of a package does to them.
-/

namespace Sys2Proof.Machine

/-! ### Reading for a strand -/

/-- Bytes that the part reads for a strand at device memory, as a load of the strand would read them (R135): a page that is not there
parks the strand's instruction, one that refuses it traps (R421). -/
def unitReadM (va n : Nat) : M (List Byte) := do
  let s ← askM id
  let sid := s.cur.sid
  let cid := cidOf sid
  match engCheck s (tidOfC cid) va (coreAt s cid).tenant n with
  | (_, .ok _) => pure ((engRead (ownView sid s) (tidOfC cid) va (coreAt s cid).tenant n).getD [])
  | (a, .wait) => stopM (.again (parkFetch sid s.cur.ipc a s))
  | (a, .fail c r) => trapM c (word a) (word r)

/-- Bytes of a record that an instruction reads, as a load of the strand would read them (R135), after an earlier LDACQ is performed
(R142). -/
def recordM (va n : Nat) : M (List Byte) := do
  let s ← askM id
  let own := tidOfC (cidOf s.cur.sid)
  waitUnless (!acqPending s s.cur.sid)
  match tileOfVa own va with
  | some t => pure (mread (ownView s.cur.sid s).mem (spKey t va) n)
  | none => unitReadM va n

/-- A page of the part's own reads is there, or is waited for (R160). -/
def pageThereM (va n : Nat) : M Unit := do
  let s ← askM id
  let sid := s.cur.sid
  match engCheck s (tidOfC (cidOf sid)) va (coreAt s (cidOf sid)).tenant n with
  | (a, .wait) => stopM (.again (parkFetch sid s.cur.ipc a s))
  | _ => pure ()

/-! ### The heap table (R154, R155) -/

/-- The address of heap h's entry in the copy of a core's package. -/
def heapVa (s : State) (cid h : Nat) : Nat := (coreAt s cid).heaptab + 64 * h

/-- The first six words of a heap's entry; zeros where its page is not there. -/
def heapWords (s : State) (cid h : Nat) : List Word :=
  bytesWords 6 ((engRead s (tidOfC cid) (heapVa s cid h) (coreAt s cid).tenant 48).getD [])

def hValid (w : List Word) : Bool := wfield (w.getD 0 0#64) 0 1 == 1
def hTenant (w : List Word) : Nat := wfield (w.getD 0 0#64) 16 12
/-- GOOD (R154): 1 where nothing has written the entry, which is its reset value (log 93). -/
def hGood (w : List Word) : Nat := if wfield (w.getD 0 0#64) 1 2 = 0 then 1 else wfield (w.getD 0 0#64) 1 2
def hGuard (w : List Word) : Word := w.getD 1 0#64
def hBase (w : List Word) : Nat := wfield (w.getD 2 0#64) 0 56
def hLimit (w : List Word) : Nat := wfield (w.getD 3 0#64) 0 56
def hFwd (w : List Word) : Nat := wfield (w.getD 4 0#64) 0 56

/-- The class of a home-mode binding: HEAP where some heap has that guard and exactly that region (R155). -/
def homeClass (s : State) (cid : Nat) (gid : Word) (lo hi : Nat) : Nat :=
  if (coreAt s cid).heaptab = 0 then 3
  else if (List.range 64).any fun h =>
      let w := heapWords s cid h
      hValid w && hGuard w == gid && hBase w == lo && hLimit w == hi then 4 else 3

/-! ### Identities and places (R105, R106, R132) -/

def gPkg (gid : Word) : Nat := wfield gid 32 16
def gDie (gid : Word) : Nat := wfield gid 29 3
def gIdx (gid : Word) : Nat := wfield gid 0 29
def guardOf (s : State) (gid : Word) : Option Guard := tfind s.guards gid.toNat
def putGuard (gid : Word) (g : Guard) (s : State) : State := { s with guards := tput s.guards gid.toNat g }
def modGuard (gid : Word) (f : Guard → Guard) (s : State) : State :=
  match guardOf s gid with
  | some g => putGuard gid (f g) s
  | none => s

/-- One end of a leg: a package and a die. -/
abbrev End := Nat × Nat
def coreEnd (cid : Nat) : End := (pkgOfC cid, dieOfTile (tidOfC cid))
def vergerEnd (gid : Word) : End := (gPkg gid, gDie gid)
/-- The home-memory end of a leg: the die of the region's first byte, also where the region spans stacks (DESIGN CHOICE, log 85). -/
def homeEnd (gid : Word) (va : Nat) : End := (gPkg gid, nfield va 12 4 / 2)

/-- The cycles of a leg (R132). -/
def leg (s : State) (a b : End) (same cross : Nat) : Nat :=
  if a.1 ≠ b.1 then crossing s a.1 b.1 else if a.2 = b.2 then same else cross

/-- A message of the guard protocol from one end to another, in the cycles of its leg and `more` (R132). Between packages its flits take
the link (R443), and do not change its cycles (log 47). -/
def postLeg (a b : End) (same cross more vc bytes : Nat) (ev : Instr) (arg : EvArg) (s : State) : State :=
  let t := s.now + leg s a b same cross + more
  post t ev arg (if a.1 = b.1 then s else overLink a.1 b.1 vc bytes t .transportAck { a := 0 } s)

/-- The round trip to the Verger (R268). -/
def vergerTrip (s : State) (cid : Nat) (gid : Word) : Nat :=
  if pkgOfC cid ≠ gPkg gid then 2005 + 750 * switchHops s (pkgOfC cid) (gPkg gid)
  else if coreEnd cid = vergerEnd gid then 35 else 75

/-- The guard's home package cannot answer (R105, R128). -/
def homeLost (s : State) (cid : Nat) (gid : Word) : Bool := !reachable s (pkgOfC cid) (gPkg gid)

/-- CheckId (R105, R106): the guard, or the trap. -/
def checkId (s : State) (cid : Nat) (gid : Word) : Except (Nat × Word × Word) Guard :=
  if wfield gid 48 16 ≠ 0 ∨ (pkgAt s (gPkg gid)).gmTabsz ≤ gIdx gid then .error (0x0A, gid, 1#64)
  else
    match guardOf s gid with
    | none => .error (0x0A, gid, 1#64)
    | some g => if g.tenant ≠ (coreAt s cid).tenant then .error (7, gid, 0#64) else .ok g

/-- CheckId as a step of an instruction; a home package that cannot answer traps with reason 1. -/
def checkIdM (gid : Word) : M Guard := fun s =>
  let cid := cidOf s.cur.sid
  if homeLost s cid gid then .error (.trap 0x0A gid 1#64)
  else
    match checkId s cid gid with
    | .ok g => .ok (g, s)
    | .error (c, tv, tv2) => .error (.trap c tv tv2)

/-- A range-table entry of the gang now on a core, as the Verger names it. -/
def holderOf (s : State) (cid e : Nat) : Nat :=
  e + 64 * (match (coreAt s cid).gang with
    | some g => g + 1
    | none => 0)

/-- The holder's gang is on its core. -/
def resident (s : State) (cid holder : Nat) : Bool := holderOf s cid (holder % 64) == holder

/-- The entry by which a team binds a guard. -/
def bindingOf (s : State) (cid team : Nat) (gid : Word) : Option Nat :=
  (List.range 64).find? fun e =>
    match tfind s.binds (cid * 64 + e) with
    | some b => b.guard == gid && b.team == team && decide (16 ≤ e)
    | none => false

/-! ### Stamps and versions (R114, R115, R127) -/

/-- Where the Verger's own accesses to stamps and home memory are made. -/
def gOwn (gid : Word) : Nat := gPkg gid * 2048
/-- The number under which those accesses park. -/
def gUnit (gid : Word) : Nat := 2 ^ 60 + gid.toNat

/-- The last version number. -/
def verMax : Nat := 2 ^ 32 - 1
def nextVer (v : Nat) : Nat := if v = verMax then v else v + 1

/-- What a guard's unit finds before it touches a span: a page whose read failed after it parked fails (R422). -/
def guardCheck (s : State) (gid : Word) (va tenant n : Nat) : Nat × EngPage :=
  match engCheck s (gOwn gid) va tenant n with
  | (a, .wait) => if s.unitFails.contains (gUnit gid, a / 65536) then (a, .fail 0x18 2) else (a, .wait)
  | e => e

/-- The guard's failed accesses have had their effect. -/
def guardFailed (gid : Word) (s : State) : State := { s with unitFails := s.unitFails.filter fun p => p.1 != gUnit gid }

/-- What the Verger finds at the stamp array. -/
def stampPages (s : State) (gid : Word) (g : Guard) : Nat × EngPage :=
  if g.home then (0, .ok 0) else guardCheck s gid g.stamps g.tenant (4 * g.nsb)

/-- The stamps of an image guard. -/
def stampList (s : State) (gid : Word) (g : Guard) : List Nat :=
  (List.range g.nsb).map fun i => bytesNat ((engRead s (gOwn gid) (g.stamps + 4 * i) g.tenant 4).getD [])

/-- Sub-blocks' stamps set to a version. -/
def setStamps (gid : Word) (g : Guard) (subs : List Nat) (v : Nat) (s : State) : State :=
  subs.foldl (fun s i => engWrite (gOwn gid) (g.stamps + 4 * i) g.tenant (natBytes 4 v)
    (markDSpan (gOwn gid) (g.stamps + 4 * i) 4 s)) s

/-- The repair of R127: sub-blocks newer than home memory are stamped newer than any holder's version. -/
def repairG (gid : Word) (g : Guard) (s : State) : Guard × State :=
  let v := nextVer g.ver
  let s := if g.home then s else
    setStamps gid g (((stampList s gid g).zip (List.range g.nsb)).filterMap fun p => if g.wbver < p.1 then some p.2 else none) v s
  ({ g with ver := v, lastv := false }, s)

/-! ### Grants (R118, R120 to R122, R130) -/

/-- The payload word of a grant. -/
def grantWord (mode status ndel ver : Nat) : Word := word (mode + status * 2 ^ 2 + ndel * 2 ^ 16 + ver * 2 ^ 32)

/-- The mark of home memory as the source of a delivery. -/
def fromHome : Nat := 2 ^ 40

/-- Sends a grant on its way from the Verger (R122, R132): directly, from the last holder's image, or from home memory. -/
def sendGrant (gid : Word) (g : Guard) (r : GReq) (status : Nat) (s : State) : State :=
  let st := stampList s gid g
  let subs := if g.home then [] else
    (List.range g.nsb).filter fun i => g.ver == verMax || decide (r.vlast < st.getD i 0)
  let subs := if (match (stampPages s gid g).2 with
    | .fail _ _ => true
    | _ => false) then [] else subs
  let pay := grantWord (if r.excl then 2 else 1) status subs.length g.ver
  if subs = [] then
    postLeg (vergerEnd gid) (coreEnd r.cid) 15 35 5 1 56 .grantArrival { p := .grant ⟨r, [], pay⟩ } s
  else if g.lastv then
    postLeg (vergerEnd gid) (coreEnd g.lastCid) 10 30 5 1 56 .guardForward
      { p := .gfwd ⟨r, g.lastCid, g.lastKey, subs, pay⟩ } s
  else post (s.now + 165) .guardForward { p := .gfwd ⟨r, fromHome, 0, subs, pay⟩ } s

/-- A grant: the holder is recorded and the grant sent. -/
def grantG (gid : Word) (status : Nat) (r : GReq) (g : Guard) (s : State) : Guard × State :=
  let g := { g with st := if r.excl then .excl else .shared, holders := g.holders ++ [(r.cid, r.entry)] }
  (g, sendGrant gid g r status s)

/-- The longest run of shared requests at the head. -/
def headRun : List GReq → List GReq
  | [] => []
  | r :: l => if r.excl then [] else r :: headRun l

/-- A guard without holders serves its queue (R126). -/
def serveG (gid : Word) (status : Nat) (g : Guard) (s : State) : Guard × State :=
  match g.waiting with
  | [] => ({ g with st := if status = 0 then .free else .broken }, s)
  | r :: l =>
    if r.excl then grantG gid status r { g with waiting := l } s
    else
      let run := headRun g.waiting
      run.foldl (fun p r => grantG gid status r p.1 p.2) ({ g with waiting := g.waiting.drop run.length }, s)

/-- Waiting-request entries in use at a die (R107, R372). -/
def requestsUsed (s : State) (pkg die : Nat) : Nat :=
  (s.guards.map fun p => if p.1 / 2 ^ 32 % 65536 = pkg ∧ p.1 / 2 ^ 29 % 8 = die then p.2.waiting.length else 0).sum

/-- A request at the Verger, by the table of R126; none where it must be queued and the store is full. -/
def reqG (gid : Word) (r : GReq) (g : Guard) (s : State) : Option (Guard × State) :=
  let queue : Option (Guard × State) :=
    if requestsUsed s (gPkg gid) (gDie gid) < 8192 then some ({ g with waiting := g.waiting ++ [r] }, s) else none
  match g.st with
  | .free => some (grantG gid 0 r g s)
  | .shared => if r.excl || g.waiting.any (·.excl) then queue else some (grantG gid 0 r g s)
  | .broken => if g.holders.isEmpty then some (grantG gid 1 r g s) else queue
  | _ => queue

/-- A release at the Verger (R114, R115, R124, R126); every exclusive holder becomes LAST, with its image at `key` (R107, R122). -/
def relG (gid : Word) (rel : GRel) (last : Word) (key : Nat) (g : Guard) (s : State) : Guard × State :=
  let e := rel.cid * 64 + rel.entry % 64
  let g := if rel.excl then { g with last := last, lastRt := rel.entry, lastCid := rel.cid, lastKey := key } else g
  let (g, s) :=
    if !rel.excl then (g, s)
    else if g.home then ({ g with ver := nextVer g.ver }, s)
    else if rel.dirty = [] then (g, s)
    else
      let v := nextVer g.ver
      let s := setStamps gid g rel.dirty v s
      let s := if resident s rel.cid rel.entry && (tfind s.binds e).isSome then modBind e (fun b => { b with vlast := v }) s else s
      ({ g with ver := v, lastv := true }, s)
  let g := { g with holders := g.holders.erase (rel.cid, rel.entry) }
  if !g.holders.isEmpty then (g, s) else serveG gid (if g.st = .broken then 1 else 0) g s

/-- A guard whose delivery to an acquirer fails becomes BROKEN as by the failure of its last holder, which the acquirer was (R127, R422).
The acquirer's request is then the head of the queue: where no holder is left it is granted at once with STATUS BROKEN, delivering nothing
(DESIGN CHOICE, log 104). -/
def breakDelivery (gid : Word) (r : GReq) (back : Nat) (g : Guard) (s : State) : State :=
  let (g, s) := repairG gid { g with holders := g.holders.erase (r.cid, r.entry) } s
  if !g.holders.isEmpty then putGuard gid { g with st := .broken, waiting := r :: g.waiting } s
  else
    let s := post (s.now + back) .grantArrival { p := .grant ⟨r, [], grantWord (if r.excl then 2 else 1) 1 0 g.ver⟩ } s
    let g := { g with st := if r.excl then .excl else .shared, holders := [(r.cid, r.entry)] }
    let run := if r.excl then [] else headRun g.waiting
    let (g, s) := run.foldl (fun p r => grantG gid 1 r p.1 p.2) ({ g with waiting := g.waiting.drop run.length }, s)
    putGuard gid g s

/-- A guard whose write-behind or stamps fail becomes BROKEN as by the failure of its last holder (R127, R422). -/
def breakG (gid : Word) (g : Guard) (s : State) : State :=
  let (g, s) := repairG gid g s
  let g := { g with st := .broken }
  let (g, s) := if g.holders.isEmpty then serveG gid 1 g s else (g, s)
  putGuard gid g s

/-! ### What a strand asks of a Verger (R106, R108 to R112, R266 to R268) -/

/-- The limits of a bind record (R108). -/
def recordOk (tid : Nat) (init : Bool) (w : List Word) : Bool :=
  let home := w.getD 0 0#64
  let len := (w.getD 1 0#64).toNat
  let land := w.getD 2 0#64
  let st := w.getD 3 0#64
  let isHome := wfield st 63 1 == 1
  home.toNat % 256 == 0 && decide (home.toNat + len ≤ windowBase) && len != 0 && len % 256 == 0 && wfield st 56 7 == 0
  && (if isHome then decide (len ≤ 2 ^ 40) && land == 0#64
      else decide (len ≤ 2 ^ 19) && land.toNat % 256 == 0 && inWindow land.toNat && windowTile tid land.toNat == some tid
        && decide (land.toNat % 2 ^ 20 + len ≤ 2 ^ 20)
        && (!init || (wfield st 0 2 == 0 && decide (wfield st 0 56 + 4 * (len / 256) ≤ windowBase))))

/-- An area overlaps a valid user entry, or a valid supervisor entry with USR = 1 (R109). -/
def areaTaken (s : State) (cid lo hi : Nat) : Bool :=
  (List.range 64).any fun e =>
    let v := rtView (rtAt s (cid * 64 + e))
    v.valid && (decide (16 ≤ e) || v.usr) && decide (v.base < v.limit) && decide (v.base < hi) && decide (lo < v.limit)

/-- The lowest user entry that is not valid. -/
def freeEntry (s : State) (cid : Nat) : Option Nat :=
  (List.range 64).find? fun e => decide (16 ≤ e) && !(rtView (rtAt s (cid * 64 + e))).valid

/-- A user entry's words. -/
def entryWords (base limit cls : Nat) (rd wr usr : Bool) : Word × Word :=
  (word (base + cls * 2 ^ 56),
   word (limit + 2 ^ 56 + (if rd then 2 ^ 57 else 0) + (if wr then 2 ^ 58 else 0) + (if usr then 2 ^ 61 else 0)))

/-- Removes a binding and its entry. -/
def dropBinding (cid e : Nat) (s : State) : State :=
  let b := bindAt s (cid * 64 + e)
  let h := holderOf s cid e
  putRt (cid * 64 + e) (0#64, 0#64)
    (modGuard b.guard (fun g => { g with binds := g.binds.erase (cid, h) }) { s with binds := tdel s.binds (cid * 64 + e) })

/-- A release of a binding has not left, or its write-behind is not complete (R112, R113). -/
def writeBehindOpen (s : State) (cid e : Nat) : Bool :=
  s.wbs.any fun p => p.2.rel.cid == cid && p.2.rel.entry == holderOf s cid e && (!p.2.sent || !p.2.rel.dirty.isEmpty)

def stCode (x : GSt) : Nat :=
  match x with
  | .free => 0
  | .shared => 1
  | .excl => 2
  | .broken => 3
  | .uninit => 4

/-- The words of a guard's descriptor (R107); QHEAD and QTAIL number the waiting requests of its die from 0. -/
def descWord (g : Guard) (i : Nat) : Word :=
  match i with
  | 0 => word (stCode g.st + (if g.home then 2 ^ 3 else 0) + g.tenant % 4096 * 2 ^ 16 + g.holders.length * 2 ^ 32)
  | 1 => word (g.ver + g.wbver * 2 ^ 32)
  | 2 => word g.base
  | 3 => word g.nsb
  | 4 => word (g.last.toNat % 2 ^ 41 + g.lastRt % 64 * 2 ^ 41 + (if g.lastv then 2 ^ 47 else 0))
  | 5 => word g.stamps
  | _ => word (g.waiting.length + (if g.waiting.any (·.excl) then 2 ^ 32 else 0))

/-- A free index of a die's table, of those from a start on. -/
def freeIndex (s : State) (pkg die size start : Nat) : Nat → Option Nat
  | 0 => none
  | n + 1 =>
    let i := 1 + (start + n) % (size - 1)
    if (tfind s.guards (pkg * 2 ^ 32 + die * 2 ^ 29 + i)).isNone then some i else freeIndex s pkg die size start n

/-- What the Verger answers a strand: the result, if it writes one, the further cycles, and the state after; or a trap. -/
abbrev Answer := Except (Nat × Word × Word) (Option Word × Nat × State)

/-- BIND at the Verger (R108, R109). -/
def askBind (q : GAsk) (g : Guard) (s : State) : Answer :=
  let gid := q.guard
  let w := q.words
  let init := g.st == .uninit
  let team := (slotAt s q.sid).team
  let home := wfield (w.getD 3 0#64) 63 1 == 1
  let base := (w.getD 0 0#64).toNat
  let len := (w.getD 1 0#64).toNat
  let stamps := wfield (w.getD 3 0#64) 0 56
  let lo := if home then base else wfield (w.getD 2 0#64) 0 56
  if !recordOk (tidOfC q.cid) init w then .error (0x0A, gid, 5#64)
  else if !init && (home != g.home || base != g.base || len / 256 != g.nsb) then .error (0x0A, gid, 5#64)
  else if areaTaken s q.cid lo (lo + len) || (bindingOf s q.cid team gid).isSome then .error (0x0A, gid, 4#64)
  else
    match freeEntry s q.cid with
    | none => .error (6, word lo, 0xFFFFFFFFFFFFFFFF#64)
    | some e =>
      let g := if init then
          { g with home := home, base := base, nsb := len / 256, stamps := if home then 0 else stamps
                   ver := 1, wbver := 1, lastv := false, st := .free }
        else g
      let cls := if home then homeClass s q.cid gid lo (lo + len) else 2
      let s := if init && !home then setStamps gid g (List.range g.nsb) 1 s else s
      let g := { g with binds := g.binds ++ [(q.cid, holderOf s q.cid e)] }
      let s := putGuard gid g s
      let s := match stampPages s gid g with
        | (_, .fail _ _) => if init then breakG gid g s else s
        | _ => s
      .ok (some (word e), if init then 160 + g.nsb / 8 else 0,
        putRt (q.cid * 64 + e) (entryWords lo (lo + len) cls true true true)
          { s with binds := tput s.binds (q.cid * 64 + e) { guard := gid, team := team } })

/-- UNBIND at the Verger (R112). -/
def askUnbind (q : GAsk) (s : State) : Answer :=
  match bindingOf s q.cid (slotAt s q.sid).team q.guard with
  | none => .error (0x0A, q.guard, 3#64)
  | some e =>
    if (rtView (rtAt s (q.cid * 64 + e))).hold ≠ 0 ∨ (bindAt s (q.cid * 64 + e)).pend = true then .error (0x0A, q.guard, 6#64)
    else .ok (none, 0, dropBinding q.cid e s)

/-- GNEW at the Verger (R106, R267): which free slot is taken is left open, so a free value picks it; 0 where the table is
full. -/
def askNew (q : GAsk) (s : State) : Answer :=
  let pkg := gPkg q.guard
  let die := gDie q.guard
  let size := (pkgAt s pkg).gmTabsz
  let used := (s.guards.filter fun p => p.1 / 2 ^ 29 == pkg * 8 + die).length
  let (f, s) := freeValue s
  match if size ≤ 1 then none else freeIndex s pkg die size f.toNat (min (used + 1) (size - 1)) with
  | none => .ok (some 0#64, 0, s)
  | some i =>
    let gid := word (pkg * 2 ^ 32 + die * 2 ^ 29 + i)
    .ok (some gid, 0, putGuard gid { tenant := (coreAt s q.cid).tenant } s)

/-- What the Verger does for a strand: GNEW, or the others with the guard that CheckId finds there (R105, R106). -/
def askG (q : GAsk) (s : State) : Answer :=
  if q.op = .new then askNew q s
  else
    match checkId s q.cid q.guard with
    | .error x => .error x
    | .ok g =>
      match q.op with
      | .bind => askBind q g s
      | .unbind => askUnbind q s
      | .free =>
        if !(g.holders.isEmpty && g.waiting.isEmpty && g.binds.isEmpty) then .error (0x0A, q.guard, 6#64)
        else .ok (none, 0, { s with guards := tdel s.guards q.guard.toNat })
      | .stat n => .ok (some (descWord g n), 0, s)
      | .new => .ok (none, 0, s)

/-- The UNBIND of a binding of a saved gang that was killed: entry `k` of its save area, which the Verger names by `h` (R113). -/
def savedUnbind (gid : Word) (cid k h : Nat) (s : State) : State :=
  modGuard gid (fun g => { g with binds := g.binds.erase (cid, h) })
    { s with saves := s.saves.map fun p => if p.1 + 1 = h / 64 then (p.1, { p.2 with binds := tdel p.2.binds k }) else p }

/-- The way back of the round trip (R268): the decision and the answer's leg. -/
def askBack (s : State) (q : GAsk) : Nat := vergerTrip s q.cid q.guard - leg s (coreEnd q.cid) (vergerEnd q.guard) 15 35

/-- The Verger handles a strand's message: the strand goes on, or traps, when the answer is back. One that is held no more
(R374) has taken its message back. The UNBIND that a team's end makes (`id` 0) holds no strand; it is over when its answer is back
(R113). -/
def answerAsk (q : GAsk) (s : State) : State :=
  if q.id = 0 then
    let s' := match q.words, askUnbind q s with
      | k :: h :: _, _ => savedUnbind q.guard q.cid k.toNat h.toNat s
      | _, .ok (_, _, s') => s'
      | _, .error _ => s
    post (s.now + askBack s q) .guardRequest { p := .gtrap q 0 0#64 0#64 } s'
  else if !heldOn s q.sid q.gen q.id then s
  else
    let k := askBack s q
    match askG q s with
    | .error (c, tv, tv2) => post (s.now + k) .guardRequest { p := .gtrap q c tv tv2 } s
    | .ok (r, extra, s) =>
      let s := match r with
        | some x => lateResult q.sid q.rid x s
        | none => s
      resume q.sid (k + extra) s

/-- The pages of the stamps that an initialising BIND writes. -/
def askPages (s : State) (q : GAsk) : Nat × EngPage :=
  match q.op, guardOf s q.guard with
  | .bind, some g =>
    if g.st = .uninit ∧ wfield (q.words.getD 3 0#64) 63 1 = 0 ∧ recordOk (tidOfC q.cid) true q.words = true then
      guardCheck s q.guard (wfield (q.words.getD 3 0#64) 0 56) g.tenant (4 * ((q.words.getD 1 0#64).toNat / 256))
    else (0, .ok 0)
  | _, _ => (0, .ok 0)

/-! ### The Verger's messages (R125) -/

/-- A message for the Verger: guard and sending core. -/
def vergerMsg (e : Instr × EvArg) : Option (Word × Nat) :=
  match e.1, e.2.p with
  | .guardRequest, .greq r => some (r.guard, r.cid)
  | .guardRequest, .gask q => if q.op = .new then none else some (q.guard, q.cid)
  | .guardRelease, .grel r => some (r.guard, r.cid)
  | .wbdone, _ => some (e.2.w, e.2.b)
  | _, _ => none

/-- The cycle in which the message in hand reached the Verger: one that waits for its turn keeps it. -/
def reachedAt (s : State) : Nat := if s.ev.d = 0 then s.now else s.ev.d

/-- The event argument of the message in hand, to be looked at again. -/
def laterEv (s : State) : EvArg := { s.ev with d := reachedAt s }

/-- The message waits: another of its guard was handled in this cycle, or one that came before it, or with it from a lower core,
is still to be handled (R125). -/
def vergerBusy (s : State) (gid : Word) (cid : Nat) : Bool :=
  (match guardOf s gid with
    | some g => g.lastMsg == s.now + 1
    | none => false)
  || s.agenda.any fun e => decide (e.1 ≤ s.now) && (match vergerMsg (e.2.1, e.2.2) with
    | some (g, c) =>
      let at' := if e.2.2.d = 0 then e.1 else e.2.2.d
      g == gid && (decide (at' < reachedAt s) || at' == reachedAt s && decide (c < cid))
    | none => false)

/-- Handles one message of a guard when its turn has come and its stamps are there. -/
def vergerTurn (ev : Instr) (gid : Word) (cid : Nat) (act : Guard → State → State) (s : State) : State :=
  if vergerBusy s gid cid then
    post (s.now + 1) ev (laterEv s) s
  else
    match guardOf s gid with
    | none => s
    | some g =>
      match stampPages s gid g with
      | (a, .wait) => post (s.now + 1) ev (laterEv s) (engPark (gUnit gid) (gPkg gid) a g.tenant s)
      | (_, .fail _ _) =>
        let s := guardFailed gid (if g.st = .broken then s else breakG gid g s)
        modGuard gid (fun g => { g with lastMsg := s.now + 1 }) (act ((guardOf s gid).getD g) s)
      | _ => modGuard gid (fun g => { g with lastMsg := s.now + 1 }) (act g s)

/-- An earlier message of the same core to the same Verger is still to be handled (R125). -/
def requestAhead (s : State) (cid : Nat) (gid : Word) (issued : Nat) : Bool :=
  s.agenda.any fun e => e.2.1 == .guardRequest && (match e.2.2.p with
    | .greq r => r.cid == cid && vergerEnd r.guard == vergerEnd gid && decide (r.issued < issued)
    | .gask q => q.cid == cid && vergerEnd q.guard == vergerEnd gid && decide (q.issued < issued)
    | _ => false)

/-- An earlier release of the same core to the same Verger is still to be handled (R125). -/
def releaseAhead (s : State) (cid : Nat) (gid : Word) (issued id : Nat) : Bool :=
  s.wbs.any fun p =>
    p.2.rel.cid == cid && vergerEnd p.2.rel.guard == vergerEnd gid && !p.2.handled
    && (decide (p.2.issued < issued) || (p.2.issued == issued && decide (p.1 < id)))

/-- A strand's message in its turn, with the pages that its BIND initialises there (R125). -/
def askTurn (q : GAsk) (s : State) : State :=
  if q.op ≠ .new ∧ vergerBusy s q.guard q.cid = true then post (s.now + 1) .guardRequest (laterEv s) s
  else
    match askPages s q with
    | (a, .wait) => post (s.now + 1) .guardRequest (laterEv s)
        (engPark (gUnit q.guard) (gPkg q.guard) a (((guardOf s q.guard).map (·.tenant)).getD 0) s)
    | (_, .fail _ _) => answerAsk q (guardFailed q.guard (modGuard q.guard (fun g => { g with lastMsg := s.now + 1 }) s))
    | _ => answerAsk q (if q.op = .new then s else modGuard q.guard (fun g => { g with lastMsg := s.now + 1 }) s)

/-- An acquire's request as the Verger takes it: without FRESH it carries the VLAST that the releases before it have left
(R114, R117, R125). -/
def withVlast (s : State) (r : GReq) : GReq :=
  if !r.fresh && resident s r.cid r.entry && (tfind s.binds (r.cid * 64 + r.entry % 64)).isSome then
    { r with vlast := (bindAt s (r.cid * 64 + r.entry % 64)).vlast }
  else r

/-- The home package of a guard has failed, and the Verger there answers nothing (R128). -/
def homeDead (s : State) (gid : Word) : Bool := (pkgAt s (gPkg gid)).failed

/-- An acquire on its way to a Verger that has failed: the fault processor of its package answers it once it knows (R128). -/
def lostRequest (r : GReq) (s : State) : State :=
  if homeLost s r.cid r.guard then post s.now .homeLostAnswer { p := .greq r } s else post (s.now + 1) .guardRequest { p := .greq r } s

/-- GUARD_REQUEST (R107, R126; R268): an acquire request at the Verger; or what a strand asks of it, and the trap that is its
answer. A core's messages to one Verger are handled in the order in which they were issued (R125); a Verger that has failed
answers none (R128). -/
def execGuardRequest (s : State) : Res :=
  match s.ev.p with
  | .gask q =>
    if homeDead s q.guard then
      .next (post (s.now + 1) .guardRequest
        { s.ev with p := if homeLost s q.cid q.guard then .gtrap q 0x0A q.guard 1#64 else .gask q } s)
    else if releaseAhead s q.cid q.guard q.issued 0 || requestAhead s q.cid q.guard q.issued then .next (post (s.now + 1) .guardRequest { s.ev with d := 0 } s) else .next (askTurn q s)
  | .gtrap q c tv tv2 =>
    .next (if q.id ≠ 0 ∧ heldOn s q.sid q.gen q.id = true then recordTrap q.sid c tv tv2 (slotAt s q.sid).pc s else s)
  | .greq r =>
    if homeDead s r.guard then .next (lostRequest r s)
    else if releaseAhead s r.cid r.guard r.issued 0 || requestAhead s r.cid r.guard r.issued then .next (post (s.now + 1) .guardRequest { s.ev with d := 0 } s)
    else
      .next (vergerTurn .guardRequest r.guard r.cid (fun g s =>
        match reqG r.guard (withVlast s r) g s with
        | some (g, s) => putGuard r.guard g s
        | none =>
          postLeg (vergerEnd r.guard) (coreEnd r.cid) 15 35 256 1 56 .guardRequestResend { p := .greq r } s) s)
  | _ => .next s

/-- GUARD_REQUEST_RESEND (R107): 256 cycles after the refusal the core sends the request again. -/
def execGuardRequestResend (s : State) : Res :=
  match s.ev.p with
  | .greq r => .next (postLeg (coreEnd r.cid) (vergerEnd r.guard) 15 35 0 0 56 .guardRequest { p := .greq r } s)
  | _ => .next s

/-- GUARD_RELEASE (R126): `a` is the release's record, which a write-behind keeps. The strand that LAST names as the holder's is the
one that releases (DESIGN CHOICE, log 86). At a home that has failed the release is over (R128). -/
def execGuardRelease (s : State) : Res :=
  match s.ev.p with
  | .grel rel =>
    let wid := s.ev.a
    if homeDead s rel.guard then .next { s with wbs := tdel s.wbs wid }
    else if requestAhead s rel.cid rel.guard (((tfind s.wbs wid).map (·.issued)).getD 0)
        || releaseAhead s rel.cid rel.guard (((tfind s.wbs wid).map (·.issued)).getD 0) wid then
      .next (post (s.now + 1) .guardRelease { s.ev with d := 0 } s)
    else
    .next (vergerTurn .guardRelease rel.guard rel.cid (fun g s =>
      let w := (tfind s.wbs wid).getD { rel := rel }
      let (g, s) := relG rel.guard rel (selfWord s w.sid) w.key g s
      let s := putGuard rel.guard g s
      if rel.excl && !rel.dirty.isEmpty then
        match tfind s.wbs wid with
        | some w => { s with wbs := tput s.wbs wid { w with handled := true, ver := g.ver } }
        | none => s
      else { s with wbs := tdel s.wbs wid }) s)
  | _ => .next s

/-- The bytes of an image's sub-blocks, by offset in the image. -/
def imageCells (s : State) (key : Nat) (subs : List Nat) : List Host.Cell :=
  subs.flatMap fun i => (List.range 256).map fun j => (256 * i + j, mget s.mem (key + 256 * i + j))

/-- The key of an image: the landing area of a binding. -/
def imageKey (s : State) (cid e : Nat) : Nat := spKey (tidOfC cid) (rtView (rtAt s (cid * 64 + e))).base

/-- GUARD_FORWARD (R120, R122): the source delivers: the last holder's image, or home memory once its read has started. A
home page that is not there is waited for; one that fails makes the guard BROKEN (R422). -/
def execGuardForward (s : State) : Res :=
  match s.ev.p with
  | .gfwd f =>
    let gid := f.req.guard
    match guardOf s gid with
    | none => .next s
    | some g =>
      let n := f.subs.length
      if f.holder = fromHome ∧ homeDead s gid = true then
        .next (if homeLost s f.req.cid gid then post s.now .homeLostAnswer { p := .greq f.req } s else post (s.now + 1) .guardForward s.ev s)
      else if f.holder = fromHome then
        let bad := f.subs.findSome? fun i => match guardCheck s gid (g.base + 256 * i) g.tenant 256 with
          | (_, .ok _) => none
          | e => some e
        match bad with
        | some (a, .wait) => .next (post (s.now + 1) .guardForward s.ev (engPark (gUnit gid) (gPkg gid) a g.tenant s))
        | some _ => .next (breakDelivery gid f.req (leg s (homeEnd gid g.base) (coreEnd f.req.cid) 30 50) g (guardFailed gid s))
        | none =>
          let bs := f.subs.flatMap fun i =>
            (((engRead s (gOwn gid) (g.base + 256 * i) g.tenant 256).getD []).zip (List.range 256)).map fun p => (256 * i + p.2, p.1)
          .next (postLeg (homeEnd gid g.base) (coreEnd f.req.cid) 30 50 (8 * n) 2 (256 * n) .grantArrival
            { p := .grant ⟨f.req, bs, f.payload⟩ } s)
      else
        let s := bumpLife (gPkg gid) (0x20000 + gDie gid) s
        .next (postLeg (coreEnd f.holder) (coreEnd f.req.cid) 30 50 (8 * n) 2 (256 * n) .grantArrival
          { p := .grant ⟨f.req, imageCells s f.key f.subs, f.payload⟩ } s)
  | _ => .next s

/-- An entry's gang was saved and has been killed: a request of its that is granted is over (R113). -/
def goneGang (s : State) (entry : Nat) : Bool :=
  (gangAt s (entry / 64 - 1)).isNone && (tfind s.saves (entry / 64 - 1)).isSome

/-- The entry of a grant in its receive queue, taken as a message marked SPILL; presented again after 256 cycles where the
ring is full (R121), or the acquirer's gang is away (R130). Where the queue is no longer bound, its strand having stopped while the team
lives on, the delivery is written and no entry is placed, so that PEND stays (DESIGN CHOICE, log 87). -/
def grantEntry (d : Grant) (s : State) : State :=
  let r := d.req
  let rk := r.cid * 4 + r.qix
  let q := rxAt s rk
  let sender := word (wfield d.payload 32 32 + r.entry % 64 * 2 ^ 41 + 2 ^ 63)
  let again := post (s.now + 256) .grantRetry { p := .grant d } s
  if !resident s r.cid r.entry then (if goneGang s r.entry then s else again)
  else
    let direct := direct s rk sender
    if q.owner.isSome && !direct && ovRoom q == 0 then again
    else
      let key := imageKey s r.cid (r.entry % 64)
      let s := d.bytes.foldl (fun s c => memWrite (key + c.1) [c.2] s (1, s.now)) s
      let n := ((guardOf s r.guard).map fun g => if g.home then 0 else g.nsb).getD 0
      let s := if r.excl then { s with dirty := (List.range n).foldl (fun t i => tdel t (key / 256 + i)) s.dirty } else s
      if q.owner.isNone then s
      else if direct then rxTake rk sender d.payload s
      else rxAppend rk
        { isQ := true, target := 0#64, pkg := pkgOfC r.cid, idx := r.qix, payload := d.payload, sender := sender, srcSid := 0
          acc := 0, tenant := 0, part := 0, tag := 0, spill := true, foreign := false } s

/-- GRANT_ARRIVAL (R118). -/
def execGrantArrival (s : State) : Res :=
  match s.ev.p with
  | .grant d => .next (grantEntry d s)
  | _ => .next s

/-- GRANT_RETRY (R121, R130). -/
def execGrantRetry (s : State) : Res :=
  match s.ev.p with
  | .grant d => .next (grantEntry d s)
  | _ => .next s

/-- HOME_LOST_ANSWER (R128): an entry of STATUS HOME_LOST that delivers nothing; its MODE is the request's and its VER 0 (DESIGN CHOICE,
log 105). -/
def execHomeLostAnswer (s : State) : Res :=
  match s.ev.p with
  | .greq r => .next (grantEntry ⟨r, [], grantWord (if r.excl then 2 else 1) 2 0 0⟩ s)
  | _ => .next s

/-! ### Releases and write-behinds (R123, R124) -/

/-- A command has writes to come: an A2A until its last parcel is acknowledged, another until its element is placed. -/
def cmdWrites (c : Cmd) : Bool := !c.placed && (c.eng != 3 || c.op != 18 || c.nextAt == 0 || c.row != 0)

/-- An engine command of the strand may still write in `[va, va + n)`, or in the image with that key (R116, R123): the destination of a
copy, LOCAL of a GET, REMOTE of a PUT or remote atomic, the buffer of an SREAD, the heap of an HCOMPACT, any place of a matrix or
epilogue command, or of an A2A's parcels. -/
def cmdTouches (s : State) (sid va n : Nat) (image : Bool) (c : Cmd) : Bool :=
  let own := tidOfC (cidOf sid)
  let here := tPkg c.desc == identityOf s (own / 2048)
  let far : Nat × Nat := (tRemote c.desc, if here || !inWindow (tRemote c.desc) then tLen c.desc else 0)
  let spans : List (Nat × Nat) :=
    match c.op with
    | 19 => let w2 := c.desc.getD 2 0#64
            let (lo, k) := rowSpan (c.desc.getD 1 0#64) (wfield w2 0 20) (wfield w2 20 16) (signed32 (wfield (c.desc.getD 3 0#64) 32 32))
            [(lo.toNat, k)]
    | 20 => (tLocal c.desc, tLen c.desc) :: (if tAop c.desc = 0 then [] else [far])
    | 21 => [far]
    | 22 => [(wfield (c.desc.getD 0 0#64) 0 56, sBytes c.desc)]
    | 9 => let w := heapWords s (cidOf sid) (wfield (c.desc.getD 0 0#64) 0 6)
           [(hBase w, hLimit w - hBase w)]
    | _ => [(0, if c.eng ≤ 1 ∨ (c.eng = 3 ∧ c.op = 18) then 2 ^ 57 else 0)]
  let norm (a : Nat) : Nat := if image && tileOfVa own a == some own then spKey own a else a
  c.sid == sid && c.gen == (slotAt s sid).gen && cmdWrites c && spans.any fun p =>
    decide (0 < p.2) && decide (norm p.1 < norm va + n) && decide (norm va < norm p.1 + p.2)

/-- The bytes that a vector memory instruction touches, as addresses and lengths. -/
def vecAreas (e : VEnt) : List (Nat × Nat) :=
  if e.lanes.isEmpty then [(vSpan e 0 3).2] else e.lanes.map fun a => (a, e.z)

/-- Such an instruction touches an area of a binding. -/
def vecTouches (cid va n : Nat) (image : Bool) (e : VEnt) : Bool :=
  let own := tidOfC cid
  let norm (a : Nat) : Nat := if image && tileOfVa own a == some own then spKey own a else a
  (vecAreas e).any fun p => decide (norm p.1 < norm va + n) && decide (norm va < norm p.1 + p.2)

/-- The vector stores of a team to an area (R286): those in the queue, and those with accesses not performed. -/
def vecWrites (s : State) (cid team va n : Nat) (image : Bool) : List Nat :=
  let own := tidOfC cid
  let norm (a : Nat) : Nat := if image && tileOfVa own a == some own then spKey own a else a
  (((tget s.vq cid []).filter fun e =>
    (slotAt s e.sid).team == team && e.page == 5 && (e.op == 1 || e.op == 3 || e.op == 4 || e.op == 6)
    && vecTouches cid va n image e)).map (·.vid)
  ++ (s.accs.filterMap fun p => match p.2.ret with
    | .lane v _ _ =>
      if p.2.store && !p.2.performed && cidOf p.2.sid == cid && (slotAt s p.2.sid).team == team
        && decide (norm p.2.va < norm va + n) && decide (norm va < norm p.2.va + p.2.size) then some v else none
    | _ => none)

/-- One of them has accesses still to be issued or performed. -/
def vecOpen (s : State) (cid vid : Nat) : Bool :=
  ((tget s.vq cid []).any fun e => e.vid == vid && decide (e.issued.length < 4))
  || s.accs.any fun p => (match p.2.ret with
    | .lane v _ _ => v == vid && !p.2.performed
    | _ => false)

/-- The strand's writes to an area that a release comes after: accesses and commands. -/
def writesTo (s : State) (sid va n : Nat) (image : Bool) : List Nat :=
  let key := spKey (tidOfC (cidOf sid)) va
  ((strandAccs s sid).filter fun p =>
    (p.2.store || p.2.kind == .atom || p.2.kind == .cas) && !p.2.performed
    && (if image then (match p.2.key with
          | some k => !p.2.dev && decide (k < key + n) && decide (key < k + p.2.size)
          | none => false)
        else p.2.dev && decide (p.2.va < va + n) && decide (va < p.2.va + p.2.size))).map (·.1)
  ++ (s.cmds.filter fun p => cmdTouches s sid va n image p.2).map (·.1)
  ++ vecWrites s (cidOf sid) (slotAt s sid).team va n image

/-- Lets go of a binding's hold and starts its release (R123). -/
def startRelease (cid e sid : Nat) (s : State) : State :=
  let r := rtAt s (cid * 64 + e)
  let v := rtView r
  let b := bindAt s (cid * 64 + e)
  let s := putRt (cid * 64 + e) (r.1, setField r.2 59 2 0) s
  if homeLost s cid b.guard then s
  else
    let (id, s) := freshId s
    let w : WriteBehind :=
      { rel := ⟨b.guard, cid, holderOf s cid e, v.hold == 2, []⟩, issued := s.now, sid := sid, key := imageKey s cid e
        accs := writesTo s sid v.base (v.limit - v.base) (v.cls == 2) }
    post s.now .releaseSend { a := id } { s with wbs := tput s.wbs id w }

/-- RELEASE_SEND (R123, R124): the release leaves once the writes before it are performed, in the order of its core's
releases; an exclusive one of an image takes its dirty sub-blocks with it and starts their write-behind. -/
def execReleaseSend (s : State) : Res :=
  let id := s.ev.a
  match tfind s.wbs id with
  | none => .next s
  | some w =>
    let cid := w.rel.cid
    let gid := w.rel.guard
    let busy := w.accs.any fun i =>
      (match tfind s.accs i with
        | some a => !a.performed
        | none => false)
      || (match tfind s.cmds i with
        | some c => cmdWrites c
        | none => false)
      || vecOpen s cid i
    let ahead := s.wbs.any fun p => decide (p.1 < id) && p.2.rel.cid == cid && vergerEnd p.2.rel.guard == vergerEnd gid && !p.2.sent
    if homeLost s cid gid then .next { s with wbs := tdel s.wbs id }
    else if busy || ahead then .next (post (s.now + 1) .releaseSend { a := id } s)
    else
      let g := (guardOf s gid).getD {}
      let key := w.key
      let dirty := if w.rel.excl && !g.home then
          (List.range g.nsb).filter fun i => tget s.dirty (key / 256 + i) false
        else []
      let rel := { w.rel with dirty := dirty }
      let data := dirty.flatMap fun i => mread s.mem (key + 256 * i) 256
      let s := { s with wbs := tput s.wbs id { w with rel := rel, sent := true, data := data } }
      let s := postLeg (coreEnd cid) (vergerEnd gid) 15 35 0 0 56 .guardRelease { a := id, p := .grel rel } s
      .next (if dirty = [] then s
        else postLeg (coreEnd cid) (homeEnd gid g.base) 30 50 (8 * dirty.length + 160) 2 (256 * dirty.length) .writeBehindComplete { a := id } s)

/-- WRITE_BEHIND_COMPLETE (R124): applied in version order; a page that fails makes the guard BROKEN (R422); at a home that has failed
it is over (R128). -/
def execWriteBehindComplete (s : State) : Res :=
  let id := s.ev.a
  match tfind s.wbs id with
  | none => .next s
  | some w =>
    let gid := w.rel.guard
    let again (s : State) : Res := .next (post (s.now + 1) .writeBehindComplete { a := id } s)
    match guardOf s gid with
    | none => .next { s with wbs := tdel s.wbs id }
    | some g =>
      if homeDead s gid then .next { s with wbs := tdel s.wbs id } else
      if !w.handled || s.wbs.any (fun p => decide (p.1 < id) && p.2.rel.guard == gid && !p.2.rel.dirty.isEmpty) then again s
      else
        let bad := w.rel.dirty.findSome? fun i => match guardCheck s gid (g.base + 256 * i) g.tenant 256 with
          | (_, .ok _) => none
          | e => some e
        match bad with
        | some (a, .wait) => again (engPark (gUnit gid) (gPkg gid) a g.tenant s)
        | some _ => .next (breakG gid g (guardFailed gid { s with wbs := tdel s.wbs id }))
        | none =>
          let s := (w.rel.dirty.zip (List.range w.rel.dirty.length)).foldl (fun s p =>
            engWrite (gOwn gid) (g.base + 256 * p.1) g.tenant ((w.data.drop (256 * p.2)).take 256)
              (markDSpan (gOwn gid) (g.base + 256 * p.1) 256 s)) s
          .next (postLeg (homeEnd gid g.base) (vergerEnd gid) 15 35 0 0 56 .wbdone
            { w := gid, a := w.ver, b := w.rel.cid } { s with wbs := tdel s.wbs id })

/-- WBDONE (R124, R126), in its turn at the Verger (R125). -/
def execWbdone (s : State) : Res :=
  if vergerBusy s s.ev.w s.ev.b then .next (post (s.now + 1) .wbdone (laterEv s) s)
  else
    .next (modGuard s.ev.w (fun g => { g with
      wbver := s.ev.a
      lastv := if s.ev.a = g.ver then false else g.lastv
      lastMsg := s.now + 1 }) s)

/-- GUARD_PACKAGE_FAILURE (R126, R127): LASTV stays 1 where the package of LAST fails while it neither holds nor asks, so that its image
still serves acquirers and its write-behind still completes (DESIGN CHOICE, log 106). The failed package's holders and requests are dropped at the Vergers of package
`a`; a guard that lost a holder becomes BROKEN. The requests that package `a`'s cores have waiting at the failed package's Vergers
are answered HOME_LOST (R128). -/
def execGuardPackageFailure (s : State) : Res :=
  let failed := s.ev.b
  let mine := s.guards.filter fun p => gPkg (word p.1) == s.ev.a
  let gone (r : GReq) : Bool := pkgOfC r.cid == s.ev.a
  let lost (g : Guard) : Bool := g.holders.any fun h => pkgOfC h.1 == failed
  let waits := mine.findSome? fun p =>
    if lost p.2 then (match stampPages s (word p.1) p.2 with
      | (a, .wait) => some (p.1, p.2.tenant, a)
      | _ => none) else none
  match waits with
  | some (k, ten, a) =>
    .next (post (s.now + 1) .guardPackageFailure s.ev (engPark (gUnit (word k)) (gPkg (word k)) a ten s))
  | none =>
    let s := (s.guards.filter fun p => gPkg (word p.1) == failed).foldl (fun s p =>
      (p.2.waiting.filter gone).foldl (fun s r => post s.now .homeLostAnswer { p := .greq r } s)
        (putGuard (word p.1) { p.2 with waiting := p.2.waiting.filter fun r => !gone r } s)) s
    .next (mine.foldl (fun s p =>
      let g := p.2
      let g' := { g with
        holders := g.holders.filter fun h => pkgOfC h.1 != failed
        binds := g.binds.filter fun h => pkgOfC h.1 != failed
        waiting := g.waiting.filter fun r => pkgOfC r.cid != failed }
      if lost g then breakG (word p.1) g' s else putGuard (word p.1) g' s) s)

/-! ### BIND and UNBIND (R108 to R112) -/

/-- The Verger of a guard can be asked: the ID is well formed and its home package answers (R105, R128). -/
def askableM (gid : Word) : M Unit := fun s =>
  if wfield gid 48 16 ≠ 0 ∨ homeLost s (cidOf s.cur.sid) gid = true then .error (.trap 0x0A gid 1#64) else .ok ((), s)

/-- Sends a strand's message to the Verger, which holds the strand (R268). -/
def sendAsk (op : GOp) (gid : Word) (rid : Nat) (w : List Word) (s : State) : State :=
  let sid := s.cur.sid
  let cid := cidOf sid
  let (id, s) := freshId s
  postLeg (coreEnd cid) (vergerEnd gid) 15 35 0 0 56 .guardRequest
    { p := .gask { op := op, guard := gid, cid := cid, sid := sid, gen := (slotAt s sid).gen, id := id, rid := rid
                   issued := s.now, words := w } } (holdFor' id sid .waiting s)

/-- BIND (R108, R109): the record is read at issue; the Verger checks, initialises and fills the entry. -/
def execBind (o : Ops) (s : State) : Res :=
  issue .a s do
    let gid ← srcA o
    let p ← srcB o
    dstReady (dstN o) (dstW o)
    let ea ← rawAddr o p 8 8
    let _ ← rangeM ea 32 true false
    let bs ← recordM ea 32
    let s ← askM id
    if wfield ((bytesWords 4 bs).getD 3 0#64) 63 1 = 1 ∧ (coreAt s (cidOf s.cur.sid)).heaptab ≠ 0 then
      pageThereM (heapVa s (cidOf s.cur.sid) 0) 4096
    askableM gid
    lastUse o
    keepM (sendAsk .bind gid (dstRid o) (bytesWords 4 bs))

/-- UNBIND (R112). -/
def execUnbind (o : Ops) (s : State) : Res :=
  issue .a s do
    if o.exr && o.c.toNat ≠ 0 then illegal 7
    let gid ← srcA o
    let _ ← checkIdM gid
    let s ← askM id
    let sid := s.cur.sid
    let cid := cidOf sid
    match bindingOf s cid (slotAt s sid).team gid with
    | none => trapM 0x0A gid 3#64
    | some e =>
      if (rtView (rtAt s (cid * 64 + e))).hold ≠ 0 ∨ (bindAt s (cid * 64 + e)).pend = true then trapM 0x0A gid 6#64
      else do
        waitUnless (!writeBehindOpen s cid e)
        lastUse o
        keepM (sendAsk .unbind gid 0 [])

/-! ### Acquire and release (R117, R123) -/

/-- ACQS and ACQX (R117, R265). -/
def acquireOp (excl : Bool) (o : Ops) (s : State) : Res :=
  let n := (bitsR o).1
  issue .a s do
    need9 (decide (o.xi.length ≤ 1) && decide (n < 2))
    if o.c.toNat ≠ 0 then illegal 7
    let gid ← srcA o
    let s ← askM id
    let sid := s.cur.sid
    let cid := cidOf sid
    let lost := homeLost s cid gid
    if wfield gid 48 16 ≠ 0 then trapM 0x0A gid 1#64
    if !lost then
      match checkId s cid gid with
      | .error (c, tv, tv2) => trapM c tv tv2
      | .ok _ => pure ()
    let hn := o.b.toNat - 32
    match bindingOf s cid (slotAt s sid).team gid with
    | none => trapM 0x0A gid 3#64
    | some e =>
      let b := bindAt s (cid * 64 + e)
      if (rtView (rtAt s (cid * 64 + e))).hold ≠ 0 ∨ b.pend = true then trapM 0x0A gid 2#64
      else if (slotAt s sid).busy.contains (80 + hn) then waitM
      else if (hGet s sid hn).kind ≠ 5 then trapM 0x0E (word hn)
      else do
        lastUse o
        updM fun s =>
          let qix := (hGet s sid hn).qix
          let r : GReq :=
            { guard := gid, excl := excl, fresh := n == 1, cid := cid, sid := sid, team := (slotAt s sid).team
              entry := holderOf s cid e, qix := qix, vlast := if n = 1 then 0 else b.vlast, issued := s.now }
          let s := modBind (cid * 64 + e) (fun b => { b with pend := true, qkey := cid * 4 + qix, acq := sid }) s
          if lost then post (s.now + 35) .homeLostAnswer { p := .greq r } s
          else postLeg (coreEnd cid) (vergerEnd gid) 15 35 0 0 56 .guardRequest { p := .greq r } s

/-- ACQS (R265). -/
def execAcqs (o : Ops) (s : State) : Res := acquireOp false o s
/-- ACQX (R265). -/
def execAcqx (o : Ops) (s : State) : Res := acquireOp true o s

/-- REL (R123): it waits for the team's vector stores to the area (R286); HOLD is cleared in the issue cycle; at a failed home
it completes locally (R128). -/
def execRel (o : Ops) (s : State) : Res :=
  issue .a s do
    if o.exr && o.c.toNat ≠ 0 then illegal 7
    let gid ← srcA o
    let s ← askM id
    let sid := s.cur.sid
    let cid := cidOf sid
    if wfield gid 48 16 ≠ 0 then trapM 0x0A gid 1#64
    if !homeLost s cid gid then
      match checkId s cid gid with
      | .error (c, tv, tv2) => trapM c tv tv2
      | .ok _ => pure ()
    match bindingOf s cid (slotAt s sid).team gid with
    | none => trapM 0x0A gid 3#64
    | some e =>
      let v := rtView (rtAt s (cid * 64 + e))
      if v.hold = 0 then trapM 0x0A gid 3#64
      else do
        waitUnless ((vecWrites s cid (slotAt s sid).team v.base (v.limit - v.base) (v.cls == 2)).all fun i => !vecOpen s cid i)
        lastUse o
        updM (startRelease cid e sid)

/-! ### GSTAT, GNEW, GFREE (R106, R266, R267) -/

/-- GSTAT (R266): the issuing team's binding. -/
def execGstat (o : Ops) (s : State) : Res :=
  let n := (bitsR o).1
  issue .a s do
    need9 (decide (n % 4 = 0))
    let gid ← srcB o
    dstReady (dstN o) (dstW o)
    lastUseB o
    let s ← askM id
    let sid := s.cur.sid
    let cid := cidOf sid
    writeResult (dstRid o) 1 (match bindingOf s cid (slotAt s sid).team gid with
      | none => 0#64
      | some e =>
        let b := bindAt s (cid * 64 + e)
        word ((rtView (rtAt s (cid * 64 + e))).hold + (if b.pend then 4 else 0) + 8 + e * 2 ^ 4 + b.vlast * 2 ^ 32))

/-- GSTAT.STATE and GSTAT.VER (R266): word 0 or 1 of the descriptor. -/
def execGstatVerger (o : Ops) (s : State) : Res :=
  let n := (bitsR o).1
  issue .a s do
    need9 (decide (n % 4 = 1 ∨ n % 4 = 2))
    let gid ← srcB o
    dstReady (dstN o) (dstW o)
    askableM gid
    lastUseB o
    keepM (sendAsk (.stat (n % 4 - 1)) gid (dstRid o) [])

/-- GNEW (R106, R267). -/
def execGnew (o : Ops) (s : State) : Res :=
  issue .a s do
    let b ← srcB o
    dstReady (dstN o) (dstW o)
    if wfield b 4 60 ≠ 0 then trapM 0x0A b 1#64
    lastUseB o
    keepM fun s =>
      let cid := cidOf s.cur.sid
      let die := if wfield b 3 1 = 1 then dieOfTile (tidOfC cid) else wfield b 0 3
      sendAsk .new (word (pkgOfC cid * 2 ^ 32 + die * 2 ^ 29)) (dstRid o) [] s

/-- GFREE (R106). -/
def execGfree (o : Ops) (s : State) : Res :=
  issue .a s do
    if o.exr && o.c.toNat ≠ 0 then illegal 7
    let gid ← srcA o
    askableM gid
    lastUse o
    keepM (sendAsk .free gid 0 [])

/-! ### The end of a team (R113) -/

/-- A request or grant of a binding is still on its way. -/
def grantComing (s : State) (gid : Word) (cid holder : Nat) : Bool :=
  let mine (r : GReq) : Bool := r.guard == gid && r.cid == cid && r.entry == holder
  s.agenda.any (fun e => match e.2.2.p with
    | .greq r => mine r
    | .gfwd f => mine f.req
    | .grant d => mine d.req
    | _ => false)
  || (match guardOf s gid with
    | some g => g.waiting.any mine
    | none => false)

/-- An UNBIND that the end of a strand's team makes is on its way there or back (R113). -/
def unbindComing (s : State) (sid gen : Nat) (gid : Option Word) : Bool :=
  let mine (q : GAsk) : Bool := q.id == 0 && q.sid == sid && q.gen == gen && (gid.isNone || gid == some q.guard)
  s.agenda.any fun e => e.2.1 == .guardRequest && (match e.2.2.p with
    | .gask q => mine q
    | .gtrap q _ _ _ => mine q
    | _ => false)

/-- Sends the UNBIND of a binding as its team ends. -/
def sendUnbind (cid sid : Nat) (gid : Word) (s : State) : State :=
  postLeg (coreEnd cid) (vergerEnd gid) 15 35 0 0 56 .guardRequest
    { p := .gask { op := .unbind, guard := gid, cid := cid, sid := sid, gen := (slotAt s sid).gen, id := 0, rid := 0
                   issued := s.now, words := [] } } s

/-- One step of releasing and unbinding what a team owns: the state, and whether nothing is left (R113). -/
def teamRelease (cid team sid : Nat) (s : State) : State × Bool :=
  let gen := (slotAt s sid).gen
  (s.binds.filter fun p => p.1 / 64 == cid && p.2.team == team).foldl (fun (s, done) p =>
    let e := p.1 % 64
    let b := bindAt s p.1
    let h := holderOf s cid e
    let r := rtAt s p.1
    if b.pend then
      if grantComing s b.guard cid h then (s, false)
      else
        let mode := match guardOf s b.guard with
          | some g => if g.holders.contains (cid, h) then (if g.st = .excl then 2 else 1) else 0
          | none => 0
        (putRt p.1 (r.1, setField r.2 59 2 mode) (modBind p.1 (fun b => { b with pend := false }) s), false)
    else if (rtView r).hold ≠ 0 then (startRelease cid e sid s, false)
    else if writeBehindOpen s cid e then (s, false)
    else if homeLost s cid b.guard then (dropBinding cid e s, done)
    else if unbindComing s sid gen (some b.guard) then (s, false)
    else (sendUnbind cid sid b.guard s, false)) (s, !unbindComing s sid gen none)

end Sys2Proof.Machine
end

