-- ==== Sys2Proof/Machine/Memory.lean ====
section
/-!
DEFINITION. Scalar loads and stores, LDACQ and STREL, FENCE, and the pointer operations (R235 to R245, R258, R140 to R142).
-/

namespace Sys2Proof.Machine

/-- The size, scale and widening of an LDW or STW through a converting format (R240). -/
def convRow (c : Nat) : Option Nat :=
  match c with
  | 1 => some 4
  | 2 => some 2
  | 3 => some 2
  | 4 => some 1
  | 5 => some 1
  | 6 => some 1
  | 12 => some 4
  | _ => none

/-- A load's access: bytes, widening, converting; FMT where the format is not allowed (R239, R240). -/
def loadForm (p : Word) (n : Nat) (e : Ext1) (convOk : Bool) : M (Nat × Ext1 × Bool) := do
  let _ ← fmtM p
  let c := wfield p 60 4
  if c = 0 then pure (n, e, false)
  else
    match convOk, convRow c with
    | true, some z => pure (z, .fmt c, true)
    | _, _ => trapM 0x0C p

/-- A scalar load (R235 to R240). -/
def loadOp (n : Nat) (e : Ext1) (convOk acq : Bool) (o : Ops) (s : State) : Res :=
  issue .a s do
    let p ← srcB o
    dstReady (dstN o) (dstW o)
    let (z, e, conv) ← loadForm p n e convOk
    let ea ← effAddr p (immR o * z)
    alignM ea z
    let _ ← rangeM ea z true false
    gateAt ea false
    lastUseB o
    issueLoad o ea z e conv acq

/-- LDB (R238). -/
def execLdb (o : Ops) (s : State) : Res := loadOp 1 (.sext 8) false false o s
/-- LDBU (R238). -/
def execLdbu (o : Ops) (s : State) : Res := loadOp 1 .zext false false o s
/-- LDH (R238). -/
def execLdh (o : Ops) (s : State) : Res := loadOp 2 (.sext 16) false false o s
/-- LDHU (R238). -/
def execLdhu (o : Ops) (s : State) : Res := loadOp 2 .zext false false o s
/-- LDW (R238, R240). -/
def execLdw (o : Ops) (s : State) : Res := loadOp 4 (.sext 32) true false o s
/-- LDWU (R238). -/
def execLdwu (o : Ops) (s : State) : Res := loadOp 4 .zext false false o s
/-- LDD (R238). -/
def execLdd (o : Ops) (s : State) : Res := loadOp 8 .zext false false o s
/-- LDACQ (R241, R142): later accesses of the strand issue only once it is performed. -/
def execLdacq (o : Ops) (s : State) : Res := loadOp 8 .zext false true o s

/-- The bytes that STW stores through a converting format (R240, R59, R65). -/
def storeConv (c z : Nat) (a : Word) : List Byte :=
  match c with
  | 1 => natBytes 4 a.toNat
  | 12 => natBytes 4 (BitVec.ofInt 32 (Num.clampInt (-(2 ^ 31)) (2 ^ 31 - 1) a.toInt)).toNat
  | 6 => natBytes 1 (BitVec.ofInt 8 (Num.clampInt (-128) 127 a.toInt)).toNat
  | _ => (Num.unitBytes .rne c [a.truncate 32]).take z

/-- Every GET of the strand whose destination is another package is complete, or every remote atomic of it there: in SYSTEM scope
their destinations count (R140, R261). -/
def getsDone (s : State) (sid scope : Nat) (atomics : Bool) : Bool :=
  decide (scope < 3) || s.cmds.all fun p =>
    let w2 := p.2.desc.getD 2 0#64
    p.2.sid != sid || p.2.gen != (slotAt s sid).gen || p.2.placed || p.2.eng != 3 || p.2.op != 20
    || wfield w2 20 21 == identityOf s (pkgOfC (cidOf sid)) || (atomics && wfield w2 41 4 == 0)

/-- Every earlier load of the strand in scope is performed. -/
def loadsDone (s : State) (sid : Nat) (inScope : Acc → Bool) : Bool :=
  (strandAccs s sid).all fun p =>
    !inScope p.2 || p.2.performed || p.2.store || p.2.kind == .msg || p.2.kind == .put || p.2.kind == .fetch

/-- Every earlier store, atomic and message of the strand in scope is performed and acknowledged. -/
def storesDone (s : State) (sid : Nat) (inScope : Acc → Bool) : Bool :=
  (strandAccs s sid).all fun p =>
    !inScope p.2 || p.2.rejected || !(p.2.store || p.2.kind == .atom || p.2.kind == .cas || p.2.kind == .msg || p.2.kind == .put)

/-- The scope of a fence over accesses (R140): tile, die, package, system. -/
def inScope (sid scope : Nat) (a : Acc) : Bool :=
  let own := tidOfC (cidOf sid)
  let local' := a.dpkg == pkgOfC (cidOf sid)
  let t := tileOfVa own a.va
  let isMsg := a.kind == .msg || a.kind == .put
  match scope with
  | 0 => !isMsg && !a.dev && t == some own
  | 1 => !isMsg && !a.dev && (t.map dieOfTile) == some (dieOfTile own)
  | 2 => local'
  | _ => true

/-- After a FENCE ALL the strand fetches what it has written in the scope (R191). -/
def fetchesNew (sid scope : Nat) (s : State) : State :=
  modSlot sid (fun x => match scope with
    | 0 => { x with codeTile := s.now }
    | 1 => { x with codeDie := s.now }
    | _ => { x with codeAt := s.now }) s

/-- A scalar store (R235 to R240); STREL first waits as R142 states. -/
def storeOp (n : Nat) (convOk rel : Bool) (o : Ops) (s : State) : Res :=
  issue .a s do
    let p ← srcB o
    let a ← srcA o
    let (z, e, conv) ← loadForm p n .zext convOk
    let ea ← effAddr p (immR o * z)
    alignM ea z
    let _ ← rangeM ea z false true
    stepM ea
    let s ← askM id
    let sid := s.cur.sid
    if rel then waitUnless (loadsDone s sid (inScope sid 2) && storesDone s sid (inScope sid 2))
    gateAt ea true
    lastUse o
    let bs := match e with
      | .fmt c => storeConv c z a
      | _ => natBytes z a.toNat
    issueStore ea bs conv

/-- STB (R238). -/
def execStb (o : Ops) (s : State) : Res := storeOp 1 false false o s
/-- STH (R238). -/
def execSth (o : Ops) (s : State) : Res := storeOp 2 false false o s
/-- STW (R238, R240). -/
def execStw (o : Ops) (s : State) : Res := storeOp 4 true false o s
/-- STD (R238). -/
def execStd (o : Ops) (s : State) : Res := storeOp 8 false false o s
/-- STREL (R241, R142). -/
def execStrel (o : Ops) (s : State) : Res := storeOp 8 false true o s

/-- The rejected entry of the strand that was issued first (R397). -/
def rejectedOf (s : State) (sid : Nat) : Option (Nat × Acc) :=
  (strandAccs s sid).find? fun p => p.2.rejected

/-- Every engine command that the strand pushed has performed its reads and writes, within the scope (R140): a PUT to
another package counts beyond its local completion only in SYSTEM scope. -/
def enginesDone (s : State) (sid scope : Nat) : Bool :=
  s.cmds.all fun p =>
    p.2.sid != sid || p.2.gen != (slotAt s sid).gen || p.2.placed
    || (decide (scope < 3) && p.2.eng == 3 && p.2.op == 21 && p.2.slotFree)

/-- FENCE (R258, R140, R141). -/
def execFence (o : Ops) (s : State) : Res :=
  issue .a s do
    need9 (!o.exr && o.exq.isNone && o.xi.isEmpty)
    let s ← askM id
    let sid := s.cur.sid
    let sub := o.a.toNat % 4
    let scope := o.a.toNat / 4
    let f := inScope sid scope
    if sub = 0 ∨ sub = 2 ∨ sub = 3 then waitUnless (loadsDone s sid f && getsDone s sid scope false)
    if sub ≠ 0 then waitUnless (storesDone s sid f && getsDone s sid scope true)
    if sub = 3 then waitUnless (enginesDone s sid scope)
    if 2 ≤ sub then updM (fetchesNew sid scope)
    match rejectedOf s sid with
    | some (id, a) =>
      keepM fun s => recordTrap sid 0x11 a.tvalue (word a.ipc) s.cur.ipc { s with accs := tdel s.accs id }
    | none => pure ()

/-- PADD (R242, R85). -/
def execPadd (o : Ops) (s : State) : Res :=
  issue .b s do
    let a ← srcA o
    let b ← srcB o
    dstReady (dstN o) (dstW o)
    let r ← ptrAdd a b.toInt
    lastUse o
    writeResult (dstRid o) 1 r

/-- PTAG (R243). -/
def execPtag (o : Ops) (s : State) : Res :=
  let n := (bitsR o).1
  issue .b s do
    oneXi o
    need9 (decide (nfield n 7 2 = 0))
    let b ← srcB o
    let r := word (nfield n 0 4 * 2 ^ 60 + nfield n 4 3 * 2 ^ 57 + wfield b 0 56)
    dstReady (dstN o) (dstW o)
    let _ ← fmtM r
    lastUse o
    writeResult (dstRid o) 1 r

/-- The word of PFMT (R244). -/
def pfmtWord (b : Word) : Word :=
  match Num.fmtRow (wfield b 60 4) with
  | some r =>
    if wfield b 57 3 = r.blk
    then word (wfield b 56 8 + r.ue * 2 ^ 8 + r.ub * 2 ^ 16)
    else word (wfield b 56 8)
  | none => word (wfield b 56 8)

/-- PFMT (R244). -/
def execPfmt (o : Ops) (s : State) : Res :=
  issue .b s do
    let b ← srcB o
    dstReady (dstN o) (dstW o)
    lastUse o
    writeResult (dstRid o) 1 (pfmtWord b)

/-- PSPAN (R245). -/
def execPspan (o : Ops) (s : State) : Res :=
  issue .b s do
    let a ← srcA o
    let b ← srcB o
    dstReady (dstN o) (dstW o)
    let r ← fmtM a
    if b.toInt % r.ue ≠ 0 then trapM 0x0C a
    else do
      lastUse o
      writeResult (dstRid o) 1 (wordI (b.toInt / r.ue * r.ub))

end Sys2Proof.Machine
end

