-- ==== Sys2Proof/Machine/Tasks.lean ====
section
/-!
DEFINITION. Task queues, dependency counters and LAUNCH (R335 to R343, spec/13; R437 to R439, spec/21).
-/

namespace Sys2Proof.Machine

/-! ### Queue words (R335, R437) -/

def qAt (s : State) (qk : Nat) : TduQ := tget s.tduq qk {}
def modQ (qk : Nat) (f : TduQ → TduQ) (s : State) : State := { s with tduq := tput s.tduq qk (f (qAt s qk)) }
/-- The key of queue q of a cluster. -/
def qKey (pkg cl q : Nat) : Nat := (pkg * 128 + cl) * 16 + q

/-- A cluster has a tile in a partition (R12, R335). -/
def clusterIn (p : Part) (cl : Nat) : Bool :=
  let cx := cl % 16 * 4
  let cy := cl / 16 * 4
  decide (cx < p.x0 + p.w) && decide (p.x0 < cx + 4) && decide (cy < p.y0 + p.h) && decide (p.y0 < cy + 4)

/-- A queue serves the partition (R437). -/
def qServes (s : State) (pk cl q : Nat) : Bool :=
  let x := qAt s (qKey (pk / 64) cl q)
  clusterIn (partAt s pk) cl && x.en && x.owned && x.part == pk % 64

/-- The cluster that a queue word names for a core. -/
def qCluster (cid : Nat) (w : Word) : Nat := if wfield w 11 1 = 1 then clusterOf (tidOfC cid) else wfield w 4 7

/-- The checks of a queue word (R335): the queue's key. -/
def queueM (w : Word) : M Nat := do
  let s ← askM id
  let cid := cidOf s.cur.sid
  if wfield w 12 52 ≠ 0 ∨ (wfield w 11 1 = 1 ∧ wfield w 4 7 ≠ 0) then trapM 6 w
  else
    let cl := qCluster cid w
    if qServes s (pkeyOf s cid) cl (wfield w 0 4) then pure (qKey (pkgOfC cid) cl (wfield w 0 4))
    else trapM 7 w

/-! ### Pushing and refilling (R336) -/

/-- The tenant and the package by which the TDU reads and writes a queue's ring. -/
def qTenant (s : State) (qk : Nat) : Nat := (partAt s (qk / 2048 * 64 + (qAt s qk).part)).tenant
def qOwn (qk : Nat) : Nat := qk / 2048 * 2048
/-- The address of ring record n. -/
def qSlot (q : TduQ) (n : Nat) : Nat := q.base + 64 * (n % 2 ^ q.rsz)
/-- Records in the ring. -/
def qRing (q : TduQ) : Nat := q.wr - q.rd

/-- Starts a refill where one is due. -/
def refillQ (qk : Nat) (s : State) : State :=
  let q := qAt s qk
  if q.refill || qRing q == 0 || decide (8 < q.ents.length) then s
  else post (s.now + 220) .tqRefill { a := qk } (modQ qk (fun q => { q with refill := true }) s)

/-- Where a push would go: a hardware entry, the ring, or nowhere. -/
inductive QRoom where
  | entry | ring | full
deriving DecidableEq, Repr

def qRoom (q : TduQ) : QRoom :=
  if qRing q == 0 && !q.refill && decide (q.ents.length < 32) then .entry
  else if q.rsz = 0 ∨ 2 ^ q.rsz ≤ qRing q then .full
  else .ring

/-- Pushes a record that has room, takeable in a hardware entry from `ready`. -/
def pushQ (qk : Nat) (ws : List Word) (ready : Nat) (s : State) : State :=
  let q := qAt s qk
  match qRoom q with
  | .entry => modQ qk (fun q => { q with ents := q.ents ++ [{ words := ws, pushed := s.now, ready := ready }] }) s
  | .ring =>
    let own := qOwn qk
    let ten := qTenant s qk
    let s := engWrite own (qSlot q q.wr) ten (wordsBytes ws) (markDSpan own (qSlot q q.wr) 64 s)
    refillQ qk (modQ qk (fun q => { q with wr := q.wr + 1, ages := q.ages ++ [s.now] }) s)
  | .full => s

/-- What the records pushed to a queue in a cycle hand over (R149). -/
def pushedSeen (s : State) (qk t : Nat) : Tab Nat := ((s.hands.filter fun h => h.1 == qk && h.2.1 == t).map (·.2.2)).foldl joinSeen []

/-- A record pushed to a queue in this cycle hands over what `t` says. -/
def handRecord (qk : Nat) (t : Tab Nat) (s : State) : State := if t.isEmpty then s else { s with hands := (qk, s.now, t) :: s.hands }

/-- Released records that found no room go in as room frees (R342). -/
def unholdQ (qk : Nat) (s : State) : State :=
  let pk := qk / 2048 * 64 + (qAt s qk).part
  match (partAt s pk).held.find? fun h => qKey (pk / 64) (wfield h.1 4 7) (wfield h.1 0 4) == qk with
  | none => s
  | some h =>
    if qRoom (qAt s qk) = .full then s
    else post s.now .releasedRecordPush { a := pk, d := h.2.2, w := h.1, p := .words h.2.1 } (modPart pk (fun p => { p with held := p.held.erase h }) s)

/-- TQ_REFILL (R336): one record moves from the ring's head; the next follows 4 cycles later. -/
def execTqRefill (s : State) : Res :=
  let qk := s.ev.a
  let q := qAt s qk
  let own := qOwn qk
  let ten := qTenant s qk
  if !q.refill then .next s
  else if qRing q = 0 ∨ 32 ≤ q.ents.length then .next (refillQ qk (modQ qk (fun q => { q with refill := false }) s))
  else
    match engCheck s own (qSlot q q.rd) ten 64 with
    | (a, .wait) => .next (post (s.now + 1) .tqRefill { a := qk } (engPark (2 ^ 62 + qk) (qk / 2048) a ten s))
    | _ =>
      let ws := bytesWords 8 ((engRead s own (qSlot q q.rd) ten 64).getD [])
      let s := modQ qk (fun q => { q with
        rd := q.rd + 1
        ages := q.ages.drop 1
        ents := q.ents ++ [{ words := ws, pushed := q.ages.headD s.now, ready := s.now }] }) s
      let s := unholdQ qk s
      let q := qAt s qk
      .next (if qRing q ≠ 0 ∧ q.ents.length < 32 then post (s.now + 4) .tqRefill { a := qk } s
        else refillQ qk (modQ qk (fun q => { q with refill := false }) s))

/-- Waits as a STREL does before it issues (R142, R337); an X strand also drains (R285). -/
def releaseM : M Unit := do
  drainM
  let s ← askM id
  let sid := s.cur.sid
  waitUnless (loadsDone s sid (inScope sid 2) && storesDone s sid (inScope sid 2) && !acqPending s sid)

/-- A record operand (R337): RAW, 64-aligned, checked as a 64-byte load, and read as it is at issue. -/
def taskRecM (o : Ops) (p : Word) : M (List Word) := do
  let ea ← rawAddr o p 64 64
  let _ ← rangeM ea 64 true false
  pure (bytesWords 8 (← recordM ea 64))

/-- TQPUT (R337). -/
def execTqput (o : Ops) (s : State) : Res :=
  issue .b s do
    if o.exr && o.c.toNat ≠ 0 then illegal 7
    releaseM
    let w ← srcA o
    let p ← srcB o
    let qk ← queueM w
    let r ← taskRecM o p
    let s ← askM id
    let q := qAt s qk
    let own := qOwn qk
    let ten := qTenant s qk
    match qRoom q with
    | .full => trapM 0x0F w
    | .entry => do
      lastUse o
      updM fun s => handRecord qk (handed s s.cur.sid) (pushQ qk r (s.now + 4) s)
      setCost 4
    | .ring =>
      match engCheck s own (qSlot q q.wr) ten 64 with
      | (a, .wait) => stopM (.again (engPark (2 ^ 62 + qk) (qk / 2048) a ten s))
      | _ => do
        lastUse o
        updM fun s => handRecord qk (handed s s.cur.sid) (pushQ qk r (s.now + 4) s)
        let rt := routeOf (tidOfC (cidOf s.cur.sid)) (qSlot q q.wr)
        setCost (220 + 3 * rt.h + 16 * rt.c)

/-! ### Taking (R336, R338) -/

/-- A record's effective priority (R336). -/
def effPrio (now : Nat) (r : TaskRec) : Nat := wfield (r.words.getD 1 0#64) 0 3 - (now - r.pushed) / 65536

/-- The record that a take chooses: the lowest effective priority, the oldest push among equals. -/
def bestTask (now : Nat) : List TaskRec → Option TaskRec
  | [] => none
  | r :: rs =>
    let b := bestTask now rs
    if now < r.ready then b
    else
      match b with
      | none => some r
      | some x =>
        if effPrio now r < effPrio now x ∨ (effPrio now r = effPrio now x ∧ r.pushed ≤ x.pushed) then some r else some x

/-- The clusters that a stealing take searches after its own: north, east, south, west (R338). -/
def neighbours (cl : Nat) : List Nat :=
  (if 16 ≤ cl then [cl - 16] else []) ++ (if cl % 16 < 15 then [cl + 1] else [])
  ++ (if cl < 112 then [cl + 16] else []) ++ (if 0 < cl % 16 then [cl - 1] else [])

/-- Die boundaries between two clusters. -/
def clusterDies (a b : Nat) : Nat := natDist (a % 16 / 4) (b % 16 / 4) + natDist (a / 16 / 4) (b / 16 / 4)

/-- TQGET (R338). The record reaches the area in the cycle in which the status is written. -/
def execTqget (o : Ops) (s : State) : Res :=
  issue .c s do
    need9 (decide (o.xi.length ≤ 3))
    let steal := (bitsR o).1 % 2 == 1
    dstReady (dstN o) (dstW o)
    let w ← srcA o
    let p ← srcB o
    need9 (!steal || wfield w 11 1 == 1)
    let qk ← queueM w
    rawM p
    let ea ← effAddr p (immR o / 2 * 64)
    alignM ea 64
    let s ← askM id
    let sid := s.cur.sid
    let cid := cidOf sid
    let own := tidOfC cid
    if tileOfVa own ea ≠ some own then trapM 7 (word ea)
    let _ ← rangeM ea 64 false true
    waitUnless (!acqPending s sid)
    let cl := qk / 16 % 128
    let q := wfield w 0 4
    let lat (c : Nat) : Nat := if c = clusterOf own then 4 else 40 + 16 * clusterDies (clusterOf own) c
    let try' (c : Nat) : Option (Nat × TaskRec) := (bestTask s.now (qAt s (qKey (pkgOfC cid) c q)).ents).map (c, ·)
    let near := if steal then (neighbours cl).filter fun c => qServes s (pkeyOf s cid) c q else []
    let got ← match try' cl with
      | some x => pure (some x)
      | none => do
        waitUnless (qRing (qAt s qk) == 0)
        pure (near.findSome? try')
    lastUse o
    match got with
    | none => writeResult (dstRid o) (((cl :: near).map lat).foldl max 4) 0#64
    | some (c, r) => do
      let k := qKey (pkgOfC cid) c q
      updM fun s =>
        let s := modQ k (fun q => { q with ents := q.ents.erase r }) s
        let s := handTo sid (pushedSeen s k r.pushed) (unholdQ k (refillQ k s))
        let a := accOf s sid ea 64 .store false false
        (sendAcc { a with bank := msgBank, perfAt := s.now + lat c, data := wordsBytes r.words } s).2
      writeResult (dstRid o) (lat c) (word (1 + (q + c * 16) * 2 + effPrio s.now r * 2 ^ 13))

/-! ### Dependency counters (R339 to R342, R438) -/

/-- The index check (R340). -/
def counterM (k : Word) : M Unit := do
  let s ← askM id
  if (partAt s (pkeyOf s (cidOf s.cur.sid))).dcnum ≤ k.toNat then trapM 6 k else pure ()

/-- A counter operation on its way to the TDU: its core; none for another event. -/
def counterCore (i : Instr) (a : EvArg) : Option Nat :=
  match i with
  | .tdsetApply => some a.d
  | .tdbindApply => some a.d
  | .tdecApply => if a.e = 0 then some (cidOf a.c) else none
  | _ => none

/-- Applies a counter operation once the counter's page is there: one core's in issue order, those of several cores that reach a
counter in one cycle in ascending core number (R339). -/
def atCounter (ev : Instr) (act : Nat → Nat → Nat → State → State) (s : State) : Res :=
  let pk := s.ev.a
  let p := partAt s pk
  let own := pk / 64 * 2048
  let a := p.dcbase + 128 * s.ev.b
  let cid := (counterCore ev s.ev).getD 0
  let behind (f : Nat → EvArg → Bool) : Bool := s.agenda.any fun x => (match counterCore x.2.1 x.2.2 with
    | some c => decide (x.1 ≤ s.now) && f c x.2.2
    | none => false)
  if s.agenda.any (fun x => counterCore x.2.1 x.2.2 == some cid && decide (x.2.2.w2.toNat < s.ev.w2.toNat)) then
    .next (post (s.now + 1) ev s.ev s)
  else if behind (fun c x => x.a == pk && x.b == s.ev.b && decide (c < cid)) then .next (post s.now ev s.ev s)
  else
  match engCheck s own a p.tenant 128 with
  | (x, .wait) => .next (post (s.now + 1) ev s.ev (engPark (2 ^ 62 + 2 ^ 61 + pk * 65536 + s.ev.b) (pk / 64) x p.tenant s))
  | _ => .next (act own a p.tenant (markDSpan own a 128 s))

/-- A word of a counter. -/
def dcWord (s : State) (own a ten : Nat) : Word := (bytesWords 1 ((engRead s own a ten 8).getD [])).headD 0#64

/-- TDSET (R340). -/
def execTdset (o : Ops) (s : State) : Res :=
  issue .b s do
    if o.exr && o.c.toNat ≠ 0 then illegal 7
    let k ← srcA o
    let v ← srcB o
    counterM k
    if 2 ^ 16 ≤ v.toNat then trapM 6 v 1#64
    lastUse o
    updM fun s =>
      let (id, s) := freshId s
      let cid := cidOf s.cur.sid
      post (s.now + 12) .tdsetApply { a := pkeyOf s cid, b := k.toNat, c := v.toNat, d := cid, w2 := word id } s

/-- TDSET_APPLY (R340): the count is set, the binding kept. -/
def execTdsetApply (s : State) : Res :=
  let v := s.ev.c
  atCounter .tdsetApply (fun own a ten s =>
    engWrite own a ten (natBytes 8 (setField (dcWord s own a ten) 0 16 v).toNat) s) s

/-- TDBIND (R341). -/
def execTdbind (o : Ops) (s : State) : Res :=
  issue .b s do
    let k ← srcA o
    let p ← srcB o
    let w ← srcC o
    counterM k
    let qk ← queueM w
    let r ← taskRecM o p
    lastUse o
    updM fun s =>
      let (id, s) := freshId s
      let cid := cidOf s.cur.sid
      post (s.now + 12) .tdbindApply
        { a := pkeyOf s cid, b := k.toNat, d := cid, w := word (wfield w 0 4 + qk / 16 % 128 * 16), w2 := word id, p := .words r } s

/-- TDBIND_APPLY (R341, R438). -/
def execTdbindApply (s : State) : Res :=
  let w := s.ev.w
  match s.ev.p with
  | .words r => atCounter .tdbindApply (fun own a ten s =>
      let s := engWrite own a ten (natBytes 8 (setField (dcWord s own a ten) 16 1 1).toNat ++ natBytes 8 w.toNat) s
      engWrite own (a + 64) ten (wordsBytes r) s) s
  | _ => .next s

/-- TDEC (R342): the strand waits for the counter's reply. -/
def execTdec (o : Ops) (s : State) : Res :=
  issue .b s do
    if o.exr && o.c.toNat ≠ 0 then illegal 7
    releaseM
    let k ← srcA o
    counterM k
    lastUse o
    keepM fun s =>
      let sid := s.cur.sid
      let (id, s) := freshId s
      post (s.now + 12) .tdecApply
        { a := pkeyOf s (cidOf sid), b := k.toNat, c := sid, d := (slotAt s sid).gen, w := word id, w2 := word id } (holdFor' id sid .waiting s)

/-- TDEC_APPLY (R342): `e` 0, the decrement at the counter; `e` 1 and 2, its reply at the core, 12 cycles later: the strand
goes on, or traps with DEP_UNDERFLOW. -/
def execTdecApply (s : State) : Res :=
  let ev := s.ev
  let held := heldOn s ev.c ev.d ev.w.toNat
  if ev.e = 1 then .next (goesOn ev.c ev.d ev.w.toNat 0 s)
  else if ev.e = 2 then
    .next (if held then recordTrap ev.c 0x12 (word ev.b) 0#64 (slotAt s ev.c).pc s else s)
  else
    atCounter .tdecApply (fun own a ten s =>
      let reply (e : Nat) (s : State) : State := post (s.now + 12) .tdecApply { ev with e := e } s
      let w0 := dcWord s own a ten
      let n := wfield w0 0 16
      if n = 0 then reply 2 s
      else
        let s := reply 1 (engWrite own a ten (natBytes 8 (setField w0 0 16 (n - 1)).toNat) s)
        let s := { s with decs := (ev.a, ev.b, handed s ev.c) :: s.decs }
        let mine (d : Nat × Nat × Tab Nat) : Bool := d.1 == ev.a && d.2.1 == ev.b
        if n ≠ 1 then s
        else if wfield w0 16 1 = 0 then modPart ev.a (fun p => { p with zerorel := p.zerorel + 1 }) { s with decs := s.decs.filter fun d => !mine d }
        else
          let qk := qKey (ev.a / 64) (wfield (dcWord s own (a + 8) ten) 4 7) (wfield (dcWord s own (a + 8) ten) 0 4)
          let s := handRecord qk (((s.decs.filter mine).map (·.2.2)).foldl joinSeen []) { s with decs := s.decs.filter fun d => !mine d }
          post (s.now + 6) .releasedRecordPush
          { a := ev.a, d := s.now, w := dcWord s own (a + 8) ten, p := .words (bytesWords 8 ((engRead s own (a + 64) ten 64).getD [])) } s) s

/-- RELEASED_RECORD_PUSH (R342): the record goes to its queue, or the TDU holds it until there is room. -/
def execReleasedRecordPush (s : State) : Res :=
  match s.ev.p with
  | .words r =>
    let pk := s.ev.a
    let qk := qKey (pk / 64) (wfield s.ev.w 4 7) (wfield s.ev.w 0 4)
    let q := qAt s qk
    let ten := qTenant s qk
    if qRoom q = .full then .next (modPart pk (fun p => { p with held := p.held ++ [(s.ev.w, r, s.ev.d)] }) s)
    else
      match qRoom q, engCheck s (qOwn qk) (qSlot q q.wr) ten 64 with
      | .ring, (a, .wait) => .next (post (s.now + 1) .releasedRecordPush s.ev (engPark (2 ^ 62 + qk) (qk / 2048) a ten s))
      | _, _ => .next (unholdQ qk (pushQ qk r s.now (handRecord qk (pushedSeen s qk s.ev.d) s)))
  | _ => .next s

/-! ### Jobs (R343, R430) -/

/-- Adds a job to a partition's queue: its number, 0 where all 16 entries are held. -/
def submitJob (pk : Nat) (d : List Word) (super host : Bool) (after : List Nat) (tag : Nat) (s : State) : Nat × State :=
  let p := partAt s pk
  if 16 ≤ p.jobs.length then (0, s)
  else
    let n := p.nextJob
    let (seq, s) := freshId s
    let seen := if host then [] else handed s s.cur.sid
    let j : Job := { num := n, desc := d, super := super, fromHost := host, seq := seq, after := after, tag := tag, codeSeen := seen }
    (n, modPart pk (fun p => { p with nextJob := n % 65535 + 1, jobs := p.jobs ++ [j] }) s)

/-- LAUNCH (R343): the job enters the queue at issue, and the TDU places (R435). -/
def execLaunch (o : Ops) (s : State) : Res :=
  issue .c s do
    let p ← srcB o
    dstReady (dstN o) (dstW o)
    let ea ← rawAddr o p 64 64
    let _ ← rangeM ea 64 true false
    let r := bytesWords 8 (← recordM ea 64)
    lastUseB o
    let s ← askM id
    let sid := s.cur.sid
    let cid := cidOf sid
    let lat := loadLatency (tidOfC cid) ea + 24
    let (n, s') := submitJob (pkeyOf s cid) r (!userMode s sid) false (releaseSet s sid) 0 s
    updM fun _ => post s.now .gangPlace { a := pkeyOf s cid } s'
    writeResult (dstRid o) lat (word n)

end Sys2Proof.Machine
end

