-- ==== Sys2Proof/Machine/Blocks.lean ====
section
/-!
DEFINITION. Block registers (R371, R372, R394, R423, R424, R437, R438, R448, R457; R170; R363): addresses, reads, writes and
the snapshot copies of counters (R462).
-/

namespace Sys2Proof.Machine

/-- A block register address (R371): word offset in bytes, die, block code, instance. -/
structure BAddr where
  off : Nat
  die : Nat
  blk : Nat
  inst : Nat
deriving DecidableEq, Repr

def bAddr (w : Word) : BAddr := ⟨wfield w 3 13 * 8, wfield w 16 4, wfield w 20 4, wfield w 24 11⟩
/-- The address word of a block register. -/
def bWord (a : BAddr) : Nat := a.off + a.die * 2 ^ 16 + a.blk * 2 ^ 20 + a.inst * 2 ^ 24

/-- A tile lies in a partition's rectangle. -/
def inPart (p : Part) (x y : Nat) : Bool :=
  decide (p.x0 ≤ x) && decide (x < p.x0 + p.w) && decide (p.y0 ≤ y) && decide (y < p.y0 + p.h)

/-- The cluster that holds a partition's north-west tile (R438). -/
def homeCluster (p : Part) : Nat := p.y0 / 4 * 16 + p.x0 / 4

/-- The die of a cluster. -/
def clusterDie (cl : Nat) : Nat := dieOfXY (cl % 16 * 4) (cl / 16 * 4)

/-- A die that did not pass its measurement stays in reset, and its blocks are absent (R465); the log's index of C-die d is
3 + d, of E-die e 1 + e. -/
def dieUp (s : State) (pkg die : Nat) : Bool :=
  let i := if die < 8 then 3 + die else die - 7
  (pkgAt s pkg).measures.all fun m => m.1 != i || m.2 == 1

/-- The word of a snapshot copy's offset (R462). -/
def snapBase : Nat := 0x4000

/-- The RO counters of each block (R462). -/
def isCounter (blk off : Nat) : Bool :=
  match blk with
  | 1 => off == 0x10
  | 2 => decide (0x8 ≤ off) && decide (off ≤ 0x28)
  | 3 => decide (off % 0x800 ≤ 0x20) && decide (off < 0x1000)
  | 4 => (decide (off < 0x200) && decide (0x10 ≤ off % 0x20)) || (decide (0x210 ≤ off) && decide (off ≤ 0x220)) || off == 0x238
         || off == 0x350
  | 5 => off == 0x800
  | 6 => decide (0x110 ≤ off) && decide (off ≤ 0x130)
  | 7 => off == 0 || off == 8
  | 8 => off == 0x8
  | _ => false

/-- The records of a partition at a collector, oldest first (R394). -/
def trcMine (s : State) (trow part : Nat) : List TrcRec := (tget s.trcs trow []).filter fun r => r.part == part

/-- The words of a collector's record (R393). -/
def trcWord (row : Nat) (r : TrcRec) (i : Nat) : Word :=
  match i with
  | 0 => word (r.cause + (if r.pv then 2 ^ 8 else 0) + r.tenant % 4096 * 2 ^ 9 + r.part % 64 * 2 ^ 21 + row % 32 * 2 ^ 27
      + r.count % 2 ^ 32 * 2 ^ 32)
  | 1 => r.tvalue
  | 2 => r.tval2
  | 3 => word (r.tepc % 2 ^ 56 + r.slot % 16 * 2 ^ 56)
  | _ => word ((r.cores.filter fun c => c % 256 / 64 == i - 4).foldl (fun n c => (n ||| 2 ^ (c % 64))) 0)

/-- The port status word (R448). -/
def pstat (p : Port) : Word :=
  word ((if p.retraining then 1 else if p.up then 2 else 0) + p.width % 16 * 2 ^ 2 + p.lanes % 256 * 2 ^ 6
    + p.replays % 2 ^ 32 * 2 ^ 16)

/-- GM_DSEL of a die, kept for each core (R372). -/
def dselOf (s : State) (cid die : Nat) : Word := tget (coreAt s cid).dsel die 0#64

/-- The value of a block register for a partition; none where no register has that offset. Word 6 of a descriptor whose
queue is not empty is read apart. -/
def blockGet (s : State) (pkg part cid : Nat) (a : BAddr) : Option Word :=
  let pk := pkg * 64 + part
  let k := pkgAt s pkg
  let p := partAt s pk
  match a.blk with
  | 1 =>
    if a.off = 0 then some (word k.gmTabsz)
    else if a.off = 8 then some (word (tget k.gmTabbase a.die 0))
    else if a.off = 0x10 then some (word (8192 - requestsUsed s pkg a.die))
    else if a.off = 0x18 then some (dselOf s cid a.die)
    else if 0x20 ≤ a.off ∧ a.off ≤ 0x58 then
      let d := dselOf s cid a.die
      let i := (a.off - 0x20) / 8
      match guardOf s d with
      | some g =>
        if gPkg d = pkg ∧ gDie d = a.die ∧ g.tenant = (coreAt s cid).tenant then
          some (if i = 6 then 0xFFFFFFFFFFFFFFFF#64 else descWord g i)
        else some 0#64
      | none => some 0#64
    else none
  | 2 =>
    let m := mtuAt s (pkg * 8 + a.die)
    if a.off = 0 then some (word k.ptbase)
    else if a.off = 8 then some (word (1024 - m.parked))
    else if a.off = 0x10 then some (word m.lpark)
    else if a.off = 0x18 then some (word m.fails)
    else if a.off = 0x20 then some (word m.remote)
    else if a.off = 0x28 then some (word m.walks)
    else if 0x100 ≤ a.off ∧ a.off ≤ 0x8F8 then
      let e := tget s.own (pkg * 128 + (a.off - 0x100) / 16) (0#64, 0#64)
      some (if a.off % 16 = 0 then e.1 else e.2)
    else none
  | 3 =>
    let q := sqeAt s (pkg * 4 + (a.die - 8) * 2 + a.off / 0x800)
    let o := a.off % 0x800
    if 0x1000 ≤ a.off then none
    else if o = 0 then some (word q.frames.length)
    else if o = 0x8 then some (word q.reads)
    else if o = 0x10 then some (word q.writes)
    else if o = 0x18 then some (word q.noframe)
    else if o = 0x20 then some (word q.errors)
    else if o = 0x28 then some (word q.tmo)
    else if o = 0x30 then some (word q.link)
    else none
  | 4 =>
    if a.off < 0x200 then
      let q := qAt s (qKey pkg a.inst (a.off / 0x20))
      match a.off % 0x20 / 8 with
      | 0 => some (word ((if q.en then 1 else 0) + q.part * 2 + (if q.owned then 2 ^ 7 else 0) + q.rsz % 16 * 2 ^ 8
          + q.ents.length * 2 ^ 16))
      | 1 => some (word q.base)
      | 2 => some (word q.rd)
      | _ => some (word q.wr)
    else if a.inst ≠ homeCluster p then none
    else if a.off = 0x200 then some (word p.dcbase)
    else if a.off = 0x208 then some (word p.dcnum)
    else if a.off = 0x210 then some (word p.zerorel)
    else if a.off = 0x218 then some (word p.held.length)
    else if a.off = 0x220 then some (word p.jobs.length)
    else if a.off = 0x228 ∨ a.off = 0x230 ∨ a.off = 0x308 then some 0#64
    else if a.off = 0x238 then some (word p.nextJob)
    else if a.off = 0x300 then
      some (word ((if p.stopreq then 1 else 0) + (if p.stopped then 2 else 0) + (if p.bpstop then 4 else 0)))
    else if a.off = 0x310 then
      some (word ((if p.stepDone then 1 else 0) + (if p.stepWaited then 2 else 0) + (if p.stepNotReady then 4 else 0)))
    else if a.off = 0x318 then some p.stopss
    else if 0x320 ≤ a.off ∧ a.off ≤ 0x338 then some (p.bps.getD ((a.off - 0x320) / 8) 0#64)
    else if a.off = 0x340 then some (word p.trbase)
    else if a.off = 0x348 then some p.trcfg
    else if a.off = 0x350 then some (word p.trwr)
    else if 0x360 ≤ a.off ∧ a.off ≤ 0x378 then some (p.imbal.getD ((a.off - 0x360) / 8) 0#64)
    else none
  | 5 =>
    let tid := pkg * 2048 + a.inst
    if a.off < 0x800 then some (tget s.cnGrp (tid * 256 + a.off / 8) 0#64)
    else if a.off = 0x800 then some (word (tget s.cnErr tid 0))
    else none
  | 6 =>
    let e := a.die - 8
    let f := tget s.fer (pkg * 2 + e) {}
    if a.off ≤ 0x88 then some (pstat (portAt s (pkg * 36 + e * 18 + a.off / 8)))
    else if a.off = 0x100 then some (((f.lnotify.find? fun x => x.1 == part).map (·.2)).getD 0#64)
    else if a.off = 0x108 then some (word (tget f.evlost part 0))
    else if a.off = 0x110 then some (word f.late)
    else if a.off = 0x118 then some (word f.wait)
    else if a.off = 0x120 then some (word f.tsfree)
    else if a.off = 0x128 then some (word f.resends)
    else if a.off = 0x130 then some (word f.noroute)
    else if 0x1000 ≤ a.off ∧ a.off ≤ 0x1FF8 then
      let r := tget s.ferGrp ((pkg * 2 + e) * 256 + (a.off - 0x1000) / 16) (0#64, 0#64)
      some (if a.off % 16 = 0 then r.1 else r.2)
    else none
  | 7 => if a.off = 0 then some (word k.rleMoved) else if a.off = 8 then some (word k.rleStayed) else none
  | 8 =>
    let trow := pkg * 32 + a.inst
    let l := trcMine s trow part
    let x := tget s.trcp (trow * 64 + part) {}
    if a.off = 0 then some x.notify
    else if a.off = 8 then some (word l.length)
    else if a.off = 0x10 then some (word x.lost)
    else if a.off = 0x18 then some 0#64
    else if 0x40 ≤ a.off ∧ a.off ≤ 0x78 then
      some (match l with
        | r :: _ => trcWord a.inst r ((a.off - 0x40) / 8)
        | [] => 0#64)
    else none
  | _ => none

/-- The block exists, on that die, with that instance (R371). The relocation engine answers at every die (log 21). -/
def blockDecodes (s : State) (pkg : Nat) (w : Word) (a : BAddr) : Bool :=
  wfield w 0 3 == 0 && wfield w 35 29 == 0 && dieUp s pkg a.die &&
  (match a.blk with
   | 1 => decide (a.die < 8) && a.inst == 0
   | 2 => decide (a.die < 8) && a.inst == 0
   | 3 => (a.die == 8 || a.die == 9) && a.inst == 0
   | 4 => decide (a.inst < 128) && a.die == clusterDie a.inst
   | 5 => a.die == dieOfTile a.inst
   | 6 => (a.die == 8 || a.die == 9) && a.inst == 0
   | 7 => decide (a.die < 10) && a.inst == 0
   | 8 => decide (a.inst < 32) && a.die == dieOfXY 0 a.inst
   | _ => false)

/-- The instance lies in the partition, and a queue is not another partition's (R371, R437). -/
def blockMine (s : State) (pk : Nat) (a : BAddr) : Bool :=
  let p := partAt s pk
  match a.blk with
  | 4 => clusterIn p a.inst && (decide (0x200 ≤ a.off) ||
      (let q := qAt s (qKey (pk / 64) a.inst (a.off / 0x20))
       !q.owned || q.part == pk % 64))
  | 5 => inPart p (tileX a.inst) (tileY a.inst)
  | _ => true

/-- Registers that only firmware writes (R372, R423, R424, R448). -/
def firmwareOnly (a : BAddr) : Bool :=
  match a.blk with
  | 1 => a.off == 8
  | 2 => a.off == 0 || (decide (0x100 ≤ a.off) && decide (a.off ≤ 0x8F8))
  | 3 => a.off % 0x800 == 0x28 && decide (a.off < 0x1000)
  | 6 => decide (0x1000 ≤ a.off) && decide (a.off ≤ 0x1FF8)
  | _ => false

/-- The feature that a block register belongs to (R1, log 88): Guards to 2, the storage engine to 4, the combining nodes and the
Pavilions' routes to 6, the Pavilions' ports and transport to 5, the relocation engine to 3. -/
def blockFeature (a : BAddr) : Nat :=
  match a.blk with
  | 1 => 2
  | 3 => 4
  | 5 => 6
  | 6 => if a.off = 0x110 ∨ a.off = 0x118 ∨ 0x1000 ≤ a.off then 6 else 5
  | 7 => 3
  | _ => 0

/-- A read address with the snapshot copies (R462): the register, and whether its copy is meant. -/
def snapOf (a : BAddr) : BAddr × Bool :=
  let b := { a with off := a.off - snapBase }
  if snapBase ≤ a.off ∧ isCounter a.blk b.off = true then (b, true) else (a, false)

/-- A register stands at the address; a cluster's instance outside the partition counts as the partition's home cluster. -/
def blockKnown (s : State) (pkg part cid : Nat) (pk : Nat) (a : BAddr) : Bool :=
  (blockGet s pkg part cid (if a.blk = 4 ∧ clusterIn (partAt s pk) a.inst = false then { a with inst := homeCluster (partAt s pk) } else a)).isSome

/-- The checks of a block access (R371). DESIGN CHOICE (log 88): RIGHTS comes before R1's reading as zero and ignoring of writes, of a register
whose feature is not accepted. -/
def blockM (w : Word) (write : Bool) : M BAddr := do
  let s ← askM id
  let cid := cidOf s.cur.sid
  let pk := pkeyOf s cid
  let a := bAddr w
  let (r, _) := snapOf a
  if !blockDecodes s (pkgOfC cid) w a || !blockKnown s (pkgOfC cid) (pk % 64) cid pk r then trapM 6 w
  else if !blockMine s pk r || (write && firmwareOnly a) then trapM 7 w 4#64
  else pure a

/-- The latency of a block access (R371, R236): another tile's scratchpad, at the nearest tile of the block's die; of an
E-die, the nearest edge tile, and 8 more. -/
def blockLatency (own die : Nat) : Nat :=
  let (h, c) := if die < 8 then dieDist own die
    else if die = 8 then (tileX own, tileX own / 16)
    else (63 - tileX own, (63 - tileX own) / 16)
  2 * (5 + 3 * h + 8 * c) + (if die < 8 then 0 else 8)

/-- Every counter that a partition's snapshot copies (R462): those of the package's shared blocks, of its clusters and of its
tiles. -/
def snapAddrs (pkg : Nat) (p : Part) : List BAddr :=
  let dies := List.range 8
  let two := [8, 9]
  let offs (lo n : Nat) : List Nat := (List.range n).map fun i => lo + 8 * i
  (dies.map fun d => ⟨0x10, d, 1, 0⟩)
  ++ (dies.flatMap fun d => (offs 8 5).map fun o => ⟨o, d, 2, 0⟩)
  ++ (two.flatMap fun d => (offs 0 5 ++ offs 0x800 5).map fun o => ⟨o, d, 3, 0⟩)
  ++ (((List.range 128).filter fun c => clusterIn p c).flatMap fun c =>
      (List.range 16).flatMap fun q => [⟨0x20 * q + 0x10, clusterDie c, 4, c⟩, ⟨0x20 * q + 0x18, clusterDie c, 4, c⟩])
  ++ ([0x210, 0x218, 0x220, 0x238, 0x350].map fun o => ⟨o, clusterDie (homeCluster p), 4, homeCluster p⟩)
  ++ (((List.range 2048).filter fun t => inPart p (tileX t) (tileY t)).map fun t => ⟨0x800, dieOfTile (pkg * 2048 + t), 5, t⟩)
  ++ (two.flatMap fun d => (offs 0x110 5).map fun o => ⟨o, d, 6, 0⟩)
  ++ ([0, 8].map fun o => ⟨o, 0, 7, 0⟩)
  ++ ((List.range p.h).map fun j => ⟨8, dieOfXY 0 (p.y0 + j), 8, p.y0 + j⟩)

/-- The snapshot copy of a counter: its address with the die left out. -/
def snapKey (a : BAddr) : Nat := bWord { a with die := if a.blk = 7 then 0 else a.die }

/-! ### SYSRD.B and SYSWR.B (R371, R378) -/

/-- A register whose read clears it is read by an event of its own (R394, R448, R457). -/
def clearRead (s : State) (sid dst lat : Nat) (a : BAddr) : Option (Instr × EvArg) :=
  let cid := cidOf sid
  let pkg := pkgOfC cid
  let pk := pkeyOf s cid
  match a.blk with
  | 8 => if a.off = 0x10 then some (.trcLostRead, { a := pkg * 32 + a.inst, b := pk % 64, c := sid, d := dst, e := lat }) else none
  | 6 => if a.off ≤ 0x88 then some (.ferPstatRead, { a := pkg * 36 + (a.die - 8) * 18 + a.off / 8, b := sid, c := dst, e := lat })
         else if a.off = 0x108 then some (.ferEvlostRead, { a := pk, b := a.die - 8, c := sid, d := dst, e := lat })
         else none
  | 4 => if a.off = 0x310 then some (.tduStepstRead, { a := pk, b := sid, c := dst, e := lat }) else none
  | _ => none

/-- The result of a block read reaches its register after the rest of its latency. -/
def readBack (sid dst lat : Nat) (x : Word) (s : State) : State :=
  post (s.now + lat) .resultWriteback { a := sid, b := (slotAt s sid).gen, c := dst, w := x } s

/-- SYSRD.B (R371): the register as it is at issue (log 31). -/
def execSysrdB (o : Ops) (s : State) : Res :=
  issue .s s do
    need9 o.xi.isEmpty
    let w ← srcB o
    dstReady (dstN o) (dstW o)
    let a ← blockM w false
    lastUseB o
    let s ← askM id
    let sid := s.cur.sid
    let cid := cidOf sid
    let pk := pkeyOf s cid
    let lat := blockLatency (tidOfC cid) a.die
    let (r, copy) := snapOf a
    let rid := dstRid o
    if !hasFeature s (pkgOfC cid) (blockFeature r) then writeResult rid lat 0#64
    else if copy then writeResult rid lat (((((partAt s pk).snap.find? fun x => x.1 == snapKey r)).map (·.2)).getD 0#64)
    else
      match clearRead s sid rid lat a with
      | some (ev, arg) => updM fun s => post s.now ev arg (if rid % 128 = 0 then s else addBusy sid (rid % 128) s)
      | none =>
        let v := (blockGet s (pkgOfC cid) (pk % 64) cid a).getD 0#64
        let waits := match guardOf s (dselOf s cid a.die) with
          | some g => !g.waiting.isEmpty
          | none => false
        if a.blk = 1 ∧ a.off = 0x50 ∧ waits = true ∧ v ≠ 0#64 then
          updM fun s => (freeValue s).2
          writeResult rid lat (freeValue s).1
        else writeResult rid lat v

/-- SYSWR.B (R371): the write is made by the register's own event, in the cycle of the issue; TDU_QCFG's at its end, since a TQPUT of that cycle
was checked before it (R439). -/
def execSyswrB (o : Ops) (s : State) : Res :=
  issue .s s do
    need9 o.xi.isEmpty
    if o.exr && o.c.toNat ≠ 0 then illegal 7
    let w ← srcA o
    let x ← srcB o
    let a ← blockM w true
    lastUse o
    updM fun s =>
      let cid := cidOf s.cur.sid
      let pkg := pkgOfC cid
      let pk := pkeyOf s cid
      let p := partAt s pk
      if !hasFeature s pkg (blockFeature a) then s else
      let plain := (Instr.registerWrite, ({ a := cid, b := w.toNat, w := x } : EvArg))
      let (t, ev, arg) : Nat × Instr × EvArg :=
        match a.blk with
        | 4 =>
          if a.off < 0x200 ∧ a.off % 0x20 = 0 then (1, plain)
          else if a.off < 0x200 ∧ a.off % 0x20 = 8 then (0, .tduQbaseWrite, { a := qKey pkg a.inst (a.off / 0x20), w := x })
          else if a.off = 0x200 ∨ a.off = 0x208 then (64, .tduDcbaseWrite, { a := pk, flag := a.off == 0x208, w := x })
          else if a.off = 0x228 then (0, .tduJdone, { a := cid, b := wfield x 0 16 })
          else if a.off = 0x230 then (0, .tduJkill, { a := cid, b := wfield x 0 16 })
          else if a.off = 0x308 then (0, .tduStep, { a := pk, b := pkg * 8192 + wfield x 0 13, c := wfield x 13 4 })
          else if a.off = 0x340 then (0, .tduTrbaseWrite, { a := pk, w := x })
          else (0, plain)
        | 8 => if a.off = 0x18 then (0, .trcPop, { a := pkg * 32 + a.inst, b := pk % 64 }) else (0, plain)
        | _ => (0, plain)
      let s := post (s.now + t) ev arg s
      if a.blk = 4 ∧ a.off = 0x300 then
        if wfield x 0 1 = 1 then post s.now .debugStopRequest { a := pk } s
        else if p.stopped then post s.now .debugResume { a := pk } s
        else s
      else s

/-! ### Writes of block registers -/

/-- The RW fields of a block register written (R368 to R372, R437, R448, R457). -/
def blockPut (cid : Nat) (a : BAddr) (x : Word) (s : State) : State :=
  let pkg := pkgOfC cid
  let pk := pkeyOf s cid
  match a.blk with
  | 1 => if a.off = 0x18 then modCore cid (fun c => { c with dsel := tput c.dsel a.die x }) s else s
  | 4 =>
    if a.off < 0x200 ∧ a.off % 0x20 = 0 then
      modQ (qKey pkg a.inst (a.off / 0x20)) (fun q => { q with
        en := wfield x 0 1 == 1
        rsz := if q.en then q.rsz else wfield x 8 4 }) s
    else if a.off = 0x300 then
      modPart pk (fun p => { p with bpstop := wfield x 2 1 == 1, stopreq := wfield x 0 1 == 1 && (p.stopreq || !p.stopped) }) s
    else if 0x320 ≤ a.off ∧ a.off ≤ 0x338 then
      modPart pk (fun p => { p with bps := p.bps.set ((a.off - 0x320) / 8) (word (wfield x 0 56)) }) s
    else if a.off = 0x348 then
      let cfg := x &&& 0xFFFF011F#64
      let s := modPart pk (fun p => { p with trcfg := cfg }) s
      if wfield cfg 8 1 = 1 ∧ wfield cfg 0 5 ≠ 0 then post (s.now + 256 * max 1 (wfield cfg 16 16)) .traceSample { a := pk, w := cfg } s
      else s
    else s
  | 5 =>
    if a.off < 0x800 then
      let k := (pkg * 2048 + a.inst) * 256 + a.off / 8
      { s with cnGrp := tput s.cnGrp k ((x &&& 0x3DFFF#64) ||| (tget s.cnGrp k 0#64 &&& 0x0000FFFF00000000#64)) }
    else s
  | 6 =>
    if a.off = 0x100 then
      let fk := pkg * 2 + (a.die - 8)
      let f := tget s.fer fk {}
      { s with fer := tput s.fer fk { f with lnotify := tput f.lnotify (pk % 64) (word (wfield x 0 44)) } }
    else s
  | 8 =>
    if a.off = 0 then
      let k := (pkg * 32 + a.inst) * 64 + pk % 64
      { s with trcp := tput s.trcp k { tget s.trcp k {} with notify := word (wfield x 0 44) } }
    else s
  | _ => s

/-- TDU_QBASE_WRITE (R437). -/
def execTduQbaseWrite (s : State) : Res :=
  .next (modQ s.ev.a (fun q => if q.en then q else { q with base := wfield s.ev.w 12 44 * 4096, rd := 0, wr := 0, ages := [] }) s)

/-- TDU_DCBASE_WRITE (R438): the array's address, or with `flag` its length. -/
def execTduDcbaseWrite (s : State) : Res :=
  let w := s.ev.w
  let num := s.ev.flag
  .next (modPart s.ev.a (fun p =>
    if num then { p with dcnum := min 65536 (wfield w 0 17) } else { p with dcbase := wfield w 12 44 * 4096 }) s)

/-- TDU_TRBASE_WRITE (R457). -/
def execTduTrbaseWrite (s : State) : Res :=
  let w := s.ev.w
  .next (modPart s.ev.a (fun p => { p with trbase := wfield w 12 44 * 4096, trwr := 0 }) s)

/-- TRC_POP (R394). -/
def execTrcPop (s : State) : Res :=
  let l := tget s.trcs s.ev.a []
  let part := s.ev.b
  .next { s with trcs := tput s.trcs s.ev.a (match l.find? fun r => r.part == part with
    | some r => l.erase r
    | none => l) }

/-- TRC_LOST_READ (R394): `e` is the read's latency. -/
def execTrcLostRead (s : State) : Res :=
  let k := s.ev.a * 64 + s.ev.b
  let x := tget s.trcp k {}
  .next (readBack s.ev.c s.ev.d s.ev.e (word x.lost) { s with trcp := tput s.trcp k { x with lost := 0 } })

/-- FER_PSTAT_READ (R448): the replay count is cleared. -/
def execFerPstatRead (s : State) : Res :=
  let p := portAt s s.ev.a
  .next (readBack s.ev.b s.ev.c s.ev.e (pstat p) (modPort s.ev.a (fun p => { p with replays := 0 }) s))

/-- FER_EVLOST_READ (R448). -/
def execFerEvlostRead (s : State) : Res :=
  let fk := s.ev.a / 64 * 2 + s.ev.b
  let part := s.ev.a % 64
  let f := tget s.fer fk {}
  .next (readBack s.ev.c s.ev.d s.ev.e (word (tget f.evlost part 0)) { s with fer := tput s.fer fk { f with evlost := tdel f.evlost part } })

/-- TDU_STEPST_READ (R457). -/
def execTduStepstRead (s : State) : Res :=
  let pk := s.ev.a
  let v := (blockGet s (pk / 64) (pk % 64) (cidOf s.ev.b) ⟨0x310, 0, 4, homeCluster (partAt s pk)⟩).getD 0#64
  .next (readBack s.ev.b s.ev.c s.ev.e v
    (modPart pk (fun p => { p with stepDone := false, stepWaited := false, stepNotReady := false }) s))

end Sys2Proof.Machine
end

