-- ==== Sys2Proof/Machine/Flags.lean ====
section
/-!
DEFINITION. The part has no flags; conditions are results. Every compare and branch condition and every integer result of
the scalar unit stands here (R216 to R224, spec/10).
-/

namespace Sys2Proof.Machine

def sltW (a b : Word) : Word := ofBool (a.slt b)
def sltuW (a b : Word) : Word := ofBool (a.ult b)
def seqW (a b : Word) : Word := ofBool (a == b)

/-- Bits 127:64 of the signed product (R216). -/
def mulhW (a b : Word) : Word := BitVec.ofInt 64 (a.toInt * b.toInt / 2 ^ 64)
def mulhuW (a b : Word) : Word := word (a.toNat * b.toNat / 2 ^ 64)

/-- Division (R217): quotient and remainder. -/
def divideS (a b : Word) : Word × Word :=
  if b = 0#64 then (0xFFFFFFFFFFFFFFFF#64, a)
  else if a = 0x8000000000000000#64 ∧ b = 0xFFFFFFFFFFFFFFFF#64 then (0x8000000000000000#64, 0#64)
  else
    let q := BitVec.ofInt 64 (a.toInt.tdiv b.toInt)
    (q, a - q * b)

def divideU (a b : Word) : Word × Word :=
  if b = 0#64 then (0xFFFFFFFFFFFFFFFF#64, a)
  else
    let q := word (a.toNat / b.toNat)
    (q, a - q * b)

/-- Significant bits of a magnitude: 0 to 64. -/
def sigBits (n : Nat) : Nat := if n = 0 then 0 else n.log2 + 1

/-- The latency of a division (R215). -/
def divLatency (signed : Bool) (a b : Word) : Nat :=
  if b = 0#64 then 18 else 18 + (sigBits (if signed then a.toInt.natAbs else a.toNat) + 3) / 4

def minS (a b : Word) : Word := if a.sle b then a else b
def maxS (a b : Word) : Word := if b.sle a then a else b
def minU (a b : Word) : Word := if a.ule b then a else b
def maxU (a b : Word) : Word := if b.ule a then a else b

/-- Leading zeros of a word, 0 to 64 (R218). -/
def clzW (b : Word) : Word := word (64 - sigBits b.toNat)

/-- One bits among the low `n` bits. -/
def popNat (x : Nat) : Nat → Nat
  | 0 => 0
  | n + 1 => popNat x n + (if x.testBit n then 1 else 0)

def popcW (b : Word) : Word := word (popNat b.toNat 64)

/-- The field of BFX (R219). -/
def bfxW (b : Word) (p w : Nat) (sign : Bool) : Word :=
  let f := wfield b p w
  if sign && f.testBit (w - 1) then BitVec.ofInt 64 ((f : Int) - 2 ^ w) else word f

/-- BFI (R219): bits [p + w - 1 : p] of a replaced by b's low w bits. -/
def bfiW (a b : Word) (p w : Nat) : Word :=
  word (a.toNat - nfield a.toNat p w * 2 ^ p + b.toNat % 2 ^ w * 2 ^ p)

/-- FCMP and the float codes of VCMP (R222). -/
def fcmp (code : Nat) (a b : Lane) : Bool :=
  let un := Num.isNan a || Num.isNan b
  match code with
  | 0 => !un && decide (Num.key a = Num.key b)
  | 1 => !un && decide (Num.key a < Num.key b)
  | 2 => !un && decide (Num.key a ≤ Num.key b)
  | 3 => un
  | _ => un || decide (Num.key a ≠ Num.key b)

/-- The low half of a word as a binary32 pattern. -/
def lo32 (a : Word) : Lane := a.truncate 32
def ofLane (x : Lane) : Word := x.zeroExtend 64

end Sys2Proof.Machine
end

