-- ==== Sys2Proof/Machine/Matrix.lean ====
section
/-!
DEFINITION. The matrix unit and the epilogue engine of a tile (R318 to R331, spec/13; R77 to R82, spec/03; R401, R464):
MXC, MXCAP, EPI, their commands and their events.

Number formats: `KBlk` is one prepared K-block (R77, R78, R80).
-/

namespace Sys2Proof.Num

/-- One K-block of 16 elements, prepared: whether it makes the block sum NaN (R82), the signed magnitudes and the exponent
of their unit (R78), and for LG6N the sign, log code and micro-exponent of each element (R80). -/
structure KBlk where
  nan : Bool := false
  els : List Int := []
  exp : Int := 0
  lg : List (Bool × Nat × Nat) := []
deriving DecidableEq, Repr

/-- The largest of some integers. -/
def maxInt : List Int → Int
  | [] => 0
  | [x] => x
  | x :: xs => max x (maxInt xs)

/-- An aligned K-block of floating-point elements of width `w` (R78); `sc` is the scale exponent of an MX block. -/
def alignBlk (f : FFmt) (w : Nat) (sc : Int) (codes : List Nat) : KBlk :=
  let vs := codes.map f.decode
  let es := vs.filterMap fun v => match v with
    | .fin _ m e => if m == 0 then none else some (e + (f.fb : Int))
    | _ => none
  let emax := maxInt es
  let p := f.fb + 1
  let els := vs.map fun v => match v with
    | .fin s m e =>
      if m == 0 then 0 else sgn s ((m <<< (w - p)) >>> (emax - (e + (f.fb : Int))).toNat)
    | _ => 0
  { nan := vs.any fun v => match v with
      | .fin _ _ _ => false
      | _ => true
    els := els
    exp := emax - (w : Int) + 1 + sc }

/-- A K-block of integers in units of 2^exp (R78). -/
def intBlk (exp : Int) (codes : List Nat) : KBlk :=
  { els := codes.map fun c => (BitVec.ofNat 8 c).toInt, exp := exp }

/-- K-block `b` of the 128 elements that `bs` holds in format `code` (R77, R78, R80). -/
def kBlk (code : Nat) (bs : List Byte) (b : Nat) : KBlk :=
  let part (lo n : Nat) : Nat := leNat ((bs.drop lo).take n)
  let codes (x w lo : Nat) : List Nat := (List.range 16).map fun j => nfield x (lo + w * j) w
  if code = 8 then
    let n := part (14 * b) 14
    let cs := (List.range 16).map (lgCode n)
    { nan := n % 256 == 255 || cs.any (fun c => c == 32)
      exp := (n % 256 : Nat)
      lg := (List.range 16).map fun j => (nbit (cs.getD j 0) 5, cs.getD j 0 % 32, nfield n (8 + j / 2) 1) }
  else if code = 2 then alignBlk bf16F 16 0 (codes (part (32 * b) 32) 16 0)
  else if code = 4 then alignBlk e4m3F 8 0 (codes (part (16 * b) 16) 8 0)
  else if code = 5 then alignBlk e5m2F 8 0 (codes (part (16 * b) 16) 8 0)
  else if code = 6 then intBlk 0 (codes (part (16 * b) 16) 8 0)
  else
    let w := mxBits code
    let n := part ((1 + 4 * w) * (b / 2)) (1 + 4 * w)
    let sc : Int := ((n % 256 : Nat) : Int) - 127
    let cs := codes n w (8 + 16 * w * (b % 2))
    let k := if code = 9 then alignBlk e4m3F 8 sc cs else if code = 10 then alignBlk e2m1F 4 sc cs else intBlk (sc - 6) cs
    { k with nan := k.nan || n % 256 == 255 }

/-- The exact signed sum of the products of two lists. -/
def dot : List Int → List Int → Int
  | a :: as, b :: bs => a * b + dot as bs
  | _, _ => 0

/-- One product of log codes in 2^-20 (R80). -/
def lgProd (a b : Bool × Nat × Nat) : Int :=
  if a.2.1 = 0 ∨ b.2.1 = 0 then 0
  else
    let t := a.2.1 + b.2.1
    sgn (a.1 != b.1) (lgTab t <<< (t / 4 + 2 - a.2.2 - b.2.2))

def lgDot : List (Bool × Nat × Nat) → List (Bool × Nat × Nat) → Int
  | a :: as, b :: bs => lgProd a b + lgDot as bs
  | _, _ => 0

/-- The block sum, rounded once (R79 to R82). -/
def blockSum (code : Nat) (a b : KBlk) : Lane :=
  if a.nan || b.nan then nan32
  else if code = 8 then enc32 (ofInt (lgDot a.lg b.lg) (a.exp + b.exp - 274))
  else enc32 (ofInt (dot a.els b.els) (a.exp + b.exp))

/-- The accumulator after the eight K-blocks of one row and column, in ascending K (R81). -/
def accumulate (code : Nat) (acc : Lane) : List KBlk → List KBlk → Lane
  | a :: as, b :: bs => accumulate code (fadd acc (blockSum code a b)) as bs
  | _, _ => acc

/-- A run of 128 elements as its eight K-blocks. -/
def kBlks (code : Nat) (bs : List Byte) : List KBlk := (List.range 8).map (kBlk code bs)

/-- SiLU through a 64-value table (R329). -/
def silu (tab : List Lane) (v : Lane) : Lane :=
  if isNan v then nan32
  else
    let t := fmul (fadd v 0x41000000#32) 0x40800000#32
    let t := fmin (fmax t 0#32) 0x427C0000#32
    let i := min (toIntSat .rtz 0 63 (dec32 t)).toNat 62
    let f := fsub t (enc32 (ofInt (i : Int) 0))
    let ti := tab.getD i 0#32
    let s := fadd ti (fmul f (fsub (tab.getD (i + 1) 0#32) ti))
    fmul v s

end Sys2Proof.Num

namespace Sys2Proof.Machine

/-! ### Fields of a descriptor (R321 to R328) -/

def mw (c : Cmd) (i : Nat) : Word := c.desc.getD i 0#64
def mCmd (c : Cmd) : Nat := wfield (mw c 0) 0 4
def mTag (c : Cmd) : Nat := wfield (mw c 0) 4 16
def mCap (c : Cmd) : Nat := wfield (mw c 0) 32 32

/-- The bytes of 128 elements in a format (PSPAN). -/
def span128 (code : Nat) : Nat :=
  match Num.fmtRow code with
  | some r => 128 / r.ue * r.ub
  | none => 128

/-- The macros a matrix command uses. -/
def mMacros (c : Cmd) : List Nat :=
  match mCmd c with
  | 0 => [wfield (mw c 2) 32 3]
  | 1 => (List.range 6).filter fun m => (mw c 2).toNat.testBit (39 + m)
  | 2 => []
  | _ => [0, 1, 2, 3, 4, 5]

/-- The spans of accumulator columns a matrix command writes. -/
def mCols (c : Cmd) : List (Nat × Nat) :=
  match mCmd c with
  | 0 => []
  | 1 => (mMacros c).map fun m => (128 * m, 128 * m + 128)
  | 2 => [(wfield (mw c 1) 0 10, wfield (mw c 1) 0 10 + wfield (mw c 1) 10 10)]
  | _ => [(0, 768)]

/-- The columns an epilogue command reads. -/
def eCols (c : Cmd) : List (Nat × Nat) := [(wfield (mw c 2) 0 10, wfield (mw c 2) 0 10 + wfield (mw c 2) 10 10)]

def overlap (a b : List (Nat × Nat)) : Bool := a.any fun p => b.any fun q => decide (p.1 < q.2) && decide (q.1 < p.2)

/-- Two matrix commands may not run beside each other (R320). -/
def mConflict (a b : Cmd) : Bool := ((mMacros a).any fun m => (mMacros b).contains m) || overlap (mCols a) (mCols b)

/-- The limits of a matrix descriptor (R321 to R325). -/
def mOk (d : List Word) : Bool :=
  let w0 := d.getD 0 0#64
  let w1 := d.getD 1 0#64
  let w2 := d.getD 2 0#64
  let w3 := d.getD 3 0#64
  wfield w0 21 11 == 0 && w3 == 0#64 &&
  match wfield w0 0 4 with
  | 0 => decide (wfield w2 32 3 ≤ 5) && wfield w2 35 29 == 0
  | 1 => decide (1 ≤ wfield w2 32 7) && decide (wfield w2 32 7 ≤ 64) && wfield w2 52 12 == 0
  | 2 => decide (1 ≤ wfield w1 10 10) && decide (wfield w1 10 10 ≤ 768) && decide (1 ≤ wfield w1 26 7)
      && decide (wfield w1 26 7 ≤ 64) && wfield w1 33 31 == 0 && w2 == 0#64
  | 3 => [2, 4, 5, 6, 8, 9, 10, 11].contains (wfield w1 0 4) && decide (wfield w1 4 3 ≤ 6) && wfield w1 7 57 == 0 && w2 == 0#64
  | _ => false

/-- A table pointer of an epilogue: F32 where it is used, zero where it is not (R328). -/
def ePtrOk (used : Bool) (p : Word) : Bool := if used then wfield p 60 4 == 1 else p == 0#64

/-- The limits of an epilogue descriptor (R328); a row that lies outside the address space is left to its own check (R92). -/
def eOk (d : List Word) : Bool :=
  let w0 := d.getD 0 0#64
  let w2 := d.getD 2 0#64
  let p := d.getD 1 0#64
  let act := wfield w0 21 3
  let ncol := wfield w2 10 10
  wfield w0 0 4 == 0 && decide (act ≤ 3) && wfield w0 25 7 == 0 && wfield w2 33 31 == 0 && d.getD 7 0#64 == 0#64
  && decide (1 ≤ ncol) && decide (ncol ≤ 768) && decide (1 ≤ wfield w2 26 7) && decide (wfield w2 26 7 ≤ 64)
  && wfield p 60 4 != 0 && inWindow (wfield p 0 56)
  && ((List.range (wfield w2 26 7)).all fun (r : Nat) =>
      let a : Int := (wfield p 0 56 : Nat) + (r : Int) * signed32 (wfield (d.getD 3 0#64) 32 32)
      decide (a < 0) || decide ((vaTop : Nat) ≤ a) || inWindow a.toNat)
  && (match Num.fmtRow (wfield p 60 4) with
      | some r => ncol % r.ue == 0
      | none => true)
  && ePtrOk (wfield w0 24 1 == 1) (d.getD 4 0#64) && (act == 2 || d.getD 5 0#64 == 0#64) && ePtrOk (act == 3) (d.getD 6 0#64)

/-! ### MXCAP (R318) -/

/-- The capability that commands are checked against now. -/
def capNow (s : State) (t : Tile) : Nat :=
  match (t.capNext.filter fun p => decide (p.2 ≤ s.now)).getLast? with
  | some p => p.1
  | none => t.cap

/-- MXCAP (R318). -/
def execMxcap (o : Ops) (s : State) : Res :=
  let n := (bitsR o).1
  issue .b s do
    oneXi o
    need9 (decide (n = 0))
    let b ← srcB o
    lastUseB o
    updM fun s => modTile (tidOfC (cidOf s.cur.sid)) (fun t => { t with
      cap := capNow s t
      capNext := (t.capNext.filter fun p => decide (s.now < p.2)) ++ [(wfield b 0 32, s.now + 2)] }) s

/-- MXCAP.GET (R318). -/
def execMxcapGet (o : Ops) (s : State) : Res :=
  let n := (bitsR o).1
  issue .b s do
    oneXi o
    need9 (decide (n = 1))
    let s ← askM id
    let t := tileAt s (tidOfC (cidOf s.cur.sid))
    dstReady (dstN o) (dstW o)
    writeResult (dstRid o) 1 (word (match t.capNext.getLast? with
      | some p => p.1
      | none => t.cap))

/-! ### Issue of MXC and EPI (R319, R327) -/

/-- The outward trip of a command, and of its notice (R320). -/
def mTrip (own tid : Nat) : Nat := if own = tid then 4 else 6 + 3 * hops own tid + 8 * crossings own tid

/-- Steps 1 to 6 of R92 for `n` bytes from `lo`, all in the target tile's scratchpad (R319 step 5); `a` is the alignment. -/
def readSpanM (hn dp tid : Nat) (p : Word) (lo : Int) (n : Nat) (stride : Int) : M Unit := do
  let r ← fmtM p
  let va := wfield p 0 56
  if lo < 0 ∨ lo + n > (vaTop : Nat) then trapM 0x0D p
  else do
    let al := if r.cls = 0 ∨ r.ue ≠ 1 then 1 else r.ub
    alignM va al
    alignM ((va : Int) + stride).toNat al
    let e := lo.toNat + n - 1
    limitM hn dp (tileOfVa tid lo.toNat == some tid && tileOfVa tid e == some tid)
    let s ← askM id
    let sid := s.cur.sid
    match rangeCheck6 s (cidOf sid) (userMode s sid) lo.toNat n true false with
    | .ok _ => pure ()
    | .error (cause, tv) => trapM cause (word tv)

/-- The write span of each destination row of an epilogue (R327). -/
def writeRowsM (tid : Nat) (p : Word) (va stride : Int) (n : Nat) (r : Num.FmtRow) : Nat → Nat → M Unit
  | 0, _ => pure ()
  | k + 1, i => do
    let a : Int := va + (i : Int) * stride
    if a < 0 ∨ a + n > (vaTop : Nat) then trapM 0x0D p
    else do
      alignM a.toNat (if r.ue ≠ 1 then 1 else r.ub)
      let _ ← rangeM a.toNat n false true
      let s ← askM id
      match tileOfVa tid a.toNat with
      | some t => if stepRefuses s s.cur.sid t then trapM 7 (word a.toNat) else pure ()
      | none => pure ()
      writeRowsM tid p va stride n r k (i + 1)

/-- The issue of MXC (`epi` false) or EPI. -/
def matrixOp (epi : Bool) (o : Ops) (s : State) : Res :=
  issue .b s do
    let eng := if epi then 1 else 0
    let tw ← srcC o
    let (hn, h) ← portM o eng (if epi then 64 else 32)
    let (dp, d) ← descM o (if epi then 64 else 32)
    let s ← askM id
    let own := tidOfC (cidOf s.cur.sid)
    match (if wfield tw 12 52 = 0 then windowTile own (tw.toNat * 2 ^ 20) else none) with
    | none => trapM 6 tw
    | some tid => do
      limitM hn dp (if epi then eOk d else mOk d)
      let c := { newCmd s eng h.ch (if epi then 8 else 6) hn d (wfield (d.getD 0 0#64) 20 1 == 1) with tile := tid }
      let w1 := d.getD 1 0#64
      let w2 := d.getD 2 0#64
      let xch ← (if epi then do
          let nrow := wfield w2 26 7
          let act := wfield (d.getD 0 0#64) 21 3
          let bp := d.getD 4 0#64
          let tp := d.getD 6 0#64
          if c.desc.getD 4 0#64 != 0#64 then readSpanM hn dp tid bp (wfield bp 0 56 : Nat) (4 * wfield w2 10 10) 0
          if act = 3 then readSpanM hn dp tid tp (wfield tp 0 56 : Nat) 256 0
          let r ← fmtM w1
          let n := wfield w2 10 10 / r.ue * r.ub
          let va := wfield w1 0 56
          writeRowsM tid w1 va (signed32 (wfield (d.getD 3 0#64) 32 32)) n r nrow 0
          pure (rowsXchg s s.cur.sid tid va (signed32 (wfield (d.getD 3 0#64) 32 32)) n nrow)
        else if mCmd c ≤ 1 then do
          let rows := if mCmd c = 0 then 128 else wfield w2 32 7
          let st := signed32 (wfield w2 0 32)
          let r ← fmtM w1
          let (lo, n) := rowSpan w1 (128 / r.ue * r.ub) rows st
          readSpanM hn dp tid w1 lo n (if rows = 1 then 0 else st)
          pure false
        else pure false)
      cplM hn dp eng h.ch c.cpl
      drainM
      portSlotM o hn h
      lastUseB o
      updM fun s =>
        let s := if xch then xchgIssued s.cur.sid s else s
        let (id, s) := addCmd { c with xchg := xch } s
        post (s.now + mTrip own tid) .matrixCommandArrival { a := id } s

/-- MXC (R319). -/
def execMxc (o : Ops) (s : State) : Res := matrixOp false o s
/-- EPI (R327). -/
def execEpi (o : Ops) (s : State) : Res := matrixOp true o s

/-! ### Notices (R320) -/

/-- A command's notice leaves for its core, its last write acknowledged (R52); an error is also logged at the tile. -/
def mNotice (id st : Nat) (late : Nat) (c : Cmd) (s : State) : State :=
  let own := tidOfC (cidOf c.sid)
  let s := if c.xchg then xchgDone c.sid c.gang s else s
  let s := if st = 0 then s else modTile c.tile (fun t => { t with errs := t.errs ++ [(cidOf c.sid, st)] }) s
  post (s.now + mTrip own c.tile - late) .matrixNoticeArrival { a := id, b := st } (modCmd id (fun c => { c with placed := true, xchg := false }) s)

/-- MATRIX_NOTICE_ARRIVAL (R320): the port slot is free; an element is placed where the command asks for one or failed. -/
def execMatrixNoticeArrival (s : State) : Res :=
  let id := s.ev.a
  match tfind s.cmds id with
  | none => .next s
  | some c =>
    let c := { c with slotFree := true, status := s.ev.b, cpl := c.cpl || s.ev.b != 0 }
    .next (complete id c (mTag c) false { s with cmds := tput s.cmds id c })

/-! ### Arrival (R320, R330) -/

/-- A command of a lower core, or a matrix command before an epilogue command, that arrives in this cycle too (R320,
R330). -/
def arrivesFirst (s : State) (c : Cmd) : Bool :=
  s.agenda.any fun e => e.1 ≤ s.now && e.2.1 == .matrixCommandArrival && (match tfind s.cmds e.2.2.a with
    | some d => d.tile == c.tile && (decide (d.eng < c.eng) || (d.eng == c.eng && decide (cidOf d.sid < cidOf c.sid)))
    | none => false)

/-- MATRIX_COMMAND_ARRIVAL (R320, R428). -/
def execMatrixCommandArrival (s : State) : Res :=
  let id := s.ev.a
  match tfind s.cmds id with
  | none => .next s
  | some c =>
    let cid := cidOf c.sid
    let own := tidOfC cid
    let t := tileAt s c.tile
    let q := if c.eng = 0 then t.inq else t.einq
    if arrivesFirst s c then .next (post s.now .matrixCommandArrival { a := id } s)
    else if c.tile ≠ own ∧ routerOk s c.tile (coreAt s cid).tenant (coreAt s cid).part false = false then
      let s := logReject (mtuOfTile c.tile) cid (windowBase + c.tile % 2048 * 2 ^ 20) (coreAt s cid).tenant s
      .next (post (s.now + mTrip own c.tile) .matrixNoticeArrival { a := id, b := 1 } s)
    else if 8 ≤ q.length then
      .next (post (s.now + mTrip own c.tile + 64) .matrixCommandResend { a := id } s)
    else
      let s := modCmd id (fun c => { c with rank := t.rank + 1 }) s
      let s := modTile c.tile (fun t => { t with
        rank := t.rank + 1
        inq := if c.eng = 0 then t.inq ++ [id] else t.inq
        einq := if c.eng = 0 then t.einq else t.einq ++ [id] }) s
      .next (post s.now (if c.eng = 0 then .shadowEntry else .epiStart) { a := if c.eng = 0 then c.tile else id } s)

/-- MATRIX_COMMAND_RESEND (R320). -/
def execMatrixCommandResend (s : State) : Res :=
  match tfind s.cmds s.ev.a with
  | none => .next s
  | some c => .next (post (s.now + mTrip (tidOfC (cidOf c.sid)) c.tile) .matrixCommandArrival { a := s.ev.a } s)

/-! ### The shadow set and the start of a command (R320, R326, R330) -/

/-- The event that starts a matrix command. -/
def mStartEvent (c : Cmd) : Instr :=
  match mCmd c with
  | 0 => .loadb
  | 1 => .run_
  | 2 => .clear_
  | _ => .mode_

/-- SHADOW_ENTRY (R320): the head of the input queue enters an empty shadow set, and its capability is checked. -/
def execShadowEntry (s : State) : Res :=
  let tid := s.ev.a
  let t := tileAt s tid
  if t.shadow.isSome then .next s
  else
    match t.inq with
    | [] => .next s
    | id :: rest =>
      let s := modTile tid (fun t => { t with inq := rest }) s
      match tfind s.cmds id with
      | none => .next (post s.now .shadowEntry { a := tid } s)
      | some c =>
        if capNow s t = 0 ∨ capNow s t ≠ mCap c then
          .next (post s.now .shadowEntry { a := tid } (mNotice id 1 0 c s))
        else
          .next (post (s.now + 1) (mStartEvent c) { a := id } (modTile tid (fun t => { t with shadow := some id }) s))

/-- A running matrix command that `c` may not run beside. -/
def mBlocked (s : State) (t : Tile) (c : Cmd) : Bool :=
  (t.active.toList ++ t.beside).any fun i => match tfind s.cmds i with
    | some d => mConflict c d
    | none => false

/-- The command may start beside the active one, or there is none (R320). -/
def mMayRun (s : State) (t : Tile) (c : Cmd) : Bool :=
  if mCmd c = 3 then t.active.isNone && t.beside.isEmpty
  else (t.active.isNone || mCmd c == 0 || mCmd c == 2) && !mBlocked s t c

/-- The columns an epilogue command has still to read: all of them until it converts its last row. -/
def eLeft (e : Cmd) : List (Nat × Nat) :=
  let c0 := wfield (mw e 2) 0 10
  let n := wfield (mw e 2) 10 10
  let m := wfield (mw e 2) 26 7
  if n * m ≤ e.row then [] else [(c0 + (e.row - n * (m - 1)), c0 + n)]

/-- An epilogue command accepted earlier has still to read a column that `c` writes (R330). -/
def eStillReads (s : State) (t : Tile) (c : Cmd) : Bool :=
  (t.eactive.toList ++ t.einq).any fun i => match tfind s.cmds i with
    | some e => decide (e.rank < c.rank) && overlap (mCols c) (eLeft e)
    | none => false

/-- The bytes [lo, lo+n) of a scratchpad touch the frames (R326). -/
def touchesFrames (lo n : Nat) : Bool := n != 0 && decide (lo % 2 ^ 20 < 2 ^ 20) && decide (0xF5000 < lo % 2 ^ 20 + n)

/-- The lowest address and length of the rows a LOADB or RUN reads. -/
def mSpan (c : Cmd) : Int × Nat :=
  rowSpan (mw c 1) (span128 (wfield (mw c 1) 60 4)) (if mCmd c = 0 then 128 else wfield (mw c 2) 32 7)
    (signed32 (wfield (mw c 2) 0 32))

/-- The conditions that only the unit can see (R326). -/
def mInvalid (t : Tile) (c : Cmd) : Bool :=
  let w1 := mw c 1
  let ptrBad := wfield w1 60 4 != t.fmt || touchesFrames (mSpan c).1.toNat (mSpan c).2
  let bad (m : Nat) : Bool := decide (t.nmac ≤ m)
  match mCmd c with
  | 0 => ptrBad || (mMacros c).any bad
  | 1 => ptrBad || t.nmac == 0 || (mMacros c).isEmpty || ((mMacros c).any fun m => bad m || !t.loaded.contains m)
      || decide (64 < wfield (mw c 2) 45 6 + wfield (mw c 2) 32 7)
  | 2 => t.nmac == 0 || decide (128 * t.nmac < wfield w1 0 10 + wfield w1 10 10)
      || decide (64 < wfield w1 20 6 + wfield w1 26 7)
  | _ => false

/-- The bytes of rows, one after another, of the target's scratchpad. -/
def readRows (s : State) (tid va : Nat) (stride : Int) (n : Nat) : Nat → Nat → List Byte
  | 0, _ => []
  | k + 1, i => mread s.mem (spKey tid ((va : Int) + (i : Int) * stride).toNat) n ++ readRows s tid va stride n k (i + 1)

/-- The registers that MODE must move to their frames: those parked in a column that it allocates (R38), in ascending strand and
register. -/
def modeMoves (s : State) (tid nmac : Nat) : List Nat :=
  (s.place.filter fun p => (match p.2 with
    | .column c => decide (c < 128 * nmac)
    | _ => false) && tidOfC (fileCore p.1) == tid).map (·.1)

/-- The cycles of a command (R322 to R325). -/
def mCycles (s : State) (t : Tile) (c : Cmd) : Nat :=
  match mCmd c with
  | 0 => (128 * span128 t.fmt + 511) / 512
  | 1 => 8 + wfield (mw c 2) 32 7 * (match t.fmt with
      | 8 => 2
      | 10 => 4
      | 2 => 16
      | _ => 8)
  | 2 => 1 + (wfield (mw c 1) 10 10 * wfield (mw c 1) 26 7 + 511) / 512
  | _ => 4 + (modeMoves s c.tile (wfield (mw c 1) 4 3)).length

/-- Starts the shadow command, where it may start: it waits for the writes its push released (R147), for the unit, and for
epilogues accepted earlier (R330). Its input bytes are read here. -/
def mStart (s : State) : Res :=
  let id := s.ev.a
  match tfind s.cmds id with
  | none => .next s
  | some c =>
    let t := tileAt s c.tile
    if t.shadow ≠ some id then .next s
    else if !mMayRun s t c then .next s
    else if partHeld s (c.tile * 4) then .next (post (s.now + 1) (mStartEvent c) { a := id } s)
    else if !released s c.entries || eStillReads s t c then .next (post (s.now + 1) (mStartEvent c) { a := id } s)
    else
      let run (t : Tile) : Tile :=
        if t.active.isNone then { t with shadow := none, active := some id }
        else { t with shadow := none, beside := t.beside ++ [id] }
      let s := post s.now .shadowEntry { a := c.tile } (modTile c.tile run s)
      if mInvalid t c then .next (post (s.now + 1) .matrixCommandComplete { a := id, b := 5 } s)
      else
        let bs := if mCmd c ≤ 1 then
            readRows s c.tile (wfield (mw c 1) 0 20) (signed32 (wfield (mw c 2) 0 32)) (span128 t.fmt)
              (if mCmd c = 0 then 128 else wfield (mw c 2) 32 7) 0
          else []
        let n := mCycles s t c
        let s := if mCmd c = 3 then
            (modeMoves s c.tile (wfield (mw c 1) 4 3)).foldl (fun s k =>
              regToFrame (k / 128) (k % 128) { s with place := tput s.place k .frame }) s
          else s
        .next (post (s.now + n) .matrixCommandComplete { a := id } (modCmd id (fun c => { c with data := bs }) s))

/-- MODE (R322). -/
def execMode (s : State) : Res := mStart s
/-- LOADB (R323). -/
def execLoadb (s : State) : Res := mStart s
/-- Loaded macros whose parity check fails, by the mask `bad`, which the environment gives (log 49): each is counted, and is marked
unloaded (R463, R464). -/
def parityFails (tid bad : Nat) (s : State) : State :=
  let failed := ((tileAt s tid).loaded.filter fun m => bad.testBit m).length
  modTile tid (fun t => { t with loaded := t.loaded.filter fun m => !bad.testBit m })
    ((List.range failed).foldl (fun s _ => bumpLife (tid / 2048) (0x70000 + dieOfTile tid) s) s)

/-- RUN (R324), whose macros' parity is checked, with `c` the mask of those that fail (R464): it completes INVALID then (R326). -/
def execRun (s : State) : Res :=
  mStart (match tfind s.cmds s.ev.a with
    | some c => if s.ev.c ≠ 0 ∧ (tileAt s c.tile).shadow = some s.ev.a then parityFails c.tile s.ev.c s else s
    | none => s)
/-- CLEAR (R325). -/
def execClear (s : State) : Res := mStart s

/-! ### Effects -/

/-- The key of an accumulator. -/
def accKey (tid row col : Nat) : Nat := tid * 65536 + col * 64 + row
def accGet (s : State) (tid row col : Nat) : Lane := tget s.acc (accKey tid row col) 0#32
def accPut (tid row col : Nat) (x : Lane) (s : State) : State := { s with acc := tput s.acc (accKey tid row col) x }

/-- One row of a RUN through one macro. -/
def runRow (fmt tid row m : Nat) (acc : Bool) (a : List Num.KBlk) : List (List Num.KBlk) → Nat → State → State
  | [], _, s => s
  | b :: bs, n, s =>
    let v := Num.accumulate fmt (if acc then accGet s tid row (128 * m + n) else 0#32) a b
    runRow fmt tid row m acc a bs (n + 1) (accPut tid row (128 * m + n) v s)

/-- The columns of a macro. -/
def macroCols (s : State) (tid m fmt : Nat) : List (List Num.KBlk) :=
  let bs := tget s.macros (tid * 8 + m) []
  let n := span128 fmt
  (List.range 128).map fun i => Num.kBlks fmt ((bs.drop (n * i)).take n)

/-- What a command does at its end. -/
def mApply (t : Tile) (c : Cmd) (s : State) : State :=
  let tid := c.tile
  let w1 := mw c 1
  let w2 := mw c 2
  match mCmd c with
  | 0 =>
    let m := wfield w2 32 3
    let s := if s.agenda.any fun e => e.2.1 == .macroScrub && e.2.2.a == tid then s else post (s.now + 25000000) .macroScrub { a := tid } s
    modTile tid (fun t => { t with loaded := if t.loaded.contains m then t.loaded else t.loaded ++ [m] })
      { s with macros := tput s.macros (tid * 8 + m) c.data }
  | 1 =>
    let n := span128 t.fmt
    let row0 := wfield w2 45 6
    let cols := (mMacros c).map fun m => (m, macroCols s tid m t.fmt)
    (List.range (wfield w2 32 7)).foldl (fun s r =>
      let a := Num.kBlks t.fmt ((c.data.drop (n * r)).take n)
      cols.foldl (fun s mc => runRow t.fmt tid (row0 + r) mc.1 (w2.toNat.testBit 51) a mc.2 0 s) s) s
  | 2 =>
    (List.range (wfield w1 10 10)).foldl (fun s i => (List.range (wfield w1 26 7)).foldl (fun s j =>
      accPut tid (wfield w1 20 6 + j) (wfield w1 0 10 + i) 0#32 s) s) s
  | _ =>
    let nm := wfield w1 4 3
    let keep := 128 * min t.nmac nm
    modTile tid (fun t => { t with fmt := wfield w1 0 4, nmac := nm, loaded := [] })
      { s with acc := s.acc.filter fun p => p.1 / 65536 != tid || decide (p.1 % 65536 / 64 < keep) }

/-- MATRIX_COMMAND_COMPLETE (R320, R326): the command's effect, its notice, and the start of the shadow command. An INVALID
command has completed when it started; its cycle ends here. -/
def execMatrixCommandComplete (s : State) : Res :=
  let id := s.ev.a
  match tfind s.cmds id with
  | none => .next s
  | some c =>
    let t := tileAt s c.tile
    if t.active ≠ some id ∧ t.beside.contains id = false then .next s
    else
      let s := if s.ev.b = 0 then mNotice id 0 0 c (mApply t c s) else mNotice id s.ev.b 1 c s
      let s := modTile c.tile (fun t => { t with
        active := if t.active = some id then none else t.active
        beside := t.beside.filter (· != id) }) s
      .next (match t.shadow with
        | some i => (match tfind s.cmds i with
            | some d => post s.now (mStartEvent d) { a := i } s
            | none => s)
        | none => post s.now .shadowEntry { a := c.tile } s)

/-- MACRO_SCRUB (R464): the parity of each loaded macro is checked; those that fail (the mask `b`, which the environment
gives, log 49) are marked unloaded; the next scrub comes 10 ms later. -/
def execMacroScrub (s : State) : Res :=
  let tid := s.ev.a
  .next (post (s.now + 25000000) .macroScrub { a := tid } (parityFails tid s.ev.b s))

/-! ### The epilogue engine (R327 to R331, R401) -/

/-- A matrix command accepted earlier, and not complete, writes a column the epilogue reads (R330). -/
def mStillWrites (s : State) (t : Tile) (e : Cmd) : Bool :=
  (t.active.toList ++ t.beside ++ t.shadow.toList ++ t.inq).any fun i => match tfind s.cmds i with
    | some c => decide (c.rank < e.rank) && overlap (mCols c) (eCols e)
    | none => false

/-- The destination address of row r. -/
def eRowVa (c : Cmd) (r : Nat) : Nat :=
  ((wfield (mw c 1) 0 56 : Int) + (r : Int) * signed32 (wfield (mw c 3) 32 32)).toNat

/-- The bytes of one destination row. -/
def eRowBytes (c : Cmd) : Nat :=
  match Num.fmtRow (wfield (mw c 1) 60 4) with
  | some r => wfield (mw c 2) 10 10 / r.ue * r.ub
  | none => 0

/-- The conditions that make an epilogue INVALID (R326, R328). -/
def eInvalid (t : Tile) (c : Cmd) : Bool :=
  let ncol := wfield (mw c 2) 10 10
  let nrow := wfield (mw c 2) 26 7
  decide (128 * t.nmac < wfield (mw c 2) 0 10 + ncol) || decide (64 < wfield (mw c 2) 20 6 + nrow)
  || (wfield (mw c 0) 24 1 == 1 && touchesFrames (wfield (mw c 4) 0 56) (4 * ncol))
  || (wfield (mw c 0) 21 3 == 3 && touchesFrames (wfield (mw c 6) 0 56) 256)
  || ((List.range nrow).any fun r => tileOfVa c.tile (eRowVa c r) == some c.tile && touchesFrames (eRowVa c r) (eRowBytes c))

/-- Binary32 values of the target's scratchpad. -/
def readLanes (s : State) (tid va n : Nat) : List Lane :=
  (List.range n).map fun i => BitVec.ofNat 32 (bytesNat (mread s.mem (spKey tid va + 4 * i) 4))

/-- One element (R329). -/
def eValue (c : Cmd) (v : Lane) (bias : Option Lane) (tab : List Lane) : Lane :=
  let v := Num.fmul v ((mw c 3).truncate 32)
  let v := match bias with
    | some b => Num.fadd v b
    | none => v
  match wfield (mw c 0) 21 3 with
  | 1 => if Num.isNan v then Num.nan32 else if Num.key v > 0 then v else 0#32
  | 2 => Num.fmin (Num.fmax v ((mw c 5).truncate 32)) (BitVec.ofNat 32 (wfield (mw c 5) 32 32))
  | 3 => Num.silu tab v
  | _ => v

/-- The bytes of `n` elements of row r from column `col` on, through the destination's format (R329). -/
def ePiece (s : State) (c : Cmd) (bias tab : List Lane) (r col n : Nat) : List Byte :=
  let f := wfield (mw c 1) 60 4
  let b := wfield (mw c 0) 24 1 == 1
  let vs := (List.range n).map fun i =>
    eValue c (accGet s c.tile (wfield (mw c 2) 20 6 + r) (wfield (mw c 2) 0 10 + (col + i)))
      (if b then some (bias.getD (col + i) 0#32) else none) tab
  match Num.fmtRow f with
  | none => []
  | some row =>
    let vs := if row.cls = 2 then
        vs.map fun v => BitVec.ofInt 32 (Num.toIntSat .rne (-(2 ^ 31)) (2 ^ 31 - 1) (Num.dec32 v))
      else vs
    Num.unitsBytes .rne f row.ue (n / row.ue) vs

/-- The address of the unit that holds element `col` of row r. -/
def ePieceVa (c : Cmd) (r col : Nat) : Nat :=
  match Num.fmtRow (wfield (mw c 1) 60 4) with
  | some row => eRowVa c r + col / row.ue * row.ub
  | none => eRowVa c r

/-- The elements of an epilogue command. -/
def eTotal (c : Cmd) : Nat := wfield (mw c 2) 10 10 * wfield (mw c 2) 26 7

/-- The elements [lo, hi), in row order, as pieces (row, first column, count) of one row each; at most `k` pieces. -/
def ePieces (ncol hi : Nat) : Nat → Nat → List (Nat × Nat × Nat)
  | 0, _ => []
  | k + 1, lo =>
    if hi ≤ lo then []
    else
      let n := min (hi - lo) (ncol - lo % ncol)
      (lo / ncol, lo % ncol, n) :: ePieces ncol hi k (lo + n)

/-- The bias values and the table that the command read when it started. -/
def eBias (c : Cmd) : List Lane :=
  (List.range (wfield (mw c 2) 10 10)).map fun i => BitVec.ofNat 32 (bytesNat ((c.data.drop (4 * i)).take 4))
def eTab (c : Cmd) : List Lane :=
  (List.range 64).map fun i => BitVec.ofNat 32 (bytesNat ((c.data.drop (4 * (wfield (mw c 2) 10 10 + i))).take 4))

/-- The cycles from the issue of a write at `va` until it is performed: every destination format of an epilogue converts (R328, R331, R236). -/
def ePerf (c : Cmd) (va : Nat) : Nat := perfDelay (routeOf c.tile va) c.tile false true

/-- One cycle of conversion (R331): the next 32 elements, from element `c.row` on, are read and converted, and a write of
each row's piece is issued. -/
def eConvert (id : Nat) (c : Cmd) (s : State) : State :=
  let hi := min (eTotal c) (c.row + 32)
  let ps := ePieces (wfield (mw c 2) 10 10) hi 32 c.row
  let s := { s with cmds := tput s.cmds id { c with row := hi, nstay := c.nstay + ps.length } }
  let s := ps.foldl (fun s p =>
    let va := ePieceVa c p.1 p.2.1
    post (s.now + ePerf c va) .epiStart { a := id, b := 2, d := va, p := .bytes (ePiece s c (eBias c) (eTab c) p.1 p.2.1 p.2.2) } s) s
  if hi < eTotal c then post (s.now + 1) .epiStart { a := id, b := 1, c := c.step } s else s

/-- The next epilogue command is taken. -/
def eNext (tid : Nat) (s : State) : State :=
  match (tileAt s tid).einq with
  | [] => s
  | i :: _ => post s.now .epiStart { a := i } s

/-- A write of an epilogue command reaches the destination's bank (R331, R428): it is performed, or refused by the router,
and its acknowledgement sets out. -/
def eWrite (id : Nat) (c : Cmd) (va : Nat) (bs : List Byte) (s : State) : State :=
  let core := coreAt s (cidOf c.sid)
  match tileOfVa c.tile va with
  | none => s
  | some dt =>
    let s := if dt ≠ c.tile ∧ routerOk s dt core.tenant core.part false = false then
        modCmd id (fun c => { c with status := 1 }) (logReject (mtuOfTile dt) (cidOf c.sid) va core.tenant s)
      else memWrite (spKey dt va) bs s (strandWriter c.sid s.now)
    post (s.now + ansDelay (routeOf c.tile va) c.tile false true) .epiStart { a := id, b := 3 } s

/-- EPI_START (R330, R331). With `b` 0 the command is taken from the head of the queue, its capability checked, and started
once R330 allows; its table and bias are read then. With `b` 1 it converts the next 32 elements; with 2 a write is
performed; with 3 a write is acknowledged, and the last one completes the command. -/
def execEpiStart (s : State) : Res :=
  let id := s.ev.a
  match tfind s.cmds id with
  | none => .next s
  | some c =>
    let t := tileAt s c.tile
    if s.ev.b = 1 then .next (if t.eactive = some id ∧ c.step = s.ev.c then eConvert id c s else s)
    else if s.ev.b = 2 then
      match s.ev.p with
      | .bytes bs => .next (eWrite id c s.ev.d bs s)
      | _ => .next s
    else if 2 < s.ev.b then
      let c := { c with nstay := c.nstay - 1 }
      let s := { s with cmds := tput s.cmds id c }
      .next (if c.nstay = 0 ∧ eTotal c ≤ c.row then post s.now .epiComplete { a := id, b := c.step } s else s)
    else if t.eactive = none ∧ t.einq.head? = some id ∧ (capNow s t = 0 ∨ capNow s t ≠ mCap c) then
      let s := modTile c.tile (fun t => { t with einq := t.einq.drop 1 }) s
      .next (eNext c.tile (mNotice id 1 0 c s))
    else
      let s := if t.eactive = none ∧ t.einq.head? = some id then
          modTile c.tile (fun t => { t with einq := t.einq.drop 1, eactive := some id }) s
        else s
      if (tileAt s c.tile).eactive ≠ some id ∨ c.off = 1 then .next s
      else if partHeld s (c.tile * 4) || !released s c.entries || mStillWrites s t c then
        .next (post (s.now + 1) .epiStart { a := id } s)
      else if eInvalid t c then
        .next (post (s.now + 1) .epiComplete { a := id, b := c.step, c := 5 } (modCmd id (fun c => { c with off := 1, row := eTotal c, nextAt := s.now + 1 }) s))
      else
        let ncol := wfield (mw c 2) 10 10
        let bias := if wfield (mw c 0) 24 1 = 1 then mread s.mem (spKey c.tile (wfield (mw c 4) 0 20)) (4 * ncol)
          else List.replicate (4 * ncol) 0#8
        let tab := if wfield (mw c 0) 21 3 = 3 then mread s.mem (spKey c.tile (wfield (mw c 6) 0 20)) 256 else []
        .next (eConvert id { c with off := 1, nextAt := s.now + 1, data := bias ++ tab } s)

/-- EPI_COMPLETE (R331). -/
def execEpiComplete (s : State) : Res :=
  let id := s.ev.a
  match tfind s.cmds id with
  | none => .next s
  | some c =>
    let t := tileAt s c.tile
    if t.eactive ≠ some id ∨ c.step ≠ s.ev.b then .next s
    else
      let s := if s.ev.c = 5 then mNotice id 5 1 c s else mNotice id c.status 0 c s
      .next (eNext c.tile (modTile c.tile (fun t => { t with eactive := none }) s))

/-- EPI_SWITCH_TIMEOUT (R401): 50,000 cycles into a switch the epilogue at work stops at an element boundary; its
progress, the next element, is kept, and it goes on after the restore. -/
def execEpiSwitchTimeout (s : State) : Res :=
  let tid := s.ev.a
  match (tileAt s tid).eactive with
  | none => .next s
  | some id => .next (modCmd id (fun c => if c.off = 1 ∧ c.row < eTotal c then { c with step := c.step + 1, resumed := true, nextAt := 0 } else c) s)

end Sys2Proof.Machine
end

