-- ==== Sys2Proof/Machine/Collective.lean ====
section
/-!
DEFINITION. Combining and all-to-all (R169 to R189, spec/08; R344 to R347, spec/13; R356, R359, spec/16; R474): nodes,
Pavilions, GCONT, GSCAN, A2A.

A node of a group is named by tile * 256 + group; an instance of it by twice that plus SEQ[0]; a Pavilion by package * 2 +
E-die.
-/

namespace Sys2Proof.Machine

/-! ### Operators (R172) -/

/-- The absolute value of a binary32 pattern. -/
def fabs (x : Lane) : Lane := x &&& 0x7FFFFFFF#32

/-- Two operands combined. -/
def cnOp (op : Nat) (a b : Word) : Word :=
  let x : Lane := a.truncate 32
  let y : Lane := b.truncate 32
  match op with
  | 1 => ofLane (Num.fadd x y)
  | 2 => ofLane (Num.fmax x y)
  | 3 => ofLane (Num.fmaxn x y)
  | 4 => minS a b
  | 5 => ofLane (Num.fmax (fabs x) (fabs y))
  | 6 => a &&& b
  | 7 => a ||| b
  | 8 => a ^^^ b
  | 10 => word ((List.range 4).foldl (fun n i => n + (wfield a (16 * i) 16 + wfield b (16 * i) 16) % 65536 * 2 ^ (16 * i)) 0)
  | _ => a + b

/-- One operand alone: what an operator makes of it. -/
def cnOne (op : Nat) (a : Word) : Word :=
  let x : Lane := a.truncate 32
  match op with
  | 1 => ofLane (if Num.isNan x then Num.nan32 else x)
  | 2 => cnOp 2 a a
  | 3 => cnOp 3 a a
  | 5 => cnOp 5 a a
  | _ => a

/-- Operands combined in order (R173). -/
def cnFold (op : Nat) : List Word → Word
  | [] => 0#64
  | a :: r => r.foldl (cnOp op) (cnOne op a)

def isScan (op : Nat) : Bool := op == 9 || op == 10
def isFp (op : Nat) : Bool := op == 1 || op == 2 || op == 3 || op == 5

/-- The status bits NAN, TIMEOUT, MEMBER_HALTED (R175). -/
def stNan : Nat := 2 ^ 16
def stTimeout : Nat := 2 ^ 17
def stHalted : Nat := 2 ^ 18

/-- Status words put together. -/
def stOr (a b : Nat) : Nat := (word a ||| word b).toNat

/-! ### Nodes (R169 to R174) -/

def cnWord (s : State) (nk : Nat) : Word := tget s.cnGrp nk 0#64
def cnOpOf (w : Word) : Nat := wfield w 1 4

/-- The neighbour of a tile at a port N, E, S, W; none at the package's edge. -/
def neighbour (tid p : Nat) : Option Nat :=
  let x := tileX tid
  let y := tileY tid
  match p with
  | 0 => if 0 < y then some (tid - 64) else none
  | 1 => if x < 63 then some (tid + 1) else none
  | 2 => if y < 31 then some (tid + 64) else none
  | 3 => if 0 < x then some (tid - 1) else none
  | _ => none

/-- The cores and the child ports of a node's entry, ascending. -/
def cnCores (w : Word) : List Nat := (List.range 4).filter fun c => w.toNat.testBit (5 + c)
def cnKids (w : Word) : List Nat := (List.range 4).filter fun p => w.toNat.testBit (9 + p)

/-- The operands of an instance at a node, in combining order, each with the place it came from (a core, or 4 + port) and
its status; none while one is missing. -/
def cnOperands (w : Word) (i : CnInst) : Option (List (Nat × Word × Nat)) :=
  let op := cnOpOf w
  let cs := (cnCores w).mapM fun c => (i.cores.find? fun p => p.1 == c).map fun p =>
    (c, p.2, if isFp op && Num.isNan (p.2.truncate 32) then stNan else 0)
  let ks := (cnKids w).mapM fun k => (i.kids.find? fun p => p.1 == k).map fun p => (4 + k, p.2.vals.headD 0#64, p.2.status)
  match cs, ks with
  | some a, some b => some (a ++ b)
  | _, _ => none

def cnErrUp (tid : Nat) (s : State) : State := { s with cnErr := tput s.cnErr tid (tget s.cnErr tid 0 + 1) }

/-- Sends a node's partial on once every operand is there: to its parent, to the Pavilion, or as the completed instance. With a PARENT of 5
or 6, or a port off the mesh, it is dropped and counted in CN_ERR at the node that sends it (DESIGN CHOICE, log 107). -/
def cnTry (nk seq : Nat) (s : State) : State :=
  let w := cnWord s nk
  let tid := nk / 256
  let ik := nk * 2 + seq % 2
  let i := tget s.cnInst ik { seq := seq }
  match (if i.sent then none else cnOperands w i) with
  | none => s
  | some [] => s
  | some l =>
    let op := cnOpOf w
    let tot := cnFold op (l.map fun x => x.2.1)
    let st := l.foldl (fun n x => stOr n x.2.2) 0
    let s := { s with cnInst := tput s.cnInst ik { i with sent := true } }
    let par := wfield w 14 3
    if par = 7 then
      post s.now .cnInstanceComplete { a := nk, b := seq, p := .contrib ⟨[if isScan op then 0#64 else tot], st, 0⟩ } s
    else if par = 4 then
      let e := if tileX tid < 32 then 0 else 1
      post (s.now + edgePath tid) .ferArrival
        { p := .fer ⟨tid / 2048, e, nk % 256, seq, 0, tid / 2048, tid, (tileAt s tid).tenant, ⟨[tot], st, 1⟩⟩ } s
    else
      match neighbour tid par with
      | some t =>
        post (s.now + 5 + 8 * crossings tid t) .cnPartial
          { a := t * 256 + nk % 256, b := seq, c := 4 + (par + 2) % 4, p := .contrib ⟨[tot], st, 1⟩ } s
      | none => cnErrUp tid s

/-- CN_PARTIAL (R173, R171): a core's contribution, or the partial of a child that the node lists. -/
def execCnPartial (s : State) : Res :=
  match s.ev.p with
  | .contrib c =>
    let nk := s.ev.a
    let seq := s.ev.b
    let ik := nk * 2 + seq % 2
    let i := tget s.cnInst ik { seq := seq }
    if s.ev.c < 4 then
      .next (cnTry nk seq { s with cnInst := tput s.cnInst ik { i with cores := i.cores ++ [(s.ev.c, c.vals.headD 0#64)] } })
    else
      let w := cnWord s nk
      let k := s.ev.c - 4
      if wfield w 0 1 = 0 ∨ (cnKids w).contains k = false then .next (cnErrUp (nk / 256) s)
      else .next (cnTry nk seq { s with cnInst := tput s.cnInst ik { i with kids := i.kids ++ [(k, c)] } })
  | _ => .next s

/-- CN_INSTANCE_COMPLETE (R174): the root has the instance's result, or the base of its scan, and sends it down. -/
def execCnInstanceComplete (s : State) : Res :=
  .next (post s.now .cnResultArrival { a := s.ev.a, b := s.ev.b, flag := true, p := s.ev.p } s)

/-! ### Results at a core (R175, R345, R347) -/

/-- The instance of an A2A is complete: its COLL entries go, and its element is placed (R347). -/
def a2aDone (id : Nat) (val : Word) (st : Nat) (s : State) : State :=
  match tfind s.cmds id with
  | none => s
  | some c =>
    let cid := cidOf c.sid
    let s := c.aux.foldl (fun s e => if (rtView (rtAt s (cid * 64 + e))).cls = 5 then putRt (cid * 64 + e) (0#64, 0#64) s else s) s
    let s := modCmd id (fun c => { c with placed := true }) s
    if !c.cpl then endCmd id s
    else emit id c (word (wfield (mw c 5) 47 16 + c.status * 2 ^ 16 + st / 2 ^ 17 % 4 * 2 ^ 20
      + (if c.resumed then 2 ^ 22 else 0) + wfield val 0 32 * 2 ^ 32)) true false s

/-- A result is delivered to what has contributed for it. False: the strand's extract handle is full. -/
def cnDeliver (g seq cid : Nat) (w : CnWait) (val : Word) (st : Nat) (s : State) : State × Bool :=
  let live := (slotAt s w.sid).gen == w.gen && (slotAt s w.sid).st != .free
  if w.kind = 2 then (a2aDone w.cmd val st s, true)
  else if !live then (s, true)
  else if w.kind = 1 then
    let s := lateResult w.sid w.dst val s
    ((if st / 2 ^ 17 % 4 ≠ 0 ∧ (slotAt s w.sid).st ≠ .trapped then
      recordTrap w.sid 0x1D (word g) (word (seq % 65536 + st)) w.npc s else s), true)
  else
    let x := extAt s (cid * 256 + g)
    if x.owner ≠ some w.sid then (s, true)
    else if 8 ≤ x.ents.length then (s, false)
    else (addNews (extNews (cid * 256 + g)) 1 (modExt (cid * 256 + g) (fun x => { x with ents := x.ents ++ [(val, word (seq % 65536 + st))] }) s), true)

/-- The results of an instance at a node from its base: each place (a core, or 4 + port) with its value; for a scan the sum
of all before it (R173). -/
def cnShares (op : Nat) (base : Word) : List (Nat × Word × Nat) → List (Nat × Word)
  | [] => []
  | x :: r => (x.1, base) :: cnShares op (if isScan op then cnOp op base x.2.1 else base) r

/-- A core of the node has a result of the group waiting. -/
def cnHeld (s : State) (nk : Nat) : Bool :=
  (List.range 4).any fun c => !(extAt s ((nk / 256 * 4 + c) * 256 + nk % 256)).waiting.isEmpty

/-- CN_RESULT_ARRIVAL (R174, R175, R182): at a node (`flag`) the result waits behind an earlier one that a full handle
holds; then SEQ advances, and it goes to the cores and on to the children. At core `c` it is delivered to what contributed for it, or
waits for that strand's handle. -/
def execCnResultArrival (s : State) : Res :=
  let nk := s.ev.a
  let seq := s.ev.b
  match s.ev.p with
  | .contrib c =>
    if s.ev.flag then
      if cnHeld s nk then .next (post (s.now + 1) .cnResultArrival s.ev s)
      else
        let w := cnWord s nk
        let tid := nk / 256
        let ik := nk * 2 + seq % 2
        let l := (cnOperands w (tget s.cnInst ik { seq := seq })).getD []
        let s := { s with
          cnInst := tdel s.cnInst ik
          cnGrp := tput s.cnGrp nk (setField w 32 16 ((seq + 1) % 65536)) }
        .next ((cnShares (cnOpOf w) (c.vals.headD 0#64) l).foldl (fun s p =>
          if p.1 < 4 then post s.now .cnResultArrival { a := nk, b := seq, c := tid * 4 + p.1, p := .contrib ⟨[p.2], c.status, 0⟩ } s
          else
            match neighbour tid (p.1 - 4) with
            | some t => post (s.now + 3 + 8 * crossings tid t) .cnResultArrival
                { a := t * 256 + nk % 256, b := seq, flag := true, p := .contrib ⟨[p.2], c.status, 0⟩ } s
            | none => s) s)
    else
      let cid := s.ev.c
      let g := nk % 256
      let wk := (cid * 256 + g) * 2 + seq % 2
      match tfind s.cnWait wk with
      | none => .next s
      | some w =>
        let ev := s.ev
        let s := { s with cnWait := tdel s.cnWait wk }
        let (s', ok) := cnDeliver g seq cid w (c.vals.headD 0#64) c.status s
        if ok then .next s'
        else .next (post (s.now + 1) .cnResultUnblock { ev with flag := false, d := w.sid, e := w.gen }
          (modExt (cid * 256 + g) (fun x => { x with waiting := [c] }) s))
  | _ => .next s

/-- CN_RESULT_UNBLOCK (R175): the waiting result of strand `d` in generation `e` is delivered once its handle has room. -/
def execCnResultUnblock (s : State) : Res :=
  let nk := s.ev.a
  match s.ev.p with
  | .contrib c =>
    let (s', ok) := cnDeliver (nk % 256) s.ev.b s.ev.c { sid := s.ev.d, gen := s.ev.e } (c.vals.headD 0#64) c.status s
    if ok then .next (modExt (s.ev.c * 256 + nk % 256) (fun x => { x with waiting := [] }) s')
    else .next (post (s.now + 1) .cnResultUnblock s.ev s)
  | _ => .next s

/-! ### Pavilions (R178 to R181) -/

def ferRoute (s : State) (fk g : Nat) : Word × Word := tget s.ferGrp (fk * 256 + g) (0#64, 0#64)
/-- The slot of an instance: concat(SEQ[0], g). -/
def ferKey (fk g seq : Nat) : Nat := fk * 512 + seq % 2 * 256 + g
def ferAtSlot (s : State) (k : Nat) : FerSlot := tget s.ferSlot k {}
def putFer (k : Nat) (x : FerSlot) (s : State) : State := { s with ferSlot := tput s.ferSlot k x }
/-- The key under which a closed slot of a tenant waits for its result. -/
def ferUpKey (k seq tenant : Nat) : Nat := 2 ^ 60 + (k * 65536 + seq % 65536) * 4096 + tenant % 4096

/-- A result to one sender: the local root node, a package's Pavilion, or a reducing switch, which it leaves the part for. -/
def ferAnswer (p : FerPart) (val : Word) (st : Nat) (late : Nat) (s : State) : State :=
  match p.kind with
  | 0 => post (s.now + late + edgePath p.back) .cnInstanceComplete
      { a := p.back * 256 + p.group, b := p.seq, p := .contrib ⟨[val], st, 0⟩ } s
  | 1 => overLink p.pkg p.sender 3 8 (s.now + late + crossing s p.pkg p.sender) .ferParentResult
      { p := .fer { p with pkg := p.sender, fer := p.back, c := ⟨[val], st, 0⟩ } } s
  | _ => modFer (p.pkg * 2 + p.fer) (fun f => { f with toSwitch := f.toSwitch ++ [(p.sender, ⟨[val], st, p.seq⟩)] }) s

/-- Passes a result, or the base of a scan, down to every sender of a slot; the value kept for late arrivals is returned. -/
def ferFan (op : Nat) (st : Nat) : Word → List FerPart → State → Word × State
  | base, [], s => (base, s)
  | base, p :: r, s =>
    ferFan op st (if isScan op then cnOp op base (p.c.vals.headD 0#64) else base) r (ferAnswer p base st 0 s)

/-- Where a sender comes in the combining order of a slot. -/
def ferRank (p : FerPart) : Nat := p.kind * 2 ^ 32 + p.sender
def ferInsert (p : FerPart) : List FerPart → List FerPart
  | [] => [p]
  | q :: r => if ferRank p < ferRank q then p :: q :: r else q :: ferInsert p r

/-- A result passed down by the slot of an instance: to its senders, and to the late arrivals that wait for it, each no sooner than 10
cycles after it arrived (R356), which `count` holds. -/
def ferPass (k : Nat) (x : FerSlot) (op : Nat) (base : Word) (st : Nat) (s : State) : State :=
  let (kept, s) := ferFan op st base x.arr s
  let s := x.waiting.foldl (fun s p => ferAnswer p kept st (p.c.count - s.now) s) s
  let cur := ferAtSlot s k
  if cur.seq = x.seq ∧ cur.group = x.group ∧ cur.tenant = x.tenant then
    putFer k { cur with kept := ⟨[kept], st, 0⟩, waitParent := false } s
  else s

/-- Closes a slot (R179, R180, R181). The record of a slot that waits for its parent keeps what it would send down itself. A PARENT that is
the slot's own package counts as unreachable (DESIGN CHOICE, log 108). -/
def ferClose (fk k : Nat) (timeout : Bool) (s : State) : State :=
  let x := ferAtSlot s k
  let (w0, _) := ferRoute s fk x.group
  let op := wfield w0 1 4
  let st := x.arr.foldl (fun n p => stOr n p.c.status) 0
  let st := if timeout then stOr st (stTimeout + (if wfield w0 5 1 = 1 ∧ x.memberHalted then stHalted else 0)) else st
  let tot := cnFold op (x.arr.map fun p => p.c.vals.headD 0#64)
  let base := if isScan op then 0#64 else tot
  let pkg := fk / 2
  let others := x.waiting
  let x := { x with st := 2, waitParent := true, waiting := [] }
  let s := putFer k x s
  let kept := (ferFan op 0 base x.arr s).1
  let s := others.foldl (fun s p => post s.now .ferWaitRelease { a := fk, p := .fer p } s) s
  let note (s : State) : State := putFer (ferUpKey k x.seq x.tenant) { x with kept := ⟨[base], stOr st stTimeout, 0⟩ } s
  let own (late : Nat) (st : Nat) (s : State) : State :=
    let s := if (ferAtSlot s k).st = 2 then putFer k { ferAtSlot s k with kept := ⟨[kept], st, 0⟩, waitParent := false } s else s
    post (s.now + late) .ferParentResult { p := .fer ⟨pkg, fk % 2, x.group, x.seq, 1, pkg, 0, x.tenant, ⟨[base], st, 0⟩⟩ } (note s)
  if wfield w0 6 1 = 1 then own 10 st s
  else
    let par := wfield w0 32 16
    let pe := wfield w0 53 1
    if wfield w0 48 5 ≠ (pkgAt s pkg).domain ∨ par = pkg ∨ reachable s pkg par = false then own 0 (stOr st stTimeout) s
    else
      overLink pkg par 3 8 (s.now + 10 + crossing s pkg par) .ferArrival
        { p := .fer ⟨par, pe, x.group, x.seq, 1, pkg, fk % 2, x.tenant, ⟨[tot], st, 1⟩⟩ } (note s)

/-- Opens a slot for the first arrival of an instance. -/
def ferOpen (fk k : Nat) (p : FerPart) (s : State) : State :=
  let (w0, w1) := ferRoute s fk p.group
  let held := (ferAt s fk).halts.contains p.group
  let strict := wfield w0 5 1 == 1
  let tmo := wfield w1 32 32
  let s := putFer k { st := 1, tenant := p.tenant, group := p.group, seq := p.seq, opened := s.now, halted := held && !strict,
                      memberHalted := held } s
  if tmo = 0 ∨ (held && !strict) = true then s else post (s.now + tmo) .ferSlotTimeout { a := fk, b := k, c := s.now } s

/-- An arrival taken by its slot. -/
def ferTake (fk k : Nat) (p : FerPart) (s : State) : State :=
  let s := putFer k { ferAtSlot s k with arr := ferInsert p (ferAtSlot s k).arr } s
  if wfield (ferRoute s fk p.group).2 0 32 ≤ (ferAtSlot s k).arr.length then ferClose fk k false s else s

/-- The record of a closed slot that waits for its result changed, where there is one. -/
def modFerUp (uk : Nat) (f : FerSlot → FerSlot) (s : State) : State :=
  match tfind s.ferSlot uk with
  | some x => putFer uk (f x) s
  | none => s

/-- An arrival at a Pavilion (R179, R180), or one that has waited there (`again`), which FER_WAIT has counted; a late one at a slot that
still waits for its parent waits with it. -/
def ferIn (fk : Nat) (again : Bool) (p : FerPart) (s : State) : State :=
  let (w0, _) := ferRoute s fk p.group
  let k := ferKey fk p.group p.seq
  let x := ferAtSlot s k
  let mine := x.tenant == p.tenant && x.group == p.group
  let ahead := (p.seq + 65536 - x.seq) % 65536
  if wfield w0 0 1 = 0 then
    ferAnswer p (p.c.vals.headD 0#64) (stOr p.c.status stTimeout) 0 (modFer fk (fun f => { f with noroute := f.noroute + 1 }) s)
  else if x.st = 0 then ferTake fk k p (ferOpen fk k p s)
  else if mine && ahead == 0 then
    if x.st = 1 then ferTake fk k p s
    else
      let s := modFer fk (fun f => { f with late := f.late + 1 }) s
      if x.waitParent then modFerUp (ferUpKey k p.seq p.tenant) (fun x => { x with
        waiting := x.waiting ++ [{ p with c := { p.c with count := s.now + 10 } }] }) s
      else ferAnswer p (x.kept.vals.headD 0#64) x.kept.status 10 s
  else if mine && decide (32768 ≤ ahead) then modFer fk (fun f => { f with late := f.late + 1 }) s
  else if x.st = 1 then putFer k { x with waiting := x.waiting ++ [p] } (if again then s else modFer fk (fun f => { f with wait := f.wait + 1 }) s)
  else ferTake fk k p (ferOpen fk k p s)

/-- FER_ARRIVAL (R179). -/
def execFerArrival (s : State) : Res :=
  match s.ev.p with
  | .fer p => .next (if (pkgAt s p.pkg).failed then s else ferIn (p.pkg * 2 + p.fer) false p s)
  | _ => .next s

/-- FER_WAIT_RELEASE (R179). -/
def execFerWaitRelease (s : State) : Res :=
  match s.ev.p with
  | .fer p => .next (ferIn s.ev.a true p s)
  | _ => .next s

/-- FER_SLOT_TIMEOUT (R180); `c` names the run of the timer. -/
def execFerSlotTimeout (s : State) : Res :=
  let x := ferAtSlot s s.ev.b
  .next (if x.st = 1 ∧ x.opened = s.ev.c ∧ x.halted = false then ferClose s.ev.a s.ev.b true s else s)

/-- FER_PARENT_RESULT (R179): the result of a slot's instance is passed down to every sender. -/
def execFerParentResult (s : State) : Res :=
  match s.ev.p with
  | .fer p =>
    let fk := p.pkg * 2 + p.fer
    let k := ferKey fk p.group p.seq
    let uk := ferUpKey k p.seq p.tenant
    match tfind s.ferSlot uk with
    | none => .next s
    | some x =>
      .next (ferPass k x (wfield (ferRoute s fk p.group).1 1 4) (p.c.vals.headD 0#64) p.c.status
        { s with ferSlot := tdel s.ferSlot uk })
  | _ => .next s

/-- The slots of a package's Pavilions that wait for a result from a package send their own partials down with TIMEOUT, once that package
is unreachable (R179, R445). -/
def ferOrphans (pkg par : Nat) (s : State) : State :=
  s.ferSlot.foldl (fun s e =>
    let fk := (e.1 - 2 ^ 60) / 2 ^ 28 / 512
    let (w0, _) := ferRoute s fk e.2.group
    if 2 ^ 60 ≤ e.1 ∧ fk / 2 = pkg ∧ wfield w0 6 1 = 0 ∧ wfield w0 32 16 = par then
      post s.now .ferParentResult { p := .fer ⟨pkg, fk % 2, e.2.group, e.2.seq, 1, pkg, 0, e.2.tenant, e.2.kept⟩ } s
    else s) s

/-- The slots of a group at a Pavilion. -/
def ferSlots (fk g : Nat) : List Nat := [ferKey fk g 0, ferKey fk g 1]

/-- A notice goes on to the Pavilion above, where there is one. -/
def noticeUp (fk g : Nat) (ev : Instr) (s : State) : State :=
  let (w0, _) := ferRoute s fk g
  let par := wfield w0 32 16
  if wfield w0 0 1 = 1 ∧ wfield w0 6 1 = 0 ∧ par ≠ fk / 2 ∧ reachable s (fk / 2) par = true then
    overLink (fk / 2) par 3 8 (s.now + crossing s (fk / 2) par) ev { a := par * 2 + wfield w0 53 1, b := g } s
  else s

/-- FER_HALT_NOTICE (R181): the timers of the route's OPEN slots stop, but those of a STRICT route; the notice is passed
on. -/
def execFerHaltNotice (s : State) : Res :=
  let fk := s.ev.a
  let g := s.ev.b
  let strict := wfield (ferRoute s fk g).1 5 1 == 1
  let s := modFer fk (fun f => { f with halts := f.halts ++ [g] }) s
  let s := (ferSlots fk g).foldl (fun s k =>
    let x := ferAtSlot s k
    if x.st ≠ 1 then s
    else if strict || x.halted then putFer k { x with memberHalted := true } s
    else putFer k { x with halted := true, memberHalted := true, spent := x.spent + (s.now - x.opened) } s) s
  .next (noticeUp fk g .ferHaltNotice s)

/-- FER_RESUME_NOTICE (R181): the timers go on from where they stood, once no notice is held. -/
def execFerResumeNotice (s : State) : Res :=
  let fk := s.ev.a
  let g := s.ev.b
  let tmo := wfield (ferRoute s fk g).2 32 32
  let s := modFer fk (fun f => { f with halts := f.halts.erase g }) s
  let s := if (ferAt s fk).halts.contains g then s
    else (ferSlots fk g).foldl (fun s k =>
      let x := ferAtSlot s k
      if x.st ≠ 1 then s
      else
        let s' := putFer k { x with halted := false, memberHalted := false, opened := if x.halted then s.now else x.opened } s
        if x.halted && decide (tmo ≠ 0) then post (s.now + (tmo - x.spent)) .ferSlotTimeout { a := fk, b := k, c := s.now } s'
        else s') s
  .next (noticeUp fk g .ferResumeNotice s)

/-! ### GCONT and GSCAN (R344, R345, R176) -/

/-- The checks of R176. -/
def groupM (g : Nat) (scan : Bool) : M Unit := do
  let s ← askM id
  let cid := cidOf s.cur.sid
  let op := cnOpOf (cnWord s (tidOfC cid * 256 + g))
  if groupMember s cid g && decide (op ≤ 10) && (!scan || isScan op) then pure () else trapM 0x1D (word g)

/-- The group of GCONT and GSCAN: exactly one EXI with bit 8 zero. -/
def groupImm (o : Ops) : M Nat := do
  need9 (decide (o.xi.length = 1) && decide ((bitsR o).1 < 256))
  pure (bitsR o).1

/-- GCONT (R344). -/
def execGcont (o : Ops) (s : State) : Res :=
  issue .b s do
    let g ← groupImm o
    let x ← srcB o
    groupM g false
    drainM
    let s ← askM id
    let sid := s.cur.sid
    waitUnless (!cnWouldWait s (cidOf sid) g)
    lastUseB o
    updM (contribute (cidOf sid) g x { sid := sid, gen := (slotAt s sid).gen })

/-- GSCAN (R345): its destination waits for the result; the strand goes on. -/
def execGscan (o : Ops) (s : State) : Res :=
  issue .b s do
    let g ← groupImm o
    let x ← srcB o
    dstReady (dstN o) (dstW o)
    groupM g true
    drainM
    let s ← askM id
    let sid := s.cur.sid
    waitUnless (!cnWouldWait s (cidOf sid) g)
    lastUseB o
    let w : CnWait :=
      { sid := sid, gen := (slotAt s sid).gen, kind := 1, dst := dstRid o
        npc := (s.cur.ipc + 2 * s.cur.words.length) % vaTop }
    updM fun s =>
      let s := if dstRid o % 128 = 0 then s else addBusy sid (dstRid o % 128) s
      contribute (cidOf sid) g x w s

/-! ### A2A (R183, R184, R187, R188, R346, R347, R474) -/

def aNpar (d : List Word) : Nat := wfield (d.getD 5 0#64) 0 16
def aP (d : List Word) : Nat := 64 * (wfield (d.getD 5 0#64) 16 6 + 1)
def aNdest (d : List Word) : Nat := wfield (d.getD 5 0#64) 22 16 + 1
def aGroup (d : List Word) : Nat := wfield (d.getD 5 0#64) 38 8
def aVa (d : List Word) (i : Nat) : Nat := wfield (d.getD i 0#64) 0 56
def aRlen (d : List Word) : Nat := wfield (d.getD 2 0#64) 0 40

/-- The limits of the descriptor (R346). -/
def a2aOk (d : List Word) : Bool :=
  isRaw (d.getD 0 0#64) && wfield (d.getD 1 0#64) 56 8 == 0 && wfield (d.getD 2 0#64) 40 24 == 0
  && isRaw (d.getD 3 0#64) && wfield (d.getD 3 0#64) 0 1 == 0 && isRaw (d.getD 4 0#64) && wfield (d.getD 4 0#64) 0 3 == 0
  && wfield (d.getD 5 0#64) 63 1 == 0 && d.getD 6 0#64 == 0#64 && d.getD 7 0#64 == 0#64

/-- The lowest address at which a span meets a valid user entry. -/
def userOverlap (s : State) (cid lo n : Nat) : Option Nat :=
  lowest (((List.range 64).drop 16).filterMap fun e =>
    let v := rtView (rtAt s (cid * 64 + e))
    if v.valid && decide (v.base < lo + n) && decide (lo < v.limit) && n != 0 then some (max lo v.base) else none)

/-- The entry of a buffer in flight (R183); BASE and LIMIT have bits 7:0 zero (R90), so it covers whole 256-byte blocks (log 89). -/
def collWords (lo n : Nat) : Word × Word :=
  let b := lo / 256 * 256
  entryWords b (if n = 0 then b else (lo + n + 255) / 256 * 256) 5 true true true

/-- The lower of two statuses that is not 0 (R347). -/
def lowStatus (a b : Nat) : Nat := if a = 0 then b else if b = 0 then a else min a b

/-- The place that an address names, from a tile: a byte of a scratchpad, or of device memory. -/
def placeKey (own va : Nat) : Nat :=
  match tileOfVa own va with
  | some t => 2 ^ 60 + spKey t va
  | none => va

/-- A place lies in the receive buffer of an A2A issued from a tile. -/
def inBuffer (own : Nat) (d : List Word) (key : Nat) : Bool :=
  decide (placeKey own (aVa d 1) ≤ key) && decide (key < placeKey own (aVa d 1) + aRlen d)

/-- A2A (R346). With one user entry free, the base it reports is that of the receive buffer, whose entry is the second (DESIGN CHOICE,
log 109). -/
def execA2a (o : Ops) (s : State) : Res :=
  issue .a s do
    let (hn, h) ← portM o 3 64
    let (dp, d) ← descM o 64
    limitM hn dp (a2aOk d)
    let n := aNpar d * aP d
    spanBy rangeMatchM (d.getD 0 0#64) (aVa d 0 : Nat) n true false
    spanM (d.getD 3 0#64) (aVa d 3 : Nat) (2 * aNpar d) true false
    spanM (d.getD 4 0#64) (aVa d 4 : Nat) (16 * aNdest d) true false
    spanBy rangeMatchM (d.getD 1 0#64) (aVa d 1 : Nat) (aRlen d) true true
    groupM (aGroup d) false
    let s ← askM id
    let cid := cidOf s.cur.sid
    match lowest ((userOverlap s cid (aVa d 0) n).toList ++ (userOverlap s cid (aVa d 1) (aRlen d)).toList) with
    | some a => trapM 0x0B (word a)
    | none => pure ()
    let free := ((List.range 64).drop 16).filter fun e => !(rtView (rtAt s (cid * 64 + e))).valid
    let cpl := wfield (d.getD 5 0#64) 46 1 == 1
    match free with
    | e1 :: e2 :: _ => do
      cplM hn dp 3 0 cpl
      portSlotM o hn h
      lastUseB o
      updM fun s =>
        let s := putRt (cid * 64 + e1) (collWords (aVa d 0) n) s
        let s := putRt (cid * 64 + e2) (collWords (aVa d 1) (aRlen d)) s
        let mine := s.parcelFails.filter fun f => f.1 == pkgOfC cid && inBuffer (tidOfC cid) d f.2.1
        let s := { s with parcelFails := s.parcelFails.filter fun f => !mine.contains f }
        let (id, s) := addCmd { newCmd s 3 0 18 hn d cpl with
          aux := [e1, e2]
          status := mine.foldl (fun n f => lowStatus n f.2.2) 0 } s
        post (s.now + 4) .a2aParcelWrite { a := id } s
      setCost 5
    | [_] => trapM 6 (word (aVa d 1 / 256 * 256)) 0xFFFFFFFFFFFFFFFF#64
    | [] => trapM 6 (word (aVa d 0 / 256 * 256)) 0xFFFFFFFFFFFFFFFF#64

/-- One transfer: the package, the address, the parcel it starts with, the bytes. -/
structure Xfer where
  pkg : Nat
  va : Nat
  first : Nat
  bytes : List Byte
deriving DecidableEq, Repr

/-- Insertion by destination, then by parcel. -/
def xferInsert (x : Xfer) : List Xfer → List Xfer
  | [] => [x]
  | y :: r =>
    if x.pkg < y.pkg ∨ (x.pkg = y.pkg ∧ (x.va < y.va ∨ (x.va = y.va ∧ x.first < y.first))) then x :: y :: r
    else y :: xferInsert x r

/-- Neighbours at the destination go together, up to 4 KiB (R187). -/
def xferMerge : List Xfer → List Xfer
  | [] => []
  | x :: r =>
    match xferMerge r with
    | y :: q =>
      if x.pkg = y.pkg ∧ x.va + x.bytes.length = y.va ∧ x.bytes.length + y.bytes.length ≤ 4096 then
        { x with first := min x.first y.first, bytes := x.bytes ++ y.bytes } :: q
      else x :: y :: q
    | [] => [x]

/-- Insertion by the first parcel: transfers leave in ascending parcel (R474). -/
def xferByFirst (x : Xfer) : List Xfer → List Xfer
  | [] => [x]
  | y :: r => if x.first < y.first then x :: y :: r else y :: xferByFirst x r

/-- Bytes as the A2A's engine reads them. -/
def aRead (s : State) (c : Cmd) (va n : Nat) : List Byte :=
  let cid := cidOf c.sid
  (engRead s (tidOfC cid) va (coreAt s cid).tenant n).getD []

/-- The parcels that are sent (R347): none for an index that DTAB does not hold. `k` counts the earlier ones to each
destination. -/
def aParcels (s : State) (c : Cmd) (idx : List Byte) (dtab : List Word) : Nat → Nat → List (Nat × Nat) → List Xfer
  | 0, _, _ => []
  | n + 1, i, k =>
    let d := bytesNat ((idx.drop (2 * i)).take 2)
    let p := aP c.desc
    if aNdest c.desc ≤ d then aParcels s c idx dtab n (i + 1) k
    else
      let w0 := dtab.getD (2 * d) 0#64
      let w1 := dtab.getD (2 * d + 1) 0#64
      let kd := tget k d 0
      let pkg := if wfield w1 21 1 = 1 then identityOf s (tidOfC (cidOf c.sid) / 2048) else wfield w1 0 21
      ⟨pkg, wfield w0 0 56 + (wfield w1 32 16 + kd) * p, i, aRead s c (aVa c.desc 0 + i * p) p⟩
        :: aParcels s c idx dtab n (i + 1) (tput k d (kd + 1))

/-- A transfer within the issuing tile's scratchpad. -/
def xferHere (s : State) (own : Nat) (x : Xfer) : Bool :=
  x.pkg == identityOf s (own / 2048) && tileOfVa own x.va == some own

/-- A list of bytes in pieces of 32. -/
def pieces32 : Nat → List Byte → List (List Byte)
  | 0, _ => []
  | n + 1, bs => if bs.isEmpty then [] else bs.take 32 :: pieces32 n (bs.drop 32)

/-- A transfer as it is written: in the issuing tile 32 bytes a cycle (R359), elsewhere whole (R474). -/
def xferParts (s : State) (own : Nat) (x : Xfer) : List Xfer :=
  if xferHere s own x then
    (pieces32 x.bytes.length x.bytes).zipIdx.map fun p => { x with va := x.va + 32 * p.2, bytes := p.1 }
  else [x]

/-- The cycles from a transfer's last byte leaving to its write, as a store's (R236, R474), and from there to its acknowledgement, for
which an A2A within its own tile does not wait (R359: the last write of the printed run is performed 2 cycles after it leaves). -/
def xferTimes (s : State) (own : Nat) (x : Xfer) : Nat × Nat :=
  if x.pkg = identityOf s (own / 2048) then
    let r := routeOf own x.va
    (perfDelay r own false false, if xferHere s own x then 0 else ansDelay r own false true)
  else
    let q := x.pkg % 65536
    (edgePath own + (x.bytes.length + 79) / 80 + crossing s (own / 2048) q, crossing s (own / 2048) q)

/-- Sends the transfers, the last byte of each leaving after 32 bytes a cycle. -/
def xferSend (id own : Nat) : List Xfer → Nat → State → State
  | [], _, s => s
  | x :: r, sent, s =>
    let sent := sent + x.bytes.length
    let t := s.now + (sent + 31) / 32 - 1
    let due := t + (xferTimes s own x).1
    let arg : EvArg :=
      { a := id, b := 1 + x.first, c := x.pkg, w := word x.va, w2 := word (xferTimes s own x).2, p := .bytes x.bytes }
    let s := if x.pkg = identityOf s (own / 2048) then post due .a2aParcelWrite arg s
      else
        let go := crossing s (own / 2048) (x.pkg % 65536)
        sendPkt (ferOfTile own) (x.pkg % 65536) x.bytes.length go .a2aParcelWrite arg (due - go) s
    xferSend id own r sent s

/-- The A2A whose receive buffer a place of a package lies in (R184). -/
def aReceiver (s : State) (pkg key : Nat) : Option Nat :=
  (s.cmds.find? fun p =>
    p.2.eng == 3 && p.2.op == 18 && !p.2.placed && pkgOfC (cidOf p.2.sid) == pkg && inBuffer (tidOfC (cidOf p.2.sid)) p.2.desc key).map (·.1)

/-- A parcel refused at its destination is a rejection for the next FENCE as well, as a PUT's is (R347, R261, R141); the core learns
of it at cycle `at'`. -/
def rejectParcel (id va at' : Nat) (s : State) : State :=
  match tfind s.cmds id with
  | none => s
  | some c =>
    let a : Acc :=
      { kind := .put, sid := c.sid, gen := c.gen, ipc := c.ipc, order := 0, dpkg := pkgOfC (cidOf c.sid), dev := false, va := va
        size := 1, key := none, bank := msgBank, perfAt := 0, ansLat := 0, tvalue := word va, gang := c.gang }
    let (aid, s) := freshId s
    post at' .remoteRejection { a := aid } { s with accs := tput s.accs aid a }

/-- A parcel whose page, at `a`, is not there waits for it at its MTU (R184, R422). -/
def parcelPark (ev : EvArg) (q a ten : Nat) (bs : List Byte) (s : State) : State :=
  let x : Acc :=
    { kind := .load, sid := q * 131072, gen := 1000, ipc := 0, order := ev.w.toNat, dpkg := q, dev := true, va := a, size := 1
      key := none, bank := msgBank, cmp := bs, op := ev.b, tvalue := ev.w2, ret := .engine ev.a, perfAt := s.now, ansLat := 0
      tenant := ten }
  let (aid, s) := freshId s
  post s.now .mtuAccessDecide { a := aid } { s with accs := tput s.accs aid x }

/-- Adds a status to a command. -/
def addStatus (id st : Nat) (s : State) : State := modCmd id (fun c => { c with status := lowStatus c.status st }) s

/-- A parcel's failure is reported to the A2A that receives it, or kept for it until it is issued (R184). -/
def failParcel (own q va st : Nat) (s : State) : State :=
  let key := placeKey (if q = own / 2048 then own else q * 2048) va
  match aReceiver s q key with
  | some id => addStatus id st s
  | none => { s with parcelFails := s.parcelFails ++ [(q, key, st)] }

/-- An earlier A2A of the core has bytes still to read or to send: its engine moves 32 bytes a cycle, one command after the other (R474). -/
def a2aAhead (s : State) (id cid : Nat) : Bool :=
  s.cmds.any fun p => decide (p.1 < id) && p.2.eng == 3 && p.2.op == 18 && cidOf p.2.sid == cid && !p.2.placed
    && (p.2.nextAt == 0 || decide (s.now < p.2.nextAt))

/-- A2A_PARCEL_WRITE (R347, R474, R184): with `b` 0 the engine reads the indices, the table and the parcels; otherwise one
transfer is written at its destination. -/
def execA2aParcelWrite (s : State) : Res :=
  let id := s.ev.a
  match tfind s.cmds id with
  | none => .next s
  | some c =>
    let cid := cidOf c.sid
    let own := tidOfC cid
    let ten := (coreAt s cid).tenant
    let d := c.desc
    if s.ev.b = 0 then
      if !released s c.entries || a2aAhead s id cid then .next (post (s.now + 1) .a2aParcelWrite s.ev s)
      else
        let spans := [(aVa d 3, 2 * aNpar d), (aVa d 4, 16 * aNdest d), (aVa d 0, aNpar d * aP d)]
        match spans.findSome? fun p => match engCheck s own p.1 ten p.2 with
            | (a, .wait) => some a
            | _ => none with
        | some a => .next (post (s.now + 1) .a2aParcelWrite s.ev (engPark id (own / 2048) a ten s))
        | none =>
          let bad := spans.findSome? fun p => match engCheck s own p.1 ten p.2 with
            | (_, .fail _ r) => some (failStatus r)
            | _ => none
          let idx := aRead s c (aVa d 3) (2 * aNpar d)
          let all := match bad with
            | some _ => []
            | none => aParcels s c idx (bytesWords (2 * aNdest d) (aRead s c (aVa d 4) (16 * aNdest d))) (aNpar d) 0 []
          let near (x : Xfer) : Bool := x.pkg / 65536 == (pkgAt s (own / 2048)).domain
          let here (x : Xfer) : Bool := x.pkg % 65536 == own / 2048 || reachable s (own / 2048) (x.pkg % 65536)
          let s := match bad with
            | some st => addStatus id st s
            | none => if all.length < aNpar d then addStatus id 5 s else s
          let s := if (all.filter near).all here then s else addStatus id 4 s
          let s := (all.filter fun x => !near x).foldl (fun s x =>
            rejectParcel id x.va (s.now + edgePath own) (addStatus id 1 s)) s
          let xs := ((xferMerge ((all.filter fun x => near x && here x).foldr xferInsert [])).foldr xferByFirst []).flatMap (xferParts s own)
          let bytes := (xs.map (·.bytes.length)).sum
          let s := modCmd id (fun c => { c with row := xs.length, nextAt := s.now + max 1 ((bytes + 31) / 32) }) s
          .next (if xs.isEmpty then post s.now .a2aContribute { a := id } s else xferSend id own xs 0 s)
    else
      match s.ev.p with
      | .bytes bs =>
        let q := s.ev.c % 65536
        let va := s.ev.w.toNat
        let t := s.now + s.ev.w2.toNat
        let ack (s : State) : State := overLink q (own / 2048) 1 8 t .a2aContribute { a := id, b := 1 } s
        if s.ev.d ≠ 0 then .next (ack (failParcel own q va s.ev.d s)) else
        match remoteCheck s own q va bs.length ten (coreAt s cid).part with
        | (a, .wait) => .next (parcelPark s.ev q a ten bs s)
        | (a, .fail _ r) =>
          let s := if r = 4 then rejectParcel id va t (logReject (remoteMtu own q a) cid a ten s) else s
          .next (ack (if r = 4 then addStatus id (failStatus r) s else failParcel own q a (failStatus r) s))
        | _ => .next (ack (remoteWrite c.sid own q va ten bs s))
      | _ => .next s

/-- A2A_CONTRIBUTE (R188, R347): an acknowledgement (`b` 1); after the last the A2A contributes NPAR to its group, waiting as
R174 requires, and for its gang to be resident. -/
def execA2aContribute (s : State) : Res :=
  let id := s.ev.a
  match tfind s.cmds id with
  | none => .next s
  | some c =>
    let c := if s.ev.b = 1 then { c with row := c.row - 1 } else c
    let s := { s with cmds := tput s.cmds id c }
    let cid := cidOf c.sid
    let g := aGroup c.desc
    if c.row ≠ 0 then .next s
    else if cmdAway s c then .next (post (s.now + 1) .a2aContribute { a := id } s)
    else if cnWouldWait s cid g then .next (post (s.now + 1) .a2aContribute { a := id } s)
    else .next (contribute cid g (word (aNpar c.desc)) { sid := c.sid, gen := c.gen, kind := 2, cmd := id } s)

end Sys2Proof.Machine
end

