-- ==== Sys2Proof/Machine/Control.lean ====
section
/-!
DEFINITION. Control flow: branches, jumps, hardware loops, the branch-outcome queue, UDF (R224 to R234, spec/10).
-/

namespace Sys2Proof.Machine

/-- UDF (R234): ILLEGAL, reason 1. Its trap is the decoder's, before the class checks. -/
def execUdf (_o : Ops) (s : State) : Res := issue .any s (illegal 1)

/-- A PC-relative target: IPC plus 2 times a word offset, modulo 2^56 (R224). -/
def relTarget (s : State) (off : Int) : Nat := (((s.cur.ipc : Int) + 2 * off) % (vaTop : Nat)).toNat

/-- A conditional branch (R224): taken, the target's instruction issues 2 cycles later. -/
def branch (cond : Word → Word → Bool) (o : Ops) (s : State) : Res :=
  issue .b s do
    let a ← srcA o
    let b ← srcB o
    lastUse o
    if cond a b then setPc (relTarget s (immR o)) 2

/-- BEQ (R224). -/
def execBeq (o : Ops) (s : State) : Res := branch (fun a b => a == b) o s
/-- BNE (R224). -/
def execBne (o : Ops) (s : State) : Res := branch (fun a b => a != b) o s
/-- BLT (R224). -/
def execBlt (o : Ops) (s : State) : Res := branch (fun a b => a.slt b) o s
/-- BGE (R224). -/
def execBge (o : Ops) (s : State) : Res := branch (fun a b => b.sle a) o s
/-- BLTU (R224). -/
def execBltu (o : Ops) (s : State) : Res := branch (fun a b => a.ult b) o s
/-- BGEU (R224). -/
def execBgeu (o : Ops) (s : State) : Res := branch (fun a b => b.ule a) o s

/-- J (R225). -/
def execJ (o : Ops) (s : State) : Res := issue .b s (setPc (relTarget s (immJ o)) 2)

/-- The address after the instruction at issue (R190). -/
def linkOf (s : State) : Word := word ((s.cur.ipc + 2 * s.cur.words.length) % vaTop)

/-- JAL (R225): the link goes to g1. -/
def execJal (o : Ops) (s : State) : Res :=
  issue .b s do
    dstReady 1 1
    writeResult 1 1 (linkOf s)
    setPc (relTarget s (immJ o)) 2

/-- JALR (R226): the target is b plus 2 times the immediate; an odd target traps with ALIGN and writes nothing. -/
def execJalr (o : Ops) (s : State) : Res :=
  issue .b s do
    let b ← srcB o
    let t := ((((wfield b 0 56 : Nat) : Int) + 2 * immR o) % (vaTop : Nat)).toNat
    dstReady (dstN o) (dstW o)
    if t % 2 = 1 then trapM 5 (word t)
    else do
      lastUse o
      writeResult (dstRid o) 1 (linkOf s)
      setPc t 3

/-- SetLoop (R230): the loop level's counter and bounds, or LOOP_NEST, or the skip of a count of 0. -/
def setLoop (lvl cnt st e : Nat) : M Unit := do
  let s ← askM id
  let x := slotAt s s.cur.sid
  let t := (st + 2 * e) % vaTop
  let bounds := word (st % 2 ^ 56 + e % 256 * 2 ^ 56)
  let a0 := lcCur x.lc0 != 0
  let a1 := lcCur x.lc1 != 0
  if lvl = 1 ∧ a0 = true then trapM 0x1C 1#64 2#64
  else if (lvl = 0 ∧ a0 = true ∧ x.lb0 ≠ bounds) ∨ (lvl = 1 ∧ a1 = true ∧ x.lb1 ≠ bounds) then trapM 0x1C (word lvl) 1#64
  else if lvl = 0 ∧ a1 = true ∧ ¬ (lbStart x.lb1 ≤ st ∧ t ≤ lbEnd x.lb1) then trapM 0x1C 0#64 3#64
  else if cnt = 0 then do
    let n ← lengthAt t
    updM (modSlot s.cur.sid fun x => if lvl = 0 then { x with lc0 := 0#64 } else { x with lc1 := 0#64 })
    setPc (t + 2 * n) 2
  else updM (modSlot s.cur.sid fun x =>
    if lvl = 0 then { x with lc0 := lcMake cnt cnt, lb0 := bounds } else { x with lc1 := lcMake cnt cnt, lb1 := bounds })

/-- LOOP (R228): the count is A's value. -/
def execLoop (o : Ops) (s : State) : Res :=
  let n := (bitsR o).1
  issue .b s do
    oneXi o
    let a ← srcA o
    need9 (decide (a.toNat < 2 ^ 32))
    setLoop (nfield n 8 1) a.toNat (linkOf s).toNat (n % 256)
    lastUse o

/-- LOOPI (R228): level in A[0], count and end in the immediate. -/
def execLoopi (o : Ops) (s : State) : Res :=
  let n := (bitsI o).1
  issue .b s do
    need9 (!o.exr && decide (o.a.toNat < 2))
    setLoop (o.a.toNat % 2) (n / 256) (linkOf s).toNat (n % 256)

/-- The oldest entry the other side pushed, and the queue without it (R33). -/
def takeBranch (me : Bool) : List (Bool × Bool × Nat) → Option ((Bool × Nat) × List (Bool × Bool × Nat))
  | [] => none
  | (side, v, t) :: r =>
    if side != me then some ((v, t), r)
    else (takeBranch me r).map fun (e, r') => (e, (side, v, t) :: r')

/-- PUSHB (R232, R33, R34): one entry, from which the partner's BRQ may take it 2 cycles later; it traps once the partner has stopped
and its entries are used up, which is looked at before its operand (R233, R204). -/
def execPushb (o : Ops) (s : State) : Res :=
  issue .b s do
    let sid := s.cur.sid
    let x := slotAt s sid
    if x.paired = false ∨ (partnerGone s sid = true ∧ takeBranch x.xseq (pairAt s (pairKey s sid)).br = none) then trapM 0x0E 0#64
    else do
      drainM
      let b ← srcB o
      let s ← askM id
      waitUnless (decide ((pairAt s (pairKey s sid)).br.length < 32))
      lastUse o
      updM (modPair (pairKey s sid) fun p => { p with br := p.br ++ [(x.xseq, b != 0#64, s.now + 2)] })

/-- BRQ (R233, R33, R34). -/
def execBrq (o : Ops) (s : State) : Res :=
  issue .b s do
    let sid := s.cur.sid
    let x := slotAt s sid
    if x.paired = false then trapM 0x0E 0#64
    else
      match takeBranch x.xseq (pairAt s (pairKey s sid)).br with
      | none => if partnerGone s sid then trapM 0x0E 0#64 else waitM
      | some ((v, t), r) => do
        waitUnless (decide (t ≤ s.now))
        updM (modPair (pairKey s sid) fun p => { p with br := r })
        if v then setPc (relTarget s (immJ o)) 2

end Sys2Proof.Machine
end

