-- ==== Sys2Proof/Machine/Strands.lean ====
section
/-!
DEFINITION. Starting and ending strands (R23 to R29, spec/02; R311 to R317, spec/13; R43, R113): START, STARTP, STOP, JOINS,
LIVE, YIELD, and the freeing of a slot, which a kill shares.
-/

namespace Sys2Proof.Machine

/-! ### The life of a slot -/

/-- The free helper slots of a core, ascending. -/
def freeSlots (s : State) (cid : Nat) : List Nat :=
  ((List.range 11).drop 1).filter fun n => (slotAt s (cid * 16 + n)).st == .free && decide ((slotAt s (cid * 16 + n)).freeAt ≤ s.now)

/-- The lowest pair-queue set of a core that is not in use. -/
def freePairSet (s : State) (cid : Nat) : Option Nat := (List.range 5).find? fun i => !(pairAt s (cid * 8 + i)).used

/-- The registers and handles of a strand as a start leaves them: arguments in g2 to g7, zero elsewhere (R28). -/
def clearRegs (sid : Nat) (args : List Word) (s : State) : State :=
  let g := s.g.filter fun p => p.1 / 64 != sid
  { s with
    g := ((List.range 6).zip args).foldl (fun t p => tput t (sid * 64 + 2 + p.1) p.2) g
    k := s.k.filter fun p => p.1 / 16 != sid
    q := s.q.filter fun p => p.1 / 16 != sid
    place := s.place.filter fun p => p.1 / 128 != sid
    file := s.file.filter fun p => p.1 / 128 != sid }

/-- The registers g2 to g7 take their places (R37). -/
def holdArgs (sid : Nat) (s : State) : State := (List.range 6).foldl (fun s i => holdReg (fileKey sid (2 + i)) s) s

/-- InitState (R25, R28): the strand of a slot at its start. -/
def initStrand (sid team pc : Nat) (xseq : Bool) (args : List Word) (at' : Nat) (part : Bool) (after : List Nat) (s : State) : State :=
  let gen := ((slotAt s sid).gen + 1) % 256
  putSlot sid { st := .ready, gen := gen, pc := pc % vaTop, xseq := xseq, team := team, part := part, readyAt := at',
                wrG := 0xFC#64, after := after, freeAt := (slotAt s sid).freeAt, bornAt := s.now } (holdArgs sid (clearRegs sid args s))

/-- The pair link of both strands of a pair (R28, R32). -/
def linkPair (sa sx set : Nat) (s : State) : State :=
  let cid := cidOf sa
  let one (sid other : Nat) (s : State) : State :=
    modSlot sid (fun x => { x with paired := true, partner := slotNo other, pairSet := set })
      { s with q := tput s.q (sid * 16 + 15) { kind := 2 } }
  one sx sa (one sa sx { s with pairs := tput s.pairs (cid * 8 + set) { used := true } })

/-- Step 5 of R314: the slot is FREE; its receive queues are emptied, its handles unbound, its pair-queue set returned
when both strands have stopped, its vector group left, and its superstep looked at. Its registers leave the physical file, and what they hold shows until
a strand starts in the slot. -/
def freeStrand (sid : Nat) (s : State) : State :=
  let cid := cidOf sid
  let x := slotAt s sid
  let s := leaveGroup sid s
  let s := (List.range 4).foldl (fun s i =>
    if (rxAt s (cid * 4 + i)).owner = some (slotNo sid) then
      modRx (cid * 4 + i) (fun q => { q with
        owner := none, ents := [], rrd := 0, rwr := 0, pendApp := 0, ahead := [], gaps := [], spent := []
        epoch := q.epoch + 1 }) s
    else s) s
  let s := { s with
    ext := s.ext.map fun p => (p.1, { p.2 with
      owner := if p.2.owner = some sid then none else p.2.owner
      ents := if p.2.owner = some sid then [] else p.2.ents
      inj := if p.2.inj = some sid then none else p.2.inj })
    q := s.q.filter fun p => p.1 / 16 != sid }
  let s := dropStrand sid s
  let s := if x.paired && partnerGone s sid then { s with pairs := tdel s.pairs (cid * 8 + x.pairSet) } else s
  let s := putSlot sid { gen := x.gen, freeAt := s.now + 1
                         pc := x.pc, pres := x.pres, live := x.live, lc0 := x.lc0, lc1 := x.lc1, lb0 := x.lb0, lb1 := x.lb1
                         tcause := x.tcause, tvalue := x.tvalue, tval2 := x.tval2, tepc := x.tepc
                         hbump := x.hbump, hlim := x.hlim, codeSeen := x.codeSeen, bornAt := x.bornAt } s
  let s := if slotNo sid = 0 then s else signal cid 1 s
  match (coreAt s cid).gang with
  | some gid => stepCheck gid cid s
  | none => s

/-- The strand is the last of its team. -/
def lastOfTeam (s : State) (sid : Nat) : Bool :=
  (teamSlots s (cidOf sid) (slotAt s sid).team).all fun x => x == sid

/-! ### START, STARTP (R312, R313) -/

/-- The word that a start returns (R313). -/
def teamWord (s : State) (sa : Nat) (sx : Option Nat) : Word :=
  word ((selfWord s sa).toNat + (match sx with
    | some x => slotNo x * 2 ^ 41 + (slotAt s x).gen * 2 ^ 45 + 2 ^ 53
    | none => 0))

/-- The strands a start makes from its record, and the word it returns. -/
def startTeam (pair : Bool) (cid : Nat) (r : List Word) (at' : Nat) (after : List Nat) (s : State) : Word × State :=
  let part := match gangOfCore s cid with
    | some g => g.sstep
    | none => false
  let w (i : Nat) : Word := r.getD i 0#64
  let (team, s') := freshId s
  if pair then
    match freeSlots s cid, freePairSet s cid with
    | a :: x :: _, some set =>
      let sa := cid * 16 + a
      let sx := cid * 16 + x
      let xpc := (((w 0).toNat : Int) + 2 * signed32 (wfield (w 1) 16 32)) % (vaTop : Nat)
      let s := initStrand sa team (w 0).toNat false (r.drop 2) at' part after s'
      let s := linkPair sa sx set (initStrand sx team xpc.toNat true (r.drop 2) at' part after s)
      (teamWord s sa (some sx), s)
    | _, _ => (0#64, s)
  else
    match freeSlots s cid with
    | a :: _ =>
      let sa := cid * 16 + a
      let s := initStrand sa team (w 0).toNat (wfield (w 1) 4 1 == 1) (r.drop 2) at' part after s'
      (teamWord s sa none, s)
    | [] => (0#64, s)

/-- The issue of START or STARTP: the record is read as it is at issue; the start releases the strand's earlier stores to
the strands it starts (R149). -/
def startOp (pair : Bool) (o : Ops) (s : State) : Res :=
  issue .c s do
    let p ← srcB o
    dstReady (dstN o) (dstW o)
    let ea ← rawAddr o p 64 64
    let _ ← rangeM ea 64 true false
    let r := bytesWords 8 (← recordM ea 64)
    lastUseB o
    let s ← askM id
    let sid := s.cur.sid
    let cid := cidOf sid
    let lat := loadLatency (tidOfC cid) ea
    let (w, s') := startTeam pair cid r (max (s.now + 6) (s.now + lat + 2)) (releaseSet s sid) s
    let seen := handed s sid
    updM fun _ => if w = 0#64 then s' else
      let s' := handTo (cid * 16 + wfield w 13 4) seen s'
      if pair then handTo (cid * 16 + wfield w 41 4) seen s' else s'
    writeResult (dstRid o) lat w

/-- START (R312). -/
def execStart (o : Ops) (s : State) : Res := startOp false o s
/-- STARTP (R312). -/
def execStartp (o : Ops) (s : State) : Res := startOp true o s

/-! ### STOP (R314) -/

/-- STOP (R314). -/
def execStop (_o : Ops) (s : State) : Res :=
  issue .b s do
    let s ← askM id
    let sid := s.cur.sid
    if slotNo sid = 0 then illegal 9
    drainM
    waitUnless (storesDone s sid fun _ => true)
    match rejectedOf s sid with
    | some (id, a) =>
      keepM fun s => recordTrap sid 0x11 a.tvalue (word a.ipc) s.cur.ipc { s with accs := tdel s.accs id }
    | none => do
      waitUnless (!s.cmds.any fun p => p.2.sid == sid && p.2.gen == (slotAt s sid).gen && p.2.cpl)
      let (s', done) := if lastOfTeam s sid then teamRelease (cidOf sid) (slotAt s sid).team sid s else (s, true)
      if done then keepM fun _ => freeStrand sid s'
      else stopM (.again (modSlot sid (fun x => { x with st := .waiting }) s'))

/-! ### JOINS (R315) -/

/-- The state of one strand that a team word names: none until two cycles after it came to be FREE, TRAPPED or restarted; else
whether it is TRAPPED and whether its slot was restarted. -/
def joined (s : State) (sid gen : Nat) : Option (Bool × Bool) :=
  let x := slotAt s sid
  let held (t : Nat) (r : Bool × Bool) : Option (Bool × Bool) := if t + 2 ≤ s.now ∨ t = 0 then some r else none
  if x.gen % 256 ≠ gen then held x.freeAt (false, true)
  else if x.st = .trapped then held x.trapAt (true, false)
  else if x.st = .free then held x.freeAt (false, false)
  else none

/-- What a strand that ended hands to the strand whose JOINS ends because of it (R149, R191); where its slot was restarted, its writes before
that. -/
def joinSeenOf (s : State) (sid : Nat) (trapped again : Bool) : Tab Nat :=
  if trapped then [] else if again then [(sid, (slotAt s sid).bornAt)] else handed s sid

/-- JOINS (R315). -/
def execJoins (o : Ops) (s : State) : Res :=
  issue .c s do
    let w ← srcB o
    dstReady (dstN o) (dstW o)
    let s ← askM id
    let own := pkgOfC (cidOf s.cur.sid)
    let cid := own * 8192 + wfield w 0 13
    let pair := wfield w 53 1 == 1
    let sa := wfield w 13 4
    let sx := wfield w 41 4
    let bad (n : Nat) : Bool := n == 0 || decide (10 < n)
    if wfield w 54 10 ≠ 0 ∨ wfield w 25 16 ≠ own ∨ bad sa = true ∨ (pair = true ∧ bad sx = true) then trapM 6 w
    else
      let ja := joined s (cid * 16 + sa) (wfield w 17 8)
      let jx := if pair then joined s (cid * 16 + sx) (wfield w 45 8) else some (false, false)
      match ja, jx with
      | some (ta, ra), some (tx, rx) => do
        lastUseB o
        updM fun s =>
          let s' := handTo s.cur.sid (joinSeenOf s (cid * 16 + sa) ta ra) s
          if pair then handTo s.cur.sid (joinSeenOf s (cid * 16 + sx) tx rx) s' else s'
        writeResult (dstRid o) 1 (word ((if ta then 1 else 0) + (if tx then 2 else 0) + (if ra then 4 else 0) + (if rx then 8 else 0)))
      | _, _ => waitM

/-! ### LIVE and YIELD (R316, R317) -/

/-- The g registers outside a mask become dead, and are dropped (R38, R40). -/
def liveOnly (sid : Nat) (m : Word) (s : State) : State :=
  dropPlaces (fun k => k / 128 == sid && decide (k % 128 < 64) && !m.toNat.testBit (k % 128))
    (modSlot sid (fun x => { x with live := x.live &&& m }) s)

/-- LIVE (R316). -/
def execLive (o : Ops) (s : State) : Res :=
  let n := (bitsR o).1
  issue .b s do
    oneXi o
    need9 (decide (n = 0))
    if o.exr && o.c.toNat ≠ 0 then illegal 7
    let m ← srcB o
    updM fun s =>
      let sid := s.cur.sid
      let keep : Word := if userMode s sid then 0xFFFF000000000001#64 else 1#64
      liveOnly sid (m ||| keep) s
    lastUseB o

/-- LIVE.GET (R316). -/
def execLiveGet (o : Ops) (s : State) : Res :=
  let n := (bitsR o).1
  issue .b s do
    oneXi o
    need9 (decide (n = 1))
    dstReady (dstN o) (dstW o)
    let s ← askM id
    writeResult (dstRid o) 1 ((slotAt s s.cur.sid).live &&& 0xFFFFFFFFFFFFFFFE#64)

/-- YIELD (R317). -/
def execYield (o : Ops) (s : State) : Res :=
  let n := (bitsR o).1
  issue .b s do
    let s ← askM id
    let sid := s.cur.sid
    let x := slotAt s sid
    let others := ((List.range 11).map (cidOf sid * 16 + ·)).filterMap fun t =>
      let y := slotAt s t
      if t != sid && y.xseq == x.xseq && y.st == .ready && decide (y.readyAt ≤ s.now) then some (t, y.issued) else none
    if n = 0 then do
      updM fun s => modSlot sid (fun x => { x with yieldOn := others }) s
      if others.isEmpty then setCost 2
    else do
      setCost (n + 1)
      idleM

end Sys2Proof.Machine
end

