-- ==== Sys2Proof/Machine/System.lean ====
section
/-!
DEFINITION. Page 7 (R365 to R388, spec/18): system registers, returning from a trap, supervisor entries, frames, kills, WFE,
orphans, switch and snapshot arming, escalation (R391 to R395, spec/19).
-/

namespace Sys2Proof.Machine

/-! ### System registers (R366 to R370) -/

/-- A REG that the table of R367 lists. -/
def sysListed (r : Nat) : Bool :=
  decide (r ≤ 8) || (decide (0x10 ≤ r) && decide (r ≤ 0x15)) || (decide (0x20 ≤ r) && decide (r ≤ 0x25))
  || (decide (0x30 ≤ r) && decide (r ≤ 0x32))

/-- The index of SYSRD and SYSWR (R366). -/
def sysIndexOk (n : Nat) : Bool :=
  let r := n % 256
  let sl := nfield n 8 4
  decide (n < 4096) && sysListed r && !(decide (11 ≤ sl) && decide (sl ≤ 14)) && (sl == 0 || (decide (1 ≤ r) && decide (r ≤ 8)))

/-- The strand that an index names: SLOT 0xF is the slot in TSTAT.SLOT. -/
def sysSid (s : State) (cid n : Nat) : Nat :=
  let sl := nfield n 8 4
  cid * 16 + (if sl = 15 then (coreAt s cid).tslot else sl)

/-- TSTAT (R368). -/
def tstatWord (c : Core) : Word :=
  word (c.tslot + (if c.inh then 2 ^ 4 else 0) + (if c.pmode then 2 ^ 5 else 0) + (c.pend.map fun n => 2 ^ (6 + n)).sum
    + (if c.dbl then 2 ^ 17 else 0))

/-- ORPHSTAT (R368). -/
def orphWord (c : Core) : Word := word (c.orphans.length + (if c.lost then 2 ^ 5 else 0) + c.ocount % 2 ^ 32 * 2 ^ 32)

/-- The feature that a system register belongs to: 3 for those of the heap, 6 for the Pavilions' time-out (R1, log 88). -/
def sysFeature (n : Nat) : Nat :=
  let r := n % 256
  if r = 5 ∨ r = 6 ∨ r = 0x25 then 3 else if r = 0x24 then 6 else 0

/-- A system register's value (R368). -/
def sysGet (s : State) (cid n : Nat) : Word :=
  let c := coreAt s cid
  let x := slotAt s (sysSid s cid n)
  let p := partAt s (pkeyOf s cid)
  match n % 256 with
  | 0x00 => word ((if c.modeS then 1 else 0) + (if c.strict then 2 else 0))
  | 0x01 => word x.tcause
  | 0x02 => x.tvalue
  | 0x03 => x.tval2
  | 0x04 => word x.tepc
  | 0x05 => word x.hbump
  | 0x06 => word x.hlim
  | 0x07 => x.lc0
  | 0x08 => x.lc1
  | 0x10 => word c.tvec
  | 0x11 => tstatWord c
  | 0x12 => orphWord c
  | 0x13 => word c.prestmo
  | 0x14 => word c.sendtmo
  | 0x15 => word c.swapthr
  | 0x20 => word (c.tenant % 4096 + c.part % 64 * 2 ^ 12)
  | 0x21 => word (c.slice + (if c.clamped then 2 ^ 32 else 0))
  | 0x22 => word c.switchMin
  | 0x23 => word c.bartmo
  | 0x24 => word c.grptmo
  | 0x25 => word c.heaptab
  | 0x30 => word ((if p.armed then 1 else 0) + (if p.fired then 2 else 0) + c.snapSrc % 4 * 2 ^ 2 + c.snapEvent % 256 * 2 ^ 8)
  | 0x31 => (pkgAt s (pkgOfC cid)).feat0
  | 0x32 => (pkgAt s (pkgOfC cid)).feat1
  | _ => 0#64

/-- SYSRD (R378). ORPHSTAT is read by its own event, which clears COUNT. -/
def execSysrd (o : Ops) (s : State) : Res :=
  let n := (bitsR o).1
  issue .s s do
    need9 (decide (o.xi.length ≤ 2) && sysIndexOk n)
    if o.b.toNat ≠ 0 then illegal 7
    dstReady (dstN o) (dstW o)
    let s ← askM id
    let cid := cidOf s.cur.sid
    if n % 256 = 0x12 then updM (post s.now .orphstatRead { a := cid, b := dstRid o })
    else writeResult (dstRid o) 1 (if hasFeature s (pkgOfC cid) (sysFeature n) then sysGet s cid n else 0#64)

/-- ORPHSTAT_READ (R368). -/
def execOrphstatRead (s : State) : Res :=
  let c := coreAt s s.ev.a
  let s' := putCore s.ev.a { c with ocount := 0 } s
  .next (if s.ev.b % 128 = 0 then s' else writeReg (s.ev.a * 16) s.ev.b (orphWord c) s')

/-- The RW fields of a per-strand register written (R368, R378). -/
def strandPut (r : Nat) (v : Word) (x : Slot) : Slot :=
  match r with
  | 1 => { x with tcause := wfield v 0 8 }
  | 2 => { x with tvalue := v }
  | 3 => { x with tval2 := v }
  | 4 => { x with tepc := wfield v 1 55 * 2 }
  | 5 => { x with hbump := wfield v 4 52 * 16 }
  | 6 => { x with hlim := wfield v 4 52 * 16 }
  | 7 => { x with lc0 := v }
  | _ => { x with lc1 := v }

/-- A system register's RW fields written; a strand other than slot 0 only while it is TRAPPED (R368, R370). -/
def sysPut (cid n : Nat) (v : Word) (s : State) : State :=
  let r := n % 256
  let sid := sysSid s cid n
  if 1 ≤ r ∧ r ≤ 8 then
    (if slotNo sid = 0 ∨ (slotAt s sid).st = .trapped then modSlot sid (strandPut r v) s else s)
  else
    match r with
    | 0x00 => modCore cid (fun c => { c with strict := wfield v 1 1 == 1 }) s
    | 0x10 => modCore cid (fun c => { c with tvec := wfield v 1 55 * 2 }) s
    | 0x13 => modCore cid (fun c => { c with prestmo := wfield v 0 32 }) s
    | 0x14 => modCore cid (fun c => { c with sendtmo := wfield v 0 32 }) s
    | 0x15 => rearmSwap cid (modCore cid (fun c => { c with swapthr := wfield v 0 32 }) s)
    | _ => s

/-- REGISTER_WRITE (R368): `b` is the index of a system register (below 2^12), a block register's address, or 2^40 and the
number of a supervisor entry, whose words are `w` and `w2` (R381). -/
def execRegisterWrite (s : State) : Res :=
  let cid := s.ev.a
  .next (if s.ev.b < 4096 then sysPut cid s.ev.b s.ev.w s
    else if s.ev.b < 2 ^ 40 then blockPut cid (bAddr (word s.ev.b)) s.ev.w s
    else putRt (cid * 64 + s.ev.b % 64) (s.ev.w, s.ev.w2) s)

/-- SYSWR (R378, R369): a core's register in the cycle of the issue; a partition's reaches its cores 64 cycles later. -/
def execSyswr (o : Ops) (s : State) : Res :=
  let n := (bitsR o).1
  issue .s s do
    need9 (decide (o.xi.length ≤ 2) && sysIndexOk n)
    if o.a.toNat ≠ 0 ∨ (o.exr && o.c.toNat ≠ 0) = true then illegal 7
    let v ← srcB o
    lastUseB o
    updM fun s =>
      let cid := cidOf s.cur.sid
      let pk := pkeyOf s cid
      if !hasFeature s (pkgOfC cid) (sysFeature n) then s else
      match n % 256 with
      | 0x11 => post s.now .tstatWrite { a := cid, w := v } s
      | 0x12 => post s.now .orphstatWrite { a := cid, w := v } s
      | 0x21 => post (s.now + 64) .sliceWrite { a := pk, b := cid, w := v } s
      | 0x23 => post (s.now + 64) .partitionRegisterPropagate { a := pk, b := 0x23, c := cid, w := v } s
      | 0x24 => post (s.now + 64) .partitionRegisterPropagate { a := pk, b := 0x24, c := cid, w := v } s
      | 0x30 => post (s.now + 64) .snapctlWrite { a := pk, b := cid, w := v } s
      | _ => post s.now .registerWrite { a := cid, b := n, w := v } s

/-- TSTAT_WRITE (R368). -/
def execTstatWrite (s : State) : Res :=
  let w := s.ev.w
  .next (modCore s.ev.a (fun c => { c with dbl := c.dbl && wfield w 17 1 == 0 }) s)

/-- ORPHSTAT_WRITE (R368). -/
def execOrphstatWrite (s : State) : Res :=
  let w := s.ev.w
  .next (modCore s.ev.a (fun c => { c with lost := c.lost && wfield w 5 1 == 0 }) s)

/-- The cores of a partition. -/
def partCores (s : State) (pk : Nat) : List Nat :=
  let p := partAt s pk
  (List.range p.h).flatMap fun j => (List.range p.w).flatMap fun i =>
    (List.range 4).map fun c => pk / 64 * 8192 + ((p.y0 + j) * 64 + p.x0 + i) * 4 + c

/-- Every core of a partition changed. -/
def modPartCores (pk : Nat) (f : Core → Core) (s : State) : State := (partCores s pk).foldl (fun s c => modCore c f s) s

/-- PARTITION_REGISTER_PROPAGATE (R369). -/
def execPartitionRegisterPropagate (s : State) : Res :=
  let v := wfield s.ev.w 0 32
  let r := s.ev.b
  .next (modPartCores s.ev.a (fun c => if r = 0x23 then { c with bartmo := v } else { c with grptmo := v }) s)

/-- SLICE_WRITE (R368, R369). -/
def execSliceWrite (s : State) : Res :=
  let w := s.ev.w
  .next (modPartCores s.ev.a (fun c => { c with slice := wfield w 0 24, clamped := c.clamped && wfield w 32 1 == 0 }) s)

/-- SNAPCTL_WRITE (R368, R462): an event selected arms the trigger (log 32). -/
def execSnapctlWrite (s : State) : Res :=
  let w := s.ev.w
  let src := wfield w 2 2
  let ev := wfield w 8 8
  let s' := modPartCores s.ev.a (fun c => { c with snapSrc := src, snapEvent := ev }) s
  .next (modPart s.ev.a (fun p => { p with
    snapSrc := src
    snapEvent := ev
    fired := p.fired && wfield w 1 1 == 0
    armed := p.armed || (src == 1 && decide (0 < ev) && decide (ev ≤ 7)) }) s')

/-! ### Ending a handler (R379) -/

/-- A slot goes on at an address, `k` cycles from now. -/
def goOn (sid pc k : Nat) (s : State) : State :=
  modSlot sid (fun x => { x with st := .ready, pc := pc % vaTop, readyAt := s.now + k, hold := false, waitReg := none }) s

/-- Slot 0 goes on after its handler. -/
def tretDone (cid s0 act : Nat) (s : State) : State :=
  let s := if act = 2 then s else modSlot (cid * 16 + s0) (fun x => { x with tcause := 0 }) s
  returnFromTrap cid s

/-- The checks of every TRET. -/
def tretM (o : Ops) (act : Nat) : M Nat := do
  need9 (decide (o.xi.length ≤ 1) && decide ((bitsR o).1 < 4))
  let s ← askM id
  let c := coreAt s (cidOf s.cur.sid)
  if c.inh = false ∨ (c.tslot = 0 ∧ 2 ≤ act) then illegal 9
  else pure c.tslot

/-- TRET (R379). -/
def execTret (o : Ops) (s : State) : Res :=
  issue .s s do
    let n ← tretM o 0
    keepM fun s =>
      let cid := cidOf s.cur.sid
      let sid := cid * 16 + n
      tretDone cid n 0 (if n ≠ 0 ∧ (slotAt s sid).st = .trapped then goOn sid (slotAt s sid).tepc 6 s else s)

/-- TRET.SKIP (R379): a fetch that parks holds the TRET; one that fails leaves the handled slot TRAPPED with that trap. -/
def execTretSkip (o : Ops) (s : State) : Res :=
  issue .s s do
    let n ← tretM o 1
    let s ← askM id
    let cid := cidOf s.cur.sid
    let sid := cid * 16 + n
    let x := slotAt s sid
    let view := if n = 0 then modCore cid (fun c => { c with modeS := c.pmode }) s else s
    match fetchWords view sid 5 x.tepc with
    | .words ws =>
      let pc := (x.tepc + 2 * ws.length) % vaTop
      keepM fun s => tretDone cid n 1
        (if n = 0 then modSlot sid (fun x => { x with tepc := pc }) s
         else if x.st = .trapped then goOn sid pc 6 s else s)
    | .park va => stopM (.again (parkFetch (cid * 16) s.cur.ipc va s))
    | .trap c tv => keepM fun s =>
        let s := tretDone cid n 2 s
        let s := modSlot sid (fun x => { x with
            tcause := c, tvalue := word tv, tval2 := 0#64, st := .trapped }) s
        let s := modCore cid (fun c => { c with pend := if c.pend.contains n then c.pend else c.pend ++ [n] }) s
        (post (s.now + 4) .takeTrap { a := cid } s)

/-- TRET.LEAVE (R379). -/
def execTretLeave (o : Ops) (s : State) : Res :=
  issue .s s do
    let n ← tretM o 2
    keepM fun s => tretDone (cidOf s.cur.sid) n 2 s

/-- TAKE_TRAP (R374, R379): slot 0 goes on after a TRET; a trap still pending after it. -/
def execTakeTrap (s : State) : Res := .next (if s.ev.flag then returnDone s.ev.a s else takeTrap s.ev.a s)

/-! ### Kills (R383, R390, R397) -/

/-- A kill stops a strand wherever it is: it issues nothing more, its pending requests are released, its rejected entries
dropped, its PEND bit cleared. -/
def killMark (sid : Nat) (s : State) : State :=
  let s := dropWaits sid s
  let s := { s with accs := s.accs.filter fun p => !(p.2.sid == sid && p.2.rejected) }
  let s := modSlot sid (fun x => { x with
    killed := true
    killAt := s.now + 1
    tried := if x.hold then s.now + 1 else x.tried
    kills := 0#64
    redo := none
    hold := false
    heldBy := 0
    waitReg := none
    fwd := []
    frozen := false
    st := if x.st = .trapped ∨ x.st = .swapped then x.st else .waiting }) s
  modCore (cidOf sid) (fun c => { c with pend := c.pend.filter (· != slotNo sid) }) s

/-- One look at a strand being killed: once its issued accesses have completed, and the bindings of a team it ends are
released, its slot is FREE. -/
def killStep (sid : Nat) (s : State) : State × Bool :=
  let x := slotAt s sid
  if s.accs.any fun p => p.2.sid == sid && p.2.gen == x.gen && !p.2.rejected then (s, false)
  else if (tget s.vq (cidOf sid) []).any fun e => e.sid == sid && e.gen == x.gen then (s, false)
  else
    let (s, done) := if lastOfTeam s sid then teamRelease (cidOf sid) x.team sid s else (s, true)
    if done then (freeStrand sid { s with accs := s.accs.filter fun p => !(p.2.sid == sid && p.2.gen == x.gen) }, true)
    else (s, false)

/-- The kill of a strand as an instruction waits for it: the state, and whether it is over. A strand that may still issue in this cycle is
looked at again in the next: its trap comes first (R387). -/
def killing (sid : Nat) (s : State) : State × Bool :=
  let x := slotAt s sid
  if x.killed then killStep sid s
  else if (x.st == .ready || ((x.st == .waiting || x.st == .parked) && !x.hold)) && x.tried != s.now + 1 && decide (x.readyAt ≤ s.now) then
    (killMark sid s, false)
  else killStep sid (killMark sid s)

/-- Issues again in the next cycle, WAITING meanwhile. -/
def againM {α : Type} (s : State) : M α := stopM (.again (modSlot s.cur.sid (fun x => { x with st := .waiting }) s))

/-- TRET.KILL (R379, R383): it waits as KILLS waits. -/
def execTretKill (o : Ops) (s : State) : Res :=
  issue .s s do
    let n ← tretM o 3
    let s ← askM id
    let cid := cidOf s.cur.sid
    let sid := cid * 16 + n
    if (slotAt s sid).st = .free then keepM fun s => tretDone cid n 3 s
    else
      match killing sid s with
      | (s', true) => stopM (.keep (tretDone cid n 3 s'))
      | (s', false) => againM s'

/-- The slot and generation that KILLS names (R383). -/
def killsM (o : Ops) : M (Nat × Bool) := do
  need9 (decide (o.xi.length ≤ 1) && decide ((bitsR o).1 < 2))
  let b ← srcB o
  dstReady (dstN o) (dstW o)
  if wfield b 12 52 ≠ 0 ∨ wfield b 0 4 = 0 ∨ 10 < wfield b 0 4 then illegal 9
  else do
    let s ← askM id
    let sid := cidOf s.cur.sid * 16 + wfield b 0 4
    let x := slotAt s sid
    pure (sid, x.st != .free && x.gen % 256 == wfield b 4 8)

/-- KILLS (R383). -/
def execKills (o : Ops) (s : State) : Res :=
  issue .s s do
    let (sid, live) ← killsM o
    if !live then do
      lastUseB o
      writeResult (dstRid o) 1 0#64
    else do
      let s ← askM id
      match killing sid s with
      | (s', true) => do
        updM fun _ => s'
        lastUseB o
        writeResult (dstRid o) 1 1#64
      | (s', false) => againM s'

/-- KILLS.RESUME (R383): 1 is written once the slot is READY, 6 cycles later. -/
def execKillsResume (o : Ops) (s : State) : Res :=
  issue .s s do
    let (sid, live) ← killsM o
    lastUseB o
    let s ← askM id
    let x := slotAt s sid
    if live && x.st == .trapped && !x.killed then do
      updM fun s => goOn sid x.tepc 6 (modCore (cidOf sid) (fun c => { c with pend := c.pend.filter (· != slotNo sid) }) s)
      writeResult (dstRid o) 6 1#64
    else writeResult (dstRid o) 1 0#64

/-! ### SVC, BRK (R380) -/

/-- SVC (R380, R376): TEPC is the next instruction. -/
def execSvc (o : Ops) (s : State) : Res :=
  let n := (bitsI o).1
  issue .any s (keepM fun s => recordTrap s.cur.sid 0x1B (word n) 0#64 (linkOf s).toNat s)

/-- BRK (R380). -/
def execBrk (o : Ops) (s : State) : Res := issue .any s (trapM 0x1A (word (bitsI o).1))

/-! ### Supervisor entries (R373, R381) -/

/-- The tiles of the window codes that a LOCAL range touches. -/
def windowCodes (lo hi : Nat) : List Nat :=
  (List.range (nfield (hi - 1) 20 12 + 1)).drop (nfield lo 20 12)

/-- The reason for which an entry is refused; none where it is accepted (R373). -/
def rtReason (p : Part) (w0 w1 : Word) : Option Nat :=
  let v := rtView (w0, w1)
  if !v.valid then none
  else if wfield w0 60 4 ≠ 0 ∨ wfield w1 62 2 ≠ 0 ∨ v.base % 256 ≠ 0 ∨ v.limit % 256 ≠ 0 ∨ v.hold = 3
      ∨ ¬ (v.cls = 0 ∨ v.cls = 1 ∨ v.cls = 6) then some 1
  else if v.cls ≠ 1 then
    (if p.grants.any fun g => decide (g.base ≤ v.base) && decide (v.limit ≤ g.limit) && (g.rd || !v.rd) && (g.wr || !v.wr)
        && (g.store || v.cls == 0) then none else some 2)
  else if v.limit ≤ v.base then none
  else if inWindow v.base = false ∨ inWindow (v.limit - 1) = false then some 3
  else
    let codes := windowCodes v.base v.limit
    let outside (c : Nat) : Bool :=
      c != 0x7FF && (decide (0x800 < c) || (let t := if c = 0x800 then 0x7FF else c
        !(inPart p (t % 64) (t / 64))))
    let frames (c : Nat) : Bool :=
      let b := windowBase + c * 2 ^ 20
      decide (max v.base b < b + 2 ^ 20) && decide (b + 0xF5000 < min v.limit (b + 2 ^ 20))
    if codes.any outside then some 3
    else if v.usr && codes.any frames then some 4
    else none

/-- RTSET (R381, R373): the entry is checked by accesses that issue from the next cycle on. -/
def execRtset (o : Ops) (s : State) : Res :=
  let n := (bitsR o).1
  issue .s s do
    need9 (decide (o.xi.length = 1) && decide (n < 16))
    if o.exr && o.c.toNat ≠ 0 then illegal 7
    let a ← srcA o
    let b ← srcB o
    let s ← askM id
    let cid := cidOf s.cur.sid
    match rtReason (partAt s (pkeyOf s cid)) a b with
    | some r => trapM 7 a (word r)
    | none => do
      lastUse o
      updM (post (s.now + 1) .registerWrite { a := cid, b := 2 ^ 40 + n, w := rtBits0 a, w2 := rtBits1 b })

/-- RTGET (R381). -/
def execRtget (o : Ops) (s : State) : Res :=
  let n := (bitsR o).1
  issue .s s do
    need9 (decide (o.xi.length = 1) && decide (n < 128))
    dstReady (dstN o) (dstW o)
    let s ← askM id
    let e := rtAt s (cidOf s.cur.sid * 64 + n % 64)
    writeResult (dstRid o) 1 (if nbit n 6 then e.2 else e.1)

/-! ### Frames (R382, R390) -/

/-- The slot that CTXSAVE, CTXLOAD name. -/
def ctxM (o : Ops) : M Nat := do
  let b ← srcB o
  dstReady (dstN o) (dstW o)
  if wfield b 4 60 ≠ 0 ∨ 10 < wfield b 0 4 then illegal 9
  else pure (wfield b 0 4)

/-- CTXSAVE (R382, R390): of a TRAPPED strand once every load it issued has returned. -/
def execCtxsave (o : Ops) (s : State) : Res :=
  issue .s s do
    let n ← ctxM o
    let s ← askM id
    let sid := cidOf s.cur.sid * 16 + n
    let x := slotAt s sid
    let out : M Word :=
      if n = 0 then do
        updM (saveFrame sid s.cur.ipc)
        pure 1#64
      else
        match x.st with
        | .trapped => do
          waitUnless (s.accs.all fun p => p.2.sid != sid || p.2.gen != x.gen || p.2.store || p.2.kind == .msg || p.2.kind == .put)
          updM (saveFrame sid x.tepc)
          pure 1#64
        | .swapped => pure 1#64
        | _ => pure 0#64
    let r ← out
    lastUseB o
    writeResult (dstRid o) 40 r

/-- Every field of a frame but the slot word and the handles (R36, R382). -/
def loadFrame (sid : Nat) (s : State) : State :=
  let k := frameKey sid
  let w (off : Nat) : Word := mem64 s (k + off)
  let s := loadFrameRegs sid 0xFFFFFFFFFFFFFFFE#64 0xFFFF#16 s
  modSlot sid (fun x => { x with
    tepc := wfield (w 0x380) 1 55 * 2
    lc0 := w 0x398
    lc1 := w 0x3A0
    lb0 := w 0x3A8
    lb1 := w 0x3B0
    tcause := wfield (w 0x3B8) 0 8
    tvalue := w 0x3C0
    tval2 := w 0x3C8
    hbump := wfield (w 0x3E0) 4 52 * 16
    hlim := wfield (w 0x3E8) 4 52 * 16
    wrG := 0xFFFFFFFFFFFFFFFE#64
    wrK := 0xFFFF#16 }) s

/-- CTXLOAD (R382); what it writes in slot 0 is live from then on (R40). -/
def execCtxload (o : Ops) (s : State) : Res :=
  issue .s s do
    let n ← ctxM o
    let s ← askM id
    let sid := cidOf s.cur.sid * 16 + n
    let out : M Word :=
      if n = 0 then do
        updM fun s => (List.range 16).foldl (fun t i => gSet sid (48 + i) (mem64 s (frameKey sid + 8 * (48 + i))) t) s
        pure 1#64
      else if (slotAt s sid).st = .trapped then do
        updM (loadFrame sid)
        pure 1#64
      else pure 0#64
    let r ← out
    lastUseB o
    writeResult (dstRid o) 40 r

/-! ### SNAP, HALT, WFE, ORPHAN (R384, R385) -/

/-- The first cycle in which the time base has reached a stamp (R400). -/
def cycleOf (ns : Nat) : Nat := (5 * ns + 1) / 2

/-- SNAP (R384): it fires in the cycle of the stamp; for b = 0 at once. -/
def execSnap (o : Ops) (s : State) : Res :=
  issue .s s do
    if o.exr && o.c.toNat ≠ 0 then illegal 7
    let b ← srcB o
    lastUseB o
    updM fun s =>
      let pk := pkeyOf s (cidOf s.cur.sid)
      if b = 0#64 then post s.now .snapshotFire { a := pk } s
      else post (max s.now (cycleOf b.toNat)) .snapshotFire { a := pk, b := 1, w := b }
        (modPart pk (fun p => { p with armed := true, snapAt := some b.toNat }) s)

/-- HALT (R384). -/
def execHalt (_o : Ops) (s : State) : Res :=
  issue .s s do
    updM fun s => haltCore (cidOf s.cur.sid) s

/-- WFE (R384). -/
def execWfe (o : Ops) (s : State) : Res :=
  issue .s s do
    let b ← srcB o
    dstReady (dstN o) (dstW o)
    lastUseB o
    let s ← askM id
    let sid := s.cur.sid
    let cid := cidOf sid
    let l := wfeEvents (coreAt s cid)
    if l.isEmpty then
      keepM fun s =>
        let s := holdStrand sid .waiting (modCore cid (fun c => { c with wfe := some (dstRid o, s.now) }) s)
        if b = 0#64 then s else post (s.now + b.toNat) .wfeTimeout { a := cid, b := s.now } s
    else do
      updM (modCore cid fun c => { c with events := [] })
      writeResult (dstRid o) 1 (eventsWord l)

/-- WFE_TIMEOUT (R384): bit 4, for the WFE that armed it. -/
def execWfeTimeout (s : State) : Res :=
  let armed := s.ev.b
  .next (match (coreAt s s.ev.a).wfe with
    | some (_, t) => if t = armed then signal s.ev.a 4 s else s
    | none => s)

/-- ORPHAN (R385). -/
def execOrphan (o : Ops) (s : State) : Res :=
  issue .s s do
    dstReady o.a.toNat (wA o)
    dstReady (dstN o) 1
    let s ← askM id
    let cid := cidOf s.cur.sid
    let (h, p) := (coreAt s cid).orphans.headD (0#64, 0#64)
    updM (modCore cid fun c => { c with orphans := c.orphans.drop 1 })
    let ra := regOf o.a.toNat
    writeResult (if ra ≥ 80 then ra + 128 * (wA o - 1) else ra) 2 h
    writeResult (regOf (dstN o)) 2 p

/-! ### GSWITCH (R386) -/

/-- GSWITCH (R386): the stamp, raised where it comes too early. -/
def execGswitch (o : Ops) (s : State) : Res :=
  issue .s s do
    let b ← srcB o
    dstReady (dstN o) (dstW o)
    lastUseB o
    let s ← askM id
    let cid := cidOf s.cur.sid
    let pk := pkeyOf s cid
    let c := coreAt s cid
    let least := timeNs ((partAt s pk).lastSwitch.getD 0) + 1000 * max c.slice c.switchMin
    if b = 0#64 then do
      updM (modPart pk fun p => { p with stamp := none })
      writeResult (dstRid o) 1 0#64
    else do
      let t := max b.toNat least
      updM fun s =>
        let s := modPart pk (fun p => { p with stamp := some t }) s
        let s := if b.toNat < least then modPartCores pk (fun c => { c with clamped := true }) s else s
        post (max s.now (cycleOf t)) .gangSwitch { a := pk, w := word t } s
      writeResult (dstRid o) 1 (word t)

/-! ### Escalation (R386, R391 to R395) -/

/-- TMSG (R386): the slot whose trap slot 0 is handling counts as TRAPPED. -/
def execTmsg (o : Ops) (s : State) : Res :=
  issue .s s do
    let b ← srcB o
    dstReady (dstN o) (dstW o)
    lastUseB o
    let s ← askM id
    let cid := cidOf s.cur.sid
    let c := coreAt s cid
    let n := if wfield b 0 4 = 15 then c.tslot else wfield b 0 4
    let x := slotAt s (cid * 16 + n)
    if n ≤ 10 ∧ (x.st = .trapped ∨ (n = 0 ∧ c.inh = true ∧ c.tslot = 0)) then do
      updM (sendEscal cid n x.tcause)
      writeResult (dstRid o) 1 1#64
    else writeResult (dstRid o) 1 0#64

/-- The causes that merge (R392). -/
def mergeable (cause : Nat) : Bool :=
  cause == 8 || cause == 9 || cause == 0xB || cause == 0x11 || cause == 0x18 || cause == 0x19

/-- A message merges into a record: the values are those of the lowest-numbered core (R392). -/
def mergeRec (r : TrcRec) (e : Escal) : TrcRec :=
  let low := decide (e.core < r.core)
  { r with
    count := (r.count + 1) % 2 ^ 32
    core := min r.core e.core
    tvalue := if low then e.tvalue else r.tvalue
    tval2 := if low then e.tval2 else r.tval2
    tepc := if low then e.tepc else r.tepc
    slot := if low then e.slot else r.slot
    cores := if r.cores.contains (e.core % 256) then r.cores else r.cores ++ [e.core % 256] }

/-- The notice of a new record (R395). -/
def trcNotify (trow part : Nat) (s : State) : State :=
  let n := (tget s.trcp (trow * 64 + part) {}).notify
  if wfield n 43 1 = 0 then s
  else
    let p := trow / 32
    let q := wfield n 25 16
    let cid := q * 8192 + wfield n 0 13
    let at' := p * 2048 + trow % 32 * 64
    let t := tidOfC cid
    sendNotice p q (6 + 3 * hops at' t + 8 * crossings at' t) (edgePath at' + 1) .trcNoticeArrival
      { a := cid * 4 + wfield n 41 2, b := wfield n 17 8, c := wfield n 13 4, d := trow, e := part
        w := word (2 ^ 63 + 2 ^ 62 + trow % 32), w2 := word (trcMine s trow part).length } (modTrc trow part) s

/-- Two escalation messages merge (R392). -/
def sameEscal (e f : Escal) : Bool :=
  mergeable e.cause && f.cause == e.cause && f.tenant == e.tenant && wfield f.tvalue 16 40 == wfield e.tvalue 16 40
  && f.pkg == e.pkg && f.row == e.row

/-- The messages that have met a message in a router's escalation buffer on the way and merged with it there: messages of one row are at one
router in one cycle where they reach the collector in one cycle (R391, R392). -/
def escalMates (s : State) (e : Escal) : List Escal :=
  s.agenda.filterMap fun x => match x.2.1, x.2.2.p with
    | .escalationArrival, .escal f => if x.1 ≤ s.now ∧ sameEscal e f = true then some f else none
    | _, _ => none

/-- The same messages are on their way no more. -/
def dropMates (e : Escal) (s : State) : State :=
  { s with agenda := s.agenda.filter fun x => match x.2.1, x.2.2.p with
    | .escalationArrival, .escal f => !(decide (x.1 ≤ s.now) && sameEscal e f)
    | _, _ => true }

/-- ESCALATION_ARRIVAL (R392, R393): a message, with those that merged with it on the way, is merged, placed, or dropped. -/
def execEscalationArrival (s : State) : Res :=
  match s.ev.p with
  | .escal e =>
    let trow := e.pkg * 32 + e.row
    let l := tget s.trcs trow []
    let pv := mergeable e.cause
    let mates := escalMates s e
    let s := dropMates e s
    let same (r : TrcRec) : Bool :=
      pv && r.pv && r.tenant == e.tenant && r.cause == e.cause && wfield r.tvalue 16 40 == wfield e.tvalue 16 40
    match l.find? same with
    | some r => .next { s with trcs := tput s.trcs trow (l.map fun x => if x = r then (e :: mates).foldl mergeRec r else x) }
    | none =>
      if l.length < 32 then
        let r : TrcRec := mates.foldl mergeRec
          { cause := e.cause, pv := pv, tenant := e.tenant, part := e.part, count := 1, core := e.core, tvalue := e.tvalue
            tval2 := e.tval2, tepc := e.tepc, slot := e.slot, cores := [e.core % 256] }
        let s := fireEvent (e.pkg * 64 + e.part) 1 { s with trcs := tput s.trcs trow (l ++ [r]) }
        .next (trcNotify trow e.part s)
      else .next (modTrc trow e.part s)
  | _ => .next s

end Sys2Proof.Machine
end

