-- ==== Sys2Proof/Machine/Gangs.lean ====
section
/-!
DEFINITION. Jobs and gangs: stopping, draining, fall-out, save and restore (R400 to R404, spec/19), placing, clearing and ending
(R429 to R436, spec/21), failed tiles (R431).
-/

namespace Sys2Proof.Machine

/-! ### Gangs of a partition -/

/-- The resident gangs of a partition. -/
def residents (s : State) (pk : Nat) : Tab Gang := s.gangs.filter fun p => p.2.pkey == pk && p.2.active

/-- The tiles of a gang. -/
def gangTiles (g : Gang) : List Nat :=
  (List.range g.h).flatMap fun j => (List.range g.w).map fun i => g.pkey / 64 * 2048 + (g.y0 + j) * 64 + g.x0 + i

/-- The slots of a gang's cores. -/
def gangSids (g : Gang) : List Nat := (gangCores g).flatMap fun c => (List.range 11).map (c * 16 + ·)

/-- The job of a gang is ending. -/
def gangEnding (s : State) (g : Gang) : Bool := (partAt s g.pkey).jobs.any fun j => j.num == g.job && j.st == 3

def modJob (pk num : Nat) (f : Job → Job) (s : State) : State :=
  modPart pk (fun p => { p with jobs := p.jobs.map fun j => if j.num = num then f j else j }) s

/-! ### Stopping: steps 1 and 2 of R400 -/

/-- A strand's WAITING or PARKED instruction is abandoned, of a swapped-out strand too: it will issue again (R400 step 1, R374). -/
def abandon (sid : Nat) (s : State) : State :=
  let x := slotAt s sid
  if x.st = .waiting ∨ x.st = .parked ∨ (x.st = .swapped ∧ x.hold = true) then
    (if slotNo sid = 0 ∧ (coreAt s (cidOf sid)).wfe.isSome = true then
      abandonWait sid (modCore (cidOf sid) (fun c => { c with wfe := none }) s)
    else abandonWait sid s)
  else s

/-- The tile `i` hops along the route from `t` to `u` (R13). -/
def alongRoute (t u i : Nat) : Nat :=
  let go (a b n : Nat) : Nat := if a ≤ b then min b (a + n) else max b (a - n)
  let dx := natDist (tileX t) (tileX u)
  t / 2048 * 2048 + go (tileY t) (tileY u) (i - dx) * 64 + go (tileX t) (tileX u) i

/-- The cycles that a message still needs from a router to its target. -/
def stillNeeds (r u : Nat) : Nat := 3 + 3 * hops r u + 8 * crossings r u

/-- Messages that a router's fall-out buffer holds. -/
def fallenAt (s : State) (r : Nat) : Nat :=
  (s.gangs.map fun p => if p.2.active then (p.2.fallout.filter fun f => f.1 == r).length else 0).sum

/-- The tile at which a message enters its target's mesh: its sender's, or from another package the edge tile of the target's half (R356, log 91). -/
def entryTile (m : Msg) : Nat :=
  let u := tidOfC (targetCid m)
  if m.foreign then u - tileX u + (if tileX u < 32 then 0 else 63) else tidOfC (cidOf m.srcSid)

/-- The gang among those that stop to which a message belongs: of its tag, with the sender's tile, or from another package the target's
(R402). -/
def gangOfMsg (gids : List Nat) (m : Msg) (s : State) : Option Nat :=
  (s.gangs.find? fun p => gids.contains p.1 && p.2.tag == m.tag
    && inGang p.2 (if m.foreign then tidOfC (targetCid m) else tidOfC (cidOf m.srcSid))).map (·.1)

/-- A message that arrives at cycle `t` falls out at the router it occupies, or at the next with room (R400 step 2, R402). -/
def fallOut (gid : Nat) (m : Msg) (t : Nat) (s : State) : State :=
  let u := tidOfC (targetCid m)
  let path := (List.range (hops (entryTile m) u + 1)).map (alongRoute (entryTile m) u)
  let r := (path.find? fun r => decide (stillNeeds r u ≤ t - s.now) && decide (fallenAt s r < 64)).getD u
  modGang gid (fun g => { g with fallout := g.fallout ++ [(r, m)] }) s

/-- One event in its turn: a message of the gang in flight in its target's mesh falls out, one from another package once it has passed its
links; any other event stays on the agenda. -/
def fallOne (gids : List Nat) (e : Nat × Instr × EvArg) (s : State) : State :=
  let stay : State := { s with agenda := s.agenda ++ [e] }
  match e.2.1, e.2.2.p, tfind s.pkts e.2.2.a with
  | .transportPacketArrival, _, some k =>
    (match k.arg.p with
    | .msg m =>
      match gangOfMsg gids m s with
      | some gid =>
        if k.arrived || (k.ev != .xputArrival && k.ev != .qsendArrival)
            || decide (stillNeeds (entryTile m) (tidOfC (targetCid m)) < e.1 - s.now) then stay
        else fallOut gid m e.1 (post (s.now + k.toGo) .transportAck { a := e.2.2.a }
          { s with pkts := tput s.pkts e.2.2.a { k with arrived := true } })
      | none => stay
    | _ => stay)
  | i, .msg m, _ =>
    if ¬ (i = .xputArrival ∨ i = .qsendArrival) then stay
    else
      match gangOfMsg gids m s with
      | none => stay
      | some gid => fallOut gid m e.1 s
  | _, _, _ => stay

/-- Issue stops: waiting instructions are abandoned, copy channels stop, and messages in flight fall out (R400, R401). -/
def stopGangs (gids : List Nat) (s : State) : State :=
  let s := gids.foldl (fun s gid => match gangAt s gid with
    | some g =>
      let s := (gangSids g).foldl (fun s sid => abandon sid s) s
      (gangTiles g).foldl (fun s t => (List.range 4).foldl (fun s ch => copyStop t ch s) s) s
    | none => s) s
  s.agenda.foldl (fun s e => fallOne gids e s) { s with agenda := [] }

/-- The 50,000 cycles of R401 start for each epilogue at work in the gangs' tiles; and end, once the gangs are drained. -/
def epiClock (gs : List Gang) (s : State) : State :=
  gs.foldl (fun s g => (gangTiles g).foldl (fun s t =>
    if (tileAt s t).eactive.isSome then post (s.now + 50000) .epiSwitchTimeout { a := t } s else s) s) s
def epiClockOff (gs : List Gang) (s : State) : State :=
  { s with agenda := s.agenda.filter fun e => !(e.2.1 == .epiSwitchTimeout && gs.any fun g => inGang g e.2.2.a) }

/-! ### Draining: step 3 of R400 -/

/-- An access that does not hold up the drain: parked on a long fault, refused, fallen out, or on its way to or from another
package. -/
def accDrained (s : State) (a : Acc) (id : Nat) : Bool :=
  a.parked || a.rejected || a.kind == .put || a.dpkg != pkgOfC (cidOf a.sid)
  || (a.kind == .msg && s.gangs.any fun p => p.2.fallout.any fun f => f.2.acc == id)

/-- A command that does not hold up the drain (R400, R401). -/
def cmdDrained (own : Nat) (c : Cmd) : Bool :=
  match c.op with
  | 20 => c.placed || !inWindow (tLocal c.desc)
  | 21 => c.slotFree || c.placed || c.step == 1
  | 19 => c.placed || c.nextAt == 0
  | 22 => c.placed || tileOfVa own (wfield (c.desc.getD 0 0#64) 0 56) != some own
  | _ => true

/-- The matrix unit of a tile runs nothing; its epilogue engine is idle, or stopped by R401's time-out. -/
def tileDrained (s : State) (tid : Nat) : Bool :=
  let t := tileAt s tid
  t.active.isNone && t.beside.isEmpty && (match t.eactive.bind (tfind s.cmds) with
    | some c => c.off == 0 || (c.nextAt == 0 && c.nstay == 0)
    | none => true)

/-- Each instruction of a core's vector queue is complete, or held by a parked lane access, or behind one that is (R288). -/
def vecDrained (s : State) (cid : Nat) : Bool :=
  let parked := s.accs.filterMap fun p => match p.2.ret with
    | .lane v _ _ => if cidOf p.2.sid = cid ∧ p.2.parked = true then some v else none
    | _ => none
  (tget s.vq cid []).all fun e => (parked.any fun v => decide (v ≤ e.vid)) || (e.issued.length == 4 && e.done.length == 4)

/-- A gang's work in flight has come to the state that step 3 leaves. -/
def gangDrained (s : State) (gid : Nat) (g : Gang) : Bool :=
  (s.accs.all fun p => p.2.gang != some gid || accDrained s p.2 p.1)
  && (s.cmds.all fun p => p.2.gang != some gid || cmdDrained (tidOfC (cidOf p.2.sid)) p.2)
  && ((gangTiles g).all fun t => tileDrained s t)
  && ((gangCores g).all fun c => vecDrained s c)
  && (s.wbs.all fun p => !inGang g (tidOfC p.2.rel.cid))
  && (s.guards.all fun p => !p.2.lastv || p.2.lastRt / 64 != gid + 1 || homeDead s (word p.1))
  && !(s.agenda.any fun e => match e.2.1, e.2.2.p with
      | .grantArrival, .grant d => d.req.entry / 64 == gid + 1
      | .guardForward, .gfwd f => f.req.entry / 64 == gid + 1 || (f.holder != fromHome && inGang g (tidOfC f.holder))
      | .wbdone, _ => inGang g (tidOfC e.2.2.b)
      | .a2aParcelWrite, _ => e.2.2.b != 0 && ((tfind s.cmds e.2.2.a).map (·.gang)) == some (some gid)
      | _, _ => false)
  && !(s.agenda.any fun e => e.2.1 == .teamSwapOut && e.2.2.d == 1 && inGang g (tidOfC e.2.2.a))

/-! ### Save and restore: steps 4 and 5 of R400 (R402, R403) -/

/-- The tile of the unit at which an event is still to happen, for the events that a gang's save area keeps (log 33). -/
def eventTile (s : State) (i : Instr) (e : EvArg) : Option Nat :=
  let ofCmd : Option Nat := (tfind s.cmds e.a).map fun c => tidOfC (cidOf c.sid)
  match i with
  | .registerFetch => some (e.a / 64)
  | .resultWriteback => some (e.a / 64)
  | .presTimeout => some (e.a / 64)
  | .followerIssue => some (e.a / 64)
  | .vshareApply => some (e.a / 4)
  | .vectorResult => some (e.a / 4)
  | .takeTrap => some (e.a / 4)
  | .wfeTimeout => some (e.a / 4)
  | .teamSwapOut => some (e.a / 4)
  | .teamRestore => some (e.a / 4)
  | .receiveQueueRefill => some (e.a / 16)
  | .cnPartial => some (e.a / 256)
  | .cnInstanceComplete => some (e.a / 256)
  | .cnResultArrival => some (e.a / 256)
  | .cnResultUnblock => some (e.a / 256)
  | .vectorQuarterIssue => some e.a
  | .shadowEntry => some e.a
  | .matrixCommandArrival => ofCmd
  | .matrixCommandResend => ofCmd
  | .matrixNoticeArrival => ofCmd
  | .mode_ => ofCmd
  | .loadb => ofCmd
  | .run_ => ofCmd
  | .clear_ => ofCmd
  | .epiStart => ofCmd
  | .a2aContribute => ofCmd
  | .a2aParcelWrite => if e.b = 0 then ofCmd else none
  | .tdecApply => if e.e = 0 then none else some (e.c / 64)
  | .groupForm => (tfind s.groups e.a).bind fun g => g.members.head?.map fun m => m.1 / 64
  | .barRelease => (gangAt s e.a).map fun g => g.pkey / 64 * 2048 + g.y0 * 64 + g.x0
  | .superstepBoundary => (gangAt s e.a).map fun g => g.pkey / 64 * 2048 + g.y0 * 64 + g.x0
  | _ => none

/-- The entries of a table whose key's tile lies in a gang, or outside it. -/
def inTab {α : Type} (g : Gang) (tile : Nat → Nat) (t : Tab α) : Tab α := t.filter fun p => inGang g (tile p.1)
def outTab {α : Type} (g : Gang) (tile : Nat → Nat) (t : Tab α) : Tab α := t.filter fun p => !inGang g (tile p.1)

/-- A table with every entry of another put into it. -/
def putAll {α : Type} (l t : Tab α) : Tab α := l.foldl (fun t p => tput t p.1 p.2) t

/-- The bytes of a gang's scratchpads. -/
def gangCells (g : Gang) (m : List Host.Cell) : List Host.Cell := m.filter fun c => isSpKey c.1 && inGang g (spTile c.1)

/-- The save area of a gang as its tiles now stand (R403). -/
def saveOf (g : Gang) (s : State) : Saved :=
  { mem := gangCells g s.mem
    acc := inTab g (· / 65536) s.acc
    macros := inTab g (· / 8) s.macros
    v := inTab g (· / 4096) s.v
    dirty := inTab g (fun k => spTile (k * 256)) s.dirty
    slots := inTab g (· / 64) s.slots
    g := inTab g (· / 4096) s.g
    k := inTab g (· / 1024) s.k
    q := inTab g (· / 1024) s.q
    place := inTab g (· / 8192) s.place
    file := inTab g (· / 8192) s.file
    cores := inTab g (· / 4) s.cores
    rt := inTab g (· / 256) s.rt
    binds := inTab g (· / 256) s.binds
    pairs := inTab g (· / 32) s.pairs
    rx := inTab g (· / 16) s.rx
    ext := inTab g (· / 1024) s.ext
    vq := inTab g (· / 4) s.vq
    tiles := inTab g id s.tiles
    cnGrp := inTab g (· / 256) s.cnGrp
    cnInst := inTab g (· / 512) s.cnInst
    cnNext := inTab g (· / 1024) s.cnNext
    cnWait := inTab g (· / 2048) s.cnWait
    events := s.agenda.filter fun e => match eventTile s e.2.1 e.2.2 with
      | some t => inGang g t
      | none => false
    at_ := s.now }

/-- Binary32 values of a table put into a byte store, each at its place. -/
def putLanes (at' : Nat → Nat) (l : Tab Lane) (m : List Host.Cell) : List Host.Cell :=
  l.foldl (fun m p => mwrite m (at' p.1) (natBytes 4 p.2.toNat)) m

/-- The first four regions of a tile's record in its gang's save area, in their fixed layout (R403): the scratchpad, the accumulators column by
column, the macros, and the vector registers of cores 0 to 3. A restore takes them as they were saved (log 33). -/
def saveTile (gid t : Nat) (s : State) : State :=
  let dst := devKey (t / 2048) (Config.saveArea gid t)
  let m := splice s.mem dst 0x164000 (cellsOf s.mem (spKey t 0) (2 ^ 20) dst)
  let m := putLanes (fun k => dst + 0x100000 + k % 65536 * 4) (s.acc.filter fun p => p.1 / 65536 == t) m
  let m := (s.macros.filter fun p => p.1 / 8 == t).foldl (fun m p => mwrite m (dst + 0x130000 + p.1 % 8 * 32768) p.2) m
  { s with mem := putLanes (fun k => dst + 0x160000 + k % 4096 * 4) (s.v.filter fun p => p.1 / 4096 == t) m }

/-- The fields of a core that no gang changes (R368, R369, R400). -/
def coreFree (c : Core) : Core :=
  { tenant := c.tenant, part := c.part, slice := c.slice, clamped := c.clamped, switchMin := c.switchMin, bartmo := c.bartmo
    grptmo := c.grptmo, heaptab := c.heaptab, snapSrc := c.snapSrc, snapEvent := c.snapEvent }

/-- The fields of a tile that no gang changes. -/
def tileFree (t : Tile) : Tile :=
  { failed := t.failed, tenant := t.tenant, part := t.part, allow := t.allow, rank := t.rank, errs := t.errs }

/-- A gang's cores hold no strands and none of its core state; its tiles still hold their bytes (R433 clears those). -/
def emptyCores (g : Gang) (s : State) : State :=
  { s with
    slots := (inTab g (· / 64) s.slots).foldl (fun t p => tput t p.1 { gen := p.2.gen }) s.slots
    g := outTab g (· / 4096) s.g
    k := outTab g (· / 1024) s.k
    q := outTab g (· / 1024) s.q
    place := outTab g (· / 8192) s.place
    file := outTab g (· / 8192) s.file
    cores := s.cores.map fun p => if inGang g (p.1 / 4) then (p.1, coreFree p.2) else p
    binds := outTab g (· / 256) s.binds
    pairs := outTab g (· / 32) s.pairs
    rx := outTab g (· / 16) s.rx
    ext := outTab g (· / 1024) s.ext
    vq := outTab g (· / 4) s.vq
    good := outTab g (· / 256) s.good
    cnInst := outTab g (· / 512) s.cnInst
    cnNext := outTab g (· / 1024) s.cnNext
    cnWait := outTab g (· / 2048) s.cnWait
    agenda := s.agenda.filter fun e => match eventTile s e.2.1 e.2.2 with
      | some t => !inGang g t
      | none => true }

/-- GANG_SAVE (R403; an A2A in flight has been interrupted, R347): every register goes to its frame, then the gang's state to its save area; its tiles are clear 2,100
cycles later (R433). -/
def execGangSave (s : State) : Res :=
  let gid := s.ev.b
  match gangAt s gid with
  | none => .next s
  | some g =>
    let s := (gangSids g).foldl (fun s sid => saveFrame sid (slotAt s sid).pc s) s
    let s := { s with cmds := s.cmds.map fun p =>
      if p.2.gang = some gid ∧ p.2.eng = 3 ∧ p.2.op = 18 ∧ p.2.placed = false then (p.1, { p.2 with resumed := true }) else p }
    let (seq, s) := freshId s
    let s := (gangTiles g).foldl (fun s t => saveTile gid t s) { s with saves := tput s.saves gid (saveOf g s) }
    let s := emptyCores g s
    let s := modGang gid (fun g => { g with active := false }) s
    let s := modJob g.pkey g.job (fun j => { j with st := 2, seq := seq }) s
    .next (post (s.now + 2100) .tileClear { a := gid, b := 1 } s)

/-- TILE_CLEAR (R433): every byte, vector register, accumulator and macro cell is zero, the tile's and the cores' queues are
empty, entries 16 to 63 are invalid, the vector groups are gone. After the last clear of a switch its step 5 begins. -/
def execTileClear (s : State) : Res :=
  match gangAt s s.ev.a with
  | none => .next s
  | some g =>
    let keys := ((inTab g (· / 4) s.cores).filterMap fun p => p.2.group)
    let s := emptyCores g s
    let s := { s with
      mem := s.mem.filter fun c => !(isSpKey c.1 && inGang g (spTile c.1))
      olds := s.olds.filter fun c => !(isSpKey c.1 && inGang g (spTile c.1))
      dirty := outTab g (fun k => spTile (k * 256)) s.dirty
      v := outTab g (· / 4096) s.v
      acc := outTab g (· / 65536) s.acc
      macros := outTab g (· / 8) s.macros
      tiles := s.tiles.map fun p => if inGang g p.1 then (p.1, tileFree p.2) else p
      rt := s.rt.filter fun p => !(inGang g (p.1 / 256) && decide (16 ≤ p.1 % 64))
      groups := s.groups.filter fun p => !(keys.contains p.1) }
    let more := s.agenda.any fun e => (e.2.1 == .tileClear || e.2.1 == .gangSave) && (match gangAt s (if e.2.1 == .tileClear then e.2.2.a else e.2.2.b) with
      | some x => x.pkey == g.pkey
      | none => false)
    .next (if (partAt s g.pkey).switching = 2 ∧ more = false then
        post s.now .gangPlace { a := g.pkey } (modPart g.pkey (fun p => { p with switching := 3 }) s)
      else s)

/-- The hops that a fallen-out message still has before it. -/
def fallHops (f : Nat × Msg) : Nat := hops f.1 (tidOfC (targetCid f.2))

/-- The shortest remaining route of a gang's fall-out messages. -/
def nextPhase (g : Gang) : Option Nat := lowest (g.fallout.map fallHops)

/-- Slot 0 of each core takes a trap recorded while the core's gang switched (R406). -/
def takeTraps (cids : List Nat) (s : State) : State :=
  cids.foldl (fun s c => if (coreAt s c).pend.isEmpty then s else post s.now .takeTrap { a := c } s) s

/-- A gang that comes back runs: a switch at its step 5 ends (R400). -/
def gangRuns (gid : Nat) (s : State) : State :=
  match gangAt s gid with
  | none => s
  | some g =>
    let s := modGang gid (fun g => { g with halted := 0 }) s
    if (partAt s g.pkey).switching = 3 then post s.now .gangSwitch { a := g.pkey, b := 2 } s else takeTraps (gangCores g) s

/-- Begins the re-injection of a gang's fall-out messages, or lets it run where there are none. -/
def reinject (gid : Nat) (s : State) : State :=
  match (gangAt s gid).bind nextPhase with
  | some h => post s.now .falloutPhase { a := gid, b := h } s
  | none => gangRuns gid s

/-- Messages of one phase enter the mesh, one a cycle at each router, in the order in which they fell out; the number of
cycles is returned. -/
def injectAll : List (Nat × Msg) → List Nat → State → Nat × State
  | [], seen, s => (seen.foldl (fun m r => max m (seen.count r)) 0, s)
  | f :: l, seen, s =>
    let u := tidOfC (targetCid f.2)
    injectAll l (f.1 :: seen) (post (s.now + seen.count f.1 + stillNeeds f.1 u) (if f.2.isQ then .qsendArrival else .xputArrival)
      { p := .msg f.2 } s)

/-- FALLOUT_PHASE (R402): the messages with `b` hops left are re-injected; the next phase begins once they have left their
routers. -/
def execFalloutPhase (s : State) : Res :=
  let gid := s.ev.a
  match gangAt s gid with
  | none => .next s
  | some g =>
    let now := g.fallout.filter fun f => fallHops f == s.ev.b
    let g' := { g with fallout := g.fallout.filter fun f => fallHops f != s.ev.b }
    let (n, s) := injectAll now [] { s with gangs := tput s.gangs gid g' }
    .next (match nextPhase g' with
      | some h => post (s.now + n) .falloutPhase { a := gid, b := h } s
      | none => if n = 0 then gangRuns gid s else post (s.now + n) .falloutPhase { a := gid, b := 10 ^ 9 } s)

/-! ### Heaps' colours (R155, R162) -/

/-- The heaps of a core's table whose GOOD is not 1, with their good colours. -/
def heapColours (s : State) (cid : Nat) : List (Nat × Nat) :=
  if (coreAt s cid).heaptab = 0 then []
  else (List.range 64).filterMap fun h =>
    let w := heapWords s cid h
    if hGood w = 1 then none else some (h, hGood w)

/-- The cores of a gang load their copies of GOOD; a heap of which a core lists none has 1. -/
def loadGood (g : Gang) (s : State) : State :=
  let cs := gangCores g
  let l := heapColours s (cs.headD 0)
  { s with good := cs.foldl (fun t c => l.foldl (fun t p => tput t (c * 64 + p.1) p.2) t) (outTab g (· / 256) s.good) }

/-- The page of a partition's heap table, where the load of GOOD has to wait for it (R155, R411). -/
def heapPageAway (s : State) (pk : Nat) : Option Nat :=
  let p := partAt s pk
  if p.heapTab = 0 then none
  else
    match engCheck s (pk / 64 * 2048) p.heapTab p.tenant 4096 with
    | (a, .wait) => some a
    | _ => none

/-! ### Restoring -/

/-- A stopped epilogue goes on at its next element (R401). -/
def resumeEpi (tid : Nat) (s : State) : State :=
  match (tileAt s tid).eactive with
  | none => s
  | some id =>
    match tfind s.cmds id with
    | none => s
    | some c =>
      if c.off = 1 ∧ c.nextAt = 0 then eConvert id { c with nextAt := s.now + 1 } s else s

/-- An interrupted copy goes on with its bytes not yet written, and a channel that a stop held back starts (R401). -/
def resumeCopies (tid : Nat) (s : State) : State :=
  (List.range 4).foldl (fun s ch =>
    match ((tileAt s tid).copyq.getD ch []).head? with
    | some id => if ((tfind s.cmds id).map (·.nextAt)) = some 0 then copyStart tid ch s else s
    | none => s) s

/-- GANG_RESTORE (R400 step 5, R403): the gang's cores and tiles are as they were saved, what was due in them is due after
as many cycles as before, and its fall-out messages are re-injected before it runs. -/
def execGangRestore (s : State) : Res :=
  let gid := s.ev.b
  match gangAt s gid, tfind s.saves gid with
  | some g, some v =>
    match heapPageAway s g.pkey with
    | some a => .next (post (s.now + 1) .gangRestore s.ev (engPark (2 ^ 61 + gid) (g.pkey / 64) a (partAt s g.pkey).tenant s))
    | none =>
    let s := { s with
      saves := tdel s.saves gid
      mem := v.mem.foldl (fun m c => mset m c.1 c.2) s.mem
      acc := putAll v.acc s.acc
      macros := putAll v.macros s.macros
      v := putAll v.v s.v
      dirty := putAll v.dirty s.dirty
      slots := putAll v.slots s.slots
      g := putAll v.g s.g
      k := putAll v.k s.k
      q := putAll v.q s.q
      place := putAll v.place s.place
      file := putAll v.file s.file
      cores := putAll (v.cores.map fun p =>
        let c := coreAt s p.1
        (p.1, { p.2 with tenant := c.tenant, part := c.part, slice := c.slice, clamped := c.clamped, switchMin := c.switchMin
                         bartmo := c.bartmo, grptmo := c.grptmo, heaptab := c.heaptab, snapSrc := c.snapSrc
                         snapEvent := c.snapEvent })) s.cores
      rt := putAll v.rt (outTab g (· / 256) s.rt)
      binds := putAll v.binds s.binds
      pairs := putAll v.pairs s.pairs
      rx := putAll v.rx s.rx
      ext := putAll v.ext s.ext
      vq := putAll v.vq s.vq
      tiles := putAll (v.tiles.map fun p =>
        let t := tileAt s p.1
        (p.1, { p.2 with failed := t.failed, tenant := t.tenant, part := t.part, allow := t.allow, rank := max t.rank p.2.rank, errs := t.errs })) s.tiles
      cnGrp := putAll v.cnGrp s.cnGrp
      cnInst := putAll v.cnInst s.cnInst
      cnNext := putAll v.cnNext s.cnNext
      cnWait := putAll v.cnWait s.cnWait
      agenda := s.agenda ++ v.events.map fun e => (e.1 - v.at_ + s.now, e.2) }
    let s := modGang gid (fun g => { g with active := true, halted := 3 }) s
    let s := modJob g.pkey g.job (fun j => { j with st := 1 }) s
    let s := loadGood g s
    let s := (gangTiles g).foldl (fun s t => resumeCopies t (resumeEpi t s)) s
    .next (reinject gid s)
  | _, _ => .next s

/-! ### The switch (R400) -/

/-- GANG_SWITCH (R400): `b` 0, the stamp `w` has been reached: the cores stop, unless an earlier switch or a debug stop holds
it; `b` 1, the gangs are saved once drained; `b` 2, the switch ends. -/
def execGangSwitch (s : State) : Res :=
  let pk := s.ev.a
  let p := partAt s pk
  let res := (residents s pk).filter fun x => !gangEnding s x.2
  match s.ev.b with
  | 0 =>
    if p.stamp.map word ≠ some s.ev.w then .next s
    else if p.switching ≠ 0 ∨ p.stopped = true ∨ (res.any fun x => x.2.halted != 0) = true then
      .next (post (s.now + 1) .gangSwitch s.ev s)
    else
      let s := epiClock (res.map (·.2)) (stopGangs (res.map (·.1)) s)
      .next (post s.now .gangSwitch { a := pk, b := 1 } (modPart pk (fun p => { p with stamp := none, switching := 1 }) s))
  | 1 =>
    if res.all fun x => gangDrained s x.1 x.2 then
      let s := epiClockOff (res.map (·.2)) s
      if res.isEmpty then
        .next (post s.now .gangPlace { a := pk } (modPart pk (fun p => { p with switching := 3 }) s))
      else
        .next (res.foldl (fun s x => post s.now .gangSave { a := pk, b := x.1 } s) (modPart pk (fun p => { p with switching := 2 }) s))
    else .next (post (s.now + 1) .gangSwitch s.ev s)
  | _ =>
    .next (if p.switching = 3 then
      takeTraps (partCores s pk) (modPart pk (fun p => { p with switching := 0, lastSwitch := some s.now }) s) else s)

/-! ### Placing (R429 to R432, R435) -/

/-- A job's rectangle (R429). -/
def jobRect (d : List Word) : Nat × Nat × Nat × Nat :=
  let w := d.getD 1 0#64
  (wfield w 0 6, wfield w 6 5, wfield w 11 7, wfield w 18 6)
/-- Two rectangles share a tile; one with no tiles overlaps nothing. -/
def rectHits (a b : Nat × Nat × Nat × Nat) : Bool :=
  decide (0 < a.2.2.1 ∧ 0 < a.2.2.2 ∧ 0 < b.2.2.1 ∧ 0 < b.2.2.2) && decide (a.1 < b.1 + b.2.2.1) && decide (b.1 < a.1 + a.2.2.1) && decide (a.2.1 < b.2.1 + b.2.2.2) && decide (b.2.1 < a.2.1 + a.2.2.2)
def gangRect (g : Gang) : Nat × Nat × Nat × Nat := (g.x0, g.y0, g.w, g.h)

def jRecs (d : List Word) : Nat := wfield (d.getD 2 0#64) 0 56
def jNrec (d : List Word) : Nat := wfield (d.getD 3 0#64) 0 16
def jQkey (pk : Nat) (d : List Word) : Nat := qKey (pk / 64) (wfield (d.getD 3 0#64) 20 7) (wfield (d.getD 3 0#64) 16 4)

/-- A cluster holds a tile of a rectangle. -/
def clusterHits (cl : Nat) (r : Nat × Nat × Nat × Nat) : Bool := rectHits (cl % 16 * 4, cl / 16 * 4, 4, 4) r

/-- The tiles of a rectangle. -/
def rectTiles (pkg : Nat) (r : Nat × Nat × Nat × Nat) : List Nat :=
  (List.range r.2.2.2).flatMap fun j => (List.range r.2.2.1).map fun i => pkg * 2048 + (r.2.1 + j) * 64 + r.1 + i

/-- The checks at a job's first placement: the status with which it ends at once (R431). -/
def jobCheck (s : State) (pk : Nat) (j : Job) : Option Nat :=
  let p := partAt s pk
  let w (i : Nat) : Word := j.desc.getD i 0#64
  let r := jobRect j.desc
  let q := qAt s (jQkey pk j.desc)
  let cl := wfield (w 3) 20 7
  if wfield (w 0) 61 3 ≠ 0 ∨ wfield (w 1) 40 24 ≠ 0 ∨ wfield (w 2) 56 8 ≠ 0 ∨ wfield (w 3) 27 37 ≠ 0 ∨ wfield (w 4) 56 8 ≠ 0
      ∨ w 6 ≠ 0#64 ∨ w 7 ≠ 0#64 ∨ wfield (w 0) 0 1 ≠ 0 ∨ r.2.2.1 = 0 ∨ r.2.2.2 = 0 then some 2
  else if r.1 < p.x0 ∨ r.2.1 < p.y0 ∨ p.x0 + p.w < r.1 + r.2.2.1 ∨ p.y0 + p.h < r.2.1 + r.2.2.2 then some 2
  else if 0 < jNrec j.desc ∧ (clusterHits cl r = false ∨ qServes s pk cl (wfield (w 3) 16 4) = false) then some 2
  else if wfield (w 0) 56 1 = 1 ∧ j.super = false then some 2
  else if (32 - q.ents.length) + (if q.rsz = 0 then 0 else 2 ^ q.rsz - qRing q) < jNrec j.desc then some 3
  else if (rectTiles (pk / 64) r).any fun t => (tileAt s t).failed then some 4
  else none

/-- Pushes a job's initial records in address order (R432 step 1); a record whose page refuses the TDU has free words, and one
that finds no room is held until there is. -/
def pushRecs (pk qk va ten : Nat) : Nat → State → State
  | 0, s => s
  | n + 1, s =>
    let s := pushRecs pk qk va ten n s
    let own := pk / 64 * 2048
    let (ws, s) := match engRead s own (va + 64 * n) ten 64 with
      | some bs => (bytesWords 8 bs, s)
      | none => ((List.range 8).map fun i => Config.freeWord (s.free + i), { s with free := s.free + 8 })
    if qRoom (qAt s qk) = .full then
      modPart pk (fun p => { p with held := p.held ++ [(word (qk % 16 + qk / 16 % 128 * 16), ws, s.now)] }) s
    else pushQ qk ws (s.now + 4) s

/-- A core as a fresh placement sets it up (R432). -/
def coreFresh (p : Part) (gid : Nat) (mode : Bool) (c : Core) : Core :=
  { coreFree c with modeS := mode, tvec := p.tvec, gang := some gid, weight := 4 }

/-- Fresh placement (R432): the cycle of the first issue, and the state. The partition's first placement is what R386's E counts from
before its first switch (log 103). -/
def placeFresh (pk : Nat) (j : Job) (s : State) : Nat × State :=
  let p := partAt s pk
  let d := j.desc
  let (x0, y0, w, h) := jobRect d
  let qk := jQkey pk d
  let before := (qAt s qk).wr
  let s := pushRecs pk qk (jRecs d) p.tenant (jNrec d) s
  let first := s.now + 500 + 4 * jNrec d + 220 * ((qAt s qk).wr - before)
  let (gid, s) := freshId s
  let w0 := d.getD 0 0#64
  let g : Gang :=
    { pkey := pk, job := j.num, x0 := x0, y0 := y0, w := w, h := h, sstep := wfield w0 57 1 == 1
      tag := if j.tag = 0 then j.num % 65536 else j.tag, bmask := wfield (d.getD 1 0#64) 24 16 }
  let s := { s with gangs := tput s.gangs gid g }
  let s := modPart pk (fun p => { p with lastSwitch := some (p.lastSwitch.getD s.now) }) s
  let s := modJob pk j.num (fun x => { x with st := 1, gid := gid, tag := g.tag }) s
  let args := [d.getD 5 0#64, word j.num, word (rectWord x0 y0 w h + p.tenant % 4096 * 2 ^ 24)]
  let s := (gangCores g).foldl (fun s c =>
    let s := { s with
      rt := p.tmpl.foldl (fun t e => tput t (c * 64 + e.1 % 16) (rtBits0 e.2.1, rtBits1 e.2.2)) (s.rt.filter fun x => x.1 / 64 != c)
      binds := s.binds.filter fun x => x.1 / 64 != c }
    let s := modCore c (coreFresh p gid (wfield w0 56 1 == 1)) s
    let (team, s) := freshId s
    handTo (c * 16) (joinSeen p.codeSeen j.codeSeen) (initStrand (c * 16) team (wfield w0 0 56) false args first g.sstep j.after s)) s
  (first, loadGood g s)

/-- Starts the end of a job with a status (R434). -/
def endJob (pk num status : Nat) (s : State) : State :=
  match (partAt s pk).jobs.find? fun j => j.num == num && j.st != 3 with
  | none => s
  | some j =>
    let live := j.st == 1 || j.st == 2
    post s.now .jobEnd { a := pk, b := num, c := if live then 0 else 2 }
      (modJob pk num (fun j => { j with st := 3, status := status }) s)

/-- The pages of a job's records and of the heap table, and for records the accesses that its submission releases: both there, or a page to wait for. The
control contexts wait for the released accesses themselves (R149). -/
def jobReady (s : State) (pk : Nat) (j : Job) : Bool × Option Nat :=
  match engCheck s (pk / 64 * 2048) (jRecs j.desc) (partAt s pk).tenant (64 * jNrec j.desc), heapPageAway s pk with
  | (a, .wait), _ => (false, some a)
  | _, some a => (false, some a)
  | _, none => (jNrec j.desc == 0 || released s j.after, none)

/-- Inserts a job by priority and order of entry. -/
def jobInsert (j : Job) : List Job → List Job
  | [] => [j]
  | k :: r =>
    let key (x : Job) : Nat × Nat := (wfield (x.desc.getD 0 0#64) 58 3, x.seq)
    if (key j).1 < (key k).1 ∨ ((key j).1 = (key k).1 ∧ (key j).2 < (key k).2) then j :: k :: r else k :: jobInsert j r

/-- Place() of R435 over the jobs in queue order, with the rectangles of earlier jobs that still wait. -/
def placeJobs (pk : Nat) : List Job → List (Nat × Nat × Nat × Nat) → State → State
  | [], _, s => s
  | j :: l, ahead, s =>
    let r := jobRect j.desc
    let taken := (residents s pk).any fun x => rectHits (gangRect x.2) r
    if taken ∨ (ahead.any fun q => rectHits q r) = true then placeJobs pk l (r :: ahead) s
    else if j.st = 2 then
      placeJobs pk l ahead (post s.now .gangRestore { a := pk, b := j.gid }
        (modGang j.gid (fun g => { g with active := true, halted := 3 }) s))
    else
      match jobCheck s pk j with
      | some st => placeJobs pk l ahead (endJob pk j.num st s)
      | none =>
        match jobReady s pk j with
        | (false, some a) => placeJobs pk l (r :: ahead)
            (post (s.now + 1) .gangPlace { a := pk } (engPark (2 ^ 61 + pk * 65536 + j.num) (pk / 64) a (partAt s pk).tenant s))
        | (false, none) => placeJobs pk l (r :: ahead) (post (s.now + 1) .gangPlace { a := pk } s)
        | (true, _) =>
          let (first, s) := placeFresh pk j s
          placeJobs pk l ahead (if (partAt s pk).switching = 3 then post first .gangSwitch { a := pk, b := 2 } s else s)

/-- GANG_PLACE (R435): in a switch, only at its step 5; a stopped partition places nothing before its resume. A gang placed
while STOPREQ is 1 is asked to stop (R458). -/
def execGangPlace (s : State) : Res :=
  let pk := s.ev.a
  let p := partAt s pk
  if p.made = false ∨ ¬ (p.switching = 0 ∨ p.switching = 3) ∨ p.stopped = true then .next s
  else
    let q := (p.jobs.filter fun j => j.st == 0 || j.st == 2).foldl (fun l j => jobInsert j l) []
    let n := (residents s pk).length
    let s := placeJobs pk q [] s
    let s := if p.switching = 3 ∧ (residents s pk).isEmpty then post s.now .gangSwitch { a := pk, b := 2 } s else s
    .next (if p.stopreq && decide (n < (residents s pk).length) then post s.now .debugStopRequest { a := pk } s else s)

/-! ### Ending (R434) -/

/-- A gang's killed strands, looked at once: the state, and whether all are FREE. -/
def killAll : List Nat → State → State × Bool
  | [], s => (s, true)
  | sid :: l, s =>
    if (slotAt s sid).st = .free then killAll l s
    else
      let (s, a) := killStep sid (if (slotAt s sid).killed then s else killMark sid s)
      let (s, b) := killAll l s
      (s, a && b)

/-- A binding of a saved gang that is killed is released, with the dirty sub-blocks of its saved image (R124). -/
def savedSend (gid : Nat) (v : Saved) (k : Nat) (b : Binding) (g : Guard) (s : State) : State :=
  let cid := k / 64
  let excl := g.st == .excl
  let key := spKey (tidOfC cid) (rtView (tget v.rt k (0#64, 0#64))).base
  let dirty := if excl && !g.home && !b.pend then (List.range g.nsb).filter fun i => tget v.dirty (key / 256 + i) false else []
  let rel : GRel := ⟨b.guard, cid, k % 64 + 64 * (gid + 1), excl, dirty⟩
  let (id, s) := freshId s
  let w : WriteBehind :=
    { rel := rel, issued := s.now, sid := cid * 16, key := key, sent := true, data := dirty.flatMap fun i => mread v.mem (key + 256 * i) 256 }
  let s := { s with wbs := tput s.wbs id w }
  let s := postLeg (coreEnd cid) (vergerEnd b.guard) 15 35 0 0 56 .guardRelease { a := id, p := .grel rel } s
  if dirty = [] then s
  else postLeg (coreEnd cid) (homeEnd b.guard g.base) 30 50 (8 * dirty.length + 160) 2 (256 * dirty.length) .writeBehindComplete { a := id } s

/-- An UNBIND of a saved binding is on its way there or back. -/
def savedUnbinding (s : State) (gd h : Word) : Bool :=
  let mine (q : GAsk) : Bool := q.id == 0 && q.guard == gd && q.words.getD 1 0#64 == h
  s.agenda.any fun e => match e.2.2.p with
    | .gask q => mine q
    | .gtrap q _ _ _ => mine q
    | _ => false

/-- One step of releasing and unbinding what a saved gang that is killed binds, each request being first allowed to complete (R113, R434):
the state, and whether nothing is left. -/
def savedRelease (gid : Nat) (s : State) : State × Bool :=
  match tfind s.saves gid with
  | none => (s, true)
  | some v =>
    v.binds.foldl (fun (s, done) p =>
      let cid := p.1 / 64
      let b := p.2
      let h := p.1 % 64 + 64 * (gid + 1)
      let holds := (guardOf s b.guard).filter fun g => g.holders.contains (cid, h)
      let leaving := s.wbs.any fun w => w.2.rel.cid == cid && w.2.rel.entry == h
      if b.pend ∧ grantComing s b.guard cid h = true then (s, false)
      else if homeLost s cid b.guard then
        ({ s with saves := s.saves.map fun x => if x.1 = gid then (x.1, { x.2 with binds := tdel x.2.binds p.1 }) else x }, done)
      else if leaving then (s, false)
      else
        match holds with
        | some g => (savedSend gid v p.1 b g s, false)
        | none =>
          if savedUnbinding s b.guard (word h) then (s, false)
          else
            (postLeg (coreEnd cid) (vergerEnd b.guard) 15 35 0 0 56 .guardRequest
              { p := .gask { op := .unbind, guard := b.guard, cid := cid, sid := cid * 16, gen := 1000, id := 0, rid := 0
                             issued := s.now, words := [word p.1, word h] } } s, false)) (s, true)

/-- What a killed saved gang still has to finish: its releases, its accesses, and the commands that run without its tiles. -/
def savedBusy (gid : Nat) (s : State) : Bool :=
  !(savedRelease gid s).2 || (s.wbs.any fun p => p.2.rel.entry / 64 == gid + 1)
  || (s.accs.any fun p => p.2.gang == some gid && !p.2.performed && !p.2.rejected)
  || (s.cmds.any fun p => p.2.gang == some gid)

/-- A gang's fall-out messages are dropped, and what its core keeps of each. -/
def dropFallout (gid : Nat) (s : State) : State :=
  let ids := (((gangAt s gid).map (·.fallout)).getD []).map (·.2.acc)
  modGang gid (fun g => { g with fallout := [] }) { s with accs := s.accs.filter fun p => !ids.contains p.1 }

/-- JOB_END (R434): `c` 0, every strand of the gang is killed, or a saved gang is removed with its bindings released; `c` 1, its last
access is waited for and its tiles are cleared; `c` 2, the completion word is written and the entry freed. -/
def execJobEnd (s : State) : Res :=
  let pk := s.ev.a
  let num := s.ev.b
  match (partAt s pk).jobs.find? fun j => j.num == num && j.st == 3 with
  | none => .next s
  | some j =>
    match s.ev.c with
    | 0 =>
      match gangAt s j.gid with
      | none => .next (post s.now .jobEnd { a := pk, b := num, c := 2 } s)
      | some g =>
        if (g.active ∧ g.halted = 3) ∨ (s.agenda.any fun e => e.2.1 == .tileClear && e.2.2.a == j.gid) = true then
          .next (post (s.now + 1) .jobEnd s.ev s)
        else if g.active then
          .next (post s.now .jobEnd { a := pk, b := num, c := 1 } ((gangSids g).foldl (fun s sid =>
            if (slotAt s sid).st = .free then s else killMark sid s)
              (dropFallout j.gid s)))
        else
          let seen := (gangSids g).foldl (fun t sid => joinSeen t [(sid, s.now)]) (partAt s pk).codeSeen
          let s := modPart pk (fun p => { p with codeSeen := seen }) (dropFallout j.gid s)
          .next (post (s.now + 1) .jobEnd { a := pk, b := num, c := 1 } { s with
            accs := s.accs.map fun p => if p.2.gang = some j.gid then (p.1, { p.2 with gen := 1000 }) else p
            cmds := (s.cmds.filter fun p => p.2.gang != some j.gid || p.2.op == 20 || p.2.op == 21 || p.2.op == 22 || p.2.op == 23).map
              fun p => if p.2.gang = some j.gid then (p.1, { p.2 with gen := 1000 }) else p
            gangs := tdel s.gangs j.gid })
    | 1 =>
      match gangAt s j.gid with
      | none =>
        if savedBusy j.gid s then .next (post (s.now + 1) .jobEnd s.ev (savedRelease j.gid s).1)
        else .next (post s.now .jobEnd { a := pk, b := num, c := 2 } { s with
          saves := tdel s.saves j.gid
          guards := s.guards.map fun p => (p.1, { p.2 with binds := p.2.binds.filter fun b => b.2 / 64 != j.gid + 1 })
          accs := s.accs.filter fun p => p.2.gang != some j.gid })
      | some g =>
        let seen := (gangSids g).foldl (fun t sid => joinSeen t (handed s sid)) (partAt s pk).codeSeen
        let (s, done) := killAll (gangSids g) (modPart pk (fun p => { p with codeSeen := seen }) s)
        let busy := s.accs.any (fun p => p.2.gang == some j.gid && !p.2.rejected) || s.cmds.any fun p => p.2.gang == some j.gid
        if !done || busy then .next (post (s.now + 1) .jobEnd s.ev s)
        else
          let s := { s with accs := s.accs.filter fun p => p.2.gang != some j.gid }
          .next (post (s.now + 2100) .jobEnd { a := pk, b := num, c := 2 } (post (s.now + 2100) .tileClear { a := j.gid } s))
    | _ =>
      let p := partAt s pk
      let a := wfield (j.desc.getD 4 0#64) 0 56
      let own := pk / 64 * 2048 + p.y0 * 64 + p.x0
      let free (s : State) : State :=
        let s := { s with gangs := tdel s.gangs j.gid, saves := tdel s.saves j.gid }
        post s.now .gangPlace { a := pk } (modPart pk (fun p => { p with jobs := p.jobs.filter fun x => x.num != num }) s)
      if a = 0 then .next (free s)
      else
        match engCheck s own a p.tenant 8 with
        | (x, .wait) => .next (post (s.now + 1) .jobEnd s.ev (engPark (2 ^ 61 + 2 ^ 60 + pk * 65536 + num) (pk / 64) x p.tenant s))
        | _ => .next (free (engWrite own a p.tenant (natBytes 8 (num + j.status * 2 ^ 16)) (markDSpan own a 8 s)))

/-- TDU_JDONE (R434): a write that names a job not resident on the core is ignored; the last core's write ends the job. -/
def execTduJdone (s : State) : Res :=
  let cid := s.ev.a
  let num := s.ev.b
  let pk := pkeyOf s cid
  match (partAt s pk).jobs.find? fun j => j.num == num && j.st == 1 with
  | none => .next s
  | some j =>
    match gangAt s j.gid with
    | none => .next s
    | some g =>
      if (gangCores g).contains cid = false then .next s
      else
        let done := if j.done.contains cid then j.done else j.done ++ [cid]
        let s := modJob pk num (fun j => { j with done := done }) s
        .next (if (gangCores g).all fun c => done.contains c then endJob pk num 0 s else s)

/-- TDU_JKILL (R434, R439): the last TDU_JDONE of the job in the same cycle comes first. -/
def execTduJkill (s : State) : Res :=
  .next (if s.ev.flag then endJob (pkeyOf s s.ev.a) s.ev.b 1 s
    else post (s.now + 1) .tduJkill { s.ev with flag := true } s)

/-- TILE_FAILURE (R427, R431): the tile is left out of new partitions and jobs, and a placed job that holds it ends LOST. -/
def execTileFailure (s : State) : Res :=
  let tid := s.ev.a
  let s := modTile tid (fun t => { t with failed := true }) s
  .next (s.gangs.foldl (fun s p => if inGang p.2 tid then endJob p.2.pkey p.2.job 4 s else s) s)

end Sys2Proof.Machine
end

