-- ==== Sys2Proof/Machine/Debug.lean ====
section
/-!
DEFINITION. Debug stops, steps and resumes, trace samples, snapshots, lifetime counters (R457 to R463, spec/23; R181).
-/

namespace Sys2Proof.Machine

/-! ### Stopping and resuming (R458, R181) -/

/-- A notice up every cross-package route that a package's Pavilions serve. -/
def noticeAll (pkg : Nat) (ev : Instr) (s : State) : State :=
  [pkg * 2, pkg * 2 + 1].foldl (fun s fk => (List.range 256).foldl (fun s g => noticeUp fk g ev s) s) s

/-- The package's fabric HALTED flag follows its partitions' STOPPED. -/
def fabricFlag (pkg : Nat) (s : State) : State :=
  let on := s.parts.any fun p => p.1 / 64 == pkg && p.2.stopped
  let was := (pkgAt s pkg).fabricHalted
  let s := modPkg pkg (fun k => { k with fabricHalted := on }) s
  if on && !was then noticeAll pkg .ferHaltNotice s
  else if was && !on then noticeAll pkg .ferResumeNotice s
  else s

/-- A gang stops: its superstep count is kept, a stop record is written, and once every resident gang has stopped the
partition is STOPPED. -/
def stopGang (gid : Nat) (g : Gang) (s : State) : State :=
  let pk := g.pkey
  let ss := if g.sstep then g.count else 0#64
  let s := modGang gid (fun g => { g with halted := 2 }) s
  let s := traceWrite pk [word (timeNs s.now), g.count, traceWord2 3 ((gangCores g).headD 0) 0, 0#64]
    (modPart pk (fun p => { p with stopss := ss }) s)
  let s := fireEvent pk 2 s
  if (residents s pk).all fun x => x.2.halted == 2 then
    fabricFlag (pk / 64) (modPart pk (fun p => { p with stopped := true }) s)
  else s

/-- DEBUG_STOP_REQUEST (R457, R458, R460): a gang not in superstep mode stops issue, its traffic falls out, and it drains; one
in superstep mode goes on to the end of an exchange step, which may be this cycle's. -/
def execDebugStopRequest (s : State) : Res :=
  let pk := s.ev.a
  let p := partAt s pk
  if p.stopreq = false ∨ p.stopped = true then .next s
  else if p.switching ≠ 0 then .next (post (s.now + 1) .debugStopRequest s.ev s)
  else
    let run := (residents s pk).filter fun x => x.2.halted == 0
    let free := run.filter fun x => !x.2.sstep
    let s := epiClock (free.map (·.2)) (stopGangs (free.map (·.1)) s)
    let s := free.foldl (fun s x => post s.now .debugStop { a := pk, b := 1, c := x.1 } (modGang x.1 (fun g => { g with halted := 1 }) s)) s
    .next (run.foldl (fun s x => if x.2.sstep ∧ x.2.ended = s.now + 1 then post s.now .debugStop { a := pk, c := x.1 } s else s) s)

/-- DEBUG_STOP (R458): gang `c` stops now (`b` 0), or once it is drained (`b` 1). -/
def execDebugStop (s : State) : Res :=
  match gangAt s s.ev.c with
  | none => .next s
  | some g =>
    if g.active = false ∨ g.halted ≥ 2 then .next s
    else if s.ev.b = 1 ∧ gangDrained s s.ev.c g = false then .next (post (s.now + 1) .debugStop s.ev s)
    else .next (stopGang s.ev.c g (epiClockOff [g] s))

/-- DEBUG_RESUME (R458): the stopped gangs come back as step 5 of R400 brings them, and placing goes on; their cores leave HALTED (R384). -/
def execDebugResume (s : State) : Res :=
  let pk := s.ev.a
  if (partAt s pk).stopped = false then .next s
  else
    let s := fabricFlag (pk / 64) (modPart pk (fun p => { p with stopped := false, stopreq := false, stepping := none }) s)
    let l := (residents s pk).filter fun x => x.2.halted == 2
    .next (post s.now .gangPlace { a := pk }
      (l.foldl (fun s x => reinject x.1 ((gangTiles x.2).foldl (fun s t => resumeCopies t (resumeEpi t s))
        (modGang x.1 (fun g => { g with halted := 3 }) ((gangCores x.2).foldl (fun s c => modCore c (fun c => { c with halted := false }) s) s)))) s))

/-! ### Steps (R459) -/

/-- TDU_STEP (R459): the named strand of a stopped gang issues one instruction; a slot that is not READY sets NOTREADY. -/
def execTduStep (s : State) : Res :=
  let pk := s.ev.a
  let p := partAt s pk
  let sid := s.ev.b * 16 + s.ev.c
  if p.stopped = false then .next s
  else if (partCores s pk).contains s.ev.b ∧ s.ev.c ≤ 10 ∧ (slotAt s sid).st = .ready then
    .next (modPart pk (fun p => { p with stepping := some (sid, 0) }) s)
  else .next (modPart pk (fun p => { p with stepNotReady := true }) s)

/-- The stepped strand waits for an answer to what it has issued, not for an event that may never come. -/
def stepAnswer (s : State) (sid : Nat) : Bool :=
  let x := slotAt s sid
  x.hold && (match tfind s.accs x.heldBy with
    | some a => a.kind != .watch && a.kind != .fetch && !(a.kind == .msg && s.agenda.any fun e => e.2.1 == .qsendResend && e.2.2.a == x.heldBy)
    | none => x.heldBy != 0 && !x.arrived)

/-- STEP_DONE (R459): looked at each cycle after the attempt. An instruction that waits is abandoned and sets WAITED; else
DONE is set once everything it started has drained. -/
def execStepDone (s : State) : Res :=
  let pk := s.ev.a
  let cid := s.ev.b
  let sid := cid * 16 + s.ev.c
  let x := slotAt s sid
  match (partAt s pk).stepping with
  | none => .next s
  | some (t, n) =>
    if t ≠ sid ∨ n = 0 then .next s
    else
      let fin (f : Part → Part) (s : State) : State := modPart pk (fun p => f { p with stepping := none }) s
      if (x.st = .waiting ∨ x.st = .parked) ∧ stepAnswer s sid = false then
        .next (fin (fun p => { p with stepWaited := true }) (abandon sid s))
      else
        let open' := x.hold || (s.accs.any fun p => decide (n ≤ p.1 + 1) && p.2.sid == sid && p.2.gen == x.gen && !p.2.rejected)
          || (s.cmds.any fun p => decide (n ≤ p.1 + 1) && p.2.sid == sid && p.2.gen == x.gen)
          || ((tget s.vq cid []).any fun e => decide (n ≤ e.vid + 1) && e.sid == sid && e.gen == x.gen)
        if open' then .next (post (s.now + 1) .stepDone s.ev s)
        else .next (fin (fun p => { p with stepDone := true }) s)

/-! ### Trace samples (R461) -/

/-- TRACE_SAMPLE (R461): every core of each resident gang writes one record, in ascending core number; `w` is the TDU_TRCFG
under which the sampling began. -/
def execTraceSample (s : State) : Res :=
  let pk := s.ev.a
  let cfg := (partAt s pk).trcfg
  if cfg ≠ s.ev.w ∨ wfield cfg 8 1 = 0 ∨ wfield cfg 0 5 = 0 then .next s
  else
    let cores := (partCores s pk).filter fun c => (coreAt s c).gang.isSome
    let one (c : Nat) (s : State) : State :=
      let n := (coreAt s c).lastA
      traceWrite pk [word (timeNs s.now), countOf s c, traceWord2 1 c n, word (slotAt s (c * 16 + n)).lastPc] s
    .next (post (s.now + 256 * max 1 (wfield cfg 16 16)) .traceSample s.ev (cores.foldl (fun s c => one c s) s))

/-! ### Snapshots (R462) -/

/-- SNAPSHOT_FIRE (R462): every copy latches its counter. With `b` 1 it is the trigger of SNAP's stamp `w`, where that is still
armed. -/
def execSnapshotFire (s : State) : Res :=
  let pk := s.ev.a
  let p := partAt s pk
  if s.ev.b = 1 ∧ p.snapAt ≠ some s.ev.w.toNat then .next s
  else
    let vals := (snapAddrs (pk / 64) p).map fun a => (snapKey a, (blockGet s (pk / 64) (pk % 64) (pk / 64 * 8192) a).getD 0#64)
    .next (modPart pk (fun p => { p with snap := vals, fired := true, armed := false, snapAt := none }) s)

/-! ### Lifetime counters (R463) -/

/-- Counts added to the store's, each saturating at 32 bits. -/
def mergeLife (store now : List (Nat × Nat)) : List (Nat × Nat) :=
  now.foldl (fun t p => tput t p.1 (min (2 ^ 32 - 1) (tget t p.1 0 + p.2))) store

/-- The histogram samples of an update: a temperature in °C for each die, then the module's power in W. -/
def lifeSamples : Nat → List Word → List (Nat × Nat)
  | _, [] => []
  | i, w :: l =>
    (if i < 11 then (0x40000 + i * 8 + min 7 ((w.toNat - 40) / 10), 1) else (0x50000 + min 9 (w.toNat / 500), 1)) :: lifeSamples (i + 1) l

/-- LIFETIME_COUNTER_UPDATE (R463): the counts of the last 10 minutes go to the trust die's store; the payload, from the
sensors, is a temperature for each of the 11 dies and the power. -/
def execLifetimeCounterUpdate (s : State) : Res :=
  let pkg := s.ev.a
  let sam := match s.ev.p with
    | .words l => lifeSamples 0 l
    | _ => []
  if (pkgAt s pkg).powered = false then .next s
  else
    .next (post (s.now + 1500000000000) .lifetimeCounterUpdate { a := pkg }
      (modPkg pkg (fun k => { k with life := mergeLife (mergeLife k.life k.lifeNow) sam, lifeNow := [] }) s))

end Sys2Proof.Machine
end

