-- ==== Sys2Proof/Machine/Fabric.lean ====
section
/-!
DEFINITION. Links, transport and package failure (R443 to R449, R454, R455, spec/22).
-/

namespace Sys2Proof.Machine

/-! ### Ports (R446 to R448) -/

/-- The Pavilion of a port, and its number there. -/
def portFer (k : Nat) : Nat := k / 36 * 2 + k % 36 / 18

/-- The cycles of a mesh message from an E-die to a tile, which it enters at the edge of the tile's row: the timing of an XPUT with the
hops and die boundaries from that E-die (R447, R250, R13, log 91). -/
def edgeMessage (e tid : Nat) : Nat :=
  let h := if e = 0 then tileX tid + 1 else 64 - tileX tid
  6 + 3 * h + 8 * ((h - 1) / 16 + 1)

/-- FER_EVLOST of a partition counts an event of a port that is not taken (R447). -/
def eventLost (k part : Nat) (s : State) : State :=
  modFer (portFer k) (fun f => { f with evlost := tput f.evlost part ((tget f.evlost part 0 + 1) % 2 ^ 32) }) s

/-- A bandwidth event to every partition whose EN bit is set at the port's Pavilion, and the counts of a change (R447, R462,
R463). -/
def portChanged (k : Nat) (s : State) : State :=
  let pkg := k / 36
  let s := fireEventPkg pkg 4 (bumpLife pkg (0x10000 + k % 36) s)
  (ferAt s (portFer k)).lnotify.foldl (fun s n =>
    let w := n.2
    let q := wfield w 25 16
    let cid := q * 8192 + wfield w 0 13
    if wfield w 43 1 = 1 then
      sendNotice pkg q (edgeMessage (k % 36 / 18) (tidOfC cid)) 1 .bandwidthEventArrival
        { a := k, b := cid * 4 + wfield w 41 2, c := wfield w 13 4, d := wfield w 17 8, e := n.1, w := pstat (portAt s k) }
        (eventLost k n.1) s
    else s) s

/-- BANDWIDTH_EVENT_ARRIVAL (R447, R448): in queue `b`, bound by slot `c` in generation `d`; one that is not taken counts in
FER_EVLOST of partition `e`. -/
def execBandwidthEventArrival (s : State) : Res :=
  let k := s.ev.a
  let rk := s.ev.b
  let part := s.ev.e
  let q := rxAt s rk
  let sender := word (2 ^ 63 + 2 ^ 61 + k % 36 / 18 * 2 ^ 6 + k % 18)
  let lost := eventLost k part s
  if noticeTaken s rk s.ev.c s.ev.d (k / 36 * 64 + part) = false then .next lost
  else if direct s rk sender then .next (rxTake rk sender s.ev.w s)
  else if ovRoom q = 0 then .next lost
  else .next (rxAppend rk { isQ := true, target := 0#64, pkg := rk / 4 / 8192, idx := rk % 4, payload := s.ev.w, sender := sender,
                            srcSid := 0, acc := 0, tenant := 0, part := 0, tag := 0, spill := true, foreign := false } s)

/-- The packages that a package can reach by no port that is up. -/
def cutOff (s : State) (p : Nat) : List Nat :=
  (((pkgAt s p).routes.map (·.1)).eraseDups).filter fun q => (pickPort s p q).isNone

/-- A port goes down: its unacknowledged packets go to the store's resend, and a package that no port reaches is declared
failed (R446, R454). -/
def portDown (k : Nat) (s : State) : State :=
  let s := modPort k (fun p => { p with up := false, width := 0, lanes := 0, retraining := false, replay := [] }) s
  let ids := (s.pkts.filter fun p => p.2.port == k && p.2.st == 2).map (·.1)
  let s := { s with agenda := s.agenda.filter fun e => !(e.2.1 == .transportPacketArrival && ids.contains e.2.2.a) }
  let s := ids.foldl (fun s id => post s.now .transportResend { a := id, b := ((tfind s.pkts id).map (·.resends)).getD 0 } s) s
  let s := portChanged k s
  (cutOff s (k / 36)).foldl (fun s q => post s.now .packageFailureDeclare { a := k / 36, b := q } s) s

/-- Starts a port's keep-alives and its watch for silence (R454). -/
def portWatch (k : Nat) (s : State) : State :=
  post (s.now + 250000) .keepaliveTimeout { a := k, b := s.now } (post (s.now + 2500) .keepaliveSend { a := k } s)

/-- KEEPALIVE_SEND (R454): one flit where the port has been idle for 1 µs. -/
def execKeepaliveSend (s : State) : Res :=
  let k := s.ev.a
  let p := portAt s k
  if !p.up then .next s
  else if p.retraining ∨ s.now < p.lastTx + 2500 then .next (post (max (s.now + 1) (p.lastTx + 2500)) .keepaliveSend { a := k } s)
  else
    let s := if p.replay.length < 512 then sendFlits k 4 1 s else s
    .next (post (s.now + 2500) .keepaliveSend { a := k } s)

/-- KEEPALIVE_TIMEOUT (R454): nothing has been received since cycle `b`. -/
def execKeepaliveTimeout (s : State) : Res :=
  let p := portAt s s.ev.a
  .next (if p.up && decide (p.lastRx ≤ s.ev.b) then portDown s.ev.a s else s)

/-- LANE_LOSS (R446): the lanes of the mask `b` are lost: the port retrains at half its width, on lanes that still work, for
at most 5,000 cycles, or goes down. -/
def execLaneLoss (s : State) : Res :=
  let k := s.ev.a
  let p := portAt s k
  let ok := (List.range 8).filter fun i => p.lanes.testBit i && !s.ev.b.testBit i
  if !p.up || decide (s.ev.b &&& p.lanes = 0) then .next s
  else
    match [4, 2].find? fun w => decide (w < p.width) && decide (w ≤ ok.length) with
    | none => .next (portDown k s)
    | some w =>
      let (x, s) := freeValue s
      let s := modPort k (fun p => { p with width := w, lanes := ((ok.take w).map fun i => 2 ^ i).sum, retraining := true }) s
      .next (post (s.now + x.toNat % 5001) .linkRetrainDone { a := k } (portChanged k s))

/-- Flits of the replay buffer from a sequence number on go again, in order (R443). -/
def replayFrom (k seq : Nat) (s : State) : State :=
  let p := portAt s k
  let l := p.replay.dropWhile fun f => f.seq != seq
  let s := modPort k (fun p => { p with replays := p.replays + (if l.isEmpty then 0 else 1), lastTx := s.now }) s
  match p.peer with
  | some q => l.foldl (fun s f => post (s.now + 1000) .linkFlitReceive { a := q, b := f.seq, flag := true } s) s
  | none => s

/-- LINK_RETRAIN_DONE (R446, R447): the replay buffer goes again from the oldest unacknowledged flit. -/
def execLinkRetrainDone (s : State) : Res :=
  let k := s.ev.a
  let p := portAt s k
  if !p.retraining then .next s
  else
    let s := modPort k (fun p => { p with retraining := false }) s
    .next (portChanged k (match p.replay with
      | f :: _ => replayFrom k f.seq s
      | [] => s))

/-! ### Flits (R443) -/

/-- LINK_FLIT_RECEIVE (R443): a flit in sequence is taken and acknowledged; one with a CRC error is NAKed, and others are
discarded until it comes again. -/
def execLinkFlitReceive (s : State) : Res :=
  let k := s.ev.a
  let p := portAt s k
  if !p.up then .next s
  else
    let s := post (s.now + 250000) .keepaliveTimeout { a := k, b := s.now } (modPort k (fun p => { p with lastRx := s.now }) s)
    match p.peer with
    | none => .next s
    | some q =>
      if s.ev.b ≠ p.recvSeq then .next s
      else if s.ev.flag then
        .next (post (s.now + 1000) .linkAck { a := q, b := s.ev.b } (modPort k (fun p => { p with recvSeq := (p.recvSeq + 1) % 4096 }) s))
      else .next (post (s.now + 1000) .linkNak { a := q, b := s.ev.b } s)

/-- LINK_NAK (R443): the sender replays from the NAKed flit; a port that retrains does so afterwards, from the oldest (R446, R455). -/
def execLinkNak (s : State) : Res :=
  let p := portAt s s.ev.a
  .next (if p.up && !p.retraining then replayFrom s.ev.a s.ev.b s else s)

/-- LINK_ACK (R443): flits up to that sequence number leave the replay buffer. -/
def execLinkAck (s : State) : Res :=
  let b := s.ev.b
  .next (modPort s.ev.a (fun p => { p with
    replay := if p.replay.any (fun f => f.seq == b) then (p.replay.dropWhile fun f => f.seq != b).drop 1 else p.replay }) s)

/-! ### Transport (R444, R445) -/

/-- A package becomes unreachable for another: the entries for it are dropped, and the slots that wait for its results send their own
partials down (R445, R179). -/
def unreach (pkg dst : Nat) (s : State) : State := ferOrphans pkg dst (lostAll pkg dst s)

/-- TRANSPORT_PACKET_ARRIVAL (R445): the first copy of the last packet of a message to arrive has its effect; every copy that the store
holds is acknowledged. A package that has no power answers nothing. -/
def execTransportPacketArrival (s : State) : Res :=
  match tfind s.pkts s.ev.a with
  | none => .next s
  | some k =>
    let gone := (pkgAt s k.dst).failed || !(pkgAt s k.dst).present
    let s' := if k.kept then { s with pkts := tput s.pkts s.ev.a { k with arrived := true } } else { s with pkts := tdel s.pkts s.ev.a }
    if gone then .next (if k.kept then s else s')
    else
      let s' := if k.kept then post (s.now + k.toGo) .transportAck { a := s.ev.a } s' else s'
      .next (if k.arrived || s'.pkts.any (fun p => p.2.msg == k.msg && !p.2.arrived) then s' else post s.now k.ev k.arg s')

/-- TRANSPORT_ACK (R444): the entry leaves the store. -/
def execTransportAck (s : State) : Res :=
  match tfind s.pkts s.ev.a with
  | none => .next s
  | some k => .next (modFer k.fk (fun f => { f with tsfree := f.tsfree + k.bytes }) { s with pkts := tdel s.pkts s.ev.a })

/-- TRANSPORT_RESEND (R444, R445): a packet not yet sent tries again; one not acknowledged 125,000 cycles after it was sent goes
again, and after the eighth resend its destination is declared unreachable, and stays so (DESIGN CHOICE, log 110). -/
def execTransportResend (s : State) : Res :=
  match tfind s.pkts s.ev.a with
  | none => .next s
  | some k =>
    if k.resends ≠ s.ev.b then .next s
    else if k.st < 2 then .next (launchPkt s.ev.a s)
    else if 8 ≤ k.resends then .next (unreach (k.fk / 2) k.dst (modPkg (k.fk / 2) (fun p => { p with lostPkgs := p.lostPkgs ++ [k.dst] }) s))
    else
      let s := modFer k.fk (fun f => { f with resends := f.resends + 1 })
        { s with pkts := tput s.pkts s.ev.a { k with st := 1, resends := k.resends + 1 } }
      .next (launchPkt s.ev.a s)

/-! ### Package failure (R454, R455) -/

/-- PACKAGE_FAILURE_DECLARE (R454): package `a` declares `b` failed, and tells every package of the domain that a port of it reaches. -/
def execPackageFailureDeclare (s : State) : Res :=
  let p := s.ev.a
  let f := s.ev.b
  if (pkgAt s p).failedPkgs.contains f then .next s
  else
    .next (s.pkgs.foldl (fun s q =>
      if q.1 ≠ f ∧ q.2.failed = false ∧ q.2.domain = (pkgAt s p).domain ∧ reachable s p q.1 = true then
        overLink p q.1 4 56 (s.now + (if q.1 = p then 0 else crossing s p q.1)) .failureNotice { a := q.1, b := f } s
      else s) s)

/-- Writes one entry of the completion queue (R451) and raises its interrupt, which the host sees under tag 2^33. The phase bit
is 1 in the first pass. -/
def crzComplete (pkg id status : Nat) (result : Nat) (s : State) : State :=
  let k := pkgAt s pkg
  let n := max 1 k.qsz
  let phase := (k.ctail / n + 1) % 2
  let bs := natBytes 2 id ++ natBytes 2 status ++ natBytes 8 result ++ natBytes 4 (phase * 2 ^ 31)
  let s := { s with mem := mwrite s.mem (devKey pkg (k.cbase + 16 * (k.ctail % n))) bs }
  modPkg pkg (fun k => { k with ctail := k.ctail + 1, hostq := k.hostq ++ [(2 ^ 33 + id, bs)] }) s

/-- FAILURE_NOTICE (R454, R455): the Vergers drop the failed package, the transport its packets, the fault processor answers
its faults, and firmware posts a completion of OPC 0xFF. An acknowledgement of this cycle comes first. -/
def execFailureNotice (s : State) : Res :=
  let p := s.ev.a
  let f := s.ev.b
  if (pkgAt s p).failedPkgs.contains f then .next s
  else if s.ev.flag = false ∧ (s.agenda.any fun e => e.2.1 == .transportAck && decide (e.1 ≤ s.now)) = true then
    .next (post s.now .failureNotice { s.ev with flag := true } s)
  else
    let s := modPkg p (fun k => { k with failedPkgs := k.failedPkgs ++ [f] }) s
    let s := unreach p f s
    let ids := s.accs.filterMap fun x =>
      if x.2.parked && x.2.dev && x.2.dpkg == p && !x.2.performed then
        let e := leafOf s p x.2.va
        if (leafV e && leafSt e == 3 && wfield e 8 21 == identityOf s f)
            || (!leafV e && ((ownerOf s p x.2.va).map (·.1)) == some (identityOf s f)) then some x.1 else none
      else none
    let s := ids.foldl (fun s id => failParked id 0x19 7 0 s) s
    .next (crzComplete p 0xFF 0 f (post s.now .guardPackageFailure { a := p, b := f } s))

end Sys2Proof.Machine
end

