-- ==== Sys2Proof/Machine/Crazon.lean ====
section
/-!
DEFINITION. The host and the Crazon commands (R450 to R453, spec/22; R373, R409 to R411, R419, R427, R430, R469, R470). A command's
OPC and ID are read from its entry in the queue; its operands, whose layout the spec does not give, come typed beside it (log 9); what
the part writes for the host goes to its `hostq`, each with a tag.
-/

namespace Sys2Proof.Machine

/-! ### Host memory accesses (R450) -/

/-- The strand number under which a package's host accesses go. -/
def hostSid (pkg : Nat) : Nat := 2 ^ 50 + pkg * 16

/-- HOST_MEM_ACCESS (R450): `b` the address, `c` the bytes of a read, `d` the host's tag, the payload a write's bytes. An access
that no mapping covers returns poisoned data; a write is dropped. -/
def execHostMemAccess (s : State) : Res :=
  let pkg := s.ev.a
  let n := match s.ev.p with
    | .bytes bs => bs.length
    | _ => s.ev.c
  match (pkgAt s pkg).hostmaps.find? fun m => decide (m.base ≤ s.ev.b) && decide (s.ev.b + n ≤ m.base + m.size) with
  | none =>
    let d := s.ev.d
    .next (modPkg pkg (fun k => { k with hostq := k.hostq ++ [(2 ^ 32 + d, [])] }) s)
  | some m =>
    let va := m.va + (s.ev.b - m.base)
    let r := routeOf (pkg * 2048) va
    let data := match s.ev.p with
      | .bytes bs => bs
      | _ => []
    let a : Acc :=
      { kind := if s.ev.flag then .store else .load, sid := hostSid pkg, gen := 1000, ipc := 0, order := 0, dpkg := pkg
        dev := true, va := va, size := n, key := none, bank := r.bank, data := data, ret := .host pkg s.ev.d
        perfAt := s.now + 110, ansLat := 110, store := s.ev.flag, tenant := m.tenant }
    let (id, s) := freshId s
    .next (post (s.now + 110) .mtuAccessDecide { a := id } { s with accs := tput s.accs id a })

/-! ### The command queue (R451) -/

/-- The command of an OPC (R452). -/
def crzCommand (opc : Nat) : Instr :=
  match opc with
  | 0x01 => .identify
  | 0x02 => .negotiate
  | 0x03 => .patch_
  | 0x10 => .partMake
  | 0x11 => .partEnd
  | 0x12 => .grant_
  | 0x13 => .map_
  | 0x14 => .own_
  | 0x15 => .evict
  | 0x16 => .route_
  | 0x17 => .hostmap
  | 0x20 => .job_
  | 0x21 => .log_
  | _ => .unsupportedCommand

/-- CRZ_QSZ is a power of two from 16 to 4,096 (R451); a queue of another length is not served (log 9). -/
def crzOpen (n : Nat) : Bool := decide (16 ≤ n) && decide (n ≤ 4096) && n == 2 ^ n.log2

/-- The key of the entry at the queue's head (R451). -/
def crzEntry (pkg : Nat) (k : Pkg) : Nat := devKey pkg (k.qbase + 64 * (k.head % k.qsz))

/-- Takes the next command, where there is one and none is in progress: byte 0 of its entry is its OPC, bytes 3:2 its ID (R451). Before
NEGOTIATE every command but IDENTIFY and NEGOTIATE is unsupported (R452). -/
def crzNext (pkg : Nat) (s : State) : State :=
  let k := pkgAt s pkg
  if k.crzBusy || !k.powered || k.head == k.door || !crzOpen k.qsz then s
  else
    let i := crzCommand (mget s.mem (crzEntry pkg k)).toNat
    let arg := { k.cmdq.headD {} with a := pkg, b := bytesNat (mread s.mem (crzEntry pkg k + 2) 2) }
    let i := if !k.negotiated && i != .identify && i != .negotiate then .unsupportedCommand else i
    post s.now i arg (modPkg pkg (fun k => { k with cmdq := k.cmdq.drop 1, crzBusy := true }) s)

/-- A command completes, and the next one is taken. -/
def crzDone (pkg id status result : Nat) (s : State) : State :=
  crzNext pkg (modPkg pkg (fun k => { k with crzBusy := false, head := k.head + 1 }) (crzComplete pkg id status result s))

/-- CRZ_DOOR (R451): the tail count; with `flag` the host has set CRZ_QSZ (`c`), CRZ_QBASE (`w`) and CRZ_CBASE (`w2`) before. -/
def execCrzDoor (s : State) : Res :=
  let e := s.ev
  let s := if e.flag then modPkg e.a (fun k => { k with qsz := e.c, qbase := e.w.toNat, cbase := e.w2.toNat }) s else s
  .next (crzNext e.a (modPkg e.a (fun k => { k with door := e.b }) s))

/-- SWITCH_MIN of a partition of W by H tiles, in µs: 120 for a full module (R404). -/
def switchMinOf (w h : Nat) : Nat := if w = 64 ∧ h = 32 then 120 else Config.switchMin w h % 2 ^ 24

/-- Bytes for the host. -/
def toHost (pkg tag : Nat) (bs : List Byte) (s : State) : State := modPkg pkg (fun k => { k with hostq := k.hostq ++ [(tag, bs)] }) s

/-- UNSUPPORTED_COMMAND (R452). -/
def execUnsupportedCommand (s : State) : Res := .next (crzDone s.ev.a s.ev.b 4 0 s)

/-- The feature bits offered (R453). -/
def offered : Word := 0xFF#64

/-- IDENTIFY (R452): the identity, the offered bits, SWITCH_MIN of each width and height, GM_TABSZ, and a bit for each failed
tile and each failed edge die. -/
def execIdentify (s : State) : Res :=
  let pkg := s.ev.a
  let tiles := ((List.range 2048).filter fun t => (tileAt s (pkg * 2048 + t)).failed).foldl (fun n t => n + 2 ^ t) 0
  let edges := ((List.range 2).filter fun e => !dieUp s pkg (8 + e)).foldl (fun n e => n + 2 ^ e) 0
  let mins := (List.range 32).flatMap fun h => (List.range 64).flatMap fun w => natBytes 4 (switchMinOf (w + 1) (h + 1))
  let bs := natBytes 8 (identityOf s pkg) ++ natBytes 8 offered.toNat ++ natBytes 8 0 ++ natBytes 8 (pkgAt s pkg).gmTabsz
    ++ natBytes 8 edges ++ natBytes 256 tiles ++ mins
  .next (crzDone pkg s.ev.b 0 0 (toHost pkg 0x01 bs s))

/-- NEGOTIATE (R452, R453). -/
def execNegotiate (s : State) : Res :=
  let pkg := s.ev.a
  let w := s.ev.w
  if (pkgAt s pkg).negotiated then .next (crzDone pkg s.ev.b 2 0 s)
  else if wfield w 0 1 = 0 then .next (crzDone pkg s.ev.b 1 0 s)
  else .next (crzDone pkg s.ev.b 0 0 (modPkg pkg (fun k => { k with negotiated := true, feat0 := w &&& offered, feat1 := 0#64 }) s))

/-- PATCH (R470, R466): `c` is the table's version. -/
def execPatch (s : State) : Res :=
  let pkg := s.ev.a
  if (pkgAt s pkg).patched then .next (crzDone pkg s.ev.b 2 0 s)
  else if !Config.trustOk (2 ^ 32 + s.ev.b) then .next (crzDone pkg s.ev.b 1 0 s)
  else if s.ev.c < Config.minPatch then .next (crzDone pkg s.ev.b 2 0 s)
  else .next (crzDone pkg s.ev.b 0 0 (modPkg pkg (fun k => { k with patched := true, measures := k.measures ++ [(11, 1)] }) s))

/-! ### Partitions (R427, R428, R452, R469) -/

/-- The tiles of a partition's rectangle. -/
def specTiles (pkg : Nat) (p : PartSpec) : List Nat := rectTiles pkg (p.x0, p.y0, p.w, p.h)

/-- Why PART_MAKE is refused; 0 where it is not. -/
def partStatus (s : State) (pkg : Nat) (p : PartSpec) : Nat :=
  let pk := pkg * 64 + p.part
  let view : Part := { partAt s pk with x0 := p.x0, y0 := p.y0, w := p.w, h := p.h }
  let keys := (pkgAt s pkg).keys
  if 64 ≤ p.part ∨ 4096 ≤ p.tenant ∨ p.w = 0 ∨ p.h = 0 ∨ 64 < p.x0 + p.w ∨ 32 < p.y0 + p.h ∨ (partAt s pk).made = true then 1
  else if (specTiles pkg p).any fun t => (tileAt s t).part.isSome || (tileAt s t).failed then 1
  else if p.tmpl.any fun e => decide (16 ≤ e.1) || (rtReason view e.2.1 e.2.2).isSome then 1
  else if p.tvec % 2 ≠ 0 then 1
  else if (keys.any (fun k => k.1 == p.tenant)) = false ∧ 64 ≤ keys.length then 2
  else 0

/-- The lowest free key slot. -/
def freeKey (keys : List (Nat × Nat)) : Nat := ((List.range 64).find? fun i => !(keys.any fun k => k.2 == i)).getD 0

/-- The heap table's entries that are not VALID and hold no GOOD get its reset value, 1 (R154, log 93), where their page is there. -/
def goodReset (pkg va ten : Nat) (s : State) : State :=
  if va = 0 then s
  else
    match engFind s (pkg * 2048) va ten 4096 with
    | (_, .ok _) => (List.range 64).foldl (fun s h =>
        let w := ((bytesWords 1 ((engRead s (pkg * 2048) (va + 64 * h) ten 8).getD [])).headD 0#64)
        if wfield w 0 3 = 0 then
          engWrite (pkg * 2048) (va + 64 * h) ten (natBytes 8 (setField w 1 2 1).toNat) (markDSpan (pkg * 2048) (va + 64 * h) 8 s)
        else s) s
    | _ => s

/-- PART_MAKE (R452, R427, R428, R469); HEAPTAB is the package's copy of the heap table (R154). -/
def execPartMake (s : State) : Res :=
  let pkg := s.ev.a
  match s.ev.p with
  | .part p =>
    let st := partStatus s pkg p
    if st ≠ 0 then .next (crzDone pkg s.ev.b st 0 s)
    else
      let pk := pkg * 64 + p.part
      let tiles := specTiles pkg p
      let min := switchMinOf p.w p.h
      let tvec := p.tvec % vaTop
      let heapTab := (pkgAt s pkg).heapTab
      let s := modPart pk (fun q => { q with
        made := true, tenant := p.tenant, x0 := p.x0, y0 := p.y0, w := p.w, h := p.h, tmpl := p.tmpl, tvec := tvec
        allow := p.allow ||| word (2 ^ p.part), switchMin := min, heapTab := heapTab
        dcbase := p.dcbase % vaTop / 4096 * 4096, dcnum := Nat.min 65536 p.dcnum }) s
      let s := tiles.foldl (fun s t => modTile t (fun x => { x with
        tenant := p.tenant, part := some p.part, allow := p.allow ||| word (2 ^ p.part) }) s) s
      let s := modPartCores pk (fun c => { c with
        tenant := p.tenant, part := p.part, switchMin := min, heaptab := heapTab, tvec := tvec }) s
      let s := p.queues.foldl (fun s q => modQ (qKey pkg (q.1 % 128) (q.2 % 16)) (fun x => { x with owned := true, part := p.part }) s) s
      let s := modPkg pkg (fun k => { k with
        keys := if k.keys.any fun x => x.1 == p.tenant then k.keys else k.keys ++ [(p.tenant, freeKey k.keys)] }) s
      .next (crzDone pkg s.ev.b 0 0 (goodReset pkg heapTab p.tenant s))
  | _ => .next (crzDone pkg s.ev.b 1 0 s)

/-- What a partition leaves at its end: its tiles run nothing and accept nothing, its queues are nobody's. -/
def releasePart (pk : Nat) (s : State) : State :=
  let pkg := pk / 64
  let part := pk % 64
  let s := (partCores s pk).foldl (fun s c => modCore c (fun _ => {}) { s with rt := s.rt.filter fun e => e.1 / 64 != c }) s
  let s := { s with
    tiles := s.tiles.map fun t => if t.1 / 2048 = pkg ∧ t.2.part = some part then (t.1, { failed := t.2.failed }) else t
    tduq := s.tduq.map fun q => if q.1 / 2048 = pkg ∧ q.2.owned = true ∧ q.2.part = part then (q.1, {}) else q
    trcp := s.trcp.filter fun t => !(t.1 / 2048 == pkg && t.1 % 64 == part)
    parts := tdel s.parts pk }
  [pkg * 2, pkg * 2 + 1].foldl (fun s fk => modFer fk (fun f => { f with lnotify := tdel f.lnotify part, evlost := tdel f.evlost part }) s) s

/-- PART_END (R452): the partition's jobs are killed (with `flag`, waited for), and it is released. -/
def execPartEnd (s : State) : Res :=
  let pkg := s.ev.a
  let pk := pkg * 64 + s.ev.c
  let p := partAt s pk
  if p.made = false then .next (crzDone pkg s.ev.b 1 0 s)
  else if s.ev.flag = false then
    .next (post (s.now + 1) .partEnd { s.ev with flag := true } (p.jobs.foldl (fun s j => endJob pk j.num 1 s) s))
  else if !p.jobs.isEmpty || p.switching != 0 then .next (post (s.now + 1) .partEnd s.ev s)
  else
    let s := releasePart pk s
    let s := if s.parts.any fun q => q.1 / 64 == pkg && q.2.made && q.2.tenant == p.tenant then s
      else post s.now .tenantKeyErase { a := pkg, b := p.tenant } s
    .next (crzDone pkg s.ev.b 0 0 s)

/-- TENANT_KEY_ERASE (R469): once the tenant's last access on the package has been performed; not where it has a partition
again. -/
def execTenantKeyErase (s : State) : Res :=
  let pkg := s.ev.a
  let ten := s.ev.b
  if s.parts.any fun q => q.1 / 64 == pkg && q.2.made && q.2.tenant == ten then .next s
  else if s.accs.any fun a => a.2.dpkg == pkg && a.2.tenant == ten && !a.2.performed then
    .next (post (s.now + 1) .tenantKeyErase s.ev s)
  else .next (modPkg pkg (fun k => { k with keys := k.keys.filter fun x => x.1 != ten }) s)

/-- The grants of a partition as the host reads them (log 34). -/
def grantBytes (l : List GrantEnt) : List Byte :=
  l.flatMap fun g => natBytes 8 g.base ++ natBytes 8 g.limit
    ++ natBytes 8 ((if g.rd then 1 else 0) + (if g.wr then 2 else 0) + (if g.store then 4 else 0))

/-- GRANT (R373): up to 32 ranges with bounds aligned to 64 KiB; with `flag` the list is read. -/
def execGrant (s : State) : Res :=
  let pkg := s.ev.a
  if s.ev.flag then
    let bs := grantBytes (partAt s (pkg * 64 + s.ev.c)).grants
    .next (crzDone pkg s.ev.b 0 bs.length (toHost pkg 0x12 bs s))
  else
  match s.ev.p with
  | .grants l =>
    if s.ev.c < 64 ∧ l.length ≤ 32 ∧ (l.all fun g => g.base % 65536 == 0 && g.limit % 65536 == 0 && decide (g.limit ≤ vaTop)) = true then
      .next (crzDone pkg s.ev.b 0 0 (modPart (pkg * 64 + s.ev.c) (fun p => { p with grants := l }) s))
    else .next (crzDone pkg s.ev.b 1 0 s)
  | _ => .next (crzDone pkg s.ev.b 1 0 s)

/-! ### Page tables and ownership (R409 to R411, R419) -/

/-- One leaf and its backing entry written. -/
def mapOne (pkg : Nat) (m : MapEnt) (s : State) : State :=
  let s := match m.backing with
    | some (a, b) => modPkg pkg (fun k => { k with backed := k.backed ++ [m.page] })
        { unback pkg m.page s with mem := mwrite s.mem (devKey pkg ((pkgAt s pkg).backBase + 16 * wfield m.leaf 32 20)) (wordsBytes [a, b]) }
    | none => unback pkg m.page s
  writeLeaf pkg m.page m.leaf s

/-- MAP (R452, R409, R410): backing entries need feature 4 (R453). With `flag` the command creates the backing table, at address `w`. -/
def execMap (s : State) : Res :=
  let pkg := s.ev.a
  match s.ev.p with
  | .maps l =>
    if (l.any fun m => m.backing.isSome) = true ∧ wfield (pkgAt s pkg).feat0 4 1 = 0 then .next (crzDone pkg s.ev.b 4 0 s)
    else if l.any fun m => decide (2 ^ 40 ≤ m.page) || inWindow (m.page * 65536) then .next (crzDone pkg s.ev.b 1 0 s)
    else
      let s' := if s.ev.flag then modPkg pkg (fun k => { k with backBase := s.ev.w.toNat }) s else s
      .next (crzDone pkg s.ev.b 0 0 (l.foldl (fun s m => mapOne pkg m s) s'))
  | _ => .next (crzDone pkg s.ev.b 1 0 s)

/-- The bits that an ownership entry holds (R4, R411). -/
def ownBits0 (w : Word) : Word := w &&& 0x00FFFFFFFFFF0003#64
def ownBits1 (w : Word) : Word := w &&& 0x1FFFFFFFFFFFFFFF#64

/-- OWN (R411): entry `c` in every MTU. -/
def execOwn (s : State) : Res :=
  let pkg := s.ev.a
  if s.ev.c < 128 then
    .next (crzDone pkg s.ev.b 0 0 { s with own := tput s.own (pkg * 128 + s.ev.c) (ownBits0 s.ev.w, ownBits1 s.ev.w2) })
  else .next (crzDone pkg s.ev.b 1 0 s)

/-- EVICT (R419) of a backed page: `d` 0, step 1; `d` 1, step 2, until no access translated to the frame is left, then step 3, the Write and,
after it, the Flush, each of which ends after a free number of cycles or at the time-out, and at once where the port cannot be used (log 112);
`d` 2, the end of the write-back is waited for. -/
def execEvict (s : State) : Res :=
  let pkg := s.ev.a
  let page := s.ev.c
  let e := leafOf s pkg (page * 65536)
  let (_, w1) := backingOf s pkg e
  match s.ev.d with
  | 0 =>
    if leafV e && leafSt e == 0 && backed s pkg page then
      .next (post (s.now + 1) .evict { s.ev with d := 1 } (changeLeaf pkg page (setField e 1 3 2) s))
    else .next (crzDone pkg s.ev.b 2 0 s)
  | 1 =>
    if pageDraining s pkg page then
      .next (post (s.now + 1) .evict s.ev s)
    else
      let s := modPkg pkg (fun k => { k with evictErr := 0 }) s
      let ev := { s.ev with d := 2 }
      if wfield e 4 1 = 1 then
        let s := modSqe (pkg * 4 + wfield w1 32 4 / 4) (fun q => { q with writes := q.writes + 1 }) s
        .next (post (s.now + 1) .evict ev (writeCmd pkg page (wfield w1 32 4) (wfield w1 0 32) 0 s))
      else .next (post (s.now + 1) .evict ev (post s.now .evictWritebackComplete { a := pkg, b := page } s))
  | _ =>
    let err := (pkgAt s pkg).evictErr
    if err ≠ 0 then .next (crzDone pkg s.ev.b 1 (err % 2 ^ 16) s)
    else if leafSt e = 2 ∧ (s.agenda.any fun x => x.2.1 == .evictWritebackComplete && x.2.2.a == pkg && x.2.2.b == page) = true then
      .next (post (s.now + 1) .evict s.ev s)
    else .next (crzDone pkg s.ev.b 0 0 s)

/-! ### Routes, mappings, jobs, logs (R178, R449, R450, R430, R452) -/

/-- ROUTE (R452): with `flag` an entry of the Pavilion route table, after those of its destination; else a group route, whose
TMO is its tenant's partition's GRPTMO (R178). -/
def execRoute (s : State) : Res :=
  let pkg := s.ev.a
  match s.ev.p with
  | .route r =>
    if s.ev.flag then
      .next (crzDone pkg s.ev.b 0 0 (modPkg pkg (fun k => { k with routes := k.routes ++ [(r.dest, r.port % 36, r.hops)] }) s))
    else
      let tmo := match s.parts.find? fun q => q.1 / 64 == pkg && q.2.made && q.2.tenant == wfield r.w0 16 12 with
        | some (_, q) => (coreAt s (pkg * 8192 + (q.y0 * 64 + q.x0) * 4)).grptmo
        | none => wfield r.w1 32 32
      .next (crzDone pkg s.ev.b 0 0 { s with
        ferGrp := tput s.ferGrp ((pkg * 2 + r.fer % 2) * 256 + r.group % 256) (r.w0 &&& 0x003FFFFF0FFF007F#64, setField r.w1 32 32 tmo) })
  | _ => .next (crzDone pkg s.ev.b 1 0 s)

/-- HOSTMAP (R450): makes or removes the mapping of an index; one that touches the local window is INVALID. -/
def execHostmap (s : State) : Res :=
  let pkg := s.ev.a
  match s.ev.p with
  | .hmap m =>
    if m.make ∧ (vaTop < m.va + m.size ∨ (windowBase < m.va + m.size ∧ m.va < windowBase + 2 ^ 32)) then
      .next (crzDone pkg s.ev.b 1 0 s)
    else
      .next (crzDone pkg s.ev.b 0 0 (modPkg pkg (fun k => { k with
        hostmaps := (k.hostmaps.filter fun x => x.index != m.index) ++ (if m.make then [m] else []) }) s))
  | _ => .next (crzDone pkg s.ev.b 1 0 s)

/-- JOB (R430, R452): the completion's result is the job number; REFUSED where all 16 entries are held. -/
def execJob (s : State) : Res :=
  let pkg := s.ev.a
  let pk := pkg * 64 + s.ev.c
  match s.ev.p with
  | .words d =>
    if (partAt s pk).made = false ∨ 64 ≤ s.ev.c then .next (crzDone pkg s.ev.b 1 0 s)
    else
      let (n, s) := submitJob pk d true true [] s.ev.d s
      .next (if n = 0 then crzDone pkg s.ev.b 2 0 s else crzDone pkg s.ev.b 0 n (post s.now .gangPlace { a := pk } s))
  | _ => .next (crzDone pkg s.ev.b 1 0 s)

/-- LOG (R452): `c` 0 the rejection logs, 1 the collectors' counters (TRC_COUNT, and TRC_LOST of each partition, R394) and the Pavilions' (R448, with
FER_EVLOST of each partition and FER_PSTAT of each port), 2 the lifetime store. -/
def execLog (s : State) : Res :=
  let pkg := s.ev.a
  let bs := match s.ev.c with
    | 0 => (List.range 8).flatMap fun d =>
        let m := mtuAt s (pkg * 8 + d)
        natBytes 8 m.logLost ++ m.log.flatMap fun r => natBytes 8 r.1 ++ natBytes 8 r.2.1 ++ natBytes 8 r.2.2
    | 1 => ((List.range 32).flatMap fun y => natBytes 8 (tget s.trcs (pkg * 32 + y) []).length
          ++ (List.range 64).flatMap fun p => natBytes 8 (tget s.trcp ((pkg * 32 + y) * 64 + p) {}).lost)
        ++ ((List.range 2).flatMap fun e =>
          let f := ferAt s (pkg * 2 + e)
          natBytes 8 f.late ++ natBytes 8 f.wait ++ natBytes 8 f.tsfree ++ natBytes 8 f.resends ++ natBytes 8 f.noroute
            ++ ((List.range 64).flatMap fun p => natBytes 8 (tget f.evlost p 0))
            ++ ((List.range 18).flatMap fun i => natBytes 8 (pstat (portAt s (pkg * 36 + e * 18 + i))).toNat))
    | _ => (pkgAt s pkg).life.flatMap fun r => natBytes 4 r.1 ++ natBytes 4 r.2
  .next (crzDone pkg s.ev.b 0 bs.length (toHost pkg 0x21 bs s))

end Sys2Proof.Machine
end

