-- ==== Sys2Proof/Machine/Heap.lean ====
section
/-!
DEFINITION. The managed heap's instructions (R154 to R167, spec/07; R275 to R279, spec/11): the barrier as a sequence of
reads in flight, healing, pins, allocation.
-/

namespace Sys2Proof.Machine

/-! ### References and rights (R156, R163) -/

/-- The heap a reference names. -/
def refHeap (k : Word) : Nat := wfield k 56 6
/-- The object address of a reference. -/
def refAddr (k : Word) : Nat := wfield k 4 52 * 16
/-- A reference with a colour. -/
def recolour (k : Word) (good : Nat) : Word := word (k.toNat % 2 ^ 62 + good * 2 ^ 62)
/-- A reference with its colour and address replaced. -/
def redirect (k : Word) (good addr : Nat) : Word :=
  word (good * 2 ^ 62 + refHeap k * 2 ^ 56 + addr / 16 % 2 ^ 52 * 16 + k.toNat % 16)
/-- A reference as memory and g registers hold it: O = 0 (R157). -/
def clearO (k : Word) : Word := k &&& 0xFFFFFFFFFFFFFFF7#64

/-- The core's copy of a heap's good colour (R155). -/
def coreGood (s : State) (cid h : Nat) : Nat := tget s.good (cid * 64 + h) 1

/-- The barrier's checks before the fast path (R160): the reason of the trap. -/
def refReason (k : Word) (tenant : Nat) (w : List Word) : Option Nat :=
  if k = 0#64 then some 1
  else if wfield k 0 3 ≠ 0 then some 2
  else if hValid w = false ∨ hTenant w ≠ tenant then some 3
  else if refAddr k < hBase w ∨ hLimit w ≤ refAddr k then some 4
  else none

/-- The same in an instruction; the heap entry's page is waited for. -/
def refCheckM (k tv : Word) : M (List Word) := do
  if k = 0#64 then trapM 0x13 tv 1#64
  if wfield k 0 3 ≠ 0 then trapM 0x13 tv 2#64
  let s ← askM id
  let cid := cidOf s.cur.sid
  let w := bytesWords 6 (← unitReadM (heapVa s cid (refHeap k)) 48)
  match refReason k (coreAt s cid).tenant w with
  | some r => trapM 0x13 tv (word r)
  | none => pure w

/-- The team's HOLD in the HEAP entry that covers an address (R110, R163). -/
def heapHold (s : State) (cid team va : Nat) : Nat :=
  match (List.range 64).find? fun e =>
      let v := rtView (rtAt s (cid * 64 + e))
      covers v va && v.cls == 4 with
  | some e => holdFor s cid team e
  | none => 0

/-- Steps 2 to 6 of R92 and the rights of R163 for 8 bytes at an offset from the object at `a`: cause, TVALUE and TVAL2 of the trap. -/
def heapRefusal (s : State) (sid : Nat) (k : Word) (a : Nat) (off : Int) (rd wr store : Bool) : Option (Nat × Word × Nat) :=
  let ea : Int := (a : Nat) + off
  let cid := cidOf sid
  if ea < 0 ∨ ea + 8 > (vaTop : Nat) then some (0x0D, k, 0)
  else
    match rangeCheck6 s cid (userMode s sid) ea.toNat 8 rd wr with
    | .error (c, tv) => some (c, word tv, 0)
    | .ok _ =>
      let hold := heapHold s cid (slotAt s sid).team ea.toNat
      if hold = 0 then some (0x14, k, 1)
      else if store && hold == 1 && wfield k 3 1 == 0 then some (0x14, k, 2)
      else if store && decide (off < 16) then some (0x14, k, 3)
      else none

/-! ### Entries of the forwarding table (R159) -/

/-- The address of a page entry, and of an object entry in its array. -/
def pageEntryVa (w : List Word) (a : Nat) : Nat := hFwd w + 8 * ((a - hBase w) / 65536)
def objEntryVa (pe : Word) (a : Nat) : Nat := wfield pe 4 52 * 16 + 8 * (a / 16 % 4096)

/-- A word at a device address as it now stands; zero where its page is not there. -/
def peek64 (s : State) (cid va : Nat) : Word :=
  ((bytesWords 1 ((engRead s (tidOfC cid) va (coreAt s cid).tenant 8).getD [])).headD 0#64)

/-- The state of an object entry and the address a reference resolves to, as the tables now stand; a trap of R163 is precise and the check
happens once, so the rights are checked there at issue and not again (R92, log 94). -/
def resolveNow (s : State) (cid : Nat) (w : List Word) (k : Word) : Nat × Nat :=
  let a := refAddr k
  if wfield k 62 2 = coreGood s cid (refHeap k) then (0, a)
  else
    let pe := peek64 s cid (pageEntryVa w a)
    let oe := if wfield pe 0 1 = 1 then peek64 s cid (objEntryVa pe a) else 0#64
    (wfield oe 0 3, if wfield oe 0 3 = 3 then wfield oe 4 52 * 16 else a)

/-! ### The barrier in flight (R160, R167) -/

def modHop (hid : Nat) (f : HeapOp → HeapOp) (s : State) : State :=
  match tfind s.hops hid with
  | some h => { s with hops := tput s.hops hid (f h) }
  | none => s

/-- A read, or INFL + 1, that the part makes for an access through a reference: a load of device memory among the core's 16 request
slots and a bank's 12 (R167, R236), for which it waits. -/
def entryRead (hid va : Nat) (inc : Bool) (s : State) : State :=
  match tfind s.accs hid with
  | none => s
  | some a =>
    let cid := cidOf a.sid
    let x := accOf s a.sid va 8 (if inc then .atom else .load) false false
    if x.slot && (decide (16 ≤ slotsUsed s cid) || decide (12 ≤ bankUsed s cid x.bank)) then
      post (s.now + 1) .heapBarrierWake { a := hid } (modHop hid (fun h => { h with want := va + 1, inc := inc }) s)
    else
      (sendAcc { x with gen := a.gen, ipc := a.ipc, order := a.order, op := 18, remote := false, late := !inc, ret := .heap hid }
        (modHop hid (fun h => { h with want := 0 }) s)).2

/-- Sends the access that an instruction through a reference ends in; a team swapped out while it waited for DONE comes back (R361). -/
def launch (hid va : Nat) (f : Acc → Acc) (s : State) : State :=
  match tfind s.accs hid with
  | none => s
  | some a =>
    let x := accOf s a.sid va 8 a.kind (a.kind == .atom) false
    let a := f { a with
      dev := x.dev, va := va, key := x.key, bank := x.bank, perfAt := x.perfAt, ansLat := x.ansLat, slot := x.slot
      remote := x.remote, parked := false, tvalue := word va }
    let waited := (tfind s.accs hid).any (·.parked)
    let s := { s with accs := tput s.accs hid a }
    let s := if waited then postRestore (cidOf a.sid) (slotAt s a.sid).team s else s
    if a.dev then post (s.now + 110) .mtuAccessDecide { a := hid } s else post a.perfAt (perfEvent a) { a := hid } s

/-- A heal that changes a field (R161), performed 224 cycles after the rewrite (R361). -/
def heal (hid field : Nat) (v r : Word) (s : State) : State :=
  match tfind s.accs hid with
  | some a => post (s.now + 224) .healCas { a := pkgOfC (cidOf a.sid), b := field, c := a.tenant, d := a.sid, w := v, w2 := clearO r } s
  | none => s

/-- A trap found after issue (R163, R276): delivered now. -/
def lateTrap (hid cause reason : Nat) (tv : Word) (s : State) : State :=
  post s.now .barrierLateTrap { a := hid, b := cause, c := reason, w := tv } s

/-- The barrier of a reference starts on its slow path with the read of its page entry at `pva`. -/
def slowPath (hid pva : Nat) (k : Word) (s : State) : State :=
  entryRead hid pva false (modHop hid (fun h => { h with stage := 0, k := k, pva := pva }) s)

/-- The bits of a reference that KCMP compares, with a mark that it is not null. -/
def cmpBits (k : Word) : Nat := 2 ^ 60 + wfield k 4 58

/-- The end of an access through a reference: its records are gone. -/
def endHop (hid : Nat) (s : State) : State := { s with hops := tdel s.hops hid, accs := tdel s.accs hid }

/-- What follows the barrier's answer `(k, addr)` of an instruction (R160, R161, R164, R276, R279): `old` where the old copy
of an object that moves is used, `infl` the entry of a store admitted with INFL + 1. -/
def barrierDone (hid : Nat) (k : Word) (addr : Nat) (old : Bool) (infl : Nat) (s : State) : State :=
  match tfind s.hops hid, tfind s.accs hid with
  | some h, some a =>
    let pin := h.kind == 3 || h.kind == 4
    let s := if h.kn < 16 && !(h.kind == 1 && h.second) && (!pin || k != h.k || (slotAt s a.sid).busy.contains (64 + h.kn)) then
        landResult a (64 + h.kn) k s else s
    let field := ((addr : Int) + h.off).toNat
    match h.kind with
    | 0 => launch hid field (fun a => { a with late := decide (h.kn < 16) }) { s with hops := tdel s.hops hid }
    | 1 =>
      if h.second then
        let s := landResult a h.dst k s
        endHop hid (if k != h.v0 && !h.oldc then heal hid h.field h.v0 k s else s)
      else
        launch hid field (fun a => { a with late := decide (h.kn < 16) })
          (modHop hid (fun h => { h with stage := 4, oldc := old, field := field, kn := 16 }) s)
    | 2 => launch hid field (fun a => { a with infl := infl, late := decide (h.kn < 16) }) { s with hops := tdel s.hops hid }
    | 5 =>
      if h.second then endHop hid (landResult a h.dst (ofBool (h.r1 == cmpBits k)) s)
      else
        let r := cmpBits k
        if h.kb = 0#64 then endHop hid (landResult a h.dst 0#64 s)
        else if wfield h.kb 62 2 = coreGood s (cidOf a.sid) (refHeap h.kb) then
          endHop hid (landResult a h.dst (ofBool (r == cmpBits h.kb)) (if h.knb < 16 then landNone a (64 + h.knb) s else s))
        else slowPath hid h.pvb h.kb (modHop hid (fun h => { h with second := true, r1 := r, kn := h.knb, knb := 16, tv := h.kb }) s)
    | 6 => endHop hid (landResult a h.dst 1#64 s)
    | _ => launch hid addr id (modHop hid (fun h => { h with
        stage := 4, k := k, pva := h.pva + 8 * (addr / 65536) - 8 * (refAddr h.k / 65536) }) s)
  | _, _ => s

/-- Waits on an object entry until it is DONE, looking at it at once: the strand is PARKED on the entry (R160). -/
def waitDone (hid : Nat) (s : State) : State :=
  let s := match tfind s.accs hid with
    | some a => if accLive s a && ((slotAt s a.sid).st == .ready || ((slotAt s a.sid).st == .waiting && !(slotAt s a.sid).hold)) then
        modSlot a.sid (fun x => { x with st := .parked }) s
      else s
    | none => s
  post s.now .heapBarrierWake { a := hid }
    (modAcc hid (fun a => { a with parked := true, bank := msgBank }) (modHop hid (fun h => { h with stage := 3 }) s))

/-- An earlier store of the strand to the same object is not yet admitted (R160): `stage` 3 where it waits for DONE. -/
def storeAhead (s : State) (hid : Nat) (h : HeapOp) (a : Acc) : Option Nat :=
  (s.hops.find? fun p => decide (p.1 < hid) && p.2.kind == 2 && p.2.entry == h.entry && decide (1 ≤ p.2.stage) && decide (p.2.stage ≤ 3)
    && ((tfind s.accs p.1).any fun b => b.sid == a.sid && b.gen == a.gen && b.gang == a.gang)).map (·.2.stage)

/-- The decision on an object entry (R160). A load of an object whose earlier store by the same strand waits for DONE waits with it: the
strand was PARKED there before it (R138, the third test of R168, log 95). -/
def onEntry (hid : Nat) (oe : Word) (s : State) : State :=
  match tfind s.hops hid, tfind s.accs hid with
  | some h, some a =>
    let cid := cidOf a.sid
    let good := coreGood s cid (refHeap h.k)
    let st := wfield oe 0 3
    let new := wfield oe 4 52 * 16
    if st ≥ 5 then lateTrap hid 0x13 8 h.tv s
    else if st = 3 then barrierDone hid (redirect h.k good new) new false 0 s
    else if st = 0 ∨ st = 4 then barrierDone hid (recolour h.k good) (refAddr h.k) false 0 s
    else if h.kind ≠ 2 ∧ h.kind ≠ 3 then
      match storeAhead s hid h a with
      | none => barrierDone hid h.k (refAddr h.k) true 0 s
      | some 3 => waitDone hid s
      | some _ => post (s.now + 1) .heapBarrierWake { a := hid, w := oe, flag := true } s
    else if h.kind = 2 ∧ st = 1 ∧ h.stage = 1 then
      entryRead hid h.entry true (modHop hid (fun h => { h with stage := 2 }) s)
    else waitDone hid s
  | _, _ => s

/-- The answer of INFL + 1: admitted to the old copy, or what the entry now says. -/
def onInfl (hid : Nat) (old : Word) (s : State) : State :=
  match tfind s.hops hid with
  | none => s
  | some h =>
    if wfield old 0 3 = 1 ∧ wfield old 56 8 < 255 then barrierDone hid h.k (refAddr h.k) true h.entry s
    else onEntry hid (if wfield old 0 3 = 1 then word 2 else old) s

/-- The answer of a page entry. -/
def onPage (hid : Nat) (pe : Word) (s : State) : State :=
  match tfind s.hops hid, tfind s.accs hid with
  | some h, some a =>
    if wfield pe 0 1 = 0 then
      barrierDone hid (recolour h.k (coreGood s (cidOf a.sid) (refHeap h.k))) (refAddr h.k) false 0 s
    else
      let oa := objEntryVa pe (refAddr h.k)
      entryRead hid oa false (modHop hid (fun h => { h with stage := 1, entry := oa }) s)
  | _, _ => s

/-- The value of the field that LDREF loaded (R276); the read of its heap's entry is the part's own (R160). -/
def onField (hid : Nat) (v : Word) (s : State) : State :=
  match tfind s.hops hid, tfind s.accs hid with
  | some h, some a =>
    let cid := cidOf a.sid
    let r := clearO v
    if v = 0#64 then endHop hid (landResult a h.dst 0#64 s)
    else if r = 0#64 ∨ wfield r 0 3 ≠ 0 then lateTrap hid 0x13 (if r = 0#64 then 1 else 2) v s
    else
      match engCheck s (tidOfC cid) (heapVa s cid (refHeap r)) a.tenant 48 with
      | (_, .ok _) =>
        let w := heapWords s cid (refHeap r)
        match refReason r a.tenant w with
        | some reason => lateTrap hid 0x13 reason v s
        | none =>
          let s := modHop hid (fun h => { h with second := true, v0 := v, tv := v, k := r }) s
          if wfield r 62 2 = coreGood s cid (refHeap r) then barrierDone hid r (refAddr r) false 0 s
          else slowPath hid (pageEntryVa w (refAddr r)) r s
      | (p, _) => entryRead hid p false (modHop hid (fun h => { h with stage := 5, v0 := v }) s)
  | _, _ => s

/-- The old header word of a pin or unpin (R164); a KPIN that finds the object MOVING starts again at its entry. -/
def onHeader (hid : Nat) (m : Word) (s : State) : State :=
  match tfind s.hops hid, tfind s.accs hid with
  | some h, some a =>
    let held := heldOn s a.sid a.gen hid
    let stop (cause reason : Nat) : State :=
      let s' := endHop hid (landNone a (h.dst % 128) s)
      if held then recordTrap a.sid cause h.tv (word reason) a.ipc s' else s'
    if h.kind = 3 ∧ wfield m 56 1 = 1 then slowPath hid h.pva h.k s
    else if h.kind = 3 ∧ wfield m 48 8 = 255 then stop 0x13 5
    else if h.kind = 4 ∧ wfield m 48 8 = 0 then stop 0x15 0
    else
      let s := endHop hid (if h.kind = 3 then landResult a h.dst (word a.va) s else s)
      goesOn a.sid a.gen hid 1 s
  | _, _ => s

/-- HEAP_BARRIER_WAKE (R160): the next stage of an access through a reference: `flag` with the word that a read answers in
`w`; without it, a read that waits for its slot, or a look at the entry that it waits on. One of a gang that is saved comes when the gang is
resident again (R400). DESIGN CHOICE (log 95): the wait for DONE ends at STAY too, and the access goes on at the old address. -/
def execHeapBarrierWake (s : State) : Res :=
  .next <| whenHere .heapBarrierWake (fun s =>
    let hid := s.ev.a
    match tfind s.hops hid, tfind s.accs hid with
    | some h, some a =>
      if s.ev.flag then
        match h.stage with
        | 0 => onPage hid s.ev.w s
        | 1 => onEntry hid s.ev.w s
        | 2 => onInfl hid s.ev.w s
        | 4 => if h.kind = 1 then onField hid s.ev.w s else onHeader hid s.ev.w s
        | 5 => onField hid h.v0 s
        | _ => s
      else if h.want ≠ 0 then entryRead hid (h.want - 1) h.inc s
      else if h.stage = 3 then
        match engCheck s (tidOfC (cidOf a.sid)) h.entry a.tenant 8 with
        | (_, .ok _) =>
          let oe := peek64 s (cidOf a.sid) h.entry
          if wfield oe 0 3 = 3 ∨ wfield oe 0 3 = 4 then onEntry hid oe s else s
        | _ => entryRead hid h.entry false (modHop hid (fun h => { h with stage := 1 }) s)
      else s
    | _, _ => dropHop hid s) s

/-- Wakes the accesses that wait on an object entry of a package. -/
def wakeEntry (pkg va : Nat) (s : State) : State :=
  s.hops.foldl (fun s p =>
    if p.2.stage = 3 ∧ p.2.entry = va ∧ ((tfind s.accs p.1).map fun a => pkgOfC (cidOf a.sid)) = some pkg then
      post s.now .heapBarrierWake { a := p.1 } s
    else s) s

/-- An atomic that the part makes on a word of the heap: it takes its turn at the word's home atomic engine as one of strand `d`'s
core (R254, R280), where its page is there. -/
def heapAtomic (kind : AccKind) (op : Nat) (cmp data : List Byte) (again : Instr) (s : State) : State :=
  let ev := s.ev
  match engCheck s (ev.a * 2048) ev.b ev.c 8 with
  | (a, .wait) => post (s.now + 1) again ev (engPark (2 ^ 61 + ev.b) ev.a a ev.c s)
  | (_, .fail _ _) => s
  | _ =>
    match engKey s (ev.a * 2048) ev.b ev.c with
    | .ok key =>
      let a : Acc :=
        { kind := kind, sid := ev.d, gen := 1000, ipc := 0, order := 0, dpkg := ev.a, dev := !inWindow ev.b, va := ev.b, size := 8
          key := some key, bank := msgBank, data := data, cmp := cmp, op := op, perfAt := s.now, ansLat := 0, decided := true
          tenant := ev.c }
      let (aid, s) := freshId s
      post s.now .atomicPerform { a := aid } { s with accs := tput s.accs aid a }
    | _ => s

/-- INFL_DECREMENT (R160). -/
def execInflDecrement (s : State) : Res := .next (heapAtomic .atom 19 [] (natBytes 8 0) .inflDecrement s)

/-- HEAL_CAS (R161): a failed one changes nothing. -/
def execHealCas (s : State) : Res := .next (heapAtomic .cas 0 (natBytes 8 s.ev.w.toNat) (natBytes 8 s.ev.w2.toNat) .healCas s)

/-- BARRIER_LATE_TRAP (R163): TEPC is the instruction, TVAL2 the reason with LATER in bits 63:32. A SWAPPED team is restored first
(R414). -/
def execBarrierLateTrap (s : State) : Res :=
  let hid := s.ev.a
  match tfind s.accs hid with
  | none => .next s
  | some a =>
    let x := slotAt s a.sid
    if accAway s hid then .next (post (s.now + 1) .barrierLateTrap s.ev s)
    else if accLive s a && x.st == .swapped then
      let t := s.now + 16 + teamRegs s (teamSlots s (cidOf a.sid) x.team)
      .next (post t .barrierLateTrap s.ev (post t .teamRestore { a := cidOf a.sid, b := x.team } s))
    else
    let s' := dropHop hid s
    if !accLive s' a || (slotAt s' a.sid).st == .trapped then .next s'
    else
      let tv2 := if heldOn s a.sid a.gen hid then word s.ev.c else failWord s a s.ev.c 0 0
      .next (recordTrap a.sid s.ev.b s.ev.w tv2 a.ipc s')

/-! ### Loads and stores (R275, R276) -/

/-- The store of the header of an object that KNEW of this strand made, while it is not performed (R278); 0 where there is none. -/
def headerOpen (s : State) (sid a : Nat) : Nat :=
  (((strandAccs s sid).find? fun p => p.2.store && !p.2.performed && p.2.va == a && p.2.size == 16).map (·.1)).getD 0

/-- The object of a heap access: its checks and rights, and the heap entry. -/
def objectM (n : Nat) (off : Int) (rd wr store : Bool) : M (Word × List Word) := do
  let k ← srcK n
  let w ← refCheckM k k
  let s ← askM id
  let sid := s.cur.sid
  match heapRefusal s sid k (resolveNow s (cidOf sid) w k).2 off rd wr store with
  | some (c, tv, r) => trapM c tv (word r)
  | none => pure (k, w)

/-- The bank of an access whose reference is still to pass its slow path, as the tables now stand (R137). -/
def slowBank (s : State) (cid : Nat) (w : List Word) (k : Word) (off : Int) (waits : Bool) : Nat :=
  let r := resolveNow s cid w k
  if r.1 = 2 ∧ waits = true then msgBank else nfield (((r.2 : Int) + off).toNat) 7 9

/-- Issues an access through a reference: on the fast path it goes on its way at once; on the slow path its k register,
and its destination, wait for the barrier. The number of the access is returned. -/
def heapIssue (w : List Word) (k : Word) (off : Int) (kind : AccKind) (h : HeapOp) (f : Acc → Acc) (s : State) : Nat × State :=
  let sid := s.cur.sid
  let cid := cidOf sid
  let fast := wfield k 62 2 == coreGood s cid (refHeap k)
  let pin := h.kind == 3 || h.kind == 4
  let (hid, s) := freshId s
  let va := ((refAddr k : Nat) + off : Int).toNat
  let a := accOf s sid va 8 kind (kind == .atom) false
  let bank := if fast then a.bank else slowBank s cid w k off (h.kind == 2 || h.kind == 3)
  let a := f { a with bank := bank, slot := true, heap := refHeap k, ret := .heap hid, behind := headerOpen s sid (refAddr k) }
  let pva := pageEntryVa w (refAddr k)
  let h := { h with kn := if fast && !pin then 16 else h.kn, pva := pva }
  let s := { s with accs := tput s.accs hid a, hops := tput s.hops hid h }
  let s := if h.dst % 128 = 0 then s else addBusy sid (h.dst % 128) s
  if fast then (hid, barrierDone hid k (refAddr k) false 0 s)
  else (hid, slowPath hid pva k (if h.kn < 16 then addBusy sid (64 + h.kn) s else s))

/-- The request slot and remote-store entry that a heap access takes; its slow path counts as a load of its own (R167). -/
def heapGate (w : List Word) (k : Word) (off : Int) (store : Bool) : M Unit := do
  let s ← askM id
  let cid := cidOf s.cur.sid
  let fast := wfield k 62 2 == coreGood s cid (refHeap k)
  let va := ((refAddr k : Nat) + off : Int).toNat
  let bank := if fast then nfield va 7 9 else slowBank s cid w k off store
  accGate bank true store
  let pb := nfield (pageEntryVa w (refAddr k)) 7 9
  waitOnUnless (holdsGate s cid pb true false) (fast || (decide (slotsUsed s cid < 15) && decide (bankUsed s cid pb + (if pb = bank then 1 else 0) < 12)))

/-- LDK (R275). -/
def execLdk (o : Ops) (s : State) : Res :=
  issue .a s do
    let off := immR o * 8
    dstReady (dstN o) (dstW o)
    let (k, w) ← objectM (o.b.toNat % 16) off true false false
    heapGate w k off false
    updM fun s => (heapIssue w k off .load { kind := 0, k := k, tv := k, kn := o.b.toNat % 16, off := off, dst := dstRid o }
      (fun a => { a with ret := .reg (dstRid o) .zext }) s).2

/-- The destination of a K field: C with EXR, else A. -/
def kDst (o : Ops) : Nat := dstN o % 16

/-- The K destination that the table of R275 puts in A, with EXR or without. -/
def kDstA (o : Ops) : Nat := o.a.toNat % 16

/-- The register of the G destination that the table of R275 puts in A, with EXR or without. -/
def aRid (o : Ops) : Nat :=
  let r := regOf o.a.toNat
  if r ≥ 80 then r + 128 * (wA o - 1) else r

/-- LDREF (R276). -/
def execLdref (o : Ops) (s : State) : Res :=
  issue .a s do
    let off := immR o * 8
    let n := o.b.toNat % 16
    dstReadyK (kDstA o)
    let (k, w) ← objectM n off true false false
    heapGate w k off false
    updM fun s =>
      (heapIssue w k off .load { kind := 1, k := k, tv := k, kn := n, off := off, dst := 64 + kDstA o } id s).2

/-- The store of a word through a reference. -/
def heapStore (n : Nat) (off : Int) (x : Word) (k : Word) (w : List Word) : M Unit := do
  heapGate w k off true
  updM fun s => (heapIssue w k off .store { kind := 2, k := k, tv := k, kn := n, off := off }
    (fun a => { a with data := natBytes 8 x.toNat, ret := .none, remote := true }) s).2

/-- STREF (R275, R157). -/
def execStref (o : Ops) (s : State) : Res :=
  issue .a s do
    if o.exr && o.c.toNat ≠ 0 then illegal 7
    let off := immR o * 8
    let v ← srcK (o.a.toNat % 16)
    let (k, w) ← objectM (o.b.toNat % 16) off false true true
    heapStore (o.b.toNat % 16) off (clearO v) k w

/-- STK (R275). DESIGN CHOICE (log 96): a g word with bit 3 set is stored unchanged, as R275 says; R157's clearing of O is of a
reference, which no g register holds with O = 1. -/
def execStk (o : Ops) (s : State) : Res :=
  issue .a s do
    if o.exr && o.c.toNat ≠ 0 then illegal 7
    let off := immR o * 8
    let v ← srcA o
    let (k, w) ← objectM (o.b.toNat % 16) off false true true
    updM fun s => if o.la then killReg o.a.toNat s else s
    heapStore (o.b.toNat % 16) off v k w

/-! ### Pins (R164) -/

/-- KPIN and KUNPIN: the strand waits for the header's atomic, which may trap at the instruction. -/
def pinOp (pin : Bool) (o : Ops) (s : State) : Res :=
  issue .a s do
    let n := o.b.toNat % 16
    if pin then dstReady o.a.toNat (wA o)
    let (k, w) ← objectM n 0 true true false
    heapGate w k 0 true
    keepM fun s =>
      let h : HeapOp := { kind := if pin then 3 else 4, k := k, tv := k, kn := n, dst := if pin then aRid o else 0 }
      let (hid, s) := heapIssue w k 0 .atom h (fun a => { a with op := if pin then 16 else 17, remote := true }) s
      holdFor' hid s.cur.sid .parked s

/-- KPIN (R164). -/
def execKpin (o : Ops) (s : State) : Res := pinOp true o s
/-- KUNPIN (R164). -/
def execKunpin (o : Ops) (s : State) : Res := pinOp false o s

/-! ### Allocation (R165, R278) -/

/-- The first heap that is VALID, of the core's tenant, and contains an address, from heap `64 - n` up. -/
def heapAtM (va : Nat) : Nat → M (Option (Nat × List Word))
  | 0 => pure none
  | n + 1 => do
    let s ← askM id
    let cid := cidOf s.cur.sid
    let h := 63 - n
    let w := bytesWords 6 (← unitReadM (heapVa s cid h) 48)
    if hValid w && hTenant w == (coreAt s cid).tenant && decide (hBase w ≤ va) && decide (va < hLimit w) then pure (some (h, w))
    else heapAtM va n

/-- KNEW (R165, R278). -/
def execKnew (o : Ops) (s : State) : Res :=
  let type := (bitsR o).1
  issue .a s do
    need9 (decide (1 ≤ o.xi.length) && decide (o.xi.length ≤ 2) && decide (1 ≤ type) && decide (type < 2 ^ 16))
    let n ← srcB o
    dstReadyK (kDstA o)
    let s ← askM id
    let sid := s.cur.sid
    let x := slotAt s sid
    let hb := x.hbump
    if n.toNat ≥ 65521 then trapM 0x13 n 6#64
    if hb = x.hlim then trapM 0x16 n (word hb)
    match ← heapAtM hb 64 with
    | none => trapM 0x13 (word hb) 7#64
    | some (h, _) => do
      if heapHold s (cidOf sid) x.team hb = 0 then trapM 0x14 (word hb) 1#64
      let t := 16 + 16 * ((n.toNat + 15) / 16)
      if hb + t > x.hlim ∨ hb / 65536 ≠ (hb + t - 1) / 65536 then trapM 0x16 n (word hb)
      gateAt hb true
      lastUseB o
      issueStore hb (wordsBytes [word (t / 16 + type * 2 ^ 32), 0#64]) false
      updM fun s => modSlot sid (fun x => { x with hbump := hb + t }) s
      writeResult (64 + kDstA o) 4 (word (coreGood s (cidOf sid) h * 2 ^ 62 + h * 2 ^ 56 + hb / 16 % 2 ^ 52 * 16 + 8))

/-! ### Registers only (R277, R279) -/

/-- KMOV, k to k (R277). -/
def execKmov (o : Ops) (s : State) : Res :=
  let n := (bitsR o).1
  issue .b s do
    oneXi o
    need9 (decide (n = 0))
    let k ← srcK (o.b.toNat % 16)
    dstReadyK (kDst o)
    writeResult (64 + kDst o) 1 k

/-- KMOV, k to g: O is cleared (R277). -/
def execKmovToG (o : Ops) (s : State) : Res :=
  let n := (bitsR o).1
  issue .b s do
    oneXi o
    need9 (decide (n = 1))
    let k ← srcK (o.b.toNat % 16)
    dstReady (dstN o) (dstW o)
    writeResult (dstRid o) 1 (clearO k)

/-- KMOV, g to k: bit 3 is cleared (R277). -/
def execKmovFromG (o : Ops) (s : State) : Res :=
  let n := (bitsR o).1
  issue .b s do
    oneXi o
    need9 (decide (n = 2))
    let x ← srcB o
    dstReadyK (kDst o)
    lastUseB o
    writeResult (64 + kDst o) 1 (clearO x)

/-- KNULL (R275). -/
def execKnull (o : Ops) (s : State) : Res :=
  issue .b s do
    let k ← srcK (o.b.toNat % 16)
    dstReady o.a.toNat (wA o)
    writeResult (aRid o) 1 (ofBool (k == 0#64))

/-- The request slot of the slow path of a comparison, which makes no access of its own (R167, R279). -/
def compareGate (w : List Word) (k : Word) : M Unit := do
  let s ← askM id
  let pb := nfield (pageEntryVa w (refAddr k)) 7 9
  waitOnUnless (holdsGate s (cidOf s.cur.sid) pb true false) (accFree s s.cur.sid pb true false)

/-- KCMP (R279): references on the fast path are compared at once; the others pass the barrier with op = load. -/
def execKcmp (o : Ops) (s : State) : Res :=
  issue .b s do
    let na := o.a.toNat % 16
    let nb := o.b.toNat % 16
    let ka ← srcK na
    let kb ← srcK nb
    dstReady (dstN o) (dstW o)
    let wa ← if ka = 0#64 then pure [] else refCheckM ka ka
    let wb ← if kb = 0#64 then pure [] else refCheckM kb kb
    let s ← askM id
    let cid := cidOf s.cur.sid
    let slow (k : Word) : Bool := k != 0#64 && wfield k 62 2 != coreGood s cid (refHeap k)
    if ka = 0#64 ∧ slow kb = false then writeResult (dstRid o) 1 (ofBool (kb == 0#64))
    else if slow ka = false ∧ slow kb = false then
      writeResult (dstRid o) 1 (ofBool (kb != 0#64 && cmpBits ka == cmpBits kb))
    else do
      let one := if slow ka then (wa, ka) else (wb, kb)
      compareGate one.1 one.2
      updM fun s =>
        let sid := s.cur.sid
        let d := dstRid o
        let bare (a : Acc) : Acc := { a with bank := msgBank, slot := false }
        if slow ka then
          let two := slow kb && na != nb
          let s := if two then addBusy sid (64 + nb) s else s
          let h : HeapOp := { kind := 5, k := ka, tv := ka, kn := na, dst := d, kb := kb, knb := if two then nb else 16, pvb := pageEntryVa wb (refAddr kb) }
          if na = nb then (heapIssue wa ka 0 .load { h with kind := 6 } bare s).2
          else (heapIssue wa ka 0 .load h bare s).2
        else
          let h : HeapOp := { kind := 5, second := true, k := kb, tv := kb, kn := nb, dst := d
                              r1 := if ka = 0#64 then 0 else cmpBits ka }
          (heapIssue wb kb 0 .load h bare s).2

end Sys2Proof.Machine
end

