-- ==== Sys2Proof/Machine/Relocation.lean ====
section
/-!
DEFINITION. The relocation engine (R162, R167, spec/07; R332 to R334, spec/13; R361, R363, spec/17): HCOMPACT and the
events of a relocation.

Of a command: `result` is the address of the heap's table entry, `user` the new good colour, `aux` the PENDING objects
still to move (address, index of the page * 2^56, size in 16-byte units * 2^68), `nextAt` the next free address of the
destination area, `row` the flip acknowledgements still to come, `pages` and `nstay` the counts of its elements.
-/

namespace Sys2Proof.Machine

/-! ### The descriptor (R332) -/

def rW (c : Cmd) (i : Nat) : Word := c.desc.getD i 0#64
def rHeap (c : Cmd) : Nat := wfield (rW c 0) 0 6
def rNpg (c : Cmd) : Nat := wfield (rW c 0) 8 12
def rArr (c : Cmd) : Nat := wfield (rW c 3) 0 56
def rDst (c : Cmd) : Nat := wfield (rW c 2) 0 56
/-- The end of the destination area. -/
def rEnd (c : Cmd) : Nat := rDst c + wfield (rW c 2) 56 8 * 65536

/-- The limits of the descriptor (R332). -/
def relocOk (d : List Word) : Bool :=
  let w0 := d.getD 0 0#64
  let w2 := d.getD 2 0#64
  let w3 := d.getD 3 0#64
  wfield w0 6 2 == 0 && wfield w0 8 12 != 0 && wfield w0 22 10 == 0 && wfield w0 48 16 == 0
  && isRaw (d.getD 1 0#64) && wfield (d.getD 1 0#64) 0 3 == 0
  && wfield w2 0 16 == 0 && wfield w2 56 8 != 0 && wfield w3 0 12 == 0 && wfield w3 56 8 == 0

/-- The ownership table decides one package for every address of [lo, hi) (R411): it does at `lo` and at each bound of an
entry between. -/
def ownedBy (s : State) (pkg lo hi : Nat) : Bool :=
  let bounds := (List.range 128).flatMap fun i =>
    let (w0, w1) := tget s.own (pkg * 128 + i) (0#64, 0#64)
    [wfield w0 16 40 * 65536, wfield w1 0 40 * 65536]
  ((lo :: bounds).filter fun a => decide (lo ≤ a) && decide (a < hi)).all fun a =>
    match ownerOf s pkg a with
    | some (o, _) => o == identityOf s pkg
    | none => false

/-- HCOMPACT (R332). -/
def execHcompact (o : Ops) (s : State) : Res :=
  issue .a s do
    let (hn, h) ← portM o 5 32
    let (dp, d) ← descM o 32
    let w0 := d.getD 0 0#64
    limitM hn dp (relocOk d)
    let pl := d.getD 1 0#64
    spanM pl (wfield pl 0 56 : Nat) (8 * wfield w0 8 12) true false
    let cpl := wfield w0 20 1 == 1
    cplM hn dp 5 h.ch cpl
    let s ← askM id
    let sid := s.cur.sid
    let cid := cidOf sid
    let hp := wfield w0 0 6
    let w := bytesWords 6 (← unitReadM (heapVa s cid hp) 48)
    if hValid w = false ∨ hTenant w ≠ (coreAt s cid).tenant then trapM 0x13 (word hp) 3#64
    limitM hn dp (ownedBy s (pkgOfC cid) (hBase w) (hLimit w))
    if heapHold s cid (slotAt s sid).team (hBase w) = 0 then trapM 0x14 (word hp) 1#64
    portSlotM o hn h
    lastUseB o
    updM fun s =>
      let (id, s) := addCmd { newCmd s 5 h.ch 9 hn d cpl with result := word (heapVa s cid hp) } s
      post (s.now + 40) .relocCommand { a := id } s
    setCost 5

/-! ### The engine's own accesses -/

/-- The tile by whose package the engine reads and writes, and the heap's tenant. -/
def rOwn (c : Cmd) : Nat := tidOfC (cidOf c.sid)
def rTen (s : State) (c : Cmd) : Nat := (coreAt s (cidOf c.sid)).tenant

def rRead (s : State) (c : Cmd) (va n : Nat) : List Byte := (engRead s (rOwn c) va (rTen s c) n).getD []
def rPeek (s : State) (c : Cmd) (va : Nat) : Word := (bytesWords 1 (rRead s c va 8)).headD 0#64
def rWrite (c : Cmd) (va : Nat) (ws : List Word) (s : State) : State :=
  engWrite (rOwn c) va (rTen s c) (wordsBytes ws) (markDSpan (rOwn c) va (8 * ws.length) s) (strandWriter c.sid s.now)

/-- The six words of the heap's entry that count (R154). -/
def rEntry (s : State) (c : Cmd) : List Word := bytesWords 6 (rRead s c c.result.toNat 48)

/-- Goes on where every page of the spans is there; otherwise the access parks and the event comes again (R422). -/
def withPages (id : Nat) (c : Cmd) (spans : List (Nat × Nat)) (ev : Instr) (arg : EvArg) (go : State) (s : State) : State :=
  match spans.findSome? fun p =>
      match engCheck s (rOwn c) p.1 (rTen s c) p.2 with
      | (a, .wait) => some a
      | _ => none with
  | some a => post (s.now + 1) ev arg (engPark id (rOwn c / 2048) a (rTen s c) s)
  | none => go

/-- Places an element (R334). -/
def rEmit (id : Nat) (final : Bool) (st : Nat) (s : State) : State :=
  match tfind s.cmds id with
  | none => s
  | some c =>
    emit id c (word (wfield (rW c 0) 32 16 + st * 2 ^ 16 + (if final then 2 ^ 21 else 0) + c.pages % 2 ^ 16 * 2 ^ 32
      + min c.nstay 65535 * 2 ^ 48)) final false s

/-! ### The engine's queue (R333) -/

/-- Takes the commands of the queue in push order: one waits while its heap has a relocation in progress, or until the writes its push
released are performed (R147), and those behind a push that waits so wait too. -/
def rTake (pkg : Nat) : List (Nat × Nat) → State → State
  | [], s => s
  | p :: l, s =>
    if (pkgAt s pkg).rle.contains p.2 then rTake pkg l s
    else if released s ((tfind s.cmds p.1).map (·.entries) |>.getD []) then
      rTake pkg l (post (s.now + 220) .relocParse { a := p.1 } (modPkg pkg (fun q => { q with
        rq := q.rq.filter (· != p), rle := q.rle ++ [p.2] }) s))
    else post (s.now + 1) .relocCommand { a := p.1, b := 1 } s

def rNext (pkg : Nat) (s : State) : State := rTake pkg (pkgAt s pkg).rq s

/-- RELOC_COMMAND (R333): the command is received (`b` 0), or looked at again. -/
def execRelocCommand (s : State) : Res :=
  let id := s.ev.a
  match tfind s.cmds id with
  | none => .next s
  | some c =>
    let pkg := rOwn c / 2048
    .next (rNext pkg (if s.ev.b = 0 then modPkg pkg (fun q => { q with rq := q.rq ++ [(id, rHeap c)] }) s else s))

/-! ### Checks and step 1 (R158, R162, R333) -/

/-- The objects of a page from an offset up, each as (offset, size in 16-byte units); none where it does not parse. -/
def parsePage (s : State) (c : Cmd) (p : Nat) : Nat → Nat → Option (List (Nat × Nat))
  | 0, off => if off = 65536 then some [] else none
  | n + 1, off =>
    if off = 65536 then some []
    else if 65536 < off then none
    else
      let sz := wfield (rPeek s c (p + off)) 0 32
      if sz = 0 ∨ 4096 < sz then none
      else (parsePage s c p n (off + 16 * sz)).map ((off, sz) :: ·)

/-- The pages that PLIST names. -/
def rPages (s : State) (c : Cmd) : List Nat :=
  (bytesWords (rNpg c) (rRead s c (wfield (rW c 1) 0 56) (8 * rNpg c))).map fun w => w.toNat

/-- No entry of a list stands in it twice. -/
def noRepeat : List Nat → Bool
  | [] => true
  | x :: xs => !xs.contains x && noRepeat xs

/-- The array area lies in device memory of the package, below or above the window space (R86), that the grant list covers with RD and WR. -/
def arrGranted (s : State) (c : Cmd) (lo n : Nat) : Bool :=
  let pkg := rOwn c / 2048
  let gs := (partAt s (pkeyOf s (cidOf c.sid))).grants
  (decide (lo + n ≤ windowBase) || (decide (windowBase + 2 ^ 32 ≤ lo) && decide (lo + n ≤ vaTop))) && ownedBy s pkg lo (lo + n)
  && (pageStarts lo n).all fun a => gs.any fun g => g.rd && g.wr && decide (g.base ≤ a) && decide (a < g.limit)

/-- The checks of R333 but the parse. -/
def rValid (s : State) (c : Cmd) (ps : List Nat) : Bool :=
  let w := rEntry s c
  let n := 32768 * rNpg c
  noRepeat ps
  && (ps.all fun p => p % 65536 == 0 && decide (hBase w ≤ p) && decide (p < hLimit w) && !(decide (rDst c ≤ p) && decide (p < rEnd c)))
  && decide (hBase w ≤ rDst c) && decide (rEnd c ≤ hLimit w)
  && (decide (rArr c + n ≤ hBase w) || decide (hLimit w ≤ rArr c)) && arrGranted s c (rArr c) n

/-- The state an object starts in: PENDING, or STAY for a filler or a pinned object (R162 step 1). -/
def objStart (hw : Word) : Nat := if wfield hw 32 16 = 0 ∨ wfield hw 48 8 ≠ 0 then 4 else 1

/-- The object array and page entry of one page, its PENDING objects added to the list. -/
def writePage (c : Cmd) (w : List Word) (i p : Nat) (objs : List (Nat × Nat)) (s : State) : List Nat × State :=
  let arr := rArr c + 32768 * i
  let s := (List.range 4096).foldl (fun s j => rWrite c (arr + 8 * j) [0#64] s) s
  let (l, s) := objs.foldl (fun (q : List Nat × State) o =>
    let hw := rPeek q.2 c (p + o.1)
    let st := objStart hw
    let s := rWrite c (arr + o.1 / 2) [word st] q.2
    let s := if st = 4 ∧ wfield hw 32 16 ≠ 0 then modPkg (rOwn c / 2048) (fun k => { k with rleStayed := k.rleStayed + 1 }) s else s
    (if st = 1 then q.1 ++ [p + o.1 + i * 2 ^ 56 + o.2 * 2 ^ 68] else q.1, s)) ([], s)
  (l, rWrite c (hFwd w + 8 * ((p - hBase w) / 65536)) [word (arr + 1)] s)

/-- The cores of the home package that hold a HEAP entry for a heap. -/
def heapCores (s : State) (pkg : Nat) (w : List Word) : List Nat :=
  (s.rt.filterMap fun p =>
    let v := rtView p.2
    if pkgOfC (p.1 / 64) == pkg && v.valid && v.cls == 4 && v.base == hBase w then some (p.1 / 64) else none).eraseDups

/-! ### Step 4 (R162, R333, R361) -/

/-- Objects that find no room are set STAY. -/
def stayAll (c : Cmd) : List Nat → State → State
  | [], s => s
  | o :: os, s =>
    let oe := rArr c + 32768 * nfield o 56 12 + nfield o 0 16 / 2
    let e := rPeek s c oe
    let s := rWrite c oe [word (e.toNat / 8 * 8 + 4)] s
    stayAll c os (wakeEntry (rOwn c / 2048) oe (modPkg (rOwn c / 2048) (fun k => { k with rleStayed := k.rleStayed + 1 }) s))

/-- How many of the named pages lie below a page: objects are moved in ascending page order (R162). -/
def pageRank (c : Cmd) (p : Nat) : Nat := (c.list.filter fun q => decide (q < p)).length

/-- Insertion of a page with its place in the list, by address. -/
def pageInsert (x : Nat × Nat) : List (Nat × Nat) → List (Nat × Nat)
  | [] => [x]
  | y :: l => if x.2 < y.2 then x :: y :: l else y :: pageInsert x l

/-- Pages whose objects are all DONE or STAY are counted, with a progress element each where PROG asks (R334). -/
def countPages (id limit : Nat) : Nat → State → State
  | 0, s => s
  | n + 1, s =>
    match tfind s.cmds id with
    | none => s
    | some c =>
      if limit ≤ c.pages then s
      else
        let s := modCmd id (fun c => { c with pages := c.pages + 1 }) s
        countPages id limit n (if wfield (rW c 0) 21 1 = 1 then rEmit id false 0 s else s)

/-- The destination of an object of `n` bytes: the next free address, or the next 64 KiB boundary. -/
def destOf (c : Cmd) (n : Nat) : Nat :=
  if 65536 < c.nextAt % 65536 + n then (c.nextAt / 65536 + 1) * 65536 else c.nextAt

/-- The next object of step 4, or its end. -/
def relocStep (id : Nat) (s : State) : State :=
  match tfind s.cmds id with
  | none => s
  | some c =>
    let s := countPages id (match c.aux with
      | [] => rNpg c
      | o :: _ => pageRank c (nfield o 0 56 / 65536 * 65536)) (rNpg c) s
    match c.aux with
    | [] => post (s.now + 40) .relocComplete { a := id } s
    | o :: _ =>
      let n := 16 * (o / 2 ^ 68)
      if rEnd c < destOf c n + n then
        let s := stayAll c c.aux s
        let s := modCmd id (fun c => { c with nstay := c.nstay + c.aux.length, aux := [] }) s
        post (s.now + 40) .relocComplete { a := id } (countPages id (rNpg c) (rNpg c) s)
      else post (s.now + 224) .relocObjectBusy { a := id, b := rArr c + 32768 * nfield o 56 12 + nfield o 0 16 / 2 } s

/-- RELOC_PARSE (R162, R333): with `b` 0 the list is read and the command checked; with `b` 1 step 1 ends and the flip goes
out. -/
def execRelocParse (s : State) : Res :=
  let id := s.ev.a
  match tfind s.cmds id with
  | none => .next s
  | some c =>
    let ev := s.ev
    let pl := (wfield (rW c 1) 0 56, 8 * rNpg c)
    let hd := (c.result.toNat, 48)
    let ps := if ev.b = 0 then rPages s c else c.list
    let w := rEntry s c
    let bad (s : State) : State := post (s.now + 40) .relocComplete { a := id, c := 5 } s
    if ev.b = 0 then
      .next (withPages id c [pl, hd] .relocParse ev (
        if !rValid s c ps then bad s
        else withPages id c (ps.map fun p => (p, 65536)) .relocParse ev (
          match ps.mapM fun p => parsePage s c p 4097 0 with
          | none => bad s
          | some os => post (s.now + 240 + 4 * (os.map List.length).sum) .relocParse { ev with b := 1 }
              (modCmd id (fun c => { c with list := ps }) s)) s) s)
    else
      let fwd := ps.map fun p => (hFwd w + 8 * ((p - hBase w) / 65536), 8)
      .next (withPages id c (hd :: (rArr c, 32768 * rNpg c) :: fwd ++ ps.map fun p => (p, 65536)) .relocParse ev (
        let (objs, s) := (((List.range ps.length).zip ps).foldr pageInsert []).foldl (fun (q : List Nat × State) ip =>
          let (l, s) := writePage c w ip.1 ip.2 ((parsePage q.2 c ip.2 4097 0).getD []) q.2
          (q.1 ++ l, s)) ([], s)
        let w0 := w.getD 0 0#64
        let good := hGood w % 3 + 1
        let s := rWrite c c.result.toNat [setField (setField w0 1 2 good) 3 1 1] s
        let s := rWrite c (c.result.toNat + 40) [setField (w.getD 5 0#64) 0 32 (wfield (w.getD 5 0#64) 0 32 + 1)] s
        let cs := heapCores s (rOwn c / 2048) w
        let s := modCmd id (fun c => { c with user := good, aux := objs, nextAt := rDst c, row := cs.length }) s
        if cs.isEmpty then relocStep id s
        else cs.foldl (fun s x => post (s.now + 30) .flipArrival { a := id, b := x } s) s) s)

/-- FLIP_ARRIVAL (R162 steps 2 and 3): the core takes the new colour, and acknowledges once every store through a reference
of the heap that it issued before is performed (`c`: one more than the number of the last of them). -/
def execFlipArrival (s : State) : Res :=
  let id := s.ev.a
  match tfind s.cmds id with
  | none => .next s
  | some c =>
    let cid := s.ev.b
    let h := rHeap c
    let bound := if s.ev.c = 0 then s.nextId else s.ev.c
    let s := if s.ev.c = 0 then { s with good := tput s.good (cid * 64 + h) c.user } else s
    let waits := s.accs.any fun p =>
      decide (p.1 < bound) && cidOf p.2.sid == cid && p.2.store && p.2.heap == h && !p.2.performed && !p.2.rejected
    .next (if waits then post (s.now + 1) .flipArrival { a := id, b := cid, c := bound } s
      else post (s.now + 30) .flipAck { a := id, b := cid } s)

/-- FLIP_ACK (R162 step 3): the last acknowledgement starts the moves. -/
def execFlipAck (s : State) : Res :=
  let id := s.ev.a
  match tfind s.cmds id with
  | none => .next s
  | some c =>
    let s := modCmd id (fun c => { c with row := c.row - 1 }) s
    .next (if c.row = 1 then relocStep id s else s)

/-- The object is finished with; the next one. -/
def objectOver (id : Nat) (s : State) : State := relocStep id (modCmd id (fun c => { c with aux := c.aux.drop 1 }) s)

/-- A filler over [lo, hi) (R333). -/
def filler (c : Cmd) (lo hi : Nat) (s : State) : State := if lo < hi then rWrite c lo [word ((hi - lo) / 16), 0#64] s else s

/-- RELOC_OBJECT_BUSY (R162 step 4): the entry becomes BUSY (`c` 0); once INFL is 0 (`c` 1) a pinned object is set STAY and
any other is marked MOVING; the copy starts when no other is being copied (`c` 2). -/
def execRelocObjectBusy (s : State) : Res :=
  let id := s.ev.a
  match tfind s.cmds id with
  | none => .next s
  | some c =>
    match c.aux with
    | [] => .next s
    | o :: _ =>
      let ev := s.ev
      let pkg := rOwn c / 2048
      let oe := ev.b
      let a := nfield o 0 56
      let n := 16 * (o / 2 ^ 68)
      .next (withPages id c [(oe, 8), (a, n), (destOf c n, n)] .relocObjectBusy ev (
        let e := rPeek s c oe
        let s := if ev.c = 0 then rWrite c oe [word (e.toNat / 8 * 8 + 2)] s else s
        if wfield e 56 8 ≠ 0 then post (s.now + 1) .relocObjectBusy { ev with c := 1 } s
        else
          let hw := rPeek s c a
          if ev.c < 2 ∧ wfield hw 48 8 ≠ 0 then
            let s := rWrite c oe [word (e.toNat / 8 * 8 + 4)] s
            objectOver id (wakeEntry pkg oe (modPkg pkg (fun k => { k with rleStayed := k.rleStayed + 1 }) s))
          else
            let s := if ev.c < 2 then
                let s := rWrite c a [setField hw 56 1 1] s
                modCmd id (fun c => { c with nextAt := destOf c n + n }) (filler c c.nextAt (destOf c n) s)
              else s
            let d := if ev.c < 2 then destOf c n else ev.d
            if (pkgAt s pkg).copying ≠ 0 then post (s.now + 1) .relocObjectBusy { ev with c := 2, d := d } s
            else
              post (s.now + 300 + (n + 63) / 64) .relocObjectDone { a := id, b := oe, d := d }
                (modPkg pkg (fun k => { k with copying := id + 1 }) s)) s)

/-- RELOC_OBJECT_DONE (R162 step 4): the bytes are copied (`c` 0); 224 cycles later the old header says where, and the entry
is DONE (`c` 1). -/
def execRelocObjectDone (s : State) : Res :=
  let id := s.ev.a
  match tfind s.cmds id with
  | none => .next s
  | some c =>
    match c.aux with
    | [] => .next s
    | o :: _ =>
      let ev := s.ev
      let pkg := rOwn c / 2048
      let a := nfield o 0 56
      let n := 16 * (o / 2 ^ 68)
      .next (withPages id c [(ev.b, 8), (a, n), (ev.d, n)] .relocObjectDone ev (
        if ev.c = 0 then
          let hw := rPeek s c a
          let s := copyBytes c.sid (rOwn c) a ev.d (rTen s c) n (markDSpan (rOwn c) ev.d n s)
          let s := rWrite c ev.d [setField hw 56 2 0] s
          post (s.now + 224) .relocObjectDone { ev with c := 1 } (modPkg pkg (fun k => { k with copying := 0 }) s)
        else
          let s := rWrite c a [setField (rPeek s c a) 57 1 1, word (c.user * 2 ^ 62 + rHeap c * 2 ^ 56 + ev.d)] s
          let s := rWrite c ev.b [setField (setField (rPeek s c ev.b) 0 56 ev.d) 0 3 3] s
          objectOver id (wakeEntry pkg ev.b (modPkg pkg (fun k => { k with rleMoved := k.rleMoved + 1 }) s))) s)

/-- RELOC_COMPLETE (R162 step 5, R333, R334); `c` 5: the command is INVALID and changed nothing. -/
def execRelocComplete (s : State) : Res :=
  let id := s.ev.a
  match tfind s.cmds id with
  | none => .next s
  | some c =>
    let pkg := rOwn c / 2048
    let top := (c.nextAt + 65535) / 65536 * 65536
    let spans := if s.ev.c = 5 then [] else (c.result.toNat, 8) :: (if c.nextAt < top then [(c.nextAt, 16)] else [])
    .next (withPages id c spans .relocComplete s.ev (
      let s := if s.ev.c = 5 then s
        else
          let s := filler c c.nextAt top s
          rWrite c c.result.toNat [setField (rPeek s c c.result.toNat) 3 1 0] s
      let s := modCmd id (fun c => { c with placed := true }) (modPkg pkg (fun k => { k with rle := k.rle.erase (rHeap c) }) s)
      rNext pkg (if c.cpl || s.ev.c = 5 then rEmit id true s.ev.c s else endCmd id s)) s)

end Sys2Proof.Machine
end

