-- ==== Sys2Proof/Machine/Scalar.lean ====
section
/-!
DEFINITION. The scalar unit: integer and binary32 operations, immediates and bit fields (R212 to R223, spec/10).
-/

namespace Sys2Proof.Machine

/-- Two sources, one result (R212): the sources are read, the destination's wait met, the last uses marked, the result
written at its latency. -/
def alu2 (f : Word → Word → Word) (lat : Word → Word → Nat) (o : Ops) (s : State) : Res :=
  issue .b s do
    let a ← srcA o
    let b ← srcB o
    dstReady (dstN o) (dstW o)
    lastUse o
    writeResult (dstRid o) (lat a b) (f a b)

/-- One source, B (R212). -/
def alu1 (pre : M Unit) (f : Word → Word) (lat : Nat) (o : Ops) (s : State) : Res :=
  issue .b s do
    pre
    let b ← srcB o
    dstReady (dstN o) (dstW o)
    lastUse o
    writeResult (dstRid o) lat (f b)

/-- Form I: the source A and the immediate (R220). -/
def aluI (f : Word → Word → Word) (o : Ops) (s : State) : Res :=
  issue .b s do
    let a ← srcA o
    dstReady (dstN o) (dstW o)
    lastUse o
    writeResult (dstRid o) 1 (f a (wordI (immI o)))

/-- ADD (R216): a + b. -/
def execAdd (o : Ops) (s : State) : Res := alu2 (fun a b => a + b) (fun _ _ => 1) o s

/-- SUB (R216): a - b. -/
def execSub (o : Ops) (s : State) : Res := alu2 (fun a b => a - b) (fun _ _ => 1) o s

/-- AND (R216): a &&& b. -/
def execAnd (o : Ops) (s : State) : Res := alu2 (fun a b => a &&& b) (fun _ _ => 1) o s

/-- OR (R216): a ||| b. -/
def execOr (o : Ops) (s : State) : Res := alu2 (fun a b => a ||| b) (fun _ _ => 1) o s

/-- XOR (R216): a ^^^ b. -/
def execXor (o : Ops) (s : State) : Res := alu2 (fun a b => a ^^^ b) (fun _ _ => 1) o s

/-- SHL (R216): a <<< (b.toNat % 64). -/
def execShl (o : Ops) (s : State) : Res := alu2 (fun a b => a <<< (b.toNat % 64)) (fun _ _ => 1) o s

/-- SHR (R216): a >>> (b.toNat % 64). -/
def execShr (o : Ops) (s : State) : Res := alu2 (fun a b => a >>> (b.toNat % 64)) (fun _ _ => 1) o s

/-- SRA (R216): a.sshiftRight (b.toNat % 64). -/
def execSra (o : Ops) (s : State) : Res := alu2 (fun a b => a.sshiftRight (b.toNat % 64)) (fun _ _ => 1) o s

/-- MUL (R216): a * b. -/
def execMul (o : Ops) (s : State) : Res := alu2 (fun a b => a * b) (fun _ _ => 3) o s

/-- SLT (R216): sltW a b. -/
def execSlt (o : Ops) (s : State) : Res := alu2 (fun a b => sltW a b) (fun _ _ => 1) o s

/-- SLTU (R216): sltuW a b. -/
def execSltu (o : Ops) (s : State) : Res := alu2 (fun a b => sltuW a b) (fun _ _ => 1) o s

/-- SEQ (R216): seqW a b. -/
def execSeq (o : Ops) (s : State) : Res := alu2 (fun a b => seqW a b) (fun _ _ => 1) o s

/-- MULH (R216): mulhW a b. -/
def execMulh (o : Ops) (s : State) : Res := alu2 (fun a b => mulhW a b) (fun _ _ => 3) o s

/-- MULHU (R216): mulhuW a b. -/
def execMulhu (o : Ops) (s : State) : Res := alu2 (fun a b => mulhuW a b) (fun _ _ => 3) o s

/-- MIN (R216): minS a b. -/
def execMin (o : Ops) (s : State) : Res := alu2 (fun a b => minS a b) (fun _ _ => 1) o s

/-- MAX (R216): maxS a b. -/
def execMax (o : Ops) (s : State) : Res := alu2 (fun a b => maxS a b) (fun _ _ => 1) o s

/-- MINU (R216): minU a b. -/
def execMinu (o : Ops) (s : State) : Res := alu2 (fun a b => minU a b) (fun _ _ => 1) o s

/-- MAXU (R216): maxU a b. -/
def execMaxu (o : Ops) (s : State) : Res := alu2 (fun a b => maxU a b) (fun _ _ => 1) o s

/-- DIV (R217). -/
def execDiv (o : Ops) (s : State) : Res := alu2 (fun a b => (divideS a b).1) (divLatency true) o s

/-- DIVU (R217). -/
def execDivu (o : Ops) (s : State) : Res := alu2 (fun a b => (divideU a b).1) (divLatency false) o s

/-- REM (R217). -/
def execRem (o : Ops) (s : State) : Res := alu2 (fun a b => (divideS a b).2) (divLatency true) o s

/-- REMU (R217). -/
def execRemu (o : Ops) (s : State) : Res := alu2 (fun a b => (divideU a b).2) (divLatency false) o s

/-- MOV (R218): the pattern, from and to a register or a queue. -/
def execMov (o : Ops) (s : State) : Res := alu1 (pure ()) (fun b => b) 1 o s

/-- CLZ (R218). -/
def execClz (o : Ops) (s : State) : Res := alu1 (pure ()) clzW 1 o s

/-- POPC (R218). -/
def execPopc (o : Ops) (s : State) : Res := alu1 (pure ()) popcW 1 o s

/-- The field limits of BFX and BFI (R219). -/
def bfOk (o : Ops) (signOk : Bool) : Bool :=
  let n := (bitsR o).1
  decide (2 ≤ o.xi.length) && decide (n / 2 ^ 13 = 0) && decide (n % 64 + (nfield n 6 6 + 1) ≤ 64) && (signOk || !n.testBit 12)

/-- BFX (R219). -/
def execBfx (o : Ops) (s : State) : Res :=
  let n := (bitsR o).1
  alu1 (need9 (bfOk o true)) (fun b => bfxW b (n % 64) (nfield n 6 6 + 1) (n.testBit 12)) 1 o s

/-- BFI (R219). -/
def execBfi (o : Ops) (s : State) : Res :=
  let n := (bitsR o).1
  issue .b s do
    need9 (bfOk o false)
    let a ← srcA o
    let b ← srcB o
    dstReady (dstN o) (dstW o)
    lastUse o
    writeResult (dstRid o) 1 (bfiW a b (n % 64) (nfield n 6 6 + 1))

/-- ADDI (R220). -/
def execAddi (o : Ops) (s : State) : Res := aluI (fun a i => a + i) o s

/-- ANDI (R220). -/
def execAndi (o : Ops) (s : State) : Res := aluI (fun a i => a &&& i) o s

/-- ORI (R220). -/
def execOri (o : Ops) (s : State) : Res := aluI (fun a i => a ||| i) o s

/-- XORI (R220). -/
def execXori (o : Ops) (s : State) : Res := aluI (fun a i => a ^^^ i) o s

/-- SHLI (R220). -/
def execShli (o : Ops) (s : State) : Res := aluI (fun a i => a <<< (i.toNat % 64)) o s

/-- SHRI (R220). -/
def execShri (o : Ops) (s : State) : Res := aluI (fun a i => a >>> (i.toNat % 64)) o s

/-- SRAI (R220). -/
def execSrai (o : Ops) (s : State) : Res := aluI (fun a i => a.sshiftRight (i.toNat % 64)) o s

/-- LIH (R220). -/
def execLih (o : Ops) (s : State) : Res := aluI (fun a i => (i.truncate 32 ++ a.truncate 32 : BitVec 64)) o s

/-- SLTI (R220). -/
def execSlti (o : Ops) (s : State) : Res := aluI (fun a i => sltW a i) o s

/-- LI (R220): the immediate; A is not read. -/
def execLi (o : Ops) (s : State) : Res :=
  issue .b s do
    need9 (!(o.exr && o.a != 0))
    dstReady (dstN o) (dstW o)
    writeResult (dstRid o) 1 (wordI (immI o))

/-- FADD (R221). -/
def execFadd (o : Ops) (s : State) : Res := alu2 (fun a b => ofLane (Num.fadd (lo32 a) (lo32 b))) (fun _ _ => 4) o s

/-- FMUL (R221). -/
def execFmul (o : Ops) (s : State) : Res := alu2 (fun a b => ofLane (Num.fmul (lo32 a) (lo32 b))) (fun _ _ => 4) o s

/-- FFMA (R221): a * b + c, the product and sum exact; C is the third source and the destination. -/
def execFfma (o : Ops) (s : State) : Res :=
  issue .b s do
    let a ← srcA o
    let b ← srcB o
    let c ← srcC o
    lastUse o
    writeResult (dstRid o) 4 (ofLane (Num.ffma (lo32 a) (lo32 b) (lo32 c)))

/-- FCMP (R222). -/
def execFcmp (o : Ops) (s : State) : Res :=
  let n := (bitsR o).1
  issue .b s do
    need9 (decide (o.xi.length = 1) && decide (n < 5))
    let a ← srcA o
    let b ← srcB o
    dstReady (dstN o) (dstW o)
    lastUse o
    writeResult (dstRid o) 2 (ofBool (fcmp n (lo32 a) (lo32 b)))

/-- FCVT (R223). -/
def execFcvt (o : Ops) (s : State) : Res :=
  let n := (bitsR o).1
  alu1 (need9 (decide (o.xi.length = 1) && decide (n / 64 = 0) && decide (n / 4 % 16 < 13)))
    (fun b => (Num.fcvt (n / 4 % 16) (Num.rmOf n) b).getD 0#64) 3 o s

end Sys2Proof.Machine
end

