-- ==== Sys2Proof/Machine/Trust.lean ====
section
/-!
DEFINITION. Trust die, bring-up, power and cooling (R463, R465 to R468, R471, spec/24; R418).
-/

namespace Sys2Proof.Machine

/-! ### Bring-up (R465, R466) -/

/-- The most cycles that step `k` of bring-up takes: the trust die, two edge dies, eight compute dies, then the links. -/
def bringBound (k : Nat) : Nat :=
  if k = 0 then 5000000 else if k ≤ 2 then 50000000 else if k ≤ 10 then 150000000 else 250000000

/-- The next step ends after a free number of cycles within its bound. -/
def bringNext (pkg k : Nat) (s : State) : State :=
  let (x, s) := freeValue s
  post (s.now + x.toNat % (bringBound k + 1)) .powerOn { a := pkg, b := k, flag := true } s

/-- The tiles of a compute die. -/
def dieTiles (pkg die : Nat) : List Nat :=
  (List.range 16).flatMap fun j => (List.range 16).map fun i => pkg * 2048 + (die / 4 * 16 + j) * 64 + die % 4 * 16 + i

/-- Firmware's places in device memory (log 34): the free-frame pools in its last GiB, below them the guard tables, the
backing table, and the page tables, the top level first. -/
def gmBase : Nat := 2 ^ 40 - 2 ^ 30 - 2 ^ 29
def backingBase : Nat := gmBase - 2 ^ 24
def topTable : Nat := backingBase - 8192
def poolFrames (k : Nat) : List Nat := (List.range 4096).map fun i => 2 ^ 24 - 16384 + k * 4096 + i

/-- Step 4 (R465): links trained on the edge dies that passed, route tables empty, the queue open; the periodic events of the
package begin. -/
def bringUp (pkg : Nat) (s : State) : State :=
  let s := modPkg pkg (fun k => { k with
    powered := true, failed := false, fatal := false, halted := false, routes := [], gmTabbase := (List.range 8).map fun d => (d, gmBase + d * 2 ^ 26)
    backBase := backingBase, ptbase := topTable, ptTables := 0, heapTab := Config.heapTabPage pkg % (windowBase / 4096) * 4096 }) s
  let s := (List.range 4).foldl (fun s k =>
    if dieUp s pkg (8 + k / 2) then modSqe (pkg * 4 + k) (fun q => { q with frames := poolFrames k }) s else s) s
  let s := (s.ports.filter fun p => p.1 / 36 == pkg && p.2.peer.isSome && dieUp s pkg (8 + p.1 % 36 / 18)).foldl (fun s p =>
    portWatch p.1 (modPort p.1 (fun x => { x with up := true, width := 8, lanes := 255, retraining := false, lastRx := s.now, lastTx := s.now }) s)) s
  post (s.now + 1500000000000) .lifetimeCounterUpdate { a := pkg } s

/-- POWER_ON (R465, R466): power comes; with `flag` step `b` ends. A die whose digest differs stays in reset; a compute die that
does counts as failed for each of its tiles; a failure of step 1 leaves the whole module in reset. -/
def execPowerOn (s : State) : Res :=
  let pkg := s.ev.a
  let k := s.ev.b
  if (pkgAt s pkg).present = false ∨ (pkgAt s pkg).powered = true then .next s
  else if s.ev.flag = false then .next (bringNext pkg 0 (modPkg pkg (fun q => { q with measures := [] }) s))
  else if 11 ≤ k then .next (bringUp pkg s)
  else
    let ok := Config.trustOk (pkg * 16 + k)
    let s := modPkg pkg (fun q => { q with measures := q.measures ++ [(k, if ok then 1 else 0)] }) s
    if ok then .next (bringNext pkg (k + 1) s)
    else if k = 0 then .next s
    else .next (bringNext pkg (k + 1)
      (if 3 ≤ k then (dieTiles pkg (k - 3)).foldl (fun s t => modTile t (fun x => { x with failed := true }) s) s else s))

/-! ### Power and cooling (R463, R471) -/

/-- The packages that have a way to a package find that it has failed (R454). -/
def tellFatal (pkg : Nat) (s : State) : State :=
  s.pkgs.foldl (fun s q =>
    if q.1 ≠ pkg ∧ q.2.routes.any (fun r => r.1 == pkg) = true then
      post (s.now + crossing s q.1 pkg) .packageFailureDeclare { a := q.1, b := pkg } s
    else s) s

/-- THERMAL_TRIP (R471): the trust die stops every die and reports a fatal error. -/
def execThermalTrip (s : State) : Res :=
  let pkg := s.ev.a
  if (pkgAt s pkg).present = false then .next s
  else .next (tellFatal pkg (modPkg pkg (fun k => { k with halted := true, fatal := true, failed := true }) s))

/-- POWER_LOSS (R463): the part stops; the package's volatile state is gone, and what was counted since the last update of the
lifetime store with it. -/
def execPowerLoss (s : State) : Res :=
  let pkg := s.ev.a
  let k := pkgAt s pkg
  let cut {α : Type} (n : Nat) (t : Tab α) : Tab α := t.filter fun p => p.1 / n != pkg
  if k.present = false then .next s
  else
    let s := { s with
      mem := s.mem.filter fun c => c.1 / 2 ^ 42 != pkg
      olds := s.olds.filter fun c => c.1 / 2 ^ 42 != pkg
      slots := cut 131072 s.slots
      g := cut 8388608 s.g
      k := cut 2097152 s.k
      q := cut 2097152 s.q
      place := cut 16777216 s.place
      file := cut 16777216 s.file
      cores := cut 8192 s.cores
      rt := cut 524288 s.rt
      binds := cut 524288 s.binds
      pairs := cut 65536 s.pairs
      rx := cut 32768 s.rx
      ext := cut 2097152 s.ext
      v := cut 8388608 s.v
      vq := cut 8192 s.vq
      good := cut 524288 s.good
      accs := s.accs.filter fun a => a.2.dpkg != pkg && pkgOfC (cidOf a.2.sid) != pkg
      cmds := s.cmds.filter fun c => pkgOfC (cidOf c.2.sid) != pkg
      hops := s.hops.filter fun h => match tfind s.accs h.1 with
        | some a => pkgOfC (cidOf a.sid) != pkg
        | none => false
      bars := s.bars.filter fun b => match gangAt s (b.1 / 4) with
        | some g => g.pkey / 64 != pkg
        | none => false
      tiles := cut 2048 s.tiles
      acc := cut 134217728 s.acc
      macros := cut 16384 s.macros
      dirty := s.dirty.filter fun p => p.1 * 256 / 2 ^ 42 != pkg
      guards := s.guards.filter fun g => gPkg (word g.1) != pkg
      wbs := s.wbs.filter fun w => pkgOfC w.2.rel.cid != pkg
      cnGrp := cut 524288 s.cnGrp
      cnInst := cut 1048576 s.cnInst
      cnNext := cut 2097152 s.cnNext
      cnWait := cut 4194304 s.cnWait
      cnErr := cut 2048 s.cnErr
      ferGrp := cut 512 s.ferGrp
      ferSlot := s.ferSlot.filter fun p => (if p.1 < 2 ^ 60 then p.1 / 1024 else (p.1 - 2 ^ 60) / 2 ^ 26) != pkg
      fer := cut 2 s.fer
      tduq := cut 2048 s.tduq
      parts := cut 64 s.parts
      saves := s.saves.filter fun p => (match gangAt s p.1 with
        | some g => g.pkey / 64 != pkg
        | none => false)
      gangs := s.gangs.filter fun p => p.2.pkey / 64 != pkg
      groups := cut (2 ^ 40) s.groups
      mtus := cut 8 s.mtus
      own := cut 128 s.own
      sqes := cut 4 s.sqes
      fills := cut (2 ^ 40) s.fills
      ports := s.ports.map fun p => if p.1 / 36 = pkg then (p.1, { peer := p.2.peer }) else p
      pkts := s.pkts.filter fun p => p.2.fk / 2 != pkg
      trcs := cut 32 s.trcs
      trcp := cut 2048 s.trcp
      pkgs := tput s.pkgs pkg { present := true, domain := k.domain, failed := true, life := k.life } }
    .next (tellFatal pkg s)

/-! ### SPDM (R467, R468) -/

/-- An SPDM answer, under the request's code as tag: the trust die's bytes, which the spec does not give (log 10); before step 4
of bring-up the error ResponseNotReady. -/
def spdmAnswer (pkg code : Nat) (extra : List Byte) (s : State) : Res :=
  .next (if (pkgAt s pkg).powered then toHost pkg code (extra ++ Config.trustBytes pkg code) s
    else toHost pkg (2 ^ 34 + code) [] s)

/-- GET_VERSION (R467). -/
def execGetVersion (s : State) : Res := spdmAnswer s.ev.a 0x84 [] s
/-- GET_CAPABILITIES (R467). -/
def execGetCapabilities (s : State) : Res := spdmAnswer s.ev.a 0xE1 [] s
/-- NEGOTIATE_ALGORITHMS (R467). -/
def execNegotiateAlgorithms (s : State) : Res := spdmAnswer s.ev.a 0xE3 [] s
/-- GET_DIGESTS (R467). -/
def execGetDigests (s : State) : Res := spdmAnswer s.ev.a 0x81 [] s
/-- GET_CERTIFICATE (R467, R468): bytes `b` to `b + c - 1` of slot 0's chain. -/
def execGetCertificate (s : State) : Res :=
  let bs := ((Config.trustBytes s.ev.a 0x82).drop s.ev.b).take s.ev.c
  .next (if (pkgAt s s.ev.a).powered then toHost s.ev.a 0x82 bs s else toHost s.ev.a (2 ^ 34 + 0x82) [] s)
/-- CHALLENGE (R467): the answer depends on the nonce `b`. -/
def execChallenge (s : State) : Res := spdmAnswer s.ev.a (0x83 + 256 * s.ev.b) [] s
/-- GET_MEASUREMENTS (R466, R467): entry `b` of the measurement log: its die index, its pass bit, then its digest. -/
def execGetMeasurements (s : State) : Res :=
  let e := ((pkgAt s s.ev.a).measures[s.ev.b]?).getD (255, 0)
  spdmAnswer s.ev.a (0xE0 + 256 * s.ev.b) (natBytes 1 e.1 ++ natBytes 1 e.2) s

/-! ### SSD ports (R418, R424) -/

/-- SSD_PORT_LINK_CHANGE (R418, R424): a port that goes down fails its fills at once with reason 3; a failed edge die has no ports
(R465). -/
def execSsdPortLinkChange (s : State) : Res :=
  let pkg := s.ev.a
  let port := s.ev.b
  let k := pkg * 4 + port / 4
  let bit := 2 ^ (port % 4)
  if s.ev.flag then .next (if dieUp s pkg (8 + port / 8) then modSqe k (fun q => { q with link := q.link ||| bit }) s else s)
  else
    let s := modSqe k (fun q => { q with link := q.link &&& (15 - bit) }) s
    .next (s.fills.foldl (fun s f =>
      let page := f.1 % 2 ^ 40
      if f.1 / 2 ^ 40 = pkg ∧ wfield (backingOf s pkg (leafOf s pkg (page * 65536))).2 32 4 = port then
        post s.now .sqeFillFail { a := pkg, b := page, c := 3 } s
      else s) s)

end Sys2Proof.Machine
end

