-- ==== Sys2Proof/Machine/Vector.lean ====
section
/-!
DEFINITION. The vector unit (R44, R45, spec/02; R282 to R307, spec/12): the push of an instruction into its core's queue, the
lane groups' deficit round-robin, the lane results, and the lane accesses.
-/

namespace Sys2Proof.Machine

/-! ### Lane results (R289 to R302) -/

/-- The lanes of a v register. -/
def vread (s : State) (cid r : Nat) : List Lane := (List.range 32).map fun i => getLane s cid r i

def lanes2 (f : Lane → Lane → Lane) (a b : List Lane) : List Lane := (a.zip b).map fun p => f p.1 p.2
def lanes3 (f : Lane → Lane → Lane → Lane) (a b c : List Lane) : List Lane := ((a.zip b).zip c).map fun p => f p.1.1 p.1.2 p.2

/-- A lane with its sign cleared or flipped; a NaN is made canonical. -/
def vabs (x : Lane) : Lane := if Num.isNan x then Num.nan32 else x &&& 0x7FFFFFFF#32
def vneg (x : Lane) : Lane := if Num.isNan x then Num.nan32 else x ^^^ 0x80000000#32

/-- The conditions of VCMP (R291). -/
def vcmp (code : Nat) (a b : Lane) : Lane :=
  let t := match code with
    | 8 => a == b
    | 9 => a.slt b
    | 10 => a.ult b
    | 11 => a != b
    | _ => fcmp code a b
  if t then 0xFFFFFFFF#32 else 0#32

/-- A conversion of VCVT on a lane (R293). -/
def vcvt (n : Nat) (b : Lane) : Lane :=
  let rm := Num.rmOf (n % 4)
  match nfield n 2 4 with
  | 0 => BitVec.ofInt 32 (Num.toIntSat rm (-(2 ^ 31)) (2 ^ 31 - 1) (Num.dec32 b))
  | 1 => Num.enc32m rm (Num.ofInt b.toInt 0)
  | 2 => BitVec.ofInt 32 (Num.toIntSat rm 0 (2 ^ 32 - 1) (Num.dec32 b))
  | 3 => Num.enc32m rm (Num.ofInt (b.toNat : Int) 0)
  | c => ((Num.fcvt c rm (b.zeroExtend 64)).getD 0#64).truncate 32

/-- One level of the tree of R76: neighbouring sums. -/
def pairSums : List Lane → List Lane
  | a :: b :: r => Num.fadd a b :: pairSums r
  | r => r

/-- The result of VRED (R295, R75, R76). -/
def vred (code : Nat) (b : List Lane) : Lane :=
  let fold (f : Lane → Lane → Lane) (l : List Lane) : Lane := l.tail.foldl f (l.headD 0#32)
  match code with
  | 0 => (pairSums (pairSums (pairSums (pairSums (pairSums b))))).headD 0#32
  | 1 => fold Num.fmax b
  | 2 => fold Num.fmin b
  | 3 => fold Num.fmax (b.map vabs)
  | 4 => fold Num.fmaxn b
  | _ => b.foldl (· + ·) 0#32

/-- The lanes of VSCAN (R296), from an accumulator. -/
def vscanFrom (f : Lane → Lane → Lane) (t : Lane) : List Lane → List Lane
  | [] => []
  | x :: xs => f t x :: vscanFrom f (f t x) xs

def vscan (code : Nat) (b : List Lane) : List Lane :=
  let from0 (f : Lane → Lane → Lane) : List Lane :=
    match b with
    | [] => []
    | x :: xs => x :: vscanFrom f x xs
  match code with
  | 0 => vscanFrom (· + ·) 0#32 b
  | 1 => 0#32 :: (vscanFrom (· + ·) 0#32 b).take 31
  | 2 => (from0 Num.fadd).map fun x => if Num.isNan x then Num.nan32 else x
  | _ => (from0 fun t x => if Num.isNan x || Num.isNan t then Num.nan32 else Num.fmax t x).map fun x => if Num.isNan x then Num.nan32 else x

/-- Lane `i` ranks before lane `j` (R185). -/
def ranksBefore (b : List Lane) (i j : Nat) : Bool :=
  let x := b.getD i 0#32
  let y := b.getD j 0#32
  if Num.isNan x then Num.isNan y && decide (i < j)
  else if Num.isNan y then true
  else decide (Num.keyz x > Num.keyz y) || (Num.keyz x == Num.keyz y && decide (i < j))

/-- The lanes of VTOPK (R301): lane j holds the lane whose rank is j. -/
def vtopk (k : Nat) (b : List Lane) : List Lane :=
  (List.range 32).map fun j =>
    if j < k then
      match (List.range 32).find? fun i => ((List.range 32).filter fun x => x != i && ranksBefore b x i).length == j with
      | some i => BitVec.ofNat 32 i
      | none => 0xFFFFFFFF#32
    else 0xFFFFFFFF#32

/-- The scale that an encoder would choose for a block (R302): the first byte of its encoding. -/
def vbscale (type : Nat) (b : List Lane) : List Lane :=
  let first (bs : List Byte) : Lane := (bs.headD 0#8).zeroExtend 32
  match type with
  | 0 => List.replicate 32 (first (Num.mxEncode .rne 9 b))
  | 1 => List.replicate 32 (first (Num.mxEncode .rne 10 b))
  | 2 => List.replicate 32 (first (Num.mxEncode .rne 11 b))
  | _ => List.replicate 16 (first (Num.lgEncode (b.take 16))) ++ List.replicate 16 (first (Num.lgEncode (b.drop 16)))

/-- The 32 lanes of a compute instruction, from its registers as they stand. -/
def vecLanes (s : State) (cid : Nat) (e : VEnt) : List Lane :=
  let a := vread s cid e.va
  let b := vread s cid e.vb
  let c := vread s cid e.vc
  let g : Lane := e.scalar.truncate 32
  if e.page = 5 then (if e.op = 7 then vtopk e.imm b else vbscale e.imm b)
  else
    match e.op with
    | 0 => lanes2 Num.fadd a b
    | 1 => lanes2 Num.fsub a b
    | 2 => lanes2 Num.fmul a b
    | 3 => lanes3 Num.ffma a b c
    | 4 => lanes2 Num.fmin a b
    | 5 => lanes2 Num.fmax a b
    | 6 => b.map vabs
    | 7 => b.map vneg
    | 8 => lanes2 (vcmp e.imm) a b
    | 9 => lanes3 (fun x y m => if m != 0#32 then x else y) a b c
    | 10 => lanes2 (· &&& ·) a b
    | 11 => lanes2 (· ||| ·) a b
    | 12 => lanes2 (· ^^^ ·) a b
    | 13 => lanes2 (fun x y => x <<< (y.toNat % 32)) a b
    | 14 => lanes2 (fun x y => if e.imm = 1 then x.sshiftRight (y.toNat % 32) else x >>> (y.toNat % 32)) a b
    | 15 => lanes2 (· + ·) a b
    | 16 => lanes2 (· - ·) a b
    | 17 => lanes2 (· * ·) a b
    | 18 => b.map Num.frcp
    | 19 => b.map Num.frsq
    | 20 => b.map Num.fexp2
    | 21 => b.map Num.flog2v
    | 22 => List.replicate 32 (vred e.imm b)
    | 23 => vscan e.imm b
    | 24 => b.map fun i => a.getD (i.toNat % 32) 0#32
    | 25 => List.replicate 32 (if e.nxi = 0 then g else b.getD e.imm 0#32)
    | 27 => a.set e.imm g
    | 28 => (List.range 32).map fun i => g + BitVec.ofNat 32 i
    | 29 => b.map (vcvt e.imm)
    | _ => b

/-- The latency of a compute instruction (R289 to R302). -/
def vecLatency (e : VEnt) : Nat :=
  if e.page = 5 then (if e.op = 7 then 10 else 6)
  else
    match e.op with
    | 0 => 4
    | 1 => 4
    | 2 => 4
    | 3 => 4
    | 17 => 3
    | 18 => 8
    | 19 => 8
    | 20 => 10
    | 21 => 10
    | 22 => if e.imm = 0 then 12 else 8
    | 23 => if e.imm = 2 then 34 else 6
    | 24 => 3
    | 26 => 3
    | 29 => 3
    | _ => 2

/-- All four quarters issue in one cycle (R44, R302, R304). -/
def allGroups (e : VEnt) : Bool :=
  if e.page = 5 then e.op == 7 || e.op == 8 || (e.op == 1 && decide (1 < (vUnit e.fmt).1) && e.fmt != 7)
  else e.op == 22 || e.op == 23 || e.op == 24 || e.op == 25 || e.op == 26

/-- The instruction is a vector load or store, or a store. -/
def vecMem (e : VEnt) : Bool := e.page == 5 && decide (e.op ≤ 6)
def vecStore (e : VEnt) : Bool := e.page == 5 && (e.op == 1 || e.op == 3 || e.op == 4 || e.op == 6)

/-! ### Lane accesses (R284, R304 to R306) -/

/-- The bytes that quarters `lo` to `hi` store, by address, a higher lane's after a lower's. -/
def vecBytes (s : State) (cid : Nat) (e : VEnt) (lo hi : Nat) : List Host.Cell :=
  let data := vread s cid (e.reads.headD 0)
  let code := if e.fmt = 0 then 1 else e.fmt
  let place (a : Nat) (bs : List Byte) : List Host.Cell := (bs.zip (List.range bs.length)).map fun p => (a + p.2, p.1)
  if e.lanes.isEmpty then
    let (ue, ub) := vUnit e.fmt
    let (e0, a, n) := vSpan e lo hi
    place a ((Num.unitsBytes .rne code ue (n / ub) (data.drop e0)).take n)
  else
    let mask := vread s cid (e.reads.getD 1 0)
    (List.range (8 * (hi - lo + 1))).flatMap fun j =>
      let i := 8 * lo + j
      if e.op = 4 ∧ mask.getD i 0#32 = 0#32 then []
      else place (e.lanes.getD i 0) ((Num.unitBytes .rne code [data.getD i 0#32]).take e.z)

/-- The addresses that those quarters touch. -/
def vecAddrs (s : State) (cid : Nat) (e : VEnt) (lo hi : Nat) : List Nat :=
  if vecStore e then (vecBytes s cid e lo hi).map (·.1)
  else if e.lanes.isEmpty then let (_, a, n) := vSpan e lo hi; (List.range n).map (a + ·)
  else ((e.lanes.drop (8 * lo)).take (8 * (hi - lo + 1))).flatMap fun a => (List.range e.z).map (a + ·)

/-- The line of an address: 128 bytes of device memory, 32 of a scratchpad. -/
def vLine (a : Nat) : Nat := if inWindow a then a / 32 * 32 else a / 128 * 128

/-- A number put into its place in an ascending list; a list put in ascending order. -/
def insAsc (x : Nat) : List Nat → List Nat
  | [] => [x]
  | y :: r => if x ≤ y then x :: y :: r else y :: insAsc x r
def ascending (l : List Nat) : List Nat := l.foldr insAsc []

/-- A list without repeats. -/
def dedup : List Nat → List Nat
  | [] => []
  | x :: xs => if xs.contains x then dedup xs else x :: dedup xs

/-- The accesses of quarters, one for each line, in ascending order of line: the first address, the bytes up to the last,
and what a store writes, by offset. -/
def vecPlan (s : State) (cid : Nat) (e : VEnt) (lo hi : Nat) : List (Nat × Nat × List Host.Cell) :=
  let as := dedup (vecAddrs s cid e lo hi)
  let bytes := if vecStore e then vecBytes s cid e lo hi else []
  let lines := ascending (dedup (as.map vLine))
  lines.map fun l =>
    let mine := as.filter fun a => vLine a == l
    let a0 := mine.foldl min (mine.headD 0)
    let a1 := mine.foldl max 0
    (a0, a1 - a0 + 1, (bytes.filter fun c => vLine c.1 == l).map fun c => (c.1 - a0, c.2))

/-- The locations that a quarter may touch, as ranges. -/
def vecRanges (e : VEnt) (q : Nat) : List (Nat × Nat) :=
  if e.lanes.isEmpty then let (_, a, n) := vSpan e q q; [(a, n)]
  else ((e.lanes.drop (8 * q)).take 8).map fun a => (a, e.z)

def rangesMeet (a b : List (Nat × Nat)) : Bool :=
  a.any fun x => b.any fun y => decide (x.1 < y.1 + y.2) && decide (y.1 < x.1 + x.2)

/-- What a lane group has chosen in this cycle: the core and instruction, and its deficits and pointer if it serves. -/
structure GroupChoice where
  core : Nat
  ent : VEnt
  deficit : List Nat
  ptr : Nat

/-- A lower lane group has chosen the quarter in this cycle, and issues it before this one. -/
def chosen (prev : List (Option GroupChoice)) (vid k : Nat) : Bool :=
  match prev.getD k none with
  | some x => x.ent.vid == vid && !allGroups x.ent
  | none => false

/-- A quarter to a location that an earlier instruction, or a lower quarter of its own lanes, has still to go to waits, so
that the instructions take effect in queue order (R283, R284). -/
def vecOlder (q : List VEnt) (e : VEnt) (qs : List Nat) (prev : List (Option GroupChoice)) : Bool :=
  q.any fun x =>
    vecMem x && (decide (x.vid < e.vid) || (x.vid == e.vid && !e.lanes.isEmpty))
    && (List.range 4).any fun k =>
      !x.issued.contains k && !chosen prev x.vid k && (x.vid != e.vid || qs.all fun g => decide (k < g))
      && qs.any fun g => rangesMeet (vecRanges x k) (vecRanges e g)

/-- The quarter's requests fit the core's limits beside those that lower lane groups issue in this cycle (R306, R236, R396):
the banks of its own requests outside its tile, those of the others, and how many of the others are stores. -/
def vecRoom (s : State) (cid : Nat) (store : Bool) (mine others : List Nat) (stores : Nat) : Bool :=
  mine.isEmpty ||
  (decide (slotsUsed s cid + mine.length + others.length ≤ 16)
  && (mine.all fun b => decide (bankUsed s cid b + ((mine ++ others).filter (· == b)).length ≤ 12))
  && (!store || decide (remoteUsed s cid + mine.length + stores ≤ 32)))

/-- The banks of the requests of quarters, those in the own scratchpad left out. -/
def vecBanks (s : State) (cid : Nat) (e : VEnt) (lo hi : Nat) : List Nat :=
  let own := tidOfC cid
  (vecPlan s cid e lo hi).filterMap fun p =>
    let r := routeOf own p.1
    if r.dev || r.tid != own then some r.bank else none

/-- Sends the accesses of quarters; all of them answer to quarter `lo`. -/
def vecSend (cid : Nat) (e : VEnt) (lo hi : Nat) (s : State) : State :=
  let conv := e.fmt != 0
  let own := tidOfC cid
  (vecPlan s cid e lo hi).foldl (fun s p =>
    let a := accOf s e.sid p.1 p.2.1 (if vecStore e then .store else .load) false conv
    let x := vecStore e && (match tileOfVa own p.1 with
      | some t => isXchg s e.sid t
      | none => false)
    let s := if x then xchgIssued e.sid s else s
    (sendAcc { a with
      gen := e.gen, ipc := e.ipc, order := e.order, cells := p.2.2, xchg := x, ret := .lane e.vid lo e.fmt
      tvalue := word p.1 } s).2) s

/-! ### The queue and the lane groups (R44, R45, R283) -/

/-- A lane access of an instruction is parked on a long fault (R287). -/
def vidParked (s : State) (cid vid : Nat) : Bool :=
  s.accs.any fun p => match p.2.ret with
    | .lane v _ _ => cidOf p.2.sid == cid && v == vid && p.2.parked
    | _ => false

/-- The entries that take a place of the queue: those from the first that is not wholly issued, or that a parked access holds (R44,
R287). -/
def vqHeld (s : State) (cid : Nat) : List VEnt :=
  (tget s.vq cid []).dropWhile fun e => e.issued.length == 4 && !vidParked s cid e.vid

/-- VSHARE, which has no quarters (R307). -/
def isShare (e : VEnt) : Bool := e.page == 5 && e.op == 12

/-- An earlier instruction of the core's queue has a lane access parked on a long fault (R287). -/
def heldBehind (s : State) (cid vid : Nat) : Bool :=
  s.accs.any fun p => match p.2.ret with
    | .lane v _ _ => cidOf p.2.sid == cid && decide (v < vid) && p.2.parked
    | _ => false

/-- The core's oldest unissued quarter for a group: none is offered behind an earlier instruction's parked access (R287). -/
def vqHead (s : State) (cid g : Nat) : Option VEnt :=
  match (tget s.vq cid []).find? fun e => !e.issued.contains g && !isShare e with
  | none => none
  | some e => if heldBehind s cid e.vid then none else some e

/-- The quarter may issue: pushed in an earlier cycle, its lanes written, its accesses admitted. -/
def vqReady (s : State) (tid c g : Nat) (e : VEnt) (prev : List (Option GroupChoice)) : Bool :=
  let cid := tid * 4 + c
  let q := tget s.vq cid []
  let qs := if allGroups e then [0, 1, 2, 3] else [g]
  let beside := (prev.zip (List.range 4)).filterMap fun p =>
    match p.1 with
    | some x => if x.core == c && vecMem x.ent && !allGroups x.ent then some (vecStore x.ent, vecBanks s cid x.ent p.2 p.2) else none
    | none => none
  decide (e.pushed < s.now)
  && (e.reads.all fun r => q.all fun x =>
      decide (e.vid ≤ x.vid) || x.dst != r || qs.all fun k => x.done.contains k)
  && (!vecMem e || (!vecOlder q e qs prev
    && vecRoom s cid (vecStore e) (vecBanks s cid e (qs.headD 0) (qs.getLastD 0)) (beside.flatMap (·.2))
        ((beside.filter (·.1)).flatMap (·.2)).length))

/-- The choice of one lane group after those of the lower ones (R45). -/
def groupChoice (s : State) (tid g : Nat) (prev : List (Option GroupChoice)) : Option GroupChoice :=
  let t := tileAt s tid
  let cand := (List.range 4).filterMap fun c =>
    match vqHead s (tid * 4 + c) g with
    | some e => if vqReady s tid c g e prev then some (c, e) else none
    | none => none
  if cand.isEmpty then none
  else
    let d0 := (List.range 4).map fun c => (t.deficit.getD c []).getD g 0
    let has (d : List Nat) (c : Nat) : Bool := decide (1 ≤ d.getD c 0)
    let d := if cand.any fun p => has d0 p.1 then d0
      else (List.range 4).map fun c => d0.getD c 0 + (if cand.any fun p => p.1 == c then (coreAt s (tid * 4 + c)).weight else 0)
    let p0 := t.ptr.getD g 0
    match ((List.range 4).map fun k => (p0 + k) % 4).find? fun c => (cand.any fun p => p.1 == c) && has d c with
    | none => none
    | some c =>
      match cand.find? fun p => p.1 == c with
      | none => none
      | some (_, e) =>
        let d' := d.set c (d.getD c 0 - 1)
        let more := (tget s.vq (tid * 4 + c) []).any fun x => x.vid != e.vid && !x.issued.contains g && !isShare x
        some { core := c, ent := e, deficit := d', ptr := if d'.getD c 0 = 0 || !more then (c + 1) % 4 else p0 }

/-- Issues quarters of an instruction. -/
def vecIssue (cid : Nat) (e : VEnt) (qs : List Nat) (s : State) : State :=
  let mark (f : VEnt → VEnt) (s : State) : State := modVEnt cid e.vid f s
  let s := mark (fun x => { x with issued := x.issued ++ qs }) s
  if vecMem e then
    let s := vecSend cid e (qs.headD 0) (qs.getLastD 0) s
    if vecStore e then mark (fun x => { x with done := x.done ++ qs }) s else s
  else if e.page = 4 ∧ e.op = 26 then
    let x := (vread s cid e.vb).getD (e.imm % 32) 0#32
    let w : Word := if nbit e.imm 5 then x.signExtend 64 else x.zeroExtend 64
    let s := mark (fun x => { x with done := x.done ++ qs }) s
    if e.gdst = 0 then s
    else post (s.now + 3) .resultWriteback { a := e.sid, b := e.gen, c := e.gdst, w := w } s
  else
    let out := vecLanes s cid e
    qs.foldl (fun s k => post (s.now + vecLatency e) .vectorResult
      { a := cid, b := e.vid, c := k, p := .words (((out.drop (8 * k)).take 8).map fun x => x.zeroExtend 64) } s) s

/-- VSHARE at the head of the queue takes effect (R307). -/
def vshareHead (cid : Nat) (s : State) : State :=
  match (vqHeld s cid).head? with
  | some e =>
    if isShare e = true ∧ e.pushed < s.now then
      post s.now .vshareApply { a := cid, b := e.imm }
        (modVEnt cid e.vid (fun x => { x with issued := [0, 1, 2, 3], done := [0, 1, 2, 3] }) s)
    else s
  | none => s

/-- A tick of a tile's lane groups is on the agenda. -/
def vecArmed (s : State) (tid : Nat) : Bool := s.agenda.any fun e => e.2.1 == .vectorQuarterIssue && e.2.2.a == tid
/-- Arms the next. -/
def vecArm (tid : Nat) (s : State) : State :=
  if vecArmed s tid then s else post (s.now + 1) .vectorQuarterIssue { a := tid } s

/-- VECTOR_QUARTER_ISSUE (R45): one cycle of the four lane groups of a tile. A group that chose an all-groups instruction
which some other group did not choose serves nothing and stands as it stood. -/
def execVectorQuarterIssue (s : State) : Res :=
  let tid := s.ev.a
  let cores := (List.range 4).map (tid * 4 + ·)
  let s := cores.foldl (fun s c => vshareHead c s) s
  let ch := (List.range 4).foldl (fun l g => l ++ [groupChoice s tid g l]) []
  let together (x : GroupChoice) : Bool := ch.all fun y => match y with
    | some y => y.core == x.core && y.ent.vid == x.ent.vid
    | none => false
  let s := (List.range 4).foldl (fun s g =>
    match (ch.getD g none) with
    | none => s
    | some x =>
      let cid := tid * 4 + x.core
      if allGroups x.ent && !together x then s
      else
        let s := modTile tid (fun t => { t with
          ptr := t.ptr.set g x.ptr
          deficit := (List.range 4).map fun c => (t.deficit.getD c []).set g (x.deficit.getD c 0) }) s
        if allGroups x.ent then (if g = 0 then vecIssue cid x.ent [0, 1, 2, 3] s else s)
        else vecIssue cid x.ent [g] s) s
  let s := cores.foldl (fun s c => { s with vq := tput s.vq c (vTrim (tget s.vq c [])) }) s
  let s := modTile tid (fun t => { t with
    deficit := (List.range 4).map fun c => if (vqHeld s (tid * 4 + c)).isEmpty then [0, 0, 0, 0] else t.deficit.getD c [] }) s
  .next (if cores.any fun c => !(vqHeld s c).isEmpty then vecArm tid s else s)

/-- VECTOR_RESULT (R289): a quarter's lanes are written. -/
def execVectorResult (s : State) : Res :=
  match s.ev.p with
  | .words l => .next (vWrite s.ev.a s.ev.b s.ev.c (l.map fun x => x.truncate 32) s)
  | _ => .next s

/-- VSHARE_APPLY (R307). -/
def execVshareApply (s : State) : Res := .next (modCore s.ev.a (fun c => { c with weight := s.ev.b }) s)

/-! ### Pushing (R282) -/

/-- An access of a vector lane. -/
def isLane (a : Acc) : Bool :=
  match a.ret with
  | .lane _ _ _ => true
  | _ => false

/-- Pushes an instruction: it waits while the queue is full (R44). -/
def pushVec (e : VEnt) : M Unit := do
  let s ← askM id
  let sid := s.cur.sid
  let cid := cidOf sid
  waitOnUnless isLane (decide ((vqHeld s cid).length < 16))
  updM fun s =>
    let (vid, s) := freshId s
    let e := { e with
      vid := vid, sid := sid, gen := (slotAt s sid).gen, ipc := s.cur.ipc, order := (slotAt s sid).issued, pushed := s.now }
    let s := if e.gdst = 0 then s else addBusy sid e.gdst s
    vecArm (tidOfC cid) { s with vq := tput s.vq cid (tget s.vq cid [] ++ [e]) }

/-- An entry before its push. -/
def vent (page op : Nat) (o : Ops) : VEnt :=
  { vid := 0, page := page, op := op, sid := 0, gen := 0, ipc := 0, order := 0
    va := o.a.toNat % 32, vb := o.b.toNat % 32, vc := o.c.toNat % 32, imm := (bitsR o).1, nxi := o.xi.length
    dst := dstN o % 32 }

/-- A two-source lane-wise instruction. -/
def vTwo (op : Nat) (ok : Bool) (o : Ops) (s : State) : Res :=
  issue .x s do
    need9 ok
    pushVec { vent 4 op o with reads := [o.a.toNat % 32, o.b.toNat % 32] }

/-- A one-source instruction. -/
def vOne (page op : Nat) (ok : Bool) (o : Ops) (s : State) : Res :=
  issue .x s do
    need9 ok
    pushVec { vent page op o with reads := [o.b.toNat % 32] }

/-- VADD (R289). -/
def execVadd (o : Ops) (s : State) : Res := vTwo 0 true o s
/-- VSUB (R289). -/
def execVsub (o : Ops) (s : State) : Res := vTwo 1 true o s
/-- VMUL (R289). -/
def execVmul (o : Ops) (s : State) : Res := vTwo 2 true o s
/-- VFMA (R290). -/
def execVfma (o : Ops) (s : State) : Res :=
  issue .x s do
    pushVec { vent 4 3 o with reads := [o.a.toNat % 32, o.b.toNat % 32, o.c.toNat % 32] }
/-- VMIN (R289). -/
def execVmin (o : Ops) (s : State) : Res := vTwo 4 true o s
/-- VMAX (R289). -/
def execVmax (o : Ops) (s : State) : Res := vTwo 5 true o s
/-- VABS (R289). -/
def execVabs (o : Ops) (s : State) : Res := vOne 4 6 true o s
/-- VNEG (R289). -/
def execVneg (o : Ops) (s : State) : Res := vOne 4 7 true o s
/-- VCMP (R291). -/
def execVcmp (o : Ops) (s : State) : Res :=
  let n := (bitsR o).1
  vTwo 8 (decide (o.xi.length = 1) && (decide (n ≤ 4) || (decide (8 ≤ n) && decide (n ≤ 11)))) o s
/-- VSEL (R290). -/
def execVsel (o : Ops) (s : State) : Res :=
  issue .x s do
    pushVec { vent 4 9 o with reads := [o.a.toNat % 32, o.b.toNat % 32, o.c.toNat % 32] }
/-- VAND (R289). -/
def execVand (o : Ops) (s : State) : Res := vTwo 10 true o s
/-- VOR (R289). -/
def execVor (o : Ops) (s : State) : Res := vTwo 11 true o s
/-- VXOR (R289). -/
def execVxor (o : Ops) (s : State) : Res := vTwo 12 true o s
/-- VSHL (R289). -/
def execVshl (o : Ops) (s : State) : Res := vTwo 13 true o s
/-- VSHR (R289). -/
def execVshr (o : Ops) (s : State) : Res := vTwo 14 (decide (o.xi.length ≤ 1) && decide ((bitsR o).1 < 2)) o s
/-- VIADD (R289). -/
def execViadd (o : Ops) (s : State) : Res := vTwo 15 true o s
/-- VISUB (R289). -/
def execVisub (o : Ops) (s : State) : Res := vTwo 16 true o s
/-- VIMUL (R289). -/
def execVimul (o : Ops) (s : State) : Res := vTwo 17 true o s
/-- VRCP (R292). -/
def execVrcp (o : Ops) (s : State) : Res := vOne 4 18 true o s
/-- VRSQ (R292). -/
def execVrsq (o : Ops) (s : State) : Res := vOne 4 19 true o s
/-- VEXP2 (R292). -/
def execVexp2 (o : Ops) (s : State) : Res := vOne 4 20 true o s
/-- VLOG2 (R292). -/
def execVlog2 (o : Ops) (s : State) : Res := vOne 4 21 true o s
/-- VRED (R295). -/
def execVred (o : Ops) (s : State) : Res := vOne 4 22 (decide (o.xi.length = 1) && decide ((bitsR o).1 < 6)) o s
/-- VSCAN (R296). -/
def execVscan (o : Ops) (s : State) : Res := vOne 4 23 (decide (o.xi.length = 1) && decide ((bitsR o).1 < 4)) o s
/-- VPERM (R297). -/
def execVperm (o : Ops) (s : State) : Res := vTwo 24 true o s

/-- VBCAST (R298). -/
def execVbcast (o : Ops) (s : State) : Res :=
  issue .x s do
    oneXi o
    need9 (decide ((bitsR o).1 < 32))
    if o.xi.isEmpty then do
      let x ← srcB o
      lastUseB o
      pushVec { vent 4 25 o with scalar := x }
    else if 48 ≤ o.b.toNat then illegal 7
    else if 32 ≤ o.b.toNat then trapM 0x0E (word (o.b.toNat - 32))
    else pushVec { vent 4 25 o with reads := [o.b.toNat % 32] }

/-- VEXT (R299). -/
def execVext (o : Ops) (s : State) : Res :=
  issue .x s do
    need9 (decide (o.xi.length = 1) && decide ((bitsR o).1 < 64))
    dstReady (dstN o) (dstW o)
    pushVec { vent 4 26 o with dst := 32, gdst := dstRid o % 128, reads := [o.b.toNat % 32] }

/-- VINS (R300). -/
def execVins (o : Ops) (s : State) : Res :=
  issue .x s do
    need9 (decide (o.xi.length = 1) && decide ((bitsR o).1 < 32))
    let x ← srcB o
    lastUseB o
    pushVec { vent 4 27 o with scalar := x, reads := [o.a.toNat % 32] }

/-- VIOTA (R294). -/
def execViota (o : Ops) (s : State) : Res :=
  issue .x s do
    oneXi o
    pushVec { vent 4 28 o with scalar := wordI (immR o) }

/-- VCVT (R293, R223). -/
def execVcvt (o : Ops) (s : State) : Res :=
  vOne 4 29 (decide (o.xi.length = 1) && decide ((bitsR o).1 < 64) && decide (nfield (bitsR o).1 2 4 ≤ 12)) o s
/-- VMOV (R289). -/
def execVmov (o : Ops) (s : State) : Res := vOne 4 30 true o s
/-- VTOPK (R301). -/
def execVtopk (o : Ops) (s : State) : Res :=
  vOne 5 7 (decide (o.xi.length = 1) && decide (1 ≤ (bitsR o).1) && decide ((bitsR o).1 ≤ 8)) o s
/-- VBSCALE (R302). -/
def execVbscale (o : Ops) (s : State) : Res := vOne 5 8 (decide (o.xi.length = 1) && decide ((bitsR o).1 < 4)) o s

/-- VSHARE (R307). -/
def execVshare (o : Ops) (s : State) : Res :=
  let w := o.lo.toNat % 64
  issue .x s do
    need9 (!o.exr && o.exq.isNone && o.xi.isEmpty && decide (1 ≤ w) && decide (w ≤ 15))
    if o.a.toNat ≠ 0 then illegal 7
    pushVec { vent 5 12 o with imm := w, dst := 32 }

/-! ### Vector loads and stores (R303 to R305) -/

/-- A contiguous access: the whole span is checked as one. -/
def vSpanOp (store : Bool) (o : Ops) (s : State) : Res :=
  issue .x s do
    let p ← srcB o
    let r ← fmtM p
    let f := wfield p 60 4
    let ea ← effAddr p (immR o)
    if r.ue = 1 then alignM ea r.ub
    let n := if f = 0 then 128 else 32 / r.ue * r.ub
    let _ ← rangeM ea n (!store) store
    if store then stepM ea
    lastUseB o
    let e := vent 5 (if store then 1 else 0) o
    pushVec { e with
      fmt := f, addr := ea, dst := if store then 32 else e.dst, reads := if store then [o.a.toNat % 32] else [] }

/-- VLD (R304). -/
def execVld (o : Ops) (s : State) : Res := vSpanOp false o s
/-- VST (R304). -/
def execVst (o : Ops) (s : State) : Res :=
  if o.exr && o.c.toNat ≠ 0 then issue .x s (illegal 7) else vSpanOp true o s

/-- The format of a lane-by-lane access, its element's bytes (R305). -/
def laneFmtM (p : Word) : M (Nat × Nat) := do
  let r ← fmtM p
  let f := wfield p 60 4
  if r.ue ≠ 1 then trapM 0x0C p
  else pure (f, if f = 0 then 4 else r.ub)

/-- One lane's address and its checks, in the order of R305; TVAL2 is the lane. -/
def laneM (p : Word) (off : Int) (z i : Nat) (store : Bool) : M Nat := do
  let v : Int := (wfield p 0 56 : Nat) + off
  if v < 0 ∨ v ≥ (vaTop : Nat) then trapM 0x0D p (word i)
  else if v.toNat % z ≠ 0 then trapM 5 (word v.toNat) (word i)
  else do
    let s ← askM id
    let sid := s.cur.sid
    match rangeCheck s (cidOf sid) (slotAt s sid).team (userMode s sid) v.toNat z (!store) store with
    | .error (c, tv) => trapM c (word tv) (word i)
    | .ok _ =>
      match (if store then tileOfVa (tidOfC (cidOf sid)) v.toNat else none) with
      | some t => if stepRefuses s sid t then trapM 7 (word v.toNat) (word i) else pure v.toNat
      | none => pure v.toNat

/-- The lanes' addresses in ascending lane order. -/
def lanesM (p : Word) (z : Nat) (store : Bool) : List Int → Nat → M (List Nat)
  | [], _ => pure []
  | off :: r, i => do
    let a ← laneM p off z i store
    let l ← lanesM p z store r (i + 1)
    pure (a :: l)

/-- A strided or indexed access. -/
def vLanesOp (op : Nat) (store indexed : Bool) (o : Ops) (s : State) : Res :=
  issue .x s do
    let p ← srcB o
    let st ← if indexed then pure 0#64 else srcA o
    let s ← askM id
    let cid := cidOf s.cur.sid
    let vi := o.a.toNat % 32
    if indexed then waitOnUnless isLane ((tget s.vq cid []).all fun e => e.dst != vi || e.done.length == 4)
    let (f, z) ← laneFmtM p
    let e := immR o
    let offs : List Int := (List.range 32).map fun (i : Nat) =>
      e + (if indexed then (getLane s cid vi i).toInt * z else (i : Int) * st.toInt)
    let lanes ← lanesM p z store offs 0
    if indexed then lastUseB o else lastUse o
    pushVec { vent 5 op o with
      fmt := f, z := z, lanes := lanes, dst := if store then 32 else o.c.toNat % 32
      reads := if store then [o.c.toNat % 32] else [] }

/-- VLDX (R305). -/
def execVldx (o : Ops) (s : State) : Res := vLanesOp 2 false true o s
/-- VSTX (R305). -/
def execVstx (o : Ops) (s : State) : Res := vLanesOp 3 true true o s
/-- VLDS (R305). -/
def execVlds (o : Ops) (s : State) : Res := vLanesOp 5 false false o s
/-- VSTS (R305). -/
def execVsts (o : Ops) (s : State) : Res := vLanesOp 6 true false o s

/-- VSTM (R305): the span is checked whole, whatever the mask. -/
def execVstm (o : Ops) (s : State) : Res :=
  issue .x s do
    let p ← srcB o
    let (f, z) ← laneFmtM p
    let ea ← effAddr p (immR o)
    alignM ea z
    let _ ← rangeM ea (32 * z) false true
    stepM ea
    lastUseB o
    pushVec { vent 5 4 o with
      fmt := f, z := z, lanes := (List.range 32).map fun i => ea + i * z, dst := 32
      reads := [o.c.toNat % 32, o.a.toNat % 32] }

end Sys2Proof.Machine
end

