-- ==== Sys2Proof/Machine/Dispatch.lean ====
section
/-! DEFINITION. The meaning of every instruction and event, one arm each. -/

namespace Sys2Proof.Machine

open Sys2Proof

def exec (i : Instr) (s : State) : Host.Outcome State Fault Refusal :=
  match i with
  | .udf o => Sys2Proof.Machine.execUdf o s
  | .add o => Sys2Proof.Machine.execAdd o s
  | .sub_ o => Sys2Proof.Machine.execSub o s
  | .and_ o => Sys2Proof.Machine.execAnd o s
  | .or_ o => Sys2Proof.Machine.execOr o s
  | .xor_ o => Sys2Proof.Machine.execXor o s
  | .shl o => Sys2Proof.Machine.execShl o s
  | .shr o => Sys2Proof.Machine.execShr o s
  | .sra o => Sys2Proof.Machine.execSra o s
  | .mul_ o => Sys2Proof.Machine.execMul o s
  | .mov o => Sys2Proof.Machine.execMov o s
  | .addi o => Sys2Proof.Machine.execAddi o s
  | .li o => Sys2Proof.Machine.execLi o s
  | .slt o => Sys2Proof.Machine.execSlt o s
  | .sltu o => Sys2Proof.Machine.execSltu o s
  | .seq_ o => Sys2Proof.Machine.execSeq o s
  | .beq o => Sys2Proof.Machine.execBeq o s
  | .bne o => Sys2Proof.Machine.execBne o s
  | .blt o => Sys2Proof.Machine.execBlt o s
  | .bge o => Sys2Proof.Machine.execBge o s
  | .bltu o => Sys2Proof.Machine.execBltu o s
  | .bgeu o => Sys2Proof.Machine.execBgeu o s
  | .jmp o => Sys2Proof.Machine.execJ o s
  | .jal o => Sys2Proof.Machine.execJal o s
  | .jalr o => Sys2Proof.Machine.execJalr o s
  | .ldd o => Sys2Proof.Machine.execLdd o s
  | .ldw o => Sys2Proof.Machine.execLdw o s
  | .std o => Sys2Proof.Machine.execStd o s
  | .stw o => Sys2Proof.Machine.execStw o s
  | .padd o => Sys2Proof.Machine.execPadd o s
  | .qadv o => Sys2Proof.Machine.execQadv o s
  | .mulh o => Sys2Proof.Machine.execMulh o s
  | .mulhu o => Sys2Proof.Machine.execMulhu o s
  | .div_ o => Sys2Proof.Machine.execDiv o s
  | .divu o => Sys2Proof.Machine.execDivu o s
  | .rem_ o => Sys2Proof.Machine.execRem o s
  | .remu o => Sys2Proof.Machine.execRemu o s
  | .min_ o => Sys2Proof.Machine.execMin o s
  | .max_ o => Sys2Proof.Machine.execMax o s
  | .minu o => Sys2Proof.Machine.execMinu o s
  | .maxu o => Sys2Proof.Machine.execMaxu o s
  | .clz o => Sys2Proof.Machine.execClz o s
  | .popc o => Sys2Proof.Machine.execPopc o s
  | .bfx o => Sys2Proof.Machine.execBfx o s
  | .bfi o => Sys2Proof.Machine.execBfi o s
  | .andi o => Sys2Proof.Machine.execAndi o s
  | .ori o => Sys2Proof.Machine.execOri o s
  | .xori o => Sys2Proof.Machine.execXori o s
  | .shli o => Sys2Proof.Machine.execShli o s
  | .shri o => Sys2Proof.Machine.execShri o s
  | .srai o => Sys2Proof.Machine.execSrai o s
  | .lih o => Sys2Proof.Machine.execLih o s
  | .slti o => Sys2Proof.Machine.execSlti o s
  | .loop_ o => Sys2Proof.Machine.execLoop o s
  | .loopi o => Sys2Proof.Machine.execLoopi o s
  | .pushb o => Sys2Proof.Machine.execPushb o s
  | .brq o => Sys2Proof.Machine.execBrq o s
  | .fadd o => Sys2Proof.Machine.execFadd o s
  | .fmul o => Sys2Proof.Machine.execFmul o s
  | .ffma o => Sys2Proof.Machine.execFfma o s
  | .fcmp o => Sys2Proof.Machine.execFcmp o s
  | .fcvt o => Sys2Proof.Machine.execFcvt o s
  | .ldb o => Sys2Proof.Machine.execLdb o s
  | .ldbu o => Sys2Proof.Machine.execLdbu o s
  | .ldh o => Sys2Proof.Machine.execLdh o s
  | .ldhu o => Sys2Proof.Machine.execLdhu o s
  | .ldwu o => Sys2Proof.Machine.execLdwu o s
  | .stb o => Sys2Proof.Machine.execStb o s
  | .sth o => Sys2Proof.Machine.execSth o s
  | .ldacq o => Sys2Proof.Machine.execLdacq o s
  | .strel o => Sys2Proof.Machine.execStrel o s
  | .fence o => Sys2Proof.Machine.execFence o s
  | .ptag o => Sys2Proof.Machine.execPtag o s
  | .pfmt o => Sys2Proof.Machine.execPfmt o s
  | .pspan o => Sys2Proof.Machine.execPspan o s
  | .qbind o => Sys2Proof.Machine.execQbind o s
  | .qfill o => Sys2Proof.Machine.execQfill o s
  | .xput o => Sys2Proof.Machine.execXput o s
  | .clrp o => Sys2Proof.Machine.execClrp o s
  | .testp o => Sys2Proof.Machine.execTestp o s
  | .waitw o => Sys2Proof.Machine.execWaitw o s
  | .cpy o => Sys2Proof.Machine.execCpy o s
  | .get_ o => Sys2Proof.Machine.execGet o s
  | .put_ o => Sys2Proof.Machine.execPut o s
  | .sread o => Sys2Proof.Machine.execSread o s
  | .swrite o => Sys2Proof.Machine.execSwrite o s
  | .qsend o => Sys2Proof.Machine.execQsend o s
  | .qsendWho o => Sys2Proof.Machine.execQsendWho o s
  | .time_ o => Sys2Proof.Machine.execTime o s
  | .self_ o => Sys2Proof.Machine.execSelf o s
  | .bind_ o => Sys2Proof.Machine.execBind o s
  | .unbind o => Sys2Proof.Machine.execUnbind o s
  | .acqs o => Sys2Proof.Machine.execAcqs o s
  | .acqx o => Sys2Proof.Machine.execAcqx o s
  | .rel_ o => Sys2Proof.Machine.execRel o s
  | .gstat o => Sys2Proof.Machine.execGstat o s
  | .gstatVerger o => Sys2Proof.Machine.execGstatVerger o s
  | .gnew o => Sys2Proof.Machine.execGnew o s
  | .gfree o => Sys2Proof.Machine.execGfree o s
  | .atom o => Sys2Proof.Machine.execAtom o s
  | .cas o => Sys2Proof.Machine.execCas o s
  | .atomsc o => Sys2Proof.Machine.execAtomsc o s
  | .ldsc o => Sys2Proof.Machine.execLdsc o s
  | .stsc o => Sys2Proof.Machine.execStsc o s
  | .bar_ o => Sys2Proof.Machine.execBar o s
  | .sstep o => Sys2Proof.Machine.execSstep o s
  | .ssync o => Sys2Proof.Machine.execSsync o s
  | .ldref o => Sys2Proof.Machine.execLdref o s
  | .stref o => Sys2Proof.Machine.execStref o s
  | .ldk o => Sys2Proof.Machine.execLdk o s
  | .stk o => Sys2Proof.Machine.execStk o s
  | .kmov o => Sys2Proof.Machine.execKmov o s
  | .kmovToG o => Sys2Proof.Machine.execKmovToG o s
  | .kmovFromG o => Sys2Proof.Machine.execKmovFromG o s
  | .knew o => Sys2Proof.Machine.execKnew o s
  | .kpin o => Sys2Proof.Machine.execKpin o s
  | .kunpin o => Sys2Proof.Machine.execKunpin o s
  | .kcmp o => Sys2Proof.Machine.execKcmp o s
  | .knull o => Sys2Proof.Machine.execKnull o s
  | .vadd o => Sys2Proof.Machine.execVadd o s
  | .vsub o => Sys2Proof.Machine.execVsub o s
  | .vmul o => Sys2Proof.Machine.execVmul o s
  | .vfma o => Sys2Proof.Machine.execVfma o s
  | .vmin o => Sys2Proof.Machine.execVmin o s
  | .vmax o => Sys2Proof.Machine.execVmax o s
  | .vabs o => Sys2Proof.Machine.execVabs o s
  | .vneg o => Sys2Proof.Machine.execVneg o s
  | .vcmp o => Sys2Proof.Machine.execVcmp o s
  | .vsel o => Sys2Proof.Machine.execVsel o s
  | .vand o => Sys2Proof.Machine.execVand o s
  | .vor o => Sys2Proof.Machine.execVor o s
  | .vxor o => Sys2Proof.Machine.execVxor o s
  | .vshl o => Sys2Proof.Machine.execVshl o s
  | .vshr o => Sys2Proof.Machine.execVshr o s
  | .viadd o => Sys2Proof.Machine.execViadd o s
  | .visub o => Sys2Proof.Machine.execVisub o s
  | .vimul o => Sys2Proof.Machine.execVimul o s
  | .vrcp o => Sys2Proof.Machine.execVrcp o s
  | .vrsq o => Sys2Proof.Machine.execVrsq o s
  | .vexp2 o => Sys2Proof.Machine.execVexp2 o s
  | .vlog2 o => Sys2Proof.Machine.execVlog2 o s
  | .vred o => Sys2Proof.Machine.execVred o s
  | .vscan o => Sys2Proof.Machine.execVscan o s
  | .vperm o => Sys2Proof.Machine.execVperm o s
  | .vbcast o => Sys2Proof.Machine.execVbcast o s
  | .vext o => Sys2Proof.Machine.execVext o s
  | .vins o => Sys2Proof.Machine.execVins o s
  | .viota o => Sys2Proof.Machine.execViota o s
  | .vcvt o => Sys2Proof.Machine.execVcvt o s
  | .vmov o => Sys2Proof.Machine.execVmov o s
  | .vld o => Sys2Proof.Machine.execVld o s
  | .vst o => Sys2Proof.Machine.execVst o s
  | .vldx o => Sys2Proof.Machine.execVldx o s
  | .vstx o => Sys2Proof.Machine.execVstx o s
  | .vstm o => Sys2Proof.Machine.execVstm o s
  | .vlds o => Sys2Proof.Machine.execVlds o s
  | .vsts o => Sys2Proof.Machine.execVsts o s
  | .vtopk o => Sys2Proof.Machine.execVtopk o s
  | .vbscale o => Sys2Proof.Machine.execVbscale o s
  | .gjoin o => Sys2Proof.Machine.execGjoin o s
  | .gleave o => Sys2Proof.Machine.execGleave o s
  | .rejoin o => Sys2Proof.Machine.execRejoin o s
  | .vshare o => Sys2Proof.Machine.execVshare o s
  | .start_ o => Sys2Proof.Machine.execStart o s
  | .startp o => Sys2Proof.Machine.execStartp o s
  | .stop_ o => Sys2Proof.Machine.execStop o s
  | .joins o => Sys2Proof.Machine.execJoins o s
  | .live_ o => Sys2Proof.Machine.execLive o s
  | .liveGet o => Sys2Proof.Machine.execLiveGet o s
  | .yield o => Sys2Proof.Machine.execYield o s
  | .mxc o => Sys2Proof.Machine.execMxc o s
  | .mxcap o => Sys2Proof.Machine.execMxcap o s
  | .mxcapGet o => Sys2Proof.Machine.execMxcapGet o s
  | .epi o => Sys2Proof.Machine.execEpi o s
  | .hcompact o => Sys2Proof.Machine.execHcompact o s
  | .tqput o => Sys2Proof.Machine.execTqput o s
  | .tqget o => Sys2Proof.Machine.execTqget o s
  | .tdec o => Sys2Proof.Machine.execTdec o s
  | .tdset o => Sys2Proof.Machine.execTdset o s
  | .tdbind o => Sys2Proof.Machine.execTdbind o s
  | .launch o => Sys2Proof.Machine.execLaunch o s
  | .gcont o => Sys2Proof.Machine.execGcont o s
  | .gscan o => Sys2Proof.Machine.execGscan o s
  | .a2a o => Sys2Proof.Machine.execA2a o s
  | .sysrd o => Sys2Proof.Machine.execSysrd o s
  | .sysrdB o => Sys2Proof.Machine.execSysrdB o s
  | .syswr o => Sys2Proof.Machine.execSyswr o s
  | .syswrB o => Sys2Proof.Machine.execSyswrB o s
  | .tret o => Sys2Proof.Machine.execTret o s
  | .tretSkip o => Sys2Proof.Machine.execTretSkip o s
  | .tretLeave o => Sys2Proof.Machine.execTretLeave o s
  | .tretKill o => Sys2Proof.Machine.execTretKill o s
  | .svc o => Sys2Proof.Machine.execSvc o s
  | .brk o => Sys2Proof.Machine.execBrk o s
  | .rtset o => Sys2Proof.Machine.execRtset o s
  | .rtget o => Sys2Proof.Machine.execRtget o s
  | .ctxsave o => Sys2Proof.Machine.execCtxsave o s
  | .ctxload o => Sys2Proof.Machine.execCtxload o s
  | .kills o => Sys2Proof.Machine.execKills o s
  | .killsResume o => Sys2Proof.Machine.execKillsResume o s
  | .snap o => Sys2Proof.Machine.execSnap o s
  | .halt_ o => Sys2Proof.Machine.execHalt o s
  | .wfe o => Sys2Proof.Machine.execWfe o s
  | .orphan o => Sys2Proof.Machine.execOrphan o s
  | .gswitch o => Sys2Proof.Machine.execGswitch o s
  | .tmsg o => Sys2Proof.Machine.execTmsg o s
  | .vshareApply => Sys2Proof.Machine.execVshareApply s
  | .registerEvict => Sys2Proof.Machine.execRegisterEvict s
  | .registerFetch => Sys2Proof.Machine.execRegisterFetch s
  | .resultWriteback => Sys2Proof.Machine.execResultWriteback s
  | .presTimeout => Sys2Proof.Machine.execPresTimeout s
  | .xputArrival => Sys2Proof.Machine.execXputArrival s
  | .vectorQuarterIssue => Sys2Proof.Machine.execVectorQuarterIssue s
  | .vectorResult => Sys2Proof.Machine.execVectorResult s
  | .followerIssue => Sys2Proof.Machine.execFollowerIssue s
  | .groupForm => Sys2Proof.Machine.execGroupForm s
  | .gjoinTimeout => Sys2Proof.Machine.execGjoinTimeout s
  | .superstepBoundary => Sys2Proof.Machine.execSuperstepBoundary s
  | .accessPerform => Sys2Proof.Machine.execAccessPerform s
  | .loadResult => Sys2Proof.Machine.execLoadResult s
  | .storeAck => Sys2Proof.Machine.execStoreAck s
  | .atomicPerform => Sys2Proof.Machine.execAtomicPerform s
  | .watchMade => Sys2Proof.Machine.execWatchMade s
  | .watchWake => Sys2Proof.Machine.execWatchWake s
  | .watchRetry => Sys2Proof.Machine.execWatchRetry s
  | .qsendArrival => Sys2Proof.Machine.execQsendArrival s
  | .qsendAnswer => Sys2Proof.Machine.execQsendAnswer s
  | .qsendResend => Sys2Proof.Machine.execQsendResend s
  | .ringAppendDone => Sys2Proof.Machine.execRingAppendDone s
  | .receiveQueueRefill => Sys2Proof.Machine.execReceiveQueueRefill s
  | .scComplete => Sys2Proof.Machine.execScComplete s
  | .releaseSend => Sys2Proof.Machine.execReleaseSend s
  | .guardRequest => Sys2Proof.Machine.execGuardRequest s
  | .guardRequestResend => Sys2Proof.Machine.execGuardRequestResend s
  | .guardRelease => Sys2Proof.Machine.execGuardRelease s
  | .guardForward => Sys2Proof.Machine.execGuardForward s
  | .grantArrival => Sys2Proof.Machine.execGrantArrival s
  | .grantRetry => Sys2Proof.Machine.execGrantRetry s
  | .writeBehindComplete => Sys2Proof.Machine.execWriteBehindComplete s
  | .wbdone => Sys2Proof.Machine.execWbdone s
  | .guardPackageFailure => Sys2Proof.Machine.execGuardPackageFailure s
  | .homeLostAnswer => Sys2Proof.Machine.execHomeLostAnswer s
  | .heapBarrierWake => Sys2Proof.Machine.execHeapBarrierWake s
  | .inflDecrement => Sys2Proof.Machine.execInflDecrement s
  | .healCas => Sys2Proof.Machine.execHealCas s
  | .barrierLateTrap => Sys2Proof.Machine.execBarrierLateTrap s
  | .relocCommand => Sys2Proof.Machine.execRelocCommand s
  | .relocParse => Sys2Proof.Machine.execRelocParse s
  | .flipArrival => Sys2Proof.Machine.execFlipArrival s
  | .flipAck => Sys2Proof.Machine.execFlipAck s
  | .relocObjectBusy => Sys2Proof.Machine.execRelocObjectBusy s
  | .relocObjectDone => Sys2Proof.Machine.execRelocObjectDone s
  | .relocComplete => Sys2Proof.Machine.execRelocComplete s
  | .cnPartial => Sys2Proof.Machine.execCnPartial s
  | .cnInstanceComplete => Sys2Proof.Machine.execCnInstanceComplete s
  | .cnResultArrival => Sys2Proof.Machine.execCnResultArrival s
  | .cnResultUnblock => Sys2Proof.Machine.execCnResultUnblock s
  | .ferArrival => Sys2Proof.Machine.execFerArrival s
  | .ferSlotTimeout => Sys2Proof.Machine.execFerSlotTimeout s
  | .ferParentResult => Sys2Proof.Machine.execFerParentResult s
  | .ferWaitRelease => Sys2Proof.Machine.execFerWaitRelease s
  | .ferHaltNotice => Sys2Proof.Machine.execFerHaltNotice s
  | .ferResumeNotice => Sys2Proof.Machine.execFerResumeNotice s
  | .a2aParcelWrite => Sys2Proof.Machine.execA2aParcelWrite s
  | .a2aContribute => Sys2Proof.Machine.execA2aContribute s
  | .copyComplete => Sys2Proof.Machine.execCopyComplete s
  | .completionElementPlace => Sys2Proof.Machine.execCompletionElementPlace s
  | .getRequestServe => Sys2Proof.Machine.execGetRequestServe s
  | .remoteAtomicServe => Sys2Proof.Machine.execRemoteAtomicServe s
  | .getComplete => Sys2Proof.Machine.execGetComplete s
  | .putDataArrival => Sys2Proof.Machine.execPutDataArrival s
  | .putLocalComplete => Sys2Proof.Machine.execPutLocalComplete s
  | .putRemoteComplete => Sys2Proof.Machine.execPutRemoteComplete s
  | .storageIoComplete => Sys2Proof.Machine.execStorageIoComplete s
  | .matrixCommandArrival => Sys2Proof.Machine.execMatrixCommandArrival s
  | .matrixCommandResend => Sys2Proof.Machine.execMatrixCommandResend s
  | .shadowEntry => Sys2Proof.Machine.execShadowEntry s
  | .mode_ => Sys2Proof.Machine.execMode s
  | .loadb => Sys2Proof.Machine.execLoadb s
  | .run_ => Sys2Proof.Machine.execRun s
  | .clear_ => Sys2Proof.Machine.execClear s
  | .matrixCommandComplete => Sys2Proof.Machine.execMatrixCommandComplete s
  | .matrixNoticeArrival => Sys2Proof.Machine.execMatrixNoticeArrival s
  | .epiStart => Sys2Proof.Machine.execEpiStart s
  | .epiComplete => Sys2Proof.Machine.execEpiComplete s
  | .tqRefill => Sys2Proof.Machine.execTqRefill s
  | .tdecApply => Sys2Proof.Machine.execTdecApply s
  | .tdsetApply => Sys2Proof.Machine.execTdsetApply s
  | .tdbindApply => Sys2Proof.Machine.execTdbindApply s
  | .releasedRecordPush => Sys2Proof.Machine.execReleasedRecordPush s
  | .barRelease => Sys2Proof.Machine.execBarRelease s
  | .barTimeout => Sys2Proof.Machine.execBarTimeout s
  | .takeTrap => Sys2Proof.Machine.execTakeTrap s
  | .teamSwapOut => Sys2Proof.Machine.execTeamSwapOut s
  | .teamRestore => Sys2Proof.Machine.execTeamRestore s
  | .gangSwitch => Sys2Proof.Machine.execGangSwitch s
  | .gangSave => Sys2Proof.Machine.execGangSave s
  | .gangRestore => Sys2Proof.Machine.execGangRestore s
  | .falloutPhase => Sys2Proof.Machine.execFalloutPhase s
  | .epiSwitchTimeout => Sys2Proof.Machine.execEpiSwitchTimeout s
  | .escalationArrival => Sys2Proof.Machine.execEscalationArrival s
  | .trcNoticeArrival => Sys2Proof.Machine.execTrcNoticeArrival s
  | .remoteRejection => Sys2Proof.Machine.execRemoteRejection s
  | .mtuAccessDecide => Sys2Proof.Machine.execMtuAccessDecide s
  | .mtuParkRetry => Sys2Proof.Machine.execMtuParkRetry s
  | .sqeFillRequest => Sys2Proof.Machine.execSqeFillRequest s
  | .sqeFillComplete => Sys2Proof.Machine.execSqeFillComplete s
  | .mtuInstallNotice => Sys2Proof.Machine.execMtuInstallNotice s
  | .sqeFillFail => Sys2Proof.Machine.execSqeFillFail s
  | .sqeCommandTimeout => Sys2Proof.Machine.execSqeCommandTimeout s
  | .parkedAccessAnswer => Sys2Proof.Machine.execParkedAccessAnswer s
  | .parkedAccessFail => Sys2Proof.Machine.execParkedAccessFail s
  | .faultServe => Sys2Proof.Machine.execFaultServe s
  | .pageMigrationArrival => Sys2Proof.Machine.execPageMigrationArrival s
  | .migrationAck => Sys2Proof.Machine.execMigrationAck s
  | .evictWritebackComplete => Sys2Proof.Machine.execEvictWritebackComplete s
  | .linkFlitReceive => Sys2Proof.Machine.execLinkFlitReceive s
  | .linkNak => Sys2Proof.Machine.execLinkNak s
  | .linkAck => Sys2Proof.Machine.execLinkAck s
  | .transportPacketArrival => Sys2Proof.Machine.execTransportPacketArrival s
  | .transportAck => Sys2Proof.Machine.execTransportAck s
  | .transportResend => Sys2Proof.Machine.execTransportResend s
  | .laneLoss => Sys2Proof.Machine.execLaneLoss s
  | .linkRetrainDone => Sys2Proof.Machine.execLinkRetrainDone s
  | .bandwidthEventArrival => Sys2Proof.Machine.execBandwidthEventArrival s
  | .keepaliveSend => Sys2Proof.Machine.execKeepaliveSend s
  | .keepaliveTimeout => Sys2Proof.Machine.execKeepaliveTimeout s
  | .packageFailureDeclare => Sys2Proof.Machine.execPackageFailureDeclare s
  | .failureNotice => Sys2Proof.Machine.execFailureNotice s
  | .hostMemAccess => Sys2Proof.Machine.execHostMemAccess s
  | .crzDoor => Sys2Proof.Machine.execCrzDoor s
  | .identify => Sys2Proof.Machine.execIdentify s
  | .negotiate => Sys2Proof.Machine.execNegotiate s
  | .patch_ => Sys2Proof.Machine.execPatch s
  | .partMake => Sys2Proof.Machine.execPartMake s
  | .partEnd => Sys2Proof.Machine.execPartEnd s
  | .tenantKeyErase => Sys2Proof.Machine.execTenantKeyErase s
  | .grant_ => Sys2Proof.Machine.execGrant s
  | .map_ => Sys2Proof.Machine.execMap s
  | .own_ => Sys2Proof.Machine.execOwn s
  | .evict => Sys2Proof.Machine.execEvict s
  | .route_ => Sys2Proof.Machine.execRoute s
  | .hostmap => Sys2Proof.Machine.execHostmap s
  | .job_ => Sys2Proof.Machine.execJob s
  | .log_ => Sys2Proof.Machine.execLog s
  | .unsupportedCommand => Sys2Proof.Machine.execUnsupportedCommand s
  | .gangPlace => Sys2Proof.Machine.execGangPlace s
  | .jobEnd => Sys2Proof.Machine.execJobEnd s
  | .tileClear => Sys2Proof.Machine.execTileClear s
  | .tduJdone => Sys2Proof.Machine.execTduJdone s
  | .tduJkill => Sys2Proof.Machine.execTduJkill s
  | .tduQbaseWrite => Sys2Proof.Machine.execTduQbaseWrite s
  | .tduDcbaseWrite => Sys2Proof.Machine.execTduDcbaseWrite s
  | .registerWrite => Sys2Proof.Machine.execRegisterWrite s
  | .partitionRegisterPropagate => Sys2Proof.Machine.execPartitionRegisterPropagate s
  | .tstatWrite => Sys2Proof.Machine.execTstatWrite s
  | .orphstatWrite => Sys2Proof.Machine.execOrphstatWrite s
  | .orphstatRead => Sys2Proof.Machine.execOrphstatRead s
  | .sliceWrite => Sys2Proof.Machine.execSliceWrite s
  | .snapctlWrite => Sys2Proof.Machine.execSnapctlWrite s
  | .trcPop => Sys2Proof.Machine.execTrcPop s
  | .trcLostRead => Sys2Proof.Machine.execTrcLostRead s
  | .ferPstatRead => Sys2Proof.Machine.execFerPstatRead s
  | .ferEvlostRead => Sys2Proof.Machine.execFerEvlostRead s
  | .debugStopRequest => Sys2Proof.Machine.execDebugStopRequest s
  | .debugStop => Sys2Proof.Machine.execDebugStop s
  | .debugResume => Sys2Proof.Machine.execDebugResume s
  | .tduStep => Sys2Proof.Machine.execTduStep s
  | .stepDone => Sys2Proof.Machine.execStepDone s
  | .tduStepstRead => Sys2Proof.Machine.execTduStepstRead s
  | .tduTrbaseWrite => Sys2Proof.Machine.execTduTrbaseWrite s
  | .traceSample => Sys2Proof.Machine.execTraceSample s
  | .snapshotFire => Sys2Proof.Machine.execSnapshotFire s
  | .lifetimeCounterUpdate => Sys2Proof.Machine.execLifetimeCounterUpdate s
  | .macroScrub => Sys2Proof.Machine.execMacroScrub s
  | .powerOn => Sys2Proof.Machine.execPowerOn s
  | .thermalTrip => Sys2Proof.Machine.execThermalTrip s
  | .getVersion => Sys2Proof.Machine.execGetVersion s
  | .getCapabilities => Sys2Proof.Machine.execGetCapabilities s
  | .negotiateAlgorithms => Sys2Proof.Machine.execNegotiateAlgorithms s
  | .getDigests => Sys2Proof.Machine.execGetDigests s
  | .getCertificate => Sys2Proof.Machine.execGetCertificate s
  | .challenge => Sys2Proof.Machine.execChallenge s
  | .getMeasurements => Sys2Proof.Machine.execGetMeasurements s
  | .powerLoss => Sys2Proof.Machine.execPowerLoss s
  | .ssdPortLinkChange => Sys2Proof.Machine.execSsdPortLinkChange s
  | .wfeTimeout => Sys2Proof.Machine.execWfeTimeout s
  | .tileFailure => Sys2Proof.Machine.execTileFailure s

end Sys2Proof.Machine
end

