-- ==== Sys2Proof/Machine/Sched.lean ====
section
/-!
DEFINITION. What a step performs: the earliest due event of the agenda; with none due, one strand's next instruction, by
the issue rules of R31; with no strand able to try, the choice of a tile's lane groups; with none due, the passage of one cycle. And the placing of one instruction where the
next step fetches it.
-/

namespace Sys2Proof.Machine

/-- A gang switch at its stamp comes before the arrivals of its cycle, which fall out (R400, R406). -/
def stampFirst : Instr → Bool
  | .gangSwitch => true
  | _ => false

/-- An arrival of an XPUT comes before the other events of its cycle (R43). -/
def arrivalFirst : Instr → Bool
  | .xputArrival => true
  | _ => false

/-- An SC access is performed before the plain accesses of its cycle (R144). -/
def scFirst : Instr → Bool
  | .scComplete => true
  | _ => false

/-- A home atomic engine's operations come after the other events of their cycle, when all the requests that arrive in it are known
(R254); a watch sees the stores of its cycle (R255, R280). -/
def afterStores : Instr → Bool
  | .atomicPerform => true
  | .watchMade => true
  | _ => false

/-- The lane groups choose after the pushes of their cycle (R45), a barrier's time-out is judged after the arrivals of its
cycle (R273), an escalation merges after the TRC_POPs of its cycle (R406), and a snapshot takes the counts of its cycle (R462). -/
def comesLast : Instr → Bool
  | .snapshotFire => true
  | .escalationArrival => true
  | .vectorQuarterIssue => true
  | .barTimeout => true
  | _ => false

/-- The first due event that satisfies `p`, and the agenda without it. -/
def takeEvent (now : Nat) (p : Instr → Bool) :
    List (Nat × Instr × EvArg) → Option ((Instr × EvArg) × List (Nat × Instr × EvArg))
  | [] => none
  | (due, i, a) :: r =>
    if due ≤ now ∧ p i = true then some ((i, a), r)
    else (takeEvent now p r).map fun (e, r') => (e, (due, i, a) :: r')

/-- The event to perform next. -/
def dueEvent (s : State) : Option ((Instr × EvArg) × List (Nat × Instr × EvArg)) :=
  ([stampFirst, arrivalFirst, scFirst, fun i => !comesLast i && !afterStores i, afterStores].findSome? fun p => takeEvent s.now p s.agenda)

/-- The event to perform once no strand issues any more in this cycle: a snapshot after all others. -/
def lateEvent (s : State) : Option ((Instr × EvArg) × List (Nat × Instr × EvArg)) :=
  [fun i => comesLast i && i != .snapshotFire, comesLast].findSome? fun p => takeEvent s.now p s.agenda

/-- The strand that TDU_STEP names and that has not been tried (R459). -/
def stepNow (s : State) (sid : Nat) : Bool :=
  let p := partAt s (pkeyOf s (cidOf sid))
  p.stopped && p.stepping == some (sid, 0)

/-- The strand is PARKED on an object entry until it is DONE (R160); its trap handler is not. -/
def onEntryWait (s : State) (sid : Nat) (x : Slot) : Bool :=
  !(slotNo sid == 0 && (coreAt s (cidOf sid)).inh) && s.hops.any fun p => p.2.stage == 3 && ((tfind s.accs p.1).any fun a =>
    a.sid == sid && a.gen == x.gen && a.gang == (coreAt s (cidOf sid)).gang)

/-- A strand may attempt its next instruction in this cycle (R26, R31). -/
def mayTry (s : State) (sid : Nat) (x : Slot) : Bool :=
  let cid := cidOf sid
  let c := coreAt s cid
  (x.st == .ready || ((x.st == .waiting || x.st == .parked) && !x.hold)) && !x.frozen && (!x.killed || x.killAt == s.now + 1) && x.tried != s.now + 1 && decide (x.readyAt ≤ s.now)
  && (if x.xseq then c.usedX else c.usedA) != s.now + 1
  && !c.halted && !(pkgAt s (pkgOfC cid)).halted
  && (stepNow s sid || !partHeld s cid)
  && (!followsLeader s sid || !x.fwd.isEmpty)
  && released s x.after
  && !(onEntryWait s sid x)
  && (x.yieldOn.all fun p => (slotAt s p.1).issued != p.2 || (slotAt s p.1).st != .ready)

/-- The place of a slot in the search that starts after slot `last` (R31). -/
def turn (last n : Nat) : Nat := (n + 10 - last) % 11

/-- The better of two candidate strands: the lower core; on one core the A sequencer before the X sequencer; on one
sequencer the round-robin's choice. -/
def better (s : State) (a b : Nat) : Bool :=
  let ca := cidOf a
  let cb := cidOf b
  if ca ≠ cb then decide (ca < cb)
  else
    let xa := (slotAt s a).xseq
    let xb := (slotAt s b).xseq
    if xa ≠ xb then !xa
    else
      let last := if xa then (coreAt s ca).lastX else (coreAt s ca).lastA
      decide (turn last (slotNo a) ≤ turn last (slotNo b))

/-- The strand that attempts its next instruction. -/
def choose (s : State) : Tab Slot → Option Nat
  | [] => none
  | (sid, x) :: r =>
    let rest := choose s r
    if mayTry s sid x then
      match rest with
      | none => some sid
      | some b => some (if better s sid b then sid else b)
    else rest

/-- A word sequence at issue: the instruction to run with the instruction register set, or the trap of its decoding
(R204). -/
def decodeAt (sid ipc : Nat) (ws : List (BitVec 16)) (s : State) : Option Instr × State :=
  let s := { s with cur := { sid := sid, ipc := ipc, words := ws } }
  match decodeWords (accepted s (pkgOfC (cidOf sid))) ws with
  | .ok i => (some i, s)
  | .error (.illegal 1) => (some (.udf (Ops.mk 0 0 0 false false false none [] 0)), s)
  | .error (.illegal r) => (none, recordTrap sid 1 (firstFour ws) (word r) ipc (markTrap sid s))
  | .error (.queueKind tv) => (none, recordTrap sid 0x0E (word tv) 0#64 ipc (markTrap sid s))

/-- A strand's next instruction is one that was abandoned under way: the strand waits for it again, or goes on after it where it has
completed (R374, R400). -/
def redoNow (s : State) (sid : Nat) : Option Redo :=
  let x := slotAt s sid
  x.redo.filter fun r => r.inh == (coreAt s (cidOf sid)).inh && r.pc == x.pc && (r.passed || underWay s sid r.id)

/-- That strand's attempt. -/
def redoIssue (sid : Nat) (r : Redo) (s : State) : State :=
  let s := modSlot sid (fun x => { x with redo := none }) s
  if r.passed then resume sid 1 s
  else modSlot sid (fun x => { x with st := .waiting, hold := true, heldBy := r.id, tried := s.now + 1 }) s

/-- A strand that issues another instruction issues an abandoned one no more. -/
def redoGone (sid : Nat) (s : State) : State :=
  match (slotAt s sid).redo with
  | some r => if r.inh = (coreAt s (cidOf sid)).inh then modSlot sid (fun x => { x with redo := none, kills := 0#64 }) s else s
  | none => s

/-- One strand's attempt: an attached follower takes the words its leader forwarded (R46); any other strand fetches at
its PC, which traps with ALIGN where it is odd (R28, R190, R191). -/
def attempt (sid : Nat) (s : State) : Option Instr × State :=
  match redoNow s sid with
  | some r => (none, redoIssue sid r s)
  | none =>
  let s := redoGone sid s
  let x := slotAt s sid
  match x.fwd with
  | f :: _ => decodeAt sid x.pc f.words s
  | [] =>
    if x.pc % 2 = 1 then (none, recordTrap sid 5 (word x.pc) 0#64 x.pc s)
    else
      match fetchWords s sid 5 x.pc with
      | .words ws => decodeAt sid x.pc ws s
      | .trap c tv => (none, recordTrap sid c (word tv) 0#64 x.pc s)
      | .park va => (none, modSlot sid (fun x => { x with tried := s.now + 1 }) (parkFetch sid x.pc va s))

/-- A strand waits no more for the accesses released to it (R149). -/
def handOver (sid : Nat) (s : State) : State :=
  if (slotAt s sid).after.isEmpty then s else modSlot sid (fun x => { x with after := [] }) s

/-- The stepped strand of a stopped gang is tried once, and its outcome looked at in the next cycle (R459). -/
def stepTaken (sid : Nat) (s : State) : State :=
  let s := handOver sid s
  if stepNow s sid then
    let pk := pkeyOf s (cidOf sid)
    post (s.now + 1) .stepDone { a := pk, b := cidOf sid, c := slotNo sid }
      (modPart pk (fun p => { p with stepping := some (sid, s.nextId + 1) }) s)
  else s

/-- The work of one step, where no physical file is overfull. -/
def plainWork (s : State) : Option Instr × State :=
  match dueEvent s with
  | some ((i, a), r) => (some i, { s with agenda := r, ev := a })
  | none =>
    match choose s s.slots with
    | some sid => attempt sid (stepTaken sid s)
    | none =>
      match lateEvent s with
      | some ((i, a), r) => (some i, { s with agenda := r, ev := a })
      | none => (none, { s with now := s.now + 1 })

/-- The work of one step: an instruction or event to execute, and the state to execute it in; or a state alone. A core whose physical
file is overfull evicts a register before all else (R37). -/
def nextWork (s : State) : Option Instr × State :=
  match overfull s with
  | some k => (some .registerEvict, { s with ev := { a := k / 128, b := k % 128 } })
  | none => plainWork s

/-! ### Placing an instruction -/

/-- The first address of the own tile's scratchpad in the local window (R88). -/
def ownBase : Nat := windowBase + 0x7FF * 2 ^ 20

/-- Instructions of class X, which only a helper on the X sequencer accepts (R30, R202). -/
def needsX (nbits w : Nat) : Bool :=
  match decodeTableWord nbits w with
  | some i =>
    match i.code with
    | some (4, _, _) => true
    | some (5, op, _) => !(op == 9 || op == 10 || op == 11)
    | _ => false
  | none => false

/-- The words in memory order, then zeros to the longest instruction of five words. -/
def placedBytes (nbits w : Nat) : List Byte :=
  (tableWords ((nbits + 15) / 16) w ++ List.replicate (5 - (nbits + 15) / 16) 0#16).flatMap fun x => natBytes 2 x.toNat

/-- One instruction at the start of tile 0's scratchpad, a range-table entry that lets core 0 fetch it there, every
feature accepted, and one READY strand on core 0 whose PC is there: slot 0 in supervisor mode, or helper slot 1 on the X
sequencer for an instruction that only it accepts. The agenda is empty and no other strand is live. -/
def placeWord (s : State) (nbits w : Nat) : State :=
  let x := needsX nbits w
  let sid := if x then 1 else 0
  { s with
    agenda := []
    cores := tput s.cores 0 { coreAt s 0 with
      modeS := true, halted := false, part := 0, gang := none, group := none, usedA := 0, usedX := 0 }
    parts := tput s.parts 0 { partAt s 0 with switching := 0, stopped := false }
    pkgs := tput s.pkgs 0 { pkgAt s 0 with
      present := true, powered := true, halted := false, negotiated := true
      feat0 := 0xFF#64 }
    rt := tput s.rt 0 (word (ownBase + 2 ^ 56), word (ownBase + 0xF0000 + 2 ^ 56 + 2 ^ 57 + 2 ^ 58 + 2 ^ 61))
    slots := [(sid, { slotAt s sid with
      st := .ready, pc := ownBase, xseq := x, hold := false, tried := 0, readyAt := 0, fwd := [], busy := [], frozen := false })]
    mem := mwrite s.mem (spKey 0 0) (placedBytes nbits w)
    olds := []
    file := s.file.filter fun p => p.2 != 8 }

end Sys2Proof.Machine
end

