-- ==== Sys2Proof/Machine/Step.lean ====
section
/-!
DEFINITION. One step of the machine: the work that Sched chooses, performed by the meaning of its instruction or event.
-/

namespace Sys2Proof.Machine

/-- One step: an event, an instruction of one strand, or the passage of a cycle. -/
def step (s : State) : Host.Outcome State Fault Refusal :=
  match nextWork s with
  | (some i, s') => exec i s'
  | (none, s') => .next s'

/-- `s` with one instruction where the next step fetches it (log 7). -/
def State.withFetchWord (s : State) (nbits w : Nat) : State := placeWord s nbits w

end Sys2Proof.Machine
end

