-- ==== Sys2Proof/Safety.lean ====
section
/-!
DEFINITION. What every state of a run is to satisfy, what counts as a step that does not stop, and the terms in which the
statements are written: when an instruction passes its checks, and what one instruction leaves as it was.
-/

namespace Sys2Proof.Machine

/-- The two byte stores keep their canonical form: addresses rise and no listed byte is zero. -/
def State.memOk (s : State) : Prop := Memory.wf s.mem = true ∧ Memory.wf s.ssd = true

/-- A step that neither faults nor refuses. -/
def runsOn (s : State) : Prop := ∃ t, step s = .next t

/-- The instruction at issue passes steps 9 and 10 of R204, and its operands A and B are read, with the values `a` and `b`;
`t` is the state after the reads. The reads take every form of a G field. -/
def readsAB (cls : Cls) (o : Ops) (s : State) (a b : Word) (t : State) : Prop :=
  classTrap cls s = none ∧ ∃ s1, srcA o (atIssue s) = .ok (a, s1) ∧ srcB o s1 = .ok (b, t)

/-- The same where only A is read. -/
def readsA (cls : Cls) (o : Ops) (s : State) (a : Word) (t : State) : Prop :=
  classTrap cls s = none ∧ srcA o (atIssue s) = .ok (a, t)

/-- The same where only B is read. -/
def readsB (cls : Cls) (o : Ops) (s : State) (b : Word) (t : State) : Prop :=
  classTrap cls s = none ∧ srcB o (atIssue s) = .ok (b, t)

/-- The destination meets its wait: no pending result, in the physical file, or a handle with enough free slots. -/
def dstFree (o : Ops) (t : State) : Prop := dstReady (dstN o) (dstW o) t = .ok ((), t)

/-- The end of an instruction with a result: it reaches the destination at its latency, the last uses are marked, and the
strand goes on. -/
def withResult (o : Ops) (lat : Nat) (x : Word) (t : State) : State :=
  completeIssue (deliver (dstRid o) lat x (markLast o t))

/-- No enabled breakpoint of the strand's partition stands at the instruction at issue (R460). -/
def noBreak (s : State) : Prop :=
  (partAt s (pkeyOf s (cidOf s.cur.sid))).bps.any (fun b => wfield b 0 1 == 1 && wfield b 1 55 * 2 == s.cur.ipc) = false

/-- The trap registers of a strand, with HBUMP and HLIM (R35). -/
def trapRegs (x : Slot) : Nat × Word × Word × Nat × Nat × Nat := (x.tcause, x.tvalue, x.tval2, x.tepc, x.hbump, x.hlim)

/-- What an instruction without a destination in memory or in a special register leaves as it was: every byte of memory; every
k register, handle, vector register, accumulator and macro; every trap register; every field of every core but the
sequencers' own marks; every tile and partition. -/
def keepsRest (s t : State) : Prop :=
  (∀ a, mget t.mem a = mget s.mem a)
  ∧ t.k = s.k ∧ t.q = s.q ∧ t.v = s.v ∧ t.acc = s.acc ∧ t.macros = s.macros ∧ t.tiles = s.tiles ∧ t.parts = s.parts
  ∧ (∀ sid, trapRegs (slotAt t sid) = trapRegs (slotAt s sid))
  ∧ ∀ cid, coreAt t cid = { coreAt s cid with
      lastA := (coreAt t cid).lastA, lastX := (coreAt t cid).lastX
      usedA := (coreAt t cid).usedA, usedX := (coreAt t cid).usedX }

/-- Every g register but register `r` of strand `sid` is as it was. -/
def keepsG (s t : State) (sid r : Nat) : Prop := ∀ i j, j < 64 → ¬ (i = sid ∧ j = r) → gGet t i j = gGet s i j

/-- A RAW pointer whose sum with an offset is the address `ea`, inside the address space and aligned to `n` (R57, R58, R84). -/
def rawAt (p : Word) (off : Int) (n ea : Nat) : Prop :=
  wfield p 56 8 = 0 ∧ (ea : Int) = (wfield p 0 56 : Nat) + off ∧ ea < 2 ^ 56 ∧ ea % n = 0

/-- The checks of steps 3 to 9 of R92 pass for `n` bytes at `ea`. -/
def rangeOk (s : State) (ea n : Nat) (rd wr : Bool) : Prop :=
  ∃ e, rangeCheck s (cidOf s.cur.sid) (slotAt s s.cur.sid).team (userMode s s.cur.sid) ea n rd wr = .ok e

/-- The access finds the request slot and remote-store entry it needs, and no LDACQ of its strand is still to be performed
(R236, R396, R142). -/
def gateFree (s : State) (ea : Nat) (remote : Bool) : Prop := gateAt ea remote s = .ok ((), s)

/-- An access sent on its way with an answer to the instruction's destination, which is pending until then (R213, R236). -/
def sentFor (o : Ops) (a : Acc) (s : State) : State :=
  let t := (sendAcc a s).2
  if dstRid o % 128 = 0 then t else addBusy s.cur.sid (dstRid o % 128) t

/-- The access may be performed now: it is not performed yet, no earlier access of its core to its bank and no header before it is
still to be performed, no router refuses it, and it has its turn at the bank or engine (R137, R278, R428, R254, R405). -/
def atItsBank (s : State) (id : Nat) (a : Acc) (key : Nat) : Prop :=
  tfind s.accs id = some a ∧ a.key = some key ∧ a.performed = false ∧ bankBlocked s id a = false ∧ headerFirst s a = false
  ∧ accRefused s a key = false ∧ notItsTurn s id a = false

/-- The access lies in a scratchpad, or in a page whose D is set already, so that its write sets no D (R409). -/
def leafDirty (s : State) (a : Acc) : Prop := a.dev = true → wfield (leafOf s a.dpkg a.va) 4 1 = 1

/-- Every byte outside `[key, key + n)` is as it was. -/
def keepsOutside (s t : State) (key n : Nat) : Prop := ∀ a, a < key ∨ key + n ≤ a → mget t.mem a = mget s.mem a

/-- An event is on the agenda. -/
def due (t : State) (c : Nat) (i : Instr) (a : EvArg) : Prop := (c, i, a) ∈ t.agenda

/-- The gang and its number on a core. -/
def gangHere (s : State) (cid gid : Nat) (g : Gang) : Prop := (coreAt s cid).gang = some gid ∧ tfind s.gangs gid = some g

/-- The trap that an instruction takes at its own address, with no other effect (R389). -/
def trapsAt (s : State) (cause : Nat) (tv tv2 : Word) : State :=
  recordTrap s.cur.sid cause tv tv2 s.cur.ipc (markTrap s.cur.sid s)


/-- The k register `n` is read at issue with the value `k`. -/
def readsK (n : Nat) (s : State) (k : Word) : Prop := srcK n (atIssue s) = .ok (k, atIssue s)

/-- The K destination meets its wait. -/
def dstFreeK (o : Ops) (t : State) : Prop := dstReadyK (kDst o) t = .ok ((), t)

/-- The destination that the table of R275 puts in A, with EXR or without, meets its wait: a K register, or one of a G field. -/
def dstFreeKA (o : Ops) (t : State) : Prop := dstReadyK (kDstA o) t = .ok ((), t)
def dstFreeA (o : Ops) (t : State) : Prop := dstReady o.a.toNat (wA o) t = .ok ((), t)

/-- The reference in B passes the checks and rights of a heap access (R160, R163) in the state `t` at issue: its value and the words
of its heap entry. -/
def heapReady (o : Ops) (off : Int) (rd wr store : Bool) (k : Word) (w : List Word) (t : State) : Prop :=
  objectM (o.b.toNat % 16) off rd wr store t = .ok ((k, w), t)

/-- The reference has the good colour of its heap: the access takes the fast path (R160). -/
def goodColour (s : State) (k : Word) : Prop := wfield k 62 2 = coreGood s (cidOf s.cur.sid) (refHeap k)

/-- Every page of some spans is there, so that the relocation engine goes on at once (R422). -/
def pagesIn (s : State) (c : Cmd) (spans : List (Nat × Nat)) : Prop :=
  ∀ p, p ∈ spans → (engCheck s (rOwn c) p.1 (rTen s c) p.2).2 ≠ .wait

/-- The state in which the strand chosen fetches: the accesses released to it are waited for no more, and an instruction abandoned under way
that is not the one it issues now is given up (R374). -/
def issueState (sid : Nat) (s : State) : State := redoGone sid (stepTaken sid s)

/-- A unit's own access of `n` bytes finds every page (R411, R422). -/
def engIn (s : State) (own va tenant n : Nat) : Prop := (engCheck s own va tenant n).2 ≠ .wait

/-- The strand of the instruction at issue has sent its question to the Verger and is held for the answer (R268). -/
def asksVerger (s z : State) (op : GOp) (gid : Word) (rid : Nat) (ws : List Word) : Prop :=
  let sid := s.cur.sid
  due z (s.now + leg s (coreEnd (cidOf sid)) (vergerEnd gid) 15 35) .guardRequest
    { p := .gask { op := op, guard := gid, cid := cidOf sid, sid := sid, gen := (slotAt s sid).gen, id := s.nextId, rid := rid
                   issued := s.now, words := ws } }
  ∧ (slotAt z sid).hold = true ∧ (slotAt z sid).st = .waiting ∧ (slotAt z sid).heldBy = s.nextId
  ∧ z.guards = s.guards ∧ z.binds = s.binds ∧ z.rt = s.rt ∧ z.mem = s.mem ∧ z.g = s.g

/-- A strand's question is in hand at the Verger in its turn, and its strand waits for the answer (R125). -/
def vergersTurn (s : State) (q : GAsk) : Prop :=
  s.ev.p = .gask q ∧ q.id ≠ 0 ∧ homeDead s q.guard = false ∧ requestAhead s q.cid q.guard q.issued = false
  ∧ releaseAhead s q.cid q.guard q.issued 0 = false ∧ (q.op ≠ .new → vergerBusy s q.guard q.cid = false)
  ∧ (askPages s q).2 ≠ .wait ∧ heldOn s q.sid q.gen q.id = true ∧ (slotAt s q.sid).st ≠ .swapped

/-- The counter operation in hand, of a core, comes next: no earlier one of the core is under way, and none of a lower core reaches the
counter in this cycle (R339). -/
def counterTurn (s : State) (cid : Nat) : Prop :=
  ∀ x c, x ∈ s.agenda → counterCore x.2.1 x.2.2 = some c →
    ¬ (c = cid ∧ x.2.2.w2.toNat < s.ev.w2.toNat) ∧ ¬ (x.1 ≤ s.now ∧ c < cid ∧ x.2.2.a = s.ev.a ∧ x.2.2.b = s.ev.b)

/-- The strand issues its next instruction in that cycle. -/
def issuesAt (t : State) (q : GAsk) (at' : Nat) : Prop :=
  (slotAt t q.sid).st = .ready ∧ (slotAt t q.sid).hold = false ∧ (slotAt t q.sid).readyAt = at'

/-- The Verger refuses: the trap leaves for the strand, and nothing else changes that the strand can see. -/
def vergerTraps (s : State) (q : GAsk) (cause : Nat) (tv tv2 : Word) : Prop :=
  ∃ t, exec .guardRequest s = .next t ∧ due t (s.now + askBack s q) .guardRequest { p := .gtrap q cause tv tv2 }
    ∧ t.binds = s.binds ∧ t.rt = s.rt ∧ t.mem = s.mem ∧ t.g = s.g ∧ t.slots = s.slots
end Sys2Proof.Machine
end

