-- ==== Sys2Proof/Certificates/Slice0/Obligations.lean ====
section
/-!
DEFINITION. The statements for the provers: one definition of a proposition each. Their shared terms stand in
Sys2Proof/Safety.lean. OBLIGATIONS.json lists them.
-/

open Sys2Proof Sys2Proof.Machine

/-! ### The step, decoding, reset -/

/-- What a step performs. A core whose physical file is overfull evicts a register first (R37). Then the events that are due: a gang switch
at its stamp first (R400, R406), an arriving XPUT before the others (R43), SC accesses before the rest (R144), home atomic engines and
watches after the stores (R254, R255), else in listed order. With none due, one strand's next instruction: one abandoned under way is waited
for again (R374, R400); else the one that its words decode to (R190, R204), or that its leader forwarded (R46), with the instruction
register set. Where no strand can try, the groups' choices and the barriers' time-outs, then a cycle passes. The choice of the strand, and
the listed order, are the model's (log 3). -/
def Obligations.StepRunsTheDecodedInstruction : Prop :=
  (∀ s k, overfull s = some k → step s = exec .registerEvict { s with ev := { a := k / 128, b := k % 128 } })
  ∧ ∀ s, overfull s = none →
  (∀ i a r, dueEvent s = some ((i, a), r) → step s = exec i { s with agenda := r, ev := a })
  ∧ (∀ e, takeEvent s.now stampFirst s.agenda = some e → dueEvent s = some e)
  ∧ (takeEvent s.now stampFirst s.agenda = none → ∀ e, takeEvent s.now arrivalFirst s.agenda = some e → dueEvent s = some e)
  ∧ (takeEvent s.now stampFirst s.agenda = none → takeEvent s.now arrivalFirst s.agenda = none →
      ∀ e, takeEvent s.now scFirst s.agenda = some e → dueEvent s = some e)
  ∧ (takeEvent s.now stampFirst s.agenda = none → takeEvent s.now arrivalFirst s.agenda = none → takeEvent s.now scFirst s.agenda = none →
      takeEvent s.now (fun i => !comesLast i && !afterStores i) s.agenda = none → dueEvent s = takeEvent s.now afterStores s.agenda)
  ∧ (∀ sid r, dueEvent s = none → choose s s.slots = some sid → redoNow (stepTaken sid s) sid = some r →
      step s = .next (redoIssue sid r (stepTaken sid s)))
  ∧ (∀ sid ws i, dueEvent s = none → choose s s.slots = some sid → redoNow (stepTaken sid s) sid = none →
      let u := issueState sid s
      (slotAt u sid).fwd = [] → (slotAt u sid).pc % 2 = 0 → fetchWords u sid 5 (slotAt u sid).pc = .words ws →
      decodeWords (accepted u (pkgOfC (cidOf sid))) ws = .ok i →
      step s = exec i { u with cur := { sid := sid, ipc := (slotAt u sid).pc, words := ws } })
  ∧ (∀ sid f r i, dueEvent s = none → choose s s.slots = some sid → redoNow (stepTaken sid s) sid = none →
      let u := issueState sid s
      (slotAt u sid).fwd = f :: r → decodeWords (accepted u (pkgOfC (cidOf sid))) f.words = .ok i →
      step s = exec i { u with cur := { sid := sid, ipc := (slotAt u sid).pc, words := f.words } })
  ∧ (∀ i a r, dueEvent s = none → choose s s.slots = none → lateEvent s = some ((i, a), r) →
      step s = exec i { s with agenda := r, ev := a })
  ∧ (dueEvent s = none → choose s s.slots = none → lateEvent s = none → step s = .next { s with now := s.now + 1 })

/-- Words that no instruction accepts trap precisely with ILLEGAL: TVALUE the first four words, TVAL2 the reason, TEPC the
instruction's address; a handle in a field that refuses it traps with QUEUE_KIND (R204, R99). An odd PC traps with ALIGN
(R190). -/
def Obligations.RefusedWordsTrap : Prop :=
  (∀ s sid, overfull s = none → dueEvent s = none → choose s s.slots = some sid → redoNow (stepTaken sid s) sid = none →
      let u := issueState sid s
      let x := slotAt u sid
      (∀ ws n, x.fwd = [] → x.pc % 2 = 0 → fetchWords u sid 5 x.pc = .words ws →
          decodeWords (accepted u (pkgOfC (cidOf sid))) ws = .error (.illegal n) → n ≠ 1 →
          let s' := { u with cur := { sid := sid, ipc := x.pc, words := ws } }
          step s = .next (recordTrap sid 1 (firstFour ws) (word n) s'.cur.ipc (markTrap sid s')))
      ∧ (∀ ws n, x.fwd = [] → x.pc % 2 = 0 → fetchWords u sid 5 x.pc = .words ws →
          decodeWords (accepted u (pkgOfC (cidOf sid))) ws = .error (.queueKind n) →
          let s' := { u with cur := { sid := sid, ipc := x.pc, words := ws } }
          step s = .next (recordTrap sid 0x0E (word n) 0#64 s'.cur.ipc (markTrap sid s')))
      ∧ (x.fwd = [] → x.pc % 2 = 1 → step s = .next (recordTrap sid 5 (word x.pc) 0#64 x.pc u)))
  ∧ (∀ o s, exec (.udf o) s = .next (trapsAt s 1 (firstFour s.cur.words) 1#64))

/-- Decoding gives back every well-formed instruction from the words of its encoding: no field of an encoding is dropped. -/
def Obligations.DecodeOfEncodeIsTheInstruction : Prop :=
  ∀ i : Instr, i.wf = true → decode (fun _ => true) (encode i) = some i

/-- Words of the spec's worked encodings decode to the instructions they are written for. -/
def Obligations.WorkedEncodingsDecode : Prop :=
  decode (fun _ => true) [0x094E] = some (.add { a := 5, b := 7 })
  ∧ decode (fun _ => true) [0xFA50, 0x098F] = some (.add { a := 6, b := 7, c := 5, l := true, exr := true })
  ∧ decode (fun _ => true) [0x597F] = some (.addi { a := 5, lo := 63 })
  ∧ decode (fun _ => true) [0xF803, 0xCA48] = some (.ldd { a := 9, b := 4, xi := [3] })
  ∧ decode (fun _ => true) [0xF9FA, 0x88C0] = some (.bne { a := 3, b := 0, xi := [0x1FA] })
  ∧ decode (fun _ => true) [0xFC01, 0xFA50, 0x118E] = some (.div_ { a := 6, b := 7, c := 5, exr := true })
  ∧ decode (fun _ => true) [0xFC07, 0x1801] = some (.svc { lo := 1 })
  ∧ decode (fun _ => true) [0x0000] = some (.udf {})

/-- Reset: every strand's registers are zero and its slot is FREE, the loop counters are inactive (R229), STRICT is 0, SENDTMO
is 256 (R368), no core is halted and every byte of memory reads as zero; what memory holds at power-on, and the registers to
which the spec gives no reset value, are the model's choice (log 2, log 8). -/
def Obligations.ResetState : Prop :=
  (∀ sid r, gGet State.reset sid r = 0#64)
  ∧ (∀ sid r, kGet State.reset sid r = 0#64)
  ∧ (∀ sid, (slotAt State.reset sid).st = .free ∧ lcCur (slotAt State.reset sid).lc0 = 0 ∧ lcCur (slotAt State.reset sid).lc1 = 0)
  ∧ (∀ cid, (coreAt State.reset cid).strict = false ∧ (coreAt State.reset cid).sendtmo = 256
      ∧ (coreAt State.reset cid).swapthr = 50000 ∧ (coreAt State.reset cid).halted = false)
  ∧ (∀ a, mget State.reset.mem a = 0#8)
  ∧ State.reset.memOk

/-- Every step keeps both byte stores in their canonical form, so that equal memories stay equal data. -/
def Obligations.StepKeepsMemoryCanonical : Prop :=
  ∀ s t, s.memOk → step s = .next t → t.memOk

/-! ### Traps -/

/-- The sequencer, slot and mode checks of R30 and steps 9 and 10 of R204: SEQ_CLASS (2) for an instruction of class A on the X
sequencer, of class X elsewhere than in a helper of the X sequencer, of class C or S in a helper; PRIV (3) for an instruction of
class S in slot 0 in user mode; classes B and the calls of a supervisor are accepted everywhere. -/
def Obligations.ClassChecksOfEverySequencer : Prop :=
  (∀ s, (slotAt s s.cur.sid).xseq = true → classTrap .a s = some 2)
  ∧ (∀ s, (slotAt s s.cur.sid).xseq = false → classTrap .a s = none)
  ∧ (∀ s, (slotAt s s.cur.sid).xseq = false → classTrap .x s = some 2)
  ∧ (∀ s, (slotAt s s.cur.sid).xseq = true → slotNo s.cur.sid ≠ 0 → classTrap .x s = none)
  ∧ (∀ s, slotNo s.cur.sid ≠ 0 → classTrap .c s = some 2 ∧ classTrap .s s = some 2)
  ∧ (∀ s, slotNo s.cur.sid = 0 → classTrap .c s = none)
  ∧ (∀ s, slotNo s.cur.sid = 0 → (coreAt s (cidOf s.cur.sid)).modeS = false → classTrap .s s = some 3)
  ∧ (∀ s, slotNo s.cur.sid = 0 → (coreAt s (cidOf s.cur.sid)).modeS = true → classTrap .s s = none)
  ∧ (∀ s, classTrap .b s = none)
  ∧ (∀ cls c s body, classTrap cls s = some c →
      issue cls s body = .next (trapsAt s c 0#64 0#64))

/-- Taking a trap (R374): slot 0 takes the lowest pending slot. TEPC(0) takes the PC of slot 0 unless slot 0 trapped itself;
TSTAT takes the slot, the mode before entry and INH = 1; the slot's PEND bit clears; the mode is supervisor; the PC is TVEC and the
first handler instruction issues 6 cycles later. While INH is 1, and in a gang switch (R406), nothing is taken; in the cycles of a TRET the
trap waits for the cycle after slot 0 goes on (R379). -/
def Obligations.TrapEntry : Prop :=
  (∀ s cid n, (coreAt s cid).inh = false → (slotAt s (cid * 16)).st ≠ .free → (coreAt s cid).wfe = none →
      switchHeld s cid = false → (coreAt s cid).retAt ≤ s.now → lowest (coreAt s cid).pend = some n →
      let t := takeTrap cid s
      (slotAt t (cid * 16)).pc = (coreAt s cid).tvec
      ∧ (slotAt t (cid * 16)).tepc = (if n = 0 then (slotAt s (cid * 16)).tepc else (slotAt s (cid * 16)).pc)
      ∧ (slotAt t (cid * 16)).readyAt = s.now + 6
      ∧ (coreAt t cid).tslot = n ∧ (coreAt t cid).pmode = (coreAt s cid).modeS ∧ (coreAt t cid).inh = true
      ∧ (coreAt t cid).modeS = true ∧ (coreAt t cid).pend = (coreAt s cid).pend.filter (· != n)
      ∧ (∀ m ∈ (coreAt s cid).pend, n ≤ m)
      ∧ (∀ a, mget t.mem a = mget s.mem a) ∧ t.g = s.g ∧ t.k = s.k
      ∧ (∀ c, c ≠ cid → coreAt t c = coreAt s c) ∧ ∀ i, i ≠ cid * 16 → slotAt t i = slotAt s i)
  ∧ (∀ s cid, (coreAt s cid).inh = true → takeTrap cid s = s ∧ exec .takeTrap { s with ev := { a := cid } } = .next { s with ev := { a := cid } })
  ∧ (∀ s cid, switchHeld s cid = true → takeTrap cid s = s)
  ∧ (∀ s cid n, (coreAt s cid).inh = false → (slotAt s (cid * 16)).st ≠ .free → switchHeld s cid = false → s.now < (coreAt s cid).retAt →
      lowest (coreAt s cid).pend = some n → takeTrap cid s = post (coreAt s cid).retAt .takeTrap { a := cid } s)
  ∧ (∀ s cid, s.ev.a = cid → s.ev.flag = false → exec .takeTrap s = .next (takeTrap cid s))

/-- A trap is recorded in the strand's own trap registers and pends its slot (R374, R389); the trapping instruction has no other effect on
registers or memory. A helper's trap while INH is 1 stays pending, but for one in the cycle of the entry of a higher slot, whose place it
takes (R387). A strand that a kill has stopped traps no more (R383). -/
def Obligations.TrapRecord : Prop :=
  ∀ s sid cause tv tv2 epc, slotNo sid ≠ 0 → (coreAt s (cidOf sid)).wfe = none →
    ((slotAt s sid).killed = true → (slotAt (recordTrap sid cause tv tv2 epc s) sid).st = (slotAt s sid).st
      ∧ (recordTrap sid cause tv tv2 epc s).cores = s.cores) ∧
    ((slotAt s sid).killed = false →
    let t := recordTrap sid cause tv tv2 epc s
    let x := slotAt t sid
    x.st = .trapped ∧ x.tcause = cause ∧ x.tvalue = tv ∧ x.tval2 = tv2 ∧ x.tepc = epc
    ∧ (∀ a, mget t.mem a = mget s.mem a) ∧ t.g = s.g ∧ t.k = s.k
    ∧ ((coreAt s (cidOf sid)).inh = true → (coreAt t (cidOf sid)).modeS = (coreAt s (cidOf sid)).modeS
        ∧ (if (coreAt s (cidOf sid)).tookAt = s.now + 1 ∧ slotNo sid < (coreAt s (cidOf sid)).tslot then
            (coreAt t (cidOf sid)).tslot = slotNo sid ∧ (coreAt s (cidOf sid)).tslot ∈ (coreAt t (cidOf sid)).pend
          else (coreAt t (cidOf sid)).tslot = (coreAt s (cidOf sid)).tslot ∧ slotNo sid ∈ (coreAt t (cidOf sid)).pend)))

/-- A trap of slot 0 while INH is 1 is a double trap: the core is HALTED, DBL is set, and slot 0's trap registers hold the second
trap (R375). -/
def Obligations.DoubleTrapHalts : Prop :=
  ∀ s sid cause tv tv2 epc, slotNo sid = 0 → (coreAt s (cidOf sid)).inh = true → (slotAt s sid).killed = false →
    let t := recordTrap sid cause tv tv2 epc s
    (coreAt t (cidOf sid)).halted = true ∧ (coreAt t (cidOf sid)).dbl = true
    ∧ (slotAt t sid).tcause = cause ∧ (slotAt t sid).tvalue = tv ∧ (slotAt t sid).tval2 = tv2 ∧ (slotAt t sid).tepc = epc
    ∧ (slotAt t sid).st = .trapped

/-! ### Operands and completion -/

/-- A source operand of a G field. g0 is zero (R35); a register with a result to come waits (R213); a parked one is fetched (R39);
a clear presence bit waits (R42); a dead one traps with DEADREG and the operand number under STRICT, and otherwise answers a free
value (R41); a live one answers its value. -/
def Obligations.RegisterOperandsRead : Prop :=
  (∀ s w pk, src 0 w pk s = .ok (0#64, s))
  ∧ ∀ s n w pk, n < 64 → ¬ (32 ≤ n ∧ n < 48) → n ≠ 0 →
    let x := slotAt s s.cur.sid
    let r := regOf n
    (r ∈ x.busy → src n w pk s = .error .wait)
    ∧ (r ∉ x.busy → tget s.place (s.cur.sid * 128 + r) .phys ≠ .phys → src n w pk s = .error (.fetchReg r))
    ∧ (r ∉ x.busy → tget s.place (s.cur.sid * 128 + r) .phys = .phys →
        (x.pres.toNat.testBit r = false → src n w pk s = .error (.waitReg r))
        ∧ (x.pres.toNat.testBit r = true → x.live.toNat.testBit r = true → src n w pk s = .ok (gGet s s.cur.sid r, s))
        ∧ (x.pres.toNat.testBit r = true → x.live.toNat.testBit r = false → (coreAt s (cidOf s.cur.sid)).strict = true →
            src n w pk s = .error (.trap 4 (word n) 0#64))
        ∧ (x.pres.toNat.testBit r = true → x.live.toNat.testBit r = false → (coreAt s (cidOf s.cur.sid)).strict = false →
            src n w pk s = .ok (Config.freeWord s.free, { s with free := s.free + 1 })))

/-- A source operand that names a handle (R97 to R99): a kind that cannot be read traps with QUEUE_KIND and the handle number; the wait
count above the capacity traps with TVAL2 the count, with or without the peek flag; the peek flag answers the filled slots, without a wait,
at most 2^32 - 1; with fewer than w slots filled the instruction waits; a local or outbound ring then answers slot RDC + w - 1. -/
def Obligations.HandleOperandsRead : Prop :=
  ∀ s n w, 32 ≤ n → n < 48 → 80 + (n - 32) ∉ (slotAt s s.cur.sid).busy →
    let h := hGet s s.cur.sid (n - 32)
    (kindSrc h.kind = false → ∀ pk, src n w pk s = .error (.trap 0x0E (word (n - 32)) 0#64))
    ∧ ((h.kind = 1 ∨ h.kind = 4 ∨ h.kind = 5 ∨ h.kind = 7) →
        (hCap h < w → ∀ pk, src n w pk s = .error (.trap 0x0E (word (n - 32)) (word w)))
        ∧ (w ≤ hCap h → src n w true s = .ok (word (min (hFilled s s.cur.sid h) (2 ^ 32 - 1)), s))
        ∧ (w ≤ hCap h → hFilled s s.cur.sid h < w → src n w false s = .error .wait))
    ∧ ((h.kind = 1 ∨ h.kind = 4) → w ≤ hCap h → w ≤ hFilled s s.cur.sid h →
        src n w false s = .ok (mem64 s (ringSlotKey s.cur.sid h (ringRd s s.cur.sid h + w - 1)), s))

/-- An instruction that completes goes on at the transfer's target, or after its words with the loop decision of R231, modulo
2^56; the strand is READY, but for a YIELD that waits (R317), and issues again after the instruction's cycles. -/
def Obligations.CompletionAdvancesThePc : Prop :=
  ∀ s,
    let x := slotAt s s.cur.sid
    let y := slotAt (completeIssue s) s.cur.sid
    let next := (s.cur.ipc + 2 * s.cur.words.length) % 2 ^ 56
    let e0 := lcCur x.lc0 ≠ 0 ∧ lbEnd x.lb0 = s.cur.ipc
    let e1 := lcCur x.lc1 ≠ 0 ∧ lbEnd x.lb1 = s.cur.ipc
    y.st = (if s.cur.idle = true then .waiting else .ready) ∧ y.readyAt = s.now + s.cur.cost
    ∧ (∀ t, s.cur.xfer = some t → y.pc = t % 2 ^ 56 ∧ y.lc0 = x.lc0 ∧ y.lc1 = x.lc1)
    ∧ (s.cur.xfer = none → ¬ e0 → ¬ e1 → y.pc = next ∧ y.lc0 = x.lc0 ∧ y.lc1 = x.lc1)
    ∧ (s.cur.xfer = none → e0 → lcCur x.lc0 ≠ 1 →
        y.pc = lbStart x.lb0 ∧ lcCur y.lc0 = lcCur x.lc0 - 1 ∧ lcInit y.lc0 = lcInit x.lc0 ∧ y.lc1 = x.lc1)
    ∧ (s.cur.xfer = none → e0 → lcCur x.lc0 = 1 → ¬ e1 → y.pc = next ∧ lcCur y.lc0 = 0 ∧ y.lc1 = x.lc1)
    ∧ (s.cur.xfer = none → e0 → lcCur x.lc0 = 1 → e1 → lcCur x.lc1 ≠ 1 →
        y.pc = lbStart x.lb1 ∧ lcCur y.lc0 = lcInit x.lc0 ∧ lcCur y.lc1 = lcCur x.lc1 - 1)
    ∧ (s.cur.xfer = none → e0 → lcCur x.lc0 = 1 → e1 → lcCur x.lc1 = 1 → y.pc = next ∧ y.lc0 = 0#64 ∧ lcCur y.lc1 = 0)
    ∧ (s.cur.xfer = none → ¬ e0 → e1 → lcCur x.lc1 ≠ 1 →
        y.pc = lbStart x.lb1 ∧ y.lc0 = x.lc0 ∧ lcCur y.lc1 = lcCur x.lc1 - 1)
    ∧ (s.cur.xfer = none → ¬ e0 → e1 → lcCur x.lc1 = 1 → y.pc = next ∧ y.lc0 = 0#64 ∧ lcCur y.lc1 = 0)

/-- Results and marks (R35, R40, R42, R213): a write of a g register sets value, presence and liveness; a write of g0 changes nothing; a
result of latency 1 stands at once, a later one in an event that writes it at its cycle, until which the register is pending;
RESULT_WRITEBACK then writes it, in the strand's frame too where the register is parked there (R38); after the strand's STOP it reaches the
register of the FREE slot (the model's reading, log 68). -/
def Obligations.ResultsReachTheirRegister : Prop :=
  (∀ s sid x, gSet sid 0 x s = s)
  ∧ (∀ s sid r x, 0 < r → r < 64 →
      gGet (gSet sid r x s) sid r = x
      ∧ (slotAt (gSet sid r x s) sid).pres.toNat.testBit r = true
      ∧ (slotAt (gSet sid r x s) sid).live.toNat.testBit r = true
      ∧ keepsG s (gSet sid r x s) sid r ∧ (∀ a, mget (gSet sid r x s).mem a = mget s.mem a))
  ∧ (∀ s r lat x, 0 < r → r < 64 → lat ≤ 1 → gGet (deliver r lat x s) s.cur.sid r = x)
  ∧ (∀ s r lat x, 0 < r → r < 64 → 1 < lat →
      (s.now + lat, Instr.resultWriteback, ({ a := s.cur.sid, b := (slotAt s s.cur.sid).gen, c := r, w := x } : EvArg))
        ∈ (deliver r lat x s).agenda
      ∧ r ∈ (slotAt (deliver r lat x s) s.cur.sid).busy
      ∧ gGet (deliver r lat x s) s.cur.sid r = gGet s s.cur.sid r)
  ∧ (∀ s, (slotAt s s.ev.a).gen = s.ev.b → (slotAt s s.ev.a).st ≠ .free → (slotAt s s.ev.a).st ≠ .swapped →
      0 < s.ev.c → s.ev.c < 64 →
      ∃ t, exec .resultWriteback s = .next t ∧ gGet t s.ev.a s.ev.c = s.ev.w ∧ keepsG s t s.ev.a s.ev.c
        ∧ keepsOutside s t (frameKey s.ev.a) 0x400
        ∧ (tget s.place (fileKey s.ev.a s.ev.c) .phys ≠ .frame → ∀ a, mget t.mem a = mget s.mem a))
  ∧ (∀ s, freedLife s s.ev.a s.ev.b = true → 0 < s.ev.c → s.ev.c < 64 →
      ∃ t, exec .resultWriteback s = .next t ∧ gGet t s.ev.a s.ev.c = s.ev.w ∧ keepsG s t s.ev.a s.ev.c ∧ t.slots = s.slots
        ∧ t.mem = s.mem)
/-! ### Scalar instructions -/

/-- The instructions with two sources and one result (R216, R217, R221), each with its result and its latency (R215). -/
def twoSourceTable : List ((Ops → Instr) × (Word → Word → Word) × (Word → Word → Nat)) :=
  [ (Instr.add, fun a b => a + b, fun _ _ => 1)
  , (Instr.sub_, fun a b => a - b, fun _ _ => 1)
  , (Instr.and_, fun a b => a &&& b, fun _ _ => 1)
  , (Instr.or_, fun a b => a ||| b, fun _ _ => 1)
  , (Instr.xor_, fun a b => a ^^^ b, fun _ _ => 1)
  , (Instr.shl, fun a b => a <<< (b.toNat % 64), fun _ _ => 1)
  , (Instr.shr, fun a b => a >>> (b.toNat % 64), fun _ _ => 1)
  , (Instr.sra, fun a b => a.sshiftRight (b.toNat % 64), fun _ _ => 1)
  , (Instr.mul_, fun a b => word (a.toNat * b.toNat), fun _ _ => 3)
  , (Instr.slt, fun a b => if a.toInt < b.toInt then 1#64 else 0#64, fun _ _ => 1)
  , (Instr.sltu, fun a b => if a.toNat < b.toNat then 1#64 else 0#64, fun _ _ => 1)
  , (Instr.seq_, fun a b => if a = b then 1#64 else 0#64, fun _ _ => 1)
  , (Instr.mulh, fun a b => BitVec.ofInt 64 (a.toInt * b.toInt / 2 ^ 64), fun _ _ => 3)
  , (Instr.mulhu, fun a b => word (a.toNat * b.toNat / 2 ^ 64), fun _ _ => 3)
  , (Instr.min_, fun a b => if a.toInt ≤ b.toInt then a else b, fun _ _ => 1)
  , (Instr.max_, fun a b => if a.toInt ≥ b.toInt then a else b, fun _ _ => 1)
  , (Instr.minu, fun a b => if a.toNat ≤ b.toNat then a else b, fun _ _ => 1)
  , (Instr.maxu, fun a b => if a.toNat ≥ b.toNat then a else b, fun _ _ => 1)
  , (Instr.fadd, fun a b => ofLane (Num.fadd (lo32 a) (lo32 b)), fun _ _ => 4)
  , (Instr.fmul, fun a b => ofLane (Num.fmul (lo32 a) (lo32 b)), fun _ _ => 4) ]

/-- Every integer and FP32 instruction with two sources completes with its result, for every operand form. -/
def Obligations.TwoSourceInstructionsWriteTheirResult : Prop :=
  ∀ row ∈ twoSourceTable, ∀ o s a b t, readsAB .b o s a b t → dstFree o t →
    exec (row.1 o) s = .next (withResult o (row.2.2 a b) (row.2.1 a b) t)

/-- DIV, DIVU, REM, REMU (R217, R215): a zero divisor answers all ones and the dividend; the signed overflow answers the dividend and
zero; otherwise the quotient truncates towards zero and the remainder is a - q * b modulo 2^64. The latency is 18, plus a cycle for
each four significant bits of the dividend's magnitude. -/
def Obligations.DivisionResults : Prop :=
  ∀ o s a b t, readsAB .b o s a b t → dstFree o t →
    let lat (m : Nat) : Nat := if b = 0#64 then 18 else 18 + ((if m = 0 then 0 else m.log2 + 1) + 3) / 4
    (b = 0#64 →
      exec (.div_ o) s = .next (withResult o 18 (BitVec.allOnes 64) t) ∧ exec (.divu o) s = .next (withResult o 18 (BitVec.allOnes 64) t)
      ∧ exec (.rem_ o) s = .next (withResult o 18 a t) ∧ exec (.remu o) s = .next (withResult o 18 a t))
    ∧ (b ≠ 0#64 →
      exec (.divu o) s = .next (withResult o (lat a.toNat) (word (a.toNat / b.toNat)) t)
      ∧ exec (.remu o) s = .next (withResult o (lat a.toNat) (a - word (a.toNat / b.toNat) * b) t))
    ∧ (a = 0x8000000000000000#64 → b = BitVec.allOnes 64 →
      exec (.div_ o) s = .next (withResult o 34 a t) ∧ exec (.rem_ o) s = .next (withResult o 34 0#64 t))
    ∧ (b ≠ 0#64 → ¬ (a = 0x8000000000000000#64 ∧ b = BitVec.allOnes 64) →
      exec (.div_ o) s = .next (withResult o (lat a.toInt.natAbs) (BitVec.ofInt 64 (a.toInt.tdiv b.toInt)) t)
      ∧ exec (.rem_ o) s = .next (withResult o (lat a.toInt.natAbs) (a - BitVec.ofInt 64 (a.toInt.tdiv b.toInt) * b) t))

/-- One source, B (R218, R219, R223), and FFMA, FCMP (R221, R222): MOV copies; CLZ counts the zero bits above the highest one; POPC
counts ones; BFX takes the field, zero- or sign-extended; BFI replaces it in a; FCMP compares; FCVT converts. A bad immediate traps
with ILLEGAL, reason 9. -/
def Obligations.OneSourceAndFieldResults : Prop :=
  (∀ o s b t, readsB .b o s b t → dstFree o t →
    exec (.mov o) s = .next (withResult o 1 b t)
    ∧ exec (.clz o) s = .next (withResult o 1 (if b = 0#64 then 64#64 else word (63 - b.toNat.log2)) t)
    ∧ exec (.popc o) s = .next (withResult o 1 (word ((List.range 64).filter fun i => b.toNat.testBit i).length) t)
    ∧ (bfOk o true = true → ∀ p w, p = (bitsR o).1 % 64 → w = nfield (bitsR o).1 6 6 + 1 →
        exec (.bfx o) s = .next (withResult o 1
          (if (bitsR o).1.testBit 12 = true ∧ b.toNat.testBit (p + w - 1) = true
            then BitVec.ofInt 64 ((wfield b p w : Int) - 2 ^ w) else word (wfield b p w)) t))
    ∧ (o.xi.length = 1 → (bitsR o).1 < 64 → (bitsR o).1 / 4 < 13 →
        exec (.fcvt o) s = .next (withResult o 3 ((Num.fcvt ((bitsR o).1 / 4) (Num.rmOf (bitsR o).1) b).getD 0#64) t)))
  ∧ (∀ o s a b t, readsAB .b o s a b t → dstFree o t →
    (bfOk o false = true → ∀ p w, p = (bitsR o).1 % 64 → w = nfield (bitsR o).1 6 6 + 1 →
        ∃ x : Word, exec (.bfi o) s = .next (withResult o 1 x t) ∧
          ∀ i, i < 64 → x.getLsbD i = if p ≤ i ∧ i < p + w then b.getLsbD (i - p) else a.getLsbD i)
    ∧ (o.xi.length = 1 → (bitsR o).1 < 5 →
        exec (.fcmp o) s = .next (withResult o 2 (ofBool (fcmp (bitsR o).1 (lo32 a) (lo32 b))) t)))
  ∧ (∀ o s a b c t t', readsAB .b o s a b t → srcC o t = .ok (c, t') →
      exec (.ffma o) s = .next (withResult o 4 (ofLane (Num.ffma (lo32 a) (lo32 b) (lo32 c))) t'))
  ∧ (∀ o s, (bfOk o false = false →
        exec (.bfi o) s = .next (trapsAt s 1 (firstFour s.cur.words) 9#64))
    ∧ (bfOk o true = false →
        exec (.bfx o) s = .next (trapsAt s 1 (firstFour s.cur.words) 9#64))
    ∧ ((o.xi.length ≠ 1 ∨ 5 ≤ (bitsR o).1) →
        exec (.fcmp o) s = .next (trapsAt s 1 (firstFour s.cur.words) 9#64)))

/-- The immediate forms with a source A (R220). -/
def immediateTable : List ((Ops → Instr) × (Word → Int → Word)) :=
  [ (Instr.addi, fun a i => BitVec.ofInt 64 (a.toInt + i))
  , (Instr.andi, fun a i => a &&& BitVec.ofInt 64 i)
  , (Instr.ori, fun a i => a ||| BitVec.ofInt 64 i)
  , (Instr.xori, fun a i => a ^^^ BitVec.ofInt 64 i)
  , (Instr.shli, fun a i => a <<< (i % 64).toNat)
  , (Instr.shri, fun a i => a >>> (i % 64).toNat)
  , (Instr.srai, fun a i => a.sshiftRight (i % 64).toNat)
  , (Instr.lih, fun a i => word ((i % 2 ^ 32).toNat * 2 ^ 32 + a.toNat % 2 ^ 32))
  , (Instr.slti, fun a i => if a.toInt < i then 1#64 else 0#64) ]

/-- Immediates (R220, R196): form I instructions complete with the result of a and the signed immediate in the next cycle; LI writes
the immediate. -/
def Obligations.ImmediateFormsWriteTheirResult : Prop :=
  (∀ row ∈ immediateTable, ∀ o s a t, o.xi.length ≤ 3 → readsA .b o s a t → dstFree o t →
    exec (row.1 o) s = .next (withResult o 1 (row.2 a (immI o)) t))
  ∧ (∀ o s, (o.exr = false ∨ o.a = 0) → dstFree o (atIssue s) →
      exec (.li o) s = .next (completeIssue (deliver (dstRid o) 1 (BitVec.ofInt 64 (immI o)) (atIssue s))))

/-- The conditional branches (R224). -/
def branchTable : List ((Ops → Instr) × (Word → Word → Prop)) :=
  [ (Instr.beq, fun a b => a = b), (Instr.bne, fun a b => a ≠ b)
  , (Instr.blt, fun a b => a.toInt < b.toInt), (Instr.bge, fun a b => a.toInt ≥ b.toInt)
  , (Instr.bltu, fun a b => a.toNat < b.toNat), (Instr.bgeu, fun a b => a.toNat ≥ b.toNat) ]

/-- A conditional branch goes to IPC + 2 * Imm modulo 2^56 when its condition holds, and on after its words otherwise; J and JAL go to
IPC + 2 * Imm, JAL with the address after it in g1; JALR goes to b + 2 * Imm with the link in its destination, and an odd target traps
with ALIGN and writes nothing. The target's instruction issues 2 cycles later, JALR's 3 (R215, R224 to R226). -/
def Obligations.BranchesAndJumps : Prop :=
  (∀ row ∈ branchTable, ∀ o s a b t, readsAB .b o s a b t →
    (row.2 a b → exec (row.1 o) s = .next (completeIssue (transfer (((s.cur.ipc : Int) + 2 * immR o) % 2 ^ 56).toNat 2 (markLast o t))))
    ∧ (¬ row.2 a b → exec (row.1 o) s = .next (completeIssue (markLast o t))))
  ∧ (∀ o s, exec (.jmp o) s = .next (completeIssue (transfer (((s.cur.ipc : Int) + 2 * immJ o) % 2 ^ 56).toNat 2 (atIssue s))))
  ∧ (∀ o s, 1 ∉ (slotAt s s.cur.sid).busy → tget s.place (s.cur.sid * 128 + 1) .phys = .phys →
      exec (.jal o) s = .next (completeIssue (transfer (((s.cur.ipc : Int) + 2 * immJ o) % 2 ^ 56).toNat 2
        (deliver 1 1 (word ((s.cur.ipc + 2 * s.cur.words.length) % 2 ^ 56)) (atIssue s)))))
  ∧ (∀ o s b t, readsB .b o s b t →
      let tgt := (((wfield b 0 56 : Nat) : Int) + 2 * immR o) % 2 ^ 56
      dstFree o t →
      (tgt % 2 = 0 →
        exec (.jalr o) s = .next (completeIssue (transfer tgt.toNat 3
          (deliver (dstRid o) 1 (word ((s.cur.ipc + 2 * s.cur.words.length) % 2 ^ 56)) (markLast o t)))))
      ∧ (tgt % 2 = 1 →
        exec (.jalr o) s = .next (trapsAt s 5 (word tgt.toNat) 0#64)))

/-- Why SetLoop traps with LOOP_NEST (R230): the reason, for level `v`, start S and a body of E words before its last instruction. -/
def loopNest (x : Slot) (v S E : Nat) : Option Nat :=
  let bounds := word (S + E * 2 ^ 56)
  if v = 1 ∧ lcCur x.lc0 ≠ 0 then some 2
  else if (v = 0 ∧ lcCur x.lc0 ≠ 0 ∧ x.lb0 ≠ bounds) ∨ (v = 1 ∧ lcCur x.lc1 ≠ 0 ∧ x.lb1 ≠ bounds) then some 1
  else if v = 0 ∧ lcCur x.lc1 ≠ 0 ∧ ¬ (lbStart x.lb1 ≤ S ∧ (S + 2 * E) % 2 ^ 56 ≤ lbEnd x.lb1) then some 3
  else none

/-- Level `v` is set to a count and bounds. -/
def withLoop (v c S E : Nat) (x : Slot) : Slot :=
  if v = 0 then { x with lc0 := lcMake c c, lb0 := word (S + E * 2 ^ 56) } else { x with lc1 := lcMake c c, lb1 := word (S + E * 2 ^ 56) }

/-- Level `v` is inactive. -/
def withoutLoop (v : Nat) (x : Slot) : Slot := if v = 0 then { x with lc0 := 0#64 } else { x with lc1 := 0#64 }

/-- What SetLoop does in the state `t` after the operands are read, with the end `fin` of the instruction (R230). -/
def setsLoop (i : Instr) (s t : State) (v c E : Nat) (fin : State → State) : Prop :=
  let S := (s.cur.ipc + 2 * s.cur.words.length) % 2 ^ 56
  let T := (S + 2 * E) % 2 ^ 56
  (∀ r, loopNest (slotAt t s.cur.sid) v S E = some r → exec i s = .next (trapsAt s 0x1C (word v) (word r)))
  ∧ (loopNest (slotAt t s.cur.sid) v S E = none → 0 < c →
      exec i s = .next (completeIssue (fin (modSlot s.cur.sid (withLoop v c S E) t))))
  ∧ (loopNest (slotAt t s.cur.sid) v S E = none → c = 0 →
      (∀ ws, fetchWords t s.cur.sid 5 T = .words ws →
        exec i s = .next (completeIssue (fin (transfer (T + 2 * ws.length) 2 (modSlot s.cur.sid (withoutLoop v) t)))))
      ∧ (∀ cause tv, fetchWords t s.cur.sid 5 T = .trap cause tv → exec i s = .next (trapsAt s cause (word tv) 0#64)))

/-- LOOP and LOOPI (R228, R230): LOOP takes its count from A's value, LOOPI from the immediate. Each sets its level's counter, in both
halves, and its bounds, the address after the instruction and E, also where the level is active with those bounds or an inner loop
stands inside an active outer one. A count of 0 makes the level inactive and goes on after the instruction at the end, whose words are
fetched, or traps as that fetch does. LOOP_NEST (0x1C) names the level and the reason. LOOP with a count of 2^32 or more or more than one
EXI, and LOOPI with EXR or A bits 4:1, trap with ILLEGAL, reason 9. -/
def Obligations.LoopsSetTheirLevel : Prop :=
  (∀ o s a t, readsA .b o s a t → o.xi.length ≤ 1 → a.toNat < 2 ^ 32 →
    setsLoop (.loop_ o) s t ((bitsR o).1 / 256 % 2) a.toNat ((bitsR o).1 % 256) (markLast o))
  ∧ (∀ o s, o.exr = false → o.a.toNat < 2 →
    setsLoop (.loopi o) s (atIssue s) o.a.toNat ((bitsI o).1 / 256) ((bitsI o).1 % 256) id)
  ∧ (∀ o s a t, readsA .b o s a t → 2 ^ 32 ≤ a.toNat → exec (.loop_ o) s = .next (trapsAt s 1 (firstFour s.cur.words) 9#64))
  ∧ (∀ o s, 1 < o.xi.length → exec (.loop_ o) s = .next (trapsAt s 1 (firstFour s.cur.words) 9#64))
  ∧ (∀ o s, (o.exr = true ∨ 2 ≤ o.a.toNat) → exec (.loopi o) s = .next (trapsAt s 1 (firstFour s.cur.words) 9#64))

/-- The branch-outcome queue (R32 to R34, R232, R233): PUSHB appends its side and whether its source is nonzero, available 2 cycles
later, and waits while 32 entries are held; BRQ removes the partner's oldest entry, once it is available, and branches where it is 1, and
waits where there is none. Both trap with QUEUE_KIND in a strand without a partner, and where the partner has stopped and its entries
are used up. -/
def Obligations.BranchOutcomeQueue : Prop :=
  (∀ o s b t, readsB .b o s b t → (slotAt s s.cur.sid).paired = true → drained s s.cur.sid = true →
    (partnerGone s s.cur.sid = false ∨ takeBranch (slotAt s s.cur.sid).xseq (pairAt s (pairKey s s.cur.sid)).br ≠ none) →
    ((pairAt s (pairKey s s.cur.sid)).br.length < 32 →
      exec (.pushb o) s = .next (completeIssue (modPair (pairKey s s.cur.sid)
        (fun p => { p with br := p.br ++ [((slotAt s s.cur.sid).xseq, b != 0#64, s.now + 2)] }) (markLast o t))))
    ∧ (32 ≤ (pairAt s (pairKey s s.cur.sid)).br.length → exec (.pushb o) s = .next (waitState s)))
  ∧ (∀ o s v at' r, (slotAt s s.cur.sid).paired = true →
    takeBranch (slotAt s s.cur.sid).xseq (pairAt s (pairKey s s.cur.sid)).br = some ((v, at'), r) →
    let t := modPair (pairKey s s.cur.sid) (fun p => { p with br := r }) (atIssue s)
    (at' ≤ s.now → exec (.brq o) s = .next (completeIssue
      (if v = true then transfer (((s.cur.ipc : Int) + 2 * immJ o) % 2 ^ 56).toNat 2 t else t)))
    ∧ (s.now < at' → exec (.brq o) s = .next (waitState s)))
  ∧ (∀ o s, (slotAt s s.cur.sid).paired = true → partnerGone s s.cur.sid = false →
    takeBranch (slotAt s s.cur.sid).xseq (pairAt s (pairKey s s.cur.sid)).br = none → exec (.brq o) s = .next (waitState s))
  ∧ (∀ o s, ((slotAt s s.cur.sid).paired = false ∨ (partnerGone s s.cur.sid = true
        ∧ takeBranch (slotAt s s.cur.sid).xseq (pairAt s (pairKey s s.cur.sid)).br = none)) →
    exec (.brq o) s = .next (trapsAt s 0x0E 0#64 0#64) ∧ exec (.pushb o) s = .next (trapsAt s 0x0E 0#64 0#64))

/-- The scalar instructions that write one destination. -/
def resultInstrs : List (Ops → Instr) :=
  twoSourceTable.map (·.1) ++ [Instr.div_, Instr.divu, Instr.rem_, Instr.remu]

/-- The frame of the scalar instructions: where the operands are read and the destination is a g register, nothing else changes but
that register, the strand's own pc and loop counters, and what a read of a grant's payload sets (R119): memory, every other register,
every trap register, core register, tile and partition stay. -/
def Obligations.ScalarFrame : Prop :=
  (∀ o s a b t lat x, readsAB .b o s a b t → dstRid o < 64 → noBreak s →
    keepsRest s (withResult o lat x t) ∧ keepsG s (withResult o lat x t) s.cur.sid (dstRid o))
  ∧ (∀ o s a t lat x, readsA .b o s a t → dstRid o < 64 → noBreak s →
    keepsRest s (withResult o lat x t) ∧ keepsG s (withResult o lat x t) s.cur.sid (dstRid o))
  ∧ (∀ o s b t lat x, readsB .b o s b t → dstRid o < 64 → noBreak s →
    keepsRest s (withResult o lat x t) ∧ keepsG s (withResult o lat x t) s.cur.sid (dstRid o))
  ∧ (∀ row ∈ branchTable, ∀ o s a b t u, readsAB .b o s a b t → noBreak s → exec (row.1 o) s = .next u →
    keepsRest s u ∧ keepsG s u s.cur.sid 0)
  ∧ (∀ mk ∈ resultInstrs, ∀ o s a b t u, readsAB .b o s a b t → dstFree o t → dstRid o < 64 → noBreak s →
    exec (mk o) s = .next u → keepsRest s u ∧ keepsG s u s.cur.sid (dstRid o))

/-- A result written to a handle (R97): a local ring's slot WRC + w - 1 takes the word, and no byte outside those eight changes; a pair
link's slot takes it in the queue that runs away from the strand; neither count moves; a command port keeps the word for its slot. It
gets there in the result cycle, not before (R213). -/
def Obligations.HandleResultsReachTheirSlot : Prop :=
  (∀ s sid hn w x, (hGet s sid hn).kind = 1 →
    let h := hGet s sid hn
    let key := ringSlotKey sid h (ringWr s sid h + w - 1)
    let t := writeHandle sid hn w x s
    (s.memOk → mem64 t key = x) ∧ keepsOutside s t key 8 ∧ t.g = s.g ∧ t.k = s.k ∧ t.slots = s.slots)
  ∧ (∀ s sid hn w x, (hGet s sid hn).kind = 2 →
    let t := writeHandle sid hn w x s
    let p := pairAt s (pairKey s sid)
    let q := pairAt t (pairKey s sid)
    (∀ a, mget t.mem a = mget s.mem a) ∧ t.g = s.g ∧ q.axW = p.axW ∧ q.axR = p.axR ∧ q.xaW = p.xaW ∧ q.xaR = p.xaR
    ∧ ((slotAt s sid).xseq = false → tget q.ax ((p.axW + w - 1) % 16) 0#64 = x ∧ q.xa = p.xa)
    ∧ ((slotAt s sid).xseq = true → tget q.xa ((p.xaW + w - 1) % 16) 0#64 = x ∧ q.ax = p.ax))
  ∧ (∀ s sid hn w x, (hGet s sid hn).kind = 3 →
    let t := writeHandle sid hn w x s
    tget (slotAt t sid).portw (hn * 16 + w - 1) 0#64 = x ∧ t.mem = s.mem ∧ t.g = s.g ∧ t.k = s.k ∧ t.cmds = s.cmds)
  ∧ (∀ s r lat x, 80 ≤ r % 128 → let t := deliver r lat x s
    due t (s.now + max 1 lat) .resultWriteback { a := s.cur.sid, b := (slotAt s s.cur.sid).gen, c := r, w := x, w2 := handleDesc (hGet s s.cur.sid (r % 128 - 80)) }
    ∧ r % 128 ∈ (slotAt t s.cur.sid).busy ∧ t.mem = s.mem ∧ t.pairs = s.pairs ∧ t.g = s.g)

/-! ### Memory accesses -/

/-- The checks of a memory operand, in the order of R92: PTR_OVF outside the address space, ALIGN, NO_RANGE where no window or entry
covers the first byte or the match ends before the last, RIGHTS, COLL_BUSY, GUARD_NOT_HELD and GUARD_MODE; the match is the
lowest-numbered valid entry that covers the first byte; a collective buffer of the core that a supervisor entry covers too is COLL_BUSY
all the same (R183, R189, log 89). -/
def Obligations.MemoryOperandChecks : Prop :=
  (∀ s cid va, match rtMatch s cid va 64 with
    | some e => covers (rtView (rtAt s (cid * 64 + e))) va = true ∧ ∀ f, f < e → covers (rtView (rtAt s (cid * 64 + f))) va = false
    | none => ∀ f, f < 64 → covers (rtView (rtAt s (cid * 64 + f))) va = false)
  ∧ (∀ s cid team user va n rd wr, inWindow va = true → windowTile (tidOfC cid) va = none →
      rangeCheck s cid team user va n rd wr = .error (6, va))
  ∧ (∀ s cid team user va n rd wr, rtMatch s cid va 64 = none → rangeCheck s cid team user va n rd wr = .error (6, va))
  ∧ (∀ s cid team user va n rd wr e, ¬ (inWindow va = true ∧ windowTile (tidOfC cid) va = none) → rtMatch s cid va 64 = some e →
      let v := rtView (rtAt s (cid * 64 + e))
      let r := rangeCheck s cid team user va n rd wr
      let guarded := v.cls = 2 ∨ v.cls = 3 ∨ v.cls = 4
      let refused := (rd = true ∧ v.rd = false) ∨ (wr = true ∧ v.wr = false) ∨ (user = true ∧ v.usr = false)
      (v.limit < va + n → r = .error (6, v.limit))
      ∧ (va + n ≤ v.limit → refused → r = .error (7, va))
      ∧ (va + n ≤ v.limit → ¬ refused → v.cls = 5 → r = .error (11, va))
      ∧ (va + n ≤ v.limit → ¬ refused → guarded → holdFor s cid team e = 0 → r = .error (8, va))
      ∧ (va + n ≤ v.limit → ¬ refused → guarded → holdFor s cid team e ≠ 0 → wr = true → holdFor s cid team e ≠ 2 → r = .error (9, va))
      ∧ (va + n ≤ v.limit → ¬ refused → v.cls ≠ 5 → (guarded → holdFor s cid team e ≠ 0 ∧ (wr = true → holdFor s cid team e = 2)) →
          (e < 16 → collTouched s cid va n = true → r = .error (11, va))
          ∧ (16 ≤ e ∨ collTouched s cid va n = false → r = .ok e)))
  ∧ (∀ s p off, let ea : Int := (wfield p 0 56 : Nat) + off
      (ea < 0 ∨ ea ≥ 2 ^ 56 → effAddr p off s = .error (.trap 13 p 0#64))
      ∧ (0 ≤ ea → ea < 2 ^ 56 → effAddr p off s = .ok (ea.toNat, s)))
  ∧ (∀ s ea n, (ea % n ≠ 0 → alignM ea n s = .error (.trap 5 (word ea) 0#64)) ∧ (ea % n = 0 → alignM ea n s = .ok ((), s)))
  ∧ (∀ s p, wfield p 56 8 = 0 → rawM p s = .ok ((), s))
  ∧ (∀ s p, wfield p 56 8 ≠ 0 → rawM p s = .error (.trap 12 p 0#64))

/-- Loads with the bytes they move, their widening, and whether they are LDACQ (R238, R241). -/
def loadTable : List ((Ops → Instr) × Nat × Ext1 × Bool) :=
  [ (Instr.ldb, 1, .sext 8, false), (Instr.ldbu, 1, .zext, false), (Instr.ldh, 2, .sext 16, false), (Instr.ldhu, 2, .zext, false)
  , (Instr.ldw, 4, .sext 32, false), (Instr.ldwu, 4, .zext, false), (Instr.ldd, 8, .zext, false), (Instr.ldacq, 8, .zext, true) ]

/-- A load through a RAW pointer whose checks pass issues one access of its bytes at the pointer plus the scaled offset, and goes on;
its destination is pending until the answer. LDW through a converting format moves one element of that format (R236 to R241). -/
def Obligations.LoadsIssueTheirAccess : Prop :=
  (∀ row ∈ loadTable, ∀ o s p t ea, readsB .a o s p t → rawAt p (immR o * row.2.1) row.2.1 ea → rangeOk t ea row.2.1 true false →
    dstFree o t → gateFree t ea false →
    let u := markLastB o t
    exec (row.1 o) s = .next (completeIssue (sentFor o
      { accOf u s.cur.sid ea row.2.1 .load false false with ret := .reg (dstRid o) row.2.2.1, acq := row.2.2.2 } u)))
  ∧ (∀ o s p t (ea z : Nat), readsB .a o s p t → convRow (wfield p 60 4) = some z → wfield p 56 4 = 0 →
    (ea : Int) = (wfield p 0 56 : Nat) + immR o * z → ea < 2 ^ 56 → ea % z = 0 → rangeOk t ea z true false → dstFree o t →
    gateFree t ea false →
    let u := markLastB o t
    exec (.ldw o) s = .next (completeIssue (sentFor o
      { accOf u s.cur.sid ea z .load false true with ret := .reg (dstRid o) (.fmt (wfield p 60 4)), acq := false } u)))
  ∧ (∀ row ∈ loadTable, ∀ o s p t, readsB .a o s p t → dstFree o t → wfield p 60 4 = 7 ∨ wfield p 60 4 = 8 ∨ 13 ≤ wfield p 60 4 →
    exec (row.1 o) s = .next (trapsAt s 12 p 0#64))

/-- Stores with the bytes they move (R238, R241). -/
def storeTable : List ((Ops → Instr) × Nat) :=
  [ (Instr.stb, 1), (Instr.sth, 2), (Instr.stw, 4), (Instr.std, 8) ]

/-- A store through a RAW pointer whose checks pass issues one access that will write the low bytes of A, little-endian, at the
pointer plus the scaled offset, and goes on in the next cycle; STREL first waits until the strand's earlier loads in PACKAGE scope are
performed and its earlier stores, atomics and messages acknowledged (R142, R236 to R241). Issue itself changes no byte of memory. -/
def Obligations.StoresIssueTheirAccess : Prop :=
  (∀ row ∈ storeTable, ∀ o s p t a u ea, readsB .a o s p t → srcA o t = .ok (a, u) → rawAt p (immR o * row.2) row.2 ea →
    rangeOk u ea row.2 false true → stepM ea u = .ok ((), u) → gateFree u ea true →
    exec (row.1 o) s = .next (completeIssue (sendStore ea (natBytes row.2 a.toNat) false (markLast o u))))
  ∧ (∀ o s p t a u ea, readsB .a o s p t → srcA o t = .ok (a, u) → rawAt p (immR o * 8) 8 ea → rangeOk u ea 8 false true →
    stepM ea u = .ok ((), u) →
    (loadsDone u u.cur.sid (inScope u.cur.sid 2) = true → storesDone u u.cur.sid (inScope u.cur.sid 2) = true → gateFree u ea true →
      exec (.strel o) s = .next (completeIssue (sendStore ea (natBytes 8 a.toNat) false (markLast o u))))
    ∧ (loadsDone u u.cur.sid (inScope u.cur.sid 2) = false ∨ storesDone u u.cur.sid (inScope u.cur.sid 2) = false →
      exec (.strel o) s = .next (waitState s)))
  ∧ (∀ o s p t a u (ea z : Nat), readsB .a o s p t → srcA o t = .ok (a, u) → convRow (wfield p 60 4) = some z → wfield p 56 4 = 0 →
    (ea : Int) = (wfield p 0 56 : Nat) + immR o * z → ea < 2 ^ 56 → ea % z = 0 → rangeOk u ea z false true →
    stepM ea u = .ok ((), u) → gateFree u ea true →
    exec (.stw o) s = .next (completeIssue (sendStore ea (storeConv (wfield p 60 4) z a) true (markLast o u))))
  ∧ (∀ ea bs conv s a, mget (sendStore ea bs conv s).mem a = mget s.mem a)

/-- The way of an access (R236, R269): in the own scratchpad it is performed 2 cycles after issue and a load answered in 4; in
another tile's 5 + 3h and 10 + 6h; in device memory 216 + 2h and 220 + 3h; 8 cycles more for each die boundary and 1 for a converting
format; an atomic 6 + 3h and 12 + 6h, or 218 + 2h and 224 + 3h. A device access goes to its MTU 110 cycles after issue, any other to
its bank. The access takes a request slot unless it is in the own scratchpad. -/
def Obligations.AccessTimes : Prop :=
  (∀ s sid va n kind conv,
    let own := tidOfC (cidOf sid)
    let r := routeOf own va
    let c := if conv = true then 1 else 0
    let a := accOf s sid va n kind false conv
    (r.dev = false → r.tid = own → a.perfAt = s.now + 2 + 8 * r.c + c ∧ (kind ≠ .store → a.perfAt + a.ansLat = s.now + 4 + 8 * r.c + c)
      ∧ (kind = .store → a.ansLat = 0) ∧ a.slot = false)
    ∧ (r.dev = false → r.tid ≠ own → a.perfAt = s.now + 5 + 3 * r.h + 8 * r.c + c
      ∧ a.perfAt + a.ansLat = s.now + 10 + 6 * r.h + 16 * r.c + c ∧ a.slot = true)
    ∧ (r.dev = true → a.perfAt = s.now + 216 + 2 * r.h + 8 * r.c + c
      ∧ a.perfAt + a.ansLat = s.now + 220 + 3 * r.h + 16 * r.c + c ∧ a.slot = true))
  ∧ (∀ s sid va n kind,
    let r := routeOf (tidOfC (cidOf sid)) va
    let a := accOf s sid va n kind true false
    (r.dev = false → a.perfAt = s.now + 6 + 3 * r.h + 8 * r.c ∧ a.perfAt + a.ansLat = s.now + 12 + 6 * r.h + 16 * r.c)
    ∧ (r.dev = true → a.perfAt = s.now + 218 + 2 * r.h + 8 * r.c ∧ a.perfAt + a.ansLat = s.now + 224 + 3 * r.h + 16 * r.c))
  ∧ (∀ a s, tfind (sendAcc a s).2.accs s.nextId = some a
    ∧ (a.dev = true → due (sendAcc a s).2 (s.now + 110) .mtuAccessDecide { a := s.nextId })
    ∧ (a.dev = false → due (sendAcc a s).2 a.perfAt (perfEvent a) { a := s.nextId }))

/-- Accesses at their bank (R135 to R137, R236, R254): a load reads the bytes of its address, a store writes its bytes and no other, an
atomic writes the new value and answers the old one; the answer leaves for the core. LOAD_RESULT widens the bytes into the register;
STORE_ACK frees the access; REMOTE_REJECTION keeps a store marked rejected (R397), and gives up one of a ring entry, whose sender is
answered FULL (the model's reading, log 80). Data with an uncorrectable error, an input, fails the access with PAGE_FATAL, reason 8 (R464). A register parked in its frame is written there too, and no other byte. -/
def Obligations.AccessesPerformAndAnswer : Prop :=
  (∀ s a key, atItsBank s s.ev.a a key → a.store = false → a.kind ≠ .atom → a.kind ≠ .cas → ∃ t, exec .accessPerform s = .next t
    ∧ (∀ x, mget t.mem x = mget s.mem x) ∧ t.g = s.g
    ∧ tfind t.accs s.ev.a = some { a with data := mread s.mem key a.size, performed := true }
    ∧ due t (s.now + a.ansLat) (answerEvent a) { a := s.ev.a })
  ∧ (∀ s a key, s.memOk → atItsBank s s.ev.a a key → leafDirty s a → a.store = true → a.cells = [] → ∃ t, exec .accessPerform s = .next t
    ∧ mread t.mem key a.data.length = a.data ∧ keepsOutside s t key a.data.length ∧ t.g = s.g
    ∧ (∃ b, tfind t.accs s.ev.a = some b ∧ b.performed = true)
    ∧ due t (s.now + a.ansLat) (answerEvent a) { a := s.ev.a })
  ∧ (∀ s a key, s.memOk → atItsBank s s.ev.a a key → leafDirty s a → a.kind = .atom → a.size = 4 ∨ a.size = 8 → ∃ t, exec .atomicPerform s = .next t
    ∧ mread t.mem key a.size
        = natBytes a.size (atomNew a.op a.size (word (bytesNat (mread s.mem key a.size))) (word (bytesNat a.data))).toNat
    ∧ keepsOutside s t key a.size ∧ t.g = s.g
    ∧ (∃ b, tfind t.accs s.ev.a = some b ∧ b.performed = true ∧ b.data = mread s.mem key a.size)
    ∧ due t (s.now + a.ansLat) (answerEvent a) { a := s.ev.a })
  ∧ (∀ s a key, s.memOk → atItsBank s s.ev.a a key → leafDirty s a → a.kind = .cas → a.data.length = a.size → ∃ t, exec .atomicPerform s = .next t
    ∧ mread t.mem key a.size = (if mread s.mem key a.size = a.cmp then a.data else mread s.mem key a.size)
    ∧ keepsOutside s t key a.size
    ∧ (∃ b, tfind t.accs s.ev.a = some b ∧ b.performed = true ∧ b.data = mread s.mem key a.size))
  ∧ (∀ s a dst e, tfind s.accs s.ev.a = some a → accAway s s.ev.a = false → a.xchg = false → a.ret = .reg dst e → accLive s a = true →
    (slotAt s a.sid).st ≠ .swapped → 0 < dst → dst < 64 → s.ev.flag = false → ∃ t, exec .loadResult s = .next t
    ∧ gGet t a.sid dst = extend e a.data ∧ keepsG s t a.sid dst ∧ tfind t.accs s.ev.a = none ∧ keepsOutside s t (frameKey a.sid) 0x400)
  ∧ (∀ s a, tfind s.accs s.ev.a = some a → accAway s s.ev.a = false → s.ev.flag = true → ∃ t, exec .loadResult s = .next t
    ∧ due t s.now .parkedAccessFail { a := s.ev.a, b := 0x19, c := 8 } ∧ t.mem = s.mem ∧ t.g = s.g ∧ t.accs = s.accs)
  ∧ (∀ s a, tfind s.accs s.ev.a = some a → accAway s s.ev.a = false → a.kind = .store → a.xchg = false → a.ret = .none →
    a.rejected = false → exec .storeAck s = .next { s with accs := tdel s.accs s.ev.a })
  ∧ (∀ s a rk pos m, tfind s.accs s.ev.a = some a → a.ret = .ring rk pos m → a.kind = .store → ∃ t, exec .remoteRejection s = .next t
    ∧ tfind t.accs s.ev.a = none ∧ due t s.now .qsendAnswer { a := m.acc, b := 2 } ∧ t.mem = s.mem ∧ t.g = s.g)
  ∧ (∀ s a, tfind s.accs s.ev.a = some a → a.xchg = false → isRing a = false → ∃ t, exec .remoteRejection s = .next t
    ∧ (∃ b, tfind t.accs s.ev.a = some b ∧ b.rejected = true ∧ b.slot = false ∧ b.tvalue = a.tvalue ∧ b.ipc = a.ipc)
    ∧ t.mem = s.mem ∧ t.g = s.g)
  ∧ (∀ bs, extend .zext bs = word (bytesNat bs)) ∧ (∀ b : Byte, extend (.sext 8) [b] = b.signExtend 64)

/-- The operations of an atomic of 8 bytes and of 4 (R269). ATOM and CAS issue one access to the home atomic engine (R269, R270); ATOMSC,
LDSC and STSC wait for the strand's earlier accesses and hold it until cycle 32 (w + 1) + 128 (R143, R144, R271); WAITW watches the word and
parks the strand (R255). -/
def Obligations.AtomicsAndWatchesIssue : Prop :=
  (∀ o s op w ea p t a u, atomImm o (atIssue s) = .ok ((op, w), atIssue s) → readsB .a o s p t →
    srcA o t = .ok (a, u) → dstFree o u → atomAddr p w u = .ok (ea, u) → gateFree u ea true →
    let v := markLast o u
    exec (.atom o) s = .next (completeIssue (sentFor o
      { accOf v s.cur.sid ea w .atom true false with op := op, data := natBytes w a.toNat, ret := .reg (dstRid o) .zext } v)))
  ∧ (∀ o s ea p t a u c v, readsB .a o s p t → o.xi.length ≤ 1 → (bitsR o).1 < 2 →
    let w := if (bitsR o).1 = 1 then 4 else 8
    srcA o t = .ok (a, u) → srcC o u = .ok (c, v) → dstFree o v → atomAddr p w v = .ok (ea, v) → gateFree v ea true →
    let x := markLast o v
    exec (.cas o) s = .next (completeIssue (sentFor o
      { accOf x s.cur.sid ea w .cas true false with
        data := natBytes w a.toNat, cmp := natBytes w c.toNat, ret := .reg (dstRid o) .zext } x)))
  ∧ (∀ o s op w ea p t a u v, atomImm o (atIssue s) = .ok ((op, w), atIssue s) → readsB .a o s p t →
    srcA o t = .ok (a, u) → dstFree o u → atomAddr p w u = .ok (ea, u) → v = markLast o u →
    (strandAccs v s.cur.sid).all (fun p => p.2.dpkg != pkgOfC (cidOf s.cur.sid)) = true → gateFree v ea true →
    ∃ z b, exec (.atomsc o) s = .next z ∧ tfind z.accs v.nextId = some b ∧ b.kind = .atom ∧ b.op = op ∧ b.size = w
      ∧ b.va = ea ∧ b.data = natBytes w a.toNat ∧ b.ret = .reg (dstRid o) .zext ∧ b.perfAt = 32 * (v.now / 32 + 1) + 128
      ∧ (slotAt z s.cur.sid).hold = true ∧ (slotAt z s.cur.sid).heldBy = v.nextId)
  ∧ (∀ o s p t ea v, readsB .a o s p t → rawAt p (immR o * 8) 8 ea → rangeOk t ea 8 true false → dstFree o t → v = markLastB o t →
    (strandAccs v s.cur.sid).all (fun p => p.2.dpkg != pkgOfC (cidOf s.cur.sid)) = true → gateFree v ea false →
    ∃ z b, exec (.ldsc o) s = .next z ∧ tfind z.accs v.nextId = some b ∧ b.kind = .load ∧ b.size = 8 ∧ b.va = ea
      ∧ b.ret = .reg (dstRid o) .zext ∧ b.perfAt = 32 * (v.now / 32 + 1) + 128
      ∧ (slotAt z s.cur.sid).hold = true ∧ (slotAt z s.cur.sid).heldBy = v.nextId)
  ∧ (∀ o s p t ea a u v, readsB .a o s p t → srcA o t = .ok (a, u) → rawAt p (immR o * 8) 8 ea → rangeOk u ea 8 false true →
    stepM ea u = .ok ((), u) → v = markLast o u →
    (strandAccs v s.cur.sid).all (fun p => p.2.dpkg != pkgOfC (cidOf s.cur.sid)) = true → gateFree v ea true →
    ∃ z b, exec (.stsc o) s = .next z ∧ tfind z.accs v.nextId = some b ∧ b.kind = .store ∧ b.va = ea ∧ b.data = natBytes 8 a.toNat
      ∧ b.perfAt = 32 * (v.now / 32 + 1) + 128 ∧ (slotAt z s.cur.sid).hold = true ∧ (slotAt z s.cur.sid).heldBy = v.nextId)
  ∧ (∀ o s p t ea a u v, readsB .a o s p t → srcA o t = .ok (a, u) → (o.exr = true → dstFree o u) →
    rawAt p (immR o * 8) 8 ea → rangeOk u ea 8 true false → gateFree u ea false → v = markLast o u →
    ∃ z b, exec (.waitw o) s = .next z ∧ tfind z.accs v.nextId = some b ∧ b.kind = .watch ∧ b.va = ea ∧ b.cmp = natBytes 8 a.toNat
      ∧ b.op = (loadLatency (tidOfC (cidOf s.cur.sid)) ea + 1) / 2
      ∧ (slotAt z s.cur.sid).st = .parked ∧ (slotAt z s.cur.sid).hold = true ∧ (slotAt z s.cur.sid).heldBy = v.nextId)
  ∧ (∀ m a : Word, let m32 : Lane := m.truncate 32; let a32 : Lane := a.truncate 32
    atomNew 0 8 m a = m + a ∧ atomNew 1 8 m a = m &&& a ∧ atomNew 2 8 m a = m ||| a ∧ atomNew 3 8 m a = m ^^^ a
    ∧ atomNew 4 8 m a = a ∧ (atomNew 5 8 m a).toInt = min m.toInt a.toInt ∧ (atomNew 6 8 m a).toInt = max m.toInt a.toInt
    ∧ (atomNew 7 8 m a).toNat = min m.toNat a.toNat ∧ (atomNew 8 8 m a).toNat = max m.toNat a.toNat
    ∧ atomNew 0 4 m a = (m32 + a32).zeroExtend 64 ∧ atomNew 1 4 m a = (m32 &&& a32).zeroExtend 64
    ∧ atomNew 2 4 m a = (m32 ||| a32).zeroExtend 64 ∧ atomNew 3 4 m a = (m32 ^^^ a32).zeroExtend 64
    ∧ atomNew 4 4 m a = a32.zeroExtend 64
    ∧ (atomNew 5 4 m a).toNat = (if m32.toInt ≤ a32.toInt then m32 else a32).toNat
    ∧ (atomNew 6 4 m a).toNat = (if m32.toInt ≥ a32.toInt then m32 else a32).toNat
    ∧ (atomNew 7 4 m a).toNat = min m32.toNat a32.toNat ∧ (atomNew 8 4 m a).toNat = max m32.toNat a32.toNat
    ∧ atomNew 9 4 m a = (Num.fadd m32 a32).zeroExtend 64 ∧ atomNew 10 4 m a = (Num.fmax m32 a32).zeroExtend 64)

/-- Watches and SC accesses complete (R143, R144, R255): a watch made of a word that equals its comparand stands and its
acknowledgement leaves, one that differs wakes its strand after half the load latency; WATCH_WAKE writes the word and lets the strand go
on; a watch that found the engine full is sent again; SC_COMPLETE performs the first due SC access of S and its strand goes on in the
next cycle. A register parked in its frame is written there too. -/
def Obligations.WatchesAndScAccessesComplete : Prop :=
  (∀ s a key, atItsBank s s.ev.a a key → a.parked = false →
    (s.accs.filter fun p => p.2.kind == .watch && p.2.performed && !p.2.answered && (match p.2.key with
      | some k => engineOf p.2 k == engineOf a key
      | none => false)).length < 256 →
    ∃ t, exec .watchMade s = .next t ∧ due t (s.now + a.ansLat) .storeAck { a := s.ev.a }
    ∧ tfind t.accs s.ev.a = some { a with
        performed := true, answered := mread s.mem key 8 != a.cmp, data := mread s.mem key 8 }
    ∧ (mread s.mem key 8 ≠ a.cmp → due t (s.now + a.op) .watchWake { a := s.ev.a }) ∧ t.mem = s.mem)
  ∧ (∀ s a dst, tfind s.accs s.ev.a = some a → heldOn s a.sid a.gen s.ev.a = true → a.ret = .reg dst .zext →
    (slotAt s a.sid).st ≠ .swapped → 0 < dst → dst < 64 →
    ∃ t, exec .watchWake s = .next t ∧ gGet t a.sid dst = word (bytesNat a.data) ∧ (slotAt t a.sid).st = .ready
      ∧ (slotAt t a.sid).hold = false ∧ tfind t.accs s.ev.a = none ∧ keepsOutside s t (frameKey a.sid) 0x400)
  ∧ (∀ s a, tfind s.accs s.ev.a = some a → ∃ t d, exec .watchRetry s = .next t ∧ due t d .watchMade { a := s.ev.a }
    ∧ tfind t.accs s.ev.a = some { a with perfAt := d } ∧ (∀ i, i ≠ s.ev.a → tfind t.accs i = tfind s.accs i) ∧ t.mem = s.mem)
  ∧ (∀ s a key dst, firstSc s a.dpkg = some (s.ev.a, a) → tfind s.accs s.ev.a = some a → a.key = some key →
    accRefused s a key = false → a.parked = false → a.store = false → a.kind = .load →
    a.ret = .reg dst .zext → heldOn s a.sid a.gen s.ev.a = true → (slotAt s a.sid).st ≠ .swapped → 0 < dst → dst < 64 →
    ∃ t, exec .scComplete s = .next t ∧ gGet t a.sid dst = word (bytesNat (mread s.mem key a.size))
      ∧ (slotAt t a.sid).hold = false ∧ (slotAt t a.sid).readyAt = s.now + 1 ∧ tfind t.accs s.ev.a = none ∧ keepsOutside s t (frameKey a.sid) 0x400)
/-! ### Fences, pointers, presence, identity -/

/-- FENCE waits for the accesses its sub-operation names in its scope, in SYSTEM scope GETs and remote atomics of other packages too, then
goes on in the next cycle, or traps with REMOTE_DENIED where a store of the strand was rejected, the address in TVALUE and the store's own
address in TVAL2 (R140, R141, R258, R397). After ALL and ENG the strand fetches what was written in the scope (R191, log 92). -/
def Obligations.FenceWaitsThenReports : Prop :=
  ∀ o s, classTrap .a s = none → o.exr = false → o.exq = none → o.xi = [] → o.a.toNat < 16 → o.lo = 0 →
    let sid := s.cur.sid
    let sub := o.a.toNat % 4
    let scope := o.a.toNat / 4
    let f := inScope sid scope
    let ld := loadsDone s sid f
    let st := storesDone s sid f
    let gets (atomics : Bool) := getsDone s sid scope atomics = true
    let ok := (sub = 1 ∨ (ld = true ∧ gets false)) ∧ (sub = 0 ∨ (st = true ∧ gets true)) ∧ (sub = 3 → enginesDone s sid scope = true)
    (¬ ok → exec (.fence o) s = .next (waitState s))
    ∧ (ok → rejectedOf s sid = none → exec (.fence o) s = .next (completeIssue
        (if 2 ≤ sub then fetchesNew sid scope (atIssue s) else atIssue s)))
    ∧ (∀ id a, ok → rejectedOf s sid = some (id, a) → slotNo sid ≠ 0 → (coreAt s (cidOf sid)).wfe = none → (slotAt s sid).killed = false →
        ∃ t, exec (.fence o) s = .next t
        ∧ (slotAt t sid).st = .trapped ∧ (slotAt t sid).tcause = 0x11 ∧ (slotAt t sid).tvalue = a.tvalue
        ∧ (slotAt t sid).tval2 = word a.ipc ∧ (slotAt t sid).tepc = s.cur.ipc)

/-- Pointer operations (R85, R242 to R245): PADD moves a pointer by whole units inside the address space, and traps with FMT or PTR_OVF
otherwise; PTAG replaces format and block; PFMT reads them with the unit's elements and bytes; PSPAN multiplies out a run of units. -/
def Obligations.PointerOperations : Prop :=
  (∀ o s p n t r, readsAB .b o s p n t → Num.fmtRow (wfield p 60 4) = some r → wfield p 57 3 = r.blk → wfield p 56 1 = 0 →
    dstFree o t →
    let v : Int := (wfield p 0 56 : Nat) + n.toInt / r.ue * r.ub
    (n.toInt % r.ue = 0 → 0 ≤ v → v < 2 ^ 56 →
      exec (.padd o) s = .next (withResult o 1 (word (wfield p 56 8 * 2 ^ 56 + v.toNat)) t))
    ∧ (n.toInt % r.ue = 0 → (v < 0 ∨ v ≥ 2 ^ 56) → exec (.padd o) s = .next (trapsAt s 13 p 0#64))
    ∧ (n.toInt % r.ue ≠ 0 → exec (.padd o) s = .next (trapsAt s 12 p 0#64) ∧ exec (.pspan o) s = .next (trapsAt s 12 p 0#64))
    ∧ (n.toInt % r.ue = 0 →
      exec (.pspan o) s = .next (withResult o 1 (BitVec.ofInt 64 (n.toInt / r.ue * r.ub)) t)))
  ∧ (∀ o s p n t, readsAB .b o s p n t → dstFree o t → ptrOk (fun c => (Num.fmtRow c).map (·.blk)) p = false →
      exec (.padd o) s = .next (trapsAt s 12 p 0#64) ∧ exec (.pspan o) s = .next (trapsAt s 12 p 0#64))
  ∧ (∀ o s b t r, readsB .b o s b t → o.xi.length = 1 → (bitsR o).1 < 128 → Num.fmtRow ((bitsR o).1 % 16) = some r →
      dstFree o t →
      let w := word ((bitsR o).1 % 16 * 2 ^ 60 + (bitsR o).1 / 16 * 2 ^ 57 + wfield b 0 56)
      ((bitsR o).1 / 16 = r.blk → exec (.ptag o) s = .next (withResult o 1 w t))
      ∧ ((bitsR o).1 / 16 ≠ r.blk → exec (.ptag o) s = .next (trapsAt s 12 w 0#64)))
  ∧ (∀ o s b t, readsB .b o s b t → dstFree o t →
      (∀ r, Num.fmtRow (wfield b 60 4) = some r → wfield b 57 3 = r.blk →
        exec (.pfmt o) s = .next (withResult o 1 (word (wfield b 56 8 + r.ue * 2 ^ 8 + r.ub * 2 ^ 16)) t))
      ∧ ((∀ r, Num.fmtRow (wfield b 60 4) = some r → wfield b 57 3 ≠ r.blk) → exec (.pfmt o) s = .next (withResult o 1 (word (wfield b 56 8)) t)))

/-- Presence (R42, R43, R252, R253) and identity (R256, R257): CLRP clears the bit alone; TESTP reads it; both fetch a parked register
first (R39); TIME writes the time base; SELF writes the strand's words, and its codes 6 and 7 trap with ILLEGAL, reason 9. The presence
wait that reaches PRESTMO traps with PRES_TIMEOUT and the register, of a strand that is swapped out not before it is back. A register
that is evicted leaves the physical file for the first place of R38 with room, its value unchanged, and a fetch brings it back (R37 to
R39); XPUT writes the register and makes it present and live (R43), one of an ended strand goes to the orphan queue (R399). -/
def Obligations.PresenceTimeSelfAndParkedRegisters : Prop :=
  (∀ o s, ¬ (32 ≤ o.a.toNat ∧ o.a.toNat < 48) → (o.exr = true → o.c = 0) →
    let r := regOf o.a.toNat
    let place := tget s.place (fileKey s.cur.sid r) .phys
    (r = 0 → exec (.clrp o) s = .next (completeIssue (atIssue s)))
    ∧ (r ≠ 0 → place = .phys → (slotAt s s.cur.sid).arrivals.contains (r, s.now) = false →
      exec (.clrp o) s = .next (completeIssue (modSlot s.cur.sid (fun x => { x with pres := x.pres &&& ~~~ word (2 ^ r) }) (atIssue s))))
    ∧ (r ≠ 0 → place = .phys → (slotAt s s.cur.sid).arrivals.contains (r, s.now) = true →
      exec (.clrp o) s = .next (completeIssue (atIssue s)))
    ∧ (r ≠ 0 → place ≠ .phys → exec (.clrp o) s = .next (waitFetch r s)))
  ∧ (∀ o s, 32 ≤ o.a.toNat → o.a.toNat < 48 → exec (.clrp o) s = .next (trapsAt s 0x0E (word (o.a.toNat - 32)) 0#64))
  ∧ (∀ o s, ¬ (32 ≤ o.b.toNat ∧ o.b.toNat < 48) → dstFree o (atIssue s) →
    (regOf o.b.toNat = 0 ∨ tget s.place (fileKey s.cur.sid (regOf o.b.toNat)) .phys = .phys) →
    exec (.testp o) s = .next (completeIssue (deliver (dstRid o) 1
      (if regOf o.b.toNat = 0 ∨ (slotAt s s.cur.sid).pres.toNat.testBit (regOf o.b.toNat) = true then 1#64 else 0#64) (atIssue s))))
  ∧ (∀ o s, o.xi = [] → dstFree o (atIssue s) →
    exec (.time_ o) s = .next (completeIssue (deliver (dstRid o) 1 (word (s.now * 2 / 5)) (atIssue s))))
  ∧ (∀ o s w, o.xi.length ≤ 1 → (bitsR o).1 < 6 → selfOf s s.cur.sid (bitsR o).1 = some w → dstFree o (atIssue s) →
    exec (.self_ o) s = .next (completeIssue (deliver (dstRid o) 1 w (atIssue s))))
  ∧ (∀ o s, 6 ≤ (bitsR o).1 → o.xi.length ≤ 1 → exec (.self_ o) s = .next (trapsAt s 1 (firstFour s.cur.words) 9#64))
  ∧ (∀ s sid, selfOf s sid 0 = some (word (cidOf sid % 8192 + slotNo sid * 2 ^ 13 + (slotAt s sid).gen % 256 * 2 ^ 17
      + pkgOfC (cidOf sid) * 2 ^ 25)))
  ∧ (∀ s, let x := slotAt s s.ev.a
    x.gen = s.ev.b → x.waitReg = some (s.ev.c, s.ev.d) → x.pres.toNat.testBit s.ev.c = false →
    (x.st = .waiting ∨ x.st = .parked → exec .presTimeout s = .next (recordTrap s.ev.a 0x10 (word s.ev.c) 0#64 x.pc s))
    ∧ (x.st = .swapped → exec .presTimeout s = .next (post (s.now + 1) .presTimeout s.ev s)))
  ∧ (∀ s, let key := fileKey s.ev.a s.ev.b
    s.ev.b ∉ (slotAt s s.ev.a).busy →
    (tget s.place key .phys = .phys → (tfind s.file key).isSome = true → ∃ t, exec .registerEvict s = .next t
      ∧ tget t.place key .phys = parkPlace s key false ∧ tfind t.file key = none ∧ t.g = s.g ∧ t.k = s.k ∧ t.slots = s.slots)
    ∧ (∀ b, tget s.place key .phys = .bank b → ∃ t, exec .registerEvict s = .next t
      ∧ tget t.place key .phys = parkPlace s key true ∧ t.g = s.g ∧ t.k = s.k ∧ t.slots = s.slots))
  ∧ (∀ s, let key := fileKey s.ev.a s.ev.b
    tget s.place key .phys = .fetching → (slotAt s s.ev.a).gen = s.ev.c → ∃ t, exec .registerFetch s = .next t
      ∧ tget t.place key .frame = .phys ∧ (tfind t.file key).isSome = true ∧ t.g = s.g ∧ t.k = s.k ∧ t.mem = s.mem ∧ t.slots = s.slots)
  ∧ (∀ s m, s.ev.p = .msg m → msgRefused s m = false → msgFits s m = true → 0 < m.idx → m.idx < 64 →
    (slotAt s (targetSid m)).wr1 ≠ some (m.idx, s.now) → ∃ t, exec .xputArrival s = .next t
    ∧ gGet t (targetSid m) m.idx = m.payload ∧ (slotAt t (targetSid m)).pres.toNat.testBit m.idx = true
    ∧ (slotAt t (targetSid m)).live.toNat.testBit m.idx = true ∧ keepsG s t (targetSid m) m.idx
    ∧ keepsOutside s t (frameKey (targetSid m)) 0x400)
  ∧ (∀ s m, s.ev.p = .msg m → msgRefused s m = false → msgFits s m = false → ∃ t, exec .xputArrival s = .next t
    ∧ t.g = s.g ∧ t.mem = s.mem ∧ (coreAt t (targetCid m)).ocount = ((coreAt s (targetCid m)).ocount + 1) % 2 ^ 32)

/-! ### Queues and messages -/

/-- QBIND loads its descriptor, and the handle waits for it; the descriptor that arrives binds the handle, or traps at the QBIND (R246,
R389), which holds its strand for it where the descriptor as it stands would be refused (the model's reading, log 114); QFILL answers the
slots a producer could write; QADV moves the read count of a queue by n once n slots are filled, or its write count once n are free, on a
ring after the strand's writes to its slots, on a command port as pushes of the next n slots; QSEND.WHO answers the sender of a slot without
moving it (R96, R97, R100, R246 to R248, R251). Other kinds trap with QUEUE_KIND; a write advance of a combine inject handle too, which is
the model's choice (log 81). -/
def Obligations.QueueInstructions : Prop :=
  (∀ o s p t ea, readsB .b o s p t → rawAt p (immR o * 16) 16 ea → rangeOk t ea 16 true false →
    80 + o.a.toNat % 16 ∉ (slotAt s s.cur.sid).busy →
    ¬ ((hGet t s.cur.sid (o.a.toNat % 16)).kind = 5
      ∧ awaitsGrant t (cidOf s.cur.sid) (hGet t s.cur.sid (o.a.toNat % 16)).qix = true) → gateFree t ea false →
    let u := markLastB o t
    let hn := o.a.toNat % 16
    let a := { accOf u s.cur.sid ea 16 .load false false with ret := .handle hn }
    let refused := ∃ bs, engRead (ownView s.cur.sid u) (tidOfC (cidOf s.cur.sid)) ea (coreAt u (cidOf s.cur.sid)).tenant 16 = some bs
      ∧ (bindRefusal u s.cur.sid hn (descHandle bs)).isSome = true
    (¬ refused → exec (.qbind o) s = .next (completeIssue (addBusy s.cur.sid (80 + hn) (sendAcc a u).2)))
    ∧ (refused → ∃ z, exec (.qbind o) s = .next z ∧ tfind z.accs u.nextId = some a ∧ 80 + hn ∈ (slotAt z s.cur.sid).busy
      ∧ (slotAt z s.cur.sid).hold = true ∧ (slotAt z s.cur.sid).st = .waiting ∧ (slotAt z s.cur.sid).heldBy = u.nextId))
  ∧ (∀ s id hn a, (slotAt s a.sid).redo = none →
    (∀ h, bindRefusal (delBusy a.sid (80 + hn) s) a.sid hn (some h) = none → descHandle a.data = some h →
      bindAnswer id hn a s = goesOn a.sid a.gen id 1 (bindHandle a.sid hn h (delBusy a.sid (80 + hn) s)))
    ∧ (∀ c tv tv2, bindRefusal (delBusy a.sid (80 + hn) s) a.sid hn (descHandle a.data) = some (c, tv, tv2) →
      bindAnswer id hn a s = recordTrap a.sid c tv tv2 a.ipc (delBusy a.sid (80 + hn) s)))
  ∧ (∀ o s, 32 ≤ o.b.toNat → o.b.toNat < 48 → 80 + (o.b.toNat - 32) ∉ (slotAt s s.cur.sid).busy →
    dstFree o (atIssue s) →
    let h := hGet s s.cur.sid (o.b.toNat - 32)
    (h.kind ≠ 0 → h.kind ≠ 5 → h.kind ≠ 7 →
      (wB o ≤ hCap h → exec (.qfill o) s = .next (completeIssue (deliver (dstRid o) 1
        (word (min (hFree s s.cur.sid h) (2 ^ 32 - 1))) (atIssue s))))
      ∧ (hCap h < wB o → exec (.qfill o) s = .next (trapsAt s 0x0E (word (o.b.toNat - 32)) (word (wB o)))))
    ∧ ((h.kind = 0 ∨ h.kind = 5 ∨ h.kind = 7) → exec (.qfill o) s = .next (trapsAt s 0x0E (word (o.b.toNat - 32)) 0#64)))
  ∧ (∀ o s, o.exr = false → o.exq = none → 0 < (bitsI o).1 → (bitsI o).1 < 2 ^ 32 → o.a.toNat < 32 →
    80 + o.a.toNat % 16 ∉ (slotAt s s.cur.sid).busy →
    let sid := s.cur.sid
    let hn := o.a.toNat % 16
    let n := (bitsI o).1
    let h := hGet s sid hn
    (h.kind = 2 → (slotAt s sid).paired = true ∧ partnerGone s sid = false) →
    (kindSrc h.kind = true → o.a.toNat < 16 →
      (hFilled s sid h < n → exec (.qadv o) s = .next (waitState s))
      ∧ (n ≤ hFilled s sid h → exec (.qadv o) s = .next (completeIssue (advRead sid hn n (atIssue s)))))
    ∧ ((h.kind = 1 ∨ h.kind = 2 ∨ h.kind = 3) → 16 ≤ o.a.toNat → (h.kind ≠ 1 → drained s sid = true) →
      (h.kind = 1 → ringWritten s sid h = true) →
      (hFree s sid h < n → exec (.qadv o) s = .next (waitState s))
      ∧ (n ≤ hFree s sid h → exec (.qadv o) s = .next (completeIssue (advWrite sid hn n (atIssue s)))))
    ∧ (h.kind = 1 → 16 ≤ o.a.toNat → ringWritten s sid h = false → exec (.qadv o) s = .next (waitState s))
    ∧ (kindSrc h.kind = false → o.a.toNat < 16 → exec (.qadv o) s = .next (trapsAt s 0x0E (word hn) 0#64))
    ∧ ((h.kind = 0 ∨ 4 ≤ h.kind) → 16 ≤ o.a.toNat → exec (.qadv o) s = .next (trapsAt s 0x0E (word hn) 0#64)))
  ∧ (∀ s sid hn n, (hGet s sid hn).kind = 1 → advRead sid hn n s = bumpCount (ringKey sid (hGet s sid hn)) n s
    ∧ advWrite sid hn n s = bumpCount (ringKey sid (hGet s sid hn) + 8) n s)
  ∧ (∀ s key n, s.memOk → mem64 (bumpCount key n s) key = mem64 s key + word n
      ∧ keepsOutside s (bumpCount key n s) key 8 ∧ (bumpCount key n s).g = s.g)
  ∧ (∀ o s x, o.xi.length ≤ 1 → (bitsR o).1 = 4 → 32 ≤ o.b.toNat → o.b.toNat < 48 → 80 + (o.b.toNat - 32) ∉ (slotAt s s.cur.sid).busy →
    dstFree o (atIssue s) →
    let h := hGet s s.cur.sid (o.b.toNat - 32)
    (h.kind = 5 ∨ h.kind = 7) → wB o ≤ hCap h → wB o ≤ hFilled s s.cur.sid h → hSenderSlot s s.cur.sid h (wB o) = some x →
    exec (.qsendWho o) s = .next (completeIssue (deliver (dstRid o) 1 x (atIssue s))))

/-- Messages (R101 to R103, R249 to R251): a legal XPUT sends its word, and arrives 6 + 3h cycles after issue and 8 more for each die
boundary; a legal QSEND within the package sends its word and holds its strand until the answer, one to another package holds it for its
record too; a target word with bits 63:41 or a slot
above 10 traps with NO_RANGE. -/
def Obligations.MessagesLeave : Prop :=
  (∀ o s tgt x u p, readsAB .b o s tgt x u → o.xi.length ≤ 1 → (bitsR o).1 < 64 → (bitsR o).1 % 32 ≠ 0 →
    targetM tgt (nbit (bitsR o).1 5) u = .ok (p, u) → stepRefuses u s.cur.sid (p * 2048 + wfield tgt 2 11) = false →
    drained u s.cur.sid = true → accFree u s.cur.sid msgBank true true = true →
    let v := markLast o u
    let far := isXchg v s.cur.sid (p * 2048 + wfield tgt 2 11)
    let r := sendMsg false tgt p ((bitsR o).1 % 32) x false (if far = true then xchgIssued s.cur.sid v else v)
    exec (.xput o) s = .next (completeIssue (modAcc r.1 (fun a => { a with xchg := far }) r.2)))
  ∧ (∀ o s tgt x u, readsAB .b o s tgt x u → o.xi.length ≤ 1 → (bitsR o).1 < 16 → (o.exr = true → o.c = 0) →
    targetM tgt (nbit (bitsR o).1 3) u = .ok (pkgOfC (cidOf s.cur.sid), u) → drained u s.cur.sid = true →
    accFree u s.cur.sid msgBank true true = true →
    let v := markLast o u
    ∃ t m, exec (.qsend o) s = .next t ∧ m.isQ = true ∧ m.target = tgt ∧ m.payload = x ∧ m.idx = (bitsR o).1 % 4
      ∧ m.sender = selfWord s s.cur.sid ∧ m.acc = v.nextId
      ∧ due t (s.now + msgDelay v (cidOf s.cur.sid) m) .qsendArrival { p := .msg m }
      ∧ (slotAt t s.cur.sid).st = .waiting ∧ (slotAt t s.cur.sid).hold = true ∧ (slotAt t s.cur.sid).heldBy = v.nextId)
  ∧ (∀ o s tgt x u p, readsAB .b o s tgt x u → o.xi.length ≤ 1 → (bitsR o).1 < 16 → (o.exr = true → o.c = 0) →
    targetM tgt (nbit (bitsR o).1 3) u = .ok (p, u) → p ≠ pkgOfC (cidOf s.cur.sid) → drained u s.cur.sid = true →
    accFree u s.cur.sid msgBank true true = true →
    let v := markLast o u
    ∃ t a, exec (.qsend o) s = .next t ∧ tfind t.accs v.nextId = some a ∧ a.kind = .msg ∧ a.dpkg = p
      ∧ (slotAt t s.cur.sid).st = .waiting ∧ (slotAt t s.cur.sid).hold = true ∧ (slotAt t s.cur.sid).heldBy = v.nextId)
  ∧ (∀ s tgt loc, (wfield tgt 41 23 ≠ 0 ∨ wfield tgt 13 4 > 10) → targetM tgt loc s = .error (.trap 6 tgt 0#64))
  ∧ (∀ s tgt, wfield tgt 41 23 = 0 → wfield tgt 13 4 ≤ 10 → targetM tgt true s = .ok (pkgOfC (cidOf s.cur.sid), s))
  ∧ (∀ s tgt idx x, let p := pkgOfC (cidOf s.cur.sid)
    let a := tidOfC (cidOf s.cur.sid)
    let b := tidOfC (p * 8192 + wfield tgt 0 13)
    ∃ m, due (sendMsg false tgt p idx x false s).2 (s.now + (6 + 3 * hops a b + 8 * crossings a b)) .xputArrival { p := .msg m }
      ∧ m.payload = x ∧ m.idx = idx ∧ m.target = tgt ∧ m.foreign = false)

/-- Receive queues (R101 to R103, R472): a message for a bound queue goes into its first free hardware slot when the ring is empty and no
append of its sender's is in flight; with the slots full it is held, or marked SPILL appended to the ring; a full ring answers FULL. ACCEPT
lets the sender go on in the next cycle; HOLD has it resend SENDTMO cycles later, marked SPILL; FULL traps it with QUEUE_OVERFLOW. A ring
append raises the write count of the ring it went to, once every earlier entry is written; a refill moves entries to the slots, but for
positions whose store failed, up to a page that is not there, which it waits for; a notice of a trap collector goes in as a message does
(R395). -/
def Obligations.ReceiveQueues : Prop :=
  (∀ s m, s.ev.p = .msg m → msgRefused s m = false → msgFits s m = true →
    (rxAt s (targetCid m * 4 + m.idx)).owner = some (wfield m.target 13 4) →
    let rk := targetCid m * 4 + m.idx
    let q := rxAt s rk
    (direct s rk m.sender = true → ∀ a, tfind s.accs m.acc = some a → a.dpkg = pkgOfC (cidOf a.sid) → ∃ t, exec .qsendArrival s = .next t
      ∧ (rxAt t rk).ents = q.ents ++ [(m.sender, m.payload)] ∧ due t (s.now + a.ansLat) .qsendAnswer { a := m.acc, b := 0 })
    ∧ (ringZero s rk m.sender = true → 64 ≤ q.ents.length → m.spill = false → ∀ a, tfind s.accs m.acc = some a → a.dpkg = pkgOfC (cidOf a.sid) →
      exec .qsendArrival s = .next (post (s.now + a.ansLat) .qsendAnswer { a := m.acc, b := 1 } s))
    ∧ (q.rrd = q.rwr → q.ahead = [] → appending s rk m.sender = false → ringZero s rk m.sender = true)
    ∧ (ringZero s rk m.sender = false ∨ (64 ≤ q.ents.length ∧ m.spill = true) →
      (ovRoom q = 0 → ∀ a, tfind s.accs m.acc = some a → a.dpkg = pkgOfC (cidOf a.sid) →
        exec .qsendArrival s = .next (post (s.now + a.ansLat) .qsendAnswer { a := m.acc, b := 2 } s))
      ∧ (ovRoom q ≠ 0 → exec .qsendArrival s = .next (rxAppend rk m s))))
  ∧ (∀ s a, tfind s.accs s.ev.a = some a → accAway s s.ev.a = false →
    (s.ev.b = 0 → heldOn s a.sid a.gen s.ev.a = true →
      exec .qsendAnswer s = .next (resume a.sid 1 { s with accs := tdel s.accs s.ev.a }))
    ∧ (s.ev.b = 1 → heldOn s a.sid a.gen s.ev.a = true → exec .qsendAnswer s
        = .next (post (s.now + (coreAt s (cidOf a.sid)).sendtmo) .qsendResend { a := s.ev.a } s))
    ∧ (s.ev.b = 2 → a.dpkg = pkgOfC (cidOf a.sid) → heldOn s a.sid a.gen s.ev.a = true → exec .qsendAnswer s
        = .next (recordTrap a.sid 0x0F (word a.va) 0#64 (slotAt s a.sid).pc { s with accs := tdel s.accs s.ev.a })))
  ∧ (∀ s a rk pos m, tfind s.accs s.ev.a = some a → a.ret = .ring rk pos m →
    exec .qsendResend s = .next (post (s.now + a.ansLat) .qsendArrival { p := .msg { m with spill := true } } s))
  ∧ (∀ s, ∃ t, exec .ringAppendDone s = .next t ∧ t.mem = s.mem ∧ t.g = s.g
    ∧ ((rxAt s s.ev.a).epoch = s.ev.b → (rxAt s s.ev.a).ahead = [] → s.ev.c = (rxAt s s.ev.a).rwr →
        (rxAt t s.ev.a).rwr = (rxAt s s.ev.a).rwr + 1 ∧ (rxAt t s.ev.a).pendApp = (rxAt s s.ev.a).pendApp - 1)
    ∧ ((rxAt s s.ev.a).epoch = s.ev.b → s.ev.c ≠ (rxAt s s.ev.a).rwr → (rxAt s s.ev.a).rwr ∉ (rxAt s s.ev.a).ahead →
        (rxAt t s.ev.a).rwr = (rxAt s s.ev.a).rwr ∧ s.ev.c ∈ (rxAt t s.ev.a).ahead)
    ∧ ((rxAt s s.ev.a).epoch ≠ s.ev.b → rxAt t s.ev.a = rxAt s s.ev.a))
  ∧ (∀ s, let q := rxAt s s.ev.a
    let n := min (64 - q.ents.length) (q.rwr - q.rrd)
    let es := ringEnts s (pkgOfC (s.ev.a / 4)) (coreAt s (s.ev.a / 4)).tenant q n q.rrd
    q.owner.isSome = true → ∃ t, exec .receiveQueueRefill s = .next t
      ∧ (rxAt t s.ev.a).ents = q.ents ++ (es.zipIdx.filter fun e => !q.gaps.contains (q.rrd + e.2)).map (·.1)
      ∧ (rxAt t s.ev.a).rrd = q.rrd + es.length ∧ t.mem = s.mem
      ∧ (es.length ≠ n → due t (s.now + 1) .receiveQueueRefill { a := s.ev.a }))
  ∧ (∀ s, let q := rxAt s s.ev.a
    noticeTaken s s.ev.a s.ev.c s.ev.b (s.ev.d / 32 * 64 + s.ev.e) = true → direct s s.ev.a s.ev.w = true →
    ∃ t, exec .trcNoticeArrival s = .next t ∧ (rxAt t s.ev.a).ents = q.ents ++ [(s.ev.w, s.ev.w2)] ∧ t.mem = s.mem)

/-! ### Barriers, supersteps, vector groups -/

/-- Barrier wires and supersteps (R50 to R52, R272 to R274): a BAR of a core that is no member traps with BARRIER_MEMBER; a member's BAR
holds its strand as an arrival; the release and the time-out answer 0 and 1 to the waiting strands and begin the next episode; SSTEP and
SSYNC arrive at their boundary and trap outside their step; a boundary ends the step, lets arrived strands go on and counts the end of an
exchange step. -/
def Obligations.BarriersAndSupersteps : Prop :=
  (∀ o s gid g, o.lo.toNat % 64 < 4 → (o.exr = true → o.a = 0) → drained s s.cur.sid = true → dstFree o (atIssue s) →
    gangHere s (cidOf s.cur.sid) gid g →
    let b := o.lo.toNat % 64
    (cidOf s.cur.sid ∉ barMembers g b → exec (.bar_ o) s = .next (trapsAt s 0x17 (word b) 0#64))
    ∧ (cidOf s.cur.sid ∈ barMembers g b → (barAt s (gid * 4 + b)).owed = [] → ∃ t, exec (.bar_ o) s = .next t
      ∧ (slotAt t s.cur.sid).hold = true ∧ (slotAt t s.cur.sid).st = .waiting
      ∧ cidOf s.cur.sid ∈ (barAt t (gid * 4 + b)).cores ∧ (s.cur.sid, dstRid o) ∈ (barAt t (gid * 4 + b)).waiters
      ∧ ((∀ c ∈ barMembers g b, c ∈ (barAt t (gid * 4 + b)).cores) →
          due t (s.now + 4 + 2 * (g.w + g.h)) .barRelease { a := gid, b := b, c := (barAt s (gid * 4 + b)).episode })))
  ∧ (∀ s, let k := s.ev.a * 4 + s.ev.b
    (barAt s k).episode = s.ev.c → exec .barRelease s
      = .next (barAnswer 0#64 (barAt s k).waiters (modBar k (fun x => { episode := x.episode + 1 }) s)))
  ∧ (∀ s g, let k := s.ev.a * 4 + s.ev.b
    tfind s.gangs s.ev.a = some g → g.active = true → (barAt s k).episode = s.ev.c →
    (barMembers g s.ev.b).all (fun c => (barAt s k).cores.contains c) = false → exec .barTimeout s
      = .next (barAnswer 1#64 (barAt s k).waiters (modBar k (fun x => {
          episode := x.episode + 1, owed := (barMembers g s.ev.b).filter fun c => !(x.cores.contains c) }) s)))
  ∧ (∀ st s sid dst r, (slotAt s sid).hold = true → (slotAt s sid).st ≠ .trapped → (slotAt s sid).st ≠ .free →
    barAnswer st ((sid, dst) :: r) s = barAnswer st r (resume sid 1 (lateResult sid dst st s)))
  ∧ (∀ o s gid g, o.exr = false → o.exq = none → o.xi = [] → gangHere s (cidOf s.cur.sid) gid g → drained s s.cur.sid = true →
    (g.sstep = true → g.exch = false → ∃ t, exec (.sstep o) s = .next t ∧ (slotAt t s.cur.sid).hold = true
      ∧ (slotAt t s.cur.sid).st = .waiting ∧ (slotAt t s.cur.sid).arrived = true)
    ∧ (g.sstep = true → g.exch = true → ∃ t, exec (.ssync o) s = .next t ∧ (slotAt t s.cur.sid).hold = true
      ∧ (slotAt t s.cur.sid).st = .waiting ∧ (slotAt t s.cur.sid).arrived = true)
    ∧ (g.sstep = false ∨ g.exch = true → exec (.sstep o) s = .next (trapsAt s 0x17 0#64 0#64))
    ∧ (g.sstep = false ∨ g.exch = false → exec (.ssync o) s = .next (trapsAt s 0x17 0#64 0#64)))
  ∧ (∀ s g, tfind s.gangs s.ev.a = some g → g.stepNo = s.ev.b → g.posted = true → g.sstep = true → ∃ t g', exec .superstepBoundary s = .next t
    ∧ tfind t.gangs s.ev.a = some g' ∧ g'.exch = !g.exch ∧ g'.stepNo = g.stepNo + 1
    ∧ g'.count = (if g.exch = true then g.count + 1#64 else g.count)
    ∧ ∀ c ∈ gangCores g, ∀ n, n < 11 → (slotAt t (c * 16 + n)).arrived = false)

/-- The group that a GJOIN with the word `w` joins: the one of the package that waits with that word, or a new one. -/
def groupKeyFor (s : State) (pkg : Nat) (w : Word) : Nat :=
  match s.groups.find? fun p => p.2.word == w && !p.2.formed && p.1 / 2 ^ 40 == pkg with
  | some p => p.1
  | none => pkg * 2 ^ 40 + s.nextId

/-- The cycles of a message from the leader's core to the farthest member's (R308, R250). -/
def groupReach (cores : List Nat) : Nat :=
  cores.foldl (fun m c => max m (6 + 3 * hops (tidOfC (cores.headD 0)) (tidOfC c) + 8 * crossings (tidOfC (cores.headD 0)) (tidOfC c))) 6

/-- Vector groups (R46 to R48, R308, R309). GJOIN traps with BARRIER_MEMBER: reason 1 for a malformed word, 2 where the core or a member is
outside the word or the gang, 3 for a core in a group; else it holds its strand as a member, its core in the group, and the last member's
arrival forms the group 2(6 + 3h) cycles later, 16 more for each die boundary; BARTMO starts with the first. GROUP_FORM makes the lowest
core's member the leader, the others attached, and answers 0 to each; the time-out removes the group and answers 1. An instruction of the
leader reaches an attached follower 1 + 3h cycles after its issue, 8 more for each die boundary; a follower whose own next address differs
from the leader's detaches. REJOIN completes for a strand in no group and for an attached member; a detached follower waits at it; the leader
waits for every detached follower, then those waiting with its tag attach again and go on at the instruction after it. GLEAVE takes its
strand out of the group; the leader's dissolves it. -/
def Obligations.VectorGroups : Prop :=
  (∀ o s w t, readsB .b o s w t → dstFree o t →
    let cid := cidOf s.cur.sid
    let cores := groupCores (pkgOfC cid) w
    let inside := ∃ g, gangOfCore t cid = some g ∧ (cores.all fun c => inGang g (tidOfC c)) = true
    (groupBad w = true → exec (.gjoin o) s = .next (trapsAt s 0x17 w 1#64))
    ∧ (groupBad w = false → (cid ∉ cores ∨ ¬ inside) → exec (.gjoin o) s = .next (trapsAt s 0x17 w 2#64))
    ∧ (groupBad w = false → cid ∈ cores → inside → (coreAt t cid).group.isSome = true → exec (.gjoin o) s = .next (trapsAt s 0x17 w 3#64))
    ∧ (groupBad w = false → cid ∈ cores → inside → (coreAt t cid).group = none →
      let gk := groupKeyFor t (pkgOfC cid) w
      let g := (tfind t.groups gk).getD { word := w, first := s.now }
      let v := { g with members := g.members ++ [(s.cur.sid, dstRid o)] }
      g.formed = false → ∃ u, exec (.gjoin o) s = .next u ∧ (coreAt u cid).group = some gk ∧ tfind u.groups gk = some v
        ∧ (slotAt u s.cur.sid).hold = true ∧ (slotAt u s.cur.sid).st = .waiting
        ∧ (v.members.length = 1 → (coreAt s cid).bartmo ≠ 0 → due u (s.now + (coreAt s cid).bartmo) .gjoinTimeout { a := gk, b := g.first })
        ∧ (v.members.length = cores.length → due u (s.now + 2 * groupReach cores) .groupForm { a := gk })))
  ∧ (∀ s g, tfind s.groups s.ev.a = some g → ∃ g', exec .groupForm s = .next (groupAnswer 0#64 g.members { s with
        groups := tput s.groups s.ev.a g' })
    ∧ g'.formed = true ∧ g'.members = [] ∧ (∀ m ∈ g.members, m.1 = g'.leader ∨ m.1 ∈ g'.attached)
    ∧ (∀ m ∈ g.members, cidOf g'.leader ≤ cidOf m.1) ∧ (g.members ≠ [] → ∃ m ∈ g.members, m.1 = g'.leader))
  ∧ (∀ s g, tfind s.groups s.ev.a = some g → g.formed = false → g.members.length ≠ wfield g.word 14 4 + 1 → g.first = s.ev.b →
    ∃ t, exec .gjoinTimeout s = .next (groupAnswer 1#64 g.members t) ∧ tfind t.groups s.ev.a = none ∧ t.slots = s.slots
      ∧ ∀ m ∈ g.members, (coreAt t (cidOf m.1)).group = none)
  ∧ (∀ st s sid dst r, (slotAt s sid).hold = true → (slotAt s sid).st ≠ .trapped → (slotAt s sid).st ≠ .free →
    groupAnswer st ((sid, dst) :: r) s = groupAnswer st r (resume sid 1 (lateResult sid dst st s)))
  ∧ (∀ s gk g f, groupOf s s.cur.sid = some (gk, g) → g.leader = s.cur.sid → f ∈ g.attached → (f, 256) ∉ g.waiting →
    let a := tidOfC (cidOf s.cur.sid)
    let b := tidOfC (cidOf f)
    due (completeIssue s) (s.now + 1 + 3 * hops a b + 8 * crossings a b) .followerIssue
      { a := f, b := (slotAt s f).gen, p := .fwd ⟨s.cur.ipc, s.cur.words, (advance s (slotAt s s.cur.sid)).2, true⟩ })
  ∧ (∀ s f, s.ev.p = .fwd f → (slotAt s s.ev.a).gen = s.ev.b → followsLeader s s.ev.a = true →
    exec .followerIssue s = .next (modSlot s.ev.a (fun x => { x with fwd := x.fwd ++ [f] }) s))
  ∧ (∀ s gk g f r, groupOf s s.cur.sid = some (gk, g) → g.leader ≠ s.cur.sid → s.cur.sid ∈ g.attached →
    (slotAt s s.cur.sid).fwd = f :: r → f.compare = true →
    let next := (advance s (slotAt s s.cur.sid)).2
    (f.next = next → (slotAt (completeIssue s) s.cur.sid).fwd = r ∧ tfind (completeIssue s).groups gk = some g)
    ∧ (f.next ≠ next → (slotAt (completeIssue s) s.cur.sid).fwd = [] ∧ tfind (completeIssue s).groups gk
        = some { g with attached := g.attached.erase s.cur.sid, detached := g.detached ++ [s.cur.sid] }))
  ∧ (∀ o s, o.xi.length = 1 → (bitsR o).1 < 256 →
    (groupOf s s.cur.sid = none → exec (.rejoin o) s = .next (completeIssue (atIssue s)))
    ∧ (∀ gk g, groupOf s s.cur.sid = some (gk, g) →
      (g.leader ≠ s.cur.sid → s.cur.sid ∈ g.attached → exec (.rejoin o) s = .next (completeIssue (atIssue s)))
      ∧ (g.leader ≠ s.cur.sid → s.cur.sid ∉ g.attached → ∃ t v, exec (.rejoin o) s = .next t ∧ (slotAt t s.cur.sid).hold = true
        ∧ (slotAt t s.cur.sid).st = .waiting ∧ tfind t.groups gk = some v ∧ v.waiting = g.waiting ++ [(s.cur.sid, (bitsR o).1)])
      ∧ (g.leader = s.cur.sid → allAtRejoin g = false → exec (.rejoin o) s = .next (waitState s))
      ∧ (g.leader = s.cur.sid → allAtRejoin g = true →
        exec (.rejoin o) s = .next (completeIssue (rejoinAll gk (bitsR o).1 g (atIssue s))))))
  ∧ (∀ s gk g tag, ∃ v, tfind (rejoinAll gk tag g s).groups gk = some v
    ∧ (∀ w ∈ g.waiting, w.2 = tag → w.1 ∈ v.attached ∧ w.1 ∉ v.detached) ∧ (∀ f ∈ g.attached, f ∈ v.attached))
  ∧ (∀ s gk g tag w, (g.waiting.map (·.1)).Nodup → w ∈ g.waiting → (slotAt s w.1).hold = true → (slotAt s w.1).st ≠ .swapped →
    let t := rejoinAll gk tag g s
    (slotAt t w.1).st = .ready ∧ (slotAt t w.1).hold = false
    ∧ (w.2 = tag → (slotAt t w.1).pc = (advance s (slotAt s s.cur.sid)).2)
    ∧ (w.2 ≠ tag → (slotAt t w.1).pc = (slotAt (resume w.1 1 s) w.1).pc))
  ∧ (∀ o s, o.exr = false → o.exq = none → o.xi = [] → exec (.gleave o) s = .next (completeIssue (leaveGroup s.cur.sid (atIssue s))))
  ∧ (∀ s sid, groupOf s sid = none → leaveGroup sid s = s)
  ∧ (∀ s sid gk g, groupOf s sid = some (gk, g) → (coreAt (leaveGroup sid s) (cidOf sid)).group = none
    ∧ (g.leader = sid → tfind (leaveGroup sid s).groups gk = none
        ∧ ∀ f, f ∈ g.attached ++ g.detached → (coreAt (leaveGroup sid s) (cidOf f)).group = none)
    ∧ (g.leader ≠ sid → tfind (leaveGroup sid s).groups gk = some { g with
        attached := g.attached.erase sid, detached := g.detached.erase sid, waiting := g.waiting.filter fun w => w.1 != sid }))
/-! ### Engine commands -/

/-- The checks of an engine command's issue pass (R259): the port handle, the descriptor in the own scratchpad, a completion port where a
completion is asked for, and a free command slot; `t` is the state after the base register is read. -/
def pushReady (o : Ops) (eng : Nat) (s : State) (hn : Nat) (h : Handle) (dp : Nat) (d : List Word) (t : State) (want : Bool) : Prop :=
  classTrap .a s = none ∧ portM o eng 32 (atIssue s) = .ok ((hn, h), atIssue s) ∧ descM o 32 (atIssue s) = .ok ((dp, d), t)
  ∧ cplM hn dp eng h.ch want t = .ok ((), t) ∧ portSlotM o hn h t = .ok ((), t)

/-- CPY, GET, PUT, SREAD and SWRITE push one command with their descriptor and go on 5 cycles after issue (R259 to R262, R264); a copy
joins its channel. -/
def Obligations.EngineCommandsPush : Prop :=
  (∀ o s hn h dp d t,
    let w2 := d.getD 2 0#64
    let sp := d.getD 0 0#64
    let tp := d.getD 1 0#64
    let a := rowSpan sp (wfield w2 0 20) (wfield w2 20 16) (signed32 (wfield (d.getD 3 0#64) 0 32))
    let b := rowSpan tp (wfield w2 0 20) (wfield w2 20 16) (signed32 (wfield (d.getD 3 0#64) 32 32))
    pushReady o 2 s hn h dp d t (wfield w2 52 1 == 1) → wfield w2 53 11 = 0 → wfield sp 60 4 = 0 → wfield tp 60 4 = 0 →
    spanM sp a.1 a.2 true false t = .ok ((), t) → spanM tp b.1 b.2 false true t = .ok ((), t) →
    (b.2 ≠ 0 → stepRowsM (wfield tp 0 56) (signed32 (wfield (d.getD 3 0#64) 32 32)) (wfield w2 0 20) (wfield w2 20 16) t = .ok ((), t)) →
    h.ch < (tileAt t (tidOfC (cidOf s.cur.sid))).copyq.length →
    ∃ u c, exec (.cpy o) s = .next u ∧ tfind u.cmds t.nextId = some c ∧ c.eng = 2 ∧ c.ch = h.ch ∧ c.desc = d ∧ c.sid = s.cur.sid
      ∧ t.nextId ∈ (tileAt u (tidOfC (cidOf s.cur.sid))).copyq.getD h.ch [] ∧ (slotAt u s.cur.sid).readyAt = s.now + 5)
  ∧ (∀ o s hn h dp d t,
    let own := tidOfC (cidOf s.cur.sid)
    pushReady o 3 s hn h dp d t (wfield (d.getD 2 0#64) 46 1 == 1) →
    (tOk t (own / 2048) false d = true → spanM (d.getD 0 0#64) (tLocal d : Nat) (tLen d) (tAop d == 12) true t = .ok ((), t) → h.ch = 0 →
      ∃ u c id, exec (.get_ o) s = .next u ∧ t.nextId ≤ id ∧ tfind u.cmds id = some c ∧ c.eng = 3 ∧ c.op = 20 ∧ c.desc = d
        ∧ c.sid = s.cur.sid ∧ (slotAt u s.cur.sid).readyAt = s.now + 5)
    ∧ (tOk t (own / 2048) true d = true → spanM (d.getD 0 0#64) (tLocal d : Nat) (tLen d) true false t = .ok ((), t) → h.ch = 0 →
      (tPkg d = identityOf t (own / 2048) → stepRowsM (tRemote d) 0 (tLen d) 1 t = .ok ((), t)) →
      (tLen d = 0 ∨ remoteUsed t (cidOf s.cur.sid) < 32) →
      ∃ u c id, exec (.put_ o) s = .next u ∧ t.nextId ≤ id ∧ tfind u.cmds id = some c ∧ c.eng = 3 ∧ c.op = 21 ∧ c.desc = d
        ∧ c.sid = s.cur.sid ∧ (slotAt u s.cur.sid).readyAt = s.now + 5))
  ∧ (∀ o s hn h dp d t,
    let w2 := d.getD 2 0#64
    let bp := d.getD 0 0#64
    pushReady o 4 s hn h dp d t (wfield w2 52 1 == 1) → h.ch = 0 → wfield bp 60 4 = 0 → wfield bp 0 9 = 0 → inWindow (wfield bp 0 56) = false →
    wfield w2 53 11 = 0 → wfield (d.getD 3 0#64) 16 48 = 0 →
    (spanM bp (wfield bp 0 56 : Nat) (sBytes d) false true t = .ok ((), t) → ∃ u c, exec (.sread o) s = .next u
      ∧ tfind u.cmds t.nextId = some c ∧ c.eng = 4 ∧ c.op = 22 ∧ c.desc = d ∧ c.sid = s.cur.sid ∧ (slotAt u s.cur.sid).readyAt = s.now + 5)
    ∧ (spanM bp (wfield bp 0 56 : Nat) (sBytes d) true false t = .ok ((), t) → ∃ u c, exec (.swrite o) s = .next u
      ∧ tfind u.cmds t.nextId = some c ∧ c.eng = 4 ∧ c.op = 23 ∧ c.desc = d ∧ c.sid = s.cur.sid ∧ (slotAt u s.cur.sid).readyAt = s.now + 5))

/-- A copy within the own scratchpad moves its bytes in its own order and touches no other byte; a completion element takes the ring's slot
WRC and raises WRC; GET reads its remote bytes, then writes them at LOCAL; PUT reads LOCAL, then writes its remote bytes, and frees its
remote-store entry; a remote atomic goes to the engine of its location, which answers the old value (R260, R261, R263, R396, R473). -/
def Obligations.EngineTransfersComplete : Prop :=
  (∀ s c so ds len, s.memOk → tfind s.cmds s.ev.a = some c → c.tile = tidOfC (cidOf c.sid) → c.status = 0 → c.cpl = false → c.xchg = false →
    c.placed = false → c.off = 0 → c.step = s.ev.b → s.ev.flag = false → s.ev.a ∈ (tileAt s c.tile).copyq.getD c.ch [] → released s c.entries = true →
    c.desc.getD 0 0#64 = word (ownBase + so) → c.desc.getD 1 0#64 = word (ownBase + ds) →
    wfield (c.desc.getD 2 0#64) 0 20 = len → wfield (c.desc.getD 2 0#64) 20 16 = 1 → 0 < len → so + len ≤ 2 ^ 20 → ds + len ≤ 2 ^ 20 →
    so + len ≤ ds ∨ ds + len ≤ so →
    ∃ t, exec .copyComplete s = .next t
      ∧ (∀ i, i < len → mget t.mem (spKey c.tile (ds + i)) = mget s.mem (spKey c.tile (so + i)))
      ∧ keepsOutside s t (spKey c.tile ds) len ∧ tfind t.cmds s.ev.a = none ∧ t.g = s.g)
  ∧ (∀ s c h, tfind s.cmds s.ev.c = some c → cmdAway s c = false → cmdLive s c = true → cplHandle s c.sid c.eng c.ch = some h →
    ringFilled s c.sid (hGet s c.sid h) < 2 ^ (hGet s c.sid h).sz →
    exec .completionElementPlace s
      = .next (if s.ev.flag = true then endCmd s.ev.c (ringPush c.sid h s.ev.w s)
          else modCmd s.ev.c (fun c => { c with elem := true }) (ringPush c.sid h s.ev.w s)))
  ∧ (∀ s sid h x, s.memOk →
    let r := hGet s sid h
    let t := ringPush sid h x s
    mem64 t (ringSlotKey sid r (ringWr s sid r)) = x ∧ ringWr t sid r = (ringWr s sid r + 1) % 2 ^ 64)
  ∧ (∀ s c, tfind s.cmds s.ev.a = some c → s.ev.b = 1 → s.ev.flag = false →
    exec .getRequestServe s = .next (sendRequest .getRequestServe s.ev.a c s))
  ∧ (∀ s c q va key, tfind s.cmds s.ev.a = some c → s.ev.b ≠ 1 → s.ev.flag = false → c.status = 0 → tTarget s (tidOfC (cidOf c.sid) / 2048) c.desc = some q →
    (∀ n, n = tLen c.desc → remoteCheck s (tidOfC (cidOf c.sid)) q (tRemote c.desc) n (coreAt s (cidOf c.sid)).tenant
        (coreAt s (cidOf c.sid)).part = (va, .ok key)) →
    let own := tidOfC (cidOf c.sid)
    (c.op ≠ 21 → released s c.entries = true → ∃ t b, exec .getRequestServe s = .next t
      ∧ tfind t.cmds s.ev.a = some b ∧ b.data = remoteRead s own q (tRemote c.desc) (tLen c.desc) (coreAt s (cidOf c.sid)).tenant
      ∧ (tKey s c.desc = own / 2048 → due t (s.now + (tLeg s own c.desc).2) .getComplete { a := s.ev.a })
      ∧ (tKey s c.desc ≠ own / 2048 → ∃ id k, tfind t.pkts id = some k ∧ k.ev = .getComplete ∧ k.arg = { a := s.ev.a }
          ∧ k.fk = tKey s c.desc * 2 ∧ k.dst = own / 2048) ∧ t.mem = s.mem)
    ∧ (released s c.entries = true → tRemote c.desc % tLen c.desc = 0 → ∃ t a, exec .remoteAtomicServe s = .next t
      ∧ tfind t.accs s.nextId = some a ∧ a.kind = (if tAop c.desc = 12 then .cas else .atom) ∧ a.size = tLen c.desc ∧ a.key = some key
      ∧ (1 ≤ tAop c.desc → tAop c.desc ≤ 11 → a.op = tAop c.desc - 1)
      ∧ a.data = natBytes (tLen c.desc) (c.desc.getD 3 0#64).toNat
      ∧ a.cmp = natBytes (tLen c.desc) c.result.toNat ∧ a.ret = .engine s.ev.a
      ∧ a.ansLat = (if tKey s c.desc = pkgOfC (cidOf c.sid) then (tLeg s own c.desc).2 else (tLen c.desc + 79) / 80)
      ∧ due t s.now .atomicPerform { a := s.nextId } ∧ t.mem = s.mem ∧ t.g = s.g))
  ∧ (∀ s a id c, tfind s.accs s.ev.a = some a → accAway s s.ev.a = false → a.ret = .engine id → a.kind = .atom ∨ a.kind = .cas →
    a.xchg = false → s.ev.flag = false → tfind s.cmds id = some c → ∃ t b, exec .loadResult s = .next t ∧ tfind t.cmds id = some b ∧ b.data = a.data
      ∧ (a.dpkg = pkgOfC (cidOf a.sid) → due t s.now .getComplete { a := id })
      ∧ (a.dpkg ≠ pkgOfC (cidOf a.sid) → ∃ i k, tfind t.pkts i = some k ∧ k.ev = .getComplete ∧ k.arg = { a := id }
          ∧ k.dst = pkgOfC (cidOf a.sid)) ∧ tfind t.accs s.ev.a = none ∧ t.mem = s.mem)
  ∧ (∀ s c off, s.memOk → tfind s.cmds s.ev.a = some c → c.status = 0 → c.cpl = false → c.xchg = false → c.placed = false → c.data ≠ [] →
    tLocal c.desc = ownBase + off → off + c.data.length ≤ 2 ^ 20 → ∃ t, exec .getComplete s = .next t
      ∧ mread t.mem (spKey (tidOfC (cidOf c.sid)) off) c.data.length = c.data
      ∧ keepsOutside s t (spKey (tidOfC (cidOf c.sid)) off) c.data.length ∧ tfind t.cmds s.ev.a = none)
  ∧ (∀ s c off, tfind s.cmds s.ev.a = some c → c.status = 0 → wfield (c.desc.getD 2 0#64) 45 1 = 0 → released s c.entries = true →
    engHeld s s.ev.a c = false → s.ev.b = 0 → s.ev.flag = false → (c.step ≠ 1 ∨ cmdAway s c = false) → 0 < tLen c.desc → tLocal c.desc = ownBase + off →
        off + tLen c.desc ≤ 2 ^ 20 →
    storePath s (tidOfC (cidOf c.sid)) c.desc = 0 ∨ storeRoom s (ferOfTile (tidOfC (cidOf c.sid))) (tLen c.desc) = true →
    ∃ t b, exec .putLocalComplete s = .next t ∧ tfind t.cmds s.ev.a = some b
      ∧ b.data = mread s.mem (spKey (tidOfC (cidOf c.sid)) off) (tLen c.desc)
      ∧ (storePath s (tidOfC (cidOf c.sid)) c.desc = 0 → b.slotFree = true
          ∧ due t (s.now + (tLeg s (tidOfC (cidOf c.sid)) c.desc).1) .putDataArrival { a := s.ev.a })
      ∧ (storePath s (tidOfC (cidOf c.sid)) c.desc ≠ 0 → due t (s.now + 1) .putLocalComplete { a := s.ev.a, b := 1 }) ∧ t.mem = s.mem)
  ∧ (∀ s c, tfind s.cmds s.ev.a = some c → s.ev.b = 1 → wfield (c.desc.getD 2 0#64) 45 1 = 0 →
    exec .putLocalComplete s = .next (modCmd s.ev.a (fun c => { c with slotFree := true }) s))
  ∧ (∀ s c q key, s.memOk → tfind s.cmds s.ev.a = some c → c.op = 21 → c.status = 0 →
    tTarget s (tidOfC (cidOf c.sid) / 2048) c.desc = some q → inWindow (tRemote c.desc) = true →
    tRemote c.desc % 2 ^ 20 + c.data.length ≤ 2 ^ 20 →
    remoteCheck s (tidOfC (cidOf c.sid)) q (tRemote c.desc) c.data.length (coreAt s (cidOf c.sid)).tenant (coreAt s (cidOf c.sid)).part
      = (tRemote c.desc, .ok key) →
    ∃ t, exec .putDataArrival s = .next t ∧ mread t.mem key c.data.length = c.data ∧ keepsOutside s t key c.data.length
      ∧ (tKey s c.desc = tidOfC (cidOf c.sid) / 2048 →
          due t (s.now + (tLeg s (tidOfC (cidOf c.sid)) c.desc).2) .putRemoteComplete { a := s.ev.a })
      ∧ (tKey s c.desc ≠ tidOfC (cidOf c.sid) / 2048 → ∃ i k, tfind t.pkts i = some k ∧ k.ev = .putRemoteComplete
          ∧ k.arg = { a := s.ev.a } ∧ k.dst = tidOfC (cidOf c.sid) / 2048))
  ∧ (∀ s c, tfind s.cmds s.ev.a = some c → c.status = 0 → c.cpl = false → c.xchg = false → c.placed = false → ∃ t, exec .putRemoteComplete s = .next t
      ∧ tfind t.cmds s.ev.a = none ∧ tfind t.accs c.acc = none ∧ t.mem = s.mem)
  ∧ (∀ s c, tfind s.cmds s.ev.a = some c → c.status = 0 → c.cpl = false → c.xchg = false → s.ev.b = 0 → s.ev.c = 0 → s.ev.flag = false →
      released s c.entries = true →
    engHeld s s.ev.a c = false →
    let own := tidOfC (cidOf c.sid)
    let ten := (coreAt s (cidOf c.sid)).tenant
    let va := wfield (c.desc.getD 0 0#64) 0 56
    let ns := Config.bigBlocks (wfield (c.desc.getD 2 0#64) 16 4) (wfield (c.desc.getD 2 0#64) 20 32)
    let key := ssdKey (own / 2048) (wfield (c.desc.getD 2 0#64) 16 4) (wfield (c.desc.getD 2 0#64) 20 32)
      ((c.desc.getD 1 0#64).toNat * (if ns = true then 4096 else 512))
    (∀ a k, engCheck s own va ten (sBytes c.desc) = (a, .ok k) →
      ∃ t, exec .storageIoComplete s = .next t ∧ tfind t.cmds s.ev.a = none
        ∧ (c.op = 22 → t.mem = (engWrite own va ten (mread s.ssd key (sBytes c.desc)) (markDSpan own va (sBytes c.desc) s)
          (strandWriter c.sid s.now)).mem ∧ t.ssd = s.ssd)
        ∧ (c.op = 23 → t.ssd = mwrite s.ssd key ((engRead s own va ten (sBytes c.desc)).getD []) ∧ t.mem = s.mem)))
/-! ### Links, transport, package failure -/

/-- A link (R443, R446, R454): a flit in sequence is taken and acknowledged, one with a CRC error is NAKed, one out of sequence is
discarded; an acknowledgement removes the flits up to it from the replay buffer, a NAK sends them again from the flit it names, but not
while the port retrains (R455); an idle port sends a keep-alive flit; silence brings the port down; a lane loss halves the width to lanes
that still work and retrains, or brings the port down; after retraining the replay buffer goes again from its oldest flit. -/
def Obligations.LinkLayer : Prop :=
  (∀ s q, let p := portAt s s.ev.a
    p.up = true → p.peer = some q →
    (s.ev.b = p.recvSeq → s.ev.flag = true → ∃ t, exec .linkFlitReceive s = .next t
      ∧ (portAt t s.ev.a).recvSeq = (p.recvSeq + 1) % 4096 ∧ due t (s.now + 1000) .linkAck { a := q, b := s.ev.b })
    ∧ (s.ev.b = p.recvSeq → s.ev.flag = false → ∃ t, exec .linkFlitReceive s = .next t
      ∧ (portAt t s.ev.a).recvSeq = p.recvSeq ∧ due t (s.now + 1000) .linkNak { a := q, b := s.ev.b })
    ∧ (s.ev.b ≠ p.recvSeq → ∃ t, exec .linkFlitReceive s = .next t ∧ (portAt t s.ev.a).recvSeq = p.recvSeq
      ∧ (portAt t s.ev.a).lastRx = s.now))
  ∧ (∀ s l f r, (portAt s s.ev.a).replay = l ++ f :: r → f.seq = s.ev.b → (∀ x ∈ l, x.seq ≠ s.ev.b) → ∃ t, exec .linkAck s = .next t
      ∧ (portAt t s.ev.a).replay = r ∧ t.mem = s.mem)
  ∧ (∀ s l f r q, (portAt s s.ev.a).up = true → (portAt s s.ev.a).retraining = false → (portAt s s.ev.a).peer = some q →
    (portAt s s.ev.a).replay = l ++ f :: r → f.seq = s.ev.b → (∀ x ∈ l, x.seq ≠ s.ev.b) →
    ∃ t, exec .linkNak s = .next t ∧ (∀ x ∈ f :: r, due t (s.now + 1000) .linkFlitReceive { a := q, b := x.seq, flag := true })
      ∧ (portAt t s.ev.a).replay = (portAt s s.ev.a).replay ∧ (portAt t s.ev.a).replays = (portAt s s.ev.a).replays + 1)
  ∧ (∀ s, (portAt s s.ev.a).retraining = true → exec .linkNak s = .next s)
  ∧ (∀ s, let p := portAt s s.ev.a
    p.up = true → p.retraining = false → p.lastTx + 2500 ≤ s.now → p.replay.length < 512 → ∃ t f, exec .keepaliveSend s = .next t
      ∧ (portAt t s.ev.a).replay = p.replay ++ [f] ∧ f.seq = p.sendSeq ∧ f.vc = 4 ∧ (portAt t s.ev.a).sendSeq = (p.sendSeq + 1) % 4096
      ∧ due t (s.now + 2500) .keepaliveSend { a := s.ev.a })
  ∧ (∀ s, let p := portAt s s.ev.a
    (p.up = true → p.lastRx ≤ s.ev.b → ∃ t, exec .keepaliveTimeout s = .next t ∧ (portAt t s.ev.a).up = false)
    ∧ (s.ev.b < p.lastRx → exec .keepaliveTimeout s = .next s))
  ∧ (∀ s, let p := portAt s s.ev.a
    let ok := (List.range 8).filter fun i => p.lanes.testBit i && !s.ev.b.testBit i
    p.up = true → s.ev.b &&& p.lanes ≠ 0 →
    (p.width = 8 → 4 ≤ ok.length → ∃ t d, exec .laneLoss s = .next t ∧ (portAt t s.ev.a).width = 4 ∧ (portAt t s.ev.a).retraining = true
      ∧ d ≤ 5000 ∧ due t (s.now + d) .linkRetrainDone { a := s.ev.a })
    ∧ (p.width = 4 → 2 ≤ ok.length → ∃ t d, exec .laneLoss s = .next t ∧ (portAt t s.ev.a).width = 2 ∧ (portAt t s.ev.a).retraining = true
      ∧ d ≤ 5000 ∧ due t (s.now + d) .linkRetrainDone { a := s.ev.a })
    ∧ (p.width ≤ 2 ∨ ok.length < 2 → ∃ t, exec .laneLoss s = .next t ∧ (portAt t s.ev.a).up = false))
  ∧ (∀ s, (portAt s s.ev.a).retraining = true → ∃ t, exec .linkRetrainDone s = .next t ∧ (portAt t s.ev.a).retraining = false
      ∧ (portAt t s.ev.a).replay = (portAt s s.ev.a).replay ∧ t.g = s.g
      ∧ ∀ q f, (portAt s s.ev.a).peer = some q → f ∈ (portAt s s.ev.a).replay →
        due t (s.now + 1000) .linkFlitReceive { a := q, b := f.seq, flag := true })
  ∧ (∀ s, let w := word (2 ^ 63 + 2 ^ 61 + s.ev.a % 36 / 18 * 2 ^ 6 + s.ev.a % 18)
    noticeTaken s s.ev.b s.ev.c s.ev.d (s.ev.a / 36 * 64 + s.ev.e) = true → direct s s.ev.b w = true →
    ∃ t, exec .bandwidthEventArrival s = .next t ∧ (rxAt t s.ev.b).ents = (rxAt s s.ev.b).ents ++ [(w, s.ev.w)] ∧ wfield w 61 3 = 5)
  ∧ (∀ s f, noticeTaken s s.ev.b s.ev.c s.ev.d (s.ev.a / 36 * 64 + s.ev.e) = false → f = ferAt s (portFer s.ev.a) →
    ∃ t, exec .bandwidthEventArrival s = .next t ∧ t.rx = s.rx
      ∧ tget (ferAt t (portFer s.ev.a)).evlost s.ev.e 0 = (tget f.evlost s.ev.e 0 + 1) % 2 ^ 32)

/-- Transport (R444, R445): the last packet of a message to arrive has the message's effect, once, and every copy that the store holds is
acknowledged; the acknowledgement frees the store; a packet not acknowledged goes again, and after the eighth resend its destination counts
as unreachable and its packets are dropped. -/
def Obligations.TransportDeliversOnce : Prop :=
  (∀ s k, tfind s.pkts s.ev.a = some k → (pkgAt s k.dst).failed = false → (pkgAt s k.dst).present = true → k.kept = true → ∃ t b,
    exec .transportPacketArrival s = .next t ∧ tfind t.pkts s.ev.a = some b ∧ b.arrived = true
    ∧ due t (s.now + k.toGo) .transportAck { a := s.ev.a }
    ∧ (k.arrived = false → (∀ p ∈ t.pkts, p.2.msg = k.msg → p.2.arrived = true) → due t s.now k.ev k.arg)
    ∧ (k.arrived = true → t.agenda = s.agenda ++ [(s.now + k.toGo, .transportAck, { a := s.ev.a })]))
  ∧ (∀ s k, tfind s.pkts s.ev.a = some k → (pkgAt s k.dst).failed = false → (pkgAt s k.dst).present = true → k.kept = false → ∃ t,
    exec .transportPacketArrival s = .next t ∧ tfind t.pkts s.ev.a = none
    ∧ (k.arrived = false → (∀ p ∈ t.pkts, p.2.msg = k.msg → p.2.arrived = true) → due t s.now k.ev k.arg))
  ∧ (∀ s k, tfind s.pkts s.ev.a = some k → ∃ t, exec .transportAck s = .next t ∧ tfind t.pkts s.ev.a = none
    ∧ (ferAt t k.fk).tsfree = (ferAt s k.fk).tsfree + k.bytes)
  ∧ (∀ s k, tfind s.pkts s.ev.a = some k → k.resends ≠ s.ev.b → exec .transportResend s = .next s)
  ∧ (∀ s k port, tfind s.pkts s.ev.a = some k → k.resends = s.ev.b → k.st = 2 → k.resends < 8 → reachable s (k.fk / 2) k.dst = true →
    pickPort s (k.fk / 2) k.dst = some port →
    packetAhead { s with pkts := tput s.pkts s.ev.a { k with st := 1, resends := k.resends + 1 } } s.ev.a k = false →
    (portAt s port).retraining = false → (portAt s port).replay.length + flitsOf k.bytes ≤ 512 → ∃ t b, exec .transportResend s = .next t
    ∧ tfind t.pkts s.ev.a = some b ∧ b.resends = k.resends + 1 ∧ b.st = 2 ∧ b.port = port
    ∧ (ferAt t k.fk).resends = (ferAt s k.fk).resends + 1
    ∧ due t (packetDue s port k) .transportPacketArrival { a := s.ev.a, b := k.resends + 1 }
    ∧ (k.kept = true → due t (s.now + 125000) .transportResend { a := s.ev.a, b := k.resends + 1 }))
  ∧ (∀ s k, tfind s.pkts s.ev.a = some k → k.resends = s.ev.b → k.st = 2 → 8 ≤ k.resends → k.dst ≠ k.fk / 2 →
    ∃ t, exec .transportResend s = .next t ∧ reachable t (k.fk / 2) k.dst = false
    ∧ (∀ p ∈ t.pkts, ¬ (p.2.fk / 2 = k.fk / 2 ∧ p.2.dst = k.dst)) ∧ t.mem = s.mem)

/-- Package failure (R454, R455): the package that finds it tells every live package of its domain that it can reach, and takes the notice
itself; the notice is recorded once, no packet for the failed package stays, and the Vergers are told to drop it. -/
def Obligations.PackageFailureSpreads : Prop :=
  (∀ s, s.ev.b ∉ (pkgAt s s.ev.a).failedPkgs → ∃ t, exec .packageFailureDeclare s = .next t ∧ t.mem = s.mem ∧ t.g = s.g
    ∧ ∀ q ∈ s.pkgs, q.1 ≠ s.ev.b → q.2.present = true → q.2.failed = false → q.2.domain = (pkgAt s s.ev.a).domain →
      (q.1 = s.ev.a → due t s.now .failureNotice { a := q.1, b := s.ev.b })
      ∧ (q.1 ≠ s.ev.a → reachable s s.ev.a q.1 = true → ∃ id b, tfind t.pkts id = some b ∧ b.dst = q.1 ∧ b.fk = s.ev.a * 2
        ∧ b.ev = .failureNotice ∧ b.arg = { a := q.1, b := s.ev.b } ∧ due t s.now .transportResend { a := id }))
  ∧ (∀ s, s.ev.b ∈ (pkgAt s s.ev.a).failedPkgs → exec .failureNotice s = .next s ∧ exec .packageFailureDeclare s = .next s)
  ∧ (∀ s, s.ev.b ∉ (pkgAt s s.ev.a).failedPkgs → s.ev.flag = true → ∃ t, exec .failureNotice s = .next t
    ∧ s.ev.b ∈ (pkgAt t s.ev.a).failedPkgs ∧ due t s.now .guardPackageFailure { a := s.ev.a, b := s.ev.b }
    ∧ ∀ p ∈ t.pkts, ¬ (p.2.fk / 2 = s.ev.a ∧ p.2.dst = s.ev.b))
/-! ### Translation, parked accesses, pages, teams -/

/-- The decision of R411 at an MTU, for an access that is not an SC access: a translation that is not cached is walked for first, for at
most 640 cycles in steps of 160, and the walk is counted (R408); then an access to a resident page of its tenant is performed at the page's
frame; a page of another tenant refuses a store, which is logged, and fails any other access with PAGE_FATAL, reason 4; a FATAL page fails
with reason 3; a STORED page parks the access and starts its fill, a MOVING one parks it; a REMOTE one, or one that another package owns,
parks it and asks that package; an address with no owner fails with reason 1, one this package owns without a page with reason 2; where
1,024 accesses are parked already the access is sent again (R413). -/
def Obligations.MtuDecidesByTheLeaf : Prop :=
  (∀ s a, tfind s.accs s.ev.a = some a → a.parked = false → s.ev.b ≠ 1 → a.sc = none →
    let mk := mtuOfVa a.dpkg a.va
    ∃ n, n ≤ 4 ∧ (a.va / 65536 ∉ (mtuAt s mk).seen → 1 ≤ n)
      ∧ (n = 0 → exec .mtuAccessDecide s = .next (decideAcc s.ev.a a { s with free := s.free + 1 }))
      ∧ (n ≠ 0 → ∃ t, exec .mtuAccessDecide s = .next t ∧ due t (s.now + 160 * n) .mtuAccessDecide { a := s.ev.a, b := 1 }
        ∧ (mtuAt t mk).walks = (mtuAt s mk).walks + 1 ∧ t.mem = s.mem ∧ t.g = s.g))
  ∧ (∀ s a, tfind s.accs s.ev.a = some a → a.parked = false → s.ev.b = 1 →
    let e := leafOf s a.dpkg a.va
    let page := a.va / 65536
    let mk := mtuOfVa a.dpkg a.va
    let mine := leafTenant e = 0 ∨ leafTenant e = a.tenant
    let room := (mtuAt s mk).parked < 1024
    let z := modMtu mk (fun m => { m with seen := if m.seen.contains page then m.seen else page :: m.seen }) s
    let at' := max a.perfAt s.now
    (leafV e = true → mine → encLost s a.dpkg e = false → leafSt e = 0 → ∃ t, exec .mtuAccessDecide s = .next t
      ∧ tfind t.accs s.ev.a = some { a with
          key := some (devKey a.dpkg (leafFrame e * 65536 + a.va % 65536)), decided := true, perfAt := at' }
      ∧ due t at' (perfEvent a) { a := s.ev.a } ∧ t.mem = s.mem ∧ t.g = s.g)
    ∧ (leafV e = true → ¬ mine → a.kind = .store → a.store = true → ∃ t b, exec .mtuAccessDecide s = .next t
      ∧ tfind t.accs s.ev.a = some b ∧ b.performed = true ∧ t.mem = s.mem
      ∧ ((mtuAt s mk).log.length < 64 → (mtuAt t mk).log = (mtuAt s mk).log ++ [(cidOf a.sid, a.va, a.tenant)])
      ∧ (a.dpkg = pkgOfC (cidOf a.sid) → due t (s.now + 110) .remoteRejection { a := s.ev.a }))
    ∧ (leafV e = true → ¬ mine → a.store = false → exec .mtuAccessDecide s = .next (failParked s.ev.a 0x19 4 0 z))
    ∧ (leafV e = true → mine → encLost s a.dpkg e = false → leafSt e = 4 →
        exec .mtuAccessDecide s = .next (failParked s.ev.a 0x19 3 0 z))
    ∧ (leafV e = true → mine → encLost s a.dpkg e = false → leafSt e = 1 → room → exec .mtuAccessDecide s
        = .next (post (s.now + 60) .sqeFillRequest { a := a.dpkg, b := page }
            (changeLeaf a.dpkg page (setField e 1 3 2) (parkAcc s.ev.a mk a z))))
    ∧ (leafV e = true → mine → encLost s a.dpkg e = false → leafSt e = 2 → room →
        exec .mtuAccessDecide s = .next (parkAcc s.ev.a mk a z))
    ∧ (leafV e = true → mine → encLost s a.dpkg e = false → leafSt e = 3 → room →
        exec .mtuAccessDecide s = .next (sendFault a.dpkg (wfield e 8 21) s.ev.a a (parkAcc s.ev.a mk a z)))
    ∧ (leafV e = true → mine → encLost s a.dpkg e = false → (leafSt e = 1 ∨ leafSt e = 2 ∨ leafSt e = 3) → ¬ room →
        exec .mtuAccessDecide s = .next (post (s.now + 256) .mtuParkRetry { a := s.ev.a } z))
    ∧ (leafV e = false → ownerOf s a.dpkg a.va = none → exec .mtuAccessDecide s = .next (failParked s.ev.a 0x19 1 0 z))
    ∧ (∀ m, leafV e = false → ownerOf s a.dpkg a.va = some (identityOf s a.dpkg, m) →
        exec .mtuAccessDecide s = .next (failParked s.ev.a 0x19 2 0 z))
    ∧ (∀ o m, leafV e = false → ownerOf s a.dpkg a.va = some (o, m) → o ≠ identityOf s a.dpkg → room →
        exec .mtuAccessDecide s = .next (sendFault a.dpkg o s.ev.a a (parkAcc s.ev.a mk a z))))
  ∧ (∀ s, exec .mtuParkRetry s = .next (post (s.now + 110) .mtuAccessDecide { a := s.ev.a } s))
  ∧ (∀ s id mk a, a.parked = false → (mtuAt (parkAcc id mk a s) mk).parked = (mtuAt s mk).parked + 1
    ∧ ∃ b, tfind (parkAcc id mk a s).accs id = some b ∧ b.parked = true ∧ b.parkAt = s.now)
  ∧ (∀ s pkg o id a, o / 65536 = (pkgAt s pkg).domain → reachable s pkg (o % 65536) = true → pkg ≠ o % 65536 →
    (mtuAt (sendFault pkg o id a s) (mtuOfVa pkg a.va)).remote = (mtuAt s (mtuOfVa pkg a.va)).remote + 1
    ∧ ∃ n b, tfind (sendFault pkg o id a s).pkts n = some b ∧ b.dst = o % 65536 ∧ b.ev = .faultServe
      ∧ b.arg = { a := o % 65536, b := a.va / 65536, c := pkg, e := a.va % 65536, w := word id })

/-- Page fills (R415 to R418): a request takes a frame of its engine, or waits for one, or fails where its port cannot be used; the completion
copies the page into the frame, makes the entry RESIDENT and clean, and has the parked accesses decided again, each performed at the frame
with its answer 110 cycles on its way; a failure makes the entry STORED again, returns the frame and fails the parked accesses with PAGE_IO; a
command not completed in time is aborted and fails with reason 2. -/
def Obligations.PageFills : Prop :=
  (∀ s, let p := fillPort s s.ev.a s.ev.b
    let k := s.ev.a * 4 + p.1 / 4
    (portReady s s.ev.a p.1 p.2 = false → ∃ t, exec .sqeFillRequest s = .next t
      ∧ due t s.now .sqeFillFail { a := s.ev.a, b := s.ev.b, c := 3 } ∧ (sqeAt t k).frames = (sqeAt s k).frames)
    ∧ (portReady s s.ev.a p.1 p.2 = true → fillsOut s s.ev.a p.1 < 256 → (sqeAt s k).frames = [] →
      ∃ t f, exec .sqeFillRequest s = .next t ∧ tfind t.fills (fillKey s.ev.a s.ev.b) = some f ∧ f.waiting = true
      ∧ (sqeAt t k).waiting = (sqeAt s k).waiting ++ [s.ev.b] ∧ (sqeAt t k).noframe = (sqeAt s k).noframe + 1)
    ∧ (∀ f r, portReady s s.ev.a p.1 p.2 = true → fillsOut s s.ev.a p.1 < 256 → (sqeAt s k).frames = f :: r →
      ∃ t x, exec .sqeFillRequest s = .next t
      ∧ tfind t.fills (fillKey s.ev.a s.ev.b) = some x ∧ x.frame = f ∧ x.issued = s.now ∧ x.waiting = false ∧ (sqeAt t k).frames = r
      ∧ due t (s.now + 20 + (sqeAt s k).tmo) .sqeCommandTimeout { a := s.ev.a, b := s.ev.b, c := s.now }))
  ∧ (∀ s f, tfind s.fills (fillKey s.ev.a s.ev.b) = some f → f.waiting = false →
    let e := leafOf s s.ev.a (s.ev.b * 65536)
    let w := backingOf s s.ev.a e
    let src := ssdKey s.ev.a (wfield w.2 32 4) (wfield w.2 0 32) (w.1.toNat * 2 ^ wfield w.2 36 4)
    let dst := devKey s.ev.a (f.frame * 65536)
    (f.issued = s.ev.d → s.ev.c = 0 → exec .sqeFillComplete s = .next (post s.now .mtuInstallNotice { a := s.ev.a, b := s.ev.b }
      (changeLeaf s.ev.a s.ev.b (setField (setField (setField e 1 3 0) 4 1 0) 8 24 f.frame)
        (dropOlds (fun a => decide (dst ≤ a) && decide (a < dst + 65536))
          { s with mem := splice s.mem dst 65536 (cellsOf s.ssd src 65536 dst), fills := tdel s.fills (fillKey s.ev.a s.ev.b) }))))
    ∧ (f.issued = s.ev.d → s.ev.c ≠ 0 → exec .sqeFillComplete s
        = .next (post s.now .sqeFillFail { a := s.ev.a, b := s.ev.b, c := 1, d := s.ev.c } s))
    ∧ (f.issued ≠ s.ev.d → exec .sqeFillComplete s = .next s)
    ∧ (f.issued = s.ev.c → ∃ t, exec .sqeCommandTimeout s = .next t
        ∧ due t (s.now + 40) .sqeFillFail { a := s.ev.a, b := s.ev.b, c := 2 } ∧ t.mem = s.mem))
  ∧ (∀ m dst n cells a, Memory.wf m = true → (∀ c ∈ cells, dst ≤ c.1 ∧ c.1 < dst + n) → (a < dst ∨ dst + n ≤ a) →
      mget (splice m dst n cells) a = mget m a)
  ∧ (∀ s a, parkedOf s s.ev.a s.ev.b = [a] → ∀ x, tfind s.accs a = some x → x.parked = true →
    let e := leafOf s x.dpkg x.va
    let at' := max x.perfAt s.now
    leafV e = true → (leafTenant e = 0 ∨ leafTenant e = x.tenant) → encLost s x.dpkg e = false → leafSt e = 0 →
    ∃ t, exec .mtuInstallNotice s = .next t ∧ due t at' (perfEvent x) { a := a }
      ∧ tfind t.accs a = some { x with
          key := some (devKey x.dpkg (leafFrame e * 65536 + x.va % 65536)), decided := true, ansLat := 110, perfAt := at' }
      ∧ t.mem = s.mem)
  ∧ (∀ s f, tfind s.fills (fillKey s.ev.a s.ev.b) = some f → ∃ t, exec .sqeFillFail s = .next t
    ∧ ∀ id ∈ parkedOf s s.ev.a s.ev.b, due t (s.now + 110) .parkedAccessFail { a := id, b := 0x18, c := s.ev.c, d := s.ev.d })

/-- A parked access's answer writes its register and leaves its parking place, and where the gang is saved it goes to the strand's frame in
the save area; a failed one traps the strand that issued it, the address in TVALUE, the reason in TVAL2 and TEPC at the instruction, and its
register waits no longer (R413, R421, R425). Team swap-out and restore (R361, R362, R475): where the oldest parked access of a team has waited
SWAPTHR cycles and a strand is PARKED, the team stops issuing, and 16 cycles and one for each register later its live registers are in its
frames and its strands SWAPPED, but for a TRAPPED one; a restore brings the registers back and lets each strand go on. -/
def Obligations.ParkedAccessesAndSwappedTeams : Prop :=
  (∀ s a dst, tfind s.accs s.ev.a = some a → accAway s s.ev.a = false → a.parked = true → a.xchg = false → a.ret = .reg dst .zext →
    accLive s a = true → (slotAt s a.sid).st ≠ .swapped → 0 < dst → dst < 64 → ∃ t, exec .parkedAccessAnswer s = .next t
    ∧ gGet t a.sid dst = word (bytesNat a.data) ∧ tfind t.accs s.ev.a = none ∧ keepsG s t a.sid dst
    ∧ (mtuAt t (mtuOfVa a.dpkg a.va)).parked = (mtuAt s (mtuOfVa a.dpkg a.va)).parked - 1)
  ∧ (∀ s a dst gid, tfind s.accs s.ev.a = some a → accAway s s.ev.a = true → a.gang = some gid → a.parked = true →
    a.ret = .reg dst .zext → 0 < dst → dst < 64 → s.memOk →
    let tid := tidOfC (cidOf a.sid)
    let k := devKey (tid / 2048) (Config.saveArea gid tid) + (frameKey a.sid - spKey tid 0)
    ∃ t, exec .parkedAccessAnswer s = .next t ∧ mem64 t (k + 8 * dst) = word (bytesNat a.data)
    ∧ (mem64 t (k + 0x388)).toNat.testBit dst = true ∧ due t (s.now + 1) .parkedAccessAnswer s.ev ∧ t.g = s.g
    ∧ (mtuAt t (mtuOfVa a.dpkg a.va)).parked = (mtuAt s (mtuOfVa a.dpkg a.va)).parked - 1)
  ∧ (∀ s a dst e, tfind s.accs s.ev.a = some a → accAway s s.ev.a = false → failWaits s a = false → a.xchg = false →
    a.ret = .reg dst e → accLive s a = true → (slotAt s a.sid).st ≠ .swapped → (slotAt s a.sid).st ≠ .trapped →
    (slotAt s a.sid).killed = false → slotNo a.sid ≠ 0 → ∃ t, exec .parkedAccessFail s = .next t
    ∧ (slotAt t a.sid).st = .trapped ∧ (slotAt t a.sid).tcause = s.ev.b ∧ (slotAt t a.sid).tvalue = word a.va
    ∧ (slotAt t a.sid).tepc = a.ipc ∧ (s.ev.c < 256 → wfield (slotAt t a.sid).tval2 0 8 = s.ev.c))
  ∧ (∀ s sid, s.ev.d = 1 → teamSlots s s.ev.a s.ev.b = [sid] → (slotAt s sid).frozen = true →
    let x := slotAt s sid
    let keep (r : Nat) : Prop := (x.live &&& x.wrG).toNat.testBit r = true
    ∃ t, exec .teamSwapOut s = .next t ∧ (slotAt t sid).st = (if x.st = .trapped then .trapped else .swapped)
      ∧ (slotAt t sid).frozen = false ∧ t.g = s.g
      ∧ (s.memOk → ∀ r, 0 < r → r < 64 → (keep r → mem64 t (frameKey sid + 8 * r) = gGet s sid r)
          ∧ (¬ keep r → mem64 t (frameKey sid + 8 * r) = mem64 s (frameKey sid + 8 * r)))
      ∧ (s.memOk → keepsOutside s t (frameKey sid) 0x400)
      ∧ (∀ r, 0 < r → r < 64 → (keep r → tget t.place (fileKey sid r) .phys = .frame)
          ∧ (¬ keep r → tget t.place (fileKey sid r) .phys = .phys)))
  ∧ (∀ s sid t0, s.ev.d ≠ 1 → teamSlots s s.ev.a s.ev.b = [sid] → oldestParked s s.ev.a s.ev.b = some t0 →
    (coreAt s s.ev.a).swapthr ≠ 0 → (slotAt s sid).frozen = false →
    let due' := t0 + (coreAt s s.ev.a).swapthr
    (due' ≤ s.now → (slotAt s sid).st = .parked → ∃ t, exec .teamSwapOut s = .next t ∧ (slotAt t sid).frozen = true
      ∧ due t (s.now + 16 + teamRegs s [sid]) .teamSwapOut { a := s.ev.a, b := s.ev.b, d := 1 })
    ∧ (s.now < due' → (slotAt s sid).st ≠ .swapped → ∃ t, exec .teamSwapOut s = .next t ∧ t.slots = s.slots ∧ t.mem = s.mem
      ∧ due t due' .teamSwapOut { a := s.ev.a, b := s.ev.b }))
  ∧ (∀ s sid, teamSlots s s.ev.a s.ev.b = [sid] → (slotAt s sid).st = .swapped → (slotAt s sid).frozen = false →
    let x := slotAt s sid
    ∃ t, exec .teamRestore s = .next t
    ∧ (slotAt t sid).st = (if heldParked s x = true then .parked else if x.hold = true then .waiting else .ready)
    ∧ (∀ r, 0 < r → r < 64 → gGet t sid r = (if x.wrG.toNat.testBit r = true then mem64 s (frameKey sid + 8 * r) else gGet s sid r))
    ∧ (slotAt t sid).pres = mem64 s (frameKey sid + 0x388) ∧ (slotAt t sid).live = mem64 s (frameKey sid + 0x390) ∧ t.mem = s.mem)

/-- Pages of other packages (R419, R420): a fault for a resident page that its owner lets migrate is served in 200 cycles, the entry is then
FILLING, and once the page is drained, 224 cycles later at the least, its bytes go; a page that may not migrate, an invalid or FATAL one and
an unreachable owner fail the access with reasons 5, 2, 3 and 7; an arriving page takes a frame and is acknowledged; the acknowledgement
makes the owner's entry REMOTE and returns its frame; an eviction's Write puts the page on the SSD, and after the Flush the page is STORED
and its frame returned; an error status makes it resident again. -/
def Obligations.PagesMigrate : Prop :=
  (∀ s, (pkgAt s s.ev.a).present = true → (pkgAt s s.ev.a).failed = false → s.ev.d < 5 →
    let p := s.ev.a
    let va := s.ev.b * 65536
    let e := leafOf s p va
    let q := wfield e 8 21 % 65536
    let fail (n : Nat) : State := answerFault p s.ev.c s.ev.b s.ev.w.toNat n s
    (s.ev.w2.toNat ≠ 2 →
      (leafV e = false → exec .faultServe s = .next (fail 2))
      ∧ (leafV e = true → leafSt e = 4 → exec .faultServe s = .next (fail 3))
      ∧ (∀ o, leafV e = true → leafSt e < 3 → ownerOf s p va = some (o, false) → exec .faultServe s = .next (fail 5))
      ∧ (leafV e = true → leafSt e = 3 → wfield e 8 21 ≠ identityOf s s.ev.c → s.ev.d = 4 → exec .faultServe s = .next (fail 6))
      ∧ (leafV e = true → leafSt e = 3 → wfield e 8 21 ≠ identityOf s s.ev.c → s.ev.d < 4 → reachable s p q = false →
        exec .faultServe s = .next (fail 7))
      ∧ (leafV e = true → leafSt e = 3 → wfield e 8 21 ≠ identityOf s s.ev.c → s.ev.d < 4 → reachable s p q = true → p ≠ q →
        ∃ t n b, exec .faultServe s = .next t ∧ tfind t.pkts n = some b ∧ b.dst = q ∧ b.ev = .faultServe
          ∧ b.arg = { s.ev with a := q, d := s.ev.d + 1, w2 := 0#64 })
      ∧ (∀ o, leafV e = true → leafSt e = 0 → ownerOf s p va = some (o, true) →
        (s.ev.w2 = 0#64 → exec .faultServe s = .next (post (s.now + 200) .faultServe { s.ev with w2 := 1#64 } s))
        ∧ (s.ev.w2 ≠ 0#64 → exec .faultServe s = .next (post (s.now + 224) .faultServe { s.ev with w2 := 2#64 }
            (changeLeaf p s.ev.b (setField e 1 3 2) s)))))
    ∧ (s.ev.w2.toNat = 2 → pageDraining s p s.ev.b = true → exec .faultServe s = .next (post (s.now + 1) .faultServe s.ev s))
    ∧ (s.ev.w2.toNat = 2 → pageDraining s p s.ev.b = false → p ≠ s.ev.c → ∃ t b, exec .faultServe s = .next t
      ∧ (∃ n, tfind t.pkts n = some b) ∧ b.dst = s.ev.c ∧ b.ev = .pageMigrationArrival ∧ t.mem = s.mem
      ∧ b.arg = { a := s.ev.c, b := s.ev.b, c := p, flag := wfield e 4 1 == 1, d := leafTenant e, e := s.ev.e
                  p := .cells (cellsOf s.mem (devKey p (leafFrame e * 65536)) 65536 0) }))
  ∧ (∀ s a, 16 ≤ s.ev.d → tfind s.accs s.ev.w.toNat = some a → a.parked = true → a.performed = false →
    exec .faultServe s = .next (failParked s.ev.w.toNat 0x19 (s.ev.d - 16) 0 s))
  ∧ (∀ s f r cells, (sqeAt s (migEngine s.ev.a s.ev.e)).frames = f :: r → s.ev.p = .cells cells → s.ev.a ≠ s.ev.c → ∃ t,
    exec .pageMigrationArrival s = .next t ∧ (sqeAt t (migEngine s.ev.a s.ev.e)).frames = r
    ∧ due t (s.now + 40) .mtuInstallNotice { a := s.ev.a, b := s.ev.b }
    ∧ ∃ n b, tfind t.pkts n = some b ∧ b.dst = s.ev.c ∧ b.ev = .migrationAck
      ∧ b.arg = { a := s.ev.c, b := s.ev.b, c := s.ev.a, e := s.ev.e })
  ∧ (∀ s, (sqeAt s (migEngine s.ev.a s.ev.e)).frames = [] →
    exec .pageMigrationArrival s = .next (post (s.now + 256) .pageMigrationArrival s.ev s))
  ∧ (∀ s, let e := leafOf s s.ev.a (s.ev.b * 65536)
    exec .migrationAck s = .next (post s.now .mtuInstallNotice { a := s.ev.a, b := s.ev.b }
      (returnFrame s.ev.a (migEngine s.ev.a s.ev.e) (leafFrame e)
        (changeLeaf s.ev.a s.ev.b (setField (setField (setField e 1 3 3) 4 1 0) 8 24 (identityOf s s.ev.c))
          (unback s.ev.a s.ev.b s)))))
  ∧ (∀ s, let e := leafOf s s.ev.a (s.ev.b * 65536)
    let w := backingOf s s.ev.a e
    let dst := ssdKey s.ev.a (wfield w.2 32 4) (wfield w.2 0 32) (w.1.toNat * 2 ^ wfield w.2 36 4)
    leafSt e = 2 →
    (s.ev.c = 0 → s.ev.flag = true → s.ev.d = 0 → ∃ t, exec .evictWritebackComplete s = .next t ∧ t.mem = s.mem
      ∧ t.ssd = splice s.ssd dst 65536 (cellsOf s.mem (devKey s.ev.a (leafFrame e * 65536)) 65536 dst))
    ∧ (s.ev.c = 0 → s.ev.flag = false ∨ s.ev.d ≠ 0 → exec .evictWritebackComplete s
      = .next (post s.now .mtuInstallNotice { a := s.ev.a, b := s.ev.b }
          (returnFrame s.ev.a (s.ev.a * 4 + wfield w.2 32 4 / 4) (leafFrame e)
            (changeLeaf s.ev.a s.ev.b (setField (setField e 1 3 1) 4 1 0) s))))
    ∧ (s.ev.c ≠ 0 → ∃ t, exec .evictWritebackComplete s = .next t ∧ (pkgAt t s.ev.a).evictErr = s.ev.c ∧ t.ssd = s.ssd
      ∧ due t s.now .mtuInstallNotice { a := s.ev.a, b := s.ev.b }))
  ∧ (∀ s pkg page e pa, s.memOk → leafAddr s pkg (page * 65536) = some pa →
      mem64 (changeLeaf pkg page e s) (devKey pkg pa) = e ∧ keepsOutside s (changeLeaf pkg page e s) (devKey pkg pa) 8)

/-! ### Guards -/

/-- Guard instructions (R106, R108 to R112, R117, R123, R125, R128, R265 to R268). BIND, UNBIND, GSTAT.STATE and .VER, GNEW and
GFREE send their message and hold the strand. The Verger, in its turn, answers: BIND of a correct record fills the lowest free user
entry, records the team's binding, makes an uninitialised guard FREE at version 1 and answers the entry; UNBIND removes binding and
entry; GSTAT answers the descriptor's word; GNEW an identity that was not in use, of a guard of the core's tenant; GFREE frees one that
no one uses; a refusal traps when its answer is back. UNBIND traps with reason 6 while a hold or request stands; ACQS and ACQX send a
request that carries the binding's VLAST and set PEND, with reason 2 where it holds or is pending and 3 without a binding; REL waits for
the team's vector stores to the area, lets go of HOLD at issue and starts the release; GSTAT reads the binding. -/
def Obligations.GuardInstructions : Prop :=
  (∀ o s gid p t ea bs, readsAB .a o s gid p t → dstFree o t → rawAt p (immR o * 8) 8 ea → rangeOk t ea 32 true false →
    recordM ea 32 t = .ok (bs, t) →
    (wfield ((bytesWords 4 bs).getD 3 0#64) 63 1 = 1 → (coreAt t (cidOf s.cur.sid)).heaptab ≠ 0 →
      engIn t (tidOfC (cidOf s.cur.sid)) (heapVa t (cidOf s.cur.sid) 0) (coreAt t (cidOf s.cur.sid)).tenant 4096) → wfield gid 48 16 = 0 →
          homeLost t (cidOf s.cur.sid) gid = false →
    ∃ z, exec (.bind_ o) s = .next z ∧ asksVerger (markLast o t) z .bind gid (dstRid o) (bytesWords 4 bs))
  ∧ (∀ o s gid t, readsA .a o s gid t → (o.exr = true → o.c = 0) → wfield gid 48 16 = 0 →
    homeLost t (cidOf s.cur.sid) gid = false →
    let cid := cidOf s.cur.sid
    (∃ z, exec (.gfree o) s = .next z ∧ asksVerger (markLast o t) z .free gid 0 [])
    ∧ (∀ g, checkIdM gid t = .ok (g, t) →
      (bindingOf t cid (slotAt t s.cur.sid).team gid = none → exec (.unbind o) s = .next (trapsAt s 0x0A gid 3#64))
      ∧ (∀ e, bindingOf t cid (slotAt t s.cur.sid).team gid = some e →
        ((rtView (rtAt t (cid * 64 + e))).hold ≠ 0 ∨ (bindAt t (cid * 64 + e)).pend = true →
          exec (.unbind o) s = .next (trapsAt s 0x0A gid 6#64))
        ∧ ((rtView (rtAt t (cid * 64 + e))).hold = 0 → (bindAt t (cid * 64 + e)).pend = false →
          (writeBehindOpen t cid e = true → exec (.unbind o) s = .next (waitState s))
          ∧ (writeBehindOpen t cid e = false → ∃ z, exec (.unbind o) s = .next z ∧ asksVerger (markLast o t) z .unbind gid 0 [])))))
  ∧ (∀ o s gid t, readsB .a o s gid t → dstFree o t → wfield gid 48 16 = 0 →
    homeLost t (cidOf s.cur.sid) gid = false → (bitsR o).1 % 4 = 1 ∨ (bitsR o).1 % 4 = 2 →
    ∃ z, exec (.gstatVerger o) s = .next z ∧ asksVerger (markLastB o t) z (.stat ((bitsR o).1 % 4 - 1)) gid (dstRid o) [])
  ∧ (∀ o s b t, readsB .a o s b t → dstFree o t →
    let cid := cidOf s.cur.sid
    let die := if wfield b 3 1 = 1 then dieOfTile (tidOfC cid) else wfield b 0 3
    (wfield b 4 60 ≠ 0 → exec (.gnew o) s = .next (trapsAt s 0x0A b 1#64))
    ∧ (wfield b 4 60 = 0 → ∃ z, exec (.gnew o) s = .next z
        ∧ asksVerger (markLastB o t) z .new (word (pkgOfC cid * 2 ^ 32 + die * 2 ^ 29)) (dstRid o) []))
  ∧ (∀ s q g, vergersTurn s q → q.op = .bind → checkId s q.cid q.guard = .ok g →
    let w := q.words
    let team := (slotAt s q.sid).team
    let home := wfield (w.getD 3 0#64) 63 1 == 1
    let base := (w.getD 0 0#64).toNat
    let len := (w.getD 1 0#64).toNat
    let lo := if home = true then base else wfield (w.getD 2 0#64) 0 56
    recordOk (tidOfC q.cid) (g.st == .uninit) w = true → (g.st ≠ .uninit → home = g.home ∧ base = g.base ∧ len / 256 = g.nsb) →
    (areaTaken s q.cid lo (lo + len) = true ∨ (bindingOf s q.cid team q.guard).isSome = true → vergerTraps s q 0x0A q.guard 4#64)
    ∧ (∀ e, areaTaken s q.cid lo (lo + len) = false → bindingOf s q.cid team q.guard = none → freeEntry s q.cid = some e →
      0 < q.rid → q.rid < 64 → (home = true ∨ g.st ≠ .uninit) →
      ∃ t, exec .guardRequest s = .next t ∧ gGet t q.sid q.rid = word e
        ∧ issuesAt t q (s.now + (askBack s q + if g.st = .uninit then 160 + len / 256 / 8 else 0))
        ∧ tfind t.binds (q.cid * 64 + e) = some { guard := q.guard, team := team }
        ∧ rtAt t (q.cid * 64 + e) = entryWords lo (lo + len) (if home = true then homeClass s q.cid q.guard lo (lo + len) else 2)
            true true true
        ∧ (g.st = .uninit → ∃ h, guardOf t q.guard = some h ∧ h.st = .free ∧ h.ver = 1 ∧ h.wbver = 1 ∧ h.home = true ∧ h.base = base
            ∧ h.nsb = len / 256)
        ∧ keepsOutside s t (frameKey q.sid) 0x400 ∧ keepsG s t q.sid q.rid))
  ∧ (∀ s q g, vergersTurn s q → checkId s q.cid q.guard = .ok g →
    (∀ e, q.op = .unbind → bindingOf s q.cid (slotAt s q.sid).team q.guard = some e →
      (rtView (rtAt s (q.cid * 64 + e))).hold = 0 → (bindAt s (q.cid * 64 + e)).pend = false →
      ∃ t, exec .guardRequest s = .next t ∧ issuesAt t q (s.now + askBack s q)
        ∧ tfind t.binds (q.cid * 64 + e) = none ∧ rtAt t (q.cid * 64 + e) = (0#64, 0#64) ∧ t.mem = s.mem ∧ t.g = s.g)
    ∧ (∀ n, q.op = .stat n → 0 < q.rid → q.rid < 64 → ∃ t, exec .guardRequest s = .next t ∧ gGet t q.sid q.rid = descWord g n
        ∧ issuesAt t q (s.now + askBack s q) ∧ keepsOutside s t (frameKey q.sid) 0x400 ∧ keepsG s t q.sid q.rid)
    ∧ (q.op = .free → g.holders = [] → g.waiting = [] → g.binds = [] → ∃ t, exec .guardRequest s = .next t
        ∧ guardOf t q.guard = none ∧ issuesAt t q (s.now + askBack s q) ∧ t.mem = s.mem ∧ t.g = s.g)
    ∧ (q.op = .free → ¬ (g.holders = [] ∧ g.waiting = [] ∧ g.binds = []) → vergerTraps s q 0x0A q.guard 6#64))
  ∧ (∀ s q c tv tv2, vergersTurn s q → q.op ≠ .new → checkId s q.cid q.guard = .error (c, tv, tv2) → vergerTraps s q c tv tv2)
  ∧ (∀ s q c tv tv2, s.ev.p = .gtrap q c tv tv2 → q.id ≠ 0 → heldOn s q.sid q.gen q.id = true →
    exec .guardRequest s = .next (recordTrap q.sid c tv tv2 (slotAt s q.sid).pc s))
  ∧ (∀ s q, vergersTurn s q → q.op = .new → 0 < q.rid → q.rid < 64 →
    let size := (pkgAt s (gPkg q.guard)).gmTabsz
    size ≤ 2 ^ 29 → ∃ x t, exec .guardRequest s = .next t ∧ gGet t q.sid q.rid = x ∧ keepsOutside s t (frameKey q.sid) 0x400
        ∧ issuesAt t q (s.now + askBack s q)
      ∧ ((s.guards.filter fun p => p.1 / 2 ^ 29 == gPkg q.guard * 8 + gDie q.guard).length + 1 < size → x ≠ 0#64)
      ∧ (x ≠ 0#64 → guardOf s x = none ∧ guardOf t x = some { tenant := (coreAt s q.cid).tenant } ∧ gPkg x = gPkg q.guard
          ∧ gDie x = gDie q.guard ∧ 0 < gIdx x ∧ gIdx x < size))
  ∧ (∀ o s gid t e, ∀ excl : Bool, readsA .a o s gid t → o.xi.length ≤ 1 → (bitsR o).1 < 2 → o.c = 0 → wfield gid 48 16 = 0 →
    let sid := s.cur.sid
    let cid := cidOf sid
    let hn := o.b.toNat - 32
    let i := if excl = true then Instr.acqx o else Instr.acqs o
    (homeLost t cid gid = true ∨ ∃ g, checkId t cid gid = .ok g) → bindingOf t cid (slotAt t sid).team gid = some e →
    let b := bindAt t (cid * 64 + e)
    ((rtView (rtAt t (cid * 64 + e))).hold ≠ 0 ∨ b.pend = true → exec i s = .next (trapsAt s 0x0A gid 2#64))
    ∧ ((rtView (rtAt t (cid * 64 + e))).hold = 0 → b.pend = false → 80 + hn ∉ (slotAt t sid).busy → (hGet t sid hn).kind = 5 →
      let u := markLast o t
      let r : GReq := { guard := gid, excl := excl, fresh := (bitsR o).1 == 1, cid := cid, sid := sid, team := (slotAt u sid).team
                        entry := holderOf u cid e, qix := (hGet u sid hn).qix, vlast := if (bitsR o).1 = 1 then 0 else b.vlast
                        issued := s.now }
      let v := modBind (cid * 64 + e) (fun b => { b with pend := true, qkey := cid * 4 + r.qix, acq := sid }) u
      exec i s = .next (completeIssue (if homeLost t cid gid = true then post (s.now + 35) .homeLostAnswer { p := .greq r } v
        else postLeg (coreEnd cid) (vergerEnd gid) 15 35 0 0 56 .guardRequest { p := .greq r } v))))
  ∧ (∀ o s gid t, readsA .a o s gid t → (o.exr = true → o.c = 0) → wfield gid 48 16 = 0 →
    let cid := cidOf s.cur.sid
    (homeLost t cid gid = true ∨ ∃ g, checkId t cid gid = .ok g) →
    (∀ e, bindingOf t cid (slotAt t s.cur.sid).team gid = some e →
      let v := rtView (rtAt t (cid * 64 + e))
      let stores := vecWrites t cid (slotAt t s.cur.sid).team v.base (v.limit - v.base) (v.cls == 2)
      (v.hold ≠ 0 → (∀ i ∈ stores, vecOpen t cid i = false) →
        exec (.rel_ o) s = .next (completeIssue (startRelease cid e s.cur.sid (markLast o t))))
      ∧ (v.hold ≠ 0 → (∃ i ∈ stores, vecOpen t cid i = true) → exec (.rel_ o) s = .next (waitState s))
      ∧ (v.hold = 0 → exec (.rel_ o) s = .next (trapsAt s 0x0A gid 3#64)))
    ∧ (bindingOf t cid (slotAt t s.cur.sid).team gid = none → exec (.rel_ o) s = .next (trapsAt s 0x0A gid 3#64)))
  ∧ (∀ s cid e sid, let t := startRelease cid e sid s
    (rtView (rtAt t (cid * 64 + e))).hold = 0
    ∧ (homeLost s cid (bindAt s (cid * 64 + e)).guard = false → ∃ w, tfind t.wbs s.nextId = some w ∧ w.rel.guard = (bindAt s (cid * 64 + e)).guard
      ∧ w.rel.cid = cid ∧ (w.rel.excl = true ↔ (rtView (rtAt s (cid * 64 + e))).hold = 2) ∧ due t s.now .releaseSend { a := s.nextId }))
  ∧ (∀ o s gid t, readsB .a o s gid t → dstFree o t → (bitsR o).1 % 4 = 0 →
    let cid := cidOf s.cur.sid
    let u := markLastB o t
    (bindingOf u cid (slotAt u s.cur.sid).team gid = none →
      exec (.gstat o) s = .next (completeIssue (deliver (dstRid o) 1 0#64 u)))
    ∧ (∀ e, bindingOf u cid (slotAt u s.cur.sid).team gid = some e →
      let b := bindAt u (cid * 64 + e)
      exec (.gstat o) s = .next (completeIssue (deliver (dstRid o) 1 (word ((rtView (rtAt u (cid * 64 + e))).hold
        + (if b.pend = true then 4 else 0) + 8 + e * 2 ^ 4 + b.vlast * 2 ^ 32)) u))))
  ∧ (∀ s q, s.ev.p = .gask q → q.id = 0 → q.op = .unbind → q.words = [] → homeDead s q.guard = false → requestAhead s q.cid q.guard q.issued = false →
    releaseAhead s q.cid q.guard q.issued 0 = false → vergerBusy s q.guard q.cid = false →
    ∀ e, bindingOf s q.cid (slotAt s q.sid).team q.guard = some e → (rtView (rtAt s (q.cid * 64 + e))).hold = 0 →
    (bindAt s (q.cid * 64 + e)).pend = false → ∃ t, exec .guardRequest s = .next t ∧ tfind t.binds (q.cid * 64 + e) = none
      ∧ rtAt t (q.cid * 64 + e) = (0#64, 0#64) ∧ t.slots = s.slots ∧ t.mem = s.mem
      ∧ due t (s.now + askBack s q) .guardRequest { p := .gtrap q 0 0#64 0#64 })
  ∧ (∀ s gid, homeLost s (cidOf s.cur.sid) gid = false →
    ((wfield gid 48 16 ≠ 0 ∨ guardOf s gid = none) → checkIdM gid s = .error (.trap 0x0A gid 1#64))
    ∧ (∀ g, wfield gid 48 16 = 0 → gIdx gid < (pkgAt s (gPkg gid)).gmTabsz → guardOf s gid = some g →
      g.tenant ≠ (coreAt s (cidOf s.cur.sid)).tenant → checkIdM gid s = .error (.trap 7 gid 0#64)))

/-- The Verger's protocol (R107, R118 to R128), for a guard whose stamps are no page to wait for: a request of a FREE guard is granted,
with the new state and holder, 5 cycles and the way back later; one of a held guard waits; the last release sets it FREE, or serves
the oldest waiting exclusive request, and a release of an exclusive hold makes a new version; a delivery takes the way from the last
holder; a grant that arrives enters its queue; a release leaves with its dirty sub-blocks once the writes before it are
performed; a write-behind done moves WBVER; the failure of a package drops its holders and requests and leaves a guard that lost one
BROKEN. -/
def Obligations.GuardProtocol : Prop :=
  (∀ s r g, s.ev.p = .greq r → homeDead s r.guard = false → requestAhead s r.cid r.guard r.issued = false →
      releaseAhead s r.cid r.guard r.issued 0 = false → vergerBusy s r.guard r.cid = false →
    guardOf s r.guard = some g → g.home = true →
    let r' := withVlast s r
    (g.st = .free ∨ (g.st = .shared ∧ r.excl = false ∧ g.waiting.any (·.excl) = false) → ∃ t h, exec .guardRequest s = .next t
      ∧ guardOf t r.guard = some h ∧ h.st = (if r.excl = true then .excl else .shared) ∧ h.holders = g.holders ++ [(r.cid, r.entry)]
      ∧ h.waiting = g.waiting ∧ t.mem = s.mem
      ∧ due t (s.now + 5 + leg s (vergerEnd r.guard) (coreEnd r.cid) 15 35) .grantArrival
          { p := .grant ⟨r', [], grantWord (if r.excl = true then 2 else 1) 0 0 g.ver⟩ })
    ∧ (g.st = .excl ∨ (g.st = .shared ∧ r.excl = true) → requestsUsed s (gPkg r.guard) (gDie r.guard) < 8192 →
      ∃ t h, exec .guardRequest s = .next t ∧ guardOf t r.guard = some h ∧ h.st = g.st ∧ h.holders = g.holders
        ∧ h.waiting = g.waiting ++ [r'] ∧ t.mem = s.mem))
  ∧ (∀ s r, s.ev.p = .greq r →
    ∃ t, exec .guardRequestResend s = .next t ∧ t.guards = s.guards ∧ t.mem = s.mem
      ∧ due t (s.now + leg s (coreEnd r.cid) (vergerEnd r.guard) 15 35) .guardRequest { p := .greq r })
  ∧ (∀ s rel g, s.ev.p = .grel rel → homeDead s rel.guard = false →
    requestAhead s rel.cid rel.guard (((tfind s.wbs s.ev.a).map (·.issued)).getD 0) = false →
    releaseAhead s rel.cid rel.guard (((tfind s.wbs s.ev.a).map (·.issued)).getD 0) s.ev.a = false →
        vergerBusy s rel.guard rel.cid = false → guardOf s rel.guard = some g → g.home = true →
    g.holders = [(rel.cid, rel.entry)] → g.st ≠ .broken → ∃ t h, exec .guardRelease s = .next t ∧ guardOf t rel.guard = some h
      ∧ h.ver = (if rel.excl = true then nextVer g.ver else g.ver) ∧ t.mem = s.mem
      ∧ (g.waiting = [] → h.st = .free ∧ h.holders = [])
      ∧ (∀ r l, g.waiting = r :: l → r.excl = true → h.st = .excl ∧ h.holders = [(r.cid, r.entry)] ∧ h.waiting = l))
  ∧ (∀ s f g, s.ev.p = .gfwd f → guardOf s f.req.guard = some g → f.holder ≠ fromHome →
    let u := bumpLife (gPkg f.req.guard) (0x20000 + gDie f.req.guard) s
    ∃ t, exec .guardForward s = .next t ∧ t.mem = s.mem ∧ t.guards = s.guards
      ∧ due t (s.now + leg u (coreEnd f.holder) (coreEnd f.req.cid) 30 50 + 8 * f.subs.length) .grantArrival
        { p := .grant ⟨f.req, imageCells u f.key f.subs, f.payload⟩ })
  ∧ (∀ s f g a c n, s.ev.p = .gfwd f → guardOf s f.req.guard = some g → f.holder = fromHome → homeDead s f.req.guard = false → g.home = true →
    g.holders = [(f.req.cid, f.req.entry)] → g.waiting = [] → f.subs = [n] →
    guardCheck s f.req.guard (g.base + 256 * n) g.tenant 256 = (a, .fail c 2) → ∃ t h v, exec .guardForward s = .next t
      ∧ guardOf t f.req.guard = some h ∧ h.holders = g.holders ∧ h.st = (if f.req.excl = true then .excl else .shared)
      ∧ due t (s.now + leg s (homeEnd f.req.guard g.base) (coreEnd f.req.cid) 30 50) .grantArrival
          { p := .grant ⟨f.req, [], grantWord (if f.req.excl = true then 2 else 1) 1 0 v⟩ })
  ∧ (∀ s d, s.ev.p = .grant d →
    let rk := d.req.cid * 4 + d.req.qix
    let q := rxAt s rk
    let x := word (wfield d.payload 32 32 + d.req.entry % 64 * 2 ^ 41 + 2 ^ 63)
    let key := imageKey s d.req.cid (d.req.entry % 64)
    (resident s d.req.cid d.req.entry = false → goneGang s d.req.entry = false →
        exec .grantArrival s = .next (post (s.now + 256) .grantRetry { p := .grant d } s))
    ∧ (s.memOk → resident s d.req.cid d.req.entry = true → q.owner.isSome = true → direct s rk x = true →
      ∃ t u, exec .grantArrival s = .next t ∧ exec .grantRetry s = .next u ∧ (rxAt t rk).ents = q.ents ++ [(x, d.payload)]
        ∧ (rxAt u rk).ents = q.ents ++ [(x, d.payload)]
        ∧ ((d.bytes.map (·.1)).Nodup → ∀ c ∈ d.bytes, mget t.mem (key + c.1) = c.2)
        ∧ (∀ a, (∀ c ∈ d.bytes, a ≠ key + c.1) → mget t.mem a = mget s.mem a)))
  ∧ (∀ s r, s.ev.p = .greq r →
    let rk := r.cid * 4 + r.qix
    let q := rxAt s rk
    let pay := grantWord (if r.excl = true then 2 else 1) 2 0 0
    let x := word (wfield pay 32 32 + r.entry % 64 * 2 ^ 41 + 2 ^ 63)
    resident s r.cid r.entry = true → q.owner.isSome = true → direct s rk x = true →
    ∃ t, exec .homeLostAnswer s = .next t ∧ (rxAt t rk).ents = q.ents ++ [(x, pay)]
      ∧ t.mem = s.mem)
  ∧ (∀ s w, tfind s.wbs s.ev.a = some w → homeLost s w.rel.cid w.rel.guard = false →
    (∀ i ∈ w.accs, (∀ a, tfind s.accs i = some a → a.performed = true) ∧ (∀ c, tfind s.cmds i = some c → cmdWrites c = false)
      ∧ vecOpen s w.rel.cid i = false) →
    (∀ p ∈ s.wbs, p.1 < s.ev.a → p.2.rel.cid = w.rel.cid → vergerEnd p.2.rel.guard = vergerEnd w.rel.guard → p.2.sent = true) →
    let g := (guardOf s w.rel.guard).getD {}
    let key := w.key
    let dirty := if w.rel.excl && !g.home then (List.range g.nsb).filter (fun i => tget s.dirty (key / 256 + i) false) else []
    ∃ t, exec .releaseSend s = .next t ∧ t.mem = s.mem
      ∧ due t (s.now + leg s (coreEnd w.rel.cid) (vergerEnd w.rel.guard) 15 35) .guardRelease
          { a := s.ev.a, p := .grel { w.rel with dirty := dirty } }
      ∧ (dirty ≠ [] → due t (s.now + leg s (coreEnd w.rel.cid) (homeEnd w.rel.guard g.base) 30 50 + 8 * dirty.length + 160)
          .writeBehindComplete { a := s.ev.a }))
  ∧ (∀ s w g i k a, tfind s.wbs s.ev.a = some w → guardOf s w.rel.guard = some g → homeDead s w.rel.guard = false → w.handled = true →
    (∀ p ∈ s.wbs, p.1 < s.ev.a → p.2.rel.guard = w.rel.guard → p.2.rel.dirty = []) → w.rel.dirty = [i] →
    guardCheck s w.rel.guard (g.base + 256 * i) g.tenant 256 = (a, .ok k) → ∃ t d, exec .writeBehindComplete s = .next t
      ∧ tfind t.wbs s.ev.a = none ∧ due t d .wbdone { w := w.rel.guard, a := w.ver, b := w.rel.cid }
      ∧ t.mem = (engWrite (gOwn w.rel.guard) (g.base + 256 * i) g.tenant (w.data.take 256)
          (markDSpan (gOwn w.rel.guard) (g.base + 256 * i) 256 s)).mem)
  ∧ (∀ s g, guardOf s s.ev.w = some g →
    (vergerBusy s s.ev.w s.ev.b = false → exec .wbdone s = .next (putGuard s.ev.w
      { g with wbver := s.ev.a, lastv := if s.ev.a = g.ver then false else g.lastv, lastMsg := s.now + 1 } s))
    ∧ (vergerBusy s s.ev.w s.ev.b = true → exec .wbdone s = .next (post (s.now + 1) .wbdone (laterEv s) s)))
  ∧ (∀ s, (s.guards.map (·.1)).Nodup → (∀ p ∈ s.guards, p.1 < 2 ^ 64 ∧ p.2.home = true) →
    ∃ t, exec .guardPackageFailure s = .next t ∧ ∀ p ∈ s.guards, gPkg (word p.1) = s.ev.a → ∃ h, guardOf t (word p.1) = some h
      ∧ (∀ x ∈ h.holders, pkgOfC x.1 ≠ s.ev.b) ∧ (∀ r ∈ h.waiting, pkgOfC r.cid ≠ s.ev.b)
      ∧ ((∃ x ∈ p.2.holders, pkgOfC x.1 = s.ev.b) → (∀ r ∈ p.2.waiting, pkgOfC r.cid = s.ev.b) → h.st = .broken))

/-! ### The managed heap -/

/-- Heap instructions (R154 to R167, R275 to R279). On the fast path LDK, LDREF, STK, STREF, KPIN and KUNPIN send their access to the
field, or the header's atomic; off it the page entry of the reference is read first. KNEW takes the next T bytes of the strand's
allocation window, stores the header and answers an owning reference; the K register moves, KNULL and KCMP write their result. The
barrier follows the forwarding table: no page entry keeps the address with the good colour, an entry DONE redirects, a reader of an
object that moves uses the old copy, a writer is admitted with INFL or waits, its strand PARKED on the entry, and a later load of the strand
with it. INFL - 1 and heals go to the entry's or field's home
atomic engine; a late trap is taken when it is found. The rights at a redirected address are read from the tables as they stand at
issue (log 94), and the wait for DONE ends at STAY too (log 95). -/
def Obligations.HeapInstructionsAndBarrier : Prop :=
  (∀ o s k, o.xi.length ≤ 1 → readsK (o.b.toNat % 16) s k →
    ((bitsR o).1 = 0 → dstFreeK o (atIssue s) → exec (.kmov o) s = .next (completeIssue (deliver (64 + kDst o) 1 k (atIssue s))))
    ∧ ((bitsR o).1 = 1 → dstFree o (atIssue s) →
        exec (.kmovToG o) s = .next (completeIssue (deliver (dstRid o) 1 (k &&& ~~~ 8#64) (atIssue s))))
    ∧ (dstFreeA o (atIssue s) →
        exec (.knull o) s = .next (completeIssue (deliver (aRid o) 1 (if k = 0#64 then 1#64 else 0#64) (atIssue s)))))
  ∧ (∀ o s x t, readsB .b o s x t → o.xi.length ≤ 1 → (bitsR o).1 = 2 → dstFreeK o t →
    exec (.kmovFromG o) s = .next (completeIssue (deliver (64 + kDst o) 1 (x &&& ~~~ 8#64) (markLastB o t))))
  ∧ (∀ o s ka kb wa, classTrap .b s = none → readsK (o.a.toNat % 16) s ka → readsK (o.b.toNat % 16) s kb → dstFree o (atIssue s) →
    (ka ≠ 0#64 → refCheckM ka ka (atIssue s) = .ok (wa, atIssue s)) → (kb ≠ 0#64 → ∃ w, refCheckM kb kb (atIssue s) = .ok (w, atIssue s)) →
    ((ka = 0#64 ∨ goodColour s ka) → (kb = 0#64 ∨ goodColour s kb) → exec (.kcmp o) s = .next (completeIssue (deliver (dstRid o) 1
        (if (ka = 0#64 ∧ kb = 0#64) ∨ (ka ≠ 0#64 ∧ kb ≠ 0#64 ∧ wfield ka 4 58 = wfield kb 4 58) then 1#64 else 0#64) (atIssue s))))
    ∧ (ka ≠ 0#64 → ¬ goodColour s ka → o.a.toNat % 16 ≠ o.b.toNat % 16 → compareGate wa ka (atIssue s) = .ok ((), atIssue s) →
        ∃ u h, exec (.kcmp o) s = .next u ∧ tfind u.hops s.nextId = some h ∧ h.kind = 5 ∧ h.stage = 0 ∧ h.k = ka ∧ h.kb = kb
          ∧ h.dst = dstRid o))
  ∧ (∀ o s k w, classTrap .a s = none → heapReady o (immR o * 8) true false false k w (atIssue s) →
    heapGate w k (immR o * 8) false (atIssue s) = .ok ((), atIssue s) →
    (dstFree o (atIssue s) → goodColour s k → ∃ u a, exec (.ldk o) s = .next u ∧ tfind u.accs s.nextId = some a ∧ a.kind = .load
      ∧ a.size = 8 ∧ a.va = ((refAddr k : Nat) + immR o * 8 : Int).toNat ∧ a.ret = .reg (dstRid o) .zext ∧ a.sid = s.cur.sid
      ∧ tfind u.hops s.nextId = none)
    ∧ (dstFree o (atIssue s) → ¬ goodColour s k → ∃ u h a, exec (.ldk o) s = .next u ∧ tfind u.hops s.nextId = some h ∧ h.kind = 0
      ∧ h.stage = 0 ∧ h.k = k ∧ h.off = immR o * 8 ∧ h.dst = dstRid o ∧ tfind u.accs (s.nextId + 1) = some a ∧ a.kind = .load
      ∧ a.va = pageEntryVa w (refAddr k) ∧ a.ret = .heap s.nextId)
    ∧ (dstFreeKA o (atIssue s) → goodColour s k → ∃ u h a, exec (.ldref o) s = .next u ∧ tfind u.accs s.nextId = some a ∧ a.kind = .load
      ∧ a.size = 8 ∧ a.va = ((refAddr k : Nat) + immR o * 8 : Int).toNat ∧ a.ret = .heap s.nextId ∧ tfind u.hops s.nextId = some h
      ∧ h.kind = 1 ∧ h.stage = 4 ∧ h.dst = 64 + kDstA o))
  ∧ (∀ o s v t k w, readsA .a o s v t → (o.exr = true → o.c = 0) → heapReady o (immR o * 8) false true true k w t →
    let u := if o.la = true then killReg o.a.toNat t else t
    heapGate w k (immR o * 8) true u = .ok ((), u) → goodColour t k → ∃ x a, exec (.stk o) s = .next x ∧ tfind x.accs s.nextId = some a
      ∧ a.kind = .store ∧ a.size = 8 ∧ a.va = ((refAddr k : Nat) + immR o * 8 : Int).toNat ∧ a.data = natBytes 8 v.toNat
      ∧ a.sid = s.cur.sid)
  ∧ (∀ o s v k w, classTrap .a s = none → readsK (o.a.toNat % 16) s v → (o.exr = true → o.c = 0) →
    heapReady o (immR o * 8) false true true k w (atIssue s) → heapGate w k (immR o * 8) true (atIssue s) = .ok ((), atIssue s) → goodColour s k →
    ∃ x a, exec (.stref o) s = .next x ∧ tfind x.accs s.nextId = some a ∧ a.kind = .store ∧ a.size = 8
      ∧ a.va = ((refAddr k : Nat) + immR o * 8 : Int).toNat ∧ a.data = natBytes 8 (v &&& ~~~ 8#64).toNat)
  ∧ (∀ o s k w, ∀ pin : Bool, classTrap .a s = none → heapReady o 0 true true false k w (atIssue s) →
    heapGate w k 0 true (atIssue s) = .ok ((), atIssue s) → (pin = true → dstFreeA o (atIssue s)) → goodColour s k →
    ∃ u a, exec (if pin = true then .kpin o else .kunpin o) s = .next u ∧ tfind u.accs s.nextId = some a ∧ a.kind = .atom
      ∧ a.op = (if pin = true then 16 else 17) ∧ a.va = refAddr k ∧ (slotAt u s.cur.sid).st = .parked
      ∧ (slotAt u s.cur.sid).hold = true ∧ (slotAt u s.cur.sid).heldBy = s.nextId)
  ∧ (∀ o s n t, readsB .a o s n t → 1 ≤ o.xi.length → o.xi.length ≤ 2 → 1 ≤ (bitsR o).1 → (bitsR o).1 < 2 ^ 16 → dstFreeKA o t →
    let x := slotAt t s.cur.sid
    let size := 16 + 16 * ((n.toNat + 15) / 16)
    (65521 ≤ n.toNat → exec (.knew o) s = .next (trapsAt s 0x13 n 6#64))
    ∧ (n.toNat < 65521 → x.hbump ≠ x.hlim → heapAtM x.hbump 64 t = .ok (none, t) →
      exec (.knew o) s = .next (trapsAt s 0x13 (word x.hbump) 7#64))
    ∧ (∀ h w, n.toNat < 65521 → x.hbump ≠ x.hlim → heapAtM x.hbump 64 t = .ok (some (h, w), t) →
      heapHold t (cidOf s.cur.sid) x.team x.hbump = 0 → exec (.knew o) s = .next (trapsAt s 0x14 (word x.hbump) 1#64))
    ∧ (n.toNat < 65521 → x.hbump = x.hlim → exec (.knew o) s = .next (trapsAt s 0x16 n (word x.hbump)))
    ∧ (∀ h w, n.toNat < 65521 → x.hbump ≠ x.hlim → heapAtM x.hbump 64 t = .ok (some (h, w), t) →
      heapHold t (cidOf s.cur.sid) x.team x.hbump ≠ 0 →
      ((x.hlim < x.hbump + size ∨ x.hbump / 65536 ≠ (x.hbump + size - 1) / 65536) →
        exec (.knew o) s = .next (trapsAt s 0x16 n (word x.hbump)))
      ∧ (x.hbump + size ≤ x.hlim → x.hbump / 65536 = (x.hbump + size - 1) / 65536 → gateFree t x.hbump true → ∃ v a,
        exec (.knew o) s = .next (completeIssue (deliver (64 + kDstA o) 4
          (word (coreGood t (cidOf s.cur.sid) h * 2 ^ 62 + h * 2 ^ 56 + x.hbump / 16 % 2 ^ 52 * 16 + 8)) v))
        ∧ (slotAt v s.cur.sid).hbump = x.hbump + size ∧ tfind v.accs s.nextId = some a ∧ a.store = true ∧ a.va = x.hbump
        ∧ a.data = wordsBytes [word (size / 16 + (bitsR o).1 * 2 ^ 32), 0#64])))
  ∧ (∀ s h a, tfind s.hops s.ev.a = some h → tfind s.accs s.ev.a = some a → accAway s s.ev.a = false →
    let hid := s.ev.a
    let x := s.ev.w
    let good := coreGood s (cidOf a.sid) (refHeap h.k)
    (s.ev.flag = true → h.stage = 0 → wfield x 0 1 = 0 →
      exec .heapBarrierWake s = .next (barrierDone hid (recolour h.k good) (refAddr h.k) false 0 s))
    ∧ (s.ev.flag = true → h.stage = 0 → wfield x 0 1 = 1 → exec .heapBarrierWake s = .next (entryRead hid (objEntryVa x (refAddr h.k)) false
        (modHop hid (fun h => { h with stage := 1, entry := objEntryVa x (refAddr h.k) }) s)))
    ∧ (s.ev.flag = true → h.stage = 1 →
      (wfield x 0 3 = 3 → exec .heapBarrierWake s
        = .next (barrierDone hid (redirect h.k good (wfield x 4 52 * 16)) (wfield x 4 52 * 16) false 0 s))
      ∧ ((wfield x 0 3 = 0 ∨ wfield x 0 3 = 4) → exec .heapBarrierWake s
        = .next (barrierDone hid (recolour h.k good) (refAddr h.k) false 0 s))
      ∧ ((wfield x 0 3 = 1 ∨ wfield x 0 3 = 2) → h.kind ≠ 2 → h.kind ≠ 3 →
        (storeAhead s hid h a = none → exec .heapBarrierWake s = .next (barrierDone hid h.k (refAddr h.k) true 0 s))
        ∧ (storeAhead s hid h a = some 3 → exec .heapBarrierWake s = .next (waitDone hid s)))
      ∧ (wfield x 0 3 = 1 → h.kind = 2 → exec .heapBarrierWake s
        = .next (entryRead hid h.entry true (modHop hid (fun h => { h with stage := 2 }) s)))
      ∧ (wfield x 0 3 = 2 → h.kind = 2 ∨ h.kind = 3 → exec .heapBarrierWake s = .next (waitDone hid s))
      ∧ (5 ≤ wfield x 0 3 → exec .heapBarrierWake s
        = .next (post s.now .barrierLateTrap { a := hid, b := 0x13, c := 8, w := h.tv } s)))
    ∧ (s.ev.flag = true → h.stage = 2 → wfield x 0 3 = 1 → wfield x 56 8 < 255 →
      exec .heapBarrierWake s = .next (barrierDone hid h.k (refAddr h.k) true h.entry s))
    ∧ (s.ev.flag = true → h.stage = 4 →
      (h.kind = 1 → x = 0#64 → exec .heapBarrierWake s = .next (endHop hid (landResult a h.dst 0#64 s)))
      ∧ (h.kind = 3 → wfield x 56 1 = 0 → wfield x 48 8 ≠ 255 → heldOn s a.sid a.gen hid = true → exec .heapBarrierWake s
        = .next (resume a.sid 1 (endHop hid (landResult a h.dst (word a.va) s))))
      ∧ (h.kind = 3 → wfield x 56 1 = 1 → exec .heapBarrierWake s = .next (slowPath hid h.pva h.k s))
      ∧ (h.kind = 4 → wfield x 48 8 ≠ 0 → heldOn s a.sid a.gen hid = true → exec .heapBarrierWake s
        = .next (resume a.sid 1 (endHop hid s)))
      ∧ (h.kind = 4 → wfield x 48 8 = 0 → heldOn s a.sid a.gen hid = true → exec .heapBarrierWake s
        = .next (recordTrap a.sid 0x15 h.tv 0#64 a.ipc (endHop hid (landNone a (h.dst % 128) s)))))
    ∧ (s.ev.flag = false → h.want ≠ 0 → exec .heapBarrierWake s = .next (entryRead hid (h.want - 1) h.inc s))
    ∧ (∀ p key, s.ev.flag = false → h.want = 0 → h.stage = 3 → engCheck s (tidOfC (cidOf a.sid)) h.entry a.tenant 8 = (p, .ok key) →
      let oe := peek64 s (cidOf a.sid) h.entry
      (wfield oe 0 3 = 3 → exec .heapBarrierWake s
        = .next (barrierDone hid (redirect h.k good (wfield oe 4 52 * 16)) (wfield oe 4 52 * 16) false 0 s))
      ∧ (wfield oe 0 3 = 4 → exec .heapBarrierWake s = .next (barrierDone hid (recolour h.k good) (refAddr h.k) false 0 s))
      ∧ (wfield oe 0 3 ≠ 3 → wfield oe 0 3 ≠ 4 → exec .heapBarrierWake s = .next s)))
  ∧ (∀ s hid k addr old infl h a, tfind s.hops hid = some h → tfind s.accs hid = some a → accLive s a = true → (h.kind = 0 ∨ h.kind = 2) →
    let t := barrierDone hid k addr old infl s
    tfind t.hops hid = none ∧ (h.kn < 16 → kGet t a.sid h.kn = k)
    ∧ ∃ b, tfind t.accs hid = some b ∧ b.va = ((addr : Int) + h.off).toNat ∧ b.kind = a.kind ∧ b.data = a.data ∧ b.ret = a.ret)
  ∧ (∀ s hid h a, tfind s.hops hid = some h → tfind s.accs hid = some a → accLive s a = true → (slotAt s a.sid).st = .ready →
    (slotAt (waitDone hid s) a.sid).st = .parked ∧ due (waitDone hid s) s.now .heapBarrierWake { a := hid }
    ∧ ∃ x, tfind (waitDone hid s).hops hid = some x ∧ x.stage = 3 ∧ x.k = h.k ∧ x.entry = h.entry)
  ∧ (∀ s p q key, engCheck s (s.ev.a * 2048) s.ev.b s.ev.c 8 = (p, .ok q) → engKey s (s.ev.a * 2048) s.ev.b s.ev.c = .ok key →
    (∃ t a, exec .inflDecrement s = .next t ∧ tfind t.accs s.nextId = some a ∧ a.kind = .atom ∧ a.op = 19 ∧ a.size = 8 ∧ a.key = some key
      ∧ a.perfAt = s.now ∧ due t s.now .atomicPerform { a := s.nextId } ∧ t.mem = s.mem ∧ t.g = s.g ∧ t.k = s.k)
    ∧ (∃ t a, exec .healCas s = .next t ∧ tfind t.accs s.nextId = some a ∧ a.kind = .cas ∧ a.size = 8 ∧ a.key = some key
      ∧ a.cmp = natBytes 8 s.ev.w.toNat ∧ a.data = natBytes 8 s.ev.w2.toNat
      ∧ a.perfAt = s.now ∧ due t s.now .atomicPerform { a := s.nextId } ∧ t.mem = s.mem ∧ t.g = s.g ∧ t.k = s.k))
  ∧ (∀ m a, atomNew 19 8 m a = if wfield m 56 8 = 0 then m else m - word (2 ^ 56))
  ∧ (∀ s a, tfind s.accs s.ev.a = some a → accAway s s.ev.a = false → (slotAt s a.sid).st ≠ .swapped →
    accLive (dropHop s.ev.a s) a = true → (slotAt (dropHop s.ev.a s) a.sid).st ≠ .trapped →
    exec .barrierLateTrap s = .next (recordTrap a.sid s.ev.b s.ev.w
      (if heldOn s a.sid a.gen s.ev.a = true then word s.ev.c else failWord s a s.ev.c 0 0) a.ipc (dropHop s.ev.a s)))

/-! ### The vector unit -/

/-- A push into the core's vector queue (R44, R282): the entry takes the queue's last place, and the strand goes on. -/
def pushed (e : VEnt) (t : State) (s : State) : State :=
  let cid := cidOf s.cur.sid
  let x : VEnt := { e with
    vid := t.nextId, sid := s.cur.sid, gen := (slotAt t s.cur.sid).gen, ipc := s.cur.ipc, order := (slotAt t s.cur.sid).issued
    pushed := s.now }
  let u := { t with nextId := t.nextId + 1 }
  let u := if e.gdst = 0 then u else addBusy s.cur.sid e.gdst u
  completeIssue (vecArm (tidOfC cid) { u with vq := tput u.vq cid (tget u.vq cid [] ++ [x]) })

/-- The core's vector queue has a free place. -/
def vecRoomIn (t : State) (s : State) : Prop := (vqHeld t (cidOf s.cur.sid)).length < 16

/-- The lane-wise instructions with two sources, with their lanes (R289, R291, R297). -/
def vecTwoTable : List ((Ops → Instr) × (Nat → List Lane → List Lane → List Lane)) :=
  [ (Instr.vadd, fun _ a b => lanes2 Num.fadd a b), (Instr.vsub, fun _ a b => lanes2 Num.fsub a b)
  , (Instr.vmul, fun _ a b => lanes2 Num.fmul a b), (Instr.vmin, fun _ a b => lanes2 Num.fmin a b)
  , (Instr.vmax, fun _ a b => lanes2 Num.fmax a b)
  , (Instr.vand, fun _ a b => lanes2 (fun x y => x &&& y) a b), (Instr.vor, fun _ a b => lanes2 (fun x y => x ||| y) a b)
  , (Instr.vxor, fun _ a b => lanes2 (fun x y => x ^^^ y) a b)
  , (Instr.vshl, fun _ a b => lanes2 (fun x y => x <<< (y.toNat % 32)) a b)
  , (Instr.viadd, fun _ a b => lanes2 (fun x y => x + y) a b), (Instr.visub, fun _ a b => lanes2 (fun x y => x - y) a b)
  , (Instr.vimul, fun _ a b => lanes2 (fun x y => x * y) a b)
  , (Instr.vperm, fun _ a b => b.map fun i => a.getD (i.toNat % 32) 0#32) ]

/-- The instructions with one source (R289, R292). -/
def vecOneTable : List ((Ops → Instr) × (Lane → Lane)) :=
  [ (Instr.vabs, fun x => if Num.isNan x then Num.nan32 else x &&& 0x7FFFFFFF#32)
  , (Instr.vneg, fun x => if Num.isNan x then Num.nan32 else x ^^^ 0x80000000#32)
  , (Instr.vrcp, Num.frcp), (Instr.vrsq, Num.frsq), (Instr.vexp2, Num.fexp2), (Instr.vlog2, Num.flog2v), (Instr.vmov, fun x => x) ]

/-- The vector unit (R44, R45, R282 to R307). Each X-class instruction whose operands are legal is pushed into its core's queue, with
the lanes that its rule gives from its registers as they stand when its quarters issue; vector loads and stores are pushed with their
addresses; a bad immediate traps. A served quarter delivers its eight lanes at its latency, and writes exactly those lanes; a quarter
store sends its accesses; VSHARE changes the core's weight at the head of the queue. -/
def Obligations.VectorUnit : Prop :=
  (∀ row ∈ vecTwoTable, ∀ o s, classTrap .x s = none → vecRoomIn s s → ∃ e : VEnt,
    exec (row.1 o) s = .next (pushed e (atIssue s) s) ∧ e.dst = dstN o % 32 ∧ e.gdst = 0 ∧ e.reads = [o.a.toNat % 32, o.b.toNat % 32]
      ∧ vecMem e = false
      ∧ ∀ t cid, vecLanes t cid e = row.2 e.imm (vread t cid (o.a.toNat % 32)) (vread t cid (o.b.toNat % 32)))
  ∧ (∀ row ∈ vecOneTable, ∀ o s, classTrap .x s = none → vecRoomIn s s → ∃ e : VEnt,
    exec (row.1 o) s = .next (pushed e (atIssue s) s) ∧ e.dst = dstN o % 32 ∧ e.gdst = 0 ∧ e.reads = [o.b.toNat % 32]
      ∧ vecMem e = false ∧ ∀ t cid, vecLanes t cid e = (vread t cid (o.b.toNat % 32)).map row.2)
  ∧ (∀ o s, classTrap .x s = none → vecRoomIn s s →
    (∃ e : VEnt, exec (.vfma o) s = .next (pushed e (atIssue s) s) ∧ e.dst = dstN o % 32
      ∧ ∀ t cid, vecLanes t cid e
        = lanes3 Num.ffma (vread t cid (o.a.toNat % 32)) (vread t cid (o.b.toNat % 32)) (vread t cid (o.c.toNat % 32)))
    ∧ (∃ e : VEnt, exec (.vsel o) s = .next (pushed e (atIssue s) s) ∧ e.dst = dstN o % 32
      ∧ ∀ t cid, vecLanes t cid e = lanes3 (fun x y m => if m != 0#32 then x else y)
          (vread t cid (o.a.toNat % 32)) (vread t cid (o.b.toNat % 32)) (vread t cid (o.c.toNat % 32)))
    ∧ (o.xi.length ≤ 1 → (bitsR o).1 < 2 → ∃ e : VEnt, exec (.vshr o) s = .next (pushed e (atIssue s) s) ∧ e.dst = dstN o % 32
      ∧ ∀ t cid, vecLanes t cid e
        = lanes2 (fun x y => if (bitsR o).1 = 1 then x.sshiftRight (y.toNat % 32) else x >>> (y.toNat % 32))
            (vread t cid (o.a.toNat % 32)) (vread t cid (o.b.toNat % 32)))
    ∧ (o.xi.length = 1 → ((bitsR o).1 ≤ 4 ∨ (8 ≤ (bitsR o).1 ∧ (bitsR o).1 ≤ 11)) → ∃ e : VEnt,
      exec (.vcmp o) s = .next (pushed e (atIssue s) s) ∧ e.dst = dstN o % 32
      ∧ ∀ t cid, vecLanes t cid e = lanes2 (vcmp (bitsR o).1) (vread t cid (o.a.toNat % 32)) (vread t cid (o.b.toNat % 32)))
    ∧ (o.xi.length = 1 → (bitsR o).1 < 64 → nfield (bitsR o).1 2 4 ≤ 12 → ∃ e : VEnt,
      exec (.vcvt o) s = .next (pushed e (atIssue s) s) ∧ ∀ t cid, vecLanes t cid e = (vread t cid (o.b.toNat % 32)).map (vcvt (bitsR o).1))
    ∧ (o.xi.length = 1 → (bitsR o).1 < 6 → ∃ e : VEnt, exec (.vred o) s = .next (pushed e (atIssue s) s) ∧ allGroups e = true
      ∧ ∀ t cid, vecLanes t cid e = List.replicate 32 (vred (bitsR o).1 (vread t cid (o.b.toNat % 32))))
    ∧ (o.xi.length = 1 → (bitsR o).1 < 4 → ∃ e : VEnt, exec (.vscan o) s = .next (pushed e (atIssue s) s) ∧ allGroups e = true
      ∧ ∀ t cid, vecLanes t cid e = vscan (bitsR o).1 (vread t cid (o.b.toNat % 32)))
    ∧ (o.xi.length ≤ 1 → ∃ e : VEnt, exec (.viota o) s = .next (pushed e (atIssue s) s)
      ∧ ∀ t cid, vecLanes t cid e = (List.range 32).map fun i => (BitVec.ofInt 64 (immR o)).truncate 32 + BitVec.ofNat 32 i)
    ∧ (o.xi.length = 1 → (bitsR o).1 < 32 → o.b.toNat < 32 → ∃ e : VEnt, exec (.vbcast o) s = .next (pushed e (atIssue s) s)
      ∧ ∀ t cid, vecLanes t cid e = List.replicate 32 ((vread t cid (o.b.toNat % 32)).getD (bitsR o).1 0#32))
    ∧ (o.xi.length = 1 → (bitsR o).1 < 64 → dstFree o (atIssue s) → ∃ e : VEnt, exec (.vext o) s = .next (pushed e (atIssue s) s)
      ∧ e.dst = 32 ∧ e.gdst = dstRid o % 128 ∧ e.imm = (bitsR o).1 ∧ e.reads = [o.b.toNat % 32])
    ∧ (o.xi.length = 1 → 1 ≤ (bitsR o).1 → (bitsR o).1 ≤ 8 → ∃ e : VEnt, exec (.vtopk o) s = .next (pushed e (atIssue s) s)
      ∧ ∀ t cid, vecLanes t cid e = vtopk (bitsR o).1 (vread t cid (o.b.toNat % 32)))
    ∧ (o.xi.length = 1 → (bitsR o).1 < 4 → ∃ e : VEnt, exec (.vbscale o) s = .next (pushed e (atIssue s) s)
      ∧ ∀ t cid, vecLanes t cid e = vbscale (bitsR o).1 (vread t cid (o.b.toNat % 32)))
    ∧ (o.exr = false → o.exq = none → o.xi = [] → o.a = 0 → 1 ≤ o.lo.toNat % 64 → o.lo.toNat % 64 ≤ 15 → ∃ e : VEnt,
      exec (.vshare o) s = .next (pushed e (atIssue s) s) ∧ e.page = 5 ∧ e.op = 12 ∧ e.imm = o.lo.toNat % 64)
    ∧ ((o.xi.length ≠ 1 ∨ 6 ≤ (bitsR o).1) → exec (.vred o) s = .next (trapsAt s 1 (firstFour s.cur.words) 9#64)))
  ∧ (∀ o s x t, readsB .x o s x t → vecRoomIn t s →
    (o.xi = [] → ∃ e : VEnt, exec (.vbcast o) s = .next (pushed e (markLastB o t) s)
      ∧ ∀ u cid, vecLanes u cid e = List.replicate 32 (x.truncate 32))
    ∧ (o.xi.length = 1 → (bitsR o).1 < 32 → ∃ e : VEnt, exec (.vins o) s = .next (pushed e (markLastB o t) s)
      ∧ ∀ u cid, vecLanes u cid e = (vread u cid (o.a.toNat % 32)).set (bitsR o).1 (x.truncate 32)))
  ∧ (∀ o s p t r, ∀ ea : Nat, readsB .x o s p t → vecRoomIn t s → Num.fmtRow (wfield p 60 4) = some r → wfield p 57 3 = r.blk → wfield p 56 1 = 0 →
    (ea : Int) = (wfield p 0 56 : Nat) + immR o → ea < 2 ^ 56 → (r.ue = 1 → ea % r.ub = 0) →
    let n := if wfield p 60 4 = 0 then 128 else 32 / r.ue * r.ub
    (rangeOk t ea n true false → ∃ e : VEnt, exec (.vld o) s = .next (pushed e (markLastB o t) s) ∧ e.addr = ea ∧ e.fmt = wfield p 60 4
      ∧ e.lanes = [] ∧ e.dst = dstN o % 32 ∧ vecMem e = true ∧ vecStore e = false)
    ∧ (rangeOk t ea n false true → (o.exr = true → o.c = 0) → stepM ea t = .ok ((), t) → ∃ e : VEnt,
      exec (.vst o) s = .next (pushed e (markLastB o t) s) ∧ e.addr = ea ∧ e.fmt = wfield p 60 4 ∧ e.lanes = [] ∧ e.dst = 32
      ∧ e.reads = [o.a.toNat % 32] ∧ vecStore e = true)
    ∧ (r.ue = 1 → ∀ z : Nat, z = (if wfield p 60 4 = 0 then 4 else r.ub) → ea % z = 0 → rangeOk t ea (32 * z) false true →
      stepM ea t = .ok ((), t) → ∃ e : VEnt, exec (.vstm o) s = .next (pushed e (markLastB o t) s) ∧ e.fmt = wfield p 60 4 ∧ e.z = z
      ∧ e.lanes = (List.range 32).map (fun i => ea + i * z) ∧ e.reads = [o.c.toNat % 32, o.a.toNat % 32] ∧ vecStore e = true))
  ∧ (∀ o s p t r z l, readsB .x o s p t → vecRoomIn t s → Num.fmtRow (wfield p 60 4) = some r → wfield p 57 3 = r.blk →
    wfield p 56 1 = 0 → r.ue = 1 → z = (if wfield p 60 4 = 0 then 4 else r.ub) →
    (∀ e ∈ tget t.vq (cidOf s.cur.sid) [], e.dst ≠ o.a.toNat % 32 ∨ e.done.length = 4) →
    let offs := (List.range 32).map fun i => immR o + (getLane t (cidOf s.cur.sid) (o.a.toNat % 32) i).toInt * z
    (lanesM p z false offs 0 t = .ok (l, t) → ∃ e : VEnt, exec (.vldx o) s = .next (pushed e (markLastB o t) s) ∧ e.lanes = l ∧ e.z = z
      ∧ e.dst = o.c.toNat % 32 ∧ vecMem e = true ∧ vecStore e = false)
    ∧ (lanesM p z true offs 0 t = .ok (l, t) → ∃ e : VEnt, exec (.vstx o) s = .next (pushed e (markLastB o t) s) ∧ e.lanes = l ∧ e.z = z
      ∧ e.reads = [o.c.toNat % 32] ∧ vecStore e = true))
  ∧ (∀ o s p t d u r z l, readsB .x o s p t → srcA o t = .ok (d, u) → vecRoomIn u s → Num.fmtRow (wfield p 60 4) = some r →
    wfield p 57 3 = r.blk → wfield p 56 1 = 0 → r.ue = 1 → z = (if wfield p 60 4 = 0 then 4 else r.ub) →
    let offs := (List.range 32).map fun (i : Nat) => immR o + (i : Int) * d.toInt
    (lanesM p z false offs 0 u = .ok (l, u) → ∃ e : VEnt, exec (.vlds o) s = .next (pushed e (markLast o u) s) ∧ e.lanes = l ∧ e.z = z
      ∧ e.dst = o.c.toNat % 32 ∧ vecMem e = true ∧ vecStore e = false)
    ∧ (lanesM p z true offs 0 u = .ok (l, u) → ∃ e : VEnt, exec (.vsts o) s = .next (pushed e (markLast o u) s) ∧ e.lanes = l ∧ e.z = z
      ∧ e.reads = [o.c.toNat % 32] ∧ vecStore e = true))
  ∧ (∀ cid e qs s, vecMem e = false → ¬ (e.page = 4 ∧ e.op = 26) → ∀ q ∈ qs, due (vecIssue cid e qs s) (s.now + vecLatency e) .vectorResult
      { a := cid, b := e.vid, c := q, p := .words ((((vecLanes s cid e).drop (8 * q)).take 8).map fun x => x.zeroExtend 64) })
  ∧ (∀ s, ∃ t, exec .vectorQuarterIssue s = .next t ∧ t.now = s.now ∧ t.g = s.g ∧ t.mem = s.mem ∧ t.v = s.v)
  ∧ (∀ s e c, let tid := s.ev.a
    c < 4 → tget s.vq (tid * 4 + c) [] = [e] → (∀ d, d < 4 → d ≠ c → tget s.vq (tid * 4 + d) [] = []) → e.page = 4 → e.op ≠ 26 →
    allGroups e = false → e.issued = [] → e.pushed < s.now → heldBehind s (tid * 4 + c) e.vid = false → 1 ≤ (coreAt s (tid * 4 + c)).weight →
    ∃ t, exec .vectorQuarterIssue s = .next t ∧ ∀ q, q < 4 → due t (s.now + vecLatency e) .vectorResult
      { a := tid * 4 + c, b := e.vid, c := q
        p := .words ((((vecLanes s (tid * 4 + c) e).drop (8 * q)).take 8).map fun x => x.zeroExtend 64) })
  ∧ (∀ s e l, s.ev.p = .words l → l.length = 8 → (tget s.vq s.ev.a []).find? (fun x => x.vid == s.ev.b) = some e → e.dst < 32 → s.ev.c < 4 →
    vSuperseded (tget s.vq s.ev.a []) e s.ev.c = false → ∃ t, exec .vectorResult s = .next t
      ∧ (∀ i, i < 8 → getLane t s.ev.a e.dst (8 * s.ev.c + i) = (l.getD i 0#64).truncate 32)
      ∧ (∀ i, i < 32 → (i < 8 * s.ev.c ∨ 8 * s.ev.c + 8 ≤ i) → getLane t s.ev.a e.dst i = getLane s s.ev.a e.dst i)
      ∧ (∀ r, r < 32 → r ≠ e.dst → vread t s.ev.a r = vread s s.ev.a r) ∧ t.mem = s.mem ∧ t.g = s.g)
  ∧ (∀ s, exec .vshareApply s = .next (modCore s.ev.a (fun c => { c with weight := s.ev.b }) s))

/-! ### Strands, traps and the supervisor -/

/-- Strands (R23 to R29, R311 to R317): START and STARTP take the lowest free slots, start them with the record's PC and arguments and
answer the team word, or zero where no slot is free, and hand on what the strand's fetches see (R191); STOP frees its slot once the strand's
stores, elements and bindings are done; JOINS answers with a strand's end; LIVE kills registers, which leave their parking places, LIVE.GET
reads the live set; YIELD lets n cycles pass or lets the READY strands of its sequencer go first. -/
def Obligations.StrandControl : Prop :=
  (∀ o s p t ea bs, ∀ pair : Bool, readsB .c o s p t → rawAt p (immR o * 64) 64 ea → rangeOk t ea 64 true false → dstFree o t →
    recordM ea 64 t = .ok (bs, t) →
    let u := markLastB o t
    let cid := cidOf s.cur.sid
    let lat := loadLatency (tidOfC cid) ea
    let r := startTeam pair cid (bytesWords 8 bs) (max (s.now + 6) (s.now + lat + 2)) (releaseSet u s.cur.sid) u
    let seen := handed u s.cur.sid
    let v := handTo (cid * 16 + wfield r.1 13 4) seen r.2
    let w := if pair = true then handTo (cid * 16 + wfield r.1 41 4) seen v else v
    exec (if pair = true then .startp o else .start_ o) s
      = .next (completeIssue (deliver (dstRid o) lat r.1 (if r.1 = 0#64 then r.2 else w))))
  ∧ (∀ s cid r at' after, r.length = 8 →
    (freeSlots s cid = [] → (startTeam false cid r at' after s).1 = 0#64 ∧ (startTeam true cid r at' after s).1 = 0#64)
    ∧ (∀ a l, freeSlots s cid = a :: l →
      let q := startTeam false cid r at' after s
      let sa := cid * 16 + a
      let x := slotAt q.2 sa
      q.1 = selfWord q.2 sa ∧ x.st = .ready ∧ x.pc = (r.getD 0 0#64).toNat % 2 ^ 56 ∧ x.readyAt = at'
      ∧ x.gen = ((slotAt s sa).gen + 1) % 256 ∧ (x.xseq = true ↔ wfield (r.getD 1 0#64) 4 1 = 1) ∧ x.after = after
      ∧ (∀ i, i < 6 → gGet q.2 sa (2 + i) = r.getD (2 + i) 0#64) ∧ gGet q.2 sa 1 = 0#64
      ∧ (∀ i, 8 ≤ i → i < 64 → gGet q.2 sa i = 0#64) ∧ (∀ i, i < 16 → kGet q.2 sa i = 0#64)
      ∧ (∀ sid, sid ≠ sa → slotAt q.2 sid = slotAt s sid) ∧ q.2.mem = s.mem)
    ∧ (∀ a x l set, freeSlots s cid = a :: x :: l → freePairSet s cid = some set →
      let q := startTeam true cid r at' after s
      let ya := slotAt q.2 (cid * 16 + a)
      let yx := slotAt q.2 (cid * 16 + x)
      ya.st = .ready ∧ yx.st = .ready ∧ ya.xseq = false ∧ yx.xseq = true ∧ ya.paired = true ∧ yx.paired = true ∧ ya.partner = x
      ∧ yx.partner = a ∧ ya.pairSet = set ∧ yx.pairSet = set ∧ ya.pc = (r.getD 0 0#64).toNat % 2 ^ 56
      ∧ (yx.pc : Int) = (((r.getD 0 0#64).toNat : Int) + 2 * signed32 (wfield (r.getD 1 0#64) 16 32)) % 2 ^ 56
      ∧ (hGet q.2 (cid * 16 + a) 15).kind = 2 ∧ (hGet q.2 (cid * 16 + x) 15).kind = 2))
  ∧ (∀ o s,
    (slotNo s.cur.sid = 0 → exec (.stop_ o) s = .next (trapsAt s 1 (firstFour s.cur.words) 9#64))
    ∧ (slotNo s.cur.sid ≠ 0 → (drained s s.cur.sid = false ∨ storesDone s s.cur.sid (fun _ => true) = false) →
      exec (.stop_ o) s = .next (waitState s))
    ∧ (slotNo s.cur.sid ≠ 0 → drained s s.cur.sid = true → storesDone s s.cur.sid (fun _ => true) = true → rejectedOf s s.cur.sid = none →
      (s.cmds.any fun p => p.2.sid == s.cur.sid && p.2.gen == (slotAt s s.cur.sid).gen && p.2.cpl) = false →
      (lastOfTeam s s.cur.sid = false ∨ (teamRelease (cidOf s.cur.sid) (slotAt s s.cur.sid).team s.cur.sid (atIssue s)).2 = true) →
      ∃ t, exec (.stop_ o) s = .next t ∧ (slotAt t s.cur.sid).st = .free ∧ (slotAt t s.cur.sid).gen = (slotAt s s.cur.sid).gen))
  ∧ (∀ o s w t, readsB .c o s w t → dstFree o t →
    let own := pkgOfC (cidOf s.cur.sid)
    let cid := own * 8192 + wfield w 0 13
    let pair := wfield w 53 1
    let sa := wfield w 13 4
    let sx := wfield w 41 4
    let ja := joined t (cid * 16 + sa) (wfield w 17 8)
    let jx := if pair = 1 then joined t (cid * 16 + sx) (wfield w 45 8) else some (false, false)
    let legal := wfield w 54 10 = 0 ∧ wfield w 25 16 = own ∧ 1 ≤ sa ∧ sa ≤ 10 ∧ (pair = 1 → 1 ≤ sx ∧ sx ≤ 10)
    let u := markLastB o t
    (¬ legal → exec (.joins o) s = .next (trapsAt s 6 w 0#64))
    ∧ (legal → (ja = none ∨ jx = none) → exec (.joins o) s = .next (waitState s))
    ∧ (∀ ta ra tx rx, legal → ja = some (ta, ra) → jx = some (tx, rx) →
      exec (.joins o) s = .next (completeIssue (deliver (dstRid o) 1 (word ((if ta = true then 1 else 0) + (if tx = true then 2 else 0)
        + (if ra = true then 4 else 0) + (if rx = true then 8 else 0)))
        (let v := handTo s.cur.sid (joinSeenOf u (cid * 16 + sa) ta ra) u
         if pair = 1 then handTo s.cur.sid (joinSeenOf u (cid * 16 + sx) tx rx) v else v)))))
  ∧ (∀ o s m t, readsB .b o s m t → o.xi.length ≤ 1 → (bitsR o).1 = 0 → (o.exr = true → o.c = 0) →
    exec (.live_ o) s = .next (completeIssue (markLastB o
      (liveOnly s.cur.sid (m ||| (if userMode t s.cur.sid = true then 0xFFFF000000000001#64 else 1#64)) t))))
  ∧ (∀ s sid m, let t := liveOnly sid m s
    (slotAt t sid).live = (slotAt s sid).live &&& m ∧ (slotAt t sid).pres = (slotAt s sid).pres ∧ t.g = s.g ∧ t.k = s.k ∧ t.mem = s.mem
    ∧ (∀ r, r < 64 → m.toNat.testBit r = false → tget t.place (fileKey sid r) .phys = .phys)
    ∧ ∀ i r, r < 128 → ¬ (i = sid ∧ r < 64 ∧ m.toNat.testBit r = false) → tget t.place (fileKey i r) .phys = tget s.place (fileKey i r) .phys)
  ∧ (∀ o s, o.xi.length ≤ 1 → (bitsR o).1 = 1 → dstFree o (atIssue s) → exec (.liveGet o) s
      = .next (completeIssue (deliver (dstRid o) 1 ((slotAt s s.cur.sid).live &&& 0xFFFFFFFFFFFFFFFE#64) (atIssue s))))
  ∧ (∀ o s,
    ((bitsR o).1 ≠ 0 → exec (.yield o) s = .next (completeIssue
      { atIssue s with cur := { (atIssue s).cur with cost := (bitsR o).1 + 1, idle := true } }))
    ∧ ((bitsR o).1 = 0 → ∃ l : List (Nat × Nat),
      (∀ p, p ∈ l ↔ ∃ n, n < 11 ∧ p.1 = cidOf s.cur.sid * 16 + n ∧ p.1 ≠ s.cur.sid ∧ (slotAt s p.1).xseq = (slotAt s s.cur.sid).xseq
        ∧ (slotAt s p.1).st = .ready ∧ (slotAt s p.1).readyAt ≤ s.now ∧ p.2 = (slotAt s p.1).issued)
      ∧ exec (.yield o) s = .next (completeIssue (if l = [] then atCost 2 (modSlot s.cur.sid (fun x => { x with yieldOn := l }) (atIssue s))
          else modSlot s.cur.sid (fun x => { x with yieldOn := l }) (atIssue s)))))

/-- The supervisor's instructions (R365, R366, R378 to R386) and the events of their registers (R368, R369, R371, R394, R448, R457).
SYSRD and SYSRD.B answer the register, zero where its feature is not accepted (R1, log 88); SYSWR and SYSWR.B make their write by the
register's event. TRET and its forms go on at TEPC(0) 3 cycles later, with MODE restored and INH 0, the handled slot, where it is TRAPPED,
at its own TEPC, or after its instruction, 6 cycles later. SVC and BRK trap. RTSET checks an entry, then writes it without its reserved
bits; RTGET reads one. CTXSAVE and CTXLOAD move a TRAPPED strand's frame. KILLS frees a strand whose accesses are over; KILLS.RESUME lets
a TRAPPED one go on. SNAP fires at its stamp, HALT halts, WFE answers latched events or waits, ORPHAN takes the oldest orphan, GSWITCH
sets the switch's stamp, raised where it comes too early, TMSG sends a TRAPPED slot's escalation. A bad index traps with ILLEGAL,
reason 9. -/
def Obligations.SupervisorInstructions : Prop :=
  (∀ o s, classTrap .s s = none →
    let n := (bitsR o).1
    let cid := cidOf s.cur.sid
    let u := atIssue s
    ((2 < o.xi.length ∨ sysIndexOk n = false) → exec (.sysrd o) s = .next (trapsAt s 1 (firstFour s.cur.words) 9#64)
      ∧ exec (.syswr o) s = .next (trapsAt s 1 (firstFour s.cur.words) 9#64))
    ∧ (o.xi.length ≤ 2 → sysIndexOk n = true → o.b = 0 → dstFree o u →
      (n % 256 ≠ 0x12 → hasFeature u (pkgOfC cid) (sysFeature n) = true → exec (.sysrd o) s
        = .next (completeIssue (deliver (dstRid o) 1 (sysGet u cid n) u)))
      ∧ (n % 256 ≠ 0x12 → hasFeature u (pkgOfC cid) (sysFeature n) = false → exec (.sysrd o) s
        = .next (completeIssue (deliver (dstRid o) 1 0#64 u)))
      ∧ (n % 256 = 0x12 → exec (.sysrd o) s = .next (completeIssue (post s.now .orphstatRead { a := cid, b := dstRid o } u)))))
  ∧ (∀ o s v t, readsB .s o s v t → o.xi.length ≤ 2 → sysIndexOk (bitsR o).1 = true → o.a = 0 → (o.exr = true → o.c = 0) →
    let u := markLastB o t
    let cid := cidOf s.cur.sid
    let r := (bitsR o).1 % 256
    let done (k : Nat) (ev : Instr) (arg : EvArg) : Prop := exec (.syswr o) s = .next (completeIssue (post (s.now + k) ev arg u))
    (hasFeature u (pkgOfC cid) (sysFeature (bitsR o).1) = false → exec (.syswr o) s = .next (completeIssue u))
    ∧ (hasFeature u (pkgOfC cid) (sysFeature (bitsR o).1) = true →
      (r = 0x11 → done 0 .tstatWrite { a := cid, w := v })
      ∧ (r = 0x12 → done 0 .orphstatWrite { a := cid, w := v })
      ∧ (r = 0x21 → done 64 .sliceWrite { a := pkeyOf u cid, b := cid, w := v })
      ∧ ((r = 0x23 ∨ r = 0x24) → done 64 .partitionRegisterPropagate { a := pkeyOf u cid, b := r, c := cid, w := v })
      ∧ (r = 0x30 → done 64 .snapctlWrite { a := pkeyOf u cid, b := cid, w := v })
      ∧ (r ≠ 0x11 → r ≠ 0x12 → r ≠ 0x21 → r ≠ 0x23 → r ≠ 0x24 → r ≠ 0x30 →
        done 0 .registerWrite { a := cid, b := (bitsR o).1, w := v })))
  ∧ (∀ s, (s.ev.b < 4096 → exec .registerWrite s = .next (sysPut s.ev.a s.ev.b s.ev.w s))
    ∧ (4096 ≤ s.ev.b → s.ev.b < 2 ^ 40 → exec .registerWrite s = .next (blockPut s.ev.a (bAddr (word s.ev.b)) s.ev.w s))
    ∧ (2 ^ 40 ≤ s.ev.b → exec .registerWrite s = .next (putRt (s.ev.a * 64 + s.ev.b % 64) (s.ev.w, s.ev.w2) s)))
  ∧ (∀ s cid v, (coreAt (sysPut cid 0 v s) cid).strict = (wfield v 1 1 == 1) ∧ (coreAt (sysPut cid 0x10 v s) cid).tvec = wfield v 1 55 * 2
    ∧ (coreAt (sysPut cid 0x13 v s) cid).prestmo = wfield v 0 32 ∧ (coreAt (sysPut cid 0x14 v s) cid).sendtmo = wfield v 0 32
    ∧ (coreAt (sysPut cid 0x15 v s) cid).swapthr = wfield v 0 32)
  ∧ (∀ s cid n v, n % 256 = 2 →
    ((slotNo (sysSid s cid n) = 0 ∨ (slotAt s (sysSid s cid n)).st = .trapped) → (slotAt (sysPut cid n v s) (sysSid s cid n)).tvalue = v)
    ∧ (slotNo (sysSid s cid n) ≠ 0 → (slotAt s (sysSid s cid n)).st ≠ .trapped → sysPut cid n v s = s))
  ∧ (∀ s, ∃ t, exec .partitionRegisterPropagate s = .next t ∧ (∀ c ∈ partCores s s.ev.a,
      (s.ev.b = 0x23 → (coreAt t c).bartmo = wfield s.ev.w 0 32) ∧ (s.ev.b ≠ 0x23 → (coreAt t c).grptmo = wfield s.ev.w 0 32))
    ∧ (∀ c, c ∉ partCores s s.ev.a → coreAt t c = coreAt s c) ∧ t.mem = s.mem)
  ∧ (∀ s, ∃ t, exec .sliceWrite s = .next t ∧ (∀ c ∈ partCores s s.ev.a, (coreAt t c).slice = wfield s.ev.w 0 24
      ∧ ((coreAt t c).clamped = true ↔ (coreAt s c).clamped = true ∧ wfield s.ev.w 32 1 = 0)) ∧ t.mem = s.mem)
  ∧ (∀ s, ∃ t, exec .snapctlWrite s = .next t ∧ (partAt t s.ev.a).snapSrc = wfield s.ev.w 2 2
      ∧ (partAt t s.ev.a).snapEvent = wfield s.ev.w 8 8
      ∧ ((partAt t s.ev.a).fired = true ↔ (partAt s s.ev.a).fired = true ∧ wfield s.ev.w 1 1 = 0))
  ∧ (∀ s, ∃ t, exec .tstatWrite s = .next t ∧ t = putCore s.ev.a { coreAt s s.ev.a with
      dbl := (coreAt s s.ev.a).dbl && wfield s.ev.w 17 1 == 0 } s)
  ∧ (∀ s, exec .orphstatWrite s = .next (putCore s.ev.a { coreAt s s.ev.a with
      lost := (coreAt s s.ev.a).lost && wfield s.ev.w 5 1 == 0 } s))
  ∧ (∀ s, 0 < s.ev.b → s.ev.b < 64 → ∃ t, exec .orphstatRead s = .next t ∧ (coreAt t s.ev.a).ocount = 0
      ∧ gGet t (s.ev.a * 16) s.ev.b = orphWord (coreAt s s.ev.a))
  ∧ (∀ o s w t a, readsB .s o s w t → o.xi = [] → dstFree o t → blockM w false t = .ok (a, t) →
    let u := markLastB o t
    let cid := cidOf s.cur.sid
    let lat := blockLatency (tidOfC cid) a.die
    let rid := dstRid o
    let done (x : Word) : Prop := exec (.sysrdB o) s = .next (completeIssue (deliver rid lat x u))
    (hasFeature u (pkgOfC cid) (blockFeature (snapOf a).1) = false → done 0#64)
    ∧ (hasFeature u (pkgOfC cid) (blockFeature (snapOf a).1) = true →
      ((snapOf a).2 = true →
        done (((((partAt u (pkeyOf u cid)).snap.find? fun x => x.1 == snapKey (snapOf a).1)).map (·.2)).getD 0#64))
      ∧ ((snapOf a).2 = false → clearRead u s.cur.sid rid lat a = none → ¬ (a.blk = 1 ∧ a.off = 0x50) →
        done ((blockGet u (pkgOfC cid) (pkeyOf u cid % 64) cid a).getD 0#64))
      ∧ (∀ ev arg, (snapOf a).2 = false → clearRead u s.cur.sid rid lat a = some (ev, arg) → exec (.sysrdB o) s
        = .next (completeIssue (post s.now ev arg (if rid % 128 = 0 then u else addBusy s.cur.sid (rid % 128) u))))))
  ∧ (∀ o s w x t t' a, readsA .s o s w t → srcB o t = .ok (x, t') → o.xi = [] → (o.exr = true → o.c = 0) → blockM w true t' = .ok (a, t') →
    let u := markLast o t'
    let cid := cidOf s.cur.sid
    let pk := pkeyOf u cid
    let ends (v : State) : Prop := exec (.syswrB o) s = .next (completeIssue v)
    let done (k : Nat) (ev : Instr) (arg : EvArg) : Prop := ends (post (s.now + k) ev arg u)
    let plain := post s.now .registerWrite { a := cid, b := w.toNat, w := x } u
    (hasFeature u (pkgOfC cid) (blockFeature a) = false → ends u)
    ∧ (hasFeature u (pkgOfC cid) (blockFeature a) = true →
      (a.blk ≠ 4 → ¬ (a.blk = 8 ∧ a.off = 0x18) → ends plain)
      ∧ (a.blk = 8 → a.off = 0x18 → done 0 .trcPop { a := pkgOfC cid * 32 + a.inst, b := pk % 64 })
      ∧ (a.blk = 4 → a.off < 0x200 → a.off % 0x20 = 8 → done 0 .tduQbaseWrite { a := qKey (pkgOfC cid) a.inst (a.off / 0x20), w := x })
      ∧ (a.blk = 4 → a.off < 0x200 → a.off % 0x20 = 0 → done 1 .registerWrite { a := cid, b := w.toNat, w := x })
      ∧ (a.blk = 4 → a.off < 0x200 → a.off % 0x20 ≠ 0 → a.off % 0x20 ≠ 8 → ends plain)
      ∧ (a.blk = 4 → a.off = 0x200 ∨ a.off = 0x208 → done 64 .tduDcbaseWrite { a := pk, flag := a.off == 0x208, w := x })
      ∧ (a.blk = 4 → a.off = 0x228 → done 0 .tduJdone { a := cid, b := wfield x 0 16 })
      ∧ (a.blk = 4 → a.off = 0x230 → done 0 .tduJkill { a := cid, b := wfield x 0 16 })
      ∧ (a.blk = 4 → a.off = 0x308 → done 0 .tduStep { a := pk, b := pkgOfC cid * 8192 + wfield x 0 13, c := wfield x 13 4 })
      ∧ (a.blk = 4 → a.off = 0x340 → done 0 .tduTrbaseWrite { a := pk, w := x })
      ∧ (a.blk = 4 → a.off = 0x300 → wfield x 0 1 = 1 → ends (post s.now .debugStopRequest { a := pk } plain))
      ∧ (a.blk = 4 → a.off = 0x300 → wfield x 0 1 = 0 → (partAt u pk).stopped = true → ends (post s.now .debugResume { a := pk } plain))
      ∧ (a.blk = 4 → a.off = 0x300 → wfield x 0 1 = 0 → (partAt u pk).stopped = false → ends plain)
      ∧ (a.blk = 4 → 0x200 ≤ a.off → a.off ∉ [0x200, 0x208, 0x228, 0x230, 0x300, 0x308, 0x340] → ends plain)))
  ∧ (∀ o s n, classTrap .s s = none → o.xi.length ≤ 1 → (bitsR o).1 < 4 → (coreAt s (cidOf s.cur.sid)).inh = true →
    (coreAt s (cidOf s.cur.sid)).tslot = n →
    let cid := cidOf s.cur.sid
    let sid := cid * 16 + n
    let x := slotAt s sid
    let back (t : State) : Prop := (slotAt t (cid * 16)).st = .ready ∧ (slotAt t (cid * 16)).readyAt = s.now + 3
      ∧ due t (s.now + 3) .takeTrap { a := cid, flag := true }
    let view := if n = 0 then modCore cid (fun c => { c with modeS := c.pmode }) (atIssue s) else atIssue s
    (∃ t, exec (.tret o) s = .next t ∧ back t ∧ (slotAt t (cid * 16)).pc = (slotAt s (cid * 16)).tepc ∧ (slotAt t sid).tcause = 0
      ∧ (n ≠ 0 → x.st = .trapped → (slotAt t sid).st = .ready ∧ (slotAt t sid).pc = x.tepc % 2 ^ 56 ∧ (slotAt t sid).readyAt = s.now + 6)
      ∧ (n ≠ 0 → x.st ≠ .trapped → (slotAt t sid).st = x.st))
    ∧ (∀ ws, fetchWords view sid 5 x.tepc = .words ws → ∃ t, exec (.tretSkip o) s = .next t ∧ back t ∧ (slotAt t sid).tcause = 0
      ∧ (n = 0 → (slotAt t (cid * 16)).pc = (x.tepc + 2 * ws.length) % 2 ^ 56)
      ∧ (n ≠ 0 → (slotAt t (cid * 16)).pc = (slotAt s (cid * 16)).tepc)
      ∧ (n ≠ 0 → x.st = .trapped → (slotAt t sid).st = .ready ∧ (slotAt t sid).pc = (x.tepc + 2 * ws.length) % 2 ^ 56
          ∧ (slotAt t sid).readyAt = s.now + 6))
    ∧ (n ≠ 0 → ∃ t, exec (.tretLeave o) s = .next t ∧ back t ∧ (slotAt t (cid * 16)).pc = (slotAt s (cid * 16)).tepc
        ∧ (slotAt t sid).st = x.st ∧ (slotAt t sid).tcause = x.tcause)
    ∧ (n ≠ 0 → n < 16 → x.st = .free ∨ (killing sid (atIssue s)).2 = true → ∃ t, exec (.tretKill o) s = .next t
        ∧ back t ∧ (slotAt t sid).st = .free)
    ∧ (n = 0 → exec (.tretLeave o) s = .next (trapsAt s 1 (firstFour s.cur.words) 9#64)
        ∧ exec (.tretKill o) s = .next (trapsAt s 1 (firstFour s.cur.words) 9#64)))
  ∧ (∀ s, s.ev.flag = true → (coreAt s s.ev.a).halted = false → ∃ t, exec .takeTrap s = .next t
      ∧ (coreAt t s.ev.a).modeS = (coreAt s s.ev.a).pmode ∧ (coreAt t s.ev.a).inh = false ∧ (coreAt t s.ev.a).pmode = false
      ∧ (coreAt t s.ev.a).tslot = 0 ∧ ((coreAt s s.ev.a).pend ≠ [] → due t (s.now + 1) .takeTrap { a := s.ev.a }))
  ∧ (∀ o s, slotNo s.cur.sid ≠ 0 → (slotAt s s.cur.sid).killed = false → ∃ t, exec (.svc o) s = .next t
      ∧ (slotAt t s.cur.sid).st = .trapped ∧ (slotAt t s.cur.sid).tcause = 0x1B ∧ (slotAt t s.cur.sid).tvalue = word (bitsI o).1
      ∧ (slotAt t s.cur.sid).tepc = (s.cur.ipc + 2 * s.cur.words.length) % 2 ^ 56)
  ∧ (∀ o s, exec (.brk o) s = .next (trapsAt s 0x1A (word (bitsI o).1) 0#64))
  ∧ (∀ o s a b t, readsAB .s o s a b t → o.xi.length = 1 → (bitsR o).1 < 16 → (o.exr = true → o.c = 0) →
    (∀ r, rtReason (partAt t (pkeyOf t (cidOf s.cur.sid))) a b = some r → exec (.rtset o) s = .next (trapsAt s 7 a (word r)))
    ∧ (rtReason (partAt t (pkeyOf t (cidOf s.cur.sid))) a b = none → exec (.rtset o) s = .next (completeIssue (post (s.now + 1) .registerWrite
        { a := cidOf s.cur.sid, b := 2 ^ 40 + (bitsR o).1, w := rtBits0 a, w2 := rtBits1 b } (markLast o t)))))
  ∧ (∀ o s, classTrap .s s = none → o.xi.length = 1 → (bitsR o).1 < 128 → dstFree o (atIssue s) →
    let e := rtAt s (cidOf s.cur.sid * 64 + (bitsR o).1 % 64)
    exec (.rtget o) s = .next (completeIssue (deliver (dstRid o) 1 (if (bitsR o).1 < 64 then e.1 else e.2) (atIssue s))))
  ∧ (∀ o s b t, readsB .s o s b t → dstFree o t → wfield b 4 60 = 0 → wfield b 0 4 ≤ 10 →
    let n := wfield b 0 4
    let sid := cidOf s.cur.sid * 16 + n
    let x := slotAt t sid
    let saved (r : Word) (v : State) : Prop := exec (.ctxsave o) s = .next (completeIssue (deliver (dstRid o) 40 r (markLastB o v)))
    let loaded (r : Word) (v : State) : Prop := exec (.ctxload o) s = .next (completeIssue (deliver (dstRid o) 40 r (markLastB o v)))
    (n = 0 → saved 1#64 (saveFrame sid s.cur.ipc t))
    ∧ (n ≠ 0 → x.st = .trapped →
      (t.accs.all fun p => p.2.sid != sid || p.2.gen != x.gen || p.2.store || p.2.kind == .msg || p.2.kind == .put) = true →
      saved 1#64 (saveFrame sid x.tepc t))
    ∧ (n ≠ 0 → x.st = .swapped → saved 1#64 t)
    ∧ (n ≠ 0 → x.st ≠ .trapped → x.st ≠ .swapped → saved 0#64 t)
    ∧ (n = 0 → loaded 1#64 ((List.range 16).foldl (fun v i => gSet sid (48 + i) (mem64 t (frameKey sid + 8 * (48 + i))) v) t))
    ∧ (n ≠ 0 → x.st = .trapped → loaded 1#64 (loadFrame sid t))
    ∧ (n ≠ 0 → x.st ≠ .trapped → loaded 0#64 t))
  ∧ (∀ o s b t, readsB .s o s b t → o.xi.length ≤ 1 → (bitsR o).1 < 2 → dstFree o t → wfield b 12 52 = 0 → 1 ≤ wfield b 0 4 →
    wfield b 0 4 ≤ 10 →
    let sid := cidOf s.cur.sid * 16 + wfield b 0 4
    let u := markLastB o t
    let x := slotAt t sid
    let live := x.st ≠ .free ∧ x.gen % 256 = wfield b 4 8
    (¬ live → exec (.kills o) s = .next (completeIssue (deliver (dstRid o) 1 0#64 u)))
    ∧ (live → (killing sid t).2 = true →
      exec (.kills o) s = .next (completeIssue (deliver (dstRid o) 1 1#64 (markLastB o (killing sid t).1))))
    ∧ (¬ (live ∧ x.st = .trapped ∧ x.killed = false) → exec (.killsResume o) s = .next (completeIssue (deliver (dstRid o) 1 0#64 u)))
    ∧ (live → x.st = .trapped → x.killed = false → exec (.killsResume o) s = .next (completeIssue (deliver (dstRid o) 6 1#64
        (goOn sid x.tepc 6 (modCore (cidOf s.cur.sid) (fun c => { c with pend := c.pend.filter (· != wfield b 0 4) }) u))))))
  ∧ (∀ s sid, (killing sid s).2 = true → (slotAt (killing sid s).1 sid).st = .free)
  ∧ (∀ o s b t, readsB .s o s b t → (o.exr = true → o.c = 0) →
    let u := markLastB o t
    let pk := pkeyOf u (cidOf s.cur.sid)
    (b = 0#64 → exec (.snap o) s = .next (completeIssue (post s.now .snapshotFire { a := pk } u)))
    ∧ (b ≠ 0#64 → exec (.snap o) s = .next (completeIssue (post (max s.now (cycleOf b.toNat)) .snapshotFire { a := pk, b := 1, w := b }
        (modPart pk (fun p => { p with armed := true, snapAt := some b.toNat }) u)))))
  ∧ (∀ o s, classTrap .s s = none →
      exec (.halt_ o) s = .next (completeIssue (haltCore (cidOf s.cur.sid) (atIssue s))))
  ∧ (∀ s cid, (coreAt (haltCore cid s) cid).halted = true)
  ∧ (∀ o s b t, readsB .s o s b t → dstFree o t →
    let cid := cidOf s.cur.sid
    let l := wfeEvents (coreAt t cid)
    (l ≠ [] → exec (.wfe o) s = .next (completeIssue (deliver (dstRid o) 1 (eventsWord l)
        (modCore cid (fun c => { c with events := [] }) (markLastB o t)))))
    ∧ (l = [] → ∃ u, exec (.wfe o) s = .next u ∧ (slotAt u s.cur.sid).st = .waiting ∧ (slotAt u s.cur.sid).hold = true
        ∧ (coreAt u cid).wfe = some (dstRid o, s.now) ∧ (b ≠ 0#64 → due u (s.now + b.toNat) .wfeTimeout { a := cid, b := s.now })))
  ∧ (∀ s d, (coreAt s s.ev.a).wfe = some (d, s.ev.b) → exec .wfeTimeout s = .next (signal s.ev.a 4 s))
  ∧ (∀ o s, classTrap .s s = none → dstReady o.a.toNat (wA o) (atIssue s) = .ok ((), atIssue s) →
    dstReady (dstN o) 1 (atIssue s) = .ok ((), atIssue s) → o.a.toNat < 32 →
    let cid := cidOf s.cur.sid
    let e := (coreAt s cid).orphans.headD (0#64, 0#64)
    exec (.orphan o) s = .next (completeIssue (deliver (regOf (dstN o)) 2 e.2 (deliver o.a.toNat 2 e.1
      (modCore cid (fun c => { c with orphans := c.orphans.drop 1 }) (atIssue s))))))
  ∧ (∀ o s b t, readsB .s o s b t → dstFree o t →
    let u := markLastB o t
    let cid := cidOf s.cur.sid
    let pk := pkeyOf u cid
    let least := timeNs ((partAt u pk).lastSwitch.getD 0) + 1000 * max (coreAt u cid).slice (coreAt u cid).switchMin
    (b = 0#64 → exec (.gswitch o) s = .next (completeIssue (deliver (dstRid o) 1 0#64 (modPart pk (fun p => { p with stamp := none }) u))))
    ∧ (b ≠ 0#64 → least ≤ b.toNat → exec (.gswitch o) s = .next (completeIssue (deliver (dstRid o) 1 (word b.toNat)
        (post (max s.now (cycleOf b.toNat)) .gangSwitch { a := pk, w := word b.toNat }
          (modPart pk (fun p => { p with stamp := some b.toNat }) u)))))
    ∧ (b ≠ 0#64 → b.toNat < least → exec (.gswitch o) s = .next (completeIssue (deliver (dstRid o) 1 (word least)
        (post (max s.now (cycleOf least)) .gangSwitch { a := pk, w := word least }
          (modPartCores pk (fun c => { c with clamped := true }) (modPart pk (fun p => { p with stamp := some least }) u)))))))
  ∧ (∀ o s b t, readsB .s o s b t → dstFree o t →
    let u := markLastB o t
    let cid := cidOf s.cur.sid
    let c := coreAt u cid
    let n := if wfield b 0 4 = 15 then c.tslot else wfield b 0 4
    let x := slotAt u (cid * 16 + n)
    let shown := n ≤ 10 ∧ (x.st = .trapped ∨ (n = 0 ∧ c.inh = true ∧ c.tslot = 0))
    (shown → exec (.tmsg o) s = .next (completeIssue (deliver (dstRid o) 1 1#64 (sendEscal cid n x.tcause u))))
    ∧ (¬ shown → exec (.tmsg o) s = .next (completeIssue (deliver (dstRid o) 1 0#64 u))))
  ∧ (∀ s e, s.ev.p = .escal e →
    let trow := e.pkg * 32 + e.row
    let l := tget s.trcs trow []
    (mergeable e.cause = false → l.length < 32 → ∃ t r, exec .escalationArrival s = .next t ∧ tget t.trcs trow [] = l ++ [r]
      ∧ r.cause = e.cause ∧ r.tenant = e.tenant ∧ r.part = e.part ∧ r.count = 1 ∧ r.core = e.core ∧ r.tvalue = e.tvalue
      ∧ r.tepc = e.tepc ∧ r.slot = e.slot)
    ∧ (mergeable e.cause = true → l = [] → (escalMates s e).length + 1 < 2 ^ 32 → ∃ t r, exec .escalationArrival s = .next t
      ∧ tget t.trcs trow [] = [r] ∧ r.cause = e.cause ∧ r.count = (escalMates s e).length + 1 ∧ r.core ≤ e.core)
    ∧ (mergeable e.cause = false → 32 ≤ l.length → exec .escalationArrival s = .next (modTrc trow e.part s)))
  ∧ (∀ s, (qAt s s.ev.a).en = false → ∃ t, exec .tduQbaseWrite s = .next t ∧ (qAt t s.ev.a).base = wfield s.ev.w 12 44 * 4096
      ∧ (qAt t s.ev.a).rd = 0 ∧ (qAt t s.ev.a).wr = 0)
  ∧ (∀ s, ∃ t, exec .tduDcbaseWrite s = .next t ∧ (s.ev.flag = false → (partAt t s.ev.a).dcbase = wfield s.ev.w 12 44 * 4096)
      ∧ (s.ev.flag = true → (partAt t s.ev.a).dcnum = min 65536 (wfield s.ev.w 0 17)))
  ∧ (∀ s, ∃ t, exec .tduTrbaseWrite s = .next t ∧ (partAt t s.ev.a).trbase = wfield s.ev.w 12 44 * 4096 ∧ (partAt t s.ev.a).trwr = 0)
  ∧ (∀ s r l, tget s.trcs s.ev.a [] = r :: l → r.part = s.ev.b → ∃ t, exec .trcPop s = .next t ∧ tget t.trcs s.ev.a [] = l)
  ∧ (∀ s, let k := s.ev.a * 64 + s.ev.b
    ∃ t, exec .trcLostRead s = .next t ∧ (tget t.trcp k {}).lost = 0 ∧ due t (s.now + s.ev.e) .resultWriteback
      { a := s.ev.c, b := (slotAt s s.ev.c).gen, c := s.ev.d, w := word (tget s.trcp k {}).lost })
  ∧ (∀ s, ∃ t, exec .ferPstatRead s = .next t ∧ (portAt t s.ev.a).replays = 0 ∧ due t (s.now + s.ev.e) .resultWriteback
      { a := s.ev.b, b := (slotAt s s.ev.b).gen, c := s.ev.c, w := pstat (portAt s s.ev.a) })
  ∧ (∀ s, let fk := s.ev.a / 64 * 2 + s.ev.b
    ∃ t, exec .ferEvlostRead s = .next t ∧ tget (ferAt t fk).evlost (s.ev.a % 64) 0 = 0 ∧ due t (s.now + s.ev.e) .resultWriteback
      { a := s.ev.c, b := (slotAt s s.ev.c).gen, c := s.ev.d, w := word (tget (ferAt s fk).evlost (s.ev.a % 64) 0) })
  ∧ (∀ s, ∃ t, exec .tduStepstRead s = .next t ∧ (partAt t s.ev.a).stepDone = false ∧ (partAt t s.ev.a).stepWaited = false
      ∧ (partAt t s.ev.a).stepNotReady = false)

/-! ### The matrix unit, the epilogue engine, the relocation engine -/

/-- The matrix unit and the epilogue engine (R318 to R331): MXCAP takes effect 2 cycles later; MXC and EPI push a command that reaches its
tile after its trip, is queued, entered in the shadow set under its capability, started, and completed with its notice; LOADB fills a
macro, RUN accumulates the K-blocks in order, CLEAR zeroes, MODE sets the format and macro count; an epilogue converts 32 elements
a cycle as R329 computes them, each row's piece written when it reaches its bank, and ends with the last acknowledgement. -/
def Obligations.MatrixAndEpilogue : Prop :=
  (∀ o s b t, readsB .b o s b t → o.xi.length ≤ 1 → (bitsR o).1 = 0 →
    ∃ u, exec (.mxcap o) s = .next u
      ∧ ∀ v : State, s.now + 2 ≤ v.now → capNow v (tileAt u (tidOfC (cidOf s.cur.sid))) = wfield b 0 32)
  ∧ (∀ o s, o.xi.length ≤ 1 → (bitsR o).1 = 1 → dstFree o (atIssue s) →
    let x := tileAt s (tidOfC (cidOf s.cur.sid))
    exec (.mxcapGet o) s = .next (completeIssue (deliver (dstRid o) 1 (word (match x.capNext.getLast? with
      | some p => p.1
      | none => x.cap)) (atIssue s))))
  ∧ (∀ (o : Ops) (s : State) (epi : Bool) (hn : Nat) (h : Handle) (dp : Nat) (d : List Word) (tw : Word) (t u : State) (tid : Nat),
    let w0 := d.getD 0 0#64
    let w1 := d.getD 1 0#64
    let w2 := d.getD 2 0#64
    let st := signed32 (wfield w2 0 32)
    let eng := if epi = true then 1 else 0
    srcC o (atIssue s) = .ok (tw, t) → portM o eng (if epi = true then 64 else 32) t = .ok ((hn, h), t) →
        descM o (if epi = true then 64 else 32) t = .ok ((dp, d), u) →
    wfield tw 12 52 = 0 → windowTile (tidOfC (cidOf s.cur.sid)) (tw.toNat * 2 ^ 20) = some tid →
    (if epi = true then eOk d else mOk d) = true →
    (epi = false → wfield w0 0 4 ≤ 1 → ∃ r, fmtM w1 u = .ok (r, u)
      ∧ (let rows := if wfield w0 0 4 = 0 then 128 else wfield w2 32 7
         let a := rowSpan w1 (128 / r.ue * r.ub) rows st
         readSpanM hn dp tid w1 a.1 a.2 (if rows = 1 then 0 else st) u = .ok ((), u))) →
    (epi = true → (d.getD 4 0#64 ≠ 0#64 →
        readSpanM hn dp tid (d.getD 4 0#64) (wfield (d.getD 4 0#64) 0 56 : Nat) (4 * wfield w2 10 10) 0 u = .ok ((), u))
      ∧ (wfield w0 21 3 = 3 → readSpanM hn dp tid (d.getD 6 0#64) (wfield (d.getD 6 0#64) 0 56 : Nat) 256 0 u = .ok ((), u))
      ∧ ∃ r, fmtM w1 u = .ok (r, u) ∧ writeRowsM tid w1 (wfield w1 0 56 : Nat) (signed32 (wfield (d.getD 3 0#64) 32 32))
          (wfield w2 10 10 / r.ue * r.ub) r (wfield w2 26 7) 0 u = .ok ((), u)) →
    cplM hn dp eng h.ch (wfield w0 20 1 == 1) u = .ok ((), u) → drained u s.cur.sid = true → portSlotM o hn h u = .ok ((), u) →
    ∃ v c, exec (if epi = true then .epi o else .mxc o) s = .next v ∧ tfind v.cmds u.nextId = some c ∧ c.eng = eng
      ∧ c.op = (if epi = true then 8 else 6) ∧ c.desc = d ∧ c.tile = tid ∧ c.sid = s.cur.sid
      ∧ due v (s.now + mTrip (tidOfC (cidOf s.cur.sid)) tid) .matrixCommandArrival { a := u.nextId })
  ∧ (∀ s c, tfind s.cmds s.ev.a = some c → arrivesFirst s c = false →
    let core := coreAt s (cidOf c.sid)
    let trip := mTrip (tidOfC (cidOf c.sid)) c.tile
    let q (x : State) : List Nat := if c.eng = 0 then (tileAt x c.tile).inq else (tileAt x c.tile).einq
    let passes := c.tile = tidOfC (cidOf c.sid) ∨ routerOk s c.tile core.tenant core.part false = true
    (¬ passes → ∃ t, exec .matrixCommandArrival s = .next t ∧ due t (s.now + trip) .matrixNoticeArrival { a := s.ev.a, b := 1 })
    ∧ (passes → 8 ≤ (q s).length →
      exec .matrixCommandArrival s = .next (post (s.now + trip + 64) .matrixCommandResend { a := s.ev.a } s))
    ∧ (passes → (q s).length < 8 → ∃ t, exec .matrixCommandArrival s = .next t ∧ q t = q s ++ [s.ev.a]
      ∧ due t s.now (if c.eng = 0 then .shadowEntry else .epiStart) { a := if c.eng = 0 then c.tile else s.ev.a }))
  ∧ (∀ s c, tfind s.cmds s.ev.a = some c → exec .matrixCommandResend s
      = .next (post (s.now + mTrip (tidOfC (cidOf c.sid)) c.tile) .matrixCommandArrival { a := s.ev.a } s))
  ∧ (∀ s id rest c, (tileAt s s.ev.a).shadow = none → (tileAt s s.ev.a).inq = id :: rest → tfind s.cmds id = some c →
    let cap := capNow s (tileAt s s.ev.a)
    (cap ≠ 0 ∧ cap = mCap c → ∃ t, exec .shadowEntry s = .next t ∧ (tileAt t s.ev.a).shadow = some id ∧ (tileAt t s.ev.a).inq = rest
      ∧ due t (s.now + 1) (mStartEvent c) { a := id })
    ∧ (cap = 0 ∨ cap ≠ mCap c → ∃ t, exec .shadowEntry s = .next t ∧ (tileAt t s.ev.a).shadow = none ∧ (tileAt t s.ev.a).inq = rest
      ∧ due t (s.now + mTrip (tidOfC (cidOf c.sid)) c.tile) .matrixNoticeArrival { a := id, b := 1 }))
  ∧ (∀ s c, tfind s.cmds s.ev.a = some c →
    let x := tileAt s c.tile
    x.shadow = some s.ev.a → mMayRun s x c = true → partHeld s (c.tile * 4) = false → released s c.entries = true →
    eStillReads s x c = false → s.ev.c = 0 → ∀ i, i ∈ [Instr.mode_, Instr.loadb, Instr.run_, Instr.clear_] →
    ∃ t, exec i s = .next t ∧ (tileAt t c.tile).shadow = none
      ∧ ((tileAt t c.tile).active = some s.ev.a ∨ s.ev.a ∈ (tileAt t c.tile).beside)
      ∧ (mInvalid x c = true → due t (s.now + 1) .matrixCommandComplete { a := s.ev.a, b := 5 })
      ∧ (mInvalid x c = false → due t (s.now + mCycles s x c) .matrixCommandComplete { a := s.ev.a }))
  ∧ (∀ s c, tfind s.cmds s.ev.a = some c →
    let x := tileAt s c.tile
    let w1 := mw c 1
    let w2 := mw c 2
    let k := span128 x.fmt
    (x.active = some s.ev.a ∨ s.ev.a ∈ x.beside) → ∃ t, exec .matrixCommandComplete s = .next t
      ∧ (tileAt t c.tile).active ≠ some s.ev.a ∧ s.ev.a ∉ (tileAt t c.tile).beside
      ∧ due t (s.now + mTrip (tidOfC (cidOf c.sid)) c.tile - (if s.ev.b = 0 then 0 else 1)) .matrixNoticeArrival
          { a := s.ev.a, b := s.ev.b }
      ∧ (s.ev.b ≠ 0 → t.acc = s.acc ∧ t.macros = s.macros)
      ∧ (s.ev.b = 0 → mCmd c = 0 → tget t.macros (c.tile * 8 + wfield w2 32 3) [] = c.data
          ∧ wfield w2 32 3 ∈ (tileAt t c.tile).loaded ∧ t.acc = s.acc)
      ∧ (s.ev.b = 0 → mCmd c = 1 → wfield w2 45 6 + wfield w2 32 7 ≤ 64 → ∀ r m n, r < wfield w2 32 7 → m ∈ mMacros c → n < 128 →
          accGet t c.tile (wfield w2 45 6 + r) (128 * m + n) = Num.accumulate x.fmt
            (if w2.toNat.testBit 51 = true then accGet s c.tile (wfield w2 45 6 + r) (128 * m + n) else 0#32)
            (Num.kBlks x.fmt ((c.data.drop (k * r)).take k))
            (Num.kBlks x.fmt (((tget s.macros (c.tile * 8 + m) []).drop (k * n)).take k)))
      ∧ (s.ev.b = 0 → mCmd c = 2 → t.macros = s.macros ∧ ∀ i j, i < wfield w1 10 10 → j < wfield w1 26 7 →
          accGet t c.tile (wfield w1 20 6 + j) (wfield w1 0 10 + i) = 0#32)
      ∧ (s.ev.b = 0 → 3 ≤ mCmd c → (tileAt t c.tile).fmt = wfield w1 0 4 ∧ (tileAt t c.tile).nmac = wfield w1 4 3
          ∧ (tileAt t c.tile).loaded = []))
  ∧ (∀ s c, tfind s.cmds s.ev.a = some c → c.cpl = false → s.ev.b = 0 →
    ∃ t, exec .matrixNoticeArrival s = .next t ∧ tfind t.cmds s.ev.a = none)
  ∧ (∀ s c, tfind s.cmds s.ev.a = some c →
    let x := tileAt s c.tile
    let core := coreAt s (cidOf c.sid)
    let own := tidOfC (cidOf c.sid)
    let cap := capNow s x
    let ncol := wfield (mw c 2) 10 10
    let taken := s.ev.b = 0 ∧ x.eactive = none ∧ x.einq.head? = some s.ev.a
    let may := cap ≠ 0 ∧ cap = mCap c ∧ c.off ≠ 1 ∧ partHeld s (c.tile * 4) = false ∧ released s c.entries = true
      ∧ mStillWrites s x c = false
    let converts (d : Cmd) (t : State) : Prop :=
      let hi := min (eTotal d) (d.row + 32)
      (∃ b, tfind t.cmds s.ev.a = some b ∧ b.off = 1 ∧ b.row = hi ∧ b.data = d.data)
      ∧ (∀ p, p ∈ ePieces ncol hi 32 d.row → due t (s.now + ePerf d (ePieceVa d p.1 p.2.1)) .epiStart
          { a := s.ev.a, b := 2, d := ePieceVa d p.1 p.2.1, p := .bytes (ePiece s d (eBias d) (eTab d) p.1 p.2.1 p.2.2) })
      ∧ (hi < eTotal d → due t (s.now + 1) .epiStart { a := s.ev.a, b := 1, c := d.step })
    (taken → cap = 0 ∨ cap ≠ mCap c → ∃ t, exec .epiStart s = .next t ∧ (tileAt t c.tile).einq = x.einq.drop 1
      ∧ due t (s.now + mTrip own c.tile) .matrixNoticeArrival { a := s.ev.a, b := 1 })
    ∧ (taken → may → ∃ t, exec .epiStart s = .next t ∧ (tileAt t c.tile).eactive = some s.ev.a ∧ (tileAt t c.tile).einq = x.einq.drop 1
      ∧ (eInvalid x c = true → due t (s.now + 1) .epiComplete { a := s.ev.a, b := c.step, c := 5 })
      ∧ (eInvalid x c = false → converts { c with data :=
          (if wfield (mw c 0) 24 1 = 1 then mread s.mem (spKey c.tile (wfield (mw c 4) 0 20)) (4 * ncol) else List.replicate (4 * ncol) 0#8)
          ++ (if wfield (mw c 0) 21 3 = 3 then mread s.mem (spKey c.tile (wfield (mw c 6) 0 20)) 256 else []) } t))
    ∧ (s.ev.b = 1 → x.eactive = some s.ev.a → c.step = s.ev.c → c.off = 1 → ∃ t, exec .epiStart s = .next t ∧ converts c t)
    ∧ (∀ bs dt, s.ev.b = 2 → s.ev.p = .bytes bs → tileOfVa c.tile s.ev.d = some dt →
      ∃ t, exec .epiStart s = .next t
        ∧ due t (s.now + ansDelay (routeOf c.tile s.ev.d) c.tile false true) .epiStart { a := s.ev.a, b := 3 }
        ∧ (s.memOk → dt = c.tile ∨ routerOk s dt core.tenant core.part false = true →
            mread t.mem (spKey dt s.ev.d) bs.length = bs ∧ keepsOutside s t (spKey dt s.ev.d) bs.length)
        ∧ (dt ≠ c.tile → routerOk s dt core.tenant core.part false = false →
            t.mem = s.mem ∧ ∃ b, tfind t.cmds s.ev.a = some b ∧ b.status = 1))
    ∧ (2 < s.ev.b → ∃ t b, exec .epiStart s = .next t ∧ tfind t.cmds s.ev.a = some b ∧ b.nstay = c.nstay - 1
      ∧ (c.nstay ≤ 1 → eTotal c ≤ c.row → due t s.now .epiComplete { a := s.ev.a, b := c.step }))
    ∧ (x.eactive = some s.ev.a → c.step = s.ev.b → ∃ t, exec .epiComplete s = .next t ∧ (tileAt t c.tile).eactive = none
        ∧ due t (s.now + mTrip (tidOfC (cidOf c.sid)) c.tile - (if s.ev.c = 5 then 1 else 0)) .matrixNoticeArrival
            { a := s.ev.a, b := if s.ev.c = 5 then 5 else c.status }))
  ∧ (∀ s id c, (tileAt s s.ev.a).eactive = some id → tfind s.cmds id = some c →
    ∃ t, exec .epiSwitchTimeout s = .next t
      ∧ tfind t.cmds id = some (if c.off = 1 ∧ c.row < eTotal c then { c with step := c.step + 1, resumed := true, nextAt := 0 } else c))
  ∧ (∀ s, ∃ t, exec .macroScrub s = .next t
      ∧ (tileAt t s.ev.a).loaded = (tileAt s s.ev.a).loaded.filter (fun m => !s.ev.b.testBit m)
      ∧ due t (s.now + 25000000) .macroScrub { a := s.ev.a })

/-- HCOMPACT pushes a command; the relocation engine receives it, parses its pages, flips the heap's good colour at each core that binds
the heap, and for each object marks its entry, copies it, says where it went, and ends with the heap free for the next relocation
(R162, R332 to R334, R361, R363). -/
def Obligations.Relocation : Prop :=
  (∀ o s hn h dp d t bs,
    let cid := cidOf s.cur.sid
    let w0 := d.getD 0 0#64
    let w := bytesWords 6 bs
    classTrap .a s = none → portM o 5 32 (atIssue s) = .ok ((hn, h), atIssue s) → descM o 32 (atIssue s) = .ok ((dp, d), t) →
    relocOk d = true → spanM (d.getD 1 0#64) (wfield (d.getD 1 0#64) 0 56 : Nat) (8 * wfield w0 8 12) true false t = .ok ((), t) →
    cplM hn dp 5 h.ch (wfield w0 20 1 == 1) t = .ok ((), t) → unitReadM (heapVa t cid (wfield w0 0 6)) 48 t = .ok (bs, t) →
    (hValid w = false ∨ hTenant w ≠ (coreAt t cid).tenant → exec (.hcompact o) s = .next (trapsAt s 0x13 (word (wfield w0 0 6)) 3#64))
    ∧ (hValid w = true → hTenant w = (coreAt t cid).tenant → ownedBy t (pkgOfC cid) (hBase w) (hLimit w) = true →
      heapHold t cid (slotAt t s.cur.sid).team (hBase w) ≠ 0 → portSlotM o hn h t = .ok ((), t) →
      ∃ u c, exec (.hcompact o) s = .next u ∧ tfind u.cmds t.nextId = some c ∧ c.eng = 5 ∧ c.desc = d ∧ c.sid = s.cur.sid
        ∧ due u (s.now + 40) .relocCommand { a := t.nextId } ∧ (slotAt u s.cur.sid).readyAt = s.now + 5))
  ∧ (∀ s c, tfind s.cmds s.ev.a = some c → s.ev.b = 0 → (pkgAt s (rOwn c / 2048)).rq = [] →
    ∃ t, exec .relocCommand s = .next t
      ∧ (rHeap c ∉ (pkgAt s (rOwn c / 2048)).rle → released s c.entries = false →
          (pkgAt t (rOwn c / 2048)).rq = [(s.ev.a, rHeap c)] ∧ due t (s.now + 1) .relocCommand { a := s.ev.a, b := 1 })
      ∧ (rHeap c ∉ (pkgAt s (rOwn c / 2048)).rle → released s c.entries = true → rHeap c ∈ (pkgAt t (rOwn c / 2048)).rle
          ∧ due t (s.now + 220) .relocParse { a := s.ev.a })
      ∧ (rHeap c ∈ (pkgAt s (rOwn c / 2048)).rle → (pkgAt t (rOwn c / 2048)).rq = [(s.ev.a, rHeap c)]))
  ∧ (∀ s c, tfind s.cmds s.ev.a = some c →
    let pl := (wfield (rW c 1) 0 56, 8 * rNpg c)
    let hd := (c.result.toNat, 48)
    let ps := if s.ev.b = 0 then rPages s c else c.list
    let cs := heapCores s (rOwn c / 2048) (rEntry s c)
    (s.ev.b = 0 → pagesIn s c [pl, hd] →
      (rValid s c ps = false → exec .relocParse s = .next (post (s.now + 40) .relocComplete { a := s.ev.a, c := 5 } s))
      ∧ (rValid s c ps = true → pagesIn s c (ps.map fun p => (p, 65536)) →
        (ps.mapM (fun p => parsePage s c p 4097 0) = none →
          exec .relocParse s = .next (post (s.now + 40) .relocComplete { a := s.ev.a, c := 5 } s))
        ∧ (∀ os, ps.mapM (fun p => parsePage s c p 4097 0) = some os →
          exec .relocParse s = .next (post (s.now + 240 + 4 * (os.map List.length).sum) .relocParse { s.ev with b := 1 }
            (modCmd s.ev.a (fun c => { c with list := ps }) s)))))
    ∧ (s.ev.b ≠ 0 → cs ≠ [] →
      pagesIn s c (hd :: (rArr c, 32768 * rNpg c)
        :: (ps.map fun p => (hFwd (rEntry s c) + 8 * ((p - hBase (rEntry s c)) / 65536), 8)) ++ ps.map fun p => (p, 65536)) →
      ∃ t b, exec .relocParse s = .next t ∧ tfind t.cmds s.ev.a = some b ∧ b.row = cs.length
        ∧ b.user = hGood (rEntry s c) % 3 + 1
        ∧ ∀ x, x ∈ cs → due t (s.now + 30) .flipArrival { a := s.ev.a, b := x }))
  ∧ (∀ s c, tfind s.cmds s.ev.a = some c → s.ev.c = 0 → ∃ t, exec .flipArrival s = .next t
    ∧ tget t.good (s.ev.b * 64 + rHeap c) 1 = c.user
    ∧ (let waits := s.accs.any fun p => decide (p.1 < s.nextId) && cidOf p.2.sid == s.ev.b && p.2.store && p.2.heap == rHeap c
        && !p.2.performed && !p.2.rejected
      (waits = true → due t (s.now + 1) .flipArrival { a := s.ev.a, b := s.ev.b, c := s.nextId })
      ∧ (waits = false → due t (s.now + 30) .flipAck { a := s.ev.a, b := s.ev.b })))
  ∧ (∀ s c, tfind s.cmds s.ev.a = some c →
    let t := modCmd s.ev.a (fun c => { c with row := c.row - 1 }) s
    exec .flipAck s = .next (if c.row = 1 then relocStep s.ev.a t else t))
  ∧ (∀ s c obj l, tfind s.cmds s.ev.a = some c → c.aux = obj :: l →
    let a := nfield obj 0 56
    let n := 16 * (obj / 2 ^ 68)
    let pkg := rOwn c / 2048
    (pagesIn s c [(s.ev.b, 8), (a, n), (destOf c n, n)] →
      (wfield (rPeek s c s.ev.b) 56 8 ≠ 0 → ∃ t, exec .relocObjectBusy s = .next t
        ∧ due t (s.now + 1) .relocObjectBusy { s.ev with c := 1 })
      ∧ (s.ev.c = 1 → wfield (rPeek s c s.ev.b) 56 8 = 0 → wfield (rPeek s c a) 48 8 = 0 → (pkgAt s pkg).copying = 0 →
        ∃ t, exec .relocObjectBusy s = .next t
          ∧ due t (s.now + 300 + (n + 63) / 64) .relocObjectDone { a := s.ev.a, b := s.ev.b, d := destOf c n }
          ∧ (pkgAt t pkg).copying = s.ev.a + 1))
    ∧ (pagesIn s c [(s.ev.b, 8), (a, n), (s.ev.d, n)] →
      (s.ev.c = 0 → ∃ t, exec .relocObjectDone s = .next t ∧ due t (s.now + 224) .relocObjectDone { s.ev with c := 1 }
        ∧ (pkgAt t pkg).copying = 0)
      ∧ (s.ev.c ≠ 0 → ∃ t, exec .relocObjectDone s = .next t ∧ (pkgAt t pkg).rleMoved = (pkgAt s pkg).rleMoved + 1)))
  ∧ (∀ s c, tfind s.cmds s.ev.a = some c → (pkgAt s (rOwn c / 2048)).rq = [] →
    let top := (c.nextAt + 65535) / 65536 * 65536
    (s.ev.c ≠ 5 → c.cpl = false → pagesIn s c ((c.result.toNat, 8) :: (if c.nextAt < top then [(c.nextAt, 16)] else [])) →
      ∃ t, exec .relocComplete s = .next t ∧ tfind t.cmds s.ev.a = none
        ∧ (pkgAt t (rOwn c / 2048)).rle = (pkgAt s (rOwn c / 2048)).rle.erase (rHeap c))
    ∧ (s.ev.c = 5 → cmdAway s c = false → cmdLive s c = false → ∃ t, exec .relocComplete s = .next t ∧ tfind t.cmds s.ev.a = none
        ∧ t.mem = s.mem ∧ (pkgAt t (rOwn c / 2048)).rle = (pkgAt s (rOwn c / 2048)).rle.erase (rHeap c)))

/-! ### Task queues, counters and collectives -/

/-- Task queues and dependency counters (R335 to R343, R437, R438): TQPUT pushes into a hardware entry or the ring, or traps with QFULL; TQGET
takes the record of lowest effective priority from the queue it names, or steals from a neighbour, or answers zero; the TDU refills from the
ring; TDSET, TDBIND and TDEC reach the counter 12 cycles later, one core's in issue order, and a count that reaches zero releases its
record; LAUNCH answers the number of the job it queues. -/
def Obligations.TaskQueuesAndCounters : Prop :=
  (∀ (o : Ops) s w t qk p r u, releaseM (atIssue s) = .ok ((), atIssue s) → srcA o (atIssue s) = .ok (w, t) → srcB o t = .ok (p, u) →
    queueM w u = .ok (qk, u) → taskRecM o p u = .ok (r, u) → (o.exr = true → o.c = 0) →
    let q := qAt u qk
    let rt := routeOf (tidOfC (cidOf s.cur.sid)) (qSlot q q.wr)
    let z := markLast o u
    let put := handRecord qk (handed z z.cur.sid) (pushQ qk r (u.now + 4) z)
    (qRoom q = .entry → exec (.tqput o) s = .next (completeIssue (atCost 4 put)))
    ∧ (qRoom q = .ring → engIn u (qOwn qk) (qSlot q q.wr) (qTenant u qk) 64 → exec (.tqput o) s
        = .next (completeIssue (atCost (220 + 3 * rt.h + 16 * rt.c) put)))
    ∧ (qRoom q = .full → exec (.tqput o) s = .next (trapsAt s 0x0F w 0#64)))
  ∧ (∀ s qk ws ready, (qRoom (qAt s qk) = .entry →
      (qAt (pushQ qk ws ready s) qk).ents = (qAt s qk).ents ++ [{ words := ws, pushed := s.now, ready := ready }]
      ∧ (pushQ qk ws ready s).mem = s.mem)
    ∧ (qRoom (qAt s qk) = .ring → (qAt (pushQ qk ws ready s) qk).wr = (qAt s qk).wr + 1
      ∧ (qAt (pushQ qk ws ready s) qk).ents = (qAt s qk).ents))
  ∧ (∀ w s, wfield w 12 52 = 0 → (wfield w 11 1 = 1 → wfield w 4 7 = 0) →
    let cid := cidOf s.cur.sid
    let cl := qCluster cid w
    (qServes s (pkeyOf s cid) cl (wfield w 0 4) = true → queueM w s = .ok (qKey (pkgOfC cid) cl (wfield w 0 4), s))
    ∧ (qServes s (pkeyOf s cid) cl (wfield w 0 4) = false → queueM w s = .error (.trap 7 w 0#64)))
  ∧ (∀ (o : Ops) s w t qk p u ea, classTrap .c s = none → o.xi.length ≤ 3 → dstFree o (atIssue s) → srcA o (atIssue s) = .ok (w, t) →
    ((bitsR o).1 % 2 = 1 → wfield w 11 1 = 1) → srcB o t = .ok (p, u) → queueM w u = .ok (qk, u) → rawAt p (immR o / 2 * 64) 64 ea →
    tileOfVa (tidOfC (cidOf s.cur.sid)) ea = some (tidOfC (cidOf s.cur.sid)) → rangeOk u ea 64 false true →
    acqPending u u.cur.sid = false →
    let cid := cidOf u.cur.sid
    let own := clusterOf (tidOfC cid)
    let cl := qk / 16 % 128
    let key (c : Nat) : Nat := qKey (pkgOfC cid) c (wfield w 0 4)
    let lat (c : Nat) : Nat := if c = own then 4 else 40 + 16 * clusterDies own c
    let best (c : Nat) : Option TaskRec := bestTask u.now (qAt u (key c)).ents
    let near := if (bitsR o).1 % 2 = 1 then (neighbours cl).filter fun c => qServes u (pkeyOf u cid) c (wfield w 0 4) else []
    let stolen := near.findSome? fun c => (best c).map (c, ·)
    (∀ c r, (best cl = some r ∧ c = cl) ∨ (best cl = none ∧ qRing (qAt u qk) = 0 ∧ stolen = some (c, r)) →
      ∃ v id a, exec (.tqget o) s = .next (completeIssue (deliver (dstRid o) (lat c)
          (word (1 + (wfield w 0 4 + c * 16) * 2 + effPrio u.now r * 2 ^ 13)) v))
        ∧ (qAt v (key c)).ents = (qAt u (key c)).ents.erase r
        ∧ tfind v.accs id = some a ∧ a.va = ea ∧ a.data = wordsBytes r.words ∧ a.perfAt = u.now + lat c
        ∧ due v (u.now + lat c) .accessPerform { a := id })
    ∧ (best cl = none → qRing (qAt u qk) ≠ 0 → exec (.tqget o) s = .next (waitState s))
    ∧ (best cl = none → qRing (qAt u qk) = 0 → stolen = none → exec (.tqget o) s
        = .next (completeIssue (deliver (dstRid o) (((cl :: near).map lat).foldl max 4) 0#64 (markLast o u)))))
  ∧ (∀ (o : Ops) s k v t, readsAB .b o s k v t → (o.exr = true → o.c = 0) →
    let cid := cidOf t.cur.sid
    let n := (partAt t (pkeyOf t cid)).dcnum
    let z := freshId (markLast o t)
    (n ≤ k.toNat → exec (.tdset o) s = .next (trapsAt s 6 k 0#64))
    ∧ (k.toNat < n → 2 ^ 16 ≤ v.toNat → exec (.tdset o) s = .next (trapsAt s 6 v 1#64))
    ∧ (k.toNat < n → v.toNat < 2 ^ 16 → exec (.tdset o) s = .next (completeIssue (post (z.2.now + 12) .tdsetApply
        { a := pkeyOf z.2 (cidOf z.2.cur.sid), b := k.toNat, c := v.toNat, d := cidOf z.2.cur.sid, w2 := word z.1 } z.2))))
  ∧ (∀ (o : Ops) s k p u w qk r v, readsAB .b o s k p u → srcC o u = .ok (w, v) →
    let n := (partAt v (pkeyOf v (cidOf v.cur.sid))).dcnum
    let z := freshId (markLast o v)
    (n ≤ k.toNat → exec (.tdbind o) s = .next (trapsAt s 6 k 0#64))
    ∧ (k.toNat < n → queueM w v = .ok (qk, v) → taskRecM o p v = .ok (r, v) → exec (.tdbind o) s
        = .next (completeIssue (post (z.2.now + 12) .tdbindApply
          { a := pkeyOf z.2 (cidOf z.2.cur.sid), b := k.toNat, d := cidOf z.2.cur.sid
            w := word (wfield w 0 4 + qk / 16 % 128 * 16), w2 := word z.1, p := .words r } z.2))))
  ∧ (∀ (o : Ops) s k t, releaseM (atIssue s) = .ok ((), atIssue s) → srcA o (atIssue s) = .ok (k, t) → (o.exr = true → o.c = 0) →
    let n := (partAt t (pkeyOf t (cidOf t.cur.sid))).dcnum
    let z := freshId (markLast o t)
    let sid := z.2.cur.sid
    (n ≤ k.toNat → exec (.tdec o) s = .next (trapsAt s 6 k 0#64))
    ∧ (k.toNat < n → ∃ u, exec (.tdec o) s = .next u
      ∧ due u (z.2.now + 12) .tdecApply
          { a := pkeyOf z.2 (cidOf sid), b := k.toNat, c := sid, d := (slotAt z.2 sid).gen, w := word z.1, w2 := word z.1 }
      ∧ (slotAt u sid).st = .waiting ∧ (slotAt u sid).hold = true ∧ (slotAt u sid).heldBy = z.1))
  ∧ (∀ s,
    let p := partAt s s.ev.a
    let own := s.ev.a / 64 * 2048
    let a := p.dcbase + 128 * s.ev.b
    let t := markDSpan own a 128 s
    engIn s own a p.tenant 128 →
    (counterTurn s s.ev.d → exec .tdsetApply s
      = .next (engWrite own a p.tenant (natBytes 8 (setField (dcWord t own a p.tenant) 0 16 s.ev.c).toNat) t))
    ∧ (∀ r, counterTurn s s.ev.d → s.ev.p = .words r → exec .tdbindApply s = .next (engWrite own (a + 64) p.tenant (wordsBytes r)
        (engWrite own a p.tenant (natBytes 8 (setField (dcWord t own a p.tenant) 16 1 1).toNat ++ natBytes 8 s.ev.w.toNat) t)))
    ∧ (s.ev.e = 0 → counterTurn s (cidOf s.ev.c) →
      let w0 := dcWord t own a p.tenant
      let x := engWrite own a p.tenant (natBytes 8 (setField w0 0 16 (wfield w0 0 16 - 1)).toNat) t
      let y := post (x.now + 12) .tdecApply { s.ev with e := 1 } x
      let ds := (s.ev.a, s.ev.b, handed y s.ev.c) :: y.decs
      let mine (d : Nat × Nat × Tab Nat) : Bool := d.1 == s.ev.a && d.2.1 == s.ev.b
      let rest := { y with decs := ds.filter fun d => !mine d }
      let w := dcWord y own (a + 8) p.tenant
      let h := handRecord (qKey (s.ev.a / 64) (wfield w 4 7) (wfield w 0 4)) (((ds.filter mine).map (·.2.2)).foldl joinSeen []) rest
      (1 < wfield w0 0 16 → exec .tdecApply s = .next { y with decs := ds })
      ∧ (wfield w0 0 16 = 1 → wfield w0 16 1 = 0 → exec .tdecApply s = .next (modPart s.ev.a (fun p => { p with zerorel := p.zerorel + 1 }) rest))
      ∧ (wfield w0 0 16 = 1 → wfield w0 16 1 = 1 → exec .tdecApply s = .next (post (h.now + 6) .releasedRecordPush
          { a := s.ev.a, d := h.now, w := w, p := .words (bytesWords 8 ((engRead y own (a + 64) p.tenant 64).getD [])) } h))
      ∧ (wfield w0 0 16 = 0 → exec .tdecApply s = .next (post (t.now + 12) .tdecApply { s.ev with e := 2 } t))))
  ∧ (∀ s, (s.ev.e = 1 → heldOn s s.ev.c s.ev.d s.ev.w.toNat = true → exec .tdecApply s = .next (resume s.ev.c 0 s))
    ∧ (s.ev.e = 2 → heldOn s s.ev.c s.ev.d s.ev.w.toNat = true → exec .tdecApply s
        = .next (recordTrap s.ev.c 0x12 (word s.ev.b) 0#64 (slotAt s s.ev.c).pc s)))
  ∧ (∀ s r, s.ev.p = .words r →
    let qk := qKey (s.ev.a / 64) (wfield s.ev.w 4 7) (wfield s.ev.w 0 4)
    let q := qAt s qk
    (qRoom q = .full → exec .releasedRecordPush s = .next (modPart s.ev.a (fun p => { p with held := p.held ++ [(s.ev.w, r, s.ev.d)] }) s))
    ∧ (qRoom q ≠ .full → (qRoom q = .ring → engIn s (qOwn qk) (qSlot q q.wr) (qTenant s qk) 64) →
      exec .releasedRecordPush s = .next (unholdQ qk (pushQ qk r s.now (handRecord qk (pushedSeen s qk s.ev.d) s)))))
  ∧ (∀ s,
    let q := qAt s s.ev.a
    q.refill = true → qRing q ≠ 0 → q.ents.length < 32 → engIn s (qOwn s.ev.a) (qSlot q q.rd) (qTenant s s.ev.a) 64 →
    let ws := bytesWords 8 ((engRead s (qOwn s.ev.a) (qSlot q q.rd) (qTenant s s.ev.a) 64).getD [])
    ∃ t, exec .tqRefill s = .next t ∧ (qAt t s.ev.a).rd = q.rd + 1
      ∧ (qAt t s.ev.a).ents = q.ents ++ [{ words := ws, pushed := q.ages.headD s.now, ready := s.now }])
  ∧ (∀ o s p t ea bs, readsB .c o s p t → rawAt p (immR o * 64) 64 ea → rangeOk t ea 64 true false → dstFree o t →
    recordM ea 64 t = .ok (bs, t) →
    let u := markLastB o t
    let sid := u.cur.sid
    let cid := cidOf sid
    let q := submitJob (pkeyOf u cid) (bytesWords 8 bs) (!userMode u sid) false (releaseSet u sid) 0 u
    exec (.launch o) s = .next (completeIssue (deliver (dstRid o) (loadLatency (tidOfC cid) ea + 24) (word q.1)
      (post u.now .gangPlace { a := pkeyOf u cid } q.2))))
  ∧ (∀ s pk d sup host after tag,
    let q := submitJob pk d sup host after tag s
    (16 ≤ (partAt s pk).jobs.length → q = (0, s))
    ∧ ((partAt s pk).jobs.length < 16 → q.1 = (partAt s pk).nextJob ∧ ∃ j, (partAt q.2 pk).jobs = (partAt s pk).jobs ++ [j]
      ∧ j.num = q.1 ∧ j.desc = d ∧ j.super = sup ∧ j.st = 0))

/-- Collectives (R169 to R184, R344 to R347, R474): GCONT and GSCAN contribute an operand once fewer than two instances wait; a node
combines its operands in order, sends the partial to its parent, and passes the result down; a Pavilion slot collects, closes at NEED
arrivals or its time-out, and passes the result to each sender; A2A sends its parcels and then contributes. -/
def Obligations.Collectives : Prop :=
  (∀ (o : Ops) s x t, readsB .b o s x t → o.xi.length = 1 → (bitsR o).1 < 256 →
    let g := (bitsR o).1
    let sid := s.cur.sid
    let cid := cidOf sid
    let op := cnOpOf (cnWord s (tidOfC cid * 256 + g))
    let u := markLastB o t
    let ok := groupMember s cid g = true ∧ op ≤ 10
    (¬ ok → exec (.gcont o) s = .next (trapsAt s 0x1D (word g) 0#64))
    ∧ (¬ ok ∨ isScan op = false → dstFree o t → exec (.gscan o) s = .next (trapsAt s 0x1D (word g) 0#64))
    ∧ (ok → drained t sid = true → cnWouldWait t cid g = false → exec (.gcont o) s
        = .next (completeIssue (contribute cid g x { sid := sid, gen := (slotAt t sid).gen } u)))
    ∧ (ok → drained t sid = true → cnWouldWait t cid g = true → exec (.gcont o) s = .next (waitState s))
    ∧ (ok → isScan op = true → dstFree o t → drained t sid = true → cnWouldWait t cid g = false → exec (.gscan o) s
        = .next (completeIssue (contribute cid g x
          { sid := sid, gen := (slotAt t sid).gen, kind := 1, dst := dstRid o, npc := (s.cur.ipc + 2 * s.cur.words.length) % vaTop }
          (if dstRid o % 128 = 0 then u else addBusy sid (dstRid o % 128) u)))))
  ∧ (∀ s nk seq l,
    let w := cnWord s nk
    let tid := nk / 256
    let i := tget s.cnInst (nk * 2 + seq % 2) { seq := seq }
    let tot := cnFold (cnOpOf w) (l.map fun x => x.2.1)
    let st := l.foldl (fun n x => stOr n x.2.2) 0
    i.sent = false → cnOperands w i = some l → l ≠ [] →
    (wfield w 14 3 = 7 → due (cnTry nk seq s) s.now .cnInstanceComplete
      { a := nk, b := seq, p := .contrib ⟨[if isScan (cnOpOf w) = true then 0#64 else tot], st, 0⟩ })
    ∧ (wfield w 14 3 = 4 → due (cnTry nk seq s) (s.now + edgePath tid) .ferArrival
      { p := .fer ⟨tid / 2048, if tileX tid < 32 then 0 else 1, nk % 256, seq, 0, tid / 2048, tid, (tileAt s tid).tenant, ⟨[tot], st, 1⟩⟩ })
    ∧ (∀ v, wfield w 14 3 < 4 → neighbour tid (wfield w 14 3) = some v → due (cnTry nk seq s) (s.now + 5 + 8 * crossings tid v) .cnPartial
      { a := v * 256 + nk % 256, b := seq, c := 4 + (wfield w 14 3 + 2) % 4, p := .contrib ⟨[tot], st, 1⟩ }))
  ∧ (∀ s c, s.ev.p = .contrib c →
    let ik := s.ev.a * 2 + s.ev.b % 2
    let i := tget s.cnInst ik { seq := s.ev.b }
    let w := cnWord s s.ev.a
    let listed := wfield w 0 1 = 1 ∧ s.ev.c - 4 ∈ cnKids w
    (s.ev.c < 4 → exec .cnPartial s = .next (cnTry s.ev.a s.ev.b { s with
      cnInst := tput s.cnInst ik { i with cores := i.cores ++ [(s.ev.c, c.vals.headD 0#64)] } }))
    ∧ (4 ≤ s.ev.c → listed → exec .cnPartial s = .next (cnTry s.ev.a s.ev.b { s with
      cnInst := tput s.cnInst ik { i with kids := i.kids ++ [(s.ev.c - 4, c)] } }))
    ∧ (4 ≤ s.ev.c → ¬ listed → exec .cnPartial s = .next (cnErrUp (s.ev.a / 256) s)))
  ∧ (∀ s, exec .cnInstanceComplete s = .next (post s.now .cnResultArrival { a := s.ev.a, b := s.ev.b, flag := true, p := s.ev.p } s))
  ∧ (∀ s c, s.ev.p = .contrib c →
    let nk := s.ev.a
    let w := cnWord s nk
    let l := (cnOperands w (tget s.cnInst (nk * 2 + s.ev.b % 2) { seq := s.ev.b })).getD []
    let g := nk % 256
    let wk := (s.ev.c * 256 + g) * 2 + s.ev.b % 2
    let x := { s with cnWait := tdel s.cnWait wk }
    let first (w : CnWait) := cnDeliver g s.ev.b s.ev.c w (c.vals.headD 0#64) c.status x
    let held := cnDeliver g s.ev.b s.ev.c { sid := s.ev.d, gen := s.ev.e } (c.vals.headD 0#64) c.status s
    (s.ev.flag = true → cnHeld s nk = true → exec .cnResultArrival s = .next (post (s.now + 1) .cnResultArrival s.ev s))
    ∧ (s.ev.flag = true → cnHeld s nk = false → ∃ t, exec .cnResultArrival s = .next t
      ∧ wfield (cnWord t nk) 32 16 = (s.ev.b + 1) % 65536
      ∧ (∀ p, p ∈ cnShares (cnOpOf w) (c.vals.headD 0#64) l → p.1 < 4 → due t s.now .cnResultArrival
          { a := nk, b := s.ev.b, c := nk / 256 * 4 + p.1, p := .contrib ⟨[p.2], c.status, 0⟩ })
      ∧ (∀ p v, p ∈ cnShares (cnOpOf w) (c.vals.headD 0#64) l → 4 ≤ p.1 → neighbour (nk / 256) (p.1 - 4) = some v →
          due t (s.now + 3 + 8 * crossings (nk / 256) v) .cnResultArrival
            { a := v * 256 + nk % 256, b := s.ev.b, flag := true, p := .contrib ⟨[p.2], c.status, 0⟩ }))
    ∧ (∀ w, s.ev.flag = false → tfind s.cnWait wk = some w → (first w).2 = true → exec .cnResultArrival s = .next (first w).1)
    ∧ (∀ w, s.ev.flag = false → tfind s.cnWait wk = some w → (first w).2 = false → exec .cnResultArrival s
        = .next (post (s.now + 1) .cnResultUnblock { s.ev with flag := false, d := w.sid, e := w.gen }
          (modExt (s.ev.c * 256 + g) (fun x => { x with waiting := [c] }) x)))
    ∧ (held.2 = true → exec .cnResultUnblock s = .next (modExt (s.ev.c * 256 + g) (fun x => { x with waiting := [] }) held.1))
    ∧ (held.2 = false → exec .cnResultUnblock s = .next (post (s.now + 1) .cnResultUnblock s.ev s)))
  ∧ (∀ s g seq cid val st (w : CnWait),
    let x := extAt s (cid * 256 + g)
    let live := (slotAt s w.sid).gen = w.gen ∧ (slotAt s w.sid).st ≠ .free
    (w.kind = 2 → cnDeliver g seq cid w val st s = (a2aDone w.cmd val st s, true))
    ∧ (w.kind ≠ 2 → ¬ live → cnDeliver g seq cid w val st s = (s, true))
    ∧ (w.kind = 1 → live → st / 2 ^ 17 % 4 = 0 → cnDeliver g seq cid w val st s = (lateResult w.sid w.dst val s, true))
    ∧ (w.kind = 0 → live → x.owner = some w.sid → x.ents.length < 8 → cnDeliver g seq cid w val st s
        = (addNews (extNews (cid * 256 + g)) 1
            (modExt (cid * 256 + g) (fun x => { x with ents := x.ents ++ [(val, word (seq % 65536 + st))] }) s), true))
    ∧ (w.kind = 0 → live → x.owner = some w.sid → 8 ≤ x.ents.length → cnDeliver g seq cid w val st s = (s, false)))
  ∧ (∀ s p, s.ev.p = .fer p → (exec .ferWaitRelease s = .next (ferIn s.ev.a true p s))
    ∧ ((pkgAt s p.pkg).failed = true → exec .ferArrival s = .next s)
    ∧ ((pkgAt s p.pkg).failed = false → exec .ferArrival s = .next (ferIn (p.pkg * 2 + p.fer) false p s))
    ∧ (let fk := p.pkg * 2 + p.fer
      let k := ferKey fk p.group p.seq
      let uk := ferUpKey k p.seq p.tenant
      ∀ x, tfind s.ferSlot uk = some x → exec .ferParentResult s
        = .next (ferPass k x (wfield (ferRoute s fk p.group).1 1 4) (p.c.vals.headD 0#64) p.c.status
            { s with ferSlot := tdel s.ferSlot uk })))
  ∧ (∀ s fk p, ∀ again : Bool, wfield (ferRoute s fk p.group).1 0 1 = 1 →
    let t := ferIn fk again p s
    let k := ferKey fk p.group p.seq
    let x := ferAtSlot s k
    let n := wfield (ferRoute s fk p.group).2 0 32
    (x.st = 0 → 1 < n → (ferAtSlot t k).st = 1 ∧ (ferAtSlot t k).arr = [p])
    ∧ (x.st = 0 → n ≤ 1 → (ferAtSlot t k).st = 2)
    ∧ (x.st = 1 → x.tenant = p.tenant → x.group = p.group → p.seq < 65536 → x.seq = p.seq →
      (n ≤ x.arr.length + 1 → (ferAtSlot t k).st = 2)
      ∧ (x.arr.length + 1 < n → (ferAtSlot t k).st = 1 ∧ (ferAtSlot t k).arr = ferInsert p x.arr)))
  ∧ (∀ s, let x := ferAtSlot s s.ev.b
    (x.st = 1 → x.opened = s.ev.c → x.halted = false → exec .ferSlotTimeout s = .next (ferClose s.ev.a s.ev.b true s))
    ∧ (x.st ≠ 1 ∨ x.opened ≠ s.ev.c ∨ x.halted = true → exec .ferSlotTimeout s = .next s))
  ∧ (∀ s, ∃ t, exec .ferHaltNotice s = .next t ∧ (ferAt t s.ev.a).halts = (ferAt s s.ev.a).halts ++ [s.ev.b]
    ∧ ∀ k, k ∈ ferSlots s.ev.a s.ev.b → (ferAtSlot s k).st = 1 → (ferAtSlot t k).memberHalted = true
      ∧ (wfield (ferRoute s s.ev.a s.ev.b).1 5 1 = 0 → (ferAtSlot t k).halted = true))
  ∧ (∀ s, ∃ t, exec .ferResumeNotice s = .next t ∧ (ferAt t s.ev.a).halts = (ferAt s s.ev.a).halts.erase s.ev.b
    ∧ (s.ev.b ∉ (ferAt t s.ev.a).halts → ∀ k, k ∈ ferSlots s.ev.a s.ev.b → (ferAtSlot s k).st = 1 → (ferAtSlot t k).halted = false))
  ∧ (∀ o s hn h dp d t e1 e2 l,
    let cid := cidOf s.cur.sid
    let n := aNpar d * aP d
    classTrap .a s = none → portM o 3 64 (atIssue s) = .ok ((hn, h), atIssue s) → descM o 64 (atIssue s) = .ok ((dp, d), t) → a2aOk d = true →
    spanBy rangeMatchM (d.getD 0 0#64) (aVa d 0 : Nat) n true false t = .ok ((), t) →
    spanM (d.getD 3 0#64) (aVa d 3 : Nat) (2 * aNpar d) true false t = .ok ((), t) →
    spanM (d.getD 4 0#64) (aVa d 4 : Nat) (16 * aNdest d) true false t = .ok ((), t) →
    spanBy rangeMatchM (d.getD 1 0#64) (aVa d 1 : Nat) (aRlen d) true true t = .ok ((), t) → groupMember t cid (aGroup d) = true →
    cnOpOf (cnWord t (tidOfC cid * 256 + aGroup d)) ≤ 10 → userOverlap t cid (aVa d 0) n = none →
    userOverlap t cid (aVa d 1) (aRlen d) = none →
    ((List.range 64).drop 16).filter (fun e => !(rtView (rtAt t (cid * 64 + e))).valid) = e1 :: e2 :: l →
    cplM hn dp 3 0 (wfield (d.getD 5 0#64) 46 1 == 1) t = .ok ((), t) → portSlotM o hn h t = .ok ((), t) →
    ∃ u c, exec (.a2a o) s = .next u ∧ tfind u.cmds t.nextId = some c ∧ c.op = 18 ∧ c.desc = d ∧ c.aux = [e1, e2] ∧ c.sid = s.cur.sid
      ∧ rtAt u (cid * 64 + e1) = collWords (aVa d 0) n
      ∧ rtAt u (cid * 64 + e2) = collWords (aVa d 1) (aRlen d)
      ∧ due u (s.now + 4) .a2aParcelWrite { a := t.nextId } ∧ (slotAt u s.cur.sid).readyAt = s.now + 5)
  ∧ (∀ s c, tfind s.cmds s.ev.a = some c →
    let cid := cidOf c.sid
    let own := tidOfC cid
    let ten := (coreAt s cid).tenant
    let d := c.desc
    (s.ev.b = 0 → released s c.entries = true → a2aAhead s s.ev.a cid = false →
      (∀ p, p ∈ [(aVa d 3, 2 * aNpar d), (aVa d 4, 16 * aNdest d), (aVa d 0, aNpar d * aP d)] →
        ∃ a k, engCheck s own p.1 ten p.2 = (a, .ok k)) →
      let all := aParcels s c (aRead s c (aVa d 3) (2 * aNpar d)) (bytesWords (2 * aNdest d) (aRead s c (aVa d 4) (16 * aNdest d)))
        (aNpar d) 0 []
      let near (x : Xfer) : Bool := x.pkg / 65536 == (pkgAt s (own / 2048)).domain
      let here (x : Xfer) : Bool := x.pkg % 65536 == own / 2048 || reachable s (own / 2048) (x.pkg % 65536)
      let xs := ((xferMerge ((all.filter fun x => near x && here x).foldr xferInsert [])).foldr xferByFirst []).flatMap (xferParts s own)
      ∃ t b, exec .a2aParcelWrite s = .next t ∧ tfind t.cmds s.ev.a = some b ∧ b.row = xs.length
        ∧ (all.length < aNpar d → c.status = 0 → (all.all fun x => near x && here x) = true → b.status = 5)
        ∧ (c.status = 0 → all.all near = false → b.status = 1)
        ∧ (∀ x, xs = [x] → x.pkg = identityOf s (own / 2048) →
          let at' := s.now + ((x.bytes.length + 31) / 32 - 1) + (xferTimes s own x).1
          0 < x.bytes.length → due t at' .a2aParcelWrite { a := s.ev.a, b := 1 + x.first, c := x.pkg, w := word x.va
                                                           w2 := word (xferTimes s own x).2, p := .bytes x.bytes })
        ∧ (xs = [] → due t s.now .a2aContribute { a := s.ev.a }))
    ∧ (∀ bs a k, s.ev.b ≠ 0 → s.ev.d = 0 → s.ev.p = .bytes bs →
      remoteCheck s own (s.ev.c % 65536) s.ev.w.toNat bs.length ten (coreAt s cid).part = (a, .ok k) →
      ∃ t, exec .a2aParcelWrite s = .next t ∧ t.mem = (remoteWrite c.sid own (s.ev.c % 65536) s.ev.w.toNat ten bs s).mem
        ∧ (s.ev.c % 65536 = own / 2048 → due t (s.now + s.ev.w2.toNat) .a2aContribute { a := s.ev.a, b := 1 }))
    ∧ (∀ bs a f, s.ev.b ≠ 0 → s.ev.d = 0 → s.ev.p = .bytes bs →
      remoteCheck s own (s.ev.c % 65536) s.ev.w.toNat bs.length ten (coreAt s cid).part = (a, .fail f 4) →
      ∃ t, exec .a2aParcelWrite s = .next t ∧ t.mem = s.mem
        ∧ tfind t.cmds s.ev.a = some { c with status := lowStatus c.status (failStatus 4) }
        ∧ due t (s.now + s.ev.w2.toNat) .remoteRejection { a := s.nextId }
        ∧ (s.ev.c % 65536 = own / 2048 → due t (s.now + s.ev.w2.toNat) .a2aContribute { a := s.ev.a, b := 1 }))
    ∧ (let n := if s.ev.b = 1 then c.row - 1 else c.row
      let c' := if s.ev.b = 1 then { c with row := c.row - 1 } else c
      let t := { s with cmds := tput s.cmds s.ev.a c' }
      (n ≠ 0 → exec .a2aContribute s = .next t)
      ∧ (n = 0 → cmdAway t c' = true → exec .a2aContribute s = .next (post (s.now + 1) .a2aContribute { a := s.ev.a } t))
      ∧ (n = 0 → cmdAway t c' = false → cnWouldWait s cid (aGroup d) = true →
          exec .a2aContribute s = .next (post (s.now + 1) .a2aContribute { a := s.ev.a } t))
      ∧ (n = 0 → cmdAway t c' = false → cnWouldWait s cid (aGroup d) = false → exec .a2aContribute s
          = .next (contribute cid (aGroup d) (word (aNpar d)) { sid := c.sid, gen := c.gen, kind := 2, cmd := s.ev.a } t))))

/-! ### Jobs, gangs, debug and observation -/

/-- Gang switches, placing, ending, debug stops and steps, samples and snapshots (R400 to R404, R429 to R436, R457 to R463): a switch
drains, saves and clears each resident gang; a save leaves its slots FREE; a clear leaves its tiles' bytes zero; a restore brings the
saved strands back; a placed job's cores are set up with their strand 0; TDU_JDONE and TDU_JKILL end a job, which writes its completion
word and leaves the queue; a stop request stops each gang, a step issues one instruction, a snapshot latches every counter. -/
def Obligations.GangsJobsAndDebug : Prop :=
  (∀ s,
    let pk := s.ev.a
    let p := partAt s pk
    let res := (residents s pk).filter fun x => !gangEnding s x.2
    (s.ev.b = 0 → p.stamp.map word ≠ some s.ev.w → exec .gangSwitch s = .next s)
    ∧ (s.ev.b = 0 → p.stamp.map word = some s.ev.w → p.switching = 0 → p.stopped = false → (∀ x, x ∈ res → x.2.halted = 0) →
      ∃ t, exec .gangSwitch s = .next t ∧ (partAt t pk).switching = 1 ∧ (partAt t pk).stamp = none
        ∧ due t s.now .gangSwitch { a := pk, b := 1 })
    ∧ (s.ev.b = 1 → (res.all fun x => gangDrained s x.1 x.2) = false → exec .gangSwitch s = .next (post (s.now + 1) .gangSwitch s.ev s))
    ∧ (s.ev.b = 1 → (res.all fun x => gangDrained s x.1 x.2) = true → res ≠ [] → ∃ t, exec .gangSwitch s = .next t
      ∧ (partAt t pk).switching = 2 ∧ ∀ x, x ∈ res → due t s.now .gangSave { a := pk, b := x.1 })
    ∧ (2 ≤ s.ev.b → p.switching = 3 → exec .gangSwitch s
        = .next (takeTraps (partCores s pk) (modPart pk (fun p => { p with switching := 0, lastSwitch := some s.now }) s))))
  ∧ (∀ s g, gangAt s s.ev.b = some g → ∃ t, exec .gangSave s = .next t ∧ gangAt t s.ev.b = some { g with active := false }
    ∧ (tfind t.saves s.ev.b).isSome = true
    ∧ (∀ p, p ∈ s.cmds → p.2.gang = some s.ev.b → p.2.eng = 3 → p.2.op = 18 → p.2.placed = false →
        (p.1, { p.2 with resumed := true }) ∈ t.cmds)
    ∧ (∀ sid, inGang g (sid / 64) = true → (slotAt t sid).st = .free)
    ∧ due t (s.now + 2100) .tileClear { a := s.ev.b, b := 1 })
  ∧ (∀ s g, gangAt s s.ev.a = some g → ∃ t, exec .tileClear s = .next t
    ∧ (∀ key, isSpKey key = true → inGang g (spTile key) = true → mget t.mem key = 0#8)
    ∧ (∀ key, ¬ (isSpKey key = true ∧ inGang g (spTile key) = true) → s.memOk → mget t.mem key = mget s.mem key)
    ∧ (∀ sid, inGang g (sid / 64) = true → (slotAt t sid).st = .free)
    ∧ ∀ cid e, inGang g (cid / 4) = true → 16 ≤ e → e < 64 → rtAt t (cid * 64 + e) = (0#64, 0#64))
  ∧ (∀ s g v, gangAt s s.ev.b = some g → tfind s.saves s.ev.b = some v → (v.slots.map (·.1)).Nodup → heapPageAway s g.pkey = none →
    ∃ t, exec .gangRestore s = .next t
    ∧ tfind t.saves s.ev.b = none ∧ (gangAt t s.ev.b).map (·.active) = some true ∧ ∀ p, p ∈ v.slots → slotAt t p.1 = p.2)
  ∧ (∀ s g, gangAt s s.ev.a = some g → ∃ t, exec .falloutPhase s = .next t
    ∧ (gangAt t s.ev.a).map (·.fallout) = some (g.fallout.filter fun f => fallHops f != s.ev.b)
    ∧ ∀ f, f ∈ g.fallout → fallHops f = s.ev.b → ∃ n, s.now + stillNeeds f.1 (tidOfC (targetCid f.2)) ≤ n
        ∧ due t n (if f.2.isQ = true then .qsendArrival else .xputArrival) { p := .msg f.2 })
  ∧ (∀ s, let p := partAt s s.ev.a
    (p.made = false ∨ p.stopped = true → exec .gangPlace s = .next s)
    ∧ (∀ j, p.made = true → p.switching = 0 → p.stopped = false → p.stopreq = false → p.jobs = [j] → j.st = 0 → residents s s.ev.a = [] →
      (∀ st, jobCheck s s.ev.a j = some st → exec .gangPlace s = .next (endJob s.ev.a j.num st s))
      ∧ (jobCheck s s.ev.a j = none → jobReady s s.ev.a j = (true, none) → exec .gangPlace s = .next (placeFresh s.ev.a j s).2)))
  ∧ (∀ s pk j cid,
    let p := partAt s pk
    let r := jobRect j.desc
    let q := placeFresh pk j s
    cid / 4 ∈ rectTiles (pk / 64) r →
    let x := slotAt q.2 (cid * 16)
    x.st = .ready ∧ x.pc = wfield (j.desc.getD 0 0#64) 0 56 ∧ x.readyAt = q.1 ∧ x.after = j.after ∧ s.now + 500 + 4 * jNrec j.desc ≤ q.1
    ∧ (coreAt q.2 cid).tvec = p.tvec ∧ ((coreAt q.2 cid).modeS = true ↔ wfield (j.desc.getD 0 0#64) 56 1 = 1)
    ∧ (coreAt q.2 cid).inh = false ∧ (coreAt q.2 cid).gang = some s.nextId)
  ∧ (∀ s j, (partAt s s.ev.a).jobs.find? (fun j => j.num == s.ev.b && j.st == 3) = some j →
    let p := partAt s s.ev.a
    let a := wfield (j.desc.getD 4 0#64) 0 56
    let own := s.ev.a / 64 * 2048 + p.y0 * 64 + p.x0
    let clearing := s.agenda.any fun e => e.2.1 == .tileClear && e.2.2.a == j.gid
    (s.ev.c = 0 → gangAt s j.gid = none → exec .jobEnd s = .next (post s.now .jobEnd { a := s.ev.a, b := s.ev.b, c := 2 } s))
    ∧ (∀ g, s.ev.c = 0 → gangAt s j.gid = some g → g.active = true → g.halted ≠ 3 → clearing = false → ∃ t, exec .jobEnd s = .next t
      ∧ due t s.now .jobEnd { a := s.ev.a, b := s.ev.b, c := 1 })
    ∧ (∀ g, s.ev.c = 0 → gangAt s j.gid = some g → clearing = true → exec .jobEnd s = .next (post (s.now + 1) .jobEnd s.ev s))
    ∧ (∀ g, s.ev.c = 0 → gangAt s j.gid = some g → g.active = false → clearing = false → ∃ t, exec .jobEnd s = .next t
      ∧ gangAt t j.gid = none ∧ due t (s.now + 1) .jobEnd { a := s.ev.a, b := s.ev.b, c := 1 })
    ∧ (s.ev.c = 1 → gangAt s j.gid = none → savedBusy j.gid s = true → exec .jobEnd s
        = .next (post (s.now + 1) .jobEnd s.ev (savedRelease j.gid s).1))
    ∧ (s.ev.c = 1 → gangAt s j.gid = none → savedBusy j.gid s = false → ∃ t, exec .jobEnd s = .next t
      ∧ due t s.now .jobEnd { a := s.ev.a, b := s.ev.b, c := 2 } ∧ t.mem = s.mem ∧ tfind t.saves j.gid = none
      ∧ ∀ p, p ∈ t.accs → p.2.gang ≠ some j.gid)
    ∧ (∀ g, s.ev.c = 1 → gangAt s j.gid = some g →
      let seen := (gangSids g).foldl (fun t sid => joinSeen t (handed s sid)) p.codeSeen
      let q := killAll (gangSids g) (modPart s.ev.a (fun p => { p with codeSeen := seen }) s)
      q.2 = true → (q.1.accs.any fun p => p.2.gang == some j.gid && !p.2.rejected) = false →
      (q.1.cmds.any fun p => p.2.gang == some j.gid) = false → ∃ t, exec .jobEnd s = .next t
      ∧ due t (s.now + 2100) .tileClear { a := j.gid } ∧ due t (s.now + 2100) .jobEnd { a := s.ev.a, b := s.ev.b, c := 2 })
    ∧ (2 ≤ s.ev.c → (a ≠ 0 → engIn s own a p.tenant 8) → ∃ t, exec .jobEnd s = .next t ∧ gangAt t j.gid = none
      ∧ (partAt t s.ev.a).jobs = p.jobs.filter (fun x => x.num != s.ev.b) ∧ due t s.now .gangPlace { a := s.ev.a }
      ∧ t.mem = (if a = 0 then s else
          engWrite own a p.tenant (natBytes 8 (s.ev.b + j.status * 2 ^ 16)) (markDSpan own a 8 s)).mem))
  ∧ (∀ s j g,
    let pk := pkeyOf s s.ev.a
    (partAt s pk).jobs.find? (fun j => j.num == s.ev.b && j.st != 3) = some j → j.st = 1 → gangAt s j.gid = some g → s.ev.a ∈ gangCores g →
    ∃ t, exec .tduJdone s = .next t
      ∧ ((∀ c, c ∈ gangCores g → c = s.ev.a ∨ c ∈ j.done) → due t s.now .jobEnd { a := pk, b := s.ev.b })
      ∧ ((¬ ∀ c, c ∈ gangCores g → c = s.ev.a ∨ c ∈ j.done) → t.agenda = s.agenda))
  ∧ (∀ s, (s.ev.flag = false → exec .tduJkill s = .next (post (s.now + 1) .tduJkill { s.ev with flag := true } s))
    ∧ (s.ev.flag = true → exec .tduJkill s = .next (endJob (pkeyOf s s.ev.a) s.ev.b 1 s)))
  ∧ (∀ s, ∃ t, exec .tileFailure s = .next t ∧ (tileAt t s.ev.a).failed = true ∧ t.mem = s.mem)
  ∧ (∀ s,
    let p := partAt s s.ev.a
    (p.stopreq = false ∨ p.stopped = true → exec .debugStopRequest s = .next s)
    ∧ (p.stopreq = true → p.stopped = false → p.switching ≠ 0 →
      exec .debugStopRequest s = .next (post (s.now + 1) .debugStopRequest s.ev s))
    ∧ (p.stopreq = true → p.stopped = false → p.switching = 0 → ∃ t, exec .debugStopRequest s = .next t
      ∧ ∀ x, x ∈ residents s s.ev.a → x.2.halted = 0 → x.2.sstep = false → due t s.now .debugStop { a := s.ev.a, b := 1, c := x.1 }))
  ∧ (∀ s g, gangAt s s.ev.c = some g → g.active = true → g.halted < 2 →
    (s.ev.b = 1 → gangDrained s s.ev.c g = false → exec .debugStop s = .next (post (s.now + 1) .debugStop s.ev s))
    ∧ (s.ev.b ≠ 1 ∨ gangDrained s s.ev.c g = true → ∃ t, exec .debugStop s = .next t ∧ (gangAt t s.ev.c).map (·.halted) = some 2
      ∧ (partAt t g.pkey).stopss = (if g.sstep = true then g.count else 0#64)))
  ∧ (∀ s, (partAt s s.ev.a).stopped = true → ∃ t, exec .debugResume s = .next t ∧ (partAt t s.ev.a).stopped = false
    ∧ (partAt t s.ev.a).stopreq = false ∧ due t s.now .gangPlace { a := s.ev.a })
  ∧ (∀ s, (partAt s s.ev.a).stopped = true →
    let sid := s.ev.b * 16 + s.ev.c
    let ready := s.ev.b ∈ partCores s s.ev.a ∧ s.ev.c ≤ 10 ∧ (slotAt s sid).st = .ready
    (ready → exec .tduStep s = .next (modPart s.ev.a (fun p => { p with stepping := some (sid, 0) }) s))
    ∧ (¬ ready → exec .tduStep s = .next (modPart s.ev.a (fun p => { p with stepNotReady := true }) s)))
  ∧ (∀ s n,
    let sid := s.ev.b * 16 + s.ev.c
    let x := slotAt s sid
    (partAt s s.ev.a).stepping = some (sid, n) → n ≠ 0 →
    ((x.st = .waiting ∨ x.st = .parked) → stepAnswer s sid = false → ∃ t, exec .stepDone s = .next t
      ∧ (partAt t s.ev.a).stepWaited = true ∧ (partAt t s.ev.a).stepping = none ∧ (slotAt t sid).st = .ready)
    ∧ (x.st = .ready → x.hold = false → s.accs = [] → s.cmds = [] → tget s.vq s.ev.b [] = [] → exec .stepDone s
        = .next (modPart s.ev.a (fun p => { p with stepDone := true, stepping := none }) s)))
  ∧ (∀ s, let cfg := (partAt s s.ev.a).trcfg
    (cfg ≠ s.ev.w ∨ wfield cfg 8 1 = 0 ∨ wfield cfg 0 5 = 0 → exec .traceSample s = .next s)
    ∧ (cfg = s.ev.w → wfield cfg 8 1 = 1 → wfield cfg 0 5 ≠ 0 → ∃ t, exec .traceSample s = .next t
      ∧ due t (s.now + 256 * max 1 (wfield cfg 16 16)) .traceSample s.ev
      ∧ (partAt t s.ev.a).trwr = (partAt s s.ev.a).trwr
          + ((partCores s s.ev.a).filter fun c => (coreAt s c).gang.isSome).length))
  ∧ (∀ s, let p := partAt s s.ev.a
    (s.ev.b = 1 → p.snapAt ≠ some s.ev.w.toNat → exec .snapshotFire s = .next s)
    ∧ (s.ev.b ≠ 1 ∨ p.snapAt = some s.ev.w.toNat → ∃ t, exec .snapshotFire s = .next t
      ∧ (partAt t s.ev.a).snap = (snapAddrs (s.ev.a / 64) p).map (fun a =>
          (snapKey a, (blockGet s (s.ev.a / 64) (s.ev.a % 64) (s.ev.a / 64 * 8192) a).getD 0#64))
      ∧ (partAt t s.ev.a).fired = true ∧ (partAt t s.ev.a).armed = false ∧ t.mem = s.mem))
  ∧ (∀ s l, s.ev.p = .words l → (pkgAt s s.ev.a).powered = true → exec .lifetimeCounterUpdate s
      = .next (post (s.now + 1500000000000) .lifetimeCounterUpdate { a := s.ev.a } (modPkg s.ev.a (fun k => { k with
          life := mergeLife (mergeLife k.life k.lifeNow) (lifeSamples 0 l), lifeNow := [] }) s)))

/-! ### The host, the Crazon commands and the trust die -/

/-- The host's accesses and commands (R450 to R453, R409 to R411, R419, R427, R430, R469, R470): an access goes through its mapping or
returns poisoned data; the door starts the next command, whose code and ID are read from device memory at the queue's head, where the
queue's size is a power of two from 16 to 4,096; before NEGOTIATE a command is unsupported but for two; each command has its effect,
completes with its status and its phase bit, and the next is taken. -/
def Obligations.HostAndCrazonCommands : Prop :=
  (∀ s,
    let n := match s.ev.p with
      | .bytes bs => bs.length
      | _ => s.ev.c
    let hit := (pkgAt s s.ev.a).hostmaps.find? fun m => decide (m.base ≤ s.ev.b) && decide (s.ev.b + n ≤ m.base + m.size)
    (hit = none → exec .hostMemAccess s = .next (toHost s.ev.a (2 ^ 32 + s.ev.d) [] s))
    ∧ (∀ m, hit = some m → ∃ t a, exec .hostMemAccess s = .next t ∧ tfind t.accs s.nextId = some a ∧ a.va = m.va + (s.ev.b - m.base)
      ∧ a.size = n ∧ a.tenant = m.tenant ∧ a.store = s.ev.flag ∧ due t (s.now + 110) .mtuAccessDecide { a := s.nextId }))
  ∧ (∀ s pkg,
    let k := pkgAt s pkg
    let opc := (mget s.mem (devKey pkg (k.qbase + 64 * (k.head % k.qsz)))).toNat
    let arg := { k.cmdq.headD {} with a := pkg, b := bytesNat (mread s.mem (devKey pkg (k.qbase + 64 * (k.head % k.qsz)) + 2) 2) }
    let t := crzNext pkg s
    (crzOpen k.qsz = false → t = s)
    ∧ (k.crzBusy = false → k.powered = true → k.head ≠ k.door → crzOpen k.qsz = true →
      (pkgAt t pkg).crzBusy = true
      ∧ (k.negotiated = true ∨ opc = 1 ∨ opc = 2 → due t s.now (crzCommand opc) arg)
      ∧ (k.negotiated = false → opc ≠ 1 → opc ≠ 2 → due t s.now .unsupportedCommand arg)))
  ∧ (∀ n, crzOpen n = true ↔ n ∈ [16, 32, 64, 128, 256, 512, 1024, 2048, 4096])
  ∧ (∀ s pkg id st res, (pkgAt s pkg).head + 1 = (pkgAt s pkg).door →
    let k := pkgAt s pkg
    let t := crzDone pkg id st res s
    (pkgAt t pkg).head = k.head + 1 ∧ (pkgAt t pkg).ctail = k.ctail + 1 ∧ (pkgAt t pkg).crzBusy = false
    ∧ (s.memOk → mread t.mem (devKey pkg (k.cbase + 16 * (k.ctail % max 1 k.qsz))) 16
        = natBytes 2 id ++ natBytes 2 st ++ natBytes 8 res ++ natBytes 4 ((k.ctail / max 1 k.qsz + 1) % 2 * 2 ^ 31)))
  ∧ (∀ s, exec .crzDoor s = .next (crzNext s.ev.a (modPkg s.ev.a (fun k => { k with door := s.ev.b })
      (if s.ev.flag = true then
        modPkg s.ev.a (fun k => { k with qsz := s.ev.c, qbase := s.ev.w.toNat, cbase := s.ev.w2.toNat }) s else s))))
  ∧ (∀ s,
    let pkg := s.ev.a
    let done (st res : Nat) (t : State) : Host.Outcome State Fault Refusal := .next (crzDone pkg s.ev.b st res t)
    let k := pkgAt s pkg
    exec .unsupportedCommand s = done 4 0 s
    ∧ (∃ bs, exec .identify s = done 0 0 (toHost pkg 0x01 bs s) ∧ bs.take 16 = natBytes 8 (identityOf s pkg) ++ natBytes 8 0xFF)
    ∧ (k.negotiated = true → exec .negotiate s = done 2 0 s)
    ∧ (k.negotiated = false → wfield s.ev.w 0 1 = 0 → exec .negotiate s = done 1 0 s)
    ∧ (k.negotiated = false → wfield s.ev.w 0 1 = 1 → exec .negotiate s = done 0 0 (modPkg pkg (fun k => { k with
        negotiated := true, feat0 := s.ev.w &&& 0xFF#64, feat1 := 0#64 }) s))
    ∧ (k.patched = true → exec .patch_ s = done 2 0 s)
    ∧ (k.patched = false → Config.trustOk (2 ^ 32 + s.ev.b) = false → exec .patch_ s = done 1 0 s)
    ∧ (k.patched = false → Config.trustOk (2 ^ 32 + s.ev.b) = true → s.ev.c < Config.minPatch → exec .patch_ s = done 2 0 s)
    ∧ (k.patched = false → Config.trustOk (2 ^ 32 + s.ev.b) = true → Config.minPatch ≤ s.ev.c → exec .patch_ s
        = done 0 0 (modPkg pkg (fun k => { k with patched := true, measures := k.measures ++ [(11, 1)] }) s))
    ∧ (∀ p, s.ev.p = .part p → partStatus s pkg p ≠ 0 → exec .partMake s = done (partStatus s pkg p) 0 s)
    ∧ (∀ p, s.ev.p = .part p → partStatus s pkg p = 0 → k.head + 1 = k.door → ∃ t, exec .partMake s = .next t
      ∧ (let q := partAt t (pkg * 64 + p.part)
        q.made = true ∧ q.tenant = p.tenant ∧ q.x0 = p.x0 ∧ q.y0 = p.y0 ∧ q.w = p.w ∧ q.h = p.h ∧ q.tvec = p.tvec % 2 ^ 56 ∧ q.tmpl = p.tmpl
        ∧ q.heapTab = k.heapTab ∧ q.switchMin < 2 ^ 24 ∧ (p.w = 64 → p.h = 32 → q.switchMin = 120))
      ∧ (∀ tid, tid ∈ specTiles pkg p → (tileAt t tid).tenant = p.tenant ∧ (tileAt t tid).part = some p.part)
      ∧ (pkgAt t pkg).keys.any (fun x => x.1 == p.tenant) = true)
    ∧ ((partAt s (pkg * 64 + s.ev.c)).made = false → exec .partEnd s = done 1 0 s)
    ∧ ((partAt s (pkg * 64 + s.ev.c)).made = true → s.ev.flag = false → ∃ t, exec .partEnd s = .next t
      ∧ due t (s.now + 1) .partEnd { s.ev with flag := true })
    ∧ ((partAt s (pkg * 64 + s.ev.c)).made = true → s.ev.flag = true → (partAt s (pkg * 64 + s.ev.c)).jobs = [] →
      (partAt s (pkg * 64 + s.ev.c)).switching = 0 → k.head + 1 = k.door →
      ∃ t, exec .partEnd s = .next t ∧ partAt t (pkg * 64 + s.ev.c) = {})
    ∧ (s.ev.flag = true →
      let bs := grantBytes (partAt s (pkg * 64 + s.ev.c)).grants
      exec .grant_ s = done 0 bs.length (toHost pkg 0x12 bs s))
    ∧ (∀ l, s.ev.flag = false → s.ev.p = .grants l →
      let ok := s.ev.c < 64 ∧ l.length ≤ 32
        ∧ (l.all fun g => g.base % 65536 == 0 && g.limit % 65536 == 0 && decide (g.limit ≤ 2 ^ 56)) = true
      (ok → exec .grant_ s = done 0 0 (modPart (pkg * 64 + s.ev.c) (fun p => { p with grants := l }) s))
      ∧ (¬ ok → exec .grant_ s = done 1 0 s))
    ∧ (∀ l, s.ev.p = .maps l → ((l.any fun m => m.backing.isSome) = true → wfield k.feat0 4 1 = 0 → exec .map_ s = done 4 0 s)
      ∧ ((l.any fun m => m.backing.isSome) = false ∨ wfield k.feat0 4 1 = 1 →
        ((l.any fun m => decide (2 ^ 40 ≤ m.page) || inWindow (m.page * 65536)) = true → exec .map_ s = done 1 0 s)
        ∧ ((l.any fun m => decide (2 ^ 40 ≤ m.page) || inWindow (m.page * 65536)) = false →
          exec .map_ s = done 0 0 (l.foldl (fun s m => mapOne pkg m s)
            (if s.ev.flag = true then modPkg pkg (fun k => { k with backBase := s.ev.w.toNat }) s else s)))))
    ∧ (s.ev.c < 128 → exec .own_ s = done 0 0 { s with own := tput s.own (pkg * 128 + s.ev.c) (ownBits0 s.ev.w, ownBits1 s.ev.w2) })
    ∧ (128 ≤ s.ev.c → exec .own_ s = done 1 0 s)
    ∧ (let e := leafOf s pkg (s.ev.c * 65536)
      let w1 := (backingOf s pkg e).2
      let can := leafV e = true ∧ leafSt e = 0 ∧ backed s pkg s.ev.c = true
      let writing := s.agenda.any fun x => x.2.1 == .evictWritebackComplete && x.2.2.a == pkg && x.2.2.b == s.ev.c
      (s.ev.d = 0 → can → exec .evict s
        = .next (post (s.now + 1) .evict { s.ev with d := 1 } (changeLeaf pkg s.ev.c (setField e 1 3 2) s)))
      ∧ (s.ev.d = 0 → ¬ can → exec .evict s = done 2 0 s)
      ∧ (s.ev.d = 1 → pageDraining s pkg s.ev.c = true → exec .evict s = .next (post (s.now + 1) .evict s.ev s))
      ∧ (s.ev.d = 1 → pageDraining s pkg s.ev.c = false → ∃ t, exec .evict s = .next t ∧ due t (s.now + 1) .evict { s.ev with d := 2 }
        ∧ (wfield e 4 1 = 0 → due t s.now .evictWritebackComplete { a := pkg, b := s.ev.c })
        ∧ (wfield e 4 1 = 1 → (sqeAt t (pkg * 4 + wfield w1 32 4 / 4)).writes = (sqeAt s (pkg * 4 + wfield w1 32 4 / 4)).writes + 1))
      ∧ (2 ≤ s.ev.d → k.evictErr ≠ 0 → exec .evict s = done 1 (k.evictErr % 65536) s)
      ∧ (2 ≤ s.ev.d → k.evictErr = 0 → leafSt e = 2 → writing = true → exec .evict s = .next (post (s.now + 1) .evict s.ev s))
      ∧ (2 ≤ s.ev.d → k.evictErr = 0 → leafSt e ≠ 2 ∨ writing = false → exec .evict s = done 0 0 s))
    ∧ (∀ r, s.ev.p = .route r → (s.ev.flag = true → exec .route_ s
        = done 0 0 (modPkg pkg (fun k => { k with routes := k.routes ++ [(r.dest, r.port % 36, r.hops)] }) s))
      ∧ (s.ev.flag = false → k.head + 1 = k.door → ∃ t, exec .route_ s = .next t
        ∧ (ferRoute t (pkg * 2 + r.fer % 2) (r.group % 256)).1 = r.w0 &&& 0x003FFFFF0FFF007F#64
        ∧ wfield (ferRoute t (pkg * 2 + r.fer % 2) (r.group % 256)).2 0 32 = wfield r.w1 0 32))
    ∧ (∀ m, s.ev.p = .hmap m → (m.make = true → 2 ^ 56 < m.va + m.size → exec .hostmap s = done 1 0 s)
      ∧ (m.make = true → m.va + m.size ≤ windowBase → exec .hostmap s = done 0 0 (modPkg pkg (fun k => { k with
          hostmaps := (k.hostmaps.filter fun x => x.index != m.index) ++ [m] }) s))
      ∧ (m.make = false → exec .hostmap s = done 0 0 (modPkg pkg (fun k => { k with
          hostmaps := (k.hostmaps.filter fun x => x.index != m.index) ++ [] }) s)))
    ∧ (∀ d, s.ev.p = .words d →
      let pk := pkg * 64 + s.ev.c
      let q := submitJob pk d true true [] s.ev.d s
      ((partAt s pk).made = false ∨ 64 ≤ s.ev.c → exec .job_ s = done 1 0 s)
      ∧ ((partAt s pk).made = true → s.ev.c < 64 → exec .job_ s
          = if q.1 = 0 then done 2 0 q.2 else done 0 q.1 (post q.2.now .gangPlace { a := pk } q.2)))
    ∧ (∃ bs, exec .log_ s = done 0 bs.length (toHost pkg 0x21 bs s)))
  ∧ (∀ s,
    let back := s.parts.any fun q => q.1 / 64 == s.ev.a && q.2.made && q.2.tenant == s.ev.b
    let busy := s.accs.any fun a => a.2.dpkg == s.ev.a && a.2.tenant == s.ev.b && !a.2.performed
    (back = true → exec .tenantKeyErase s = .next s)
    ∧ (back = false → busy = true → exec .tenantKeyErase s = .next (post (s.now + 1) .tenantKeyErase s.ev s))
    ∧ (back = false → busy = false → exec .tenantKeyErase s
        = .next (modPkg s.ev.a (fun k => { k with keys := k.keys.filter fun x => x.1 != s.ev.b }) s)))

/-- Bring-up, power and trust (R463, R465 to R468, R471, R418): the steps come in order, each within its bound, a die whose digest
differs counts as failed, a failed trust die leaves the package in reset; a thermal trip halts the package and is reported; a power loss
empties it but for the lifetime store; SPDM requests are answered, before step 4 with ResponseNotReady; a port's link status follows its
changes. -/
def Obligations.BringUpPowerAndTrust : Prop :=
  (∀ s,
    let pkg := s.ev.a
    let k := pkgAt s pkg
    let ok := Config.trustOk (pkg * 16 + s.ev.b)
    let measured := modPkg pkg (fun q => { q with measures := q.measures ++ [(s.ev.b, if ok = true then 1 else 0)] }) s
    (k.present = false ∨ k.powered = true → exec .powerOn s = .next s)
    ∧ (k.present = true → k.powered = false → s.ev.flag = false →
      exec .powerOn s = .next (bringNext pkg 0 (modPkg pkg (fun q => { q with measures := [] }) s)))
    ∧ (k.present = true → k.powered = false → s.ev.flag = true → s.ev.b < 11 →
      (ok = true → exec .powerOn s = .next (bringNext pkg (s.ev.b + 1) measured))
      ∧ (ok = false → s.ev.b = 0 → exec .powerOn s = .next measured)
      ∧ (ok = false → 3 ≤ s.ev.b → ∃ t, exec .powerOn s = .next t
        ∧ (∀ tid, tid ∈ dieTiles pkg (s.ev.b - 3) → (tileAt t tid).failed = true)
        ∧ ∃ n, n ≤ s.now + 150000000 + (if s.ev.b = 10 then 100000000 else 0)
          ∧ due t n .powerOn { a := pkg, b := s.ev.b + 1, flag := true }))
    ∧ (k.present = true → k.powered = false → s.ev.flag = true → 11 ≤ s.ev.b → ∃ t, exec .powerOn s = .next t
      ∧ (pkgAt t pkg).powered = true ∧ (pkgAt t pkg).routes = [] ∧ (pkgAt t pkg).heapTab % 4096 = 0
      ∧ due t (s.now + 1500000000000) .lifetimeCounterUpdate { a := pkg }))
  ∧ (∀ s pkg k, ∃ n, s.now ≤ n ∧ n ≤ s.now + bringBound k ∧ due (bringNext pkg k s) n .powerOn { a := pkg, b := k, flag := true })
  ∧ (∀ s, (pkgAt s s.ev.a).present = true →
    (∃ t, exec .thermalTrip s = .next t ∧ (pkgAt t s.ev.a).halted = true ∧ (pkgAt t s.ev.a).fatal = true ∧ t.mem = s.mem)
    ∧ (∃ t, exec .powerLoss s = .next t ∧ (pkgAt t s.ev.a).life = (pkgAt s s.ev.a).life ∧ (pkgAt t s.ev.a).lifeNow = []
      ∧ (pkgAt t s.ev.a).powered = false ∧ (∀ key, key / 2 ^ 42 = s.ev.a → mget t.mem key = 0#8)
      ∧ ∀ cid, cid / 8192 = s.ev.a → coreAt t cid = {}))
  ∧ (∀ s,
    let pkg := s.ev.a
    let answer (code : Nat) (bs : List Byte) : Host.Outcome State Fault Refusal :=
      .next (if (pkgAt s pkg).powered = true then toHost pkg code bs s else toHost pkg (2 ^ 34 + code) [] s)
    exec .getVersion s = answer 0x84 (Config.trustBytes pkg 0x84)
    ∧ exec .getCapabilities s = answer 0xE1 (Config.trustBytes pkg 0xE1)
    ∧ exec .negotiateAlgorithms s = answer 0xE3 (Config.trustBytes pkg 0xE3)
    ∧ exec .getDigests s = answer 0x81 (Config.trustBytes pkg 0x81)
    ∧ exec .getCertificate s = answer 0x82 (((Config.trustBytes pkg 0x82).drop s.ev.b).take s.ev.c)
    ∧ exec .challenge s = answer (0x83 + 256 * s.ev.b) (Config.trustBytes pkg (0x83 + 256 * s.ev.b))
    ∧ (∀ e, (pkgAt s pkg).measures[s.ev.b]? = some e → exec .getMeasurements s
        = answer (0xE0 + 256 * s.ev.b) (natBytes 1 e.1 ++ natBytes 1 e.2 ++ Config.trustBytes pkg (0xE0 + 256 * s.ev.b))))
  ∧ (∀ s,
    let k := s.ev.a * 4 + s.ev.b / 4
    (s.ev.flag = true → exec .ssdPortLinkChange s
      = .next (if dieUp s s.ev.a (8 + s.ev.b / 8) = true then modSqe k (fun q => { q with link := q.link ||| 2 ^ (s.ev.b % 4) }) s else s))
    ∧ (s.ev.flag = false → ∃ t, exec .ssdPortLinkChange s = .next t
      ∧ (sqeAt t k).link = ((sqeAt s k).link &&& (15 - 2 ^ (s.ev.b % 4)))
      ∧ (∀ f, f ∈ s.fills → f.1 / 2 ^ 40 = s.ev.a →
          wfield (backingOf s s.ev.a (leafOf s s.ev.a (f.1 % 2 ^ 40 * 65536))).2 32 4 = s.ev.b →
          due t s.now .sqeFillFail { a := s.ev.a, b := f.1 % 2 ^ 40, c := 3 })))
end

