-- ==== Sys2Proof/Laws/Memory.lean ====
section
/-!
SUPPORT. Tables and memory: reading after writing, and that every memory operation keeps the canonical form.
-/

set_option Elab.async false

namespace Sys2Proof.Machine

/-! ### Tables -/

@[simp] theorem tget_tput_self {α : Type} (t : Tab α) (k : Nat) (x d : α) : tget (tput t k x) k d = x := by
  induction t with
  | nil => simp [tput, tget]
  | cons p r ih =>
    obtain ⟨j, y⟩ := p
    by_cases h : j = k
    · simp [tput, tget, h]
    · by_cases h' : k < j <;> simp [tput, tget, h, h', ih]

theorem tget_tput_of_ne {α : Type} (t : Tab α) {k j : Nat} (x d : α) (h : j ≠ k) : tget (tput t k x) j d = tget t j d := by
  induction t with
  | nil => simp [tput, tget, Ne.symm h]
  | cons p r ih =>
    obtain ⟨i, y⟩ := p
    by_cases hi : i = k
    · subst hi; simp [tput, tget, Ne.symm h]
    · by_cases h' : k < i
      · simp [tput, tget, hi, h', Ne.symm h]
      · simp only [tput, hi, if_false, h', tget, ih]

@[simp] theorem tfind_tput_self {α : Type} (t : Tab α) (k : Nat) (x : α) : tfind (tput t k x) k = some x := by
  induction t with
  | nil => simp [tput, tfind]
  | cons p r ih =>
    obtain ⟨j, y⟩ := p
    by_cases h : j = k
    · simp [tput, tfind, h]
    · by_cases h' : k < j <;> simp [tput, tfind, h, h', ih]

theorem tfind_tput_of_ne {α : Type} (t : Tab α) {k j : Nat} (x : α) (h : j ≠ k) : tfind (tput t k x) j = tfind t j := by
  induction t with
  | nil => simp [tput, tfind, Ne.symm h]
  | cons p r ih =>
    obtain ⟨i, y⟩ := p
    by_cases hi : i = k
    · subst hi; simp [tput, tfind, Ne.symm h]
    · by_cases h' : k < i
      · simp [tput, tfind, hi, h', Ne.symm h]
      · simp only [tput, hi, if_false, h', tfind, ih]

@[simp] theorem tfind_tdel_self {α : Type} (t : Tab α) (k : Nat) : tfind (tdel t k) k = none := by
  induction t with
  | nil => rfl
  | cons p r ih =>
    obtain ⟨j, y⟩ := p
    by_cases h : j = k
    · simpa [tdel, h] using ih
    · have : tdel ((j, y) :: r) k = (j, y) :: tdel r k := by simp [tdel, h]
      simp [this, tfind, h, ih]

theorem tfind_tdel_of_ne {α : Type} (t : Tab α) {k j : Nat} (h : j ≠ k) : tfind (tdel t k) j = tfind t j := by
  induction t with
  | nil => rfl
  | cons p r ih =>
    obtain ⟨i, y⟩ := p
    by_cases hi : i = k
    · subst hi
      have : tdel ((i, y) :: r) i = tdel r i := by simp [tdel]
      simp [this, tfind, Ne.symm h, ih]
    · have : tdel ((i, y) :: r) k = (i, y) :: tdel r k := by simp [tdel, hi]
      rw [this]; simp only [tfind, ih]

/-! ### Memory -/

theorem mget_mset_of_ne (m : List Host.Cell) {a c : Nat} (b : Byte) (h : c ≠ a) : mget (mset m a b) c = mget m c := by
  induction m with
  | nil => by_cases hb : b = 0#8 <;> simp [mset, mget, hb, Ne.symm h]
  | cons p r ih =>
    obtain ⟨j, x⟩ := p
    by_cases hj : j = a
    · subst hj; by_cases hb : b = 0#8 <;> simp [mset, mget, hb, Ne.symm h]
    · by_cases hl : a < j
      · by_cases hb : b = 0#8 <;> simp [mset, mget, hj, hl, hb, Ne.symm h]
      · simp only [mset, hj, if_false, hl, mget, ih]

theorem mget_of_le {m : List Host.Cell} {lo a : Nat} (h : mwfFrom (some lo) m = true) (ha : a ≤ lo) : mget m a = 0#8 := by
  induction m generalizing lo with
  | nil => rfl
  | cons p r ih =>
    obtain ⟨j, x⟩ := p
    simp only [mwfFrom, Bool.and_eq_true, decide_eq_true_eq] at h
    have : j ≠ a := by omega
    simp [mget, this, ih h.2 (by omega : a ≤ j)]

theorem mwfFrom_none_of_some {m : List Host.Cell} {lo : Nat} (h : mwfFrom (some lo) m = true) : mwfFrom none m = true := by
  cases m with
  | nil => rfl
  | cons p r =>
    obtain ⟨j, x⟩ := p
    simp only [mwfFrom, Bool.and_eq_true] at h ⊢
    exact ⟨h.1.2, h.2⟩

theorem mwfFrom_mono {m : List Host.Cell} {lo lo' : Nat} (h : mwfFrom (some lo) m = true) (hl : lo' ≤ lo) :
    mwfFrom (some lo') m = true := by
  cases m with
  | nil => rfl
  | cons p r =>
    obtain ⟨j, x⟩ := p
    simp only [mwfFrom, Bool.and_eq_true, decide_eq_true_eq] at h ⊢
    exact ⟨⟨by omega, h.1.2⟩, h.2⟩

theorem mset_wf_from {m : List Host.Cell} {lo a : Nat} {b : Byte} (h : mwfFrom (some lo) m = true) (ha : lo < a) :
    mwfFrom (some lo) (mset m a b) = true ∧ mget (mset m a b) a = b := by
  induction m generalizing lo with
  | nil => by_cases hb : b = 0#8 <;> simp [mset, mwfFrom, mget, hb, ha]
  | cons p r ih =>
    obtain ⟨j, x⟩ := p
    simp only [mwfFrom, Bool.and_eq_true, decide_eq_true_eq, bne_iff_ne, ne_eq] at h
    by_cases hj : j = a
    · subst hj
      by_cases hb : b = 0#8
      · simp only [mset, if_true, hb]
        exact ⟨mwfFrom_mono h.2 (by omega), mget_of_le h.2 (Nat.le_refl _)⟩
      · simp [mset, hb, mwfFrom, mget, h.2, h.1.1]
    · by_cases hl : a < j
      · by_cases hb : b = 0#8
        · simp only [mset, hj, if_false, hl, if_true, hb]
          refine ⟨by simp [mwfFrom, h.1.1, h.1.2, h.2], ?_⟩
          simp [mget, hj, mget_of_le h.2 (by omega : a ≤ j)]
        · simp [mset, hj, hl, hb, mwfFrom, mget, h.1.2, h.2, ha]
      · have q := ih (lo := j) h.2 (by omega)
        simp [mset, hj, hl, mwfFrom, mget, h.1.1, h.1.2, q.1, q.2]

/-- One byte written: the form is kept, and the byte reads back. -/
theorem mset_wf {m : List Host.Cell} (h : Memory.wf m = true) (a : Nat) (b : Byte) :
    Memory.wf (mset m a b) = true ∧ mget (mset m a b) a = b := by
  unfold Memory.wf at *
  cases m with
  | nil => by_cases hb : b = 0#8 <;> simp [mset, mwfFrom, mget, hb]
  | cons p r =>
    obtain ⟨j, x⟩ := p
    simp only [mwfFrom, Bool.and_eq_true, bne_iff_ne, ne_eq] at h
    by_cases hj : j = a
    · subst hj
      by_cases hb : b = 0#8
      · simp only [mset, if_true, hb]
        exact ⟨mwfFrom_none_of_some h.2, mget_of_le h.2 (Nat.le_refl _)⟩
      · simp [mset, hb, mwfFrom, mget, h.2]
    · by_cases hl : a < j
      · by_cases hb : b = 0#8
        · simp only [mset, hj, if_false, hl, if_true, hb]
          refine ⟨by simp [mwfFrom, h.1, h.2], ?_⟩
          simp [mget, hj, mget_of_le h.2 (by omega : a ≤ j)]
        · simp [mset, hj, hl, hb, mwfFrom, mget, h.1, h.2]
      · have q := mset_wf_from (b := b) h.2 (by omega : j < a)
        simp [mset, hj, hl, mwfFrom, mget, h.1, q.1, q.2]

theorem mget_mset_self {m : List Host.Cell} (h : Memory.wf m = true) (a : Nat) (b : Byte) : mget (mset m a b) a = b :=
  (mset_wf h a b).2

theorem mwrite_wf {m : List Host.Cell} (h : Memory.wf m = true) (a : Nat) (bs : List Byte) : Memory.wf (mwrite m a bs) = true := by
  induction bs generalizing m a with
  | nil => exact h
  | cons b r ih => exact ih (mset_wf h a b).1 (a + 1)

/-- Bytes outside a write are as they were. -/
theorem mget_mwrite_outside (m : List Host.Cell) (a : Nat) (bs : List Byte) (c : Nat) (h : c < a ∨ a + bs.length ≤ c) :
    mget (mwrite m a bs) c = mget m c := by
  induction bs generalizing m a with
  | nil => rfl
  | cons b r ih =>
    simp only [List.length_cons] at h
    rw [mwrite, ih _ _ (by omega), mget_mset_of_ne _ _ (by omega)]

/-- Bytes written read back. -/
theorem mread_mwrite {m : List Host.Cell} (h : Memory.wf m = true) (a : Nat) (bs : List Byte) :
    mread (mwrite m a bs) a bs.length = bs := by
  induction bs generalizing m a with
  | nil => rfl
  | cons b r ih =>
    simp only [List.length_cons, mread, mwrite]
    rw [ih (mset_wf h a b).1, mget_mwrite_outside _ _ _ _ (by omega), mget_mset_self h]

theorem mwfFrom_filter {m : List Host.Cell} {lo : Option Nat} (p : Host.Cell → Bool) (h : mwfFrom lo m = true) :
    mwfFrom lo (m.filter p) = true := by
  induction m generalizing lo with
  | nil => cases lo <;> rfl
  | cons c r ih =>
    obtain ⟨j, x⟩ := c
    cases lo with
    | none =>
      simp only [mwfFrom, Bool.and_eq_true] at h
      by_cases hp : p (j, x) = true
      · simp [hp, mwfFrom, ih h.2]
        simpa using h.1
      · simpa [hp] using ih (mwfFrom_none_of_some h.2)
    | some l =>
      simp only [mwfFrom, Bool.and_eq_true, decide_eq_true_eq] at h
      by_cases hp : p (j, x) = true
      · simp [hp, mwfFrom, ih h.2, h.1.1]
        simpa using h.1.2
      · simpa [hp] using ih (mwfFrom_mono h.2 (by omega))

/-- Listed bytes taken out keep the form. -/
theorem filter_wf {m : List Host.Cell} (h : Memory.wf m = true) (p : Host.Cell → Bool) : Memory.wf (m.filter p) = true :=
  mwfFrom_filter p h

theorem mset_foldl_wf {m : List Host.Cell} (h : Memory.wf m = true) (cs : List Host.Cell) :
    Memory.wf (cs.foldl (fun m c => mset m c.1 c.2) m) = true := by
  induction cs generalizing m with
  | nil => exact h
  | cons c r ih => exact ih (mset_wf h c.1 c.2).1

/-- A span of one store put into another keeps the form. -/
theorem splice_wf {m : List Host.Cell} (h : Memory.wf m = true) (dst n : Nat) (cs : List Host.Cell) :
    Memory.wf (splice m dst n cs) = true := mset_foldl_wf (filter_wf h _) cs

@[simp] theorem wakeWatches_mem (s : State) (l : List (Nat × Acc)) : (wakeWatches s l).mem = s.mem := by
  induction l generalizing s with
  | nil => rfl
  | cons p r ih =>
    obtain ⟨i, a⟩ := p
    simp only [wakeWatches]
    split
    · split
      · simpa [post] using ih s
      · exact ih s
    · exact ih s

@[simp] theorem wakeWatches_ssd (s : State) (l : List (Nat × Acc)) : (wakeWatches s l).ssd = s.ssd := by
  induction l generalizing s with
  | nil => rfl
  | cons p r ih =>
    obtain ⟨i, a⟩ := p
    simp only [wakeWatches]
    split
    · split
      · simpa [post] using ih s
      · exact ih s
    · exact ih s

/-- What a write performed at memory does to the bytes (R255: its wakes write none). -/
@[simp] theorem memWrite_mem (key : Nat) (bs : List Byte) (s : State) (w : Nat × Nat) : (memWrite key bs s w).mem = mwrite s.mem key bs := by
  simp [memWrite]

@[simp] theorem memWrite_ssd (key : Nat) (bs : List Byte) (s : State) (w : Nat × Nat) : (memWrite key bs s w).ssd = s.ssd := by simp [memWrite]

theorem memWrite_wf {s : State} (h : Memory.wf s.mem = true) (key : Nat) (bs : List Byte) (w : Nat × Nat) :
    Memory.wf (memWrite key bs s w).mem = true := by simpa using mwrite_wf h key bs

theorem memWriteCells_wf (w : Nat × Nat) (l : List Host.Cell) {s : State} (h : Memory.wf s.mem = true) :
    Memory.wf (memWriteCells w l s).mem = true := by
  induction l generalizing s with
  | nil => exact h
  | cons c r ih => exact ih (memWrite_wf h c.1 [c.2] w)

theorem setLeaf_wf {s : State} (h : Memory.wf s.mem = true) (pkg va : Nat) (w : Word) : Memory.wf (setLeaf pkg va w s).mem = true := by
  unfold setLeaf
  split
  · exact mwrite_wf h _ _
  · exact h

theorem engWrite_wf (own va ten : Nat) (bs : List Byte) {s : State} (h : Memory.wf s.mem = true) (w : Nat × Nat) :
    Memory.wf (engWrite own va ten bs s w).mem = true := by
  unfold engWrite
  generalize bs.length = n
  induction pageStarts va n generalizing s with
  | nil => exact h
  | cons a r ih =>
    simp only [List.foldl_cons]
    split
    · exact ih (memWrite_wf h _ _ _)
    · exact ih h

/-- Reset memory has the form. -/
theorem reset_memory_wf : Memory.wf State.reset.mem = true ∧ Memory.wf State.reset.ssd = true := ⟨rfl, rfl⟩

end Sys2Proof.Machine
end

