-- ==== Sys2Proof/Laws/State.lean ====
section
/-!
SUPPORT. One lemma for each field that an update leaves as it was, true by rfl, so that no later proof unfolds a record update;
and what a field that it writes reads afterwards.
-/

set_option Elab.async false

namespace Sys2Proof.Machine

/-! ### putSlot -/

@[simp] theorem putSlot_now (sid : Nat) (x : Slot) (s : State) : (putSlot sid x s).now = s.now := rfl
@[simp] theorem putSlot_nextId (sid : Nat) (x : Slot) (s : State) : (putSlot sid x s).nextId = s.nextId := rfl
@[simp] theorem putSlot_free (sid : Nat) (x : Slot) (s : State) : (putSlot sid x s).free = s.free := rfl
@[simp] theorem putSlot_cur (sid : Nat) (x : Slot) (s : State) : (putSlot sid x s).cur = s.cur := rfl
@[simp] theorem putSlot_ev (sid : Nat) (x : Slot) (s : State) : (putSlot sid x s).ev = s.ev := rfl
@[simp] theorem putSlot_agenda (sid : Nat) (x : Slot) (s : State) : (putSlot sid x s).agenda = s.agenda := rfl
@[simp] theorem putSlot_mem (sid : Nat) (x : Slot) (s : State) : (putSlot sid x s).mem = s.mem := rfl
@[simp] theorem putSlot_olds (sid : Nat) (x : Slot) (s : State) : (putSlot sid x s).olds = s.olds := rfl
@[simp] theorem putSlot_hands (sid : Nat) (x : Slot) (s : State) : (putSlot sid x s).hands = s.hands := rfl
@[simp] theorem putSlot_decs (sid : Nat) (x : Slot) (s : State) : (putSlot sid x s).decs = s.decs := rfl
@[simp] theorem putSlot_parcelFails (sid : Nat) (x : Slot) (s : State) : (putSlot sid x s).parcelFails = s.parcelFails := rfl
@[simp] theorem putSlot_unitFails (sid : Nat) (x : Slot) (s : State) : (putSlot sid x s).unitFails = s.unitFails := rfl
@[simp] theorem putSlot_ssd (sid : Nat) (x : Slot) (s : State) : (putSlot sid x s).ssd = s.ssd := rfl
@[simp] theorem putSlot_g (sid : Nat) (x : Slot) (s : State) : (putSlot sid x s).g = s.g := rfl
@[simp] theorem putSlot_k (sid : Nat) (x : Slot) (s : State) : (putSlot sid x s).k = s.k := rfl
@[simp] theorem putSlot_q (sid : Nat) (x : Slot) (s : State) : (putSlot sid x s).q = s.q := rfl
@[simp] theorem putSlot_place (sid : Nat) (x : Slot) (s : State) : (putSlot sid x s).place = s.place := rfl
@[simp] theorem putSlot_file (sid : Nat) (x : Slot) (s : State) : (putSlot sid x s).file = s.file := rfl
@[simp] theorem putSlot_cores (sid : Nat) (x : Slot) (s : State) : (putSlot sid x s).cores = s.cores := rfl
@[simp] theorem putSlot_rt (sid : Nat) (x : Slot) (s : State) : (putSlot sid x s).rt = s.rt := rfl
@[simp] theorem putSlot_binds (sid : Nat) (x : Slot) (s : State) : (putSlot sid x s).binds = s.binds := rfl
@[simp] theorem putSlot_pairs (sid : Nat) (x : Slot) (s : State) : (putSlot sid x s).pairs = s.pairs := rfl
@[simp] theorem putSlot_rx (sid : Nat) (x : Slot) (s : State) : (putSlot sid x s).rx = s.rx := rfl
@[simp] theorem putSlot_ext (sid : Nat) (x : Slot) (s : State) : (putSlot sid x s).ext = s.ext := rfl
@[simp] theorem putSlot_v (sid : Nat) (x : Slot) (s : State) : (putSlot sid x s).v = s.v := rfl
@[simp] theorem putSlot_vq (sid : Nat) (x : Slot) (s : State) : (putSlot sid x s).vq = s.vq := rfl
@[simp] theorem putSlot_good (sid : Nat) (x : Slot) (s : State) : (putSlot sid x s).good = s.good := rfl
@[simp] theorem putSlot_accs (sid : Nat) (x : Slot) (s : State) : (putSlot sid x s).accs = s.accs := rfl
@[simp] theorem putSlot_banks (sid : Nat) (x : Slot) (s : State) : (putSlot sid x s).banks = s.banks := rfl
@[simp] theorem putSlot_engines (sid : Nat) (x : Slot) (s : State) : (putSlot sid x s).engines = s.engines := rfl
@[simp] theorem putSlot_news (sid : Nat) (x : Slot) (s : State) : (putSlot sid x s).news = s.news := rfl
@[simp] theorem putSlot_cmds (sid : Nat) (x : Slot) (s : State) : (putSlot sid x s).cmds = s.cmds := rfl
@[simp] theorem putSlot_tiles (sid : Nat) (x : Slot) (s : State) : (putSlot sid x s).tiles = s.tiles := rfl
@[simp] theorem putSlot_acc (sid : Nat) (x : Slot) (s : State) : (putSlot sid x s).acc = s.acc := rfl
@[simp] theorem putSlot_macros (sid : Nat) (x : Slot) (s : State) : (putSlot sid x s).macros = s.macros := rfl
@[simp] theorem putSlot_dirty (sid : Nat) (x : Slot) (s : State) : (putSlot sid x s).dirty = s.dirty := rfl
@[simp] theorem putSlot_guards (sid : Nat) (x : Slot) (s : State) : (putSlot sid x s).guards = s.guards := rfl
@[simp] theorem putSlot_wbs (sid : Nat) (x : Slot) (s : State) : (putSlot sid x s).wbs = s.wbs := rfl
@[simp] theorem putSlot_hops (sid : Nat) (x : Slot) (s : State) : (putSlot sid x s).hops = s.hops := rfl
@[simp] theorem putSlot_cnGrp (sid : Nat) (x : Slot) (s : State) : (putSlot sid x s).cnGrp = s.cnGrp := rfl
@[simp] theorem putSlot_cnInst (sid : Nat) (x : Slot) (s : State) : (putSlot sid x s).cnInst = s.cnInst := rfl
@[simp] theorem putSlot_cnNext (sid : Nat) (x : Slot) (s : State) : (putSlot sid x s).cnNext = s.cnNext := rfl
@[simp] theorem putSlot_cnWait (sid : Nat) (x : Slot) (s : State) : (putSlot sid x s).cnWait = s.cnWait := rfl
@[simp] theorem putSlot_cnErr (sid : Nat) (x : Slot) (s : State) : (putSlot sid x s).cnErr = s.cnErr := rfl
@[simp] theorem putSlot_ferGrp (sid : Nat) (x : Slot) (s : State) : (putSlot sid x s).ferGrp = s.ferGrp := rfl
@[simp] theorem putSlot_ferSlot (sid : Nat) (x : Slot) (s : State) : (putSlot sid x s).ferSlot = s.ferSlot := rfl
@[simp] theorem putSlot_fer (sid : Nat) (x : Slot) (s : State) : (putSlot sid x s).fer = s.fer := rfl
@[simp] theorem putSlot_tduq (sid : Nat) (x : Slot) (s : State) : (putSlot sid x s).tduq = s.tduq := rfl
@[simp] theorem putSlot_parts (sid : Nat) (x : Slot) (s : State) : (putSlot sid x s).parts = s.parts := rfl
@[simp] theorem putSlot_gangs (sid : Nat) (x : Slot) (s : State) : (putSlot sid x s).gangs = s.gangs := rfl
@[simp] theorem putSlot_bars (sid : Nat) (x : Slot) (s : State) : (putSlot sid x s).bars = s.bars := rfl
@[simp] theorem putSlot_groups (sid : Nat) (x : Slot) (s : State) : (putSlot sid x s).groups = s.groups := rfl
@[simp] theorem putSlot_mtus (sid : Nat) (x : Slot) (s : State) : (putSlot sid x s).mtus = s.mtus := rfl
@[simp] theorem putSlot_own (sid : Nat) (x : Slot) (s : State) : (putSlot sid x s).own = s.own := rfl
@[simp] theorem putSlot_sqes (sid : Nat) (x : Slot) (s : State) : (putSlot sid x s).sqes = s.sqes := rfl
@[simp] theorem putSlot_fills (sid : Nat) (x : Slot) (s : State) : (putSlot sid x s).fills = s.fills := rfl
@[simp] theorem putSlot_ports (sid : Nat) (x : Slot) (s : State) : (putSlot sid x s).ports = s.ports := rfl
@[simp] theorem putSlot_pkts (sid : Nat) (x : Slot) (s : State) : (putSlot sid x s).pkts = s.pkts := rfl
@[simp] theorem putSlot_trcs (sid : Nat) (x : Slot) (s : State) : (putSlot sid x s).trcs = s.trcs := rfl
@[simp] theorem putSlot_trcp (sid : Nat) (x : Slot) (s : State) : (putSlot sid x s).trcp = s.trcp := rfl
@[simp] theorem putSlot_pkgs (sid : Nat) (x : Slot) (s : State) : (putSlot sid x s).pkgs = s.pkgs := rfl
@[simp] theorem putSlot_saves (sid : Nat) (x : Slot) (s : State) : (putSlot sid x s).saves = s.saves := rfl

/-! ### modSlot -/

@[simp] theorem modSlot_now (sid : Nat) (f : Slot → Slot) (s : State) : (modSlot sid f s).now = s.now := rfl
@[simp] theorem modSlot_nextId (sid : Nat) (f : Slot → Slot) (s : State) : (modSlot sid f s).nextId = s.nextId := rfl
@[simp] theorem modSlot_free (sid : Nat) (f : Slot → Slot) (s : State) : (modSlot sid f s).free = s.free := rfl
@[simp] theorem modSlot_cur (sid : Nat) (f : Slot → Slot) (s : State) : (modSlot sid f s).cur = s.cur := rfl
@[simp] theorem modSlot_ev (sid : Nat) (f : Slot → Slot) (s : State) : (modSlot sid f s).ev = s.ev := rfl
@[simp] theorem modSlot_agenda (sid : Nat) (f : Slot → Slot) (s : State) : (modSlot sid f s).agenda = s.agenda := rfl
@[simp] theorem modSlot_mem (sid : Nat) (f : Slot → Slot) (s : State) : (modSlot sid f s).mem = s.mem := rfl
@[simp] theorem modSlot_olds (sid : Nat) (f : Slot → Slot) (s : State) : (modSlot sid f s).olds = s.olds := rfl
@[simp] theorem modSlot_hands (sid : Nat) (f : Slot → Slot) (s : State) : (modSlot sid f s).hands = s.hands := rfl
@[simp] theorem modSlot_decs (sid : Nat) (f : Slot → Slot) (s : State) : (modSlot sid f s).decs = s.decs := rfl
@[simp] theorem modSlot_parcelFails (sid : Nat) (f : Slot → Slot) (s : State) : (modSlot sid f s).parcelFails = s.parcelFails := rfl
@[simp] theorem modSlot_unitFails (sid : Nat) (f : Slot → Slot) (s : State) : (modSlot sid f s).unitFails = s.unitFails := rfl
@[simp] theorem modSlot_ssd (sid : Nat) (f : Slot → Slot) (s : State) : (modSlot sid f s).ssd = s.ssd := rfl
@[simp] theorem modSlot_g (sid : Nat) (f : Slot → Slot) (s : State) : (modSlot sid f s).g = s.g := rfl
@[simp] theorem modSlot_k (sid : Nat) (f : Slot → Slot) (s : State) : (modSlot sid f s).k = s.k := rfl
@[simp] theorem modSlot_q (sid : Nat) (f : Slot → Slot) (s : State) : (modSlot sid f s).q = s.q := rfl
@[simp] theorem modSlot_place (sid : Nat) (f : Slot → Slot) (s : State) : (modSlot sid f s).place = s.place := rfl
@[simp] theorem modSlot_file (sid : Nat) (f : Slot → Slot) (s : State) : (modSlot sid f s).file = s.file := rfl
@[simp] theorem modSlot_cores (sid : Nat) (f : Slot → Slot) (s : State) : (modSlot sid f s).cores = s.cores := rfl
@[simp] theorem modSlot_rt (sid : Nat) (f : Slot → Slot) (s : State) : (modSlot sid f s).rt = s.rt := rfl
@[simp] theorem modSlot_binds (sid : Nat) (f : Slot → Slot) (s : State) : (modSlot sid f s).binds = s.binds := rfl
@[simp] theorem modSlot_pairs (sid : Nat) (f : Slot → Slot) (s : State) : (modSlot sid f s).pairs = s.pairs := rfl
@[simp] theorem modSlot_rx (sid : Nat) (f : Slot → Slot) (s : State) : (modSlot sid f s).rx = s.rx := rfl
@[simp] theorem modSlot_ext (sid : Nat) (f : Slot → Slot) (s : State) : (modSlot sid f s).ext = s.ext := rfl
@[simp] theorem modSlot_v (sid : Nat) (f : Slot → Slot) (s : State) : (modSlot sid f s).v = s.v := rfl
@[simp] theorem modSlot_vq (sid : Nat) (f : Slot → Slot) (s : State) : (modSlot sid f s).vq = s.vq := rfl
@[simp] theorem modSlot_good (sid : Nat) (f : Slot → Slot) (s : State) : (modSlot sid f s).good = s.good := rfl
@[simp] theorem modSlot_accs (sid : Nat) (f : Slot → Slot) (s : State) : (modSlot sid f s).accs = s.accs := rfl
@[simp] theorem modSlot_banks (sid : Nat) (f : Slot → Slot) (s : State) : (modSlot sid f s).banks = s.banks := rfl
@[simp] theorem modSlot_engines (sid : Nat) (f : Slot → Slot) (s : State) : (modSlot sid f s).engines = s.engines := rfl
@[simp] theorem modSlot_news (sid : Nat) (f : Slot → Slot) (s : State) : (modSlot sid f s).news = s.news := rfl
@[simp] theorem modSlot_cmds (sid : Nat) (f : Slot → Slot) (s : State) : (modSlot sid f s).cmds = s.cmds := rfl
@[simp] theorem modSlot_tiles (sid : Nat) (f : Slot → Slot) (s : State) : (modSlot sid f s).tiles = s.tiles := rfl
@[simp] theorem modSlot_acc (sid : Nat) (f : Slot → Slot) (s : State) : (modSlot sid f s).acc = s.acc := rfl
@[simp] theorem modSlot_macros (sid : Nat) (f : Slot → Slot) (s : State) : (modSlot sid f s).macros = s.macros := rfl
@[simp] theorem modSlot_dirty (sid : Nat) (f : Slot → Slot) (s : State) : (modSlot sid f s).dirty = s.dirty := rfl
@[simp] theorem modSlot_guards (sid : Nat) (f : Slot → Slot) (s : State) : (modSlot sid f s).guards = s.guards := rfl
@[simp] theorem modSlot_wbs (sid : Nat) (f : Slot → Slot) (s : State) : (modSlot sid f s).wbs = s.wbs := rfl
@[simp] theorem modSlot_hops (sid : Nat) (f : Slot → Slot) (s : State) : (modSlot sid f s).hops = s.hops := rfl
@[simp] theorem modSlot_cnGrp (sid : Nat) (f : Slot → Slot) (s : State) : (modSlot sid f s).cnGrp = s.cnGrp := rfl
@[simp] theorem modSlot_cnInst (sid : Nat) (f : Slot → Slot) (s : State) : (modSlot sid f s).cnInst = s.cnInst := rfl
@[simp] theorem modSlot_cnNext (sid : Nat) (f : Slot → Slot) (s : State) : (modSlot sid f s).cnNext = s.cnNext := rfl
@[simp] theorem modSlot_cnWait (sid : Nat) (f : Slot → Slot) (s : State) : (modSlot sid f s).cnWait = s.cnWait := rfl
@[simp] theorem modSlot_cnErr (sid : Nat) (f : Slot → Slot) (s : State) : (modSlot sid f s).cnErr = s.cnErr := rfl
@[simp] theorem modSlot_ferGrp (sid : Nat) (f : Slot → Slot) (s : State) : (modSlot sid f s).ferGrp = s.ferGrp := rfl
@[simp] theorem modSlot_ferSlot (sid : Nat) (f : Slot → Slot) (s : State) : (modSlot sid f s).ferSlot = s.ferSlot := rfl
@[simp] theorem modSlot_fer (sid : Nat) (f : Slot → Slot) (s : State) : (modSlot sid f s).fer = s.fer := rfl
@[simp] theorem modSlot_tduq (sid : Nat) (f : Slot → Slot) (s : State) : (modSlot sid f s).tduq = s.tduq := rfl
@[simp] theorem modSlot_parts (sid : Nat) (f : Slot → Slot) (s : State) : (modSlot sid f s).parts = s.parts := rfl
@[simp] theorem modSlot_gangs (sid : Nat) (f : Slot → Slot) (s : State) : (modSlot sid f s).gangs = s.gangs := rfl
@[simp] theorem modSlot_bars (sid : Nat) (f : Slot → Slot) (s : State) : (modSlot sid f s).bars = s.bars := rfl
@[simp] theorem modSlot_groups (sid : Nat) (f : Slot → Slot) (s : State) : (modSlot sid f s).groups = s.groups := rfl
@[simp] theorem modSlot_mtus (sid : Nat) (f : Slot → Slot) (s : State) : (modSlot sid f s).mtus = s.mtus := rfl
@[simp] theorem modSlot_own (sid : Nat) (f : Slot → Slot) (s : State) : (modSlot sid f s).own = s.own := rfl
@[simp] theorem modSlot_sqes (sid : Nat) (f : Slot → Slot) (s : State) : (modSlot sid f s).sqes = s.sqes := rfl
@[simp] theorem modSlot_fills (sid : Nat) (f : Slot → Slot) (s : State) : (modSlot sid f s).fills = s.fills := rfl
@[simp] theorem modSlot_ports (sid : Nat) (f : Slot → Slot) (s : State) : (modSlot sid f s).ports = s.ports := rfl
@[simp] theorem modSlot_pkts (sid : Nat) (f : Slot → Slot) (s : State) : (modSlot sid f s).pkts = s.pkts := rfl
@[simp] theorem modSlot_trcs (sid : Nat) (f : Slot → Slot) (s : State) : (modSlot sid f s).trcs = s.trcs := rfl
@[simp] theorem modSlot_trcp (sid : Nat) (f : Slot → Slot) (s : State) : (modSlot sid f s).trcp = s.trcp := rfl
@[simp] theorem modSlot_pkgs (sid : Nat) (f : Slot → Slot) (s : State) : (modSlot sid f s).pkgs = s.pkgs := rfl
@[simp] theorem modSlot_saves (sid : Nat) (f : Slot → Slot) (s : State) : (modSlot sid f s).saves = s.saves := rfl

/-! ### putCore -/

@[simp] theorem putCore_now (cid : Nat) (x : Core) (s : State) : (putCore cid x s).now = s.now := rfl
@[simp] theorem putCore_nextId (cid : Nat) (x : Core) (s : State) : (putCore cid x s).nextId = s.nextId := rfl
@[simp] theorem putCore_free (cid : Nat) (x : Core) (s : State) : (putCore cid x s).free = s.free := rfl
@[simp] theorem putCore_cur (cid : Nat) (x : Core) (s : State) : (putCore cid x s).cur = s.cur := rfl
@[simp] theorem putCore_ev (cid : Nat) (x : Core) (s : State) : (putCore cid x s).ev = s.ev := rfl
@[simp] theorem putCore_agenda (cid : Nat) (x : Core) (s : State) : (putCore cid x s).agenda = s.agenda := rfl
@[simp] theorem putCore_mem (cid : Nat) (x : Core) (s : State) : (putCore cid x s).mem = s.mem := rfl
@[simp] theorem putCore_olds (cid : Nat) (x : Core) (s : State) : (putCore cid x s).olds = s.olds := rfl
@[simp] theorem putCore_hands (cid : Nat) (x : Core) (s : State) : (putCore cid x s).hands = s.hands := rfl
@[simp] theorem putCore_decs (cid : Nat) (x : Core) (s : State) : (putCore cid x s).decs = s.decs := rfl
@[simp] theorem putCore_parcelFails (cid : Nat) (x : Core) (s : State) : (putCore cid x s).parcelFails = s.parcelFails := rfl
@[simp] theorem putCore_unitFails (cid : Nat) (x : Core) (s : State) : (putCore cid x s).unitFails = s.unitFails := rfl
@[simp] theorem putCore_ssd (cid : Nat) (x : Core) (s : State) : (putCore cid x s).ssd = s.ssd := rfl
@[simp] theorem putCore_slots (cid : Nat) (x : Core) (s : State) : (putCore cid x s).slots = s.slots := rfl
@[simp] theorem putCore_g (cid : Nat) (x : Core) (s : State) : (putCore cid x s).g = s.g := rfl
@[simp] theorem putCore_k (cid : Nat) (x : Core) (s : State) : (putCore cid x s).k = s.k := rfl
@[simp] theorem putCore_q (cid : Nat) (x : Core) (s : State) : (putCore cid x s).q = s.q := rfl
@[simp] theorem putCore_place (cid : Nat) (x : Core) (s : State) : (putCore cid x s).place = s.place := rfl
@[simp] theorem putCore_file (cid : Nat) (x : Core) (s : State) : (putCore cid x s).file = s.file := rfl
@[simp] theorem putCore_rt (cid : Nat) (x : Core) (s : State) : (putCore cid x s).rt = s.rt := rfl
@[simp] theorem putCore_binds (cid : Nat) (x : Core) (s : State) : (putCore cid x s).binds = s.binds := rfl
@[simp] theorem putCore_pairs (cid : Nat) (x : Core) (s : State) : (putCore cid x s).pairs = s.pairs := rfl
@[simp] theorem putCore_rx (cid : Nat) (x : Core) (s : State) : (putCore cid x s).rx = s.rx := rfl
@[simp] theorem putCore_ext (cid : Nat) (x : Core) (s : State) : (putCore cid x s).ext = s.ext := rfl
@[simp] theorem putCore_v (cid : Nat) (x : Core) (s : State) : (putCore cid x s).v = s.v := rfl
@[simp] theorem putCore_vq (cid : Nat) (x : Core) (s : State) : (putCore cid x s).vq = s.vq := rfl
@[simp] theorem putCore_good (cid : Nat) (x : Core) (s : State) : (putCore cid x s).good = s.good := rfl
@[simp] theorem putCore_accs (cid : Nat) (x : Core) (s : State) : (putCore cid x s).accs = s.accs := rfl
@[simp] theorem putCore_banks (cid : Nat) (x : Core) (s : State) : (putCore cid x s).banks = s.banks := rfl
@[simp] theorem putCore_engines (cid : Nat) (x : Core) (s : State) : (putCore cid x s).engines = s.engines := rfl
@[simp] theorem putCore_news (cid : Nat) (x : Core) (s : State) : (putCore cid x s).news = s.news := rfl
@[simp] theorem putCore_cmds (cid : Nat) (x : Core) (s : State) : (putCore cid x s).cmds = s.cmds := rfl
@[simp] theorem putCore_tiles (cid : Nat) (x : Core) (s : State) : (putCore cid x s).tiles = s.tiles := rfl
@[simp] theorem putCore_acc (cid : Nat) (x : Core) (s : State) : (putCore cid x s).acc = s.acc := rfl
@[simp] theorem putCore_macros (cid : Nat) (x : Core) (s : State) : (putCore cid x s).macros = s.macros := rfl
@[simp] theorem putCore_dirty (cid : Nat) (x : Core) (s : State) : (putCore cid x s).dirty = s.dirty := rfl
@[simp] theorem putCore_guards (cid : Nat) (x : Core) (s : State) : (putCore cid x s).guards = s.guards := rfl
@[simp] theorem putCore_wbs (cid : Nat) (x : Core) (s : State) : (putCore cid x s).wbs = s.wbs := rfl
@[simp] theorem putCore_hops (cid : Nat) (x : Core) (s : State) : (putCore cid x s).hops = s.hops := rfl
@[simp] theorem putCore_cnGrp (cid : Nat) (x : Core) (s : State) : (putCore cid x s).cnGrp = s.cnGrp := rfl
@[simp] theorem putCore_cnInst (cid : Nat) (x : Core) (s : State) : (putCore cid x s).cnInst = s.cnInst := rfl
@[simp] theorem putCore_cnNext (cid : Nat) (x : Core) (s : State) : (putCore cid x s).cnNext = s.cnNext := rfl
@[simp] theorem putCore_cnWait (cid : Nat) (x : Core) (s : State) : (putCore cid x s).cnWait = s.cnWait := rfl
@[simp] theorem putCore_cnErr (cid : Nat) (x : Core) (s : State) : (putCore cid x s).cnErr = s.cnErr := rfl
@[simp] theorem putCore_ferGrp (cid : Nat) (x : Core) (s : State) : (putCore cid x s).ferGrp = s.ferGrp := rfl
@[simp] theorem putCore_ferSlot (cid : Nat) (x : Core) (s : State) : (putCore cid x s).ferSlot = s.ferSlot := rfl
@[simp] theorem putCore_fer (cid : Nat) (x : Core) (s : State) : (putCore cid x s).fer = s.fer := rfl
@[simp] theorem putCore_tduq (cid : Nat) (x : Core) (s : State) : (putCore cid x s).tduq = s.tduq := rfl
@[simp] theorem putCore_parts (cid : Nat) (x : Core) (s : State) : (putCore cid x s).parts = s.parts := rfl
@[simp] theorem putCore_gangs (cid : Nat) (x : Core) (s : State) : (putCore cid x s).gangs = s.gangs := rfl
@[simp] theorem putCore_bars (cid : Nat) (x : Core) (s : State) : (putCore cid x s).bars = s.bars := rfl
@[simp] theorem putCore_groups (cid : Nat) (x : Core) (s : State) : (putCore cid x s).groups = s.groups := rfl
@[simp] theorem putCore_mtus (cid : Nat) (x : Core) (s : State) : (putCore cid x s).mtus = s.mtus := rfl
@[simp] theorem putCore_own (cid : Nat) (x : Core) (s : State) : (putCore cid x s).own = s.own := rfl
@[simp] theorem putCore_sqes (cid : Nat) (x : Core) (s : State) : (putCore cid x s).sqes = s.sqes := rfl
@[simp] theorem putCore_fills (cid : Nat) (x : Core) (s : State) : (putCore cid x s).fills = s.fills := rfl
@[simp] theorem putCore_ports (cid : Nat) (x : Core) (s : State) : (putCore cid x s).ports = s.ports := rfl
@[simp] theorem putCore_pkts (cid : Nat) (x : Core) (s : State) : (putCore cid x s).pkts = s.pkts := rfl
@[simp] theorem putCore_trcs (cid : Nat) (x : Core) (s : State) : (putCore cid x s).trcs = s.trcs := rfl
@[simp] theorem putCore_trcp (cid : Nat) (x : Core) (s : State) : (putCore cid x s).trcp = s.trcp := rfl
@[simp] theorem putCore_pkgs (cid : Nat) (x : Core) (s : State) : (putCore cid x s).pkgs = s.pkgs := rfl
@[simp] theorem putCore_saves (cid : Nat) (x : Core) (s : State) : (putCore cid x s).saves = s.saves := rfl

/-! ### modCore -/

@[simp] theorem modCore_now (cid : Nat) (f : Core → Core) (s : State) : (modCore cid f s).now = s.now := rfl
@[simp] theorem modCore_nextId (cid : Nat) (f : Core → Core) (s : State) : (modCore cid f s).nextId = s.nextId := rfl
@[simp] theorem modCore_free (cid : Nat) (f : Core → Core) (s : State) : (modCore cid f s).free = s.free := rfl
@[simp] theorem modCore_cur (cid : Nat) (f : Core → Core) (s : State) : (modCore cid f s).cur = s.cur := rfl
@[simp] theorem modCore_ev (cid : Nat) (f : Core → Core) (s : State) : (modCore cid f s).ev = s.ev := rfl
@[simp] theorem modCore_agenda (cid : Nat) (f : Core → Core) (s : State) : (modCore cid f s).agenda = s.agenda := rfl
@[simp] theorem modCore_mem (cid : Nat) (f : Core → Core) (s : State) : (modCore cid f s).mem = s.mem := rfl
@[simp] theorem modCore_olds (cid : Nat) (f : Core → Core) (s : State) : (modCore cid f s).olds = s.olds := rfl
@[simp] theorem modCore_hands (cid : Nat) (f : Core → Core) (s : State) : (modCore cid f s).hands = s.hands := rfl
@[simp] theorem modCore_decs (cid : Nat) (f : Core → Core) (s : State) : (modCore cid f s).decs = s.decs := rfl
@[simp] theorem modCore_parcelFails (cid : Nat) (f : Core → Core) (s : State) : (modCore cid f s).parcelFails = s.parcelFails := rfl
@[simp] theorem modCore_unitFails (cid : Nat) (f : Core → Core) (s : State) : (modCore cid f s).unitFails = s.unitFails := rfl
@[simp] theorem modCore_ssd (cid : Nat) (f : Core → Core) (s : State) : (modCore cid f s).ssd = s.ssd := rfl
@[simp] theorem modCore_slots (cid : Nat) (f : Core → Core) (s : State) : (modCore cid f s).slots = s.slots := rfl
@[simp] theorem modCore_g (cid : Nat) (f : Core → Core) (s : State) : (modCore cid f s).g = s.g := rfl
@[simp] theorem modCore_k (cid : Nat) (f : Core → Core) (s : State) : (modCore cid f s).k = s.k := rfl
@[simp] theorem modCore_q (cid : Nat) (f : Core → Core) (s : State) : (modCore cid f s).q = s.q := rfl
@[simp] theorem modCore_place (cid : Nat) (f : Core → Core) (s : State) : (modCore cid f s).place = s.place := rfl
@[simp] theorem modCore_file (cid : Nat) (f : Core → Core) (s : State) : (modCore cid f s).file = s.file := rfl
@[simp] theorem modCore_rt (cid : Nat) (f : Core → Core) (s : State) : (modCore cid f s).rt = s.rt := rfl
@[simp] theorem modCore_binds (cid : Nat) (f : Core → Core) (s : State) : (modCore cid f s).binds = s.binds := rfl
@[simp] theorem modCore_pairs (cid : Nat) (f : Core → Core) (s : State) : (modCore cid f s).pairs = s.pairs := rfl
@[simp] theorem modCore_rx (cid : Nat) (f : Core → Core) (s : State) : (modCore cid f s).rx = s.rx := rfl
@[simp] theorem modCore_ext (cid : Nat) (f : Core → Core) (s : State) : (modCore cid f s).ext = s.ext := rfl
@[simp] theorem modCore_v (cid : Nat) (f : Core → Core) (s : State) : (modCore cid f s).v = s.v := rfl
@[simp] theorem modCore_vq (cid : Nat) (f : Core → Core) (s : State) : (modCore cid f s).vq = s.vq := rfl
@[simp] theorem modCore_good (cid : Nat) (f : Core → Core) (s : State) : (modCore cid f s).good = s.good := rfl
@[simp] theorem modCore_accs (cid : Nat) (f : Core → Core) (s : State) : (modCore cid f s).accs = s.accs := rfl
@[simp] theorem modCore_banks (cid : Nat) (f : Core → Core) (s : State) : (modCore cid f s).banks = s.banks := rfl
@[simp] theorem modCore_engines (cid : Nat) (f : Core → Core) (s : State) : (modCore cid f s).engines = s.engines := rfl
@[simp] theorem modCore_news (cid : Nat) (f : Core → Core) (s : State) : (modCore cid f s).news = s.news := rfl
@[simp] theorem modCore_cmds (cid : Nat) (f : Core → Core) (s : State) : (modCore cid f s).cmds = s.cmds := rfl
@[simp] theorem modCore_tiles (cid : Nat) (f : Core → Core) (s : State) : (modCore cid f s).tiles = s.tiles := rfl
@[simp] theorem modCore_acc (cid : Nat) (f : Core → Core) (s : State) : (modCore cid f s).acc = s.acc := rfl
@[simp] theorem modCore_macros (cid : Nat) (f : Core → Core) (s : State) : (modCore cid f s).macros = s.macros := rfl
@[simp] theorem modCore_dirty (cid : Nat) (f : Core → Core) (s : State) : (modCore cid f s).dirty = s.dirty := rfl
@[simp] theorem modCore_guards (cid : Nat) (f : Core → Core) (s : State) : (modCore cid f s).guards = s.guards := rfl
@[simp] theorem modCore_wbs (cid : Nat) (f : Core → Core) (s : State) : (modCore cid f s).wbs = s.wbs := rfl
@[simp] theorem modCore_hops (cid : Nat) (f : Core → Core) (s : State) : (modCore cid f s).hops = s.hops := rfl
@[simp] theorem modCore_cnGrp (cid : Nat) (f : Core → Core) (s : State) : (modCore cid f s).cnGrp = s.cnGrp := rfl
@[simp] theorem modCore_cnInst (cid : Nat) (f : Core → Core) (s : State) : (modCore cid f s).cnInst = s.cnInst := rfl
@[simp] theorem modCore_cnNext (cid : Nat) (f : Core → Core) (s : State) : (modCore cid f s).cnNext = s.cnNext := rfl
@[simp] theorem modCore_cnWait (cid : Nat) (f : Core → Core) (s : State) : (modCore cid f s).cnWait = s.cnWait := rfl
@[simp] theorem modCore_cnErr (cid : Nat) (f : Core → Core) (s : State) : (modCore cid f s).cnErr = s.cnErr := rfl
@[simp] theorem modCore_ferGrp (cid : Nat) (f : Core → Core) (s : State) : (modCore cid f s).ferGrp = s.ferGrp := rfl
@[simp] theorem modCore_ferSlot (cid : Nat) (f : Core → Core) (s : State) : (modCore cid f s).ferSlot = s.ferSlot := rfl
@[simp] theorem modCore_fer (cid : Nat) (f : Core → Core) (s : State) : (modCore cid f s).fer = s.fer := rfl
@[simp] theorem modCore_tduq (cid : Nat) (f : Core → Core) (s : State) : (modCore cid f s).tduq = s.tduq := rfl
@[simp] theorem modCore_parts (cid : Nat) (f : Core → Core) (s : State) : (modCore cid f s).parts = s.parts := rfl
@[simp] theorem modCore_gangs (cid : Nat) (f : Core → Core) (s : State) : (modCore cid f s).gangs = s.gangs := rfl
@[simp] theorem modCore_bars (cid : Nat) (f : Core → Core) (s : State) : (modCore cid f s).bars = s.bars := rfl
@[simp] theorem modCore_groups (cid : Nat) (f : Core → Core) (s : State) : (modCore cid f s).groups = s.groups := rfl
@[simp] theorem modCore_mtus (cid : Nat) (f : Core → Core) (s : State) : (modCore cid f s).mtus = s.mtus := rfl
@[simp] theorem modCore_own (cid : Nat) (f : Core → Core) (s : State) : (modCore cid f s).own = s.own := rfl
@[simp] theorem modCore_sqes (cid : Nat) (f : Core → Core) (s : State) : (modCore cid f s).sqes = s.sqes := rfl
@[simp] theorem modCore_fills (cid : Nat) (f : Core → Core) (s : State) : (modCore cid f s).fills = s.fills := rfl
@[simp] theorem modCore_ports (cid : Nat) (f : Core → Core) (s : State) : (modCore cid f s).ports = s.ports := rfl
@[simp] theorem modCore_pkts (cid : Nat) (f : Core → Core) (s : State) : (modCore cid f s).pkts = s.pkts := rfl
@[simp] theorem modCore_trcs (cid : Nat) (f : Core → Core) (s : State) : (modCore cid f s).trcs = s.trcs := rfl
@[simp] theorem modCore_trcp (cid : Nat) (f : Core → Core) (s : State) : (modCore cid f s).trcp = s.trcp := rfl
@[simp] theorem modCore_pkgs (cid : Nat) (f : Core → Core) (s : State) : (modCore cid f s).pkgs = s.pkgs := rfl
@[simp] theorem modCore_saves (cid : Nat) (f : Core → Core) (s : State) : (modCore cid f s).saves = s.saves := rfl

/-! ### modTile -/

@[simp] theorem modTile_now (tid : Nat) (f : Tile → Tile) (s : State) : (modTile tid f s).now = s.now := rfl
@[simp] theorem modTile_nextId (tid : Nat) (f : Tile → Tile) (s : State) : (modTile tid f s).nextId = s.nextId := rfl
@[simp] theorem modTile_free (tid : Nat) (f : Tile → Tile) (s : State) : (modTile tid f s).free = s.free := rfl
@[simp] theorem modTile_cur (tid : Nat) (f : Tile → Tile) (s : State) : (modTile tid f s).cur = s.cur := rfl
@[simp] theorem modTile_ev (tid : Nat) (f : Tile → Tile) (s : State) : (modTile tid f s).ev = s.ev := rfl
@[simp] theorem modTile_agenda (tid : Nat) (f : Tile → Tile) (s : State) : (modTile tid f s).agenda = s.agenda := rfl
@[simp] theorem modTile_mem (tid : Nat) (f : Tile → Tile) (s : State) : (modTile tid f s).mem = s.mem := rfl
@[simp] theorem modTile_olds (tid : Nat) (f : Tile → Tile) (s : State) : (modTile tid f s).olds = s.olds := rfl
@[simp] theorem modTile_hands (tid : Nat) (f : Tile → Tile) (s : State) : (modTile tid f s).hands = s.hands := rfl
@[simp] theorem modTile_decs (tid : Nat) (f : Tile → Tile) (s : State) : (modTile tid f s).decs = s.decs := rfl
@[simp] theorem modTile_parcelFails (tid : Nat) (f : Tile → Tile) (s : State) : (modTile tid f s).parcelFails = s.parcelFails := rfl
@[simp] theorem modTile_unitFails (tid : Nat) (f : Tile → Tile) (s : State) : (modTile tid f s).unitFails = s.unitFails := rfl
@[simp] theorem modTile_ssd (tid : Nat) (f : Tile → Tile) (s : State) : (modTile tid f s).ssd = s.ssd := rfl
@[simp] theorem modTile_slots (tid : Nat) (f : Tile → Tile) (s : State) : (modTile tid f s).slots = s.slots := rfl
@[simp] theorem modTile_g (tid : Nat) (f : Tile → Tile) (s : State) : (modTile tid f s).g = s.g := rfl
@[simp] theorem modTile_k (tid : Nat) (f : Tile → Tile) (s : State) : (modTile tid f s).k = s.k := rfl
@[simp] theorem modTile_q (tid : Nat) (f : Tile → Tile) (s : State) : (modTile tid f s).q = s.q := rfl
@[simp] theorem modTile_place (tid : Nat) (f : Tile → Tile) (s : State) : (modTile tid f s).place = s.place := rfl
@[simp] theorem modTile_file (tid : Nat) (f : Tile → Tile) (s : State) : (modTile tid f s).file = s.file := rfl
@[simp] theorem modTile_cores (tid : Nat) (f : Tile → Tile) (s : State) : (modTile tid f s).cores = s.cores := rfl
@[simp] theorem modTile_rt (tid : Nat) (f : Tile → Tile) (s : State) : (modTile tid f s).rt = s.rt := rfl
@[simp] theorem modTile_binds (tid : Nat) (f : Tile → Tile) (s : State) : (modTile tid f s).binds = s.binds := rfl
@[simp] theorem modTile_pairs (tid : Nat) (f : Tile → Tile) (s : State) : (modTile tid f s).pairs = s.pairs := rfl
@[simp] theorem modTile_rx (tid : Nat) (f : Tile → Tile) (s : State) : (modTile tid f s).rx = s.rx := rfl
@[simp] theorem modTile_ext (tid : Nat) (f : Tile → Tile) (s : State) : (modTile tid f s).ext = s.ext := rfl
@[simp] theorem modTile_v (tid : Nat) (f : Tile → Tile) (s : State) : (modTile tid f s).v = s.v := rfl
@[simp] theorem modTile_vq (tid : Nat) (f : Tile → Tile) (s : State) : (modTile tid f s).vq = s.vq := rfl
@[simp] theorem modTile_good (tid : Nat) (f : Tile → Tile) (s : State) : (modTile tid f s).good = s.good := rfl
@[simp] theorem modTile_accs (tid : Nat) (f : Tile → Tile) (s : State) : (modTile tid f s).accs = s.accs := rfl
@[simp] theorem modTile_banks (tid : Nat) (f : Tile → Tile) (s : State) : (modTile tid f s).banks = s.banks := rfl
@[simp] theorem modTile_engines (tid : Nat) (f : Tile → Tile) (s : State) : (modTile tid f s).engines = s.engines := rfl
@[simp] theorem modTile_news (tid : Nat) (f : Tile → Tile) (s : State) : (modTile tid f s).news = s.news := rfl
@[simp] theorem modTile_cmds (tid : Nat) (f : Tile → Tile) (s : State) : (modTile tid f s).cmds = s.cmds := rfl
@[simp] theorem modTile_acc (tid : Nat) (f : Tile → Tile) (s : State) : (modTile tid f s).acc = s.acc := rfl
@[simp] theorem modTile_macros (tid : Nat) (f : Tile → Tile) (s : State) : (modTile tid f s).macros = s.macros := rfl
@[simp] theorem modTile_dirty (tid : Nat) (f : Tile → Tile) (s : State) : (modTile tid f s).dirty = s.dirty := rfl
@[simp] theorem modTile_guards (tid : Nat) (f : Tile → Tile) (s : State) : (modTile tid f s).guards = s.guards := rfl
@[simp] theorem modTile_wbs (tid : Nat) (f : Tile → Tile) (s : State) : (modTile tid f s).wbs = s.wbs := rfl
@[simp] theorem modTile_hops (tid : Nat) (f : Tile → Tile) (s : State) : (modTile tid f s).hops = s.hops := rfl
@[simp] theorem modTile_cnGrp (tid : Nat) (f : Tile → Tile) (s : State) : (modTile tid f s).cnGrp = s.cnGrp := rfl
@[simp] theorem modTile_cnInst (tid : Nat) (f : Tile → Tile) (s : State) : (modTile tid f s).cnInst = s.cnInst := rfl
@[simp] theorem modTile_cnNext (tid : Nat) (f : Tile → Tile) (s : State) : (modTile tid f s).cnNext = s.cnNext := rfl
@[simp] theorem modTile_cnWait (tid : Nat) (f : Tile → Tile) (s : State) : (modTile tid f s).cnWait = s.cnWait := rfl
@[simp] theorem modTile_cnErr (tid : Nat) (f : Tile → Tile) (s : State) : (modTile tid f s).cnErr = s.cnErr := rfl
@[simp] theorem modTile_ferGrp (tid : Nat) (f : Tile → Tile) (s : State) : (modTile tid f s).ferGrp = s.ferGrp := rfl
@[simp] theorem modTile_ferSlot (tid : Nat) (f : Tile → Tile) (s : State) : (modTile tid f s).ferSlot = s.ferSlot := rfl
@[simp] theorem modTile_fer (tid : Nat) (f : Tile → Tile) (s : State) : (modTile tid f s).fer = s.fer := rfl
@[simp] theorem modTile_tduq (tid : Nat) (f : Tile → Tile) (s : State) : (modTile tid f s).tduq = s.tduq := rfl
@[simp] theorem modTile_parts (tid : Nat) (f : Tile → Tile) (s : State) : (modTile tid f s).parts = s.parts := rfl
@[simp] theorem modTile_gangs (tid : Nat) (f : Tile → Tile) (s : State) : (modTile tid f s).gangs = s.gangs := rfl
@[simp] theorem modTile_bars (tid : Nat) (f : Tile → Tile) (s : State) : (modTile tid f s).bars = s.bars := rfl
@[simp] theorem modTile_groups (tid : Nat) (f : Tile → Tile) (s : State) : (modTile tid f s).groups = s.groups := rfl
@[simp] theorem modTile_mtus (tid : Nat) (f : Tile → Tile) (s : State) : (modTile tid f s).mtus = s.mtus := rfl
@[simp] theorem modTile_own (tid : Nat) (f : Tile → Tile) (s : State) : (modTile tid f s).own = s.own := rfl
@[simp] theorem modTile_sqes (tid : Nat) (f : Tile → Tile) (s : State) : (modTile tid f s).sqes = s.sqes := rfl
@[simp] theorem modTile_fills (tid : Nat) (f : Tile → Tile) (s : State) : (modTile tid f s).fills = s.fills := rfl
@[simp] theorem modTile_ports (tid : Nat) (f : Tile → Tile) (s : State) : (modTile tid f s).ports = s.ports := rfl
@[simp] theorem modTile_pkts (tid : Nat) (f : Tile → Tile) (s : State) : (modTile tid f s).pkts = s.pkts := rfl
@[simp] theorem modTile_trcs (tid : Nat) (f : Tile → Tile) (s : State) : (modTile tid f s).trcs = s.trcs := rfl
@[simp] theorem modTile_trcp (tid : Nat) (f : Tile → Tile) (s : State) : (modTile tid f s).trcp = s.trcp := rfl
@[simp] theorem modTile_pkgs (tid : Nat) (f : Tile → Tile) (s : State) : (modTile tid f s).pkgs = s.pkgs := rfl
@[simp] theorem modTile_saves (tid : Nat) (f : Tile → Tile) (s : State) : (modTile tid f s).saves = s.saves := rfl

/-! ### modPart -/

@[simp] theorem modPart_now (pk : Nat) (f : Part → Part) (s : State) : (modPart pk f s).now = s.now := rfl
@[simp] theorem modPart_nextId (pk : Nat) (f : Part → Part) (s : State) : (modPart pk f s).nextId = s.nextId := rfl
@[simp] theorem modPart_free (pk : Nat) (f : Part → Part) (s : State) : (modPart pk f s).free = s.free := rfl
@[simp] theorem modPart_cur (pk : Nat) (f : Part → Part) (s : State) : (modPart pk f s).cur = s.cur := rfl
@[simp] theorem modPart_ev (pk : Nat) (f : Part → Part) (s : State) : (modPart pk f s).ev = s.ev := rfl
@[simp] theorem modPart_agenda (pk : Nat) (f : Part → Part) (s : State) : (modPart pk f s).agenda = s.agenda := rfl
@[simp] theorem modPart_mem (pk : Nat) (f : Part → Part) (s : State) : (modPart pk f s).mem = s.mem := rfl
@[simp] theorem modPart_olds (pk : Nat) (f : Part → Part) (s : State) : (modPart pk f s).olds = s.olds := rfl
@[simp] theorem modPart_hands (pk : Nat) (f : Part → Part) (s : State) : (modPart pk f s).hands = s.hands := rfl
@[simp] theorem modPart_decs (pk : Nat) (f : Part → Part) (s : State) : (modPart pk f s).decs = s.decs := rfl
@[simp] theorem modPart_parcelFails (pk : Nat) (f : Part → Part) (s : State) : (modPart pk f s).parcelFails = s.parcelFails := rfl
@[simp] theorem modPart_unitFails (pk : Nat) (f : Part → Part) (s : State) : (modPart pk f s).unitFails = s.unitFails := rfl
@[simp] theorem modPart_ssd (pk : Nat) (f : Part → Part) (s : State) : (modPart pk f s).ssd = s.ssd := rfl
@[simp] theorem modPart_slots (pk : Nat) (f : Part → Part) (s : State) : (modPart pk f s).slots = s.slots := rfl
@[simp] theorem modPart_g (pk : Nat) (f : Part → Part) (s : State) : (modPart pk f s).g = s.g := rfl
@[simp] theorem modPart_k (pk : Nat) (f : Part → Part) (s : State) : (modPart pk f s).k = s.k := rfl
@[simp] theorem modPart_q (pk : Nat) (f : Part → Part) (s : State) : (modPart pk f s).q = s.q := rfl
@[simp] theorem modPart_place (pk : Nat) (f : Part → Part) (s : State) : (modPart pk f s).place = s.place := rfl
@[simp] theorem modPart_file (pk : Nat) (f : Part → Part) (s : State) : (modPart pk f s).file = s.file := rfl
@[simp] theorem modPart_cores (pk : Nat) (f : Part → Part) (s : State) : (modPart pk f s).cores = s.cores := rfl
@[simp] theorem modPart_rt (pk : Nat) (f : Part → Part) (s : State) : (modPart pk f s).rt = s.rt := rfl
@[simp] theorem modPart_binds (pk : Nat) (f : Part → Part) (s : State) : (modPart pk f s).binds = s.binds := rfl
@[simp] theorem modPart_pairs (pk : Nat) (f : Part → Part) (s : State) : (modPart pk f s).pairs = s.pairs := rfl
@[simp] theorem modPart_rx (pk : Nat) (f : Part → Part) (s : State) : (modPart pk f s).rx = s.rx := rfl
@[simp] theorem modPart_ext (pk : Nat) (f : Part → Part) (s : State) : (modPart pk f s).ext = s.ext := rfl
@[simp] theorem modPart_v (pk : Nat) (f : Part → Part) (s : State) : (modPart pk f s).v = s.v := rfl
@[simp] theorem modPart_vq (pk : Nat) (f : Part → Part) (s : State) : (modPart pk f s).vq = s.vq := rfl
@[simp] theorem modPart_good (pk : Nat) (f : Part → Part) (s : State) : (modPart pk f s).good = s.good := rfl
@[simp] theorem modPart_accs (pk : Nat) (f : Part → Part) (s : State) : (modPart pk f s).accs = s.accs := rfl
@[simp] theorem modPart_banks (pk : Nat) (f : Part → Part) (s : State) : (modPart pk f s).banks = s.banks := rfl
@[simp] theorem modPart_engines (pk : Nat) (f : Part → Part) (s : State) : (modPart pk f s).engines = s.engines := rfl
@[simp] theorem modPart_news (pk : Nat) (f : Part → Part) (s : State) : (modPart pk f s).news = s.news := rfl
@[simp] theorem modPart_cmds (pk : Nat) (f : Part → Part) (s : State) : (modPart pk f s).cmds = s.cmds := rfl
@[simp] theorem modPart_tiles (pk : Nat) (f : Part → Part) (s : State) : (modPart pk f s).tiles = s.tiles := rfl
@[simp] theorem modPart_acc (pk : Nat) (f : Part → Part) (s : State) : (modPart pk f s).acc = s.acc := rfl
@[simp] theorem modPart_macros (pk : Nat) (f : Part → Part) (s : State) : (modPart pk f s).macros = s.macros := rfl
@[simp] theorem modPart_dirty (pk : Nat) (f : Part → Part) (s : State) : (modPart pk f s).dirty = s.dirty := rfl
@[simp] theorem modPart_guards (pk : Nat) (f : Part → Part) (s : State) : (modPart pk f s).guards = s.guards := rfl
@[simp] theorem modPart_wbs (pk : Nat) (f : Part → Part) (s : State) : (modPart pk f s).wbs = s.wbs := rfl
@[simp] theorem modPart_hops (pk : Nat) (f : Part → Part) (s : State) : (modPart pk f s).hops = s.hops := rfl
@[simp] theorem modPart_cnGrp (pk : Nat) (f : Part → Part) (s : State) : (modPart pk f s).cnGrp = s.cnGrp := rfl
@[simp] theorem modPart_cnInst (pk : Nat) (f : Part → Part) (s : State) : (modPart pk f s).cnInst = s.cnInst := rfl
@[simp] theorem modPart_cnNext (pk : Nat) (f : Part → Part) (s : State) : (modPart pk f s).cnNext = s.cnNext := rfl
@[simp] theorem modPart_cnWait (pk : Nat) (f : Part → Part) (s : State) : (modPart pk f s).cnWait = s.cnWait := rfl
@[simp] theorem modPart_cnErr (pk : Nat) (f : Part → Part) (s : State) : (modPart pk f s).cnErr = s.cnErr := rfl
@[simp] theorem modPart_ferGrp (pk : Nat) (f : Part → Part) (s : State) : (modPart pk f s).ferGrp = s.ferGrp := rfl
@[simp] theorem modPart_ferSlot (pk : Nat) (f : Part → Part) (s : State) : (modPart pk f s).ferSlot = s.ferSlot := rfl
@[simp] theorem modPart_fer (pk : Nat) (f : Part → Part) (s : State) : (modPart pk f s).fer = s.fer := rfl
@[simp] theorem modPart_tduq (pk : Nat) (f : Part → Part) (s : State) : (modPart pk f s).tduq = s.tduq := rfl
@[simp] theorem modPart_gangs (pk : Nat) (f : Part → Part) (s : State) : (modPart pk f s).gangs = s.gangs := rfl
@[simp] theorem modPart_bars (pk : Nat) (f : Part → Part) (s : State) : (modPart pk f s).bars = s.bars := rfl
@[simp] theorem modPart_groups (pk : Nat) (f : Part → Part) (s : State) : (modPart pk f s).groups = s.groups := rfl
@[simp] theorem modPart_mtus (pk : Nat) (f : Part → Part) (s : State) : (modPart pk f s).mtus = s.mtus := rfl
@[simp] theorem modPart_own (pk : Nat) (f : Part → Part) (s : State) : (modPart pk f s).own = s.own := rfl
@[simp] theorem modPart_sqes (pk : Nat) (f : Part → Part) (s : State) : (modPart pk f s).sqes = s.sqes := rfl
@[simp] theorem modPart_fills (pk : Nat) (f : Part → Part) (s : State) : (modPart pk f s).fills = s.fills := rfl
@[simp] theorem modPart_ports (pk : Nat) (f : Part → Part) (s : State) : (modPart pk f s).ports = s.ports := rfl
@[simp] theorem modPart_pkts (pk : Nat) (f : Part → Part) (s : State) : (modPart pk f s).pkts = s.pkts := rfl
@[simp] theorem modPart_trcs (pk : Nat) (f : Part → Part) (s : State) : (modPart pk f s).trcs = s.trcs := rfl
@[simp] theorem modPart_trcp (pk : Nat) (f : Part → Part) (s : State) : (modPart pk f s).trcp = s.trcp := rfl
@[simp] theorem modPart_pkgs (pk : Nat) (f : Part → Part) (s : State) : (modPart pk f s).pkgs = s.pkgs := rfl
@[simp] theorem modPart_saves (pk : Nat) (f : Part → Part) (s : State) : (modPart pk f s).saves = s.saves := rfl

/-! ### modPkg -/

@[simp] theorem modPkg_now (p : Nat) (f : Pkg → Pkg) (s : State) : (modPkg p f s).now = s.now := rfl
@[simp] theorem modPkg_nextId (p : Nat) (f : Pkg → Pkg) (s : State) : (modPkg p f s).nextId = s.nextId := rfl
@[simp] theorem modPkg_free (p : Nat) (f : Pkg → Pkg) (s : State) : (modPkg p f s).free = s.free := rfl
@[simp] theorem modPkg_cur (p : Nat) (f : Pkg → Pkg) (s : State) : (modPkg p f s).cur = s.cur := rfl
@[simp] theorem modPkg_ev (p : Nat) (f : Pkg → Pkg) (s : State) : (modPkg p f s).ev = s.ev := rfl
@[simp] theorem modPkg_agenda (p : Nat) (f : Pkg → Pkg) (s : State) : (modPkg p f s).agenda = s.agenda := rfl
@[simp] theorem modPkg_mem (p : Nat) (f : Pkg → Pkg) (s : State) : (modPkg p f s).mem = s.mem := rfl
@[simp] theorem modPkg_olds (p : Nat) (f : Pkg → Pkg) (s : State) : (modPkg p f s).olds = s.olds := rfl
@[simp] theorem modPkg_hands (p : Nat) (f : Pkg → Pkg) (s : State) : (modPkg p f s).hands = s.hands := rfl
@[simp] theorem modPkg_decs (p : Nat) (f : Pkg → Pkg) (s : State) : (modPkg p f s).decs = s.decs := rfl
@[simp] theorem modPkg_parcelFails (p : Nat) (f : Pkg → Pkg) (s : State) : (modPkg p f s).parcelFails = s.parcelFails := rfl
@[simp] theorem modPkg_unitFails (p : Nat) (f : Pkg → Pkg) (s : State) : (modPkg p f s).unitFails = s.unitFails := rfl
@[simp] theorem modPkg_ssd (p : Nat) (f : Pkg → Pkg) (s : State) : (modPkg p f s).ssd = s.ssd := rfl
@[simp] theorem modPkg_slots (p : Nat) (f : Pkg → Pkg) (s : State) : (modPkg p f s).slots = s.slots := rfl
@[simp] theorem modPkg_g (p : Nat) (f : Pkg → Pkg) (s : State) : (modPkg p f s).g = s.g := rfl
@[simp] theorem modPkg_k (p : Nat) (f : Pkg → Pkg) (s : State) : (modPkg p f s).k = s.k := rfl
@[simp] theorem modPkg_q (p : Nat) (f : Pkg → Pkg) (s : State) : (modPkg p f s).q = s.q := rfl
@[simp] theorem modPkg_place (p : Nat) (f : Pkg → Pkg) (s : State) : (modPkg p f s).place = s.place := rfl
@[simp] theorem modPkg_file (p : Nat) (f : Pkg → Pkg) (s : State) : (modPkg p f s).file = s.file := rfl
@[simp] theorem modPkg_cores (p : Nat) (f : Pkg → Pkg) (s : State) : (modPkg p f s).cores = s.cores := rfl
@[simp] theorem modPkg_rt (p : Nat) (f : Pkg → Pkg) (s : State) : (modPkg p f s).rt = s.rt := rfl
@[simp] theorem modPkg_binds (p : Nat) (f : Pkg → Pkg) (s : State) : (modPkg p f s).binds = s.binds := rfl
@[simp] theorem modPkg_pairs (p : Nat) (f : Pkg → Pkg) (s : State) : (modPkg p f s).pairs = s.pairs := rfl
@[simp] theorem modPkg_rx (p : Nat) (f : Pkg → Pkg) (s : State) : (modPkg p f s).rx = s.rx := rfl
@[simp] theorem modPkg_ext (p : Nat) (f : Pkg → Pkg) (s : State) : (modPkg p f s).ext = s.ext := rfl
@[simp] theorem modPkg_v (p : Nat) (f : Pkg → Pkg) (s : State) : (modPkg p f s).v = s.v := rfl
@[simp] theorem modPkg_vq (p : Nat) (f : Pkg → Pkg) (s : State) : (modPkg p f s).vq = s.vq := rfl
@[simp] theorem modPkg_good (p : Nat) (f : Pkg → Pkg) (s : State) : (modPkg p f s).good = s.good := rfl
@[simp] theorem modPkg_accs (p : Nat) (f : Pkg → Pkg) (s : State) : (modPkg p f s).accs = s.accs := rfl
@[simp] theorem modPkg_banks (p : Nat) (f : Pkg → Pkg) (s : State) : (modPkg p f s).banks = s.banks := rfl
@[simp] theorem modPkg_engines (p : Nat) (f : Pkg → Pkg) (s : State) : (modPkg p f s).engines = s.engines := rfl
@[simp] theorem modPkg_news (p : Nat) (f : Pkg → Pkg) (s : State) : (modPkg p f s).news = s.news := rfl
@[simp] theorem modPkg_cmds (p : Nat) (f : Pkg → Pkg) (s : State) : (modPkg p f s).cmds = s.cmds := rfl
@[simp] theorem modPkg_tiles (p : Nat) (f : Pkg → Pkg) (s : State) : (modPkg p f s).tiles = s.tiles := rfl
@[simp] theorem modPkg_acc (p : Nat) (f : Pkg → Pkg) (s : State) : (modPkg p f s).acc = s.acc := rfl
@[simp] theorem modPkg_macros (p : Nat) (f : Pkg → Pkg) (s : State) : (modPkg p f s).macros = s.macros := rfl
@[simp] theorem modPkg_dirty (p : Nat) (f : Pkg → Pkg) (s : State) : (modPkg p f s).dirty = s.dirty := rfl
@[simp] theorem modPkg_guards (p : Nat) (f : Pkg → Pkg) (s : State) : (modPkg p f s).guards = s.guards := rfl
@[simp] theorem modPkg_wbs (p : Nat) (f : Pkg → Pkg) (s : State) : (modPkg p f s).wbs = s.wbs := rfl
@[simp] theorem modPkg_hops (p : Nat) (f : Pkg → Pkg) (s : State) : (modPkg p f s).hops = s.hops := rfl
@[simp] theorem modPkg_cnGrp (p : Nat) (f : Pkg → Pkg) (s : State) : (modPkg p f s).cnGrp = s.cnGrp := rfl
@[simp] theorem modPkg_cnInst (p : Nat) (f : Pkg → Pkg) (s : State) : (modPkg p f s).cnInst = s.cnInst := rfl
@[simp] theorem modPkg_cnNext (p : Nat) (f : Pkg → Pkg) (s : State) : (modPkg p f s).cnNext = s.cnNext := rfl
@[simp] theorem modPkg_cnWait (p : Nat) (f : Pkg → Pkg) (s : State) : (modPkg p f s).cnWait = s.cnWait := rfl
@[simp] theorem modPkg_cnErr (p : Nat) (f : Pkg → Pkg) (s : State) : (modPkg p f s).cnErr = s.cnErr := rfl
@[simp] theorem modPkg_ferGrp (p : Nat) (f : Pkg → Pkg) (s : State) : (modPkg p f s).ferGrp = s.ferGrp := rfl
@[simp] theorem modPkg_ferSlot (p : Nat) (f : Pkg → Pkg) (s : State) : (modPkg p f s).ferSlot = s.ferSlot := rfl
@[simp] theorem modPkg_fer (p : Nat) (f : Pkg → Pkg) (s : State) : (modPkg p f s).fer = s.fer := rfl
@[simp] theorem modPkg_tduq (p : Nat) (f : Pkg → Pkg) (s : State) : (modPkg p f s).tduq = s.tduq := rfl
@[simp] theorem modPkg_parts (p : Nat) (f : Pkg → Pkg) (s : State) : (modPkg p f s).parts = s.parts := rfl
@[simp] theorem modPkg_gangs (p : Nat) (f : Pkg → Pkg) (s : State) : (modPkg p f s).gangs = s.gangs := rfl
@[simp] theorem modPkg_bars (p : Nat) (f : Pkg → Pkg) (s : State) : (modPkg p f s).bars = s.bars := rfl
@[simp] theorem modPkg_groups (p : Nat) (f : Pkg → Pkg) (s : State) : (modPkg p f s).groups = s.groups := rfl
@[simp] theorem modPkg_mtus (p : Nat) (f : Pkg → Pkg) (s : State) : (modPkg p f s).mtus = s.mtus := rfl
@[simp] theorem modPkg_own (p : Nat) (f : Pkg → Pkg) (s : State) : (modPkg p f s).own = s.own := rfl
@[simp] theorem modPkg_sqes (p : Nat) (f : Pkg → Pkg) (s : State) : (modPkg p f s).sqes = s.sqes := rfl
@[simp] theorem modPkg_fills (p : Nat) (f : Pkg → Pkg) (s : State) : (modPkg p f s).fills = s.fills := rfl
@[simp] theorem modPkg_ports (p : Nat) (f : Pkg → Pkg) (s : State) : (modPkg p f s).ports = s.ports := rfl
@[simp] theorem modPkg_pkts (p : Nat) (f : Pkg → Pkg) (s : State) : (modPkg p f s).pkts = s.pkts := rfl
@[simp] theorem modPkg_trcs (p : Nat) (f : Pkg → Pkg) (s : State) : (modPkg p f s).trcs = s.trcs := rfl
@[simp] theorem modPkg_trcp (p : Nat) (f : Pkg → Pkg) (s : State) : (modPkg p f s).trcp = s.trcp := rfl
@[simp] theorem modPkg_saves (p : Nat) (f : Pkg → Pkg) (s : State) : (modPkg p f s).saves = s.saves := rfl

/-! ### modRx -/

@[simp] theorem modRx_now (rk : Nat) (f : RxQ → RxQ) (s : State) : (modRx rk f s).now = s.now := rfl
@[simp] theorem modRx_nextId (rk : Nat) (f : RxQ → RxQ) (s : State) : (modRx rk f s).nextId = s.nextId := rfl
@[simp] theorem modRx_free (rk : Nat) (f : RxQ → RxQ) (s : State) : (modRx rk f s).free = s.free := rfl
@[simp] theorem modRx_cur (rk : Nat) (f : RxQ → RxQ) (s : State) : (modRx rk f s).cur = s.cur := rfl
@[simp] theorem modRx_ev (rk : Nat) (f : RxQ → RxQ) (s : State) : (modRx rk f s).ev = s.ev := rfl
@[simp] theorem modRx_agenda (rk : Nat) (f : RxQ → RxQ) (s : State) : (modRx rk f s).agenda = s.agenda := rfl
@[simp] theorem modRx_mem (rk : Nat) (f : RxQ → RxQ) (s : State) : (modRx rk f s).mem = s.mem := rfl
@[simp] theorem modRx_olds (rk : Nat) (f : RxQ → RxQ) (s : State) : (modRx rk f s).olds = s.olds := rfl
@[simp] theorem modRx_hands (rk : Nat) (f : RxQ → RxQ) (s : State) : (modRx rk f s).hands = s.hands := rfl
@[simp] theorem modRx_decs (rk : Nat) (f : RxQ → RxQ) (s : State) : (modRx rk f s).decs = s.decs := rfl
@[simp] theorem modRx_parcelFails (rk : Nat) (f : RxQ → RxQ) (s : State) : (modRx rk f s).parcelFails = s.parcelFails := rfl
@[simp] theorem modRx_unitFails (rk : Nat) (f : RxQ → RxQ) (s : State) : (modRx rk f s).unitFails = s.unitFails := rfl
@[simp] theorem modRx_ssd (rk : Nat) (f : RxQ → RxQ) (s : State) : (modRx rk f s).ssd = s.ssd := rfl
@[simp] theorem modRx_slots (rk : Nat) (f : RxQ → RxQ) (s : State) : (modRx rk f s).slots = s.slots := rfl
@[simp] theorem modRx_g (rk : Nat) (f : RxQ → RxQ) (s : State) : (modRx rk f s).g = s.g := rfl
@[simp] theorem modRx_k (rk : Nat) (f : RxQ → RxQ) (s : State) : (modRx rk f s).k = s.k := rfl
@[simp] theorem modRx_q (rk : Nat) (f : RxQ → RxQ) (s : State) : (modRx rk f s).q = s.q := rfl
@[simp] theorem modRx_place (rk : Nat) (f : RxQ → RxQ) (s : State) : (modRx rk f s).place = s.place := rfl
@[simp] theorem modRx_file (rk : Nat) (f : RxQ → RxQ) (s : State) : (modRx rk f s).file = s.file := rfl
@[simp] theorem modRx_cores (rk : Nat) (f : RxQ → RxQ) (s : State) : (modRx rk f s).cores = s.cores := rfl
@[simp] theorem modRx_rt (rk : Nat) (f : RxQ → RxQ) (s : State) : (modRx rk f s).rt = s.rt := rfl
@[simp] theorem modRx_binds (rk : Nat) (f : RxQ → RxQ) (s : State) : (modRx rk f s).binds = s.binds := rfl
@[simp] theorem modRx_pairs (rk : Nat) (f : RxQ → RxQ) (s : State) : (modRx rk f s).pairs = s.pairs := rfl
@[simp] theorem modRx_ext (rk : Nat) (f : RxQ → RxQ) (s : State) : (modRx rk f s).ext = s.ext := rfl
@[simp] theorem modRx_v (rk : Nat) (f : RxQ → RxQ) (s : State) : (modRx rk f s).v = s.v := rfl
@[simp] theorem modRx_vq (rk : Nat) (f : RxQ → RxQ) (s : State) : (modRx rk f s).vq = s.vq := rfl
@[simp] theorem modRx_good (rk : Nat) (f : RxQ → RxQ) (s : State) : (modRx rk f s).good = s.good := rfl
@[simp] theorem modRx_accs (rk : Nat) (f : RxQ → RxQ) (s : State) : (modRx rk f s).accs = s.accs := rfl
@[simp] theorem modRx_banks (rk : Nat) (f : RxQ → RxQ) (s : State) : (modRx rk f s).banks = s.banks := rfl
@[simp] theorem modRx_engines (rk : Nat) (f : RxQ → RxQ) (s : State) : (modRx rk f s).engines = s.engines := rfl
@[simp] theorem modRx_news (rk : Nat) (f : RxQ → RxQ) (s : State) : (modRx rk f s).news = s.news := rfl
@[simp] theorem modRx_cmds (rk : Nat) (f : RxQ → RxQ) (s : State) : (modRx rk f s).cmds = s.cmds := rfl
@[simp] theorem modRx_tiles (rk : Nat) (f : RxQ → RxQ) (s : State) : (modRx rk f s).tiles = s.tiles := rfl
@[simp] theorem modRx_acc (rk : Nat) (f : RxQ → RxQ) (s : State) : (modRx rk f s).acc = s.acc := rfl
@[simp] theorem modRx_macros (rk : Nat) (f : RxQ → RxQ) (s : State) : (modRx rk f s).macros = s.macros := rfl
@[simp] theorem modRx_dirty (rk : Nat) (f : RxQ → RxQ) (s : State) : (modRx rk f s).dirty = s.dirty := rfl
@[simp] theorem modRx_guards (rk : Nat) (f : RxQ → RxQ) (s : State) : (modRx rk f s).guards = s.guards := rfl
@[simp] theorem modRx_wbs (rk : Nat) (f : RxQ → RxQ) (s : State) : (modRx rk f s).wbs = s.wbs := rfl
@[simp] theorem modRx_hops (rk : Nat) (f : RxQ → RxQ) (s : State) : (modRx rk f s).hops = s.hops := rfl
@[simp] theorem modRx_cnGrp (rk : Nat) (f : RxQ → RxQ) (s : State) : (modRx rk f s).cnGrp = s.cnGrp := rfl
@[simp] theorem modRx_cnInst (rk : Nat) (f : RxQ → RxQ) (s : State) : (modRx rk f s).cnInst = s.cnInst := rfl
@[simp] theorem modRx_cnNext (rk : Nat) (f : RxQ → RxQ) (s : State) : (modRx rk f s).cnNext = s.cnNext := rfl
@[simp] theorem modRx_cnWait (rk : Nat) (f : RxQ → RxQ) (s : State) : (modRx rk f s).cnWait = s.cnWait := rfl
@[simp] theorem modRx_cnErr (rk : Nat) (f : RxQ → RxQ) (s : State) : (modRx rk f s).cnErr = s.cnErr := rfl
@[simp] theorem modRx_ferGrp (rk : Nat) (f : RxQ → RxQ) (s : State) : (modRx rk f s).ferGrp = s.ferGrp := rfl
@[simp] theorem modRx_ferSlot (rk : Nat) (f : RxQ → RxQ) (s : State) : (modRx rk f s).ferSlot = s.ferSlot := rfl
@[simp] theorem modRx_fer (rk : Nat) (f : RxQ → RxQ) (s : State) : (modRx rk f s).fer = s.fer := rfl
@[simp] theorem modRx_tduq (rk : Nat) (f : RxQ → RxQ) (s : State) : (modRx rk f s).tduq = s.tduq := rfl
@[simp] theorem modRx_parts (rk : Nat) (f : RxQ → RxQ) (s : State) : (modRx rk f s).parts = s.parts := rfl
@[simp] theorem modRx_gangs (rk : Nat) (f : RxQ → RxQ) (s : State) : (modRx rk f s).gangs = s.gangs := rfl
@[simp] theorem modRx_bars (rk : Nat) (f : RxQ → RxQ) (s : State) : (modRx rk f s).bars = s.bars := rfl
@[simp] theorem modRx_groups (rk : Nat) (f : RxQ → RxQ) (s : State) : (modRx rk f s).groups = s.groups := rfl
@[simp] theorem modRx_mtus (rk : Nat) (f : RxQ → RxQ) (s : State) : (modRx rk f s).mtus = s.mtus := rfl
@[simp] theorem modRx_own (rk : Nat) (f : RxQ → RxQ) (s : State) : (modRx rk f s).own = s.own := rfl
@[simp] theorem modRx_sqes (rk : Nat) (f : RxQ → RxQ) (s : State) : (modRx rk f s).sqes = s.sqes := rfl
@[simp] theorem modRx_fills (rk : Nat) (f : RxQ → RxQ) (s : State) : (modRx rk f s).fills = s.fills := rfl
@[simp] theorem modRx_ports (rk : Nat) (f : RxQ → RxQ) (s : State) : (modRx rk f s).ports = s.ports := rfl
@[simp] theorem modRx_pkts (rk : Nat) (f : RxQ → RxQ) (s : State) : (modRx rk f s).pkts = s.pkts := rfl
@[simp] theorem modRx_trcs (rk : Nat) (f : RxQ → RxQ) (s : State) : (modRx rk f s).trcs = s.trcs := rfl
@[simp] theorem modRx_trcp (rk : Nat) (f : RxQ → RxQ) (s : State) : (modRx rk f s).trcp = s.trcp := rfl
@[simp] theorem modRx_pkgs (rk : Nat) (f : RxQ → RxQ) (s : State) : (modRx rk f s).pkgs = s.pkgs := rfl
@[simp] theorem modRx_saves (rk : Nat) (f : RxQ → RxQ) (s : State) : (modRx rk f s).saves = s.saves := rfl

/-! ### modBind -/

@[simp] theorem modBind_now (e : Nat) (f : Binding → Binding) (s : State) : (modBind e f s).now = s.now := rfl
@[simp] theorem modBind_nextId (e : Nat) (f : Binding → Binding) (s : State) : (modBind e f s).nextId = s.nextId := rfl
@[simp] theorem modBind_free (e : Nat) (f : Binding → Binding) (s : State) : (modBind e f s).free = s.free := rfl
@[simp] theorem modBind_cur (e : Nat) (f : Binding → Binding) (s : State) : (modBind e f s).cur = s.cur := rfl
@[simp] theorem modBind_ev (e : Nat) (f : Binding → Binding) (s : State) : (modBind e f s).ev = s.ev := rfl
@[simp] theorem modBind_agenda (e : Nat) (f : Binding → Binding) (s : State) : (modBind e f s).agenda = s.agenda := rfl
@[simp] theorem modBind_mem (e : Nat) (f : Binding → Binding) (s : State) : (modBind e f s).mem = s.mem := rfl
@[simp] theorem modBind_olds (e : Nat) (f : Binding → Binding) (s : State) : (modBind e f s).olds = s.olds := rfl
@[simp] theorem modBind_hands (e : Nat) (f : Binding → Binding) (s : State) : (modBind e f s).hands = s.hands := rfl
@[simp] theorem modBind_decs (e : Nat) (f : Binding → Binding) (s : State) : (modBind e f s).decs = s.decs := rfl
@[simp] theorem modBind_parcelFails (e : Nat) (f : Binding → Binding) (s : State) : (modBind e f s).parcelFails = s.parcelFails := rfl
@[simp] theorem modBind_unitFails (e : Nat) (f : Binding → Binding) (s : State) : (modBind e f s).unitFails = s.unitFails := rfl
@[simp] theorem modBind_ssd (e : Nat) (f : Binding → Binding) (s : State) : (modBind e f s).ssd = s.ssd := rfl
@[simp] theorem modBind_slots (e : Nat) (f : Binding → Binding) (s : State) : (modBind e f s).slots = s.slots := rfl
@[simp] theorem modBind_g (e : Nat) (f : Binding → Binding) (s : State) : (modBind e f s).g = s.g := rfl
@[simp] theorem modBind_k (e : Nat) (f : Binding → Binding) (s : State) : (modBind e f s).k = s.k := rfl
@[simp] theorem modBind_q (e : Nat) (f : Binding → Binding) (s : State) : (modBind e f s).q = s.q := rfl
@[simp] theorem modBind_place (e : Nat) (f : Binding → Binding) (s : State) : (modBind e f s).place = s.place := rfl
@[simp] theorem modBind_file (e : Nat) (f : Binding → Binding) (s : State) : (modBind e f s).file = s.file := rfl
@[simp] theorem modBind_cores (e : Nat) (f : Binding → Binding) (s : State) : (modBind e f s).cores = s.cores := rfl
@[simp] theorem modBind_rt (e : Nat) (f : Binding → Binding) (s : State) : (modBind e f s).rt = s.rt := rfl
@[simp] theorem modBind_pairs (e : Nat) (f : Binding → Binding) (s : State) : (modBind e f s).pairs = s.pairs := rfl
@[simp] theorem modBind_rx (e : Nat) (f : Binding → Binding) (s : State) : (modBind e f s).rx = s.rx := rfl
@[simp] theorem modBind_ext (e : Nat) (f : Binding → Binding) (s : State) : (modBind e f s).ext = s.ext := rfl
@[simp] theorem modBind_v (e : Nat) (f : Binding → Binding) (s : State) : (modBind e f s).v = s.v := rfl
@[simp] theorem modBind_vq (e : Nat) (f : Binding → Binding) (s : State) : (modBind e f s).vq = s.vq := rfl
@[simp] theorem modBind_good (e : Nat) (f : Binding → Binding) (s : State) : (modBind e f s).good = s.good := rfl
@[simp] theorem modBind_accs (e : Nat) (f : Binding → Binding) (s : State) : (modBind e f s).accs = s.accs := rfl
@[simp] theorem modBind_banks (e : Nat) (f : Binding → Binding) (s : State) : (modBind e f s).banks = s.banks := rfl
@[simp] theorem modBind_engines (e : Nat) (f : Binding → Binding) (s : State) : (modBind e f s).engines = s.engines := rfl
@[simp] theorem modBind_news (e : Nat) (f : Binding → Binding) (s : State) : (modBind e f s).news = s.news := rfl
@[simp] theorem modBind_cmds (e : Nat) (f : Binding → Binding) (s : State) : (modBind e f s).cmds = s.cmds := rfl
@[simp] theorem modBind_tiles (e : Nat) (f : Binding → Binding) (s : State) : (modBind e f s).tiles = s.tiles := rfl
@[simp] theorem modBind_acc (e : Nat) (f : Binding → Binding) (s : State) : (modBind e f s).acc = s.acc := rfl
@[simp] theorem modBind_macros (e : Nat) (f : Binding → Binding) (s : State) : (modBind e f s).macros = s.macros := rfl
@[simp] theorem modBind_dirty (e : Nat) (f : Binding → Binding) (s : State) : (modBind e f s).dirty = s.dirty := rfl
@[simp] theorem modBind_guards (e : Nat) (f : Binding → Binding) (s : State) : (modBind e f s).guards = s.guards := rfl
@[simp] theorem modBind_wbs (e : Nat) (f : Binding → Binding) (s : State) : (modBind e f s).wbs = s.wbs := rfl
@[simp] theorem modBind_hops (e : Nat) (f : Binding → Binding) (s : State) : (modBind e f s).hops = s.hops := rfl
@[simp] theorem modBind_cnGrp (e : Nat) (f : Binding → Binding) (s : State) : (modBind e f s).cnGrp = s.cnGrp := rfl
@[simp] theorem modBind_cnInst (e : Nat) (f : Binding → Binding) (s : State) : (modBind e f s).cnInst = s.cnInst := rfl
@[simp] theorem modBind_cnNext (e : Nat) (f : Binding → Binding) (s : State) : (modBind e f s).cnNext = s.cnNext := rfl
@[simp] theorem modBind_cnWait (e : Nat) (f : Binding → Binding) (s : State) : (modBind e f s).cnWait = s.cnWait := rfl
@[simp] theorem modBind_cnErr (e : Nat) (f : Binding → Binding) (s : State) : (modBind e f s).cnErr = s.cnErr := rfl
@[simp] theorem modBind_ferGrp (e : Nat) (f : Binding → Binding) (s : State) : (modBind e f s).ferGrp = s.ferGrp := rfl
@[simp] theorem modBind_ferSlot (e : Nat) (f : Binding → Binding) (s : State) : (modBind e f s).ferSlot = s.ferSlot := rfl
@[simp] theorem modBind_fer (e : Nat) (f : Binding → Binding) (s : State) : (modBind e f s).fer = s.fer := rfl
@[simp] theorem modBind_tduq (e : Nat) (f : Binding → Binding) (s : State) : (modBind e f s).tduq = s.tduq := rfl
@[simp] theorem modBind_parts (e : Nat) (f : Binding → Binding) (s : State) : (modBind e f s).parts = s.parts := rfl
@[simp] theorem modBind_gangs (e : Nat) (f : Binding → Binding) (s : State) : (modBind e f s).gangs = s.gangs := rfl
@[simp] theorem modBind_bars (e : Nat) (f : Binding → Binding) (s : State) : (modBind e f s).bars = s.bars := rfl
@[simp] theorem modBind_groups (e : Nat) (f : Binding → Binding) (s : State) : (modBind e f s).groups = s.groups := rfl
@[simp] theorem modBind_mtus (e : Nat) (f : Binding → Binding) (s : State) : (modBind e f s).mtus = s.mtus := rfl
@[simp] theorem modBind_own (e : Nat) (f : Binding → Binding) (s : State) : (modBind e f s).own = s.own := rfl
@[simp] theorem modBind_sqes (e : Nat) (f : Binding → Binding) (s : State) : (modBind e f s).sqes = s.sqes := rfl
@[simp] theorem modBind_fills (e : Nat) (f : Binding → Binding) (s : State) : (modBind e f s).fills = s.fills := rfl
@[simp] theorem modBind_ports (e : Nat) (f : Binding → Binding) (s : State) : (modBind e f s).ports = s.ports := rfl
@[simp] theorem modBind_pkts (e : Nat) (f : Binding → Binding) (s : State) : (modBind e f s).pkts = s.pkts := rfl
@[simp] theorem modBind_trcs (e : Nat) (f : Binding → Binding) (s : State) : (modBind e f s).trcs = s.trcs := rfl
@[simp] theorem modBind_trcp (e : Nat) (f : Binding → Binding) (s : State) : (modBind e f s).trcp = s.trcp := rfl
@[simp] theorem modBind_pkgs (e : Nat) (f : Binding → Binding) (s : State) : (modBind e f s).pkgs = s.pkgs := rfl
@[simp] theorem modBind_saves (e : Nat) (f : Binding → Binding) (s : State) : (modBind e f s).saves = s.saves := rfl

/-! ### putRt -/

@[simp] theorem putRt_now (e : Nat) (x : Word × Word) (s : State) : (putRt e x s).now = s.now := rfl
@[simp] theorem putRt_nextId (e : Nat) (x : Word × Word) (s : State) : (putRt e x s).nextId = s.nextId := rfl
@[simp] theorem putRt_free (e : Nat) (x : Word × Word) (s : State) : (putRt e x s).free = s.free := rfl
@[simp] theorem putRt_cur (e : Nat) (x : Word × Word) (s : State) : (putRt e x s).cur = s.cur := rfl
@[simp] theorem putRt_ev (e : Nat) (x : Word × Word) (s : State) : (putRt e x s).ev = s.ev := rfl
@[simp] theorem putRt_agenda (e : Nat) (x : Word × Word) (s : State) : (putRt e x s).agenda = s.agenda := rfl
@[simp] theorem putRt_mem (e : Nat) (x : Word × Word) (s : State) : (putRt e x s).mem = s.mem := rfl
@[simp] theorem putRt_olds (e : Nat) (x : Word × Word) (s : State) : (putRt e x s).olds = s.olds := rfl
@[simp] theorem putRt_hands (e : Nat) (x : Word × Word) (s : State) : (putRt e x s).hands = s.hands := rfl
@[simp] theorem putRt_decs (e : Nat) (x : Word × Word) (s : State) : (putRt e x s).decs = s.decs := rfl
@[simp] theorem putRt_parcelFails (e : Nat) (x : Word × Word) (s : State) : (putRt e x s).parcelFails = s.parcelFails := rfl
@[simp] theorem putRt_unitFails (e : Nat) (x : Word × Word) (s : State) : (putRt e x s).unitFails = s.unitFails := rfl
@[simp] theorem putRt_ssd (e : Nat) (x : Word × Word) (s : State) : (putRt e x s).ssd = s.ssd := rfl
@[simp] theorem putRt_slots (e : Nat) (x : Word × Word) (s : State) : (putRt e x s).slots = s.slots := rfl
@[simp] theorem putRt_g (e : Nat) (x : Word × Word) (s : State) : (putRt e x s).g = s.g := rfl
@[simp] theorem putRt_k (e : Nat) (x : Word × Word) (s : State) : (putRt e x s).k = s.k := rfl
@[simp] theorem putRt_q (e : Nat) (x : Word × Word) (s : State) : (putRt e x s).q = s.q := rfl
@[simp] theorem putRt_place (e : Nat) (x : Word × Word) (s : State) : (putRt e x s).place = s.place := rfl
@[simp] theorem putRt_file (e : Nat) (x : Word × Word) (s : State) : (putRt e x s).file = s.file := rfl
@[simp] theorem putRt_cores (e : Nat) (x : Word × Word) (s : State) : (putRt e x s).cores = s.cores := rfl
@[simp] theorem putRt_binds (e : Nat) (x : Word × Word) (s : State) : (putRt e x s).binds = s.binds := rfl
@[simp] theorem putRt_pairs (e : Nat) (x : Word × Word) (s : State) : (putRt e x s).pairs = s.pairs := rfl
@[simp] theorem putRt_rx (e : Nat) (x : Word × Word) (s : State) : (putRt e x s).rx = s.rx := rfl
@[simp] theorem putRt_ext (e : Nat) (x : Word × Word) (s : State) : (putRt e x s).ext = s.ext := rfl
@[simp] theorem putRt_v (e : Nat) (x : Word × Word) (s : State) : (putRt e x s).v = s.v := rfl
@[simp] theorem putRt_vq (e : Nat) (x : Word × Word) (s : State) : (putRt e x s).vq = s.vq := rfl
@[simp] theorem putRt_good (e : Nat) (x : Word × Word) (s : State) : (putRt e x s).good = s.good := rfl
@[simp] theorem putRt_accs (e : Nat) (x : Word × Word) (s : State) : (putRt e x s).accs = s.accs := rfl
@[simp] theorem putRt_banks (e : Nat) (x : Word × Word) (s : State) : (putRt e x s).banks = s.banks := rfl
@[simp] theorem putRt_engines (e : Nat) (x : Word × Word) (s : State) : (putRt e x s).engines = s.engines := rfl
@[simp] theorem putRt_news (e : Nat) (x : Word × Word) (s : State) : (putRt e x s).news = s.news := rfl
@[simp] theorem putRt_cmds (e : Nat) (x : Word × Word) (s : State) : (putRt e x s).cmds = s.cmds := rfl
@[simp] theorem putRt_tiles (e : Nat) (x : Word × Word) (s : State) : (putRt e x s).tiles = s.tiles := rfl
@[simp] theorem putRt_acc (e : Nat) (x : Word × Word) (s : State) : (putRt e x s).acc = s.acc := rfl
@[simp] theorem putRt_macros (e : Nat) (x : Word × Word) (s : State) : (putRt e x s).macros = s.macros := rfl
@[simp] theorem putRt_dirty (e : Nat) (x : Word × Word) (s : State) : (putRt e x s).dirty = s.dirty := rfl
@[simp] theorem putRt_guards (e : Nat) (x : Word × Word) (s : State) : (putRt e x s).guards = s.guards := rfl
@[simp] theorem putRt_wbs (e : Nat) (x : Word × Word) (s : State) : (putRt e x s).wbs = s.wbs := rfl
@[simp] theorem putRt_hops (e : Nat) (x : Word × Word) (s : State) : (putRt e x s).hops = s.hops := rfl
@[simp] theorem putRt_cnGrp (e : Nat) (x : Word × Word) (s : State) : (putRt e x s).cnGrp = s.cnGrp := rfl
@[simp] theorem putRt_cnInst (e : Nat) (x : Word × Word) (s : State) : (putRt e x s).cnInst = s.cnInst := rfl
@[simp] theorem putRt_cnNext (e : Nat) (x : Word × Word) (s : State) : (putRt e x s).cnNext = s.cnNext := rfl
@[simp] theorem putRt_cnWait (e : Nat) (x : Word × Word) (s : State) : (putRt e x s).cnWait = s.cnWait := rfl
@[simp] theorem putRt_cnErr (e : Nat) (x : Word × Word) (s : State) : (putRt e x s).cnErr = s.cnErr := rfl
@[simp] theorem putRt_ferGrp (e : Nat) (x : Word × Word) (s : State) : (putRt e x s).ferGrp = s.ferGrp := rfl
@[simp] theorem putRt_ferSlot (e : Nat) (x : Word × Word) (s : State) : (putRt e x s).ferSlot = s.ferSlot := rfl
@[simp] theorem putRt_fer (e : Nat) (x : Word × Word) (s : State) : (putRt e x s).fer = s.fer := rfl
@[simp] theorem putRt_tduq (e : Nat) (x : Word × Word) (s : State) : (putRt e x s).tduq = s.tduq := rfl
@[simp] theorem putRt_parts (e : Nat) (x : Word × Word) (s : State) : (putRt e x s).parts = s.parts := rfl
@[simp] theorem putRt_gangs (e : Nat) (x : Word × Word) (s : State) : (putRt e x s).gangs = s.gangs := rfl
@[simp] theorem putRt_bars (e : Nat) (x : Word × Word) (s : State) : (putRt e x s).bars = s.bars := rfl
@[simp] theorem putRt_groups (e : Nat) (x : Word × Word) (s : State) : (putRt e x s).groups = s.groups := rfl
@[simp] theorem putRt_mtus (e : Nat) (x : Word × Word) (s : State) : (putRt e x s).mtus = s.mtus := rfl
@[simp] theorem putRt_own (e : Nat) (x : Word × Word) (s : State) : (putRt e x s).own = s.own := rfl
@[simp] theorem putRt_sqes (e : Nat) (x : Word × Word) (s : State) : (putRt e x s).sqes = s.sqes := rfl
@[simp] theorem putRt_fills (e : Nat) (x : Word × Word) (s : State) : (putRt e x s).fills = s.fills := rfl
@[simp] theorem putRt_ports (e : Nat) (x : Word × Word) (s : State) : (putRt e x s).ports = s.ports := rfl
@[simp] theorem putRt_pkts (e : Nat) (x : Word × Word) (s : State) : (putRt e x s).pkts = s.pkts := rfl
@[simp] theorem putRt_trcs (e : Nat) (x : Word × Word) (s : State) : (putRt e x s).trcs = s.trcs := rfl
@[simp] theorem putRt_trcp (e : Nat) (x : Word × Word) (s : State) : (putRt e x s).trcp = s.trcp := rfl
@[simp] theorem putRt_pkgs (e : Nat) (x : Word × Word) (s : State) : (putRt e x s).pkgs = s.pkgs := rfl
@[simp] theorem putRt_saves (e : Nat) (x : Word × Word) (s : State) : (putRt e x s).saves = s.saves := rfl

/-! ### post -/

@[simp] theorem post_now (due : Nat) (ev : Instr) (arg : EvArg) (s : State) : (post due ev arg s).now = s.now := rfl
@[simp] theorem post_nextId (due : Nat) (ev : Instr) (arg : EvArg) (s : State) : (post due ev arg s).nextId = s.nextId := rfl
@[simp] theorem post_free (due : Nat) (ev : Instr) (arg : EvArg) (s : State) : (post due ev arg s).free = s.free := rfl
@[simp] theorem post_cur (due : Nat) (ev : Instr) (arg : EvArg) (s : State) : (post due ev arg s).cur = s.cur := rfl
@[simp] theorem post_ev (due : Nat) (ev : Instr) (arg : EvArg) (s : State) : (post due ev arg s).ev = s.ev := rfl
@[simp] theorem post_mem (due : Nat) (ev : Instr) (arg : EvArg) (s : State) : (post due ev arg s).mem = s.mem := rfl
@[simp] theorem post_olds (due : Nat) (ev : Instr) (arg : EvArg) (s : State) : (post due ev arg s).olds = s.olds := rfl
@[simp] theorem post_hands (due : Nat) (ev : Instr) (arg : EvArg) (s : State) : (post due ev arg s).hands = s.hands := rfl
@[simp] theorem post_decs (due : Nat) (ev : Instr) (arg : EvArg) (s : State) : (post due ev arg s).decs = s.decs := rfl
@[simp] theorem post_parcelFails (due : Nat) (ev : Instr) (arg : EvArg) (s : State) : (post due ev arg s).parcelFails = s.parcelFails := rfl
@[simp] theorem post_unitFails (due : Nat) (ev : Instr) (arg : EvArg) (s : State) : (post due ev arg s).unitFails = s.unitFails := rfl
@[simp] theorem post_ssd (due : Nat) (ev : Instr) (arg : EvArg) (s : State) : (post due ev arg s).ssd = s.ssd := rfl
@[simp] theorem post_slots (due : Nat) (ev : Instr) (arg : EvArg) (s : State) : (post due ev arg s).slots = s.slots := rfl
@[simp] theorem post_g (due : Nat) (ev : Instr) (arg : EvArg) (s : State) : (post due ev arg s).g = s.g := rfl
@[simp] theorem post_k (due : Nat) (ev : Instr) (arg : EvArg) (s : State) : (post due ev arg s).k = s.k := rfl
@[simp] theorem post_q (due : Nat) (ev : Instr) (arg : EvArg) (s : State) : (post due ev arg s).q = s.q := rfl
@[simp] theorem post_place (due : Nat) (ev : Instr) (arg : EvArg) (s : State) : (post due ev arg s).place = s.place := rfl
@[simp] theorem post_file (due : Nat) (ev : Instr) (arg : EvArg) (s : State) : (post due ev arg s).file = s.file := rfl
@[simp] theorem post_cores (due : Nat) (ev : Instr) (arg : EvArg) (s : State) : (post due ev arg s).cores = s.cores := rfl
@[simp] theorem post_rt (due : Nat) (ev : Instr) (arg : EvArg) (s : State) : (post due ev arg s).rt = s.rt := rfl
@[simp] theorem post_binds (due : Nat) (ev : Instr) (arg : EvArg) (s : State) : (post due ev arg s).binds = s.binds := rfl
@[simp] theorem post_pairs (due : Nat) (ev : Instr) (arg : EvArg) (s : State) : (post due ev arg s).pairs = s.pairs := rfl
@[simp] theorem post_rx (due : Nat) (ev : Instr) (arg : EvArg) (s : State) : (post due ev arg s).rx = s.rx := rfl
@[simp] theorem post_ext (due : Nat) (ev : Instr) (arg : EvArg) (s : State) : (post due ev arg s).ext = s.ext := rfl
@[simp] theorem post_v (due : Nat) (ev : Instr) (arg : EvArg) (s : State) : (post due ev arg s).v = s.v := rfl
@[simp] theorem post_vq (due : Nat) (ev : Instr) (arg : EvArg) (s : State) : (post due ev arg s).vq = s.vq := rfl
@[simp] theorem post_good (due : Nat) (ev : Instr) (arg : EvArg) (s : State) : (post due ev arg s).good = s.good := rfl
@[simp] theorem post_accs (due : Nat) (ev : Instr) (arg : EvArg) (s : State) : (post due ev arg s).accs = s.accs := rfl
@[simp] theorem post_banks (due : Nat) (ev : Instr) (arg : EvArg) (s : State) : (post due ev arg s).banks = s.banks := rfl
@[simp] theorem post_engines (due : Nat) (ev : Instr) (arg : EvArg) (s : State) : (post due ev arg s).engines = s.engines := rfl
@[simp] theorem post_news (due : Nat) (ev : Instr) (arg : EvArg) (s : State) : (post due ev arg s).news = s.news := rfl
@[simp] theorem post_cmds (due : Nat) (ev : Instr) (arg : EvArg) (s : State) : (post due ev arg s).cmds = s.cmds := rfl
@[simp] theorem post_tiles (due : Nat) (ev : Instr) (arg : EvArg) (s : State) : (post due ev arg s).tiles = s.tiles := rfl
@[simp] theorem post_acc (due : Nat) (ev : Instr) (arg : EvArg) (s : State) : (post due ev arg s).acc = s.acc := rfl
@[simp] theorem post_macros (due : Nat) (ev : Instr) (arg : EvArg) (s : State) : (post due ev arg s).macros = s.macros := rfl
@[simp] theorem post_dirty (due : Nat) (ev : Instr) (arg : EvArg) (s : State) : (post due ev arg s).dirty = s.dirty := rfl
@[simp] theorem post_guards (due : Nat) (ev : Instr) (arg : EvArg) (s : State) : (post due ev arg s).guards = s.guards := rfl
@[simp] theorem post_wbs (due : Nat) (ev : Instr) (arg : EvArg) (s : State) : (post due ev arg s).wbs = s.wbs := rfl
@[simp] theorem post_hops (due : Nat) (ev : Instr) (arg : EvArg) (s : State) : (post due ev arg s).hops = s.hops := rfl
@[simp] theorem post_cnGrp (due : Nat) (ev : Instr) (arg : EvArg) (s : State) : (post due ev arg s).cnGrp = s.cnGrp := rfl
@[simp] theorem post_cnInst (due : Nat) (ev : Instr) (arg : EvArg) (s : State) : (post due ev arg s).cnInst = s.cnInst := rfl
@[simp] theorem post_cnNext (due : Nat) (ev : Instr) (arg : EvArg) (s : State) : (post due ev arg s).cnNext = s.cnNext := rfl
@[simp] theorem post_cnWait (due : Nat) (ev : Instr) (arg : EvArg) (s : State) : (post due ev arg s).cnWait = s.cnWait := rfl
@[simp] theorem post_cnErr (due : Nat) (ev : Instr) (arg : EvArg) (s : State) : (post due ev arg s).cnErr = s.cnErr := rfl
@[simp] theorem post_ferGrp (due : Nat) (ev : Instr) (arg : EvArg) (s : State) : (post due ev arg s).ferGrp = s.ferGrp := rfl
@[simp] theorem post_ferSlot (due : Nat) (ev : Instr) (arg : EvArg) (s : State) : (post due ev arg s).ferSlot = s.ferSlot := rfl
@[simp] theorem post_fer (due : Nat) (ev : Instr) (arg : EvArg) (s : State) : (post due ev arg s).fer = s.fer := rfl
@[simp] theorem post_tduq (due : Nat) (ev : Instr) (arg : EvArg) (s : State) : (post due ev arg s).tduq = s.tduq := rfl
@[simp] theorem post_parts (due : Nat) (ev : Instr) (arg : EvArg) (s : State) : (post due ev arg s).parts = s.parts := rfl
@[simp] theorem post_gangs (due : Nat) (ev : Instr) (arg : EvArg) (s : State) : (post due ev arg s).gangs = s.gangs := rfl
@[simp] theorem post_bars (due : Nat) (ev : Instr) (arg : EvArg) (s : State) : (post due ev arg s).bars = s.bars := rfl
@[simp] theorem post_groups (due : Nat) (ev : Instr) (arg : EvArg) (s : State) : (post due ev arg s).groups = s.groups := rfl
@[simp] theorem post_mtus (due : Nat) (ev : Instr) (arg : EvArg) (s : State) : (post due ev arg s).mtus = s.mtus := rfl
@[simp] theorem post_own (due : Nat) (ev : Instr) (arg : EvArg) (s : State) : (post due ev arg s).own = s.own := rfl
@[simp] theorem post_sqes (due : Nat) (ev : Instr) (arg : EvArg) (s : State) : (post due ev arg s).sqes = s.sqes := rfl
@[simp] theorem post_fills (due : Nat) (ev : Instr) (arg : EvArg) (s : State) : (post due ev arg s).fills = s.fills := rfl
@[simp] theorem post_ports (due : Nat) (ev : Instr) (arg : EvArg) (s : State) : (post due ev arg s).ports = s.ports := rfl
@[simp] theorem post_pkts (due : Nat) (ev : Instr) (arg : EvArg) (s : State) : (post due ev arg s).pkts = s.pkts := rfl
@[simp] theorem post_trcs (due : Nat) (ev : Instr) (arg : EvArg) (s : State) : (post due ev arg s).trcs = s.trcs := rfl
@[simp] theorem post_trcp (due : Nat) (ev : Instr) (arg : EvArg) (s : State) : (post due ev arg s).trcp = s.trcp := rfl
@[simp] theorem post_pkgs (due : Nat) (ev : Instr) (arg : EvArg) (s : State) : (post due ev arg s).pkgs = s.pkgs := rfl
@[simp] theorem post_saves (due : Nat) (ev : Instr) (arg : EvArg) (s : State) : (post due ev arg s).saves = s.saves := rfl

/-! ### atCost -/

@[simp] theorem atCost_now (k : Nat) (s : State) : (atCost k s).now = s.now := rfl
@[simp] theorem atCost_nextId (k : Nat) (s : State) : (atCost k s).nextId = s.nextId := rfl
@[simp] theorem atCost_free (k : Nat) (s : State) : (atCost k s).free = s.free := rfl
@[simp] theorem atCost_ev (k : Nat) (s : State) : (atCost k s).ev = s.ev := rfl
@[simp] theorem atCost_agenda (k : Nat) (s : State) : (atCost k s).agenda = s.agenda := rfl
@[simp] theorem atCost_mem (k : Nat) (s : State) : (atCost k s).mem = s.mem := rfl
@[simp] theorem atCost_olds (k : Nat) (s : State) : (atCost k s).olds = s.olds := rfl
@[simp] theorem atCost_hands (k : Nat) (s : State) : (atCost k s).hands = s.hands := rfl
@[simp] theorem atCost_decs (k : Nat) (s : State) : (atCost k s).decs = s.decs := rfl
@[simp] theorem atCost_parcelFails (k : Nat) (s : State) : (atCost k s).parcelFails = s.parcelFails := rfl
@[simp] theorem atCost_unitFails (k : Nat) (s : State) : (atCost k s).unitFails = s.unitFails := rfl
@[simp] theorem atCost_ssd (k : Nat) (s : State) : (atCost k s).ssd = s.ssd := rfl
@[simp] theorem atCost_slots (k : Nat) (s : State) : (atCost k s).slots = s.slots := rfl
@[simp] theorem atCost_g (k : Nat) (s : State) : (atCost k s).g = s.g := rfl
@[simp] theorem atCost_k (k : Nat) (s : State) : (atCost k s).k = s.k := rfl
@[simp] theorem atCost_q (k : Nat) (s : State) : (atCost k s).q = s.q := rfl
@[simp] theorem atCost_place (k : Nat) (s : State) : (atCost k s).place = s.place := rfl
@[simp] theorem atCost_file (k : Nat) (s : State) : (atCost k s).file = s.file := rfl
@[simp] theorem atCost_cores (k : Nat) (s : State) : (atCost k s).cores = s.cores := rfl
@[simp] theorem atCost_rt (k : Nat) (s : State) : (atCost k s).rt = s.rt := rfl
@[simp] theorem atCost_binds (k : Nat) (s : State) : (atCost k s).binds = s.binds := rfl
@[simp] theorem atCost_pairs (k : Nat) (s : State) : (atCost k s).pairs = s.pairs := rfl
@[simp] theorem atCost_rx (k : Nat) (s : State) : (atCost k s).rx = s.rx := rfl
@[simp] theorem atCost_ext (k : Nat) (s : State) : (atCost k s).ext = s.ext := rfl
@[simp] theorem atCost_v (k : Nat) (s : State) : (atCost k s).v = s.v := rfl
@[simp] theorem atCost_vq (k : Nat) (s : State) : (atCost k s).vq = s.vq := rfl
@[simp] theorem atCost_good (k : Nat) (s : State) : (atCost k s).good = s.good := rfl
@[simp] theorem atCost_accs (k : Nat) (s : State) : (atCost k s).accs = s.accs := rfl
@[simp] theorem atCost_banks (k : Nat) (s : State) : (atCost k s).banks = s.banks := rfl
@[simp] theorem atCost_engines (k : Nat) (s : State) : (atCost k s).engines = s.engines := rfl
@[simp] theorem atCost_news (k : Nat) (s : State) : (atCost k s).news = s.news := rfl
@[simp] theorem atCost_cmds (k : Nat) (s : State) : (atCost k s).cmds = s.cmds := rfl
@[simp] theorem atCost_tiles (k : Nat) (s : State) : (atCost k s).tiles = s.tiles := rfl
@[simp] theorem atCost_acc (k : Nat) (s : State) : (atCost k s).acc = s.acc := rfl
@[simp] theorem atCost_macros (k : Nat) (s : State) : (atCost k s).macros = s.macros := rfl
@[simp] theorem atCost_dirty (k : Nat) (s : State) : (atCost k s).dirty = s.dirty := rfl
@[simp] theorem atCost_guards (k : Nat) (s : State) : (atCost k s).guards = s.guards := rfl
@[simp] theorem atCost_wbs (k : Nat) (s : State) : (atCost k s).wbs = s.wbs := rfl
@[simp] theorem atCost_hops (k : Nat) (s : State) : (atCost k s).hops = s.hops := rfl
@[simp] theorem atCost_cnGrp (k : Nat) (s : State) : (atCost k s).cnGrp = s.cnGrp := rfl
@[simp] theorem atCost_cnInst (k : Nat) (s : State) : (atCost k s).cnInst = s.cnInst := rfl
@[simp] theorem atCost_cnNext (k : Nat) (s : State) : (atCost k s).cnNext = s.cnNext := rfl
@[simp] theorem atCost_cnWait (k : Nat) (s : State) : (atCost k s).cnWait = s.cnWait := rfl
@[simp] theorem atCost_cnErr (k : Nat) (s : State) : (atCost k s).cnErr = s.cnErr := rfl
@[simp] theorem atCost_ferGrp (k : Nat) (s : State) : (atCost k s).ferGrp = s.ferGrp := rfl
@[simp] theorem atCost_ferSlot (k : Nat) (s : State) : (atCost k s).ferSlot = s.ferSlot := rfl
@[simp] theorem atCost_fer (k : Nat) (s : State) : (atCost k s).fer = s.fer := rfl
@[simp] theorem atCost_tduq (k : Nat) (s : State) : (atCost k s).tduq = s.tduq := rfl
@[simp] theorem atCost_parts (k : Nat) (s : State) : (atCost k s).parts = s.parts := rfl
@[simp] theorem atCost_gangs (k : Nat) (s : State) : (atCost k s).gangs = s.gangs := rfl
@[simp] theorem atCost_bars (k : Nat) (s : State) : (atCost k s).bars = s.bars := rfl
@[simp] theorem atCost_groups (k : Nat) (s : State) : (atCost k s).groups = s.groups := rfl
@[simp] theorem atCost_mtus (k : Nat) (s : State) : (atCost k s).mtus = s.mtus := rfl
@[simp] theorem atCost_own (k : Nat) (s : State) : (atCost k s).own = s.own := rfl
@[simp] theorem atCost_sqes (k : Nat) (s : State) : (atCost k s).sqes = s.sqes := rfl
@[simp] theorem atCost_fills (k : Nat) (s : State) : (atCost k s).fills = s.fills := rfl
@[simp] theorem atCost_ports (k : Nat) (s : State) : (atCost k s).ports = s.ports := rfl
@[simp] theorem atCost_pkts (k : Nat) (s : State) : (atCost k s).pkts = s.pkts := rfl
@[simp] theorem atCost_trcs (k : Nat) (s : State) : (atCost k s).trcs = s.trcs := rfl
@[simp] theorem atCost_trcp (k : Nat) (s : State) : (atCost k s).trcp = s.trcp := rfl
@[simp] theorem atCost_pkgs (k : Nat) (s : State) : (atCost k s).pkgs = s.pkgs := rfl
@[simp] theorem atCost_saves (k : Nat) (s : State) : (atCost k s).saves = s.saves := rfl

/-! ### transfer -/

@[simp] theorem transfer_now (t k : Nat) (s : State) : (transfer t k s).now = s.now := rfl
@[simp] theorem transfer_nextId (t k : Nat) (s : State) : (transfer t k s).nextId = s.nextId := rfl
@[simp] theorem transfer_free (t k : Nat) (s : State) : (transfer t k s).free = s.free := rfl
@[simp] theorem transfer_ev (t k : Nat) (s : State) : (transfer t k s).ev = s.ev := rfl
@[simp] theorem transfer_agenda (t k : Nat) (s : State) : (transfer t k s).agenda = s.agenda := rfl
@[simp] theorem transfer_mem (t k : Nat) (s : State) : (transfer t k s).mem = s.mem := rfl
@[simp] theorem transfer_olds (t k : Nat) (s : State) : (transfer t k s).olds = s.olds := rfl
@[simp] theorem transfer_hands (t k : Nat) (s : State) : (transfer t k s).hands = s.hands := rfl
@[simp] theorem transfer_decs (t k : Nat) (s : State) : (transfer t k s).decs = s.decs := rfl
@[simp] theorem transfer_parcelFails (t k : Nat) (s : State) : (transfer t k s).parcelFails = s.parcelFails := rfl
@[simp] theorem transfer_unitFails (t k : Nat) (s : State) : (transfer t k s).unitFails = s.unitFails := rfl
@[simp] theorem transfer_ssd (t k : Nat) (s : State) : (transfer t k s).ssd = s.ssd := rfl
@[simp] theorem transfer_slots (t k : Nat) (s : State) : (transfer t k s).slots = s.slots := rfl
@[simp] theorem transfer_g (t k : Nat) (s : State) : (transfer t k s).g = s.g := rfl
@[simp] theorem transfer_k (t k : Nat) (s : State) : (transfer t k s).k = s.k := rfl
@[simp] theorem transfer_q (t k : Nat) (s : State) : (transfer t k s).q = s.q := rfl
@[simp] theorem transfer_place (t k : Nat) (s : State) : (transfer t k s).place = s.place := rfl
@[simp] theorem transfer_file (t k : Nat) (s : State) : (transfer t k s).file = s.file := rfl
@[simp] theorem transfer_cores (t k : Nat) (s : State) : (transfer t k s).cores = s.cores := rfl
@[simp] theorem transfer_rt (t k : Nat) (s : State) : (transfer t k s).rt = s.rt := rfl
@[simp] theorem transfer_binds (t k : Nat) (s : State) : (transfer t k s).binds = s.binds := rfl
@[simp] theorem transfer_pairs (t k : Nat) (s : State) : (transfer t k s).pairs = s.pairs := rfl
@[simp] theorem transfer_rx (t k : Nat) (s : State) : (transfer t k s).rx = s.rx := rfl
@[simp] theorem transfer_ext (t k : Nat) (s : State) : (transfer t k s).ext = s.ext := rfl
@[simp] theorem transfer_v (t k : Nat) (s : State) : (transfer t k s).v = s.v := rfl
@[simp] theorem transfer_vq (t k : Nat) (s : State) : (transfer t k s).vq = s.vq := rfl
@[simp] theorem transfer_good (t k : Nat) (s : State) : (transfer t k s).good = s.good := rfl
@[simp] theorem transfer_accs (t k : Nat) (s : State) : (transfer t k s).accs = s.accs := rfl
@[simp] theorem transfer_banks (t k : Nat) (s : State) : (transfer t k s).banks = s.banks := rfl
@[simp] theorem transfer_engines (t k : Nat) (s : State) : (transfer t k s).engines = s.engines := rfl
@[simp] theorem transfer_news (t k : Nat) (s : State) : (transfer t k s).news = s.news := rfl
@[simp] theorem transfer_cmds (t k : Nat) (s : State) : (transfer t k s).cmds = s.cmds := rfl
@[simp] theorem transfer_tiles (t k : Nat) (s : State) : (transfer t k s).tiles = s.tiles := rfl
@[simp] theorem transfer_acc (t k : Nat) (s : State) : (transfer t k s).acc = s.acc := rfl
@[simp] theorem transfer_macros (t k : Nat) (s : State) : (transfer t k s).macros = s.macros := rfl
@[simp] theorem transfer_dirty (t k : Nat) (s : State) : (transfer t k s).dirty = s.dirty := rfl
@[simp] theorem transfer_guards (t k : Nat) (s : State) : (transfer t k s).guards = s.guards := rfl
@[simp] theorem transfer_wbs (t k : Nat) (s : State) : (transfer t k s).wbs = s.wbs := rfl
@[simp] theorem transfer_hops (t k : Nat) (s : State) : (transfer t k s).hops = s.hops := rfl
@[simp] theorem transfer_cnGrp (t k : Nat) (s : State) : (transfer t k s).cnGrp = s.cnGrp := rfl
@[simp] theorem transfer_cnInst (t k : Nat) (s : State) : (transfer t k s).cnInst = s.cnInst := rfl
@[simp] theorem transfer_cnNext (t k : Nat) (s : State) : (transfer t k s).cnNext = s.cnNext := rfl
@[simp] theorem transfer_cnWait (t k : Nat) (s : State) : (transfer t k s).cnWait = s.cnWait := rfl
@[simp] theorem transfer_cnErr (t k : Nat) (s : State) : (transfer t k s).cnErr = s.cnErr := rfl
@[simp] theorem transfer_ferGrp (t k : Nat) (s : State) : (transfer t k s).ferGrp = s.ferGrp := rfl
@[simp] theorem transfer_ferSlot (t k : Nat) (s : State) : (transfer t k s).ferSlot = s.ferSlot := rfl
@[simp] theorem transfer_fer (t k : Nat) (s : State) : (transfer t k s).fer = s.fer := rfl
@[simp] theorem transfer_tduq (t k : Nat) (s : State) : (transfer t k s).tduq = s.tduq := rfl
@[simp] theorem transfer_parts (t k : Nat) (s : State) : (transfer t k s).parts = s.parts := rfl
@[simp] theorem transfer_gangs (t k : Nat) (s : State) : (transfer t k s).gangs = s.gangs := rfl
@[simp] theorem transfer_bars (t k : Nat) (s : State) : (transfer t k s).bars = s.bars := rfl
@[simp] theorem transfer_groups (t k : Nat) (s : State) : (transfer t k s).groups = s.groups := rfl
@[simp] theorem transfer_mtus (t k : Nat) (s : State) : (transfer t k s).mtus = s.mtus := rfl
@[simp] theorem transfer_own (t k : Nat) (s : State) : (transfer t k s).own = s.own := rfl
@[simp] theorem transfer_sqes (t k : Nat) (s : State) : (transfer t k s).sqes = s.sqes := rfl
@[simp] theorem transfer_fills (t k : Nat) (s : State) : (transfer t k s).fills = s.fills := rfl
@[simp] theorem transfer_ports (t k : Nat) (s : State) : (transfer t k s).ports = s.ports := rfl
@[simp] theorem transfer_pkts (t k : Nat) (s : State) : (transfer t k s).pkts = s.pkts := rfl
@[simp] theorem transfer_trcs (t k : Nat) (s : State) : (transfer t k s).trcs = s.trcs := rfl
@[simp] theorem transfer_trcp (t k : Nat) (s : State) : (transfer t k s).trcp = s.trcp := rfl
@[simp] theorem transfer_pkgs (t k : Nat) (s : State) : (transfer t k s).pkgs = s.pkgs := rfl
@[simp] theorem transfer_saves (t k : Nat) (s : State) : (transfer t k s).saves = s.saves := rfl

/-! ### modAcc -/

@[simp] theorem modAcc_now (id : Nat) (f : Acc → Acc) (s : State) : (modAcc id f s).now = s.now := by unfold modAcc; split <;> rfl
@[simp] theorem modAcc_nextId (id : Nat) (f : Acc → Acc) (s : State) : (modAcc id f s).nextId = s.nextId := by unfold modAcc; split <;> rfl
@[simp] theorem modAcc_free (id : Nat) (f : Acc → Acc) (s : State) : (modAcc id f s).free = s.free := by unfold modAcc; split <;> rfl
@[simp] theorem modAcc_cur (id : Nat) (f : Acc → Acc) (s : State) : (modAcc id f s).cur = s.cur := by unfold modAcc; split <;> rfl
@[simp] theorem modAcc_ev (id : Nat) (f : Acc → Acc) (s : State) : (modAcc id f s).ev = s.ev := by unfold modAcc; split <;> rfl
@[simp] theorem modAcc_agenda (id : Nat) (f : Acc → Acc) (s : State) : (modAcc id f s).agenda = s.agenda := by unfold modAcc; split <;> rfl
@[simp] theorem modAcc_mem (id : Nat) (f : Acc → Acc) (s : State) : (modAcc id f s).mem = s.mem := by unfold modAcc; split <;> rfl
@[simp] theorem modAcc_olds (id : Nat) (f : Acc → Acc) (s : State) : (modAcc id f s).olds = s.olds := by unfold modAcc; split <;> rfl
@[simp] theorem modAcc_hands (id : Nat) (f : Acc → Acc) (s : State) : (modAcc id f s).hands = s.hands := by unfold modAcc; split <;> rfl
@[simp] theorem modAcc_decs (id : Nat) (f : Acc → Acc) (s : State) : (modAcc id f s).decs = s.decs := by unfold modAcc; split <;> rfl
@[simp] theorem modAcc_parcelFails (id : Nat) (f : Acc → Acc) (s : State) : (modAcc id f s).parcelFails = s.parcelFails := by unfold modAcc; split <;> rfl
@[simp] theorem modAcc_unitFails (id : Nat) (f : Acc → Acc) (s : State) : (modAcc id f s).unitFails = s.unitFails := by unfold modAcc; split <;> rfl
@[simp] theorem modAcc_ssd (id : Nat) (f : Acc → Acc) (s : State) : (modAcc id f s).ssd = s.ssd := by unfold modAcc; split <;> rfl
@[simp] theorem modAcc_slots (id : Nat) (f : Acc → Acc) (s : State) : (modAcc id f s).slots = s.slots := by unfold modAcc; split <;> rfl
@[simp] theorem modAcc_g (id : Nat) (f : Acc → Acc) (s : State) : (modAcc id f s).g = s.g := by unfold modAcc; split <;> rfl
@[simp] theorem modAcc_k (id : Nat) (f : Acc → Acc) (s : State) : (modAcc id f s).k = s.k := by unfold modAcc; split <;> rfl
@[simp] theorem modAcc_q (id : Nat) (f : Acc → Acc) (s : State) : (modAcc id f s).q = s.q := by unfold modAcc; split <;> rfl
@[simp] theorem modAcc_place (id : Nat) (f : Acc → Acc) (s : State) : (modAcc id f s).place = s.place := by unfold modAcc; split <;> rfl
@[simp] theorem modAcc_file (id : Nat) (f : Acc → Acc) (s : State) : (modAcc id f s).file = s.file := by unfold modAcc; split <;> rfl
@[simp] theorem modAcc_cores (id : Nat) (f : Acc → Acc) (s : State) : (modAcc id f s).cores = s.cores := by unfold modAcc; split <;> rfl
@[simp] theorem modAcc_rt (id : Nat) (f : Acc → Acc) (s : State) : (modAcc id f s).rt = s.rt := by unfold modAcc; split <;> rfl
@[simp] theorem modAcc_binds (id : Nat) (f : Acc → Acc) (s : State) : (modAcc id f s).binds = s.binds := by unfold modAcc; split <;> rfl
@[simp] theorem modAcc_pairs (id : Nat) (f : Acc → Acc) (s : State) : (modAcc id f s).pairs = s.pairs := by unfold modAcc; split <;> rfl
@[simp] theorem modAcc_rx (id : Nat) (f : Acc → Acc) (s : State) : (modAcc id f s).rx = s.rx := by unfold modAcc; split <;> rfl
@[simp] theorem modAcc_ext (id : Nat) (f : Acc → Acc) (s : State) : (modAcc id f s).ext = s.ext := by unfold modAcc; split <;> rfl
@[simp] theorem modAcc_v (id : Nat) (f : Acc → Acc) (s : State) : (modAcc id f s).v = s.v := by unfold modAcc; split <;> rfl
@[simp] theorem modAcc_vq (id : Nat) (f : Acc → Acc) (s : State) : (modAcc id f s).vq = s.vq := by unfold modAcc; split <;> rfl
@[simp] theorem modAcc_good (id : Nat) (f : Acc → Acc) (s : State) : (modAcc id f s).good = s.good := by unfold modAcc; split <;> rfl
@[simp] theorem modAcc_banks (id : Nat) (f : Acc → Acc) (s : State) : (modAcc id f s).banks = s.banks := by unfold modAcc; split <;> rfl
@[simp] theorem modAcc_engines (id : Nat) (f : Acc → Acc) (s : State) : (modAcc id f s).engines = s.engines := by unfold modAcc; split <;> rfl
@[simp] theorem modAcc_news (id : Nat) (f : Acc → Acc) (s : State) : (modAcc id f s).news = s.news := by unfold modAcc; split <;> rfl
@[simp] theorem modAcc_cmds (id : Nat) (f : Acc → Acc) (s : State) : (modAcc id f s).cmds = s.cmds := by unfold modAcc; split <;> rfl
@[simp] theorem modAcc_tiles (id : Nat) (f : Acc → Acc) (s : State) : (modAcc id f s).tiles = s.tiles := by unfold modAcc; split <;> rfl
@[simp] theorem modAcc_acc (id : Nat) (f : Acc → Acc) (s : State) : (modAcc id f s).acc = s.acc := by unfold modAcc; split <;> rfl
@[simp] theorem modAcc_macros (id : Nat) (f : Acc → Acc) (s : State) : (modAcc id f s).macros = s.macros := by unfold modAcc; split <;> rfl
@[simp] theorem modAcc_dirty (id : Nat) (f : Acc → Acc) (s : State) : (modAcc id f s).dirty = s.dirty := by unfold modAcc; split <;> rfl
@[simp] theorem modAcc_guards (id : Nat) (f : Acc → Acc) (s : State) : (modAcc id f s).guards = s.guards := by unfold modAcc; split <;> rfl
@[simp] theorem modAcc_wbs (id : Nat) (f : Acc → Acc) (s : State) : (modAcc id f s).wbs = s.wbs := by unfold modAcc; split <;> rfl
@[simp] theorem modAcc_hops (id : Nat) (f : Acc → Acc) (s : State) : (modAcc id f s).hops = s.hops := by unfold modAcc; split <;> rfl
@[simp] theorem modAcc_cnGrp (id : Nat) (f : Acc → Acc) (s : State) : (modAcc id f s).cnGrp = s.cnGrp := by unfold modAcc; split <;> rfl
@[simp] theorem modAcc_cnInst (id : Nat) (f : Acc → Acc) (s : State) : (modAcc id f s).cnInst = s.cnInst := by unfold modAcc; split <;> rfl
@[simp] theorem modAcc_cnNext (id : Nat) (f : Acc → Acc) (s : State) : (modAcc id f s).cnNext = s.cnNext := by unfold modAcc; split <;> rfl
@[simp] theorem modAcc_cnWait (id : Nat) (f : Acc → Acc) (s : State) : (modAcc id f s).cnWait = s.cnWait := by unfold modAcc; split <;> rfl
@[simp] theorem modAcc_cnErr (id : Nat) (f : Acc → Acc) (s : State) : (modAcc id f s).cnErr = s.cnErr := by unfold modAcc; split <;> rfl
@[simp] theorem modAcc_ferGrp (id : Nat) (f : Acc → Acc) (s : State) : (modAcc id f s).ferGrp = s.ferGrp := by unfold modAcc; split <;> rfl
@[simp] theorem modAcc_ferSlot (id : Nat) (f : Acc → Acc) (s : State) : (modAcc id f s).ferSlot = s.ferSlot := by unfold modAcc; split <;> rfl
@[simp] theorem modAcc_fer (id : Nat) (f : Acc → Acc) (s : State) : (modAcc id f s).fer = s.fer := by unfold modAcc; split <;> rfl
@[simp] theorem modAcc_tduq (id : Nat) (f : Acc → Acc) (s : State) : (modAcc id f s).tduq = s.tduq := by unfold modAcc; split <;> rfl
@[simp] theorem modAcc_parts (id : Nat) (f : Acc → Acc) (s : State) : (modAcc id f s).parts = s.parts := by unfold modAcc; split <;> rfl
@[simp] theorem modAcc_gangs (id : Nat) (f : Acc → Acc) (s : State) : (modAcc id f s).gangs = s.gangs := by unfold modAcc; split <;> rfl
@[simp] theorem modAcc_bars (id : Nat) (f : Acc → Acc) (s : State) : (modAcc id f s).bars = s.bars := by unfold modAcc; split <;> rfl
@[simp] theorem modAcc_groups (id : Nat) (f : Acc → Acc) (s : State) : (modAcc id f s).groups = s.groups := by unfold modAcc; split <;> rfl
@[simp] theorem modAcc_mtus (id : Nat) (f : Acc → Acc) (s : State) : (modAcc id f s).mtus = s.mtus := by unfold modAcc; split <;> rfl
@[simp] theorem modAcc_own (id : Nat) (f : Acc → Acc) (s : State) : (modAcc id f s).own = s.own := by unfold modAcc; split <;> rfl
@[simp] theorem modAcc_sqes (id : Nat) (f : Acc → Acc) (s : State) : (modAcc id f s).sqes = s.sqes := by unfold modAcc; split <;> rfl
@[simp] theorem modAcc_fills (id : Nat) (f : Acc → Acc) (s : State) : (modAcc id f s).fills = s.fills := by unfold modAcc; split <;> rfl
@[simp] theorem modAcc_ports (id : Nat) (f : Acc → Acc) (s : State) : (modAcc id f s).ports = s.ports := by unfold modAcc; split <;> rfl
@[simp] theorem modAcc_pkts (id : Nat) (f : Acc → Acc) (s : State) : (modAcc id f s).pkts = s.pkts := by unfold modAcc; split <;> rfl
@[simp] theorem modAcc_trcs (id : Nat) (f : Acc → Acc) (s : State) : (modAcc id f s).trcs = s.trcs := by unfold modAcc; split <;> rfl
@[simp] theorem modAcc_trcp (id : Nat) (f : Acc → Acc) (s : State) : (modAcc id f s).trcp = s.trcp := by unfold modAcc; split <;> rfl
@[simp] theorem modAcc_pkgs (id : Nat) (f : Acc → Acc) (s : State) : (modAcc id f s).pkgs = s.pkgs := by unfold modAcc; split <;> rfl
@[simp] theorem modAcc_saves (id : Nat) (f : Acc → Acc) (s : State) : (modAcc id f s).saves = s.saves := by unfold modAcc; split <;> rfl
theorem modAcc_find (id : Nat) (f : Acc → Acc) (s : State) : tfind (modAcc id f s).accs id = (tfind s.accs id).map f := by
  unfold modAcc; split <;> simp_all

/-! ### modCmd -/

@[simp] theorem modCmd_now (id : Nat) (f : Cmd → Cmd) (s : State) : (modCmd id f s).now = s.now := by unfold modCmd; split <;> rfl
@[simp] theorem modCmd_nextId (id : Nat) (f : Cmd → Cmd) (s : State) : (modCmd id f s).nextId = s.nextId := by unfold modCmd; split <;> rfl
@[simp] theorem modCmd_free (id : Nat) (f : Cmd → Cmd) (s : State) : (modCmd id f s).free = s.free := by unfold modCmd; split <;> rfl
@[simp] theorem modCmd_cur (id : Nat) (f : Cmd → Cmd) (s : State) : (modCmd id f s).cur = s.cur := by unfold modCmd; split <;> rfl
@[simp] theorem modCmd_ev (id : Nat) (f : Cmd → Cmd) (s : State) : (modCmd id f s).ev = s.ev := by unfold modCmd; split <;> rfl
@[simp] theorem modCmd_agenda (id : Nat) (f : Cmd → Cmd) (s : State) : (modCmd id f s).agenda = s.agenda := by unfold modCmd; split <;> rfl
@[simp] theorem modCmd_mem (id : Nat) (f : Cmd → Cmd) (s : State) : (modCmd id f s).mem = s.mem := by unfold modCmd; split <;> rfl
@[simp] theorem modCmd_olds (id : Nat) (f : Cmd → Cmd) (s : State) : (modCmd id f s).olds = s.olds := by unfold modCmd; split <;> rfl
@[simp] theorem modCmd_hands (id : Nat) (f : Cmd → Cmd) (s : State) : (modCmd id f s).hands = s.hands := by unfold modCmd; split <;> rfl
@[simp] theorem modCmd_decs (id : Nat) (f : Cmd → Cmd) (s : State) : (modCmd id f s).decs = s.decs := by unfold modCmd; split <;> rfl
@[simp] theorem modCmd_parcelFails (id : Nat) (f : Cmd → Cmd) (s : State) : (modCmd id f s).parcelFails = s.parcelFails := by unfold modCmd; split <;> rfl
@[simp] theorem modCmd_unitFails (id : Nat) (f : Cmd → Cmd) (s : State) : (modCmd id f s).unitFails = s.unitFails := by unfold modCmd; split <;> rfl
@[simp] theorem modCmd_ssd (id : Nat) (f : Cmd → Cmd) (s : State) : (modCmd id f s).ssd = s.ssd := by unfold modCmd; split <;> rfl
@[simp] theorem modCmd_slots (id : Nat) (f : Cmd → Cmd) (s : State) : (modCmd id f s).slots = s.slots := by unfold modCmd; split <;> rfl
@[simp] theorem modCmd_g (id : Nat) (f : Cmd → Cmd) (s : State) : (modCmd id f s).g = s.g := by unfold modCmd; split <;> rfl
@[simp] theorem modCmd_k (id : Nat) (f : Cmd → Cmd) (s : State) : (modCmd id f s).k = s.k := by unfold modCmd; split <;> rfl
@[simp] theorem modCmd_q (id : Nat) (f : Cmd → Cmd) (s : State) : (modCmd id f s).q = s.q := by unfold modCmd; split <;> rfl
@[simp] theorem modCmd_place (id : Nat) (f : Cmd → Cmd) (s : State) : (modCmd id f s).place = s.place := by unfold modCmd; split <;> rfl
@[simp] theorem modCmd_file (id : Nat) (f : Cmd → Cmd) (s : State) : (modCmd id f s).file = s.file := by unfold modCmd; split <;> rfl
@[simp] theorem modCmd_cores (id : Nat) (f : Cmd → Cmd) (s : State) : (modCmd id f s).cores = s.cores := by unfold modCmd; split <;> rfl
@[simp] theorem modCmd_rt (id : Nat) (f : Cmd → Cmd) (s : State) : (modCmd id f s).rt = s.rt := by unfold modCmd; split <;> rfl
@[simp] theorem modCmd_binds (id : Nat) (f : Cmd → Cmd) (s : State) : (modCmd id f s).binds = s.binds := by unfold modCmd; split <;> rfl
@[simp] theorem modCmd_pairs (id : Nat) (f : Cmd → Cmd) (s : State) : (modCmd id f s).pairs = s.pairs := by unfold modCmd; split <;> rfl
@[simp] theorem modCmd_rx (id : Nat) (f : Cmd → Cmd) (s : State) : (modCmd id f s).rx = s.rx := by unfold modCmd; split <;> rfl
@[simp] theorem modCmd_ext (id : Nat) (f : Cmd → Cmd) (s : State) : (modCmd id f s).ext = s.ext := by unfold modCmd; split <;> rfl
@[simp] theorem modCmd_v (id : Nat) (f : Cmd → Cmd) (s : State) : (modCmd id f s).v = s.v := by unfold modCmd; split <;> rfl
@[simp] theorem modCmd_vq (id : Nat) (f : Cmd → Cmd) (s : State) : (modCmd id f s).vq = s.vq := by unfold modCmd; split <;> rfl
@[simp] theorem modCmd_good (id : Nat) (f : Cmd → Cmd) (s : State) : (modCmd id f s).good = s.good := by unfold modCmd; split <;> rfl
@[simp] theorem modCmd_accs (id : Nat) (f : Cmd → Cmd) (s : State) : (modCmd id f s).accs = s.accs := by unfold modCmd; split <;> rfl
@[simp] theorem modCmd_banks (id : Nat) (f : Cmd → Cmd) (s : State) : (modCmd id f s).banks = s.banks := by unfold modCmd; split <;> rfl
@[simp] theorem modCmd_engines (id : Nat) (f : Cmd → Cmd) (s : State) : (modCmd id f s).engines = s.engines := by unfold modCmd; split <;> rfl
@[simp] theorem modCmd_news (id : Nat) (f : Cmd → Cmd) (s : State) : (modCmd id f s).news = s.news := by unfold modCmd; split <;> rfl
@[simp] theorem modCmd_tiles (id : Nat) (f : Cmd → Cmd) (s : State) : (modCmd id f s).tiles = s.tiles := by unfold modCmd; split <;> rfl
@[simp] theorem modCmd_acc (id : Nat) (f : Cmd → Cmd) (s : State) : (modCmd id f s).acc = s.acc := by unfold modCmd; split <;> rfl
@[simp] theorem modCmd_macros (id : Nat) (f : Cmd → Cmd) (s : State) : (modCmd id f s).macros = s.macros := by unfold modCmd; split <;> rfl
@[simp] theorem modCmd_dirty (id : Nat) (f : Cmd → Cmd) (s : State) : (modCmd id f s).dirty = s.dirty := by unfold modCmd; split <;> rfl
@[simp] theorem modCmd_guards (id : Nat) (f : Cmd → Cmd) (s : State) : (modCmd id f s).guards = s.guards := by unfold modCmd; split <;> rfl
@[simp] theorem modCmd_wbs (id : Nat) (f : Cmd → Cmd) (s : State) : (modCmd id f s).wbs = s.wbs := by unfold modCmd; split <;> rfl
@[simp] theorem modCmd_hops (id : Nat) (f : Cmd → Cmd) (s : State) : (modCmd id f s).hops = s.hops := by unfold modCmd; split <;> rfl
@[simp] theorem modCmd_cnGrp (id : Nat) (f : Cmd → Cmd) (s : State) : (modCmd id f s).cnGrp = s.cnGrp := by unfold modCmd; split <;> rfl
@[simp] theorem modCmd_cnInst (id : Nat) (f : Cmd → Cmd) (s : State) : (modCmd id f s).cnInst = s.cnInst := by unfold modCmd; split <;> rfl
@[simp] theorem modCmd_cnNext (id : Nat) (f : Cmd → Cmd) (s : State) : (modCmd id f s).cnNext = s.cnNext := by unfold modCmd; split <;> rfl
@[simp] theorem modCmd_cnWait (id : Nat) (f : Cmd → Cmd) (s : State) : (modCmd id f s).cnWait = s.cnWait := by unfold modCmd; split <;> rfl
@[simp] theorem modCmd_cnErr (id : Nat) (f : Cmd → Cmd) (s : State) : (modCmd id f s).cnErr = s.cnErr := by unfold modCmd; split <;> rfl
@[simp] theorem modCmd_ferGrp (id : Nat) (f : Cmd → Cmd) (s : State) : (modCmd id f s).ferGrp = s.ferGrp := by unfold modCmd; split <;> rfl
@[simp] theorem modCmd_ferSlot (id : Nat) (f : Cmd → Cmd) (s : State) : (modCmd id f s).ferSlot = s.ferSlot := by unfold modCmd; split <;> rfl
@[simp] theorem modCmd_fer (id : Nat) (f : Cmd → Cmd) (s : State) : (modCmd id f s).fer = s.fer := by unfold modCmd; split <;> rfl
@[simp] theorem modCmd_tduq (id : Nat) (f : Cmd → Cmd) (s : State) : (modCmd id f s).tduq = s.tduq := by unfold modCmd; split <;> rfl
@[simp] theorem modCmd_parts (id : Nat) (f : Cmd → Cmd) (s : State) : (modCmd id f s).parts = s.parts := by unfold modCmd; split <;> rfl
@[simp] theorem modCmd_gangs (id : Nat) (f : Cmd → Cmd) (s : State) : (modCmd id f s).gangs = s.gangs := by unfold modCmd; split <;> rfl
@[simp] theorem modCmd_bars (id : Nat) (f : Cmd → Cmd) (s : State) : (modCmd id f s).bars = s.bars := by unfold modCmd; split <;> rfl
@[simp] theorem modCmd_groups (id : Nat) (f : Cmd → Cmd) (s : State) : (modCmd id f s).groups = s.groups := by unfold modCmd; split <;> rfl
@[simp] theorem modCmd_mtus (id : Nat) (f : Cmd → Cmd) (s : State) : (modCmd id f s).mtus = s.mtus := by unfold modCmd; split <;> rfl
@[simp] theorem modCmd_own (id : Nat) (f : Cmd → Cmd) (s : State) : (modCmd id f s).own = s.own := by unfold modCmd; split <;> rfl
@[simp] theorem modCmd_sqes (id : Nat) (f : Cmd → Cmd) (s : State) : (modCmd id f s).sqes = s.sqes := by unfold modCmd; split <;> rfl
@[simp] theorem modCmd_fills (id : Nat) (f : Cmd → Cmd) (s : State) : (modCmd id f s).fills = s.fills := by unfold modCmd; split <;> rfl
@[simp] theorem modCmd_ports (id : Nat) (f : Cmd → Cmd) (s : State) : (modCmd id f s).ports = s.ports := by unfold modCmd; split <;> rfl
@[simp] theorem modCmd_pkts (id : Nat) (f : Cmd → Cmd) (s : State) : (modCmd id f s).pkts = s.pkts := by unfold modCmd; split <;> rfl
@[simp] theorem modCmd_trcs (id : Nat) (f : Cmd → Cmd) (s : State) : (modCmd id f s).trcs = s.trcs := by unfold modCmd; split <;> rfl
@[simp] theorem modCmd_trcp (id : Nat) (f : Cmd → Cmd) (s : State) : (modCmd id f s).trcp = s.trcp := by unfold modCmd; split <;> rfl
@[simp] theorem modCmd_pkgs (id : Nat) (f : Cmd → Cmd) (s : State) : (modCmd id f s).pkgs = s.pkgs := by unfold modCmd; split <;> rfl
@[simp] theorem modCmd_saves (id : Nat) (f : Cmd → Cmd) (s : State) : (modCmd id f s).saves = s.saves := by unfold modCmd; split <;> rfl
theorem modCmd_find (id : Nat) (f : Cmd → Cmd) (s : State) : tfind (modCmd id f s).cmds id = (tfind s.cmds id).map f := by
  unfold modCmd; split <;> simp_all

/-! ### modGang -/

@[simp] theorem modGang_now (id : Nat) (f : Gang → Gang) (s : State) : (modGang id f s).now = s.now := by unfold modGang; split <;> rfl
@[simp] theorem modGang_nextId (id : Nat) (f : Gang → Gang) (s : State) : (modGang id f s).nextId = s.nextId := by unfold modGang; split <;> rfl
@[simp] theorem modGang_free (id : Nat) (f : Gang → Gang) (s : State) : (modGang id f s).free = s.free := by unfold modGang; split <;> rfl
@[simp] theorem modGang_cur (id : Nat) (f : Gang → Gang) (s : State) : (modGang id f s).cur = s.cur := by unfold modGang; split <;> rfl
@[simp] theorem modGang_ev (id : Nat) (f : Gang → Gang) (s : State) : (modGang id f s).ev = s.ev := by unfold modGang; split <;> rfl
@[simp] theorem modGang_agenda (id : Nat) (f : Gang → Gang) (s : State) : (modGang id f s).agenda = s.agenda := by unfold modGang; split <;> rfl
@[simp] theorem modGang_mem (id : Nat) (f : Gang → Gang) (s : State) : (modGang id f s).mem = s.mem := by unfold modGang; split <;> rfl
@[simp] theorem modGang_olds (id : Nat) (f : Gang → Gang) (s : State) : (modGang id f s).olds = s.olds := by unfold modGang; split <;> rfl
@[simp] theorem modGang_hands (id : Nat) (f : Gang → Gang) (s : State) : (modGang id f s).hands = s.hands := by unfold modGang; split <;> rfl
@[simp] theorem modGang_decs (id : Nat) (f : Gang → Gang) (s : State) : (modGang id f s).decs = s.decs := by unfold modGang; split <;> rfl
@[simp] theorem modGang_parcelFails (id : Nat) (f : Gang → Gang) (s : State) : (modGang id f s).parcelFails = s.parcelFails := by unfold modGang; split <;> rfl
@[simp] theorem modGang_unitFails (id : Nat) (f : Gang → Gang) (s : State) : (modGang id f s).unitFails = s.unitFails := by unfold modGang; split <;> rfl
@[simp] theorem modGang_ssd (id : Nat) (f : Gang → Gang) (s : State) : (modGang id f s).ssd = s.ssd := by unfold modGang; split <;> rfl
@[simp] theorem modGang_slots (id : Nat) (f : Gang → Gang) (s : State) : (modGang id f s).slots = s.slots := by unfold modGang; split <;> rfl
@[simp] theorem modGang_g (id : Nat) (f : Gang → Gang) (s : State) : (modGang id f s).g = s.g := by unfold modGang; split <;> rfl
@[simp] theorem modGang_k (id : Nat) (f : Gang → Gang) (s : State) : (modGang id f s).k = s.k := by unfold modGang; split <;> rfl
@[simp] theorem modGang_q (id : Nat) (f : Gang → Gang) (s : State) : (modGang id f s).q = s.q := by unfold modGang; split <;> rfl
@[simp] theorem modGang_place (id : Nat) (f : Gang → Gang) (s : State) : (modGang id f s).place = s.place := by unfold modGang; split <;> rfl
@[simp] theorem modGang_file (id : Nat) (f : Gang → Gang) (s : State) : (modGang id f s).file = s.file := by unfold modGang; split <;> rfl
@[simp] theorem modGang_cores (id : Nat) (f : Gang → Gang) (s : State) : (modGang id f s).cores = s.cores := by unfold modGang; split <;> rfl
@[simp] theorem modGang_rt (id : Nat) (f : Gang → Gang) (s : State) : (modGang id f s).rt = s.rt := by unfold modGang; split <;> rfl
@[simp] theorem modGang_binds (id : Nat) (f : Gang → Gang) (s : State) : (modGang id f s).binds = s.binds := by unfold modGang; split <;> rfl
@[simp] theorem modGang_pairs (id : Nat) (f : Gang → Gang) (s : State) : (modGang id f s).pairs = s.pairs := by unfold modGang; split <;> rfl
@[simp] theorem modGang_rx (id : Nat) (f : Gang → Gang) (s : State) : (modGang id f s).rx = s.rx := by unfold modGang; split <;> rfl
@[simp] theorem modGang_ext (id : Nat) (f : Gang → Gang) (s : State) : (modGang id f s).ext = s.ext := by unfold modGang; split <;> rfl
@[simp] theorem modGang_v (id : Nat) (f : Gang → Gang) (s : State) : (modGang id f s).v = s.v := by unfold modGang; split <;> rfl
@[simp] theorem modGang_vq (id : Nat) (f : Gang → Gang) (s : State) : (modGang id f s).vq = s.vq := by unfold modGang; split <;> rfl
@[simp] theorem modGang_good (id : Nat) (f : Gang → Gang) (s : State) : (modGang id f s).good = s.good := by unfold modGang; split <;> rfl
@[simp] theorem modGang_accs (id : Nat) (f : Gang → Gang) (s : State) : (modGang id f s).accs = s.accs := by unfold modGang; split <;> rfl
@[simp] theorem modGang_banks (id : Nat) (f : Gang → Gang) (s : State) : (modGang id f s).banks = s.banks := by unfold modGang; split <;> rfl
@[simp] theorem modGang_engines (id : Nat) (f : Gang → Gang) (s : State) : (modGang id f s).engines = s.engines := by unfold modGang; split <;> rfl
@[simp] theorem modGang_news (id : Nat) (f : Gang → Gang) (s : State) : (modGang id f s).news = s.news := by unfold modGang; split <;> rfl
@[simp] theorem modGang_cmds (id : Nat) (f : Gang → Gang) (s : State) : (modGang id f s).cmds = s.cmds := by unfold modGang; split <;> rfl
@[simp] theorem modGang_tiles (id : Nat) (f : Gang → Gang) (s : State) : (modGang id f s).tiles = s.tiles := by unfold modGang; split <;> rfl
@[simp] theorem modGang_acc (id : Nat) (f : Gang → Gang) (s : State) : (modGang id f s).acc = s.acc := by unfold modGang; split <;> rfl
@[simp] theorem modGang_macros (id : Nat) (f : Gang → Gang) (s : State) : (modGang id f s).macros = s.macros := by unfold modGang; split <;> rfl
@[simp] theorem modGang_dirty (id : Nat) (f : Gang → Gang) (s : State) : (modGang id f s).dirty = s.dirty := by unfold modGang; split <;> rfl
@[simp] theorem modGang_guards (id : Nat) (f : Gang → Gang) (s : State) : (modGang id f s).guards = s.guards := by unfold modGang; split <;> rfl
@[simp] theorem modGang_wbs (id : Nat) (f : Gang → Gang) (s : State) : (modGang id f s).wbs = s.wbs := by unfold modGang; split <;> rfl
@[simp] theorem modGang_hops (id : Nat) (f : Gang → Gang) (s : State) : (modGang id f s).hops = s.hops := by unfold modGang; split <;> rfl
@[simp] theorem modGang_cnGrp (id : Nat) (f : Gang → Gang) (s : State) : (modGang id f s).cnGrp = s.cnGrp := by unfold modGang; split <;> rfl
@[simp] theorem modGang_cnInst (id : Nat) (f : Gang → Gang) (s : State) : (modGang id f s).cnInst = s.cnInst := by unfold modGang; split <;> rfl
@[simp] theorem modGang_cnNext (id : Nat) (f : Gang → Gang) (s : State) : (modGang id f s).cnNext = s.cnNext := by unfold modGang; split <;> rfl
@[simp] theorem modGang_cnWait (id : Nat) (f : Gang → Gang) (s : State) : (modGang id f s).cnWait = s.cnWait := by unfold modGang; split <;> rfl
@[simp] theorem modGang_cnErr (id : Nat) (f : Gang → Gang) (s : State) : (modGang id f s).cnErr = s.cnErr := by unfold modGang; split <;> rfl
@[simp] theorem modGang_ferGrp (id : Nat) (f : Gang → Gang) (s : State) : (modGang id f s).ferGrp = s.ferGrp := by unfold modGang; split <;> rfl
@[simp] theorem modGang_ferSlot (id : Nat) (f : Gang → Gang) (s : State) : (modGang id f s).ferSlot = s.ferSlot := by unfold modGang; split <;> rfl
@[simp] theorem modGang_fer (id : Nat) (f : Gang → Gang) (s : State) : (modGang id f s).fer = s.fer := by unfold modGang; split <;> rfl
@[simp] theorem modGang_tduq (id : Nat) (f : Gang → Gang) (s : State) : (modGang id f s).tduq = s.tduq := by unfold modGang; split <;> rfl
@[simp] theorem modGang_parts (id : Nat) (f : Gang → Gang) (s : State) : (modGang id f s).parts = s.parts := by unfold modGang; split <;> rfl
@[simp] theorem modGang_bars (id : Nat) (f : Gang → Gang) (s : State) : (modGang id f s).bars = s.bars := by unfold modGang; split <;> rfl
@[simp] theorem modGang_groups (id : Nat) (f : Gang → Gang) (s : State) : (modGang id f s).groups = s.groups := by unfold modGang; split <;> rfl
@[simp] theorem modGang_mtus (id : Nat) (f : Gang → Gang) (s : State) : (modGang id f s).mtus = s.mtus := by unfold modGang; split <;> rfl
@[simp] theorem modGang_own (id : Nat) (f : Gang → Gang) (s : State) : (modGang id f s).own = s.own := by unfold modGang; split <;> rfl
@[simp] theorem modGang_sqes (id : Nat) (f : Gang → Gang) (s : State) : (modGang id f s).sqes = s.sqes := by unfold modGang; split <;> rfl
@[simp] theorem modGang_fills (id : Nat) (f : Gang → Gang) (s : State) : (modGang id f s).fills = s.fills := by unfold modGang; split <;> rfl
@[simp] theorem modGang_ports (id : Nat) (f : Gang → Gang) (s : State) : (modGang id f s).ports = s.ports := by unfold modGang; split <;> rfl
@[simp] theorem modGang_pkts (id : Nat) (f : Gang → Gang) (s : State) : (modGang id f s).pkts = s.pkts := by unfold modGang; split <;> rfl
@[simp] theorem modGang_trcs (id : Nat) (f : Gang → Gang) (s : State) : (modGang id f s).trcs = s.trcs := by unfold modGang; split <;> rfl
@[simp] theorem modGang_trcp (id : Nat) (f : Gang → Gang) (s : State) : (modGang id f s).trcp = s.trcp := by unfold modGang; split <;> rfl
@[simp] theorem modGang_pkgs (id : Nat) (f : Gang → Gang) (s : State) : (modGang id f s).pkgs = s.pkgs := by unfold modGang; split <;> rfl
@[simp] theorem modGang_saves (id : Nat) (f : Gang → Gang) (s : State) : (modGang id f s).saves = s.saves := by unfold modGang; split <;> rfl
theorem modGang_find (id : Nat) (f : Gang → Gang) (s : State) : tfind (modGang id f s).gangs id = (tfind s.gangs id).map f := by
  unfold modGang; split <;> simp_all

/-! ### slotAt -/

@[simp] theorem slotAt_modSlot_self (i : Nat) (f : Slot → Slot) (s : State) : slotAt (modSlot i f s) i = f (slotAt s i) := by
  simp [slotAt, modSlot, putSlot]
theorem slotAt_modSlot_of_ne {i j : Nat} (f : Slot → Slot) (s : State) (h : j ≠ i) : slotAt (modSlot i f s) j = slotAt s j := by
  simp [slotAt, modSlot, putSlot, tget_tput_of_ne _ _ _ h]

/-! ### coreAt -/

@[simp] theorem coreAt_modCore_self (i : Nat) (f : Core → Core) (s : State) : coreAt (modCore i f s) i = f (coreAt s i) := by
  simp [coreAt, modCore, putCore]
theorem coreAt_modCore_of_ne {i j : Nat} (f : Core → Core) (s : State) (h : j ≠ i) : coreAt (modCore i f s) j = coreAt s j := by
  simp [coreAt, modCore, putCore, tget_tput_of_ne _ _ _ h]

/-! ### tileAt -/

@[simp] theorem tileAt_modTile_self (i : Nat) (f : Tile → Tile) (s : State) : tileAt (modTile i f s) i = f (tileAt s i) := by
  simp [tileAt, modTile]
theorem tileAt_modTile_of_ne {i j : Nat} (f : Tile → Tile) (s : State) (h : j ≠ i) : tileAt (modTile i f s) j = tileAt s j := by
  simp [tileAt, modTile, tget_tput_of_ne _ _ _ h]

/-! ### partAt -/

@[simp] theorem partAt_modPart_self (i : Nat) (f : Part → Part) (s : State) : partAt (modPart i f s) i = f (partAt s i) := by
  simp [partAt, modPart]
theorem partAt_modPart_of_ne {i j : Nat} (f : Part → Part) (s : State) (h : j ≠ i) : partAt (modPart i f s) j = partAt s j := by
  simp [partAt, modPart, tget_tput_of_ne _ _ _ h]

/-! ### pkgAt -/

@[simp] theorem pkgAt_modPkg_self (i : Nat) (f : Pkg → Pkg) (s : State) : pkgAt (modPkg i f s) i = f (pkgAt s i) := by
  simp [pkgAt, modPkg]
theorem pkgAt_modPkg_of_ne {i j : Nat} (f : Pkg → Pkg) (s : State) (h : j ≠ i) : pkgAt (modPkg i f s) j = pkgAt s j := by
  simp [pkgAt, modPkg, tget_tput_of_ne _ _ _ h]

/-! ### rxAt -/

@[simp] theorem rxAt_modRx_self (i : Nat) (f : RxQ → RxQ) (s : State) : rxAt (modRx i f s) i = f (rxAt s i) := by
  simp [rxAt, modRx]
theorem rxAt_modRx_of_ne {i j : Nat} (f : RxQ → RxQ) (s : State) (h : j ≠ i) : rxAt (modRx i f s) j = rxAt s j := by
  simp [rxAt, modRx, tget_tput_of_ne _ _ _ h]

/-! ### bindAt -/

@[simp] theorem bindAt_modBind_self (i : Nat) (f : Binding → Binding) (s : State) : bindAt (modBind i f s) i = f (bindAt s i) := by
  simp [bindAt, modBind]
theorem bindAt_modBind_of_ne {i j : Nat} (f : Binding → Binding) (s : State) (h : j ≠ i) : bindAt (modBind i f s) j = bindAt s j := by
  simp [bindAt, modBind, tget_tput_of_ne _ _ _ h]

@[simp] theorem slotAt_putSlot_self (i : Nat) (x : Slot) (s : State) : slotAt (putSlot i x s) i = x := by simp [slotAt, putSlot]
theorem slotAt_putSlot_of_ne {i j : Nat} (x : Slot) (s : State) (h : j ≠ i) : slotAt (putSlot i x s) j = slotAt s j := by
  simp [slotAt, putSlot, tget_tput_of_ne _ _ _ h]

@[simp] theorem coreAt_putCore_self (i : Nat) (x : Core) (s : State) : coreAt (putCore i x s) i = x := by simp [coreAt, putCore]
theorem coreAt_putCore_of_ne {i j : Nat} (x : Core) (s : State) (h : j ≠ i) : coreAt (putCore i x s) j = coreAt s j := by
  simp [coreAt, putCore, tget_tput_of_ne _ _ _ h]

/-! ### slotAt through the other updates -/

@[simp] theorem slotAt_putCore (cid : Nat) (x : Core) (s : State) (i_ : Nat) : slotAt (putCore cid x s) i_ = slotAt s i_ := rfl
@[simp] theorem slotAt_modCore (cid : Nat) (f : Core → Core) (s : State) (i_ : Nat) : slotAt (modCore cid f s) i_ = slotAt s i_ := rfl
@[simp] theorem slotAt_modTile (tid : Nat) (f : Tile → Tile) (s : State) (i_ : Nat) : slotAt (modTile tid f s) i_ = slotAt s i_ := rfl
@[simp] theorem slotAt_modPart (pk : Nat) (f : Part → Part) (s : State) (i_ : Nat) : slotAt (modPart pk f s) i_ = slotAt s i_ := rfl
@[simp] theorem slotAt_modPkg (p : Nat) (f : Pkg → Pkg) (s : State) (i_ : Nat) : slotAt (modPkg p f s) i_ = slotAt s i_ := rfl
@[simp] theorem slotAt_modRx (rk : Nat) (f : RxQ → RxQ) (s : State) (i_ : Nat) : slotAt (modRx rk f s) i_ = slotAt s i_ := rfl
@[simp] theorem slotAt_modBind (e : Nat) (f : Binding → Binding) (s : State) (i_ : Nat) : slotAt (modBind e f s) i_ = slotAt s i_ := rfl
@[simp] theorem slotAt_putRt (e : Nat) (x : Word × Word) (s : State) (i_ : Nat) : slotAt (putRt e x s) i_ = slotAt s i_ := rfl
@[simp] theorem slotAt_post (due : Nat) (ev : Instr) (arg : EvArg) (s : State) (i_ : Nat) : slotAt (post due ev arg s) i_ = slotAt s i_ := rfl
@[simp] theorem slotAt_atCost (k : Nat) (s : State) (i_ : Nat) : slotAt (atCost k s) i_ = slotAt s i_ := rfl
@[simp] theorem slotAt_transfer (t k : Nat) (s : State) (i_ : Nat) : slotAt (transfer t k s) i_ = slotAt s i_ := rfl

/-! ### coreAt through the other updates -/

@[simp] theorem coreAt_putSlot (sid : Nat) (x : Slot) (s : State) (i_ : Nat) : coreAt (putSlot sid x s) i_ = coreAt s i_ := rfl
@[simp] theorem coreAt_modSlot (sid : Nat) (f : Slot → Slot) (s : State) (i_ : Nat) : coreAt (modSlot sid f s) i_ = coreAt s i_ := rfl
@[simp] theorem coreAt_modTile (tid : Nat) (f : Tile → Tile) (s : State) (i_ : Nat) : coreAt (modTile tid f s) i_ = coreAt s i_ := rfl
@[simp] theorem coreAt_modPart (pk : Nat) (f : Part → Part) (s : State) (i_ : Nat) : coreAt (modPart pk f s) i_ = coreAt s i_ := rfl
@[simp] theorem coreAt_modPkg (p : Nat) (f : Pkg → Pkg) (s : State) (i_ : Nat) : coreAt (modPkg p f s) i_ = coreAt s i_ := rfl
@[simp] theorem coreAt_modRx (rk : Nat) (f : RxQ → RxQ) (s : State) (i_ : Nat) : coreAt (modRx rk f s) i_ = coreAt s i_ := rfl
@[simp] theorem coreAt_modBind (e : Nat) (f : Binding → Binding) (s : State) (i_ : Nat) : coreAt (modBind e f s) i_ = coreAt s i_ := rfl
@[simp] theorem coreAt_putRt (e : Nat) (x : Word × Word) (s : State) (i_ : Nat) : coreAt (putRt e x s) i_ = coreAt s i_ := rfl
@[simp] theorem coreAt_post (due : Nat) (ev : Instr) (arg : EvArg) (s : State) (i_ : Nat) : coreAt (post due ev arg s) i_ = coreAt s i_ := rfl
@[simp] theorem coreAt_atCost (k : Nat) (s : State) (i_ : Nat) : coreAt (atCost k s) i_ = coreAt s i_ := rfl
@[simp] theorem coreAt_transfer (t k : Nat) (s : State) (i_ : Nat) : coreAt (transfer t k s) i_ = coreAt s i_ := rfl

/-! ### tileAt through the other updates -/

@[simp] theorem tileAt_putSlot (sid : Nat) (x : Slot) (s : State) (i_ : Nat) : tileAt (putSlot sid x s) i_ = tileAt s i_ := rfl
@[simp] theorem tileAt_modSlot (sid : Nat) (f : Slot → Slot) (s : State) (i_ : Nat) : tileAt (modSlot sid f s) i_ = tileAt s i_ := rfl
@[simp] theorem tileAt_putCore (cid : Nat) (x : Core) (s : State) (i_ : Nat) : tileAt (putCore cid x s) i_ = tileAt s i_ := rfl
@[simp] theorem tileAt_modCore (cid : Nat) (f : Core → Core) (s : State) (i_ : Nat) : tileAt (modCore cid f s) i_ = tileAt s i_ := rfl
@[simp] theorem tileAt_modPart (pk : Nat) (f : Part → Part) (s : State) (i_ : Nat) : tileAt (modPart pk f s) i_ = tileAt s i_ := rfl
@[simp] theorem tileAt_modPkg (p : Nat) (f : Pkg → Pkg) (s : State) (i_ : Nat) : tileAt (modPkg p f s) i_ = tileAt s i_ := rfl
@[simp] theorem tileAt_modRx (rk : Nat) (f : RxQ → RxQ) (s : State) (i_ : Nat) : tileAt (modRx rk f s) i_ = tileAt s i_ := rfl
@[simp] theorem tileAt_modBind (e : Nat) (f : Binding → Binding) (s : State) (i_ : Nat) : tileAt (modBind e f s) i_ = tileAt s i_ := rfl
@[simp] theorem tileAt_putRt (e : Nat) (x : Word × Word) (s : State) (i_ : Nat) : tileAt (putRt e x s) i_ = tileAt s i_ := rfl
@[simp] theorem tileAt_post (due : Nat) (ev : Instr) (arg : EvArg) (s : State) (i_ : Nat) : tileAt (post due ev arg s) i_ = tileAt s i_ := rfl
@[simp] theorem tileAt_atCost (k : Nat) (s : State) (i_ : Nat) : tileAt (atCost k s) i_ = tileAt s i_ := rfl
@[simp] theorem tileAt_transfer (t k : Nat) (s : State) (i_ : Nat) : tileAt (transfer t k s) i_ = tileAt s i_ := rfl

/-! ### partAt through the other updates -/

@[simp] theorem partAt_putSlot (sid : Nat) (x : Slot) (s : State) (i_ : Nat) : partAt (putSlot sid x s) i_ = partAt s i_ := rfl
@[simp] theorem partAt_modSlot (sid : Nat) (f : Slot → Slot) (s : State) (i_ : Nat) : partAt (modSlot sid f s) i_ = partAt s i_ := rfl
@[simp] theorem partAt_putCore (cid : Nat) (x : Core) (s : State) (i_ : Nat) : partAt (putCore cid x s) i_ = partAt s i_ := rfl
@[simp] theorem partAt_modCore (cid : Nat) (f : Core → Core) (s : State) (i_ : Nat) : partAt (modCore cid f s) i_ = partAt s i_ := rfl
@[simp] theorem partAt_modTile (tid : Nat) (f : Tile → Tile) (s : State) (i_ : Nat) : partAt (modTile tid f s) i_ = partAt s i_ := rfl
@[simp] theorem partAt_modPkg (p : Nat) (f : Pkg → Pkg) (s : State) (i_ : Nat) : partAt (modPkg p f s) i_ = partAt s i_ := rfl
@[simp] theorem partAt_modRx (rk : Nat) (f : RxQ → RxQ) (s : State) (i_ : Nat) : partAt (modRx rk f s) i_ = partAt s i_ := rfl
@[simp] theorem partAt_modBind (e : Nat) (f : Binding → Binding) (s : State) (i_ : Nat) : partAt (modBind e f s) i_ = partAt s i_ := rfl
@[simp] theorem partAt_putRt (e : Nat) (x : Word × Word) (s : State) (i_ : Nat) : partAt (putRt e x s) i_ = partAt s i_ := rfl
@[simp] theorem partAt_post (due : Nat) (ev : Instr) (arg : EvArg) (s : State) (i_ : Nat) : partAt (post due ev arg s) i_ = partAt s i_ := rfl
@[simp] theorem partAt_atCost (k : Nat) (s : State) (i_ : Nat) : partAt (atCost k s) i_ = partAt s i_ := rfl
@[simp] theorem partAt_transfer (t k : Nat) (s : State) (i_ : Nat) : partAt (transfer t k s) i_ = partAt s i_ := rfl

/-! ### pkgAt through the other updates -/

@[simp] theorem pkgAt_putSlot (sid : Nat) (x : Slot) (s : State) (i_ : Nat) : pkgAt (putSlot sid x s) i_ = pkgAt s i_ := rfl
@[simp] theorem pkgAt_modSlot (sid : Nat) (f : Slot → Slot) (s : State) (i_ : Nat) : pkgAt (modSlot sid f s) i_ = pkgAt s i_ := rfl
@[simp] theorem pkgAt_putCore (cid : Nat) (x : Core) (s : State) (i_ : Nat) : pkgAt (putCore cid x s) i_ = pkgAt s i_ := rfl
@[simp] theorem pkgAt_modCore (cid : Nat) (f : Core → Core) (s : State) (i_ : Nat) : pkgAt (modCore cid f s) i_ = pkgAt s i_ := rfl
@[simp] theorem pkgAt_modTile (tid : Nat) (f : Tile → Tile) (s : State) (i_ : Nat) : pkgAt (modTile tid f s) i_ = pkgAt s i_ := rfl
@[simp] theorem pkgAt_modPart (pk : Nat) (f : Part → Part) (s : State) (i_ : Nat) : pkgAt (modPart pk f s) i_ = pkgAt s i_ := rfl
@[simp] theorem pkgAt_modRx (rk : Nat) (f : RxQ → RxQ) (s : State) (i_ : Nat) : pkgAt (modRx rk f s) i_ = pkgAt s i_ := rfl
@[simp] theorem pkgAt_modBind (e : Nat) (f : Binding → Binding) (s : State) (i_ : Nat) : pkgAt (modBind e f s) i_ = pkgAt s i_ := rfl
@[simp] theorem pkgAt_putRt (e : Nat) (x : Word × Word) (s : State) (i_ : Nat) : pkgAt (putRt e x s) i_ = pkgAt s i_ := rfl
@[simp] theorem pkgAt_post (due : Nat) (ev : Instr) (arg : EvArg) (s : State) (i_ : Nat) : pkgAt (post due ev arg s) i_ = pkgAt s i_ := rfl
@[simp] theorem pkgAt_atCost (k : Nat) (s : State) (i_ : Nat) : pkgAt (atCost k s) i_ = pkgAt s i_ := rfl
@[simp] theorem pkgAt_transfer (t k : Nat) (s : State) (i_ : Nat) : pkgAt (transfer t k s) i_ = pkgAt s i_ := rfl

/-! ### gGet through the other updates -/

@[simp] theorem gGet_putSlot (sid : Nat) (x : Slot) (s : State) (i_ r_ : Nat) : gGet (putSlot sid x s) i_ r_ = gGet s i_ r_ := rfl
@[simp] theorem gGet_modSlot (sid : Nat) (f : Slot → Slot) (s : State) (i_ r_ : Nat) : gGet (modSlot sid f s) i_ r_ = gGet s i_ r_ := rfl
@[simp] theorem gGet_putCore (cid : Nat) (x : Core) (s : State) (i_ r_ : Nat) : gGet (putCore cid x s) i_ r_ = gGet s i_ r_ := rfl
@[simp] theorem gGet_modCore (cid : Nat) (f : Core → Core) (s : State) (i_ r_ : Nat) : gGet (modCore cid f s) i_ r_ = gGet s i_ r_ := rfl
@[simp] theorem gGet_modTile (tid : Nat) (f : Tile → Tile) (s : State) (i_ r_ : Nat) : gGet (modTile tid f s) i_ r_ = gGet s i_ r_ := rfl
@[simp] theorem gGet_modPart (pk : Nat) (f : Part → Part) (s : State) (i_ r_ : Nat) : gGet (modPart pk f s) i_ r_ = gGet s i_ r_ := rfl
@[simp] theorem gGet_modPkg (p : Nat) (f : Pkg → Pkg) (s : State) (i_ r_ : Nat) : gGet (modPkg p f s) i_ r_ = gGet s i_ r_ := rfl
@[simp] theorem gGet_modRx (rk : Nat) (f : RxQ → RxQ) (s : State) (i_ r_ : Nat) : gGet (modRx rk f s) i_ r_ = gGet s i_ r_ := rfl
@[simp] theorem gGet_modBind (e : Nat) (f : Binding → Binding) (s : State) (i_ r_ : Nat) : gGet (modBind e f s) i_ r_ = gGet s i_ r_ := rfl
@[simp] theorem gGet_putRt (e : Nat) (x : Word × Word) (s : State) (i_ r_ : Nat) : gGet (putRt e x s) i_ r_ = gGet s i_ r_ := rfl
@[simp] theorem gGet_post (due : Nat) (ev : Instr) (arg : EvArg) (s : State) (i_ r_ : Nat) : gGet (post due ev arg s) i_ r_ = gGet s i_ r_ := rfl
@[simp] theorem gGet_atCost (k : Nat) (s : State) (i_ r_ : Nat) : gGet (atCost k s) i_ r_ = gGet s i_ r_ := rfl
@[simp] theorem gGet_transfer (t k : Nat) (s : State) (i_ r_ : Nat) : gGet (transfer t k s) i_ r_ = gGet s i_ r_ := rfl

/-! ### kGet through the other updates -/

@[simp] theorem kGet_putSlot (sid : Nat) (x : Slot) (s : State) (i_ r_ : Nat) : kGet (putSlot sid x s) i_ r_ = kGet s i_ r_ := rfl
@[simp] theorem kGet_modSlot (sid : Nat) (f : Slot → Slot) (s : State) (i_ r_ : Nat) : kGet (modSlot sid f s) i_ r_ = kGet s i_ r_ := rfl
@[simp] theorem kGet_putCore (cid : Nat) (x : Core) (s : State) (i_ r_ : Nat) : kGet (putCore cid x s) i_ r_ = kGet s i_ r_ := rfl
@[simp] theorem kGet_modCore (cid : Nat) (f : Core → Core) (s : State) (i_ r_ : Nat) : kGet (modCore cid f s) i_ r_ = kGet s i_ r_ := rfl
@[simp] theorem kGet_modTile (tid : Nat) (f : Tile → Tile) (s : State) (i_ r_ : Nat) : kGet (modTile tid f s) i_ r_ = kGet s i_ r_ := rfl
@[simp] theorem kGet_modPart (pk : Nat) (f : Part → Part) (s : State) (i_ r_ : Nat) : kGet (modPart pk f s) i_ r_ = kGet s i_ r_ := rfl
@[simp] theorem kGet_modPkg (p : Nat) (f : Pkg → Pkg) (s : State) (i_ r_ : Nat) : kGet (modPkg p f s) i_ r_ = kGet s i_ r_ := rfl
@[simp] theorem kGet_modRx (rk : Nat) (f : RxQ → RxQ) (s : State) (i_ r_ : Nat) : kGet (modRx rk f s) i_ r_ = kGet s i_ r_ := rfl
@[simp] theorem kGet_modBind (e : Nat) (f : Binding → Binding) (s : State) (i_ r_ : Nat) : kGet (modBind e f s) i_ r_ = kGet s i_ r_ := rfl
@[simp] theorem kGet_putRt (e : Nat) (x : Word × Word) (s : State) (i_ r_ : Nat) : kGet (putRt e x s) i_ r_ = kGet s i_ r_ := rfl
@[simp] theorem kGet_post (due : Nat) (ev : Instr) (arg : EvArg) (s : State) (i_ r_ : Nat) : kGet (post due ev arg s) i_ r_ = kGet s i_ r_ := rfl
@[simp] theorem kGet_atCost (k : Nat) (s : State) (i_ r_ : Nat) : kGet (atCost k s) i_ r_ = kGet s i_ r_ := rfl
@[simp] theorem kGet_transfer (t k : Nat) (s : State) (i_ r_ : Nat) : kGet (transfer t k s) i_ r_ = kGet s i_ r_ := rfl

/-! ### hGet through the other updates -/

@[simp] theorem hGet_putSlot (sid : Nat) (x : Slot) (s : State) (i_ r_ : Nat) : hGet (putSlot sid x s) i_ r_ = hGet s i_ r_ := rfl
@[simp] theorem hGet_modSlot (sid : Nat) (f : Slot → Slot) (s : State) (i_ r_ : Nat) : hGet (modSlot sid f s) i_ r_ = hGet s i_ r_ := rfl
@[simp] theorem hGet_putCore (cid : Nat) (x : Core) (s : State) (i_ r_ : Nat) : hGet (putCore cid x s) i_ r_ = hGet s i_ r_ := rfl
@[simp] theorem hGet_modCore (cid : Nat) (f : Core → Core) (s : State) (i_ r_ : Nat) : hGet (modCore cid f s) i_ r_ = hGet s i_ r_ := rfl
@[simp] theorem hGet_modTile (tid : Nat) (f : Tile → Tile) (s : State) (i_ r_ : Nat) : hGet (modTile tid f s) i_ r_ = hGet s i_ r_ := rfl
@[simp] theorem hGet_modPart (pk : Nat) (f : Part → Part) (s : State) (i_ r_ : Nat) : hGet (modPart pk f s) i_ r_ = hGet s i_ r_ := rfl
@[simp] theorem hGet_modPkg (p : Nat) (f : Pkg → Pkg) (s : State) (i_ r_ : Nat) : hGet (modPkg p f s) i_ r_ = hGet s i_ r_ := rfl
@[simp] theorem hGet_modRx (rk : Nat) (f : RxQ → RxQ) (s : State) (i_ r_ : Nat) : hGet (modRx rk f s) i_ r_ = hGet s i_ r_ := rfl
@[simp] theorem hGet_modBind (e : Nat) (f : Binding → Binding) (s : State) (i_ r_ : Nat) : hGet (modBind e f s) i_ r_ = hGet s i_ r_ := rfl
@[simp] theorem hGet_putRt (e : Nat) (x : Word × Word) (s : State) (i_ r_ : Nat) : hGet (putRt e x s) i_ r_ = hGet s i_ r_ := rfl
@[simp] theorem hGet_post (due : Nat) (ev : Instr) (arg : EvArg) (s : State) (i_ r_ : Nat) : hGet (post due ev arg s) i_ r_ = hGet s i_ r_ := rfl
@[simp] theorem hGet_atCost (k : Nat) (s : State) (i_ r_ : Nat) : hGet (atCost k s) i_ r_ = hGet s i_ r_ := rfl
@[simp] theorem hGet_transfer (t k : Nat) (s : State) (i_ r_ : Nat) : hGet (transfer t k s) i_ r_ = hGet s i_ r_ := rfl

/-! ### rtAt through the other updates -/

@[simp] theorem rtAt_putSlot (sid : Nat) (x : Slot) (s : State) (i_ : Nat) : rtAt (putSlot sid x s) i_ = rtAt s i_ := rfl
@[simp] theorem rtAt_modSlot (sid : Nat) (f : Slot → Slot) (s : State) (i_ : Nat) : rtAt (modSlot sid f s) i_ = rtAt s i_ := rfl
@[simp] theorem rtAt_putCore (cid : Nat) (x : Core) (s : State) (i_ : Nat) : rtAt (putCore cid x s) i_ = rtAt s i_ := rfl
@[simp] theorem rtAt_modCore (cid : Nat) (f : Core → Core) (s : State) (i_ : Nat) : rtAt (modCore cid f s) i_ = rtAt s i_ := rfl
@[simp] theorem rtAt_modTile (tid : Nat) (f : Tile → Tile) (s : State) (i_ : Nat) : rtAt (modTile tid f s) i_ = rtAt s i_ := rfl
@[simp] theorem rtAt_modPart (pk : Nat) (f : Part → Part) (s : State) (i_ : Nat) : rtAt (modPart pk f s) i_ = rtAt s i_ := rfl
@[simp] theorem rtAt_modPkg (p : Nat) (f : Pkg → Pkg) (s : State) (i_ : Nat) : rtAt (modPkg p f s) i_ = rtAt s i_ := rfl
@[simp] theorem rtAt_modRx (rk : Nat) (f : RxQ → RxQ) (s : State) (i_ : Nat) : rtAt (modRx rk f s) i_ = rtAt s i_ := rfl
@[simp] theorem rtAt_modBind (e : Nat) (f : Binding → Binding) (s : State) (i_ : Nat) : rtAt (modBind e f s) i_ = rtAt s i_ := rfl
@[simp] theorem rtAt_post (due : Nat) (ev : Instr) (arg : EvArg) (s : State) (i_ : Nat) : rtAt (post due ev arg s) i_ = rtAt s i_ := rfl
@[simp] theorem rtAt_atCost (k : Nat) (s : State) (i_ : Nat) : rtAt (atCost k s) i_ = rtAt s i_ := rfl
@[simp] theorem rtAt_transfer (t k : Nat) (s : State) (i_ : Nat) : rtAt (transfer t k s) i_ = rtAt s i_ := rfl

end Sys2Proof.Machine
end

