-- ==== Sys2Proof/Laws/Ops.lean ====
section
/-!
SUPPORT. What the shared operations of an instruction can do, said once: the steps of a body, the frame of an issue, the checks of
a memory operand, taking and delivering.
-/

set_option Elab.async false

namespace Sys2Proof.Machine

/-! ### The steps of a body -/

@[simp] theorem trapM_apply {α : Type} (c : Nat) (tv tv2 : Word) (s : State) : (trapM c tv tv2 : M α) s = .error (.trap c tv tv2) := rfl
@[simp] theorem waitM_apply {α : Type} (s : State) : (waitM : M α) s = .error .wait := rfl
@[simp] theorem stopM_apply {α : Type} (e : Stop) (s : State) : (stopM e : M α) s = .error e := rfl
@[simp] theorem updM_apply (f : State → State) (s : State) : updM f s = .ok ((), f s) := rfl
@[simp] theorem askM_apply {α : Type} (f : State → α) (s : State) : askM f s = .ok (f s, s) := rfl
@[simp] theorem keepM_apply {α : Type} (f : State → State) (s : State) : (keepM f : M α) s = .error (.keep (f s)) := rfl
@[simp] theorem setCost_apply (k : Nat) (s : State) : setCost k s = .ok ((), atCost k s) := rfl
@[simp] theorem setPc_apply (t k : Nat) (s : State) : setPc t k s = .ok ((), transfer t k s) := rfl
@[simp] theorem illegal_apply {α : Type} (n : Nat) (s : State) :
    (illegal n : M α) s = .error (.trap 1 (firstFour s.cur.words) (word n)) := rfl
@[simp] theorem pure_apply {α : Type} (x : α) (s : State) : (pure x : M α) s = .ok (x, s) := rfl

/-- A step and the rest: the rest runs on what the step leaves, or the step's stop is the body's. -/
theorem bind_apply {α β : Type} (x : M α) (f : α → M β) (s : State) :
    (x >>= f) s = match x s with
      | .ok (a, t) => f a t
      | .error e => .error e := by
  show (StateT.bind x f) s = _
  unfold StateT.bind
  show Except.bind (x s) _ = _
  cases h : x s <;> rfl

/-- A body that answers a value ran both of its parts. -/
theorem bind_ok {α β : Type} {x : M α} {f : α → M β} {s u : State} {b : β} (h : (x >>= f) s = .ok (b, u)) :
    ∃ a t, x s = .ok (a, t) ∧ f a t = .ok (b, u) := by
  rw [bind_apply] at h
  cases hx : x s with
  | error e => simp [hx] at h
  | ok p => obtain ⟨a, t⟩ := p; exact ⟨a, t, rfl, by simpa [hx] using h⟩

@[simp] theorem waitUnless_true (s : State) : waitUnless true s = .ok ((), s) := rfl
@[simp] theorem waitUnless_false (s : State) : waitUnless false s = .error .wait := rfl

/-! ### The frame of an issue -/

theorem issue_of_ok {cls : Cls} {s t : State} {body : M Unit} (hc : classTrap cls s = none) (h : body (atIssue s) = .ok ((), t))
    (hm : t.cur.manual = false) : issue cls s body = .next (completeIssue t) := by
  simp [issue, hc, h, hm]

theorem issue_of_trap {cls : Cls} {s : State} {body : M Unit} {c : Nat} {tv tv2 : Word} (hc : classTrap cls s = none)
    (h : body (atIssue s) = .error (.trap c tv tv2)) :
    issue cls s body = .next (recordTrap s.cur.sid c tv tv2 s.cur.ipc (markTrap s.cur.sid s)) := by
  simp [issue, hc, h]

theorem issue_of_class {cls : Cls} {s : State} {body : M Unit} {c : Nat} (hc : classTrap cls s = some c) :
    issue cls s body = .next (recordTrap s.cur.sid c 0#64 0#64 s.cur.ipc (markTrap s.cur.sid s)) := by
  simp [issue, hc]

theorem issue_of_wait {cls : Cls} {s : State} {body : M Unit} (hc : classTrap cls s = none) (h : body (atIssue s) = .error .wait) :
    issue cls s body = .next (waitState s) := by
  simp [issue, hc, h]

theorem issue_of_waitReg {cls : Cls} {s : State} {body : M Unit} {r : Nat} (hc : classTrap cls s = none)
    (h : body (atIssue s) = .error (.waitReg r)) : issue cls s body = .next (waitPresence r s) := by
  simp [issue, hc, h]

theorem issue_of_keep {cls : Cls} {s t : State} {body : M Unit} (hc : classTrap cls s = none)
    (h : body (atIssue s) = .error (.keep t)) :
    issue cls s body = .next (heldIssue
      (modSlot s.cur.sid (fun x => { x with ilen := s.cur.words.length, tried := s.now + 1 }) (deferKills s.cur.sid s t))) := by
  simp [issue, hc, h]

@[simp] theorem atIssue_cur_sid (s : State) : (atIssue s).cur.sid = s.cur.sid := rfl
@[simp] theorem atIssue_cur_words (s : State) : (atIssue s).cur.words = s.cur.words := rfl
@[simp] theorem atIssue_slots (s : State) : (atIssue s).slots = s.slots := rfl
@[simp] theorem atIssue_cores (s : State) : (atIssue s).cores = s.cores := rfl
@[simp] theorem atIssue_mem (s : State) : (atIssue s).mem = s.mem := rfl
@[simp] theorem atIssue_g (s : State) : (atIssue s).g = s.g := rfl

/-! ### Checks of a memory operand -/

theorem effAddr_ok {p : Word} {off : Int} {s t : State} {ea : Nat} (h : effAddr p off s = .ok (ea, t)) :
    t = s ∧ (ea : Int) = (wfield p 0 56 : Nat) + off ∧ ea < vaTop := by
  unfold effAddr at h
  split at h
  · simp at h
  · rename_i hn
    simp only [pure_apply, Except.ok.injEq, Prod.mk.injEq] at h
    obtain ⟨h1, h2⟩ := h
    refine ⟨h2.symm, ?_, ?_⟩ <;> omega

theorem alignM_ok {ea n : Nat} {s t : State} (h : alignM ea n s = .ok ((), t)) : t = s ∧ ea % n = 0 := by
  unfold alignM at h
  split at h
  · rename_i hn; simp at h; exact ⟨h.symm, hn⟩
  · simp at h

theorem rangeM_ok {va n : Nat} {rd wr : Bool} {s t : State} {e : Nat} (h : rangeM va n rd wr s = .ok (e, t)) :
    t = s ∧ rangeCheck s (cidOf s.cur.sid) (slotAt s s.cur.sid).team (userMode s s.cur.sid) va n rd wr = .ok e := by
  dsimp only [rangeM] at h
  split at h
  · rename_i e' he
    simp only [Except.ok.injEq, Prod.mk.injEq] at h
    exact ⟨h.2.symm, by rw [he, h.1]⟩
  · simp at h

/-! ### Registers -/

@[simp] theorem gSet_zero (sid : Nat) (x : Word) (s : State) : gSet sid 0 x s = s := by simp [gSet]
@[simp] theorem gSet_mem (sid r : Nat) (x : Word) (s : State) : (gSet sid r x s).mem = s.mem := by unfold gSet; split <;> rfl
@[simp] theorem gSet_cores (sid r : Nat) (x : Word) (s : State) : (gSet sid r x s).cores = s.cores := by unfold gSet; split <;> rfl
@[simp] theorem gSet_k (sid r : Nat) (x : Word) (s : State) : (gSet sid r x s).k = s.k := by unfold gSet; split <;> rfl
@[simp] theorem kSet_g (sid r : Nat) (x : Word) (s : State) : (kSet sid r x s).g = s.g := rfl
@[simp] theorem kSet_mem (sid r : Nat) (x : Word) (s : State) : (kSet sid r x s).mem = s.mem := rfl
@[simp] theorem kGet_kSet_self (sid r : Nat) (x : Word) (s : State) : kGet (kSet sid r x s) sid r = x := by simp [kGet, kSet]

/-! ### The record of an access or a command -/

@[simp] theorem sendAcc_find (a : Acc) (s : State) : tfind (sendAcc a s).2.accs s.nextId = some a := by
  simp only [sendAcc, freshId]
  split <;> simp [post]

@[simp] theorem freshId_fst (s : State) : (freshId s).1 = s.nextId := rfl
@[simp] theorem freshId_snd (s : State) : (freshId s).2 = { s with nextId := s.nextId + 1 } := rfl

end Sys2Proof.Machine
end

