-- ==== Sys2Proof/Laws/PerInstr.lean ====
section
/-!
SUPPORT. For each constructor: the row of the opcode map that its code names builds it back from its operands, and an event has
no code (R202, R203).
-/

/-- An instruction with a code is what its row of the opcode map builds from its operands; the code of a row names that row. -/
def Sys2Proof.Laws.Codec.Statement (i : Sys2Proof.Instr) : Prop :=
  ∀ p op v o, i.code = some (p, op, v) → i.ops? = some o →
    ∃ r, Sys2Proof.rowOf p op v = some r ∧ r.page = p ∧ r.op = op ∧ r.variant = v ∧ r.build o = i

namespace Sys2Proof.Laws.Codec

theorem udf (o : Ops) : Statement (.udf o) := by
  intro p op v o' h1 h2; cases h1; cases h2; exact ⟨_, rfl, rfl, rfl, rfl, rfl⟩
theorem add (o : Ops) : Statement (.add o) := by
  intro p op v o' h1 h2; cases h1; cases h2; exact ⟨_, rfl, rfl, rfl, rfl, rfl⟩
theorem sub_ (o : Ops) : Statement (.sub_ o) := by
  intro p op v o' h1 h2; cases h1; cases h2; exact ⟨_, rfl, rfl, rfl, rfl, rfl⟩
theorem and_ (o : Ops) : Statement (.and_ o) := by
  intro p op v o' h1 h2; cases h1; cases h2; exact ⟨_, rfl, rfl, rfl, rfl, rfl⟩
theorem or_ (o : Ops) : Statement (.or_ o) := by
  intro p op v o' h1 h2; cases h1; cases h2; exact ⟨_, rfl, rfl, rfl, rfl, rfl⟩
theorem xor_ (o : Ops) : Statement (.xor_ o) := by
  intro p op v o' h1 h2; cases h1; cases h2; exact ⟨_, rfl, rfl, rfl, rfl, rfl⟩
theorem shl (o : Ops) : Statement (.shl o) := by
  intro p op v o' h1 h2; cases h1; cases h2; exact ⟨_, rfl, rfl, rfl, rfl, rfl⟩
theorem shr (o : Ops) : Statement (.shr o) := by
  intro p op v o' h1 h2; cases h1; cases h2; exact ⟨_, rfl, rfl, rfl, rfl, rfl⟩
theorem sra (o : Ops) : Statement (.sra o) := by
  intro p op v o' h1 h2; cases h1; cases h2; exact ⟨_, rfl, rfl, rfl, rfl, rfl⟩
theorem mul_ (o : Ops) : Statement (.mul_ o) := by
  intro p op v o' h1 h2; cases h1; cases h2; exact ⟨_, rfl, rfl, rfl, rfl, rfl⟩
theorem mov (o : Ops) : Statement (.mov o) := by
  intro p op v o' h1 h2; cases h1; cases h2; exact ⟨_, rfl, rfl, rfl, rfl, rfl⟩
theorem addi (o : Ops) : Statement (.addi o) := by
  intro p op v o' h1 h2; cases h1; cases h2; exact ⟨_, rfl, rfl, rfl, rfl, rfl⟩
theorem li (o : Ops) : Statement (.li o) := by
  intro p op v o' h1 h2; cases h1; cases h2; exact ⟨_, rfl, rfl, rfl, rfl, rfl⟩
theorem slt (o : Ops) : Statement (.slt o) := by
  intro p op v o' h1 h2; cases h1; cases h2; exact ⟨_, rfl, rfl, rfl, rfl, rfl⟩
theorem sltu (o : Ops) : Statement (.sltu o) := by
  intro p op v o' h1 h2; cases h1; cases h2; exact ⟨_, rfl, rfl, rfl, rfl, rfl⟩
theorem seq_ (o : Ops) : Statement (.seq_ o) := by
  intro p op v o' h1 h2; cases h1; cases h2; exact ⟨_, rfl, rfl, rfl, rfl, rfl⟩
theorem beq (o : Ops) : Statement (.beq o) := by
  intro p op v o' h1 h2; cases h1; cases h2; exact ⟨_, rfl, rfl, rfl, rfl, rfl⟩
theorem bne (o : Ops) : Statement (.bne o) := by
  intro p op v o' h1 h2; cases h1; cases h2; exact ⟨_, rfl, rfl, rfl, rfl, rfl⟩
theorem blt (o : Ops) : Statement (.blt o) := by
  intro p op v o' h1 h2; cases h1; cases h2; exact ⟨_, rfl, rfl, rfl, rfl, rfl⟩
theorem bge (o : Ops) : Statement (.bge o) := by
  intro p op v o' h1 h2; cases h1; cases h2; exact ⟨_, rfl, rfl, rfl, rfl, rfl⟩
theorem bltu (o : Ops) : Statement (.bltu o) := by
  intro p op v o' h1 h2; cases h1; cases h2; exact ⟨_, rfl, rfl, rfl, rfl, rfl⟩
theorem bgeu (o : Ops) : Statement (.bgeu o) := by
  intro p op v o' h1 h2; cases h1; cases h2; exact ⟨_, rfl, rfl, rfl, rfl, rfl⟩
theorem jmp (o : Ops) : Statement (.jmp o) := by
  intro p op v o' h1 h2; cases h1; cases h2; exact ⟨_, rfl, rfl, rfl, rfl, rfl⟩
theorem jal (o : Ops) : Statement (.jal o) := by
  intro p op v o' h1 h2; cases h1; cases h2; exact ⟨_, rfl, rfl, rfl, rfl, rfl⟩
theorem jalr (o : Ops) : Statement (.jalr o) := by
  intro p op v o' h1 h2; cases h1; cases h2; exact ⟨_, rfl, rfl, rfl, rfl, rfl⟩
theorem ldd (o : Ops) : Statement (.ldd o) := by
  intro p op v o' h1 h2; cases h1; cases h2; exact ⟨_, rfl, rfl, rfl, rfl, rfl⟩
theorem ldw (o : Ops) : Statement (.ldw o) := by
  intro p op v o' h1 h2; cases h1; cases h2; exact ⟨_, rfl, rfl, rfl, rfl, rfl⟩
theorem std (o : Ops) : Statement (.std o) := by
  intro p op v o' h1 h2; cases h1; cases h2; exact ⟨_, rfl, rfl, rfl, rfl, rfl⟩
theorem stw (o : Ops) : Statement (.stw o) := by
  intro p op v o' h1 h2; cases h1; cases h2; exact ⟨_, rfl, rfl, rfl, rfl, rfl⟩
theorem padd (o : Ops) : Statement (.padd o) := by
  intro p op v o' h1 h2; cases h1; cases h2; exact ⟨_, rfl, rfl, rfl, rfl, rfl⟩
theorem qadv (o : Ops) : Statement (.qadv o) := by
  intro p op v o' h1 h2; cases h1; cases h2; exact ⟨_, rfl, rfl, rfl, rfl, rfl⟩
theorem mulh (o : Ops) : Statement (.mulh o) := by
  intro p op v o' h1 h2; cases h1; cases h2; exact ⟨_, rfl, rfl, rfl, rfl, rfl⟩
theorem mulhu (o : Ops) : Statement (.mulhu o) := by
  intro p op v o' h1 h2; cases h1; cases h2; exact ⟨_, rfl, rfl, rfl, rfl, rfl⟩
theorem div_ (o : Ops) : Statement (.div_ o) := by
  intro p op v o' h1 h2; cases h1; cases h2; exact ⟨_, rfl, rfl, rfl, rfl, rfl⟩
theorem divu (o : Ops) : Statement (.divu o) := by
  intro p op v o' h1 h2; cases h1; cases h2; exact ⟨_, rfl, rfl, rfl, rfl, rfl⟩
theorem rem_ (o : Ops) : Statement (.rem_ o) := by
  intro p op v o' h1 h2; cases h1; cases h2; exact ⟨_, rfl, rfl, rfl, rfl, rfl⟩
theorem remu (o : Ops) : Statement (.remu o) := by
  intro p op v o' h1 h2; cases h1; cases h2; exact ⟨_, rfl, rfl, rfl, rfl, rfl⟩
theorem min_ (o : Ops) : Statement (.min_ o) := by
  intro p op v o' h1 h2; cases h1; cases h2; exact ⟨_, rfl, rfl, rfl, rfl, rfl⟩
theorem max_ (o : Ops) : Statement (.max_ o) := by
  intro p op v o' h1 h2; cases h1; cases h2; exact ⟨_, rfl, rfl, rfl, rfl, rfl⟩
theorem minu (o : Ops) : Statement (.minu o) := by
  intro p op v o' h1 h2; cases h1; cases h2; exact ⟨_, rfl, rfl, rfl, rfl, rfl⟩
theorem maxu (o : Ops) : Statement (.maxu o) := by
  intro p op v o' h1 h2; cases h1; cases h2; exact ⟨_, rfl, rfl, rfl, rfl, rfl⟩
theorem clz (o : Ops) : Statement (.clz o) := by
  intro p op v o' h1 h2; cases h1; cases h2; exact ⟨_, rfl, rfl, rfl, rfl, rfl⟩
theorem popc (o : Ops) : Statement (.popc o) := by
  intro p op v o' h1 h2; cases h1; cases h2; exact ⟨_, rfl, rfl, rfl, rfl, rfl⟩
theorem bfx (o : Ops) : Statement (.bfx o) := by
  intro p op v o' h1 h2; cases h1; cases h2; exact ⟨_, rfl, rfl, rfl, rfl, rfl⟩
theorem bfi (o : Ops) : Statement (.bfi o) := by
  intro p op v o' h1 h2; cases h1; cases h2; exact ⟨_, rfl, rfl, rfl, rfl, rfl⟩
theorem andi (o : Ops) : Statement (.andi o) := by
  intro p op v o' h1 h2; cases h1; cases h2; exact ⟨_, rfl, rfl, rfl, rfl, rfl⟩
theorem ori (o : Ops) : Statement (.ori o) := by
  intro p op v o' h1 h2; cases h1; cases h2; exact ⟨_, rfl, rfl, rfl, rfl, rfl⟩
theorem xori (o : Ops) : Statement (.xori o) := by
  intro p op v o' h1 h2; cases h1; cases h2; exact ⟨_, rfl, rfl, rfl, rfl, rfl⟩
theorem shli (o : Ops) : Statement (.shli o) := by
  intro p op v o' h1 h2; cases h1; cases h2; exact ⟨_, rfl, rfl, rfl, rfl, rfl⟩
theorem shri (o : Ops) : Statement (.shri o) := by
  intro p op v o' h1 h2; cases h1; cases h2; exact ⟨_, rfl, rfl, rfl, rfl, rfl⟩
theorem srai (o : Ops) : Statement (.srai o) := by
  intro p op v o' h1 h2; cases h1; cases h2; exact ⟨_, rfl, rfl, rfl, rfl, rfl⟩
theorem lih (o : Ops) : Statement (.lih o) := by
  intro p op v o' h1 h2; cases h1; cases h2; exact ⟨_, rfl, rfl, rfl, rfl, rfl⟩
theorem slti (o : Ops) : Statement (.slti o) := by
  intro p op v o' h1 h2; cases h1; cases h2; exact ⟨_, rfl, rfl, rfl, rfl, rfl⟩
theorem loop_ (o : Ops) : Statement (.loop_ o) := by
  intro p op v o' h1 h2; cases h1; cases h2; exact ⟨_, rfl, rfl, rfl, rfl, rfl⟩
theorem loopi (o : Ops) : Statement (.loopi o) := by
  intro p op v o' h1 h2; cases h1; cases h2; exact ⟨_, rfl, rfl, rfl, rfl, rfl⟩
theorem pushb (o : Ops) : Statement (.pushb o) := by
  intro p op v o' h1 h2; cases h1; cases h2; exact ⟨_, rfl, rfl, rfl, rfl, rfl⟩
theorem brq (o : Ops) : Statement (.brq o) := by
  intro p op v o' h1 h2; cases h1; cases h2; exact ⟨_, rfl, rfl, rfl, rfl, rfl⟩
theorem fadd (o : Ops) : Statement (.fadd o) := by
  intro p op v o' h1 h2; cases h1; cases h2; exact ⟨_, rfl, rfl, rfl, rfl, rfl⟩
theorem fmul (o : Ops) : Statement (.fmul o) := by
  intro p op v o' h1 h2; cases h1; cases h2; exact ⟨_, rfl, rfl, rfl, rfl, rfl⟩
theorem ffma (o : Ops) : Statement (.ffma o) := by
  intro p op v o' h1 h2; cases h1; cases h2; exact ⟨_, rfl, rfl, rfl, rfl, rfl⟩
theorem fcmp (o : Ops) : Statement (.fcmp o) := by
  intro p op v o' h1 h2; cases h1; cases h2; exact ⟨_, rfl, rfl, rfl, rfl, rfl⟩
theorem fcvt (o : Ops) : Statement (.fcvt o) := by
  intro p op v o' h1 h2; cases h1; cases h2; exact ⟨_, rfl, rfl, rfl, rfl, rfl⟩
theorem ldb (o : Ops) : Statement (.ldb o) := by
  intro p op v o' h1 h2; cases h1; cases h2; exact ⟨_, rfl, rfl, rfl, rfl, rfl⟩
theorem ldbu (o : Ops) : Statement (.ldbu o) := by
  intro p op v o' h1 h2; cases h1; cases h2; exact ⟨_, rfl, rfl, rfl, rfl, rfl⟩
theorem ldh (o : Ops) : Statement (.ldh o) := by
  intro p op v o' h1 h2; cases h1; cases h2; exact ⟨_, rfl, rfl, rfl, rfl, rfl⟩
theorem ldhu (o : Ops) : Statement (.ldhu o) := by
  intro p op v o' h1 h2; cases h1; cases h2; exact ⟨_, rfl, rfl, rfl, rfl, rfl⟩
theorem ldwu (o : Ops) : Statement (.ldwu o) := by
  intro p op v o' h1 h2; cases h1; cases h2; exact ⟨_, rfl, rfl, rfl, rfl, rfl⟩
theorem stb (o : Ops) : Statement (.stb o) := by
  intro p op v o' h1 h2; cases h1; cases h2; exact ⟨_, rfl, rfl, rfl, rfl, rfl⟩
theorem sth (o : Ops) : Statement (.sth o) := by
  intro p op v o' h1 h2; cases h1; cases h2; exact ⟨_, rfl, rfl, rfl, rfl, rfl⟩
theorem ldacq (o : Ops) : Statement (.ldacq o) := by
  intro p op v o' h1 h2; cases h1; cases h2; exact ⟨_, rfl, rfl, rfl, rfl, rfl⟩
theorem strel (o : Ops) : Statement (.strel o) := by
  intro p op v o' h1 h2; cases h1; cases h2; exact ⟨_, rfl, rfl, rfl, rfl, rfl⟩
theorem fence (o : Ops) : Statement (.fence o) := by
  intro p op v o' h1 h2; cases h1; cases h2; exact ⟨_, rfl, rfl, rfl, rfl, rfl⟩
theorem ptag (o : Ops) : Statement (.ptag o) := by
  intro p op v o' h1 h2; cases h1; cases h2; exact ⟨_, rfl, rfl, rfl, rfl, rfl⟩
theorem pfmt (o : Ops) : Statement (.pfmt o) := by
  intro p op v o' h1 h2; cases h1; cases h2; exact ⟨_, rfl, rfl, rfl, rfl, rfl⟩
theorem pspan (o : Ops) : Statement (.pspan o) := by
  intro p op v o' h1 h2; cases h1; cases h2; exact ⟨_, rfl, rfl, rfl, rfl, rfl⟩
theorem qbind (o : Ops) : Statement (.qbind o) := by
  intro p op v o' h1 h2; cases h1; cases h2; exact ⟨_, rfl, rfl, rfl, rfl, rfl⟩
theorem qfill (o : Ops) : Statement (.qfill o) := by
  intro p op v o' h1 h2; cases h1; cases h2; exact ⟨_, rfl, rfl, rfl, rfl, rfl⟩
theorem xput (o : Ops) : Statement (.xput o) := by
  intro p op v o' h1 h2; cases h1; cases h2; exact ⟨_, rfl, rfl, rfl, rfl, rfl⟩
theorem clrp (o : Ops) : Statement (.clrp o) := by
  intro p op v o' h1 h2; cases h1; cases h2; exact ⟨_, rfl, rfl, rfl, rfl, rfl⟩
theorem testp (o : Ops) : Statement (.testp o) := by
  intro p op v o' h1 h2; cases h1; cases h2; exact ⟨_, rfl, rfl, rfl, rfl, rfl⟩
theorem waitw (o : Ops) : Statement (.waitw o) := by
  intro p op v o' h1 h2; cases h1; cases h2; exact ⟨_, rfl, rfl, rfl, rfl, rfl⟩
theorem cpy (o : Ops) : Statement (.cpy o) := by
  intro p op v o' h1 h2; cases h1; cases h2; exact ⟨_, rfl, rfl, rfl, rfl, rfl⟩
theorem get_ (o : Ops) : Statement (.get_ o) := by
  intro p op v o' h1 h2; cases h1; cases h2; exact ⟨_, rfl, rfl, rfl, rfl, rfl⟩
theorem put_ (o : Ops) : Statement (.put_ o) := by
  intro p op v o' h1 h2; cases h1; cases h2; exact ⟨_, rfl, rfl, rfl, rfl, rfl⟩
theorem sread (o : Ops) : Statement (.sread o) := by
  intro p op v o' h1 h2; cases h1; cases h2; exact ⟨_, rfl, rfl, rfl, rfl, rfl⟩
theorem swrite (o : Ops) : Statement (.swrite o) := by
  intro p op v o' h1 h2; cases h1; cases h2; exact ⟨_, rfl, rfl, rfl, rfl, rfl⟩
theorem qsend (o : Ops) : Statement (.qsend o) := by
  intro p op v o' h1 h2; cases h1; cases h2; exact ⟨_, rfl, rfl, rfl, rfl, rfl⟩
theorem qsendWho (o : Ops) : Statement (.qsendWho o) := by
  intro p op v o' h1 h2; cases h1; cases h2; exact ⟨_, rfl, rfl, rfl, rfl, rfl⟩
theorem time_ (o : Ops) : Statement (.time_ o) := by
  intro p op v o' h1 h2; cases h1; cases h2; exact ⟨_, rfl, rfl, rfl, rfl, rfl⟩
theorem self_ (o : Ops) : Statement (.self_ o) := by
  intro p op v o' h1 h2; cases h1; cases h2; exact ⟨_, rfl, rfl, rfl, rfl, rfl⟩
theorem bind_ (o : Ops) : Statement (.bind_ o) := by
  intro p op v o' h1 h2; cases h1; cases h2; exact ⟨_, rfl, rfl, rfl, rfl, rfl⟩
theorem unbind (o : Ops) : Statement (.unbind o) := by
  intro p op v o' h1 h2; cases h1; cases h2; exact ⟨_, rfl, rfl, rfl, rfl, rfl⟩
theorem acqs (o : Ops) : Statement (.acqs o) := by
  intro p op v o' h1 h2; cases h1; cases h2; exact ⟨_, rfl, rfl, rfl, rfl, rfl⟩
theorem acqx (o : Ops) : Statement (.acqx o) := by
  intro p op v o' h1 h2; cases h1; cases h2; exact ⟨_, rfl, rfl, rfl, rfl, rfl⟩
theorem rel_ (o : Ops) : Statement (.rel_ o) := by
  intro p op v o' h1 h2; cases h1; cases h2; exact ⟨_, rfl, rfl, rfl, rfl, rfl⟩
theorem gstat (o : Ops) : Statement (.gstat o) := by
  intro p op v o' h1 h2; cases h1; cases h2; exact ⟨_, rfl, rfl, rfl, rfl, rfl⟩
theorem gstatVerger (o : Ops) : Statement (.gstatVerger o) := by
  intro p op v o' h1 h2; cases h1; cases h2; exact ⟨_, rfl, rfl, rfl, rfl, rfl⟩
theorem gnew (o : Ops) : Statement (.gnew o) := by
  intro p op v o' h1 h2; cases h1; cases h2; exact ⟨_, rfl, rfl, rfl, rfl, rfl⟩
theorem gfree (o : Ops) : Statement (.gfree o) := by
  intro p op v o' h1 h2; cases h1; cases h2; exact ⟨_, rfl, rfl, rfl, rfl, rfl⟩
theorem atom (o : Ops) : Statement (.atom o) := by
  intro p op v o' h1 h2; cases h1; cases h2; exact ⟨_, rfl, rfl, rfl, rfl, rfl⟩
theorem cas (o : Ops) : Statement (.cas o) := by
  intro p op v o' h1 h2; cases h1; cases h2; exact ⟨_, rfl, rfl, rfl, rfl, rfl⟩
theorem atomsc (o : Ops) : Statement (.atomsc o) := by
  intro p op v o' h1 h2; cases h1; cases h2; exact ⟨_, rfl, rfl, rfl, rfl, rfl⟩
theorem ldsc (o : Ops) : Statement (.ldsc o) := by
  intro p op v o' h1 h2; cases h1; cases h2; exact ⟨_, rfl, rfl, rfl, rfl, rfl⟩
theorem stsc (o : Ops) : Statement (.stsc o) := by
  intro p op v o' h1 h2; cases h1; cases h2; exact ⟨_, rfl, rfl, rfl, rfl, rfl⟩
theorem bar_ (o : Ops) : Statement (.bar_ o) := by
  intro p op v o' h1 h2; cases h1; cases h2; exact ⟨_, rfl, rfl, rfl, rfl, rfl⟩
theorem sstep (o : Ops) : Statement (.sstep o) := by
  intro p op v o' h1 h2; cases h1; cases h2; exact ⟨_, rfl, rfl, rfl, rfl, rfl⟩
theorem ssync (o : Ops) : Statement (.ssync o) := by
  intro p op v o' h1 h2; cases h1; cases h2; exact ⟨_, rfl, rfl, rfl, rfl, rfl⟩
theorem ldref (o : Ops) : Statement (.ldref o) := by
  intro p op v o' h1 h2; cases h1; cases h2; exact ⟨_, rfl, rfl, rfl, rfl, rfl⟩
theorem stref (o : Ops) : Statement (.stref o) := by
  intro p op v o' h1 h2; cases h1; cases h2; exact ⟨_, rfl, rfl, rfl, rfl, rfl⟩
theorem ldk (o : Ops) : Statement (.ldk o) := by
  intro p op v o' h1 h2; cases h1; cases h2; exact ⟨_, rfl, rfl, rfl, rfl, rfl⟩
theorem stk (o : Ops) : Statement (.stk o) := by
  intro p op v o' h1 h2; cases h1; cases h2; exact ⟨_, rfl, rfl, rfl, rfl, rfl⟩
theorem kmov (o : Ops) : Statement (.kmov o) := by
  intro p op v o' h1 h2; cases h1; cases h2; exact ⟨_, rfl, rfl, rfl, rfl, rfl⟩
theorem kmovToG (o : Ops) : Statement (.kmovToG o) := by
  intro p op v o' h1 h2; cases h1; cases h2; exact ⟨_, rfl, rfl, rfl, rfl, rfl⟩
theorem kmovFromG (o : Ops) : Statement (.kmovFromG o) := by
  intro p op v o' h1 h2; cases h1; cases h2; exact ⟨_, rfl, rfl, rfl, rfl, rfl⟩
theorem knew (o : Ops) : Statement (.knew o) := by
  intro p op v o' h1 h2; cases h1; cases h2; exact ⟨_, rfl, rfl, rfl, rfl, rfl⟩
theorem kpin (o : Ops) : Statement (.kpin o) := by
  intro p op v o' h1 h2; cases h1; cases h2; exact ⟨_, rfl, rfl, rfl, rfl, rfl⟩
theorem kunpin (o : Ops) : Statement (.kunpin o) := by
  intro p op v o' h1 h2; cases h1; cases h2; exact ⟨_, rfl, rfl, rfl, rfl, rfl⟩
theorem kcmp (o : Ops) : Statement (.kcmp o) := by
  intro p op v o' h1 h2; cases h1; cases h2; exact ⟨_, rfl, rfl, rfl, rfl, rfl⟩
theorem knull (o : Ops) : Statement (.knull o) := by
  intro p op v o' h1 h2; cases h1; cases h2; exact ⟨_, rfl, rfl, rfl, rfl, rfl⟩
theorem vadd (o : Ops) : Statement (.vadd o) := by
  intro p op v o' h1 h2; cases h1; cases h2; exact ⟨_, rfl, rfl, rfl, rfl, rfl⟩
theorem vsub (o : Ops) : Statement (.vsub o) := by
  intro p op v o' h1 h2; cases h1; cases h2; exact ⟨_, rfl, rfl, rfl, rfl, rfl⟩
theorem vmul (o : Ops) : Statement (.vmul o) := by
  intro p op v o' h1 h2; cases h1; cases h2; exact ⟨_, rfl, rfl, rfl, rfl, rfl⟩
theorem vfma (o : Ops) : Statement (.vfma o) := by
  intro p op v o' h1 h2; cases h1; cases h2; exact ⟨_, rfl, rfl, rfl, rfl, rfl⟩
theorem vmin (o : Ops) : Statement (.vmin o) := by
  intro p op v o' h1 h2; cases h1; cases h2; exact ⟨_, rfl, rfl, rfl, rfl, rfl⟩
theorem vmax (o : Ops) : Statement (.vmax o) := by
  intro p op v o' h1 h2; cases h1; cases h2; exact ⟨_, rfl, rfl, rfl, rfl, rfl⟩
theorem vabs (o : Ops) : Statement (.vabs o) := by
  intro p op v o' h1 h2; cases h1; cases h2; exact ⟨_, rfl, rfl, rfl, rfl, rfl⟩
theorem vneg (o : Ops) : Statement (.vneg o) := by
  intro p op v o' h1 h2; cases h1; cases h2; exact ⟨_, rfl, rfl, rfl, rfl, rfl⟩
theorem vcmp (o : Ops) : Statement (.vcmp o) := by
  intro p op v o' h1 h2; cases h1; cases h2; exact ⟨_, rfl, rfl, rfl, rfl, rfl⟩
theorem vsel (o : Ops) : Statement (.vsel o) := by
  intro p op v o' h1 h2; cases h1; cases h2; exact ⟨_, rfl, rfl, rfl, rfl, rfl⟩
theorem vand (o : Ops) : Statement (.vand o) := by
  intro p op v o' h1 h2; cases h1; cases h2; exact ⟨_, rfl, rfl, rfl, rfl, rfl⟩
theorem vor (o : Ops) : Statement (.vor o) := by
  intro p op v o' h1 h2; cases h1; cases h2; exact ⟨_, rfl, rfl, rfl, rfl, rfl⟩
theorem vxor (o : Ops) : Statement (.vxor o) := by
  intro p op v o' h1 h2; cases h1; cases h2; exact ⟨_, rfl, rfl, rfl, rfl, rfl⟩
theorem vshl (o : Ops) : Statement (.vshl o) := by
  intro p op v o' h1 h2; cases h1; cases h2; exact ⟨_, rfl, rfl, rfl, rfl, rfl⟩
theorem vshr (o : Ops) : Statement (.vshr o) := by
  intro p op v o' h1 h2; cases h1; cases h2; exact ⟨_, rfl, rfl, rfl, rfl, rfl⟩
theorem viadd (o : Ops) : Statement (.viadd o) := by
  intro p op v o' h1 h2; cases h1; cases h2; exact ⟨_, rfl, rfl, rfl, rfl, rfl⟩
theorem visub (o : Ops) : Statement (.visub o) := by
  intro p op v o' h1 h2; cases h1; cases h2; exact ⟨_, rfl, rfl, rfl, rfl, rfl⟩
theorem vimul (o : Ops) : Statement (.vimul o) := by
  intro p op v o' h1 h2; cases h1; cases h2; exact ⟨_, rfl, rfl, rfl, rfl, rfl⟩
theorem vrcp (o : Ops) : Statement (.vrcp o) := by
  intro p op v o' h1 h2; cases h1; cases h2; exact ⟨_, rfl, rfl, rfl, rfl, rfl⟩
theorem vrsq (o : Ops) : Statement (.vrsq o) := by
  intro p op v o' h1 h2; cases h1; cases h2; exact ⟨_, rfl, rfl, rfl, rfl, rfl⟩
theorem vexp2 (o : Ops) : Statement (.vexp2 o) := by
  intro p op v o' h1 h2; cases h1; cases h2; exact ⟨_, rfl, rfl, rfl, rfl, rfl⟩
theorem vlog2 (o : Ops) : Statement (.vlog2 o) := by
  intro p op v o' h1 h2; cases h1; cases h2; exact ⟨_, rfl, rfl, rfl, rfl, rfl⟩
theorem vred (o : Ops) : Statement (.vred o) := by
  intro p op v o' h1 h2; cases h1; cases h2; exact ⟨_, rfl, rfl, rfl, rfl, rfl⟩
theorem vscan (o : Ops) : Statement (.vscan o) := by
  intro p op v o' h1 h2; cases h1; cases h2; exact ⟨_, rfl, rfl, rfl, rfl, rfl⟩
theorem vperm (o : Ops) : Statement (.vperm o) := by
  intro p op v o' h1 h2; cases h1; cases h2; exact ⟨_, rfl, rfl, rfl, rfl, rfl⟩
theorem vbcast (o : Ops) : Statement (.vbcast o) := by
  intro p op v o' h1 h2; cases h1; cases h2; exact ⟨_, rfl, rfl, rfl, rfl, rfl⟩
theorem vext (o : Ops) : Statement (.vext o) := by
  intro p op v o' h1 h2; cases h1; cases h2; exact ⟨_, rfl, rfl, rfl, rfl, rfl⟩
theorem vins (o : Ops) : Statement (.vins o) := by
  intro p op v o' h1 h2; cases h1; cases h2; exact ⟨_, rfl, rfl, rfl, rfl, rfl⟩
theorem viota (o : Ops) : Statement (.viota o) := by
  intro p op v o' h1 h2; cases h1; cases h2; exact ⟨_, rfl, rfl, rfl, rfl, rfl⟩
theorem vcvt (o : Ops) : Statement (.vcvt o) := by
  intro p op v o' h1 h2; cases h1; cases h2; exact ⟨_, rfl, rfl, rfl, rfl, rfl⟩
theorem vmov (o : Ops) : Statement (.vmov o) := by
  intro p op v o' h1 h2; cases h1; cases h2; exact ⟨_, rfl, rfl, rfl, rfl, rfl⟩
theorem vld (o : Ops) : Statement (.vld o) := by
  intro p op v o' h1 h2; cases h1; cases h2; exact ⟨_, rfl, rfl, rfl, rfl, rfl⟩
theorem vst (o : Ops) : Statement (.vst o) := by
  intro p op v o' h1 h2; cases h1; cases h2; exact ⟨_, rfl, rfl, rfl, rfl, rfl⟩
theorem vldx (o : Ops) : Statement (.vldx o) := by
  intro p op v o' h1 h2; cases h1; cases h2; exact ⟨_, rfl, rfl, rfl, rfl, rfl⟩
theorem vstx (o : Ops) : Statement (.vstx o) := by
  intro p op v o' h1 h2; cases h1; cases h2; exact ⟨_, rfl, rfl, rfl, rfl, rfl⟩
theorem vstm (o : Ops) : Statement (.vstm o) := by
  intro p op v o' h1 h2; cases h1; cases h2; exact ⟨_, rfl, rfl, rfl, rfl, rfl⟩
theorem vlds (o : Ops) : Statement (.vlds o) := by
  intro p op v o' h1 h2; cases h1; cases h2; exact ⟨_, rfl, rfl, rfl, rfl, rfl⟩
theorem vsts (o : Ops) : Statement (.vsts o) := by
  intro p op v o' h1 h2; cases h1; cases h2; exact ⟨_, rfl, rfl, rfl, rfl, rfl⟩
theorem vtopk (o : Ops) : Statement (.vtopk o) := by
  intro p op v o' h1 h2; cases h1; cases h2; exact ⟨_, rfl, rfl, rfl, rfl, rfl⟩
theorem vbscale (o : Ops) : Statement (.vbscale o) := by
  intro p op v o' h1 h2; cases h1; cases h2; exact ⟨_, rfl, rfl, rfl, rfl, rfl⟩
theorem gjoin (o : Ops) : Statement (.gjoin o) := by
  intro p op v o' h1 h2; cases h1; cases h2; exact ⟨_, rfl, rfl, rfl, rfl, rfl⟩
theorem gleave (o : Ops) : Statement (.gleave o) := by
  intro p op v o' h1 h2; cases h1; cases h2; exact ⟨_, rfl, rfl, rfl, rfl, rfl⟩
theorem rejoin (o : Ops) : Statement (.rejoin o) := by
  intro p op v o' h1 h2; cases h1; cases h2; exact ⟨_, rfl, rfl, rfl, rfl, rfl⟩
theorem vshare (o : Ops) : Statement (.vshare o) := by
  intro p op v o' h1 h2; cases h1; cases h2; exact ⟨_, rfl, rfl, rfl, rfl, rfl⟩
theorem start_ (o : Ops) : Statement (.start_ o) := by
  intro p op v o' h1 h2; cases h1; cases h2; exact ⟨_, rfl, rfl, rfl, rfl, rfl⟩
theorem startp (o : Ops) : Statement (.startp o) := by
  intro p op v o' h1 h2; cases h1; cases h2; exact ⟨_, rfl, rfl, rfl, rfl, rfl⟩
theorem stop_ (o : Ops) : Statement (.stop_ o) := by
  intro p op v o' h1 h2; cases h1; cases h2; exact ⟨_, rfl, rfl, rfl, rfl, rfl⟩
theorem joins (o : Ops) : Statement (.joins o) := by
  intro p op v o' h1 h2; cases h1; cases h2; exact ⟨_, rfl, rfl, rfl, rfl, rfl⟩
theorem live_ (o : Ops) : Statement (.live_ o) := by
  intro p op v o' h1 h2; cases h1; cases h2; exact ⟨_, rfl, rfl, rfl, rfl, rfl⟩
theorem liveGet (o : Ops) : Statement (.liveGet o) := by
  intro p op v o' h1 h2; cases h1; cases h2; exact ⟨_, rfl, rfl, rfl, rfl, rfl⟩
theorem yield (o : Ops) : Statement (.yield o) := by
  intro p op v o' h1 h2; cases h1; cases h2; exact ⟨_, rfl, rfl, rfl, rfl, rfl⟩
theorem mxc (o : Ops) : Statement (.mxc o) := by
  intro p op v o' h1 h2; cases h1; cases h2; exact ⟨_, rfl, rfl, rfl, rfl, rfl⟩
theorem mxcap (o : Ops) : Statement (.mxcap o) := by
  intro p op v o' h1 h2; cases h1; cases h2; exact ⟨_, rfl, rfl, rfl, rfl, rfl⟩
theorem mxcapGet (o : Ops) : Statement (.mxcapGet o) := by
  intro p op v o' h1 h2; cases h1; cases h2; exact ⟨_, rfl, rfl, rfl, rfl, rfl⟩
theorem epi (o : Ops) : Statement (.epi o) := by
  intro p op v o' h1 h2; cases h1; cases h2; exact ⟨_, rfl, rfl, rfl, rfl, rfl⟩
theorem hcompact (o : Ops) : Statement (.hcompact o) := by
  intro p op v o' h1 h2; cases h1; cases h2; exact ⟨_, rfl, rfl, rfl, rfl, rfl⟩
theorem tqput (o : Ops) : Statement (.tqput o) := by
  intro p op v o' h1 h2; cases h1; cases h2; exact ⟨_, rfl, rfl, rfl, rfl, rfl⟩
theorem tqget (o : Ops) : Statement (.tqget o) := by
  intro p op v o' h1 h2; cases h1; cases h2; exact ⟨_, rfl, rfl, rfl, rfl, rfl⟩
theorem tdec (o : Ops) : Statement (.tdec o) := by
  intro p op v o' h1 h2; cases h1; cases h2; exact ⟨_, rfl, rfl, rfl, rfl, rfl⟩
theorem tdset (o : Ops) : Statement (.tdset o) := by
  intro p op v o' h1 h2; cases h1; cases h2; exact ⟨_, rfl, rfl, rfl, rfl, rfl⟩
theorem tdbind (o : Ops) : Statement (.tdbind o) := by
  intro p op v o' h1 h2; cases h1; cases h2; exact ⟨_, rfl, rfl, rfl, rfl, rfl⟩
theorem launch (o : Ops) : Statement (.launch o) := by
  intro p op v o' h1 h2; cases h1; cases h2; exact ⟨_, rfl, rfl, rfl, rfl, rfl⟩
theorem gcont (o : Ops) : Statement (.gcont o) := by
  intro p op v o' h1 h2; cases h1; cases h2; exact ⟨_, rfl, rfl, rfl, rfl, rfl⟩
theorem gscan (o : Ops) : Statement (.gscan o) := by
  intro p op v o' h1 h2; cases h1; cases h2; exact ⟨_, rfl, rfl, rfl, rfl, rfl⟩
theorem a2a (o : Ops) : Statement (.a2a o) := by
  intro p op v o' h1 h2; cases h1; cases h2; exact ⟨_, rfl, rfl, rfl, rfl, rfl⟩
theorem sysrd (o : Ops) : Statement (.sysrd o) := by
  intro p op v o' h1 h2; cases h1; cases h2; exact ⟨_, rfl, rfl, rfl, rfl, rfl⟩
theorem sysrdB (o : Ops) : Statement (.sysrdB o) := by
  intro p op v o' h1 h2; cases h1; cases h2; exact ⟨_, rfl, rfl, rfl, rfl, rfl⟩
theorem syswr (o : Ops) : Statement (.syswr o) := by
  intro p op v o' h1 h2; cases h1; cases h2; exact ⟨_, rfl, rfl, rfl, rfl, rfl⟩
theorem syswrB (o : Ops) : Statement (.syswrB o) := by
  intro p op v o' h1 h2; cases h1; cases h2; exact ⟨_, rfl, rfl, rfl, rfl, rfl⟩
theorem tret (o : Ops) : Statement (.tret o) := by
  intro p op v o' h1 h2; cases h1; cases h2; exact ⟨_, rfl, rfl, rfl, rfl, rfl⟩
theorem tretSkip (o : Ops) : Statement (.tretSkip o) := by
  intro p op v o' h1 h2; cases h1; cases h2; exact ⟨_, rfl, rfl, rfl, rfl, rfl⟩
theorem tretLeave (o : Ops) : Statement (.tretLeave o) := by
  intro p op v o' h1 h2; cases h1; cases h2; exact ⟨_, rfl, rfl, rfl, rfl, rfl⟩
theorem tretKill (o : Ops) : Statement (.tretKill o) := by
  intro p op v o' h1 h2; cases h1; cases h2; exact ⟨_, rfl, rfl, rfl, rfl, rfl⟩
theorem svc (o : Ops) : Statement (.svc o) := by
  intro p op v o' h1 h2; cases h1; cases h2; exact ⟨_, rfl, rfl, rfl, rfl, rfl⟩
theorem brk (o : Ops) : Statement (.brk o) := by
  intro p op v o' h1 h2; cases h1; cases h2; exact ⟨_, rfl, rfl, rfl, rfl, rfl⟩
theorem rtset (o : Ops) : Statement (.rtset o) := by
  intro p op v o' h1 h2; cases h1; cases h2; exact ⟨_, rfl, rfl, rfl, rfl, rfl⟩
theorem rtget (o : Ops) : Statement (.rtget o) := by
  intro p op v o' h1 h2; cases h1; cases h2; exact ⟨_, rfl, rfl, rfl, rfl, rfl⟩
theorem ctxsave (o : Ops) : Statement (.ctxsave o) := by
  intro p op v o' h1 h2; cases h1; cases h2; exact ⟨_, rfl, rfl, rfl, rfl, rfl⟩
theorem ctxload (o : Ops) : Statement (.ctxload o) := by
  intro p op v o' h1 h2; cases h1; cases h2; exact ⟨_, rfl, rfl, rfl, rfl, rfl⟩
theorem kills (o : Ops) : Statement (.kills o) := by
  intro p op v o' h1 h2; cases h1; cases h2; exact ⟨_, rfl, rfl, rfl, rfl, rfl⟩
theorem killsResume (o : Ops) : Statement (.killsResume o) := by
  intro p op v o' h1 h2; cases h1; cases h2; exact ⟨_, rfl, rfl, rfl, rfl, rfl⟩
theorem snap (o : Ops) : Statement (.snap o) := by
  intro p op v o' h1 h2; cases h1; cases h2; exact ⟨_, rfl, rfl, rfl, rfl, rfl⟩
theorem halt_ (o : Ops) : Statement (.halt_ o) := by
  intro p op v o' h1 h2; cases h1; cases h2; exact ⟨_, rfl, rfl, rfl, rfl, rfl⟩
theorem wfe (o : Ops) : Statement (.wfe o) := by
  intro p op v o' h1 h2; cases h1; cases h2; exact ⟨_, rfl, rfl, rfl, rfl, rfl⟩
theorem orphan (o : Ops) : Statement (.orphan o) := by
  intro p op v o' h1 h2; cases h1; cases h2; exact ⟨_, rfl, rfl, rfl, rfl, rfl⟩
theorem gswitch (o : Ops) : Statement (.gswitch o) := by
  intro p op v o' h1 h2; cases h1; cases h2; exact ⟨_, rfl, rfl, rfl, rfl, rfl⟩
theorem tmsg (o : Ops) : Statement (.tmsg o) := by
  intro p op v o' h1 h2; cases h1; cases h2; exact ⟨_, rfl, rfl, rfl, rfl, rfl⟩
theorem vshareApply : Statement .vshareApply := by
  intro p op v o h1; cases h1
theorem registerEvict : Statement .registerEvict := by
  intro p op v o h1; cases h1
theorem registerFetch : Statement .registerFetch := by
  intro p op v o h1; cases h1
theorem resultWriteback : Statement .resultWriteback := by
  intro p op v o h1; cases h1
theorem presTimeout : Statement .presTimeout := by
  intro p op v o h1; cases h1
theorem xputArrival : Statement .xputArrival := by
  intro p op v o h1; cases h1
theorem vectorQuarterIssue : Statement .vectorQuarterIssue := by
  intro p op v o h1; cases h1
theorem vectorResult : Statement .vectorResult := by
  intro p op v o h1; cases h1
theorem followerIssue : Statement .followerIssue := by
  intro p op v o h1; cases h1
theorem groupForm : Statement .groupForm := by
  intro p op v o h1; cases h1
theorem gjoinTimeout : Statement .gjoinTimeout := by
  intro p op v o h1; cases h1
theorem superstepBoundary : Statement .superstepBoundary := by
  intro p op v o h1; cases h1
theorem accessPerform : Statement .accessPerform := by
  intro p op v o h1; cases h1
theorem loadResult : Statement .loadResult := by
  intro p op v o h1; cases h1
theorem storeAck : Statement .storeAck := by
  intro p op v o h1; cases h1
theorem atomicPerform : Statement .atomicPerform := by
  intro p op v o h1; cases h1
theorem watchMade : Statement .watchMade := by
  intro p op v o h1; cases h1
theorem watchWake : Statement .watchWake := by
  intro p op v o h1; cases h1
theorem watchRetry : Statement .watchRetry := by
  intro p op v o h1; cases h1
theorem qsendArrival : Statement .qsendArrival := by
  intro p op v o h1; cases h1
theorem qsendAnswer : Statement .qsendAnswer := by
  intro p op v o h1; cases h1
theorem qsendResend : Statement .qsendResend := by
  intro p op v o h1; cases h1
theorem ringAppendDone : Statement .ringAppendDone := by
  intro p op v o h1; cases h1
theorem receiveQueueRefill : Statement .receiveQueueRefill := by
  intro p op v o h1; cases h1
theorem scComplete : Statement .scComplete := by
  intro p op v o h1; cases h1
theorem releaseSend : Statement .releaseSend := by
  intro p op v o h1; cases h1
theorem guardRequest : Statement .guardRequest := by
  intro p op v o h1; cases h1
theorem guardRequestResend : Statement .guardRequestResend := by
  intro p op v o h1; cases h1
theorem guardRelease : Statement .guardRelease := by
  intro p op v o h1; cases h1
theorem guardForward : Statement .guardForward := by
  intro p op v o h1; cases h1
theorem grantArrival : Statement .grantArrival := by
  intro p op v o h1; cases h1
theorem grantRetry : Statement .grantRetry := by
  intro p op v o h1; cases h1
theorem writeBehindComplete : Statement .writeBehindComplete := by
  intro p op v o h1; cases h1
theorem wbdone : Statement .wbdone := by
  intro p op v o h1; cases h1
theorem guardPackageFailure : Statement .guardPackageFailure := by
  intro p op v o h1; cases h1
theorem homeLostAnswer : Statement .homeLostAnswer := by
  intro p op v o h1; cases h1
theorem heapBarrierWake : Statement .heapBarrierWake := by
  intro p op v o h1; cases h1
theorem inflDecrement : Statement .inflDecrement := by
  intro p op v o h1; cases h1
theorem healCas : Statement .healCas := by
  intro p op v o h1; cases h1
theorem barrierLateTrap : Statement .barrierLateTrap := by
  intro p op v o h1; cases h1
theorem relocCommand : Statement .relocCommand := by
  intro p op v o h1; cases h1
theorem relocParse : Statement .relocParse := by
  intro p op v o h1; cases h1
theorem flipArrival : Statement .flipArrival := by
  intro p op v o h1; cases h1
theorem flipAck : Statement .flipAck := by
  intro p op v o h1; cases h1
theorem relocObjectBusy : Statement .relocObjectBusy := by
  intro p op v o h1; cases h1
theorem relocObjectDone : Statement .relocObjectDone := by
  intro p op v o h1; cases h1
theorem relocComplete : Statement .relocComplete := by
  intro p op v o h1; cases h1
theorem cnPartial : Statement .cnPartial := by
  intro p op v o h1; cases h1
theorem cnInstanceComplete : Statement .cnInstanceComplete := by
  intro p op v o h1; cases h1
theorem cnResultArrival : Statement .cnResultArrival := by
  intro p op v o h1; cases h1
theorem cnResultUnblock : Statement .cnResultUnblock := by
  intro p op v o h1; cases h1
theorem ferArrival : Statement .ferArrival := by
  intro p op v o h1; cases h1
theorem ferSlotTimeout : Statement .ferSlotTimeout := by
  intro p op v o h1; cases h1
theorem ferParentResult : Statement .ferParentResult := by
  intro p op v o h1; cases h1
theorem ferWaitRelease : Statement .ferWaitRelease := by
  intro p op v o h1; cases h1
theorem ferHaltNotice : Statement .ferHaltNotice := by
  intro p op v o h1; cases h1
theorem ferResumeNotice : Statement .ferResumeNotice := by
  intro p op v o h1; cases h1
theorem a2aParcelWrite : Statement .a2aParcelWrite := by
  intro p op v o h1; cases h1
theorem a2aContribute : Statement .a2aContribute := by
  intro p op v o h1; cases h1
theorem copyComplete : Statement .copyComplete := by
  intro p op v o h1; cases h1
theorem completionElementPlace : Statement .completionElementPlace := by
  intro p op v o h1; cases h1
theorem getRequestServe : Statement .getRequestServe := by
  intro p op v o h1; cases h1
theorem remoteAtomicServe : Statement .remoteAtomicServe := by
  intro p op v o h1; cases h1
theorem getComplete : Statement .getComplete := by
  intro p op v o h1; cases h1
theorem putDataArrival : Statement .putDataArrival := by
  intro p op v o h1; cases h1
theorem putLocalComplete : Statement .putLocalComplete := by
  intro p op v o h1; cases h1
theorem putRemoteComplete : Statement .putRemoteComplete := by
  intro p op v o h1; cases h1
theorem storageIoComplete : Statement .storageIoComplete := by
  intro p op v o h1; cases h1
theorem matrixCommandArrival : Statement .matrixCommandArrival := by
  intro p op v o h1; cases h1
theorem matrixCommandResend : Statement .matrixCommandResend := by
  intro p op v o h1; cases h1
theorem shadowEntry : Statement .shadowEntry := by
  intro p op v o h1; cases h1
theorem mode_ : Statement .mode_ := by
  intro p op v o h1; cases h1
theorem loadb : Statement .loadb := by
  intro p op v o h1; cases h1
theorem run_ : Statement .run_ := by
  intro p op v o h1; cases h1
theorem clear_ : Statement .clear_ := by
  intro p op v o h1; cases h1
theorem matrixCommandComplete : Statement .matrixCommandComplete := by
  intro p op v o h1; cases h1
theorem matrixNoticeArrival : Statement .matrixNoticeArrival := by
  intro p op v o h1; cases h1
theorem epiStart : Statement .epiStart := by
  intro p op v o h1; cases h1
theorem epiComplete : Statement .epiComplete := by
  intro p op v o h1; cases h1
theorem tqRefill : Statement .tqRefill := by
  intro p op v o h1; cases h1
theorem tdecApply : Statement .tdecApply := by
  intro p op v o h1; cases h1
theorem tdsetApply : Statement .tdsetApply := by
  intro p op v o h1; cases h1
theorem tdbindApply : Statement .tdbindApply := by
  intro p op v o h1; cases h1
theorem releasedRecordPush : Statement .releasedRecordPush := by
  intro p op v o h1; cases h1
theorem barRelease : Statement .barRelease := by
  intro p op v o h1; cases h1
theorem barTimeout : Statement .barTimeout := by
  intro p op v o h1; cases h1
theorem takeTrap : Statement .takeTrap := by
  intro p op v o h1; cases h1
theorem teamSwapOut : Statement .teamSwapOut := by
  intro p op v o h1; cases h1
theorem teamRestore : Statement .teamRestore := by
  intro p op v o h1; cases h1
theorem gangSwitch : Statement .gangSwitch := by
  intro p op v o h1; cases h1
theorem gangSave : Statement .gangSave := by
  intro p op v o h1; cases h1
theorem gangRestore : Statement .gangRestore := by
  intro p op v o h1; cases h1
theorem falloutPhase : Statement .falloutPhase := by
  intro p op v o h1; cases h1
theorem epiSwitchTimeout : Statement .epiSwitchTimeout := by
  intro p op v o h1; cases h1
theorem escalationArrival : Statement .escalationArrival := by
  intro p op v o h1; cases h1
theorem trcNoticeArrival : Statement .trcNoticeArrival := by
  intro p op v o h1; cases h1
theorem remoteRejection : Statement .remoteRejection := by
  intro p op v o h1; cases h1
theorem mtuAccessDecide : Statement .mtuAccessDecide := by
  intro p op v o h1; cases h1
theorem mtuParkRetry : Statement .mtuParkRetry := by
  intro p op v o h1; cases h1
theorem sqeFillRequest : Statement .sqeFillRequest := by
  intro p op v o h1; cases h1
theorem sqeFillComplete : Statement .sqeFillComplete := by
  intro p op v o h1; cases h1
theorem mtuInstallNotice : Statement .mtuInstallNotice := by
  intro p op v o h1; cases h1
theorem sqeFillFail : Statement .sqeFillFail := by
  intro p op v o h1; cases h1
theorem sqeCommandTimeout : Statement .sqeCommandTimeout := by
  intro p op v o h1; cases h1
theorem parkedAccessAnswer : Statement .parkedAccessAnswer := by
  intro p op v o h1; cases h1
theorem parkedAccessFail : Statement .parkedAccessFail := by
  intro p op v o h1; cases h1
theorem faultServe : Statement .faultServe := by
  intro p op v o h1; cases h1
theorem pageMigrationArrival : Statement .pageMigrationArrival := by
  intro p op v o h1; cases h1
theorem migrationAck : Statement .migrationAck := by
  intro p op v o h1; cases h1
theorem evictWritebackComplete : Statement .evictWritebackComplete := by
  intro p op v o h1; cases h1
theorem linkFlitReceive : Statement .linkFlitReceive := by
  intro p op v o h1; cases h1
theorem linkNak : Statement .linkNak := by
  intro p op v o h1; cases h1
theorem linkAck : Statement .linkAck := by
  intro p op v o h1; cases h1
theorem transportPacketArrival : Statement .transportPacketArrival := by
  intro p op v o h1; cases h1
theorem transportAck : Statement .transportAck := by
  intro p op v o h1; cases h1
theorem transportResend : Statement .transportResend := by
  intro p op v o h1; cases h1
theorem laneLoss : Statement .laneLoss := by
  intro p op v o h1; cases h1
theorem linkRetrainDone : Statement .linkRetrainDone := by
  intro p op v o h1; cases h1
theorem bandwidthEventArrival : Statement .bandwidthEventArrival := by
  intro p op v o h1; cases h1
theorem keepaliveSend : Statement .keepaliveSend := by
  intro p op v o h1; cases h1
theorem keepaliveTimeout : Statement .keepaliveTimeout := by
  intro p op v o h1; cases h1
theorem packageFailureDeclare : Statement .packageFailureDeclare := by
  intro p op v o h1; cases h1
theorem failureNotice : Statement .failureNotice := by
  intro p op v o h1; cases h1
theorem hostMemAccess : Statement .hostMemAccess := by
  intro p op v o h1; cases h1
theorem crzDoor : Statement .crzDoor := by
  intro p op v o h1; cases h1
theorem identify : Statement .identify := by
  intro p op v o h1; cases h1
theorem negotiate : Statement .negotiate := by
  intro p op v o h1; cases h1
theorem patch_ : Statement .patch_ := by
  intro p op v o h1; cases h1
theorem partMake : Statement .partMake := by
  intro p op v o h1; cases h1
theorem partEnd : Statement .partEnd := by
  intro p op v o h1; cases h1
theorem tenantKeyErase : Statement .tenantKeyErase := by
  intro p op v o h1; cases h1
theorem grant_ : Statement .grant_ := by
  intro p op v o h1; cases h1
theorem map_ : Statement .map_ := by
  intro p op v o h1; cases h1
theorem own_ : Statement .own_ := by
  intro p op v o h1; cases h1
theorem evict : Statement .evict := by
  intro p op v o h1; cases h1
theorem route_ : Statement .route_ := by
  intro p op v o h1; cases h1
theorem hostmap : Statement .hostmap := by
  intro p op v o h1; cases h1
theorem job_ : Statement .job_ := by
  intro p op v o h1; cases h1
theorem log_ : Statement .log_ := by
  intro p op v o h1; cases h1
theorem unsupportedCommand : Statement .unsupportedCommand := by
  intro p op v o h1; cases h1
theorem gangPlace : Statement .gangPlace := by
  intro p op v o h1; cases h1
theorem jobEnd : Statement .jobEnd := by
  intro p op v o h1; cases h1
theorem tileClear : Statement .tileClear := by
  intro p op v o h1; cases h1
theorem tduJdone : Statement .tduJdone := by
  intro p op v o h1; cases h1
theorem tduJkill : Statement .tduJkill := by
  intro p op v o h1; cases h1
theorem tduQbaseWrite : Statement .tduQbaseWrite := by
  intro p op v o h1; cases h1
theorem tduDcbaseWrite : Statement .tduDcbaseWrite := by
  intro p op v o h1; cases h1
theorem registerWrite : Statement .registerWrite := by
  intro p op v o h1; cases h1
theorem partitionRegisterPropagate : Statement .partitionRegisterPropagate := by
  intro p op v o h1; cases h1
theorem tstatWrite : Statement .tstatWrite := by
  intro p op v o h1; cases h1
theorem orphstatWrite : Statement .orphstatWrite := by
  intro p op v o h1; cases h1
theorem orphstatRead : Statement .orphstatRead := by
  intro p op v o h1; cases h1
theorem sliceWrite : Statement .sliceWrite := by
  intro p op v o h1; cases h1
theorem snapctlWrite : Statement .snapctlWrite := by
  intro p op v o h1; cases h1
theorem trcPop : Statement .trcPop := by
  intro p op v o h1; cases h1
theorem trcLostRead : Statement .trcLostRead := by
  intro p op v o h1; cases h1
theorem ferPstatRead : Statement .ferPstatRead := by
  intro p op v o h1; cases h1
theorem ferEvlostRead : Statement .ferEvlostRead := by
  intro p op v o h1; cases h1
theorem debugStopRequest : Statement .debugStopRequest := by
  intro p op v o h1; cases h1
theorem debugStop : Statement .debugStop := by
  intro p op v o h1; cases h1
theorem debugResume : Statement .debugResume := by
  intro p op v o h1; cases h1
theorem tduStep : Statement .tduStep := by
  intro p op v o h1; cases h1
theorem stepDone : Statement .stepDone := by
  intro p op v o h1; cases h1
theorem tduStepstRead : Statement .tduStepstRead := by
  intro p op v o h1; cases h1
theorem tduTrbaseWrite : Statement .tduTrbaseWrite := by
  intro p op v o h1; cases h1
theorem traceSample : Statement .traceSample := by
  intro p op v o h1; cases h1
theorem snapshotFire : Statement .snapshotFire := by
  intro p op v o h1; cases h1
theorem lifetimeCounterUpdate : Statement .lifetimeCounterUpdate := by
  intro p op v o h1; cases h1
theorem macroScrub : Statement .macroScrub := by
  intro p op v o h1; cases h1
theorem powerOn : Statement .powerOn := by
  intro p op v o h1; cases h1
theorem thermalTrip : Statement .thermalTrip := by
  intro p op v o h1; cases h1
theorem getVersion : Statement .getVersion := by
  intro p op v o h1; cases h1
theorem getCapabilities : Statement .getCapabilities := by
  intro p op v o h1; cases h1
theorem negotiateAlgorithms : Statement .negotiateAlgorithms := by
  intro p op v o h1; cases h1
theorem getDigests : Statement .getDigests := by
  intro p op v o h1; cases h1
theorem getCertificate : Statement .getCertificate := by
  intro p op v o h1; cases h1
theorem challenge : Statement .challenge := by
  intro p op v o h1; cases h1
theorem getMeasurements : Statement .getMeasurements := by
  intro p op v o h1; cases h1
theorem powerLoss : Statement .powerLoss := by
  intro p op v o h1; cases h1
theorem ssdPortLinkChange : Statement .ssdPortLinkChange := by
  intro p op v o h1; cases h1
theorem wfeTimeout : Statement .wfeTimeout := by
  intro p op v o h1; cases h1
theorem tileFailure : Statement .tileFailure := by
  intro p op v o h1; cases h1

end Sys2Proof.Laws.Codec
end

