-- ==== Sys2Proof/Tests/Slice0.lean ====
section
/-!
SUPPORT. The model's own tests: the smoke test of well-formedness, the spec's worked encodings, one-step tests whose results
stand in the spec or follow from it by hand, and for each statement with hypotheses the states and operands that meet them.
-/

set_option Elab.async false
set_option linter.unusedTactic false
set_option linter.unreachableTactic false

namespace Sys2Proof.Tests

open Sys2Proof Sys2Proof.Machine

/-! ### Helper states -/

/-- One strand at cycle 100, whose one-word instruction at 0x1000 is at issue. -/
def mk (sid : Nat) (x : Slot) : State :=
  { now := 100, slots := [(sid, x)], cur := { sid := sid, ipc := 0x1000, words := [0x094E] } }

/-- A helper on the A sequencer, one on the X sequencer, slot 0 in user mode, slot 0 in supervisor mode. -/
def stA : State := mk 1 { st := .ready }
def stX : State := mk 1 { st := .ready, xseq := true }
def stU : State := mk 0 { st := .ready }
def stS : State := { stU with cores := [(0, { modeS := true })] }

/-- g5 and g7 with two values. -/
def gg (s : State) (a b : Nat) : State :=
  { s with g := [(s.cur.sid * 64 + 5, word a), (s.cur.sid * 64 + 7, word b)] }

/-- The range-table entry of a LOCAL window of the own tile, readable, writable and open to user mode. -/
def ownEntry : Word × Word := (word (ownBase + 2 ^ 56), word (ownBase + 0xF0000 + 2 ^ 56 + 2 ^ 57 + 2 ^ 58 + 2 ^ 61))

/-- g5 a value, g7 an address of the own scratchpad, with its entry. -/
def gm (s : State) (a off : Nat) : State := { gg s a (ownBase + off) with rt := [(0, ownEntry)] }

/-- An event's arguments. -/
def ev (s : State) (a : EvArg) : State := { s with ev := a }

/-- A state with one access, number 9, in flight, and one with one command. -/
def withAcc (s : State) (a : Acc) : State := { s with accs := [(9, a)], nextId := 20 }
def withCmd (s : State) (c : Cmd) : State := { s with cmds := [(9, c)], nextId := 20 }

/-- A helper in a package that is present. -/
def stP : State := { stA with pkgs := [(0, { present := true })] }

/-- A load of eight bytes from offset 0x100 of the own scratchpad, and a store there. -/
def acc0 : Acc :=
  { kind := .load, sid := 1, gen := 0, ipc := 0x1000, order := 0, dpkg := 0, dev := false, va := ownBase + 0x100, size := 8
    key := some (spKey 0 0x100), bank := 0, perfAt := 100, ansLat := 2 }
def accSt : Acc := { acc0 with kind := .store, store := true, data := natBytes 8 0x1122334455667788 }

/-- A result of a step, looked at. -/
def sees (r : Res) (p : State → Bool) : Bool :=
  match r with
  | .next t => p t
  | _ => false

/-- A check of the issue answers a value and leaves a state, as something Lean decides. -/
def gives {α : Type} [DecidableEq α] (r : Except Stop (α × State)) (a : α) (t : State) : Bool :=
  match r with
  | .ok x => decide (x.1 = a) && decide (x.2 = t)
  | .error _ => false

theorem gives_iff {α : Type} [DecidableEq α] (r : Except Stop (α × State)) (a : α) (t : State) :
    gives r a t = true ↔ r = .ok (a, t) := by
  cases r with
  | error e => simp [gives]
  | ok x => cases x; simp [gives]

/-- What a fetch found: words, a trap, or a page that is not there. -/
def fetched (r : FetchR) : Nat :=
  match r with
  | .words _ => 1
  | .trap _ _ => 2
  | .park _ => 3

/-- A register of slot 6 needs a place in the physical file of core 0, and one of slot 1 is parked in bank 0. -/
def fullS : State := { stA with file := [(6 * 128 + 1, 8)], place := [(1 * 128 + 1, .bank 0)] }

theorem fullS_overfull : ∃ k, overfull fullS = some k := ⟨_, List.getElem?_eq_getElem (Nat.mod_lt _ (by decide))⟩

/-- Operands: A is g5 (and the destination), B is g7. -/
def ab : Ops := { a := 5, b := 7 }

/-! ### Well-formedness refuses an ill-formed term for each of its checks -/

/-- A form R base word has no immediate of its own, and without EXR no sixth operand bit, no C and no last use of A. -/
theorem test_wf_refuses_shape :
    [Instr.add { lo := 1 }, .add { a := 32 }, .add { b := 32 }, .add { c := 1 }, .add { la := true }, .addi { b := 1 }, .addi { l := true },
     .addi { lo := 64 }, .addi { a := 32 }, .addi { c := 1 }, .jmp { a := 1 }, .jmp { exr := true }, .jmp { exq := some 0 }].all
      (fun i => !i.wf) = true := by decide +kernel

theorem test_wf_refuses_udf_operands : Instr.wf (.udf { a := 1 }) = false := by decide +kernel
theorem test_wf_refuses_four_exi : Instr.wf (.addi { xi := [0, 0, 0, 0] }) = false := by decide +kernel
theorem test_wf_refuses_five_prefixes : Instr.wf (.fadd { exr := true, exq := some 0, xi := [0, 0] }) = false := by decide +kernel
theorem test_wf_refuses_missing_exr : Instr.wf (.ffma {}) = false := by decide +kernel
theorem test_wf_refuses_missing_exi : Instr.wf (.beq {}) = false := by decide +kernel
theorem test_wf_refuses_handle_in_gn : Instr.wf (.ffma { c := 32, exr := true }) = false := by decide +kernel
theorem test_wf_refuses_handle_in_gq : Instr.wf (.clrp { a := 32, exr := true }) = false := by decide +kernel
theorem test_wf_refuses_v_kind : Instr.wf (.vadd { a := 32, exr := true }) = false ∧ Instr.wf (.vadd { a := 48, exr := true }) = false := by
  decide +kernel
theorem test_wf_refuses_k_kind : Instr.wf (.ldref { a := 16 }) = false := by decide +kernel
theorem test_wf_refuses_h_kind : Instr.wf (.cpy { a := 5, exr := true }) = false := by decide +kernel
theorem test_wf_refuses_unused_field : Instr.wf (.mov { a := 1, b := 1, exr := true }) = false := by decide +kernel
theorem test_wf_refuses_bits4 : Instr.wf (.qbind { a := 16 }) = false := by decide +kernel
theorem test_wf_refuses_last_use : Instr.wf (.time_ { l := true }) = false := by decide +kernel
theorem test_wf_refuses_variant : Instr.wf (.live_ { xi := [1] }) = false := by decide +kernel
theorem test_wf_refuses_event : Instr.wf .powerOn = false := by decide +kernel

/-! ### The spec's worked encodings (spec/09 to spec/16, spec/18) -/

/-- Decoding with every feature accepted. -/
def dec (ws : List (BitVec 16)) : Option Instr := decode (fun _ => true) ws

theorem test_decode_pages_0_and_1 :
    dec [0xF812, 0xF868, 0xF959, 0x6178] = some (.li { a := 5, lo := 0x38, xi := [0x12, 0x68, 0x159] })
    ∧ dec [0xFA52, 0xFE04, 0x0984] = some (.add { a := 6, b := 34, c := 5, exr := true, exq := some 4 })
    ∧ dec [0xF802, 0xE188] = some (.stw { a := 6, b := 4, xi := [2] })
    ∧ dec [0xFC01, 0xF89A, 0xF979, 0xF97B, 0xA170] = some (.lih { a := 5, lo := 0x30, xi := [0x9A, 0x179, 0x17B] })
    ∧ dec [0xFC01, 0xF808, 0xF8C8, 0x614C] = some (.bfx { a := 5, b := 6, xi := [8, 0xC8] })
    ∧ dec [0xFC01, 0xF801, 0xE94C] = some (.fcmp { a := 5, b := 6, xi := [1] })
    ∧ dec [0xFC01, 0xF801, 0xF14C] = some (.fcvt { a := 5, b := 6, xi := [1] })
    ∧ dec [0xFC01, 0xF903, 0xB240] = some (.loop_ { a := 9, xi := [0x103] })
    ∧ dec [0xFC01, 0xF810, 0xB800] = some (.loopi { xi := [0x10] }) := by decide +kernel

theorem test_decode_page_2 :
    dec [0xFC02, 0x09C4] = some (.ldbu { a := 7, b := 2 })
    ∧ dec [0xFC02, 0x36AE] = some (.sth { a := 26, b := 23 })
    ∧ dec [0xFC02, 0x4940] = some (.fence { a := 5 })
    ∧ dec [0xFC02, 0x6848] = some (.qbind { a := 1, b := 4 })
    ∧ dec [0xFC02, 0xF80B, 0x78CC] = some (.xput { a := 3, b := 6, xi := [11] })
    ∧ dec [0xFC02, 0xF802, 0xC254] = some (.qsend { a := 9, b := 10, xi := [2] })
    ∧ dec [0xFC02, 0xFA52, 0xF804, 0xC002] = some (.qsendWho { b := 33, c := 5, exr := true, xi := [4] })
    ∧ dec [0xFC02, 0xCAC0] = some (.time_ { a := 11 }) := by decide +kernel

theorem test_decode_page_3 :
    dec [0xFC03, 0xFA90, 0x0086] = some (.bind_ { a := 2, b := 3, c := 9, exr := true })
    ∧ dec [0xFC03, 0xFA02, 0x1A06] = some (.acqx { a := 8, b := 35, exr := true })
    ∧ dec [0xFC03, 0x2080] = some (.rel_ { a := 2 })
    ∧ dec [0xFC03, 0xFA50, 0xF800, 0x4188] = some (.atom { a := 6, b := 4, c := 5, exr := true, xi := [0] })
    ∧ dec [0xFC03, 0x6941] = some (.bar_ { a := 5, lo := 1 })
    ∧ dec [0xFC03, 0xF802, 0x8104] = some (.ldref { a := 4, b := 2, xi := [2] }) := by decide +kernel

theorem test_decode_pages_4_and_5 :
    dec [0xFC04, 0x0044] = some (.vadd { a := 1, b := 2 })
    ∧ dec [0xFC04, 0xFA30, 0x190A] = some (.vfma { a := 4, b := 5, c := 3, exr := true })
    ∧ dec [0xFC04, 0xFA20, 0xF801, 0x40C8] = some (.vcmp { a := 3, b := 4, c := 2, exr := true, xi := [1] })
    ∧ dec [0xFC04, 0xF800, 0xB18E] = some (.vred { a := 6, b := 7, xi := [0] })
    ∧ dec [0xFC04, 0xF810, 0xE886] = some (.vcvt { a := 2, b := 3, xi := [0x10] })
    ∧ dec [0xFC04, 0xC84E] = some (.vbcast { a := 1, b := 7 })
    ∧ dec [0xFC05, 0xF880, 0x0048] = some (.vld { a := 1, b := 4, xi := [0x80] })
    ∧ dec [0xFC05, 0xFA10, 0x1088] = some (.vldx { a := 2, b := 4, c := 1, exr := true })
    ∧ dec [0xFC05, 0x6008] = some (.vshare { lo := 8 })
    ∧ dec [0xFC05, 0xF807, 0x5800] = some (.rejoin { xi := [7] }) := by decide +kernel

theorem test_decode_pages_6_and_7 :
    dec [0xFC06, 0x19CA] = some (.joins { a := 7, b := 5 })
    ∧ dec [0xFC06, 0xF801, 0x2140] = some (.liveGet { a := 5, xi := [1] })
    ∧ dec [0xFC06, 0xFA74, 0x310C] = some (.mxc { a := 36, b := 6, c := 7, exr := true })
    ∧ dec [0xFC06, 0xFA70, 0xF801, 0x594C] = some (.tqget { a := 5, b := 6, c := 7, exr := true, xi := [1] })
    ∧ dec [0xFC06, 0xF803, 0x894C] = some (.gscan { a := 5, b := 6, xi := [3] })
    ∧ dec [0xFC06, 0xFA04, 0x9190] = some (.a2a { a := 38, b := 8, exr := true })
    ∧ dec [0xFC07, 0xF811, 0x0140] = some (.sysrd { a := 5, xi := [0x11] })
    ∧ dec [0xFC07, 0xF810, 0x080E] = some (.syswr { b := 7, xi := [0x10] })
    ∧ dec [0xFC07, 0xF801, 0x1000] = some (.tretSkip { xi := [1] })
    ∧ dec [0xFC07, 0x2000] = some (.brk {})
    ∧ dec [0xFC07, 0xFB81, 0xF807, 0xF901, 0x0000] = some (.sysrd { a := 0, c := 56, exr := true, xi := [7, 0x101] }) := by decide +kernel

/-! ### One step of one instruction -/

/-- The value an instruction leaves in g5 of its strand. -/
def g5After (r : Res) (w : Word) : Bool := sees r fun t => gGet t t.cur.sid 5 == w

theorem test_add_wraps : g5After (exec (.add ab) (gg stA (2 ^ 64 - 1) 2)) 1#64 = true := by decide +kernel
theorem test_sub_borrows : g5After (exec (.sub_ ab) (gg stA 1 2)) (BitVec.allOnes 64) = true := by decide +kernel
theorem test_shl_takes_six_bits : g5After (exec (.shl ab) (gg stA 1 65)) 2#64 = true := by decide +kernel
theorem test_sra_keeps_the_sign : g5After (exec (.sra ab) (gg stA (2 ^ 63) 63)) (BitVec.allOnes 64) = true := by decide +kernel
theorem test_slt_is_signed : g5After (exec (.slt ab) (gg stA (2 ^ 64 - 1) 0)) 1#64 = true := by decide +kernel

/-- The worked example of BFX.S (spec/10): the field 0b1010 of 0xA00, sign-extended. -/
theorem test_bfx_worked_example : g5After (exec (.bfx { ab with xi := [8, 0xC8] }) (gg stA 0 0xA00)) 0xFFFFFFFFFFFFFFFA#64 = true := by
  decide +kernel

/-- BNE three words back is taken when its operands differ, from 0x1000 (R224). -/
theorem test_bne_branches_back :
    sees (exec (.bne { ab with xi := [0x1FD] }) (gg stA 1 2)) (fun t => (slotAt t 1).pc == 0xFFA) = true := by decide +kernel
theorem test_bne_falls_through :
    sees (exec (.bne { ab with xi := [0x1FD] }) (gg stA 2 2)) (fun t => (slotAt t 1).pc == 0x1002) = true := by decide +kernel

/-- A store's bytes reach its bank little-endian. -/
theorem test_store_is_little_endian :
    sees (exec .accessPerform (ev (withAcc stA accSt) { a := 9 })) (fun t => mget t.mem (spKey 0 0x100) == 0x88#8
      && mget t.mem (spKey 0 0x107) == 0x11#8) = true := by decide +kernel

/-- An unaligned LDD traps with ALIGN; SVC 1 traps with cause 0x1B and the next address; UDF with ILLEGAL, reason 1. -/
theorem test_ldd_traps_unaligned :
    sees (exec (.ldd ab) (gm stA 0 0x101)) (fun t => (slotAt t 1).st == .trapped && (slotAt t 1).tcause == 5) = true := by decide +kernel
theorem test_svc_traps :
    sees (exec (.svc { lo := 1 }) stA) (fun t => (slotAt t 1).tcause == 0x1B && (slotAt t 1).tvalue == 1#64 && (slotAt t 1).tepc == 0x1002)
      = true := by decide +kernel
theorem test_udf_traps :
    sees (exec (.udf {}) stA) (fun t => (slotAt t 1).tcause == 1 && (slotAt t 1).tval2 == 1#64 && (slotAt t 1).tepc == 0x1000) = true := by
  decide +kernel

/-! ### The hypotheses of each statement are met (one theorem a statement) -/

theorem witness_StepRunsTheDecodedInstruction :
    dueEvent State.reset = some ((.powerOn, {}), [])
    ∧ takeEvent 0 stampFirst [(0, .xputArrival, {}), (0, .gangSwitch, {})] = some ((.gangSwitch, {}), [(0, .xputArrival, {})])
    ∧ takeEvent 0 stampFirst [(0, .presTimeout, {}), (0, .xputArrival, {})] = none
    ∧ takeEvent 0 arrivalFirst [(0, .presTimeout, {}), (0, .xputArrival, {})] = some ((.xputArrival, {}), [(0, .presTimeout, {})])
    ∧ (let s : State := { mk 1 { st := .ready, pc := 0x1000, redo := some { id := 9, pc := 0x1000, inh := false } } with accs := [(9, { acc0 with perfAt := 200 })] }
       dueEvent s = none ∧ choose s s.slots = some 1 ∧ redoNow (stepTaken 1 s) 1 = some { id := 9, pc := 0x1000, inh := false })
    ∧ (let s := placeWord State.reset 16 0x094E
       let u := issueState 0 s
       dueEvent s = none ∧ choose s s.slots = some 0 ∧ redoNow (stepTaken 0 s) 0 = none ∧ (slotAt u 0).fwd = [] ∧ (slotAt u 0).pc % 2 = 0
       ∧ fetchWords u 0 5 (slotAt u 0).pc = .words [0x094E] ∧ decodeWords (accepted u (pkgOfC (cidOf 0))) [0x094E] = .ok (.add ab))
    ∧ (let s : State := mk 1 { st := .ready, fwd := [⟨0x1000, [0x094E], 0x1002, true⟩] }
       let u := issueState 1 s
       dueEvent s = none ∧ choose s s.slots = some 1 ∧ redoNow (stepTaken 1 s) 1 = none
       ∧ (slotAt u 1).fwd = [⟨0x1000, [0x094E], 0x1002, true⟩] ∧ decodeWords (accepted u (pkgOfC (cidOf 1))) [0x094E] = .ok (.add ab))
    ∧ (let s : State := { now := 100, agenda := [(100, .barTimeout, {})] }
       dueEvent s = none ∧ choose s s.slots = none ∧ lateEvent s = some ((.barTimeout, {}), []))
    ∧ dueEvent {} = none ∧ choose {} [] = none ∧ lateEvent {} = none
    ∧ overfull stA = none
    ∧ (let s : State := { now := 100, agenda := [(100, .watchMade, {}), (100, .accessPerform, { a := 9 }), (100, .scComplete, { a := 8 })] }
       takeEvent s.now stampFirst s.agenda = none ∧ takeEvent s.now arrivalFirst s.agenda = none
       ∧ takeEvent s.now scFirst s.agenda = some ((.scComplete, { a := 8 }), [(100, .watchMade, {}), (100, .accessPerform, { a := 9 })]))
    ∧ (let s : State := { now := 100, agenda := [(100, .watchMade, {}), (101, .accessPerform, { a := 9 })] }
       takeEvent s.now stampFirst s.agenda = none ∧ takeEvent s.now arrivalFirst s.agenda = none ∧ takeEvent s.now scFirst s.agenda = none
       ∧ takeEvent s.now (fun i => !comesLast i && !afterStores i) s.agenda = none ∧ (takeEvent s.now afterStores s.agenda).isSome = true) := by
  and_intros <;> first | decide +kernel | rfl | exact ⟨rfl, rfl⟩ | exact ⟨rfl, _, rfl, rfl⟩ | exact ⟨_, rfl, rfl⟩ | exact ⟨_, rfl⟩ | exact fun h => absurd h (by decide)

theorem witness_RefusedWordsTrap :
    (let s := placeWord State.reset 32 0xFC080800
     let u := issueState 0 s
     dueEvent s = none ∧ choose s s.slots = some 0 ∧ redoNow (stepTaken 0 s) 0 = none ∧ (slotAt u 0).fwd = [] ∧ (slotAt u 0).pc % 2 = 0
     ∧ fetchWords u 0 5 (slotAt u 0).pc = .words [0xFC08, 0x0800] ∧ decodeWords (accepted u (pkgOfC (cidOf 0))) [0xFC08, 0x0800] = .error (.illegal 3))
    ∧ (let s := placeWord State.reset 48 0xFC02FA007000
       let u := issueState 0 s
       dueEvent s = none ∧ choose s s.slots = some 0 ∧ redoNow (stepTaken 0 s) 0 = none ∧ (slotAt u 0).fwd = [] ∧ (slotAt u 0).pc % 2 = 0
       ∧ fetchWords u 0 5 (slotAt u 0).pc = .words [0xFC02, 0xFA00, 0x7000] ∧ decodeWords (accepted u (pkgOfC (cidOf 0))) [0xFC02, 0xFA00, 0x7000] = .error (.queueKind 256))
    ∧ (let s : State := mk 1 { st := .ready, pc := 0x1001 }
       dueEvent s = none ∧ choose s s.slots = some 1 ∧ redoNow (stepTaken 1 s) 1 = none ∧ (slotAt (issueState 1 s) 1).fwd = []
       ∧ (slotAt (issueState 1 s) 1).pc % 2 = 1) := by
  and_intros <;> first | decide +kernel | rfl | exact ⟨rfl, rfl⟩ | exact ⟨rfl, _, rfl, rfl⟩ | exact ⟨_, rfl, rfl⟩ | exact ⟨_, rfl⟩ | exact fun h => absurd h (by decide)

theorem witness_DecodeOfEncodeIsTheInstruction :
    Instr.wf (.add ab) = true
    ∧ Instr.wf (.ffma { a := 63, b := 63, c := 31, l := true, la := true, exr := true, exq := some 0x1FF, xi := [0x1FF] }) = true
    ∧ Instr.wf (.jmp { lo := 0x7FF, xi := [0x1FF, 0, 0x100] }) = true := by
  and_intros <;> first | decide +kernel | rfl | exact ⟨rfl, rfl⟩ | exact ⟨rfl, _, rfl, rfl⟩ | exact ⟨_, rfl, rfl⟩ | exact ⟨_, rfl⟩ | exact fun h => absurd h (by decide)

theorem witness_StepKeepsMemoryCanonical :
    (State.memOk {} ∧ step {} = .next { now := 1 })
    ∧ (let s : State := { withAcc stA accSt with agenda := [(100, .accessPerform, { a := 9 })] }
       State.memOk s ∧ sees (step s) (fun t => mread t.mem (spKey 0 0x100) 8 == natBytes 8 0x1122334455667788) = true) := by
  and_intros <;> first | decide +kernel | rfl | exact ⟨rfl, rfl⟩ | exact ⟨rfl, _, rfl, rfl⟩ | exact ⟨_, rfl, rfl⟩ | exact ⟨_, rfl⟩ | exact fun h => absurd h (by decide)

theorem witness_ClassChecksOfEverySequencer :
    (slotAt stX stX.cur.sid).xseq = true ∧ slotNo stX.cur.sid ≠ 0 ∧ classTrap .a stX = some 2
    ∧ (slotAt stA stA.cur.sid).xseq = false ∧ slotNo stA.cur.sid ≠ 0
    ∧ slotNo stU.cur.sid = 0 ∧ (coreAt stU (cidOf stU.cur.sid)).modeS = false ∧ classTrap .s stU = some 3
    ∧ slotNo stS.cur.sid = 0 ∧ (coreAt stS (cidOf stS.cur.sid)).modeS = true := by
  and_intros <;> first | decide +kernel | rfl | exact ⟨rfl, rfl⟩ | exact ⟨rfl, _, rfl, rfl⟩ | exact ⟨_, rfl, rfl⟩ | exact ⟨_, rfl⟩ | exact fun h => absurd h (by decide)

theorem witness_TrapEntry :
    (let s : State := { slots := [(0, { st := .ready, pc := 0x2000 }), (3, { st := .trapped })], cores := [(0, { pend := [10, 3] })] }
     (coreAt s 0).inh = false ∧ (slotAt s (0 * 16)).st ≠ .free ∧ (coreAt s 0).wfe = none ∧ switchHeld s 0 = false
     ∧ (coreAt s 0).retAt ≤ s.now ∧ lowest (coreAt s 0).pend = some 3 ∧ s.ev.a = 0 ∧ s.ev.flag = false)
    ∧ (let s : State := { slots := [(0, { st := .trapped, tepc := 0x2000 })], cores := [(0, { pend := [0] })] }
       (coreAt s 0).inh = false ∧ (slotAt s (0 * 16)).st ≠ .free ∧ (coreAt s 0).wfe = none ∧ switchHeld s 0 = false
       ∧ (coreAt s 0).retAt ≤ s.now ∧ lowest (coreAt s 0).pend = some 0)
    ∧ (let s : State := { stU with cores := [(0, { retAt := 102, pend := [3] })] }
       (coreAt s 0).inh = false ∧ (slotAt s (0 * 16)).st ≠ .free ∧ switchHeld s 0 = false ∧ s.now < (coreAt s 0).retAt
       ∧ lowest (coreAt s 0).pend = some 3)
    ∧ (let s : State := { stU with cores := [(0, { gang := some 5 })], gangs := [(5, { pkey := 0, job := 1, x0 := 0, y0 := 0, w := 1, h := 1, halted := 3 })] }
       switchHeld s 0 = true)
    ∧ (coreAt { cores := [(0, { inh := true })] } 0).inh = true := by
  and_intros <;> first | decide +kernel | rfl | exact ⟨rfl, rfl⟩ | exact ⟨rfl, _, rfl, rfl⟩ | exact ⟨_, rfl, rfl⟩ | exact ⟨_, rfl⟩ | exact fun h => absurd h (by decide)

theorem witness_TrapRecord :
    slotNo 1 ≠ 0 ∧ slotNo 10 ≠ 0 ∧ (coreAt stA (cidOf 1)).wfe = none
    ∧ (let s : State := { stA with cores := [(0, { inh := true })] }
       (coreAt s (cidOf 1)).wfe = none ∧ (coreAt s (cidOf 1)).inh = true)
    ∧ (slotAt stA 1).killed = false ∧ (slotAt (mk 1 { st := .waiting, killed := true }) 1).killed = true
    ∧ (let s : State := { stA with cores := [(0, { inh := true, tookAt := 101, tslot := 10 })] }
       (coreAt s (cidOf 1)).wfe = none ∧ (coreAt s (cidOf 1)).tookAt = s.now + 1 ∧ slotNo 1 < (coreAt s (cidOf 1)).tslot) := by
  and_intros <;> first | decide +kernel | rfl | exact ⟨rfl, rfl⟩ | exact ⟨rfl, _, rfl, rfl⟩ | exact ⟨_, rfl, rfl⟩ | exact ⟨_, rfl⟩ | exact fun h => absurd h (by decide)

theorem witness_DoubleTrapHalts :
    slotNo 0 = 0 ∧ (coreAt { stS with cores := [(0, { inh := true })] } (cidOf 0)).inh = true ∧ (slotAt stS 0).killed = false := by
  and_intros <;> first | decide +kernel | rfl | exact ⟨rfl, rfl⟩ | exact ⟨rfl, _, rfl, rfl⟩ | exact ⟨_, rfl, rfl⟩ | exact ⟨_, rfl⟩ | exact fun h => absurd h (by decide)

theorem witness_RegisterOperandsRead :
    63 < 64 ∧ ¬ (32 ≤ 63 ∧ 63 < 48) ∧ 63 ≠ 0 ∧ ¬ (32 ≤ 31 ∧ 31 < 48) ∧ ¬ (32 ≤ 48 ∧ 48 < 48)
    ∧ regOf 63 ∈ (slotAt (mk 1 { st := .ready, busy := [47] }) 1).busy
    ∧ (regOf 63 ∉ (slotAt { stA with place := [(1 * 128 + 47, .frame)] } 1).busy
       ∧ tget ([(1 * 128 + 47, Place.frame)] : Tab Place) (1 * 128 + regOf 63) .phys ≠ .phys)
    ∧ (slotAt (mk 1 { st := .ready, pres := 0 }) 1).pres.toNat.testBit (regOf 63) = false
    ∧ (slotAt stA 1).pres.toNat.testBit (regOf 63) = true ∧ (slotAt stA 1).live.toNat.testBit (regOf 63) = true
    ∧ (let s : State := { mk 1 { st := .ready, live := 0 } with cores := [(0, { strict := true })] }
       (slotAt s 1).live.toNat.testBit (regOf 1) = false ∧ (coreAt s (cidOf 1)).strict = true)
    ∧ (coreAt stA (cidOf 1)).strict = false := by
  and_intros <;> first | decide +kernel | rfl | exact ⟨rfl, rfl⟩ | exact ⟨rfl, _, rfl, rfl⟩ | exact ⟨_, rfl, rfl⟩ | exact ⟨_, rfl⟩ | exact fun h => absurd h (by decide)

/-- A local ring of four slots behind handle 0, with one slot filled. -/
def ringS (kind : Nat) : State :=
  memSet64 (spKey 0 0x208) 1#64 { stA with q := [(16, { kind := kind, sz := 2, hdr := 0x200 })] }

theorem witness_HandleOperandsRead :
    80 + (47 - 32) ∉ (slotAt stA stA.cur.sid).busy
    ∧ kindSrc (hGet stA 1 (47 - 32)).kind = false
    ∧ (hGet (ringS 1) 1 (32 - 32)).kind = 1 ∧ (hGet (ringS 4) 1 (32 - 32)).kind = 4
    ∧ (hGet (ringS 5) 1 0).kind = 5 ∧ (hGet (ringS 7) 1 0).kind = 7
    ∧ hCap (hGet (ringS 1) 1 0) < 5
    ∧ (4 ≤ hCap (hGet (ringS 1) 1 0) ∧ hFilled (ringS 1) 1 (hGet (ringS 1) 1 0) < 4)
    ∧ (1 ≤ hCap (hGet (ringS 1) 1 0) ∧ 1 ≤ hFilled (ringS 1) 1 (hGet (ringS 1) 1 0)) := by
  and_intros <;> first | decide +kernel | rfl | exact ⟨rfl, rfl⟩ | exact ⟨rfl, _, rfl, rfl⟩ | exact ⟨_, rfl, rfl⟩ | exact ⟨_, rfl⟩ | exact fun h => absurd h (by decide)

/-- A strand in loops whose last instruction is the one at issue, with these counts. -/
def loops (a b : Nat) : State :=
  mk 1 { st := .ready, lc0 := lcMake 3 a, lc1 := lcMake 4 b, lb0 := word (0xFF0 + 8 * 2 ^ 56), lb1 := word (0xFE0 + 16 * 2 ^ 56) }

theorem witness_CompletionAdvancesThePc :
    ({ stA with cur := { stA.cur with xfer := some 0x2000 } }).cur.xfer = some 0x2000
    ∧ ((loops 2 2).cur.xfer = none ∧ lcCur (slotAt (loops 2 2) 1).lc0 = 2 ∧ lbEnd (slotAt (loops 2 2) 1).lb0 = 0x1000)
    ∧ (lcCur (slotAt (loops 1 0) 1).lc0 = 1 ∧ lcCur (slotAt (loops 1 0) 1).lc1 = 0)
    ∧ (lcCur (slotAt (loops 1 2) 1).lc0 = 1 ∧ lcCur (slotAt (loops 1 2) 1).lc1 = 2 ∧ lbEnd (slotAt (loops 1 2) 1).lb1 = 0x1000)
    ∧ (lcCur (slotAt (loops 1 1) 1).lc0 = 1 ∧ lcCur (slotAt (loops 1 1) 1).lc1 = 1)
    ∧ (lcCur (slotAt (loops 0 2) 1).lc0 = 0 ∧ lcCur (slotAt (loops 0 2) 1).lc1 = 2)
    ∧ (lcCur (slotAt (loops 0 1) 1).lc0 = 0 ∧ lcCur (slotAt (loops 0 1) 1).lc1 = 1)
    ∧ (lcCur (slotAt (loops 0 0) 1).lc0 = 0 ∧ lcCur (slotAt (loops 0 0) 1).lc1 = 0) := by
  and_intros <;> first | decide +kernel | rfl | exact ⟨rfl, rfl⟩ | exact ⟨rfl, _, rfl, rfl⟩ | exact ⟨_, rfl, rfl⟩ | exact ⟨_, rfl⟩ | exact fun h => absurd h (by decide)

theorem witness_ResultsReachTheirRegister :
    (0 < 1 ∧ 63 < 64)
    ∧ (let s := ev stA { a := 1, b := 0, c := 63, w := 5 }
       (slotAt s s.ev.a).gen = s.ev.b ∧ (slotAt s s.ev.a).st ≠ .free ∧ (slotAt s s.ev.a).st ≠ .swapped ∧ 0 < s.ev.c ∧ s.ev.c < 64)
    ∧ freedLife (ev { slots := [(1, { st := .free, gen := 3 })] } { a := 1, b := 3, c := 63, w := 5 }) 1 3 = true
    ∧ (let s := ev { stA with place := [(1 * 128 + 63, .frame)] } { a := 1, b := 0, c := 63, w := 5 }
       (slotAt s s.ev.a).gen = s.ev.b ∧ (slotAt s s.ev.a).st ≠ .swapped ∧ tget s.place (fileKey s.ev.a s.ev.c) .phys = .frame)
    ∧ tget stA.place (fileKey 1 63) .phys ≠ .frame := by
  and_intros <;> first | decide +kernel | rfl | exact ⟨rfl, rfl⟩ | exact ⟨rfl, _, rfl, rfl⟩ | exact ⟨_, rfl, rfl⟩ | exact ⟨_, rfl⟩ | exact fun h => absurd h (by decide)

/-- Both operands are read where B is the local ring of `ringS`. -/
theorem witness_TwoSourceInstructionsWriteTheirResult :
    (readsAB .b ab (gg stA 5 7) 5#64 7#64 (atIssue (gg stA 5 7)) ∧ dstFree ab (atIssue (gg stA 5 7)))
    ∧ (∃ t, readsAB .b { a := 5, b := 32, exr := true, c := 63 } (ringS 1) 0#64 0#64 t ∧ dstFree { a := 5, b := 32, exr := true, c := 63 } t) := by
  refine ⟨⟨⟨rfl, _, rfl, rfl⟩, rfl⟩, _, ⟨rfl, _, rfl, rfl⟩, rfl⟩

theorem witness_DivisionResults :
    readsAB .b ab (gg stA 5 0) 5#64 0#64 (atIssue (gg stA 5 0))
    ∧ readsAB .b ab (gg stA 7 2) 7#64 2#64 (atIssue (gg stA 7 2)) ∧ 2#64 ≠ 0#64
    ∧ (let s := gg stA 0x8000000000000000 0xFFFFFFFFFFFFFFFF
       readsAB .b ab s 0x8000000000000000#64 (BitVec.allOnes 64) (atIssue s) ∧ dstFree ab (atIssue s)) := by
  and_intros <;> first | decide +kernel | rfl | exact ⟨rfl, rfl⟩ | exact ⟨rfl, _, rfl, rfl⟩ | exact ⟨_, rfl, rfl⟩ | exact ⟨_, rfl⟩ | exact fun h => absurd h (by decide)

theorem witness_OneSourceAndFieldResults :
    (readsB .b ab (gg stA 5 7) 7#64 (atIssue (gg stA 5 7)) ∧ dstFree ab (atIssue (gg stA 5 7)))
    ∧ bfOk { ab with xi := [0x07, 0x1C0] } true = true ∧ bfOk { ab with xi := [0x07, 0x1C0] } false = true
    ∧ bfOk { ab with xi := [0x1FF, 0x1FF] } true = false ∧ bfOk ab false = false
    ∧ (let o := { ab with xi := [51] }
       o.xi.length = 1 ∧ (bitsR o).1 < 64 ∧ (bitsR o).1 / 4 < 13)
    ∧ (let o := { ab with xi := [4] }
       o.xi.length = 1 ∧ (bitsR o).1 < 5)
    ∧ (let o := { ab with xi := [5] }
       5 ≤ (bitsR o).1)
    ∧ readsAB .b ab (gg stA 5 7) 5#64 7#64 (atIssue (gg stA 5 7))
    ∧ srcC { ab with c := 5, exr := true } (atIssue (gg stA 5 7)) = .ok (5#64, atIssue (gg stA 5 7)) := by
  and_intros <;> first | decide +kernel | rfl | exact ⟨rfl, rfl⟩ | exact ⟨rfl, _, rfl, rfl⟩ | exact ⟨_, rfl, rfl⟩ | exact ⟨_, rfl⟩ | exact fun h => absurd h (by decide)

theorem witness_ImmediateFormsWriteTheirResult :
    (let o : Ops := { a := 5, lo := 63, xi := [0x1FF, 0, 1] }
     o.xi.length ≤ 3 ∧ readsA .b o (gg stA 5 7) 5#64 (atIssue (gg stA 5 7)) ∧ dstFree o (atIssue (gg stA 5 7)) ∧ o.exr = false)
    ∧ ({ a := 0, exr := true, c := 63 } : Ops).a = 0 := by
  and_intros <;> first | decide +kernel | rfl | exact ⟨rfl, rfl⟩ | exact ⟨rfl, _, rfl, rfl⟩ | exact ⟨_, rfl, rfl⟩ | exact ⟨_, rfl⟩ | exact fun h => absurd h (by decide)

theorem witness_BranchesAndJumps :
    readsAB .b ab (gg stA 5 5) 5#64 5#64 (atIssue (gg stA 5 5)) ∧ readsAB .b ab (gg stA 5 7) 5#64 7#64 (atIssue (gg stA 5 7))
    ∧ 1 ∉ (slotAt stA stA.cur.sid).busy ∧ tget stA.place (stA.cur.sid * 128 + 1) .phys = .phys
    ∧ (readsB .b ab (gg stA 5 0x2000) 0x2000#64 (atIssue (gg stA 5 0x2000)) ∧ dstFree ab (atIssue (gg stA 5 0x2000))
       ∧ (((wfield 0x2000#64 0 56 : Nat) : Int) + 2 * immR ab) % 2 ^ 56 % 2 = 0)
    ∧ (readsB .b ab (gg stA 5 0x2001) 0x2001#64 (atIssue (gg stA 5 0x2001)) ∧ dstFree ab (atIssue (gg stA 5 0x2001))
       ∧ (((wfield 0x2001#64 0 56 : Nat) : Int) + 2 * immR ab) % 2 ^ 56 % 2 = 1) := by
  and_intros <;> first | decide +kernel | rfl | exact ⟨rfl, rfl⟩ | exact ⟨rfl, _, rfl, rfl⟩ | exact ⟨_, rfl, rfl⟩ | exact ⟨_, rfl⟩ | exact fun h => absurd h (by decide)

theorem witness_LoopsSetTheirLevel :
    (readsA .b { a := 5, xi := [0x110] } (gg stA (2 ^ 32 - 1) 7) (word (2 ^ 32 - 1)) (atIssue (gg stA (2 ^ 32 - 1) 7))
     ∧ 0 < (word (2 ^ 32 - 1)).toNat ∧ (word (2 ^ 32 - 1)).toNat < 2 ^ 32
     ∧ lcCur (slotAt (atIssue (gg stA (2 ^ 32 - 1) 7)) 1).lc0 = 0 ∧ lcCur (slotAt (atIssue (gg stA (2 ^ 32 - 1) 7)) 1).lc1 = 0)
    ∧ (let o : Ops := { a := 1, lo := 0, xi := [4] }
       o.exr = false ∧ o.a.toNat < 2 ∧ 0 < (bitsI o).1 / 256 ∧ (bitsI o).1 / 256 < 2 ^ 32 ∧ lcCur (slotAt stA 1).lc0 = 0)
    ∧ lcCur (slotAt (loops 1 0) 1).lc0 ≠ 0
    ∧ loopNest (slotAt (loops 1 0) 1) 1 0x1002 8 = some 2
    ∧ loopNest (slotAt (loops 1 0) 1) 0 0x1002 8 = some 1 ∧ loopNest (slotAt (loops 0 1) 1) 0 0x1002 8 = some 3
    ∧ loopNest (slotAt (loops 1 0) 1) 0 0xFF0 8 = none ∧ loopNest (slotAt (loops 0 1) 1) 1 0xFE0 16 = none
    ∧ loopNest (slotAt (loops 0 1) 1) 0 0xFE0 16 = none ∧ loopNest (slotAt (loops 0 0) 1) 1 0x1002 255 = none
    ∧ (let s : State := placeWord (gg stA 0 7) 16 0x094E
       readsA .b { a := 5, xi := [0x100] } s 0#64 (atIssue s) ∧ loopNest (slotAt (atIssue s) 1) 1 0x1002 0 = none
       ∧ fetched (fetchWords (atIssue s) 1 5 0x1002) = 2)
    ∧ (let s : State := { gm stA 0 0 with cur := { sid := 1, ipc := ownBase + 0xFE, words := [0x094E] }, mem := mwrite [] (spKey 0 0x100) [0x4E, 0x09] }
       fetched (fetchWords (atIssue s) 1 5 (ownBase + 0x100)) = 1)
    ∧ (readsA .b { a := 5 } (gg stA (2 ^ 32) 7) (word (2 ^ 32)) (atIssue (gg stA (2 ^ 32) 7)) ∧ 2 ^ 32 ≤ (word (2 ^ 32)).toNat)
    ∧ 1 < ({ a := 5, xi := [0, 0] } : Ops).xi.length ∧ 2 ≤ ({ a := 2 } : Ops).a.toNat ∧ ({ exr := true } : Ops).exr = true := by
  and_intros <;> first | decide +kernel | rfl | exact ⟨rfl, rfl⟩ | exact ⟨rfl, _, rfl, rfl⟩ | exact ⟨_, rfl, rfl⟩ | exact ⟨_, rfl⟩ | exact fun h => absurd h (by decide)

/-- A pair of strands, slots 1 (A) and 2 (X), with an outcome that X pushed. -/
def pairS (br : List (Bool × Bool × Nat)) : State :=
  { stA with
    slots := [(1, { st := .ready, paired := true, partner := 2 }), (2, { st := .ready, paired := true, partner := 1, xseq := true })]
    g := [(71, 7#64)], q := [(31, { kind := 2 })]
    pairs := [(0, { used := true, br := br })] }

theorem witness_BranchOutcomeQueue :
    (let s := pairS []
     readsB .b ab s 7#64 (atIssue s) ∧ (slotAt s s.cur.sid).paired = true ∧ partnerGone s s.cur.sid = false
     ∧ drained s s.cur.sid = true ∧ (pairAt s (pairKey s s.cur.sid)).br.length < 32
     ∧ takeBranch (slotAt s s.cur.sid).xseq (pairAt s (pairKey s s.cur.sid)).br = none)
    ∧ (let s := pairS [(true, true, 100)]
       takeBranch (slotAt s s.cur.sid).xseq (pairAt s (pairKey s s.cur.sid)).br = some ((true, 100), []) ∧ 100 ≤ s.now)
    ∧ ((slotAt (gg stA 5 7) 1).paired = false ∧ readsB .b ab (gg stA 5 7) 7#64 (atIssue (gg stA 5 7)) ∧ drained (gg stA 5 7) 1 = true)
    ∧ (let s := pairS (List.replicate 32 (false, true, 100))
       32 ≤ (pairAt s (pairKey s s.cur.sid)).br.length ∧ (slotAt s s.cur.sid).paired = true ∧ partnerGone s s.cur.sid = false)
    ∧ (let s := pairS [(true, false, 101)]
       takeBranch (slotAt s s.cur.sid).xseq (pairAt s (pairKey s s.cur.sid)).br = some ((false, 101), []) ∧ s.now < 101)
    ∧ (let s := { pairS [] with slots := [(1, { st := .ready, paired := true, partner := 2 })] }
       (slotAt s s.cur.sid).paired = true ∧ partnerGone s s.cur.sid = true
       ∧ takeBranch (slotAt s s.cur.sid).xseq (pairAt s (pairKey s s.cur.sid)).br = none
       ∧ readsB .b ab s 7#64 (atIssue s) ∧ drained s s.cur.sid = true)
    ∧ (let s := { pairS [(true, true, 100)] with slots := [(1, { st := .ready, paired := true, partner := 2 })] }
       partnerGone s s.cur.sid = true ∧ takeBranch (slotAt s s.cur.sid).xseq (pairAt s (pairKey s s.cur.sid)).br ≠ none) := by
  and_intros <;> first | decide +kernel | rfl | exact ⟨rfl, rfl⟩ | exact ⟨rfl, _, rfl, rfl⟩ | exact ⟨_, rfl, rfl⟩ | exact ⟨_, rfl⟩ | exact fun h => absurd h (by decide)

theorem witness_ScalarFrame :
    readsAB .b ab (gg stA 5 7) 5#64 7#64 (atIssue (gg stA 5 7)) ∧ readsA .b ab (gg stA 5 7) 5#64 (atIssue (gg stA 5 7))
    ∧ readsB .b ab (gg stA 5 7) 7#64 (atIssue (gg stA 5 7)) ∧ dstFree ab (atIssue (gg stA 5 7)) ∧ dstRid ab < 64
    ∧ dstRid { ab with exr := true, c := 63 } < 64 ∧ noBreak (gg stA 5 7)
    ∧ sees (exec (.add ab) (gg stA 5 7)) (fun _ => true) = true ∧ sees (exec (.beq ab) (gg stA 5 7)) (fun _ => true) = true := by
  and_intros <;> first | decide +kernel | rfl | exact ⟨rfl, rfl⟩ | exact ⟨rfl, _, rfl, rfl⟩ | exact ⟨_, rfl, rfl⟩ | exact ⟨_, rfl⟩ | exact fun h => absurd h (by decide)

theorem witness_HandleResultsReachTheirSlot :
    (hGet (ringS 1) 1 0).kind = 1 ∧ State.memOk (ringS 1)
    ∧ (hGet (pairS []) 1 15).kind = 2 ∧ (slotAt (pairS []) 1).xseq = false
    ∧ (let s := { pairS [] with q := [(47, { kind := 2 })] }
       (hGet s 2 15).kind = 2 ∧ (slotAt s 2).xseq = true)
    ∧ (let s := { stA with q := [(16, { kind := 3, eng := 2 })] }
       (hGet s 1 0).kind = 3) ∧ 80 ≤ (1 * 128 + 80) % 128 ∧ 80 ≤ (16 * 128 + 95) % 128 := by
  and_intros <;> first | decide +kernel | rfl | exact ⟨rfl, rfl⟩ | exact ⟨rfl, _, rfl, rfl⟩ | exact ⟨_, rfl, rfl⟩ | exact ⟨_, rfl⟩ | exact fun h => absurd h (by decide)

/-- A package whose page 1 has this leaf entry, with pages 0 mapped by nothing. -/
def pages (s : State) (leaf : Nat) : State :=
  memSet64 (devKey 0 24584) (word leaf) (memSet64 (devKey 0 16384) (word (1 + 3 * 2 ^ 13))
    (memSet64 (devKey 0 8192) (word (1 + 2 * 2 ^ 13)) (memSet64 (devKey 0 0) (word (1 + 2 ^ 13)) s)))

/-- Every MTU has walked for the first pages. -/
def walked (s : State) : State := { s with mtus := (List.range 8).map fun k => (k, { seen := List.range 16 }) }

/-- One entry of the range table, over two pages from 0x10000, of this class and hold. -/
def entryS (cls hold : Nat) (usr : Bool) : State :=
  { stA with rt := [(17, ((entryWords 0x10000 0x30000 cls true true usr).1, (entryWords 0x10000 0x30000 cls true true usr).2 + word (hold * 2 ^ 59)))] }

theorem witness_MemoryOperandChecks :
    (inWindow (windowBase + 0x801 * 2 ^ 20) = true ∧ windowTile (tidOfC 0) (windowBase + 0x801 * 2 ^ 20) = none)
    ∧ rtMatch stA 0 0x10000 64 = none
    ∧ (let s := entryS 0 0 true
       let v := rtView (rtAt s (0 * 64 + 17))
       ¬ (inWindow 0x2FFF8 = true ∧ windowTile (tidOfC 0) 0x2FFF8 = none) ∧ rtMatch s 0 0x2FFF8 64 = some 17 ∧ rtMatch s 0 0x2FFFF 64 = some 17
       ∧ v.limit < 0x2FFFF + 2 ∧ 0x2FFF8 + 8 ≤ v.limit ∧ v.cls ≠ 5 ∧ (true = true ∧ v.usr = true))
    ∧ (let v := rtView (rtAt (entryS 0 0 false) 17)
       true = true ∧ v.usr = false)
    ∧ (rtView (rtAt (entryS 5 0 true) 17)).cls = 5
    ∧ ((rtView (rtAt (entryS 2 0 true) 17)).cls = 2 ∧ holdFor (entryS 2 0 true) 0 0 17 = 0)
    ∧ (holdFor (entryS 3 1 true) 0 0 17 ≠ 0 ∧ holdFor (entryS 3 1 true) 0 0 17 ≠ 2)
    ∧ ((rtView (rtAt (entryS 4 2 true) 17)).cls = 4 ∧ holdFor (entryS 4 2 true) 0 0 17 = 2)
    ∧ ((wfield 0#64 0 56 : Nat) : Int) + -1 < 0 ∧ ((wfield (word (2 ^ 56 - 1)) 0 56 : Nat) : Int) + 1 ≥ 2 ^ 56
    ∧ 0 ≤ ((wfield 1#64 0 56 : Nat) : Int) + -1 ∧ ((wfield (word (2 ^ 56 - 1)) 0 56 : Nat) : Int) + 0 < 2 ^ 56
    ∧ 0x2FFF4 % 8 ≠ 0 ∧ 0x2FFF8 % 8 = 0 ∧ wfield 0x2FFF8#64 56 8 = 0 ∧ wfield (word (2 ^ 56)) 56 8 ≠ 0
    ∧ (let s : State := { gm stA 5 0x100 with rt := [(0, ownEntry), (20, ((entryWords (ownBase + 0x100) (ownBase + 0x200) 5 true true true).1, (entryWords (ownBase + 0x100) (ownBase + 0x200) 5 true true true).2))] }
       rtMatch s 0 (ownBase + 0xFF) 64 = some 0 ∧ collTouched s 0 (ownBase + 0xFF) 2 = true ∧ collTouched s 0 (ownBase + 0xFF) 1 = false
       ∧ collTouched s 0 (ownBase + 0x1FF) 1 = true ∧ collTouched s 0 (ownBase + 0x200) 8 = false) := by
  and_intros <;> first | decide +kernel | rfl | exact ⟨rfl, rfl⟩ | exact ⟨rfl, _, rfl, rfl⟩ | exact ⟨_, rfl, rfl⟩ | exact ⟨_, rfl⟩ | exact fun h => absurd h (by decide)

theorem witness_LoadsIssueTheirAccess :
    (let s := gm stA 5 0x108
     readsB .a { ab with xi := [0x1FF] } s (word (ownBase + 0x108)) (atIssue s)
     ∧ rawAt (word (ownBase + 0x108)) (immR { ab with xi := [0x1FF] } * 8) 8 (ownBase + 0x100)
     ∧ rangeOk (atIssue s) (ownBase + 0x100) 8 true false ∧ dstFree { ab with xi := [0x1FF] } (atIssue s)
     ∧ gateFree (atIssue s) (ownBase + 0x100) false)
    ∧ (let p := word (2 ^ 60 + ownBase + 0x104)
       let s : State := { gm stA 5 0 with g := [(71, p)] }
       readsB .a ab s p (atIssue s) ∧ convRow (wfield p 60 4) = some 4 ∧ wfield p 56 4 = 0
       ∧ ((ownBase + 0x104 : Nat) : Int) = (wfield p 0 56 : Nat) + immR ab * 4 ∧ ownBase + 0x104 < 2 ^ 56
       ∧ (ownBase + 0x104) % 4 = 0 ∧ rangeOk (atIssue s) (ownBase + 0x104) 4 true false)
    ∧ (let s := gg stA 5 (7 * 2 ^ 60)
       readsB .a ab s (word (7 * 2 ^ 60)) (atIssue s) ∧ wfield (word (7 * 2 ^ 60)) 60 4 = 7 ∧ dstFree ab (atIssue s)) := by
  and_intros <;> first | decide +kernel | rfl | exact ⟨rfl, rfl⟩ | exact ⟨rfl, _, rfl, rfl⟩ | exact ⟨_, rfl, rfl⟩ | exact ⟨_, rfl⟩ | exact fun h => absurd h (by decide)

theorem witness_StoresIssueTheirAccess :
    (let s := gm stA 5 0x100
     let ea := ownBase + 0x100
     readsB .a ab s (word ea) (atIssue s) ∧ rawAt (word ea) (immR ab * 8) 8 ea ∧ rangeOk (atIssue s) ea 8 false true
     ∧ stepM ea (atIssue s) = .ok ((), atIssue s) ∧ srcA ab (atIssue s) = .ok (5#64, atIssue s) ∧ gateFree (atIssue s) ea true
     ∧ loadsDone (atIssue s) 1 (inScope 1 2) = true ∧ storesDone (atIssue s) 1 (inScope 1 2) = true)
    ∧ loadsDone (atIssue (withAcc (gm stA 5 0x100) acc0)) 1 (inScope 1 2) = false
    ∧ storesDone (atIssue (withAcc (gm stA 5 0x100) accSt)) 1 (inScope 1 2) = false
    ∧ (let p := word (6 * 2 ^ 60 + ownBase + 0x101)
       let s : State := { gm stA 5 0 with g := [(69, 5#64), (71, p)] }
       readsB .a ab s p (atIssue s) ∧ convRow (wfield p 60 4) = some 1 ∧ wfield p 56 4 = 0
       ∧ ((ownBase + 0x101 : Nat) : Int) = (wfield p 0 56 : Nat) + immR ab * 1 ∧ (ownBase + 0x101) % 1 = 0
       ∧ rangeOk (atIssue s) (ownBase + 0x101) 1 false true) := by
  and_intros <;> first | decide +kernel | rfl | exact ⟨rfl, rfl⟩ | exact ⟨rfl, _, rfl, rfl⟩ | exact ⟨_, rfl, rfl⟩ | exact ⟨_, rfl⟩ | exact fun h => absurd h (by decide)

theorem witness_AccessTimes :
    ((routeOf 0 (ownBase + 0x100)).dev = false ∧ (routeOf 0 (ownBase + 0x100)).tid = 0)
    ∧ ((routeOf 0 (windowBase + 0x7FE * 2 ^ 20)).dev = false ∧ (routeOf 0 (windowBase + 0x7FE * 2 ^ 20)).tid ≠ 0)
    ∧ (routeOf 0 (windowBase - 1)).dev = true ∧ acc0.dev = false ∧ { acc0 with dev := true }.dev = true := by
  and_intros <;> first | decide +kernel | rfl | exact ⟨rfl, rfl⟩ | exact ⟨rfl, _, rfl, rfl⟩ | exact ⟨_, rfl, rfl⟩ | exact ⟨_, rfl⟩ | exact fun h => absurd h (by decide)

/-- An access whose answer goes to g63, and a watch. -/
def accReg : Acc := { acc0 with ret := .reg 47 .zext, performed := true, data := natBytes 8 7 }

theorem witness_AccessesPerformAndAnswer :
    (let s := ev (withAcc stA acc0) { a := 9 }
     atItsBank s s.ev.a acc0 (spKey 0 0x100) ∧ acc0.store = false)
    ∧ (let s := ev (withAcc stA accSt) { a := 9 }
       State.memOk s ∧ atItsBank s s.ev.a accSt (spKey 0 0x100) ∧ leafDirty s accSt ∧ accSt.store = true ∧ accSt.cells = [])
    ∧ (let a : Acc := { acc0 with kind := .atom, size := 4, data := natBytes 4 3 }
       let s := ev (withAcc stA a) { a := 9 }
       State.memOk s ∧ atItsBank s s.ev.a a (spKey 0 0x100) ∧ leafDirty s a ∧ a.size = 4)
    ∧ (let a : Acc := { acc0 with kind := .cas, data := natBytes 8 3, cmp := natBytes 8 0 }
       let s := ev (withAcc stA a) { a := 9 }
       State.memOk s ∧ atItsBank s s.ev.a a (spKey 0 0x100) ∧ leafDirty s a ∧ a.data.length = a.size)
    ∧ (let s := ev (withAcc stA accReg) { a := 9 }
       tfind s.accs s.ev.a = some accReg ∧ accAway s s.ev.a = false ∧ accReg.xchg = false ∧ accReg.ret = .reg 47 .zext
       ∧ accLive s accReg = true ∧ (slotAt s accReg.sid).st ≠ .swapped ∧ s.ev.flag = false)
    ∧ (let s := ev (withAcc stA accReg) { a := 9, flag := true }
       tfind s.accs s.ev.a = some accReg ∧ accAway s s.ev.a = false ∧ s.ev.flag = true)
    ∧ (let s := ev (withAcc stA accSt) { a := 9 }
       tfind s.accs s.ev.a = some accSt ∧ accAway s s.ev.a = false ∧ accSt.kind = .store ∧ accSt.xchg = false ∧ accSt.ret = .none ∧ accSt.rejected = false)
    ∧ (let a : Acc := { accSt with ret := .ring 0 0 { target := 0#64, pkg := 0, idx := 0, payload := 5#64, sender := 0#64, srcSid := 1, isQ := true, acc := 8, tenant := 0, part := 0, tag := 0, spill := true, foreign := false } }
       let s := ev (withAcc stA a) { a := 9 }
       tfind s.accs s.ev.a = some a ∧ a.kind = .store ∧ isRing a = true)
    ∧ (let s := ev (withAcc stA accSt) { a := 9 }
       tfind s.accs s.ev.a = some accSt ∧ accSt.xchg = false ∧ isRing accSt = false)
    ∧ (let s := ev (withAcc { stA with place := [(1 * 128 + 47, .frame)] } accReg) { a := 9 }
       tfind s.accs s.ev.a = some accReg ∧ accAway s s.ev.a = false ∧ accLive s accReg = true) := by
  and_intros <;> first | decide +kernel | rfl | exact ⟨rfl, rfl⟩ | exact ⟨rfl, _, rfl, rfl⟩ | exact ⟨_, rfl, rfl⟩ | exact ⟨_, rfl⟩ | exact fun h => absurd h (by decide)

theorem witness_AtomicsAndWatchesIssue :
    (let o := { ab with xi := [16 + 10], exr := true, c := 63 }
     let s := gm stA 5 0x100
     let p := word (ownBase + 0x100)
     atomImm o (atIssue s) = .ok ((10, 4), atIssue s) ∧ readsB .a o s p (atIssue s) ∧ atomAddr p 4 (atIssue s) = .ok (ownBase + 0x100, atIssue s)
     ∧ srcA o (atIssue s) = .ok (5#64, atIssue s) ∧ dstFree o (atIssue s) ∧ gateFree (atIssue s) (ownBase + 0x100) true
     ∧ (strandAccs (markLast o (atIssue s)) s.cur.sid).all (fun p => p.2.dpkg != pkgOfC (cidOf s.cur.sid)) = true)
    ∧ (let o := { ab with xi := [1], exr := true, c := 5 }
       let s := gm stA 5 0x100
       o.xi.length ≤ 1 ∧ (bitsR o).1 < 2 ∧ readsB .a o s (word (ownBase + 0x100)) (atIssue s)
       ∧ srcA o (atIssue s) = .ok (5#64, atIssue s) ∧ atomAddr (word (ownBase + 0x100)) 4 (atIssue s) = .ok (ownBase + 0x100, atIssue s)
       ∧ srcC o (atIssue s) = .ok (5#64, atIssue s) ∧ dstFree o (atIssue s) ∧ gateFree (atIssue s) (ownBase + 0x100) true)
    ∧ (let s := gm stA 5 0x100
       let ea := ownBase + 0x100
       readsB .a ab s (word ea) (atIssue s) ∧ rawAt (word ea) (immR ab * 8) 8 ea ∧ rangeOk (atIssue s) ea 8 true false ∧ dstFree ab (atIssue s)
       ∧ srcA ab (atIssue s) = .ok (5#64, atIssue s) ∧ rangeOk (atIssue s) ea 8 false true ∧ stepM ea (atIssue s) = .ok ((), atIssue s) ∧ gateFree (atIssue s) ea false
       ∧ (strandAccs (markLastB ab (atIssue s)) s.cur.sid).all (fun p => p.2.dpkg != pkgOfC (cidOf s.cur.sid)) = true) := by
  and_intros <;> first | decide +kernel | rfl | exact ⟨rfl, rfl⟩ | exact ⟨rfl, _, rfl, rfl⟩ | exact ⟨_, rfl, rfl⟩ | exact ⟨_, rfl⟩ | exact fun h => absurd h (by decide)

theorem witness_WatchesAndScAccessesComplete :
    (let a : Acc := { acc0 with kind := .watch, cmp := natBytes 8 5, op := 3 }
     let s := ev (withAcc stA a) { a := 9 }
     atItsBank s s.ev.a a (spKey 0 0x100) ∧ a.parked = false ∧ mread s.mem (spKey 0 0x100) 8 ≠ a.cmp
     ∧ (s.accs.filter fun p => p.2.kind == .watch && p.2.performed && !p.2.answered && (match p.2.key with
          | some k => engineOf p.2 k == engineOf a (spKey 0 0x100)
          | none => false)).length < 256)
    ∧ (let s := ev (withAcc (mk 1 { st := .parked, hold := true, heldBy := 9 }) { accReg with kind := .watch }) { a := 9 }
       tfind s.accs s.ev.a = some { accReg with kind := .watch } ∧ heldOn s 1 0 s.ev.a = true ∧ (slotAt s 1).st ≠ .swapped)
    ∧ (let a : Acc := { acc0 with sc := some (0, 0), ret := .reg 47 .zext }
       let s := ev (withAcc (mk 1 { st := .waiting, hold := true, heldBy := 9 }) a) { a := 9 }
       firstSc s a.dpkg = some (s.ev.a, a) ∧ tfind s.accs s.ev.a = some a ∧ a.key = some (spKey 0 0x100) ∧ accRefused s a (spKey 0 0x100) = false
       ∧ a.parked = false ∧ a.store = false
       ∧ a.kind = .load ∧ heldOn s a.sid a.gen s.ev.a = true ∧ (slotAt s a.sid).st ≠ .swapped) := by
  and_intros <;> first | decide +kernel | rfl | exact ⟨rfl, rfl⟩ | exact ⟨rfl, _, rfl, rfl⟩ | exact ⟨_, rfl, rfl⟩ | exact ⟨_, rfl⟩ | exact fun h => absurd h (by decide)

theorem witness_FenceWaitsThenReports :
    (let o : Ops := { a := 15 }
     classTrap .a stA = none ∧ o.exr = false ∧ o.exq = none ∧ o.xi = [] ∧ o.a.toNat < 16 ∧ o.lo = 0
     ∧ loadsDone stA 1 (inScope 1 3) = true ∧ storesDone stA 1 (inScope 1 3) = true ∧ enginesDone stA 1 3 = true
     ∧ rejectedOf stA 1 = none)
    ∧ loadsDone (withAcc stA acc0) 1 (inScope 1 3) = false
    ∧ (let a : Acc := { accSt with rejected := true }
       rejectedOf (withAcc stA a) 1 = some (9, a) ∧ loadsDone (withAcc stA a) 1 (inScope 1 0) = true
       ∧ storesDone (withAcc stA a) 1 (inScope 1 0) = true ∧ (coreAt (withAcc stA a) (cidOf 1)).wfe = none
       ∧ (slotAt (withAcc stA a) 1).killed = false)
    ∧ (let c : Cmd := { sid := 1, gen := 0, eng := 3, op := 20, desc := [0#64, 0#64, word (16 + 1 * 2 ^ 20), 0#64] }
       getsDone (withCmd stA c) 1 3 false = false ∧ getsDone (withCmd stA c) 1 2 false = true ∧ getsDone (withCmd stA c) 1 3 true = true
       ∧ getsDone (withCmd stA { c with desc := [0#64, 0#64, word (16 + 1 * 2 ^ 20 + 1 * 2 ^ 41), 0#64] }) 1 3 true = false
       ∧ enginesDone (withCmd stA c) 1 0 = false)
    ∧ getsDone stA 1 3 true = true ∧ (2 ≤ ({ a := 14 } : Ops).a.toNat % 4) ∧ ({ a := 1 } : Ops).a.toNat % 4 = 1 := by
  and_intros <;> first | decide +kernel | rfl | exact ⟨rfl, rfl⟩ | exact ⟨rfl, _, rfl, rfl⟩ | exact ⟨_, rfl, rfl⟩ | exact ⟨_, rfl⟩ | exact fun h => absurd h (by decide)

/-- A pointer of format 9, whose unit is a block of several elements. -/
def blkPtr (a : Nat) : Word := word (9 * 2 ^ 60 + ((Num.fmtRow 9).map (·.blk)).getD 0 * 2 ^ 57 + a)

theorem witness_PointerOperations :
    (∃ r, Num.fmtRow (wfield (blkPtr 64) 60 4) = some r ∧ wfield (blkPtr 64) 57 3 = r.blk ∧ wfield (blkPtr 64) 56 1 = 0
      ∧ (word (4 * r.ue)).toInt % r.ue = 0 ∧ (1#64).toInt % r.ue ≠ 0
      ∧ (0 : Int) ≤ (wfield (blkPtr 64) 0 56 : Nat) + (word (4 * r.ue)).toInt / r.ue * r.ub
      ∧ (wfield (blkPtr (2 ^ 56 - 1)) 0 56 : Nat) + (word (4 * r.ue)).toInt / r.ue * r.ub ≥ 2 ^ 56)
    ∧ (let s : State := { stA with g := [(69, blkPtr 64), (71, 64#64)] }
       readsAB .b ab s (blkPtr 64) 64#64 (atIssue s) ∧ dstFree ab (atIssue s))
    ∧ ptrOk (fun c => (Num.fmtRow c).map (·.blk)) (word (15 * 2 ^ 60)) = false
    ∧ (let o := { ab with xi := [9 + 16 * ((Num.fmtRow 9).map fun r => BitVec.ofNat 9 r.blk).getD 0] }
       readsB .b o (gg stA 5 7) 7#64 (atIssue (gg stA 5 7)) ∧ o.xi.length = 1 ∧ (bitsR o).1 < 128
       ∧ (Num.fmtRow ((bitsR o).1 % 16)).map (·.blk) = some ((bitsR o).1 / 16)) ∧ (Num.fmtRow 9).map (·.blk) ≠ some 7 := by
  refine ⟨⟨_, rfl, rfl, rfl, ?_, ?_, ?_, ?_⟩, ⟨⟨rfl, _, rfl, rfl⟩, rfl⟩, rfl, ⟨⟨rfl, rfl⟩, rfl, ?_, rfl⟩, ?_⟩ <;> decide +kernel

/-- A message for g63 of slot 1 of core 0, and for receive queue 0 of slot 1. -/
def msg0 : Msg :=
  { target := word (1 * 2 ^ 13), pkg := 0, idx := 63, payload := 5#64, sender := 0#64, srcSid := 1, isQ := false, acc := 0, tenant := 0, part := 0, tag := 0, spill := false, foreign := false }
def msgQ : Msg := { msg0 with isQ := true, idx := 0, acc := 9 }

theorem witness_PresenceTimeSelfAndParkedRegisters :
    (let o : Ops := { a := 63, exr := true }
     ¬ (32 ≤ o.a.toNat ∧ o.a.toNat < 48) ∧ (o.exr = true → o.c = 0) ∧ regOf o.a.toNat ≠ 0
     ∧ (slotAt stA stA.cur.sid).arrivals.contains (regOf o.a.toNat, stA.now) = false)
    ∧ (let o : Ops := { a := 47, exr := true }
       32 ≤ o.a.toNat ∧ o.a.toNat < 48)
    ∧ (¬ (32 ≤ ab.b.toNat ∧ ab.b.toNat < 48) ∧ dstFree ab (atIssue stA))
    ∧ (let o : Ops := { a := 5, xi := [5] }
       o.xi.length ≤ 1 ∧ (bitsR o).1 < 6 ∧ (selfOf stA stA.cur.sid (bitsR o).1).isSome = true ∧ dstFree o (atIssue stA))
    ∧ 6 ≤ (bitsR { a := 5, xi := [6] }).1
    ∧ (let s := ev (mk 1 { st := .waiting, pres := 0, waitReg := some (47, 40) }) { a := 1, b := 0, c := 47, d := 40 }
       (slotAt s s.ev.a).gen = s.ev.b ∧ (slotAt s s.ev.a).st = .waiting ∧ (slotAt s s.ev.a).waitReg = some (s.ev.c, s.ev.d)
       ∧ (slotAt s s.ev.a).pres.toNat.testBit s.ev.c = false)
    ∧ (let s := ev (mk 1 { st := .ready, wrG := 0x800000000000#64 }) { a := 1, b := 47 }
       (slotAt s s.ev.a).st ≠ .free ∧ s.ev.b ∉ (slotAt s s.ev.a).busy ∧ 0 < s.ev.b ∧ s.ev.b < 64
       ∧ tget s.place (s.ev.a * 128 + s.ev.b) .phys = .phys ∧ (slotAt s s.ev.a).wrG.toNat.testBit s.ev.b = true
       ∧ (slotAt s s.ev.a).live.toNat.testBit s.ev.b = true)
    ∧ (let s := ev stA { p := .msg msg0 }
       s.ev.p = .msg msg0 ∧ msgRefused s msg0 = false ∧ msgFits s msg0 = true ∧ 0 < msg0.idx ∧ msg0.idx < 64
       ∧ (slotAt s (targetSid msg0)).st ≠ .swapped ∧ (slotAt s (targetSid msg0)).st ≠ .trapped
       ∧ (slotAt s (targetSid msg0)).wr1 ≠ some (msg0.idx, s.now))
    ∧ (let m : Msg := { msg0 with target := word (2 * 2 ^ 13) }
       msgRefused stA m = false ∧ msgFits stA m = false)
    ∧ (let o : Ops := { a := 48 }
       regOf o.a.toNat ≠ 0 ∧ tget stA.place (fileKey stA.cur.sid (regOf o.a.toNat)) .phys = .phys ∧ regOf ({ a := 0 } : Ops).a.toNat = 0)
    ∧ (let s : State := { stA with place := [(1 * 128 + 5, .bank 7), (1 * 128 + 7, .column 40)] }
       tget s.place (fileKey s.cur.sid (regOf ab.a.toNat)) .phys ≠ .phys ∧ tget s.place (fileKey s.cur.sid (regOf ab.b.toNat)) .phys ≠ .phys)
    ∧ (let s := mk 1 { st := .ready, arrivals := [(5, 100), (7, 100)] }
       (slotAt s s.cur.sid).arrivals.contains (5, s.now) = true ∧ (slotAt s s.cur.sid).arrivals.contains (6, s.now) = false)
    ∧ (let s := ev (mk 1 { st := .swapped, pres := 0, waitReg := some (47, 40) }) { a := 1, b := 0, c := 47, d := 40 }
       (slotAt s s.ev.a).gen = s.ev.b ∧ (slotAt s s.ev.a).st = .swapped ∧ (slotAt s s.ev.a).waitReg = some (s.ev.c, s.ev.d)
       ∧ (slotAt s s.ev.a).pres.toNat.testBit s.ev.c = false)
    ∧ (let s := ev { stA with file := [(1 * 128 + 47, 3)] } { a := 1, b := 47 }
       s.ev.b ∉ (slotAt s s.ev.a).busy ∧ tget s.place (fileKey s.ev.a s.ev.b) .phys = .phys ∧ (tfind s.file (fileKey s.ev.a s.ev.b)).isSome = true)
    ∧ (let s := ev { stA with place := [(1 * 128 + 47, .bank 3)] } { a := 1, b := 47 }
       s.ev.b ∉ (slotAt s s.ev.a).busy ∧ tget s.place (fileKey s.ev.a s.ev.b) .phys = .bank 3)
    ∧ (let s := ev { stA with place := [(1 * 128 + 47, .fetching)] } { a := 1, b := 47, c := 0 }
       tget s.place (fileKey s.ev.a s.ev.b) .phys = .fetching ∧ (slotAt s s.ev.a).gen = s.ev.c) := by
  and_intros <;> first | decide +kernel | rfl | exact ⟨rfl, rfl⟩ | exact ⟨rfl, _, rfl, rfl⟩ | exact ⟨_, rfl, rfl⟩ | exact ⟨_, rfl⟩ | exact fun h => absurd h (by decide)

/-- Handle 0 of slot 1 a receive queue with one filled slot. -/
def rxS (q : RxQ) : State := { stA with q := [(16, { kind := 5 })], rx := [(0, q)] }

theorem witness_QueueInstructions :
    (let s := gm stA 5 0x200
     let ea := ownBase + 0x200
     readsB .b { a := 15, b := 7 } s (word ea) (atIssue s) ∧ rawAt (word ea) (immR { a := 15, b := 7 } * 16) 16 ea
     ∧ rangeOk (atIssue s) ea 16 true false ∧ 80 + 15 % 16 ∉ (slotAt s s.cur.sid).busy ∧ (hGet (atIssue s) 1 15).kind ≠ 5 ∧ gateFree (atIssue s) ea false
     ∧ bindRefusal (markLastB { a := 15, b := 7 } (atIssue s)) 1 15 (descHandle (natBytes 16 0)) = none
     ∧ engRead (ownView 1 (markLastB { a := 15, b := 7 } (atIssue s))) (tidOfC 0) ea 0 16 = some (natBytes 16 0))
    ∧ (let s := memSet64 (spKey 0 0x200) (BitVec.allOnes 64) (memSet64 (spKey 0 0x208) (BitVec.allOnes 64) (gm stA 5 0x200))
       engRead (ownView 1 (markLastB { a := 15, b := 7 } (atIssue s))) (tidOfC 0) (ownBase + 0x200) 0 16 = some (natBytes 16 (2 ^ 128 - 1))
       ∧ (bindRefusal (markLastB { a := 15, b := 7 } (atIssue s)) 1 15 (descHandle (natBytes 16 (2 ^ 128 - 1)))).isSome = true)
    ∧ (slotAt stA acc0.sid).redo = none
    ∧ bindRefusal (delBusy 1 95 stA) 1 15 (descHandle (natBytes 16 0)) = none ∧ (descHandle (natBytes 16 0)).isSome = true
    ∧ (bindRefusal (delBusy 1 95 stA) 1 15 (descHandle (natBytes 16 (2 ^ 128 - 1)))).isSome = true
    ∧ (let o : Ops := { a := 0, b := 32, c := 5, exr := true }
       o.xi.length ≤ 1 ∧ 32 ≤ o.b.toNat ∧ o.b.toNat < 48 ∧ dstFree o (atIssue (ringS 1))
       ∧ (hGet (ringS 1) 1 0).kind ≠ 0 ∧ (hGet (ringS 1) 1 0).kind ≠ 5 ∧ (hGet (ringS 1) 1 0).kind ≠ 7 ∧ (hGet (ringS 7) 1 0).kind = 7)
    ∧ (let o : Ops := { a := 0, lo := 1 }
       o.exr = false ∧ o.exq = none ∧ 0 < (bitsI o).1 ∧ (bitsI o).1 < 2 ^ 32 ∧ o.a.toNat < 16
       ∧ hFilled (ringS 1) 1 (hGet (ringS 1) 1 0) = 1)
    ∧ State.memOk (ringS 1) ∧ (hFilled (ringS 1) 1 (hGet (ringS 1) 1 0) < (bitsI { a := 0, lo := 2 }).1)
    ∧ (16 ≤ ({ a := 16, lo := 3 } : Ops).a.toNat ∧ (bitsI { a := 16, lo := 3 }).1 ≤ hFree (ringS 1) 1 (hGet (ringS 1) 1 0)
       ∧ hFree (ringS 1) 1 (hGet (ringS 1) 1 0) < (bitsI { a := 16, lo := 4 }).1)
    ∧ (hGet stA 1 0).kind = 0 ∧ (4 ≤ (hGet (ringS 4) 1 0).kind)
    ∧ (let s := rxS { owner := some 1, ents := [(8#64, 9#64)] }
       let o : Ops := { b := 32, c := 5, exr := true, xi := [4] }
       (bitsR o).1 = 4 ∧ dstFree o (atIssue s) ∧ (hGet s 1 0).kind = 5 ∧ wB o ≤ hCap (hGet s 1 0) ∧ wB o ≤ hFilled s 1 (hGet s 1 0)
       ∧ hSenderSlot s s.cur.sid (hGet s 1 0) (wB o) = some 8#64)
    ∧ awaitsGrant stA 0 0 = false
    ∧ (let o : Ops := { a := 0, b := 32, c := 5, exr := true }
       wB o ≤ hCap (hGet (ringS 1) 1 0) ∧ hCap (hGet (ringS 1) 1 0) < wB { o with exq := some 0x1FF })
    ∧ ringWritten (ringS 1) 1 (hGet (ringS 1) 1 0) = true
    ∧ (let a : Acc := { accSt with va := ownBase + 0x210, key := some (spKey 0 0x210) }
       let s := withAcc (ringS 1) a
       ringWritten s 1 (hGet s 1 0) = false
       ∧ ringWritten (withAcc (ringS 1) { a with key := some (spKey 0 0x208) }) 1 (hGet (ringS 1) 1 0) = true
       ∧ ringWritten (withAcc (ringS 1) { a with key := some (spKey 0 0x230) }) 1 (hGet (ringS 1) 1 0) = true
       ∧ ringWritten (withAcc (ringS 1) { a with key := some (spKey 0 0x228) }) 1 (hGet (ringS 1) 1 0) = false)
    ∧ (let s := pairS []
       (hGet s 1 15).kind = 2 ∧ (slotAt s 1).paired = true ∧ partnerGone s 1 = false ∧ hFilled s 1 (hGet s 1 15) = 0
       ∧ hFree s 1 (hGet s 1 15) = 16 ∧ drained s 1 = true)
    ∧ (let s := { stA with q := [(16, { kind := 3, eng := 2 })] }
       (hGet s 1 0).kind = 3 ∧ 1 ≤ hFree s 1 (hGet s 1 0) ∧ hFree s 1 (hGet s 1 0) < 2 ^ 32) := by
  and_intros <;> first | decide +kernel | rfl | exact ⟨rfl, rfl⟩ | exact ⟨rfl, _, rfl, rfl⟩ | exact ⟨_, rfl, rfl⟩ | exact ⟨_, rfl⟩ | exact fun h => absurd h (by decide)

theorem witness_MessagesLeave :
    (let o := { ab with xi := [63] }
     let s := gg stA (1 * 2 ^ 13) 7
     readsAB .b o s (word (2 ^ 13)) 7#64 (atIssue s) ∧ o.xi.length ≤ 1 ∧ (bitsR o).1 < 64 ∧ (bitsR o).1 % 32 ≠ 0
     ∧ targetM (word (2 ^ 13)) (nbit (bitsR o).1 5) (atIssue s) = .ok (0, atIssue s)
     ∧ stepRefuses (atIssue s) s.cur.sid (0 * 2048 + wfield (word (2 ^ 13)) 2 11) = false
     ∧ drained (atIssue s) s.cur.sid = true ∧ accFree (atIssue s) s.cur.sid msgBank true true = true)
    ∧ (let o := { ab with xi := [11] }
       let s := gg stA (1 * 2 ^ 13) 7
       (bitsR o).1 < 16 ∧ targetM (word (2 ^ 13)) (nbit (bitsR o).1 3) (atIssue s) = .ok (pkgOfC (cidOf s.cur.sid), atIssue s))
    ∧ wfield (word (2 ^ 41)) 41 23 ≠ 0 ∧ wfield (word (11 * 2 ^ 13)) 13 4 > 10
    ∧ wfield (word (10 * 2 ^ 13)) 41 23 = 0 ∧ wfield (word (10 * 2 ^ 13)) 13 4 ≤ 10
    ∧ (let o := { ab with xi := [11] }
       let s : State := { gg stA (1 * 2 ^ 13 + 1 * 2 ^ 25) 7 with
         pkgs := [(0, { present := true, feat0 := BitVec.allOnes 64 }), (1, { present := true })] }
       let tgt := word (1 * 2 ^ 13 + 1 * 2 ^ 25)
       readsAB .b o s tgt 7#64 (atIssue s) ∧ (bitsR o).1 < 16 ∧ targetM tgt (nbit 3 3) (atIssue s) = .ok (1, atIssue s)) := by
  and_intros <;> first | decide +kernel | rfl | exact ⟨rfl, rfl⟩ | exact ⟨rfl, _, rfl, rfl⟩ | exact ⟨_, rfl, rfl⟩ | exact ⟨_, rfl⟩ | exact fun h => absurd h (by decide)

/-- A strand that waits on its message's answer. -/
def accMsg : Acc := { acc0 with kind := .msg, ret := .ring 0 0 msgQ }

theorem witness_ReceiveQueues :
    (let s := ev (withAcc (rxS { owner := some 1 }) accMsg) { p := .msg msgQ }
     s.ev.p = .msg msgQ ∧ msgRefused s msgQ = false ∧ msgFits s msgQ = true
     ∧ (rxAt s (targetCid msgQ * 4 + msgQ.idx)).owner = some (wfield msgQ.target 13 4) ∧ wfield msgQ.target 13 4 ≠ 0
     ∧ (rxAt s 0).rrd = (rxAt s 0).rwr ∧ (rxAt s 0).ahead = [] ∧ appending s 0 msgQ.sender = false ∧ direct s 0 msgQ.sender = true
     ∧ tfind s.accs msgQ.acc = some accMsg ∧ accMsg.dpkg = pkgOfC (cidOf accMsg.sid))
    ∧ (let q : RxQ := { owner := some 1, ents := List.replicate 64 (0#64, 0#64) }
       64 ≤ q.ents.length ∧ msgQ.spill = false ∧ ringZero (rxS q) 0 msgQ.sender = true)
    ∧ (let q : RxQ := { owner := some 1, rwr := 64 }
       ringZero (rxS q) 0 msgQ.sender = false ∧ ovRoom q = 0)
    ∧ (let s := ev (withAcc (mk 1 { st := .waiting, hold := true, heldBy := 9 }) accMsg) { a := 9, b := 0 }
       tfind s.accs s.ev.a = some accMsg ∧ accAway s s.ev.a = false ∧ s.ev.b = 0 ∧ heldOn s accMsg.sid accMsg.gen s.ev.a = true
       ∧ accMsg.dpkg = pkgOfC (cidOf accMsg.sid) ∧ accMsg.ret = .ring 0 0 msgQ)
    ∧ (let s := ev (rxS { owner := some 1 }) { a := 0, c := 1, b := 0 }
       (rxAt s s.ev.a).owner.isSome = true ∧ (ringEnts s 0 0 (rxAt s s.ev.a) 0 0).length = 0
       ∧ (let s := { s with tiles := [(0, { part := some 0, allow := 1#64 })] }
          noticeTaken s s.ev.a s.ev.c s.ev.b (s.ev.d / 32 * 64 + s.ev.e) = true ∧ direct s s.ev.a s.ev.w = true))
    ∧ (let q : RxQ := { owner := some 1, rwr := 63 }
       ringZero (rxS q) 0 msgQ.sender = false ∧ ovRoom q ≠ 0 ∧ ovRoom { owner := some 1 } ≠ 0)
    ∧ (let s := ev (withAcc stA accMsg) { a := 9, b := 2 }
       tfind s.accs s.ev.a = some accMsg ∧ accAway s s.ev.a = false ∧ s.ev.b = 2 ∧ accMsg.dpkg = pkgOfC (cidOf accMsg.sid)
       ∧ heldOn (ev (withAcc (mk 1 { st := .waiting, hold := true, heldBy := 9 }) accMsg) { a := 9, b := 2 }) accMsg.sid accMsg.gen 9 = true)
    ∧ (let s := ev (rxS { owner := some 1, epoch := 3, pendApp := 1 }) { a := 0, b := 3 }
       (rxAt s s.ev.a).epoch = s.ev.b ∧ (rxAt s s.ev.a).ahead = [] ∧ s.ev.c = (rxAt s s.ev.a).rwr ∧ (rxAt s s.ev.a).epoch ≠ 2)
    ∧ (let s := ev (rxS { owner := some 1, epoch := 3, pendApp := 2 }) { a := 0, b := 3, c := 1 }
       (rxAt s s.ev.a).epoch = s.ev.b ∧ s.ev.c ≠ (rxAt s s.ev.a).rwr ∧ (rxAt s s.ev.a).rwr ∉ (rxAt s s.ev.a).ahead)
    ∧ (let q : RxQ := { owner := some 1, rwr := 1, ring := ownBase + 0x400 }
       let s := ev (rxS q) { a := 0 }
       (rxAt s 0).owner.isSome = true ∧ (ringEnts s 0 0 q 1 0).length = 1
       ∧ (ringEnts s 0 0 { q with ring := 0x10000 } 1 0).length ≠ 1) := by
  and_intros <;> first | decide +kernel | rfl | exact ⟨rfl, rfl⟩ | exact ⟨rfl, _, rfl, rfl⟩ | exact ⟨_, rfl, rfl⟩ | exact ⟨_, rfl⟩ | exact fun h => absurd h (by decide)

/-- Core 0 in gang 1, whose tile is tile 0. -/
def gangS (s : State) (g : Gang) : State := { s with cores := [(0, { gang := some 1 })], gangs := [(1, g)] }
def gang0 : Gang := { pkey := 0, job := 1, x0 := 0, y0 := 0, w := 1, h := 1 }

theorem witness_BarriersAndSupersteps :
    (let s := gangS stA gang0
     let o : Ops := { a := 5, lo := 3 }
     (bitsI o).1 < 4 ∧ o.xi = [] ∧ dstFree o (atIssue s) ∧ gangHere s (cidOf s.cur.sid) 1 gang0
     ∧ cidOf s.cur.sid ∉ barMembers gang0 3)
    ∧ (let g := { gang0 with bmask := 1 * 2 ^ 12 }
       cidOf stA.cur.sid ∈ barMembers g 3 ∧ (barAt (gangS stA g) (1 * 4 + 3)).owed = [] ∧ barMembers g 3 = [0])
    ∧ (let s := ev stA { a := 1, b := 3, c := 0 }
       (barAt s (s.ev.a * 4 + s.ev.b)).episode = s.ev.c)
    ∧ (let g := { gang0 with bmask := 3 * 2 ^ 12 }
       let s := ev { gangS stA g with bars := [(7, { cores := [0], waiters := [(1, 5)] })] } { a := 1, b := 3, c := 0 }
       tfind s.gangs s.ev.a = some g ∧ g.active = true ∧ (barAt s (s.ev.a * 4 + s.ev.b)).episode = s.ev.c
       ∧ (barMembers g s.ev.b).all (fun c => (barAt s (s.ev.a * 4 + s.ev.b)).cores.contains c) = false)
    ∧ (let s := mk 1 { st := .waiting, hold := true }
       (slotAt s 1).hold = true ∧ (slotAt s 1).st ≠ .trapped ∧ (slotAt s 1).st ≠ .free)
    ∧ (let g := { gang0 with sstep := true, posted := true }
       let s := ev (gangS stA g) { a := 1, b := 0 }
       gangHere s (cidOf s.cur.sid) 1 g ∧ drained s s.cur.sid = true ∧ g.sstep = true ∧ g.exch = false
       ∧ tfind s.gangs s.ev.a = some g ∧ g.stepNo = s.ev.b ∧ g.posted = true)
    ∧ { gang0 with sstep := true, exch := true }.exch = true ∧ gang0.sstep = false
    ∧ (let s := gangS stA { gang0 with bmask := 1 * 2 ^ 12 }
       drained s s.cur.sid = true ∧ dstFree { a := 5, lo := 3 } (atIssue s) ∧ drained (gangS stA { gang0 with sstep := true, exch := true }) 1 = true) := by
  and_intros <;> first | decide +kernel | rfl | exact ⟨rfl, rfl⟩ | exact ⟨rfl, _, rfl, rfl⟩ | exact ⟨_, rfl, rfl⟩ | exact ⟨_, rfl⟩ | exact fun h => absurd h (by decide)

theorem witness_VectorGroups :
    (let s := gg stA 5 (1 * 2 ^ 14)
     readsB .b ab s (word (2 ^ 14)) (atIssue s) ∧ ab.xi = [] ∧ dstFree ab (atIssue s) ∧ groupBad (word (2 ^ 14)) = false
     ∧ cidOf s.cur.sid ∈ groupCores 0 (word (2 ^ 14)))
    ∧ groupBad 0#64 = true ∧ cidOf 1 ∉ groupCores 0 (word (2 ^ 14 + 1))
    ∧ (let s := gangS (gg stA 5 (1 * 2 ^ 14)) gang0
       gangHere s 0 1 gang0 ∧ ((groupCores 0 (word (2 ^ 14))).all fun c => inGang gang0 (tidOfC c)) = true
       ∧ (coreAt s 0).group = none ∧ (∀ p ∈ s.groups, tfind s.groups p.1 = some p.2)
       ∧ tfind s.groups (pkgOfC 0 * 2 ^ 40 + s.nextId) = none)
    ∧ (let g : VGroup := { word := word (2 ^ 14), members := [(1, 5)], first := 3 }
       let s := ev { stA with groups := [(4, g)], cores := [(0, { group := some 4 })] } { a := 4, b := 3 }
       tfind s.groups s.ev.a = some g ∧ g.formed = false ∧ g.members.length ≠ wfield g.word 14 4 + 1 ∧ g.first = s.ev.b
       ∧ (coreAt s 0).group.isSome = true)
    ∧ (let g : VGroup := { word := word (2 ^ 14), formed := true, leader := 1, attached := [17] }
       let s : State := { stA with groups := [(4, g)], cores := [(0, { group := some 4 }), (1, { group := some 4 })] }
       groupOf s 1 = some (4, g) ∧ g.leader = 1 ∧ allAtRejoin g = true ∧ followsLeader s 17 = true ∧ (slotAt s 17).gen = 0)
    ∧ allAtRejoin { word := 0#64, detached := [17] } = false ∧ groupOf stA 1 = none
    ∧ (let o : Ops := { xi := [255] }
       o.exr = false ∧ o.exq = none ∧ o.xi.length = 1 ∧ (bitsR o).1 < 256)
    ∧ (let s := gangS (gg stA 5 (1 * 2 ^ 14)) gang0
       gangOfCore (atIssue s) 0 = some gang0 ∧ (coreAt { s with cores := [(0, { group := some 4 })] } 0).group.isSome = true
       ∧ ((tfind s.groups (groupKeyFor s 0 (word (2 ^ 14)))).getD { word := word (2 ^ 14), first := s.now }).formed = false
       ∧ ((tfind [(4, ({ word := word (2 ^ 14), members := [(17, 5)] } : VGroup))]
            (groupKeyFor { s with groups := [(4, { word := word (2 ^ 14), members := [(17, 5)] })] } 0 (word (2 ^ 14)))).map (·.members.length)) = some 1)
    ∧ groupReach [0, 1] = 6 ∧ groupReach [0, 4] = 9
    ∧ (let g : VGroup := { word := word (2 ^ 14), formed := true, leader := 17, attached := [1] }
       let s : State := { mk 1 { st := .ready, fwd := [⟨0x1000, [0x094E], 0x1002, true⟩] } with groups := [(4, g)], cores := [(0, { group := some 4 })] }
       groupOf s 1 = some (4, g) ∧ g.leader ≠ 1 ∧ 1 ∈ g.attached ∧ (advance s (slotAt s 1)).2 = 0x1002 ∧ followsLeader s 1 = true)
    ∧ (let g : VGroup := { word := word (2 ^ 14), formed := true, leader := 17, detached := [1] }
       let s : State := { stA with groups := [(4, g)], cores := [(0, { group := some 4 })] }
       groupOf s 1 = some (4, g) ∧ 1 ∉ g.attached ∧ (coreAt s (cidOf 1)).group = some 4)
    ∧ (let g : VGroup := { word := word (2 ^ 14), formed := true, leader := 17, detached := [1], waiting := [(1, 255)] }
       let s : State := { mk 1 { st := .waiting, hold := true } with groups := [(4, g)] }
       (g.waiting.map (·.1)).Nodup ∧ (1, 255) ∈ g.waiting ∧ (slotAt s 1).hold = true ∧ (slotAt s 1).st ≠ .swapped ∧ allAtRejoin g = true) := by
  and_intros <;> first | decide +kernel | rfl | exact ⟨rfl, rfl⟩ | exact ⟨rfl, _, rfl, rfl⟩ | exact ⟨_, rfl, rfl⟩ | exact ⟨_, rfl⟩ | exact fun h => absurd h (by decide)

/-- Handle 0 of slot 1 the command port of an engine, and a descriptor at offset 0x400 of the scratchpad that g7 names. -/
def portS (eng : Nat) (d : List Word) : State :=
  { gm stA 5 0x400 with q := [(16, { kind := 3, eng := eng })], mem := mwrite [] (spKey 0 0x400) (wordsBytes d) }

/-- The operands of an engine command: port h0, descriptor [g7]. -/
def oEng : Ops := { a := 32, b := 7, exr := true }

/-- A copy of 16 bytes between two places of the scratchpad. -/
def dCpy : List Word := [word (ownBase + 0x100), word (ownBase + 0x200), word (16 + 2 ^ 20), 0#64]
/-- A GET or PUT of 16 bytes with the own package, and a storage transfer of one block to 0x20000. -/
def dGet : List Word := [word (ownBase + 0x100), word (ownBase + 0x200), word 16, 0#64]
def dSsd : List Word := [word 0x20000, 0#64, 0#64, 0#64]

theorem witness_EngineCommandsPush :
    (let s := portS 2 dCpy
     let t := atIssue s
     pushReady oEng 2 s 0 { kind := 3, eng := 2 } (ownBase + 0x400) dCpy t false ∧ wfield (dCpy.getD 2 0#64) 53 11 = 0
     ∧ isRaw (dCpy.getD 0 0#64) = true ∧ isRaw (dCpy.getD 1 0#64) = true
     ∧ spanM (dCpy.getD 0 0#64) (ownBase + 0x100 : Nat) 16 true false t = .ok ((), t)
     ∧ spanM (dCpy.getD 1 0#64) (ownBase + 0x200 : Nat) 16 false true t = .ok ((), t)
     ∧ rowSpan (dCpy.getD 0 0#64) 16 1 0 = (((ownBase + 0x100 : Nat) : Int), 16) ∧ rowSpan (dCpy.getD 1 0#64) 16 1 0 = (((ownBase + 0x200 : Nat) : Int), 16)
     ∧ stepM (ownBase + 0x200) t = .ok ((), t) ∧ 0 < (tileAt t 0).copyq.length)
    ∧ (let s := portS 3 dGet
       let t := atIssue s
       pushReady oEng 3 s 0 { kind := 3, eng := 3 } (ownBase + 0x400) dGet t false ∧ tOk t 0 false dGet = true ∧ tOk t 0 true dGet = true
       ∧ spanM (dGet.getD 0 0#64) (tLocal dGet : Nat) (tLen dGet) false true t = .ok ((), t)
       ∧ spanM (dGet.getD 0 0#64) (tLocal dGet : Nat) (tLen dGet) true false t = .ok ((), t)
       ∧ (tPkg dGet = identityOf t 0 ∧ stepM (tRemote dGet) t = .ok ((), t)) ∧ remoteUsed t (cidOf s.cur.sid) < 32)
    ∧ (let s : State := { portS 4 dSsd with
         rt := [(0, ownEntry), (1, entryWords 0x10000 0x30000 0 true true true)] }
       let t := atIssue s
       pushReady oEng 4 s 0 { kind := 3, eng := 4 } (ownBase + 0x400) dSsd t false ∧ isRaw (dSsd.getD 0 0#64) = true
       ∧ wfield (dSsd.getD 0 0#64) 0 9 = 0 ∧ inWindow (wfield (dSsd.getD 0 0#64) 0 56) = false ∧ wfield (dSsd.getD 2 0#64) 53 11 = 0
       ∧ wfield (dSsd.getD 3 0#64) 16 48 = 0
       ∧ spanM (dSsd.getD 0 0#64) 0x20000 4096 false true t = .ok ((), t) ∧ spanM (dSsd.getD 0 0#64) 0x20000 512 true false t = .ok ((), t))
    ∧ (let s := portS 2 dCpy
       wfield (dCpy.getD 0 0#64) 60 4 = 0 ∧ wfield (dCpy.getD 1 0#64) 60 4 = 0
       ∧ gives (stepRowsM (ownBase + 0x200) 0 16 1 (atIssue s)) () (atIssue s) = true) := by
  and_intros <;> first | decide +kernel | rfl | exact ⟨rfl, rfl⟩ | exact ⟨rfl, _, rfl, rfl⟩ | exact ⟨_, rfl, rfl⟩ | exact ⟨_, rfl⟩ | exact fun h => absurd h (by decide)

theorem witness_EngineTransfersComplete :
    (let c : Cmd := { eng := 2, op := 19, sid := 1, gen := 0, desc := dCpy }
     let s := ev { withCmd stA c with tiles := [(0, { copyq := [[9], [], [], []] })] } { a := 9 }
     State.memOk s ∧ tfind s.cmds s.ev.a = some c ∧ c.tile = tidOfC (cidOf c.sid) ∧ c.status = 0 ∧ c.cpl = false ∧ c.xchg = false
     ∧ s.ev.a ∈ (tileAt s c.tile).copyq.getD c.ch [] ∧ released s c.entries = true ∧ c.desc.getD 0 0#64 = word (ownBase + 0x100)
     ∧ c.desc.getD 1 0#64 = word (ownBase + 0x200) ∧ wfield (c.desc.getD 2 0#64) 0 20 = 16 ∧ wfield (c.desc.getD 2 0#64) 20 16 = 1)
    ∧ (let c : Cmd := { eng := 2, sid := 1, gen := 0, desc := dCpy, cpl := true }
       let s := ev (withCmd (ringS 4) c) { c := 9, flag := true }
       tfind s.cmds s.ev.c = some c ∧ cmdAway s c = false ∧ cmdLive s c = true
       ∧ cplHandle { s with q := [(16, { kind := 4, eng := 2, sz := 2, hdr := 0x200 })] } c.sid c.eng c.ch = some 0
       ∧ ringFilled s c.sid (hGet s c.sid 0) < 2 ^ (hGet s c.sid 0).sz ∧ State.memOk s)
    ∧ (let c : Cmd := { eng := 3, op := 20, sid := 1, gen := 0, desc := dGet }
       let s := ev (withCmd stP c) { a := 9 }
       tfind s.cmds s.ev.a = some c ∧ c.status = 0 ∧ tTarget s 0 c.desc = some 0
       ∧ remoteCheck s 0 0 (tRemote c.desc) (tLen c.desc) 0 0 = (ownBase + 0x200, .ok (spKey 0 0x200)) ∧ c.op ≠ 21
       ∧ released s c.entries = true ∧ 0 = tPkg c.desc % 65536)
    ∧ (let d : List Word := [word (ownBase + 0x100), word (ownBase + 0x200), word (8 + 2 ^ 41), 5#64]
       tRemote d % tLen d = 0 ∧ tLen d = 8 ∧ inWindow (tRemote d) = true ∧ tAop d = 1)
    ∧ (let c : Cmd := { eng := 3, op := 20, sid := 1, gen := 0, desc := dGet, data := [1, 2] }
       c.data ≠ [] ∧ tLocal c.desc = ownBase + 0x100 ∧ 0x100 + c.data.length ≤ 2 ^ 20 ∧ wfield (c.desc.getD 2 0#64) 45 1 = 0 ∧ 0 < tLen c.desc
       ∧ storePath stP (tidOfC (cidOf c.sid)) c.desc = 0 ∧ c.placed = false ∧ c.step ≠ 1)
    ∧ (let c : Cmd := { eng := 3, op := 21, sid := 1, gen := 0, desc := dGet, data := [1, 2] }
       c.op = 21 ∧ remoteCheck stA 0 0 (tRemote c.desc) c.data.length 0 0 = (tRemote c.desc, .ok (spKey 0 0x200)) ∧ inWindow (tRemote c.desc) = true
       ∧ tRemote c.desc % 2 ^ 20 + c.data.length ≤ 2 ^ 20 ∧ tKey stP c.desc = 0 ∧ c.placed = false)
    ∧ (let d : List Word := [word (ownBase + 0x100), word (ownBase + 0x200), word 16, 0#64, word 1]
       tKey stP d = tPkg d % 65536)
    ∧ (let s := walked (pages { stA with pkgs := [(0, { present := true })] } (1 + 5 * 2 ^ 8))
       (engCheck s 0 0x10000 0 4096).2 = .ok 0 ∧ (engCheck s 0 0x10000 0 512).2 = .ok 0)
    ∧ (let c : Cmd := { eng := 2, op := 19, sid := 1, gen := 0, desc := dCpy }
       let s := ev (withCmd stA c) { a := 9 }
       c.placed = false ∧ c.off = 0 ∧ c.step = s.ev.b ∧ s.ev.flag = false)
    ∧ (let c : Cmd := { eng := 2, sid := 1, gen := 0, desc := dCpy, cpl := true }
       let s := ev (withCmd { ringS 4 with q := [(16, { kind := 4, eng := 2, sz := 2, hdr := 0x200 })] } c) { c := 9 }
       s.ev.flag = false ∧ cmdLive s c = true ∧ cplHandle s c.sid c.eng c.ch = some 0
       ∧ ringFilled s c.sid (hGet s c.sid 0) < 2 ^ (hGet s c.sid 0).sz)
    ∧ (let c : Cmd := { eng := 3, op := 20, sid := 1, gen := 0, desc := dGet }
       (ev (withCmd stP c) { a := 9, b := 1 }).ev.b = 1 ∧ (ev (withCmd stP c) { a := 9, b := 1 }).ev.flag = false ∧ (ev (withCmd stP c) { a := 9 }).ev.b ≠ 1 ∧ c.op ≠ 21)
    ∧ (let d : List Word := [word (ownBase + 0x100), word (ownBase + 0x200), word (8 + 2 ^ 41), 5#64]
       let c : Cmd := { eng := 3, op := 21, sid := 1, gen := 0, desc := d }
       let s := ev (withCmd stP c) { a := 9 }
       tfind s.cmds s.ev.a = some c ∧ s.ev.b ≠ 1 ∧ s.ev.flag = false ∧ c.status = 0 ∧ tTarget s 0 c.desc = some 0 ∧ released s c.entries = true
       ∧ remoteCheck s 0 0 (tRemote c.desc) (tLen c.desc) 0 0 = (ownBase + 0x200, .ok (spKey 0 0x200))
       ∧ tRemote c.desc % tLen c.desc = 0 ∧ 1 ≤ tAop c.desc ∧ tAop c.desc ≤ 11)
    ∧ (let a : Acc := { acc0 with kind := .atom, ret := .engine 8 }
       let c : Cmd := { eng := 3, op := 21, sid := 1, gen := 0, desc := dGet }
       let s := ev { withAcc stA a with cmds := [(8, c)] } { a := 9 }
       tfind s.accs s.ev.a = some a ∧ accAway s s.ev.a = false ∧ a.ret = .engine 8 ∧ a.kind = .atom ∧ a.xchg = false ∧ s.ev.flag = false ∧ tfind s.cmds 8 = some c)
    ∧ (let c : Cmd := { eng := 3, op := 21, sid := 1, gen := 0, desc := dGet }
       let s := ev (withCmd stP c) { a := 9 }
       tfind s.cmds s.ev.a = some c ∧ engHeld s s.ev.a c = false ∧ 0 < tLen c.desc ∧ tLocal c.desc = ownBase + 0x100
       ∧ s.ev.b = 0 ∧ s.ev.flag = false ∧ ({ s with ev := { a := 9, b := 1 } } : State).ev.b = 1 ∧ 0x100 + tLen c.desc ≤ 2 ^ 20 ∧ storeRoom s (ferOfTile (tidOfC (cidOf c.sid))) (tLen c.desc) = true
       ∧ storePath s (tidOfC (cidOf c.sid)) c.desc = 0)
    ∧ (let c : Cmd := { eng := 4, op := 22, sid := 1, gen := 0, desc := dSsd }
       let s := ev (withCmd (pages stP (1 + 5 * 2 ^ 8)) c) { a := 9 }
       tfind s.cmds s.ev.a = some c ∧ s.ev.b = 0 ∧ s.ev.c = 0 ∧ s.ev.flag = false ∧ engHeld s s.ev.a c = false
       ∧ c.status = 0 ∧ c.cpl = false ∧ c.xchg = false ∧ released s c.entries = true) := by
  and_intros <;> first | decide +kernel | rfl | exact ⟨rfl, rfl⟩ | exact ⟨rfl, _, rfl, rfl⟩ | exact ⟨_, rfl, rfl⟩ | exact ⟨_, rfl⟩ | exact fun h => absurd h (by decide)

/-- A port that is up, with three flits in its replay buffer. -/
def port0 : Port :=
  { up := true, width := 8, lanes := 255, peer := some 36, replay := [{ seq := 5 }, { seq := 6 }, { seq := 7 }], recvSeq := 4095, sendSeq := 8, lastRx := 90 }
def portAt0 (p : Port) (a : EvArg) : State := ev { stA with ports := [(0, p)], now := 3000 } a

theorem witness_LinkLayer :
    (let s := portAt0 port0 { b := 4095, flag := true }
     (portAt s s.ev.a).up = true ∧ (portAt s s.ev.a).peer = some 36 ∧ s.ev.b = (portAt s s.ev.a).recvSeq)
    ∧ (portAt0 port0 { b := 0 }).ev.b ≠ (portAt (portAt0 port0 { b := 0 }) 0).recvSeq
    ∧ (let s := portAt0 port0 { b := 6 }
       (portAt s s.ev.a).replay = [{ seq := 5 }] ++ { seq := 6 } :: [{ seq := 7 }] ∧ s.ev.b = 6 ∧ (portAt s s.ev.a).retraining = false)
    ∧ (let p := portAt (portAt0 port0 {}) 0
       p.retraining = false ∧ p.lastTx + 2500 ≤ 3000 ∧ p.replay.length < 512 ∧ p.lastRx ≤ 90 ∧ 89 < p.lastRx)
    ∧ (let s := portAt0 port0 { b := 0xF }
       s.ev.b &&& (portAt s 0).lanes ≠ 0 ∧ (portAt s 0).width = 8
       ∧ 4 ≤ ((List.range 8).filter fun i => (portAt s 0).lanes.testBit i && !s.ev.b.testBit i).length)
    ∧ (let s := portAt0 { port0 with width := 4, lanes := 0xF } { b := 3 }
       2 ≤ ((List.range 8).filter fun i => (portAt s 0).lanes.testBit i && !s.ev.b.testBit i).length)
    ∧ (let s := portAt0 { port0 with width := 4, lanes := 0xF } { b := 7 }
       ((List.range 8).filter fun i => (portAt s 0).lanes.testBit i && !s.ev.b.testBit i).length < 2)
    ∧ (portAt (portAt0 { port0 with retraining := true } {}) 0).retraining = true
    ∧ (let s := ev { rxS { owner := some 1 } with tiles := [(0, { part := some 0, allow := 1#64 })] } { b := 0, c := 1, d := 0 }
       noticeTaken s s.ev.b s.ev.c s.ev.d (s.ev.a / 36 * 64 + s.ev.e) = true
       ∧ direct s s.ev.b (word (2 ^ 63 + 2 ^ 61 + s.ev.a % 36 / 18 * 2 ^ 6 + s.ev.a % 18)) = true)
    ∧ (let s := ev (rxS { owner := some 2 }) { b := 0, c := 1, d := 0 }
       noticeTaken s s.ev.b s.ev.c s.ev.d (s.ev.a / 36 * 64 + s.ev.e) = false) := by
  and_intros <;> first | decide +kernel | rfl | exact ⟨rfl, rfl⟩ | exact ⟨rfl, _, rfl, rfl⟩ | exact ⟨_, rfl, rfl⟩ | exact ⟨_, rfl⟩ | exact fun h => absurd h (by decide)

/-- A packet in the store of Pavilion 0, sent and not acknowledged. -/
def pkt0 (n : Nat) : Packet :=
  { fk := 0, dst := 1, bytes := 64, toGo := 1000, ev := .putDataArrival, arg := { a := 9 }, st := 2, resends := n }

theorem witness_TransportDeliversOnce :
    (let s := ev { stA with pkts := [(7, pkt0 0)], pkgs := [(0, { routes := [(1, 0, 1)] }), (1, { present := true })], ports := [(0, port0)] }
       { a := 7 }
     tfind s.pkts s.ev.a = some (pkt0 0) ∧ (pkgAt s (pkt0 0).dst).failed = false ∧ (pkgAt s (pkt0 0).dst).present = true
     ∧ (pkt0 0).arrived = false ∧ (pkt0 0).resends = s.ev.b ∧ (pkt0 0).st = 2 ∧ (pkt0 0).resends < 8
     ∧ reachable s ((pkt0 0).fk / 2) (pkt0 0).dst = true
     ∧ packetAhead { s with pkts := tput s.pkts s.ev.a { pkt0 0 with st := 1, resends := 1 } } s.ev.a (pkt0 0) = false ∧ (pkt0 0).kept = true
     ∧ { pkt0 0 with kept := false }.kept = false ∧ (pkt0 0).dst ≠ (pkt0 0).fk / 2 ∧ pickPort s ((pkt0 0).fk / 2) (pkt0 0).dst = some 0 ∧ (portAt s 0).retraining = false
     ∧ (portAt s 0).replay.length + flitsOf (pkt0 0).bytes ≤ 512)
    ∧ (pkt0 1).resends ≠ 0 ∧ (pkt0 7).resends < 8 ∧ 8 ≤ (pkt0 8).resends ∧ { pkt0 0 with arrived := true }.arrived = true
    ∧ ((let s := ev { stA with pkts := [(7, pkt0 3)] } { a := 7 }
       (pkt0 3).resends ≠ s.ev.b)
       ∧ (pkgAt { stA with pkgs := [(1, { present := true })] } (pkt0 0).dst).failed = false) := by
  and_intros <;> first | decide +kernel | rfl | exact ⟨rfl, rfl⟩ | exact ⟨rfl, _, rfl, rfl⟩ | exact ⟨_, rfl, rfl⟩ | exact ⟨_, rfl⟩ | exact fun h => absurd h (by decide)

theorem witness_PackageFailureSpreads :
    (let s := ev { stA with pkgs := [(0, { present := true }), (1, { present := true }), (2, { present := true })] } { a := 0, b := 1, flag := true }
     s.ev.b ∉ (pkgAt s s.ev.a).failedPkgs ∧ s.ev.flag = true ∧ (∃ q ∈ s.pkgs, q.1 ≠ s.ev.b ∧ q.2.present = true ∧ q.2.failed = false
       ∧ q.2.domain = (pkgAt s s.ev.a).domain))
    ∧ reachable { stA with pkgs := [(0, { present := true, routes := [(2, 0, 1)] }), (2, { present := true })], ports := [(0, port0)] } 0 2 = true
    ∧ (let s := ev { stA with pkgs := [(0, { failedPkgs := [1] })] } { a := 0, b := 1 }
       s.ev.b ∈ (pkgAt s s.ev.a).failedPkgs) := by
  and_intros <;> first | decide +kernel | rfl | exact ⟨rfl, rfl⟩ | exact ⟨rfl, _, rfl, rfl⟩ | exact ⟨_, rfl, rfl⟩ | exact ⟨_, rfl⟩ | exact fun h => absurd h (by decide)

/-- A load of device address 0x10008 on its way. -/
def accDev : Acc := { acc0 with dev := true, va := 0x10008, key := none }
def devS (leaf : Nat) : State := ev (withAcc (pages { stA with pkgs := [(0, { present := true })] } leaf) accDev) { a := 9 }

theorem witness_MtuDecidesByTheLeaf :
    (let s := devS (1 + 5 * 2 ^ 8)
     tfind s.accs s.ev.a = some accDev ∧ accDev.parked = false ∧ s.ev.b ≠ 1 ∧ ({ s.ev with b := 1 } : EvArg).b = 1 ∧ accDev.sc = none
     ∧ accDev.va / 65536 ∉ (mtuAt s (mtuOfVa 0 0x10008)).seen ∧ (mtuAt s (mtuOfVa 0 0x10008)).log.length < 64
     ∧ leafV (leafOf s 0 0x10008) = true ∧ leafTenant (leafOf s 0 0x10008) = 0
     ∧ encLost s 0 (leafOf s 0 0x10008) = false ∧ leafSt (leafOf s 0 0x10008) = 0 ∧ (mtuAt s (mtuOfVa 0 0x10008)).parked < 1024)
    ∧ (leafTenant (leafOf (devS (1 + 2 ^ 52)) 0 0x10008) = 1 ∧ accDev.kind ≠ .store ∧ accDev.store = false ∧ { accDev with kind := .store, store := true }.store = true)
    ∧ (leafSt (leafOf (devS (1 + 4 * 2)) 0 0x10008) = 4 ∧ leafSt (leafOf (devS (1 + 1 * 2)) 0 0x10008) = 1
       ∧ leafSt (leafOf (devS (1 + 2 * 2)) 0 0x10008) = 2 ∧ leafSt (leafOf (devS (1 + 3 * 2)) 0 0x10008) = 3)
    ∧ ¬ (mtuAt { stA with mtus := [(0, { parked := 1024 })] } 0).parked < 1024
    ∧ (leafV (leafOf (devS 0) 0 0x10008) = false ∧ ownerOf (devS 0) 0 0x10008 = none)
    ∧ ownerOf { stA with own := [(127, word (1 + 1 * 2 ^ 16), word 2)] } 0 0x10008 = some (identityOf stA 0, false)
    ∧ ownerOf { stA with own := [(127, word (1 + 1 * 2 ^ 16), word (2 + 1 * 2 ^ 40))] } 0 0x10008 = some (1, false) ∧ 1 ≠ identityOf stA 0
    ∧ (let s : State := { stA with pkgs := [(0, { present := true, routes := [(1, 0, 1)] }), (1, { present := true })], ports := [(0, port0)] }
       1 / 65536 = (pkgAt s 0).domain ∧ reachable s 0 (1 % 65536) = true ∧ 0 ≠ 1 % 65536) := by
  and_intros <;> first | decide +kernel | rfl | exact ⟨rfl, rfl⟩ | exact ⟨rfl, _, rfl, rfl⟩ | exact ⟨_, rfl, rfl⟩ | exact ⟨_, rfl⟩ | exact fun h => absurd h (by decide)

theorem witness_PageFills :
    (let s := ev (pages stA (1 + 1 * 2)) { a := 0, b := 1 }
     let k := s.ev.a * 4 + wfield (backingOf s s.ev.a (leafOf s 0 0x10000)).2 32 4 / 4
     (sqeAt s k).frames = [] ∧ (sqeAt { s with sqes := [(k, { frames := [5] })] } k).frames = 5 :: [] ∧ fillsOut s s.ev.a (fillPort s s.ev.a s.ev.b).1 < 256
     ∧ portReady { s with sqes := [(k, { link := 15 })] } s.ev.a 0 0 = !Config.otherFormat 0 0
     ∧ portReady { s with sqes := [(k, { link := 0 })] } s.ev.a 0 0 = false)
    ∧ (let f : Fill := { frame := 5, issued := 0 }
       let s := ev { pages stA (1 + 2 * 2) with fills := [(1, f)] } { a := 0, b := 1 }
       tfind s.fills (fillKey s.ev.a s.ev.b) = some f ∧ f.waiting = false ∧ s.ev.c = 0 ∧ f.issued = s.ev.c ∧ f.issued = s.ev.d ∧ ({ s.ev with c := 1 } : EvArg).c ≠ 0 ∧ f.issued ≠ 1)
    ∧ (Memory.wf [(3, 1)] = true ∧ (∀ c ∈ ([(5, 1)] : List Host.Cell), 4 ≤ c.1 ∧ c.1 < 4 + 2) ∧ (3 < 4 ∨ 4 + 2 ≤ 3))
    ∧ (let s := ev (withAcc (pages stA (1 + 5 * 2 ^ 8)) { accDev with parked := true }) { a := 0, b := 1 }
       parkedOf s s.ev.a s.ev.b = [9] ∧ tfind s.accs 9 = some { accDev with parked := true } ∧ leafTenant (leafOf s 0 0x10008) = 0
       ∧ encLost s 0 (leafOf s 0 0x10008) = false ∧ leafV (leafOf s 0 0x10008) = true ∧ leafSt (leafOf s 0 0x10008) = 0) := by
  and_intros <;> first | decide +kernel | rfl | exact ⟨rfl, rfl⟩ | exact ⟨rfl, _, rfl, rfl⟩ | exact ⟨_, rfl, rfl⟩ | exact ⟨_, rfl⟩ | exact fun h => absurd h (by decide)

theorem witness_ParkedAccessesAndSwappedTeams :
    (let a := { accReg with parked := true, dev := true, va := 0x10008 }
     let s := ev (withAcc (mk 1 { st := .parked }) a) { a := 9, c := 255, d := 1 }
     tfind s.accs s.ev.a = some a ∧ accAway s s.ev.a = false ∧ a.parked = true ∧ a.xchg = false ∧ a.ret = .reg 47 .zext
     ∧ accLive s a = true ∧ failWaits s a = false ∧ (slotAt s a.sid).killed = false
     ∧ (slotAt s a.sid).st ≠ .swapped ∧ (slotAt s a.sid).st ≠ .trapped ∧ slotNo a.sid ≠ 0 ∧ s.ev.c < 256)
    ∧ (let a := { accReg with parked := true, dev := true, va := 0x10008, gang := some 1 }
       let s := ev { withAcc stA a with gangs := [(1, { gang0 with active := false })] } { a := 9 }
       tfind s.accs s.ev.a = some a ∧ accAway s s.ev.a = true ∧ a.gang = some 1 ∧ a.parked = true ∧ a.ret = .reg 47 .zext ∧ State.memOk s)
    ∧ (let s := ev (mk 1 { st := .parked, team := 1, frozen := true }) { a := 0, b := 1, d := 1 }
       teamSlots s s.ev.a s.ev.b = [1] ∧ (slotAt s 1).frozen = true ∧ State.memOk s)
    ∧ (let a := { accDev with parked := true }
       let s (n : Nat) : State := ev { withAcc (mk 1 { st := .parked, team := 1 }) { a with issuedAt := 60 } with cores := [(0, { swapthr := n })] } { a := 0, b := 1 }
       (s 40).ev.d ≠ 1 ∧ teamSlots (s 40) (s 40).ev.a (s 40).ev.b = [1] ∧ oldestParked (s 40) 0 1 = some 60 ∧ (coreAt (s 40) 0).swapthr ≠ 0
       ∧ (slotAt (s 40) 1).frozen = false ∧ 60 + (coreAt (s 40) 0).swapthr ≤ (s 40).now ∧ (slotAt (s 40) 1).st = .parked
       ∧ (s 41).now < 60 + (coreAt (s 41) 0).swapthr ∧ (slotAt (s 41) 1).st ≠ .swapped ∧ oldestParked (s 41) 0 1 = some 60)
    ∧ (let s := ev (mk 1 { st := .swapped, team := 1 }) { a := 0, b := 1 }
       teamSlots s s.ev.a s.ev.b = [1] ∧ (slotAt s 1).st = .swapped)
    ∧ (let s := ev (mk 1 { st := .trapped, team := 1, frozen := true }) { a := 0, b := 1, d := 1 }
       teamSlots s s.ev.a s.ev.b = [1] ∧ (slotAt s 1).frozen = true ∧ (slotAt s 1).st = .trapped)
    ∧ (let s := ev (mk 1 { st := .parked, team := 1, frozen := true, live := 3#64, wrG := 2#64 }) { a := 0, b := 1, d := 1 }
       (slotAt s 1).st ≠ .trapped ∧ ((slotAt s 1).live &&& (slotAt s 1).wrG).toNat.testBit 1 = true
       ∧ ((slotAt s 1).live &&& (slotAt s 1).wrG).toNat.testBit 2 = false)
    ∧ (let s := ev (mk 1 { st := .swapped, team := 1, wrG := 2#64 }) { a := 0, b := 1 }
       let w := ev (mk 1 { st := .swapped, team := 1, hold := true }) { a := 0, b := 1 }
       let p := ev { mk 1 { st := .swapped, team := 1, hold := true, heldBy := 9 } with accs := [(9, { accDev with parked := true })] } { a := 0, b := 1 }
       (slotAt s 1).frozen = false ∧ heldParked s (slotAt s 1) = false ∧ (slotAt s 1).hold = false ∧ (slotAt s 1).wrG.toNat.testBit 1 = true
       ∧ (slotAt w 1).hold = true ∧ heldParked w (slotAt w 1) = false ∧ heldParked p (slotAt p 1) = true) := by
  and_intros <;> first | decide +kernel | rfl | exact ⟨rfl, rfl⟩ | exact ⟨rfl, _, rfl, rfl⟩ | exact ⟨_, rfl, rfl⟩ | exact ⟨_, rfl⟩ | exact fun h => absurd h (by decide)

theorem witness_PagesMigrate :
    (let s := ev (pages { stA with pkgs := [(0, { present := true })] } (1 + 5 * 2 ^ 8)) { a := 0, b := 1, c := 1, d := 3 }
     let t : State := { s with own := [(3, word (1 + 1 * 2 ^ 16), word 2)] }
     let u : State := { s with own := [(3, word (1 + 2 + 1 * 2 ^ 16), word 2)] }
     (pkgAt s s.ev.a).present = true ∧ (pkgAt s s.ev.a).failed = false ∧ s.ev.d < 4 ∧ s.ev.w2.toNat ≠ 2 ∧ s.ev.w2 = 0#64
     ∧ leafV (leafOf s s.ev.a (s.ev.b * 65536)) = true
     ∧ leafSt (leafOf s s.ev.a (s.ev.b * 65536)) = 0 ∧ ownerOf t s.ev.a (s.ev.b * 65536) = some (0, false)
     ∧ ownerOf u s.ev.a (s.ev.b * 65536) = some (0, true) ∧ pageDraining s 0 1 = false ∧ s.ev.a ≠ s.ev.c
     ∧ pageDraining { s with accs := [(9, { accDev with decided := true })] } 0 1 = true)
    ∧ (leafV (leafOf (pages stA 0) 0 (1 * 65536)) = false ∧ leafSt (leafOf (pages stA (1 + 4 * 2)) 0 (1 * 65536)) = 4)
    ∧ (let s := ev { pages stA (1 + 3 * 2 + 2 * 2 ^ 8) with
         pkgs := [(0, { present := true, routes := [(2, 0, 1)] }), (2, { present := true })], ports := [(0, port0)] } { a := 0, b := 1, c := 1, d := 4 }
       let e := leafOf s 0 65536
       leafV e = true ∧ leafSt e = 3 ∧ wfield e 8 21 ≠ identityOf s s.ev.c ∧ s.ev.d = 4 ∧ reachable s 0 (wfield e 8 21 % 65536) = true
       ∧ 0 ≠ wfield e 8 21 % 65536 ∧ reachable { s with ports := [] } 0 (wfield e 8 21 % 65536) = false)
    ∧ (let s := ev (withAcc stA { accDev with parked := true }) { d := 16 + 7, w := 9 }
       16 ≤ s.ev.d ∧ tfind s.accs s.ev.w.toNat = some { accDev with parked := true } ∧ accDev.performed = false)
    ∧ (let s := ev { stA with sqes := (List.range 4).map fun k => (k, { frames := [5] }) } { a := 0, b := 1, c := 1, p := .cells [] }
       (sqeAt s (migEngine s.ev.a s.ev.e)).frames = 5 :: [] ∧ s.ev.p = .cells [] ∧ s.ev.a ≠ s.ev.c)
    ∧ (sqeAt stA (migEngine 0 0)).frames = []
    ∧ (let s := ev (pages stA (1 + 2 * 2 + 5 * 2 ^ 8)) { a := 0, b := 1, c := 0, flag := true }
       leafSt (leafOf s s.ev.a (s.ev.b * 65536)) = 2 ∧ s.ev.c = 0 ∧ s.ev.flag = true ∧ s.ev.d = 0 ∧ ({ s.ev with d := 1, c := 2 } : EvArg).d ≠ 0
       ∧ ({ s.ev with d := 1, c := 2 } : EvArg).c ≠ 0 ∧ State.memOk s ∧ leafAddr s 0 (1 * 65536) = some 24584) := by
  and_intros <;> first | decide +kernel | rfl | exact ⟨rfl, rfl⟩ | exact ⟨rfl, _, rfl, rfl⟩ | exact ⟨_, rfl, rfl⟩ | exact ⟨_, rfl⟩ | exact fun h => absurd h (by decide)

/-- A core about to use guard 5, with a record at g7: in g5 the identity; entry 16 free or bound with this hold. -/
def guardS (rec : List Word) (g : Guard) : State :=
  { gm stA 5 0x400 with
    rt := [(0, entryWords ownBase (ownBase + 0x8000) 1 true true true)], mem := mwrite [] (spKey 0 0x400) (wordsBytes rec)
    guards := [(5, g)] }
def boundS (hold : Nat) (b : Binding) (g : Guard) : State :=
  let e := entryWords (ownBase + 0x8000) (ownBase + 0x8100) 2 true true true
  { guardS [] g with
    rt := [(0, entryWords ownBase (ownBase + 0x8000) 1 true true true), (16, (e.1, e.2 + word (hold * 2 ^ 59)))], binds := [(16, b)]
    q := [(16, { kind := 5 })] }

/-- A question of slot 1 of core 0 about guard 5 that has reached the Verger, and the state it finds. -/
def ask0 (op : GOp) (w : List Word) : GAsk :=
  { op := op, guard := 5#64, cid := 0, sid := 1, gen := 0, id := 9, rid := 63, issued := 90, words := w }
def askS (s : State) (q : GAsk) : State :=
  ev { s with slots := [(1, { st := .waiting, hold := true, heldBy := 9 })] } { p := .gask q }

/-- The descriptor of a guard of 256 bytes at 0x40000 with its image in the scratchpad. -/
def dGuard : List Word := [word 0x40000, 256#64, word (ownBase + 0x8000), word 0x60000]

theorem witness_GuardInstructions_issue :
    (let s := guardS dGuard {}
     let t := atIssue s
     let bs := wordsBytes dGuard
     readsAB .a ab s 5#64 (word (ownBase + 0x400)) t ∧ rawAt (word (ownBase + 0x400)) (immR ab * 8) 8 (ownBase + 0x400)
     ∧ rangeOk t (ownBase + 0x400) 32 true false ∧ gives (recordM (ownBase + 0x400) 32 t) bs t = true ∧ dstFree ab t
     ∧ wfield 5#64 48 16 = 0 ∧ homeLost t 0 5#64 = false)
    ∧ (let s := boundS 0 { guard := 5#64 } { st := .free }
       let t := atIssue s
       readsA .a { a := 5, b := 32, exr := true } s 5#64 t ∧ checkIdM 5#64 t = .ok ({ st := .free }, t) ∧ checkId t 0 5#64 = .ok { st := .free }
       ∧ bindingOf t 0 0 5#64 = some 16 ∧ (rtView (rtAt t 16)).hold = 0 ∧ (bindAt t 16).pend = false ∧ writeBehindOpen t 0 16 = false
       ∧ 80 + 0 ∉ (slotAt t 1).busy ∧ (hGet t 1 0).kind = 5 ∧ homeLost t 0 5#64 = false ∧ wfield 5#64 48 16 = 0)
    ∧ (let s := boundS 0 { guard := 6#64 } { st := .free }
       bindingOf (atIssue s) 0 0 5#64 = none)
    ∧ (rtView (rtAt (boundS 2 { guard := 5#64 } {}) 16)).hold ≠ 0
    ∧ vecWrites (boundS 2 { guard := 5#64 } {}) 0 0 (ownBase + 0x8000) 0x100 true = []
    ∧ (let e : VEnt := { vid := 3, page := 5, op := 1, sid := 1, gen := 0, ipc := 0x1000, order := 0, dst := 32, reads := [5], pushed := 90, addr := ownBase + 0x8000 }
       let s : State := { boundS 2 { guard := 5#64 } {} with vq := [(0, [e])] }
       ((vecWrites s 0 0 (ownBase + 0x8000) 0x100 true).any fun i => vecOpen s 0 i) = true)
    ∧ (bindAt (boundS 0 { guard := 5#64, pend := true } {}) 16).pend = true
    ∧ (let rel : GRel := ⟨5#64, 0, 16, true, []⟩
       writeBehindOpen { boundS 0 { guard := 5#64 } {} with wbs := [(9, { rel := rel })] } 0 16 = true)
    ∧ homeLost (boundS 0 { guard := 5#64 } { st := .free }) 0 (word (1 * 2 ^ 32)) = true
    ∧ (let o : Ops := { b := 5, a := 6, xi := [2] }
       let s := boundS 0 { guard := 5#64 } { st := .free }
       readsB .a o s 5#64 (atIssue s) ∧ (bitsR o).1 = 2 ∧ dstFree o (atIssue s))
    ∧ (let o : Ops := { b := 5, a := 6 }
       let s := gg stA 15 7
       readsB .a o s 15#64 (atIssue s) ∧ dstFree o (atIssue s) ∧ wfield 15#64 4 60 = 0 ∧ wfield 15#64 3 1 = 1 ∧ wfield 16#64 4 60 ≠ 0)
    ∧ (let s := boundS 0 { guard := 5#64 } { tenant := 9 }
       wfield (word (2 ^ 48)) 48 16 ≠ 0 ∧ guardOf s 6#64 = none ∧ gIdx 5#64 < (pkgAt s (gPkg 5#64)).gmTabsz ∧ (coreAt s 0).tenant ≠ 9)
    ∧ (let w : List Word := [word 0x40000, 256#64, word (ownBase + 0x8000), word (0x60000 + 2 ^ 63)]
       let s := guardS w {}
       gives (recordM (ownBase + 0x400) 32 (atIssue s)) (wordsBytes w) (atIssue s) = true
       ∧ wfield ((bytesWords 4 (wordsBytes w)).getD 3 0#64) 63 1 = 1 ∧ (coreAt (atIssue s) (cidOf s.cur.sid)).heaptab = 0
       ∧ decide ((engCheck (walked (pages { s with cores := [(0, { heaptab := 0x10000 })] } (1 + 5 * 2 ^ 8))) 0 0x10000 0 4096).2 ≠ .wait) = true)
    ∧ (let o : Ops := { b := 5, a := 6, xi := [0x1F9] }
       (bitsR o).1 % 4 = 1 ∧ (bitsR { o with xi := [4] }).1 % 4 = 0 ∧ (bitsR { o with xi := [2] }).1 % 4 = 2) := by
  and_intros <;> first | decide +kernel | rfl | exact ⟨rfl, rfl⟩ | exact ⟨rfl, _, rfl, rfl⟩ | exact ⟨_, rfl, rfl⟩ | exact ⟨_, rfl⟩ | exact fun h => absurd h (by decide)

theorem witness_GuardInstructions_verger :
    (let q := ask0 .bind dGuard
     let s := askS (guardS dGuard {}) q
     vergersTurn s q ∧ q.op = .bind ∧ checkId s q.cid q.guard = .ok {} ∧ recordOk 0 true dGuard = true
     ∧ areaTaken s 0 (ownBase + 0x8000) (ownBase + 0x8100) = false ∧ bindingOf s 0 0 5#64 = none ∧ freeEntry s 0 = some 16 ∧ 0 < q.rid ∧ q.rid < 64)
    ∧ (let w : List Word := [word 0x40000, word (2 ^ 40), 0#64, word (2 ^ 63)]
       let q := ask0 .bind w
       let s := askS (guardS [] {}) q
       vergersTurn s q ∧ wfield (w.getD 3 0#64) 63 1 = 1 ∧ recordOk 0 true w = true ∧ areaTaken s 0 0x40000 (0x40000 + 2 ^ 40) = false)
    ∧ (let g : Guard := { st := .free, base := 0x40000, nsb := 1 }
       let q := ask0 .bind dGuard
       let s := askS (guardS dGuard g) q
       vergersTurn s q ∧ checkId s q.cid q.guard = .ok g ∧ g.st ≠ .uninit ∧ g.home = false ∧ 0x40000 = g.base ∧ 256 / 256 = g.nsb
       ∧ recordOk 0 false dGuard = true)
    ∧ (let q := ask0 .bind dGuard
       let g : Guard := { st := .free, base := 0x40000, nsb := 1 }
       let s := askS (boundS 0 { guard := 5#64 } g) q
       vergersTurn s q ∧ (bindingOf s q.cid 0 q.guard).isSome = true)
    ∧ (let q := ask0 .unbind []
       let s := askS (boundS 0 { guard := 5#64 } { st := .free }) q
       vergersTurn s q ∧ checkId s q.cid q.guard = .ok { st := .free } ∧ bindingOf s q.cid 0 q.guard = some 16
       ∧ (rtView (rtAt s 16)).hold = 0 ∧ (bindAt s 16).pend = false)
    ∧ (let q := ask0 (.stat 1) []
       let s := askS (boundS 0 { guard := 5#64 } { st := .free }) q
       vergersTurn s q ∧ q.op = .stat 1)
    ∧ (let q := ask0 .free []
       let s := askS (boundS 0 { guard := 5#64 } { st := .free }) q
       let g : Guard := { holders := [(0, 16)] }
       vergersTurn s q ∧ q.op = .free ∧ checkId s q.cid q.guard = .ok { st := .free } ∧ ({ st := .free } : Guard).holders = []
       ∧ ({ st := .free } : Guard).waiting = [] ∧ ({ st := .free } : Guard).binds = []
       ∧ vergersTurn (askS (boundS 0 { guard := 5#64 } g) q) q ∧ checkId (askS (boundS 0 { guard := 5#64 } g) q) q.cid q.guard = .ok g
       ∧ ¬ (g.holders = [] ∧ g.waiting = [] ∧ g.binds = []))
    ∧ (let q := ask0 .free []
       let s := askS stA q
       vergersTurn s q ∧ q.op ≠ .new ∧ checkId s q.cid q.guard = .error (0x0A, 5#64, 1#64))
    ∧ (let q := ask0 .free []
       let s := ev (askS stA q) { p := .gtrap q 0x0A 5#64 1#64 }
       s.ev.p = .gtrap q 0x0A 5#64 1#64 ∧ heldOn s q.sid q.gen q.id = true)
    ∧ (let q : GAsk := { ask0 .new [] with guard := word (7 * 2 ^ 29) }
       let s := askS stA q
       vergersTurn s q ∧ q.op = .new ∧ 0 < q.rid ∧ q.rid < 64 ∧ (pkgAt s (gPkg q.guard)).gmTabsz ≤ 2 ^ 29
       ∧ (s.guards.filter fun p => p.1 / 2 ^ 29 == gPkg q.guard * 8 + gDie q.guard).length + 1 < (pkgAt s (gPkg q.guard)).gmTabsz)
    ∧ (let q : GAsk := { ask0 .unbind [] with id := 0 }
       let s := ev (boundS 0 { guard := 5#64 } { st := .free }) { p := .gask q }
       s.ev.p = .gask q ∧ q.id = 0 ∧ q.op = .unbind ∧ q.words = [] ∧ homeDead s q.guard = false ∧ requestAhead s q.cid q.guard q.issued = false
       ∧ releaseAhead s q.cid q.guard q.issued 0 = false ∧ vergerBusy s q.guard q.cid = false
       ∧ bindingOf s q.cid (slotAt s q.sid).team q.guard = some 16 ∧ (rtView (rtAt s (q.cid * 64 + 16))).hold = 0
       ∧ (bindAt s (q.cid * 64 + 16)).pend = false)
    ∧ (ask0 .free []).id ≠ 0 := by
  and_intros <;> first | decide +kernel | rfl | exact ⟨rfl, rfl⟩ | exact ⟨rfl, _, rfl, rfl⟩ | exact ⟨_, rfl, rfl⟩ | exact ⟨_, rfl⟩ | exact fun h => absurd h (by decide)

/-- A request for guard 5 by slot 1 of core 0, through entry 16. -/
def req0 (excl : Bool) : GReq :=
  { guard := 5#64, excl := excl, fresh := false, cid := 0, sid := 1, team := 0, entry := 16, qix := 0, vlast := 0, issued := 90 }

theorem witness_GuardProtocol :
    (let g : Guard := { st := .free, home := true, ver := 1 }
     let s := ev (boundS 0 { guard := 5#64, pend := true } g) { p := .greq (req0 true) }
     s.ev.p = .greq (req0 true) ∧ releaseAhead s 0 5#64 90 0 = false ∧ vergerBusy s 5#64 0 = false ∧ guardOf s 5#64 = some g ∧ g.home = true
     ∧ g.st = .free ∧ requestsUsed s (gPkg 5#64) (gDie 5#64) < 8192)
    ∧ (let g : Guard := { st := .shared, home := true, ver := 1, holders := [(4, 16)] }
       g.st = .shared ∧ (req0 false).excl = false ∧ g.waiting.any (·.excl) = false ∧ (req0 true).excl = true)
    ∧ ({ st := .excl } : Guard).st = .excl
    ∧ (let g : Guard := { st := .excl, home := true, ver := 1, holders := [(0, 16)], waiting := [req0 true] }
       let s := ev (boundS 0 {} g) { p := .grel ⟨5#64, 0, 16, true, []⟩ }
       vergerBusy s 5#64 0 = false ∧ guardOf s 5#64 = some g ∧ g.holders = [(0, 16)] ∧ g.st ≠ .broken ∧ g.waiting = req0 true :: []
       ∧ { g with waiting := [] }.waiting = [])
    ∧ (let f : GFwd := ⟨req0 false, 4, 16, [0], 0#64⟩
       f.holder ≠ fromHome)
    ∧ (let d : Grant := ⟨req0 true, [(0, 1)], 0#64⟩
       let s := ev { boundS 0 { guard := 5#64, pend := true } {} with rx := [(0, { owner := some 1 })] } { p := .grant d }
       s.ev.p = .grant d ∧ resident s d.req.cid d.req.entry = true ∧ (rxAt s 0).owner.isSome = true ∧ State.memOk s
       ∧ resident s d.req.cid (16 + 64) = false ∧ goneGang s (16 + 64) = false
       ∧ direct s 0 (word (wfield d.payload 32 32 + d.req.entry % 64 * 2 ^ 41 + 2 ^ 63)) = true ∧ (d.bytes.map (·.1)).Nodup)
    ∧ (let w : WriteBehind := { rel := ⟨5#64, 0, 16, true, []⟩, accs := [9] }
       let s := ev { boundS 0 {} {} with wbs := [(9, w)] } { a := 9 }
       tfind s.wbs s.ev.a = some w ∧ tfind s.accs 9 = none ∧ tfind s.cmds 9 = none ∧ vecOpen s 0 9 = false
       ∧ (s.wbs.filter fun p => decide (p.1 < s.ev.a)) = [])
    ∧ (let w : WriteBehind := { rel := ⟨5#64, 0, 16, true, [0]⟩, handled := true }
       let g : Guard := { base := 0x10000, nsb := 1 }
       let s := ev (walked (pages { stA with wbs := [(9, w)], guards := [(5, g)] } (1 + 5 * 2 ^ 8))) { a := 9 }
       tfind s.wbs s.ev.a = some w ∧ guardOf s 5#64 = some g ∧ w.handled = true ∧ w.rel.dirty = [0]
       ∧ guardCheck s 5#64 (g.base + 256 * 0) g.tenant 256 = (0x10000, .ok 0))
    ∧ (guardOf (ev (boundS 0 {} { ver := 3 }) { w := 5, a := 3 }) 5#64 = some { ver := 3 } ∧ vergerBusy (boundS 0 {} { ver := 3 }) 5#64 0 = false
       ∧ vergerBusy (boundS 0 {} { ver := 3, lastMsg := 101 }) 5#64 0 = true)
    ∧ (let g : Guard := { home := true, holders := [(8192, 16)], waiting := [{ req0 true with cid := 8193 }] }
       let s := ev { stA with guards := [(5, g)] } { a := 0, b := 1 }
       (s.guards.map (·.1)).Nodup ∧ (∀ p ∈ s.guards, p.1 < 2 ^ 64 ∧ p.2.home = true) ∧ gPkg (word 5) = s.ev.a
       ∧ (∃ x ∈ g.holders, pkgOfC x.1 = s.ev.b) ∧ (∀ r ∈ g.waiting, pkgOfC r.cid = s.ev.b))
    ∧ (let g : Guard := { st := .free, home := true, ver := 1 }
       let s := ev (boundS 0 { guard := 5#64, pend := true } g) { p := .greq (req0 true) }
       homeDead s 5#64 = false ∧ requestAhead s 0 5#64 90 = false)
    ∧ (let g : Guard := { st := .excl, home := true, ver := 1, holders := [(0, 16)] }
       let s := ev (boundS 0 {} g) { p := .grel ⟨5#64, 0, 16, true, []⟩ }
       homeDead s 5#64 = false ∧ requestAhead s 0 5#64 (((tfind s.wbs s.ev.a).map (·.issued)).getD 0) = false ∧ g.st ≠ .broken
       ∧ releaseAhead s 0 5#64 (((tfind s.wbs s.ev.a).map (·.issued)).getD 0) s.ev.a = false)
    ∧ (let g : Guard := { st := .excl, home := true, ver := 1, base := 0x10000, nsb := 1, holders := [(0, 16)] }
       let f : GFwd := ⟨req0 true, fromHome, 16, [0], 0#64⟩
       let s := ev { pages { stP with guards := [(5, g)] } 0 with own := [(3, word (1 + 1 * 2 ^ 16), word 2)] } { p := .gfwd f }
       s.ev.p = .gfwd f ∧ guardOf s f.req.guard = some g ∧ homeDead s f.req.guard = false ∧ g.home = true
       ∧ g.holders = [(f.req.cid, f.req.entry)] ∧ g.waiting = [] ∧ f.subs = [0]
       ∧ guardCheck s f.req.guard (g.base + 256 * 0) g.tenant 256 = (0x10000, .fail 0x19 2))
    ∧ (let s := ev { boundS 0 { guard := 5#64, pend := true } {} with rx := [(0, { owner := some 1 })] } { p := .greq (req0 true) }
       resident s 0 16 = true ∧ (rxAt s 0).owner.isSome = true
       ∧ direct s 0 (word (wfield (grantWord 2 2 0 0) 32 32 + 16 * 2 ^ 41 + 2 ^ 63)) = true)
    ∧ (let w : WriteBehind := { rel := ⟨5#64, 0, 16, true, []⟩, accs := [9] }
       let s := ev { boundS 0 {} {} with wbs := [(9, w)] } { a := 9 }
       homeLost s w.rel.cid w.rel.guard = false ∧ homeDead s w.rel.guard = false) := by
  and_intros <;> first | decide +kernel | rfl | exact ⟨rfl, rfl⟩ | exact ⟨rfl, _, rfl, rfl⟩ | exact ⟨_, rfl, rfl⟩ | exact ⟨_, rfl⟩ | exact fun h => absurd h (by decide)

/-- Heap 0 over [0x20000, 0x40000), its table in page 1; k3 refers to the object at 0x20100 in this colour. -/
def heapS (colour : Nat) : State :=
  let e := entryWords 0x20000 0x40000 4 true true true
  let s : State := { gg stA 5 7 with
    cores := [(0, { heaptab := 0x10000 })], rt := [(17, (e.1, e.2 + word (2 * 2 ^ 59)))]
    k := [(19, word (0x20100 + colour * 2 ^ 62))], slots := [(1, { st := .ready, hbump := 0x20000, hlim := 0x30000 })] }
  { walked (pages s (1 + 5 * 2 ^ 8)) with
    mem := mwrite (pages s (1 + 5 * 2 ^ 8)).mem (devKey 0 0x50000) (wordsBytes [1#64, 1#64, word 0x20000, word 0x40000, word 0x10800, 0#64]) }
def heapW : List Word := [1#64, 1#64, word 0x20000, word 0x40000, word 0x10800, 0#64]

/-- The operands [k3 + 16]. -/
def oHeap : Ops := { a := 5, b := 3, xi := [2] }

/-- The check of a reference passes, as something Lean decides. -/
def heapOk (o : Ops) (off : Int) (rd wr store : Bool) (k : Word) (t : State) : Bool :=
  gives (objectM (o.b.toNat % 16) off rd wr store t) (k, heapW) t

theorem heapOk_iff (o : Ops) (off : Int) (rd wr store : Bool) (k : Word) (t : State) :
    heapOk o off rd wr store k t = true ↔ heapReady o off rd wr store k heapW t := gives_iff _ _ _

theorem witness_HeapInstructionsAndBarrier_fast :
    (let s := heapS 1
     let k := word (0x20100 + 2 ^ 62)
     readsK (oHeap.b.toNat % 16) s k ∧ dstFreeK oHeap (atIssue s) ∧ dstFreeKA oHeap (atIssue s) ∧ dstFreeA oHeap (atIssue s) ∧ dstFree oHeap (atIssue s) ∧ classTrap .a s = none
     ∧ heapOk oHeap (immR oHeap * 8) true false false k (atIssue s) = true ∧ gives (heapGate heapW k (immR oHeap * 8) false (atIssue s)) () (atIssue s) = true
     ∧ wfield k 62 2 = coreGood s (cidOf s.cur.sid) (refHeap k) ∧ (oHeap.exr = true → oHeap.c = 0)
     ∧ heapOk oHeap (immR oHeap * 8) false true true k (atIssue s) = true ∧ gives (heapGate heapW k (immR oHeap * 8) true (atIssue s)) () (atIssue s) = true
     ∧ readsA .a oHeap s 5#64 (atIssue s) ∧ heapOk { oHeap with xi := [] } 0 true true false k (atIssue s) = true
     ∧ gives (heapGate heapW k 0 true (atIssue s)) () (atIssue s) = true ∧ gives (refCheckM k k (atIssue s)) heapW (atIssue s) = true)
    ∧ (let s := heapS 1
       wfield (word (0x20100 + 2 ^ 62)) 62 2 = coreGood (atIssue s) (cidOf s.cur.sid) (refHeap (word (0x20100 + 2 ^ 62)))
       ∧ wfield (word 0x20100) 62 2 ≠ coreGood s (cidOf s.cur.sid) (refHeap (word 0x20100))) := by
  and_intros <;> first | decide +kernel | rfl | exact ⟨rfl, rfl⟩ | exact ⟨rfl, _, rfl, rfl⟩ | exact ⟨_, rfl, rfl⟩ | exact ⟨_, rfl⟩ | exact fun h => absurd h (by decide)

theorem witness_HeapInstructionsAndBarrier_slow :
    (let s := heapS 0
     let k := word 0x20100
     heapOk oHeap (immR oHeap * 8) true false false k (atIssue s) = true ∧ wfield k 62 2 ≠ coreGood s (cidOf s.cur.sid) (refHeap k)
     ∧ gives (heapGate heapW k (immR oHeap * 8) false (atIssue s)) () (atIssue s) = true ∧ readsK 4 s 0#64 ∧ k ≠ 0#64
     ∧ accFree s s.cur.sid msgBank true false = true)
    ∧ (let o : Ops := { a := 3, b := 4, exr := true, c := 6 }
       let s := heapS 0
       let k := word 0x20100
       classTrap .b s = none ∧ readsK (o.a.toNat % 16) s k ∧ readsK (o.b.toNat % 16) s 0#64 ∧ dstFree o (atIssue s)
       ∧ gives (refCheckM k k (atIssue s)) heapW (atIssue s) = true ∧ k ≠ 0#64 ∧ wfield k 62 2 ≠ coreGood s (cidOf s.cur.sid) (refHeap k) ∧ o.a.toNat % 16 ≠ o.b.toNat % 16
       ∧ gives (compareGate heapW k (atIssue s)) () (atIssue s) = true) := by
  and_intros <;> first | decide +kernel | rfl | exact ⟨rfl, rfl⟩ | exact ⟨rfl, _, rfl, rfl⟩ | exact ⟨_, rfl, rfl⟩ | exact ⟨_, rfl⟩ | exact fun h => absurd h (by decide)

/-- A core whose heap table, in its scratchpad, holds no heap. -/
def noHeapS : State :=
  { gg stA 5 64 with cores := [(0, { heaptab := ownBase })], slots := [(1, { st := .ready, hbump := 0x50000, hlim := 0x60000 })] }

theorem witness_HeapInstructionsAndBarrier_new :
    (let o : Ops := { ab with xi := [1, 0] }
     let s := gg (heapS 0) 5 65520
     readsB .a o s 65520#64 (atIssue s) ∧ 1 ≤ o.xi.length ∧ o.xi.length ≤ 2 ∧ 1 ≤ (bitsR o).1 ∧ (bitsR o).1 < 2 ^ 16 ∧ dstFreeKA o (atIssue s)
     ∧ gives (heapAtM 0x20000 64 (atIssue s)) (some (0, heapW)) (atIssue s) = true ∧ heapHold (atIssue s) 0 0 0x20000 ≠ 0
     ∧ 0x20000 + (16 + 16 * ((65520 + 15) / 16)) ≤ 0x30000 ∧ 0x20000 / 65536 = (0x20000 + 65535) / 65536
     ∧ gateFree (atIssue s) 0x20000 true)
    ∧ (65521 ≤ (65521#64).toNat ∧ (slotAt stA 1).hbump = (slotAt stA 1).hlim)
    ∧ (gives (heapAtM 0x50000 64 (atIssue noHeapS)) none (atIssue noHeapS) = true
       ∧ heapHold { atIssue (heapS 0) with rt := [] } 0 0 0x20000 = 0) := by
  and_intros <;> first | decide +kernel | rfl | exact ⟨rfl, rfl⟩ | exact ⟨rfl, _, rfl, rfl⟩ | exact ⟨_, rfl, rfl⟩ | exact ⟨_, rfl⟩ | exact fun h => absurd h (by decide)

theorem witness_HeapInstructionsAndBarrier_events :
    (let h : HeapOp := { kind := 2, k := word (0x20100 + 2 ^ 62), tv := word (0x20100 + 2 ^ 62), kn := 3 }
     let s := ev { withAcc (mk 1 { st := .parked, hold := true, heldBy := 9 }) acc0 with hops := [(9, h)] } { a := 9, flag := true, w := 1 }
     tfind s.hops s.ev.a = some h ∧ tfind s.accs s.ev.a = some acc0 ∧ accAway s s.ev.a = false ∧ accLive s acc0 = true ∧ s.ev.flag = true ∧ h.stage = 0
     ∧ storeAhead s 9 { h with kind := 0 } acc0 = none
     ∧ storeAhead { s with hops := (8, { h with stage := 3 }) :: s.hops, accs := (8, acc0) :: s.accs } 9 { h with kind := 0 } acc0 = some 3
     ∧ wfield s.ev.w 0 1 = 1 ∧ heldOn s 1 0 s.ev.a = true ∧ h.kn < 16)
    ∧ (wfield 2#64 0 1 = 0 ∧ wfield 3#64 0 3 = 3 ∧ wfield 4#64 0 3 = 4 ∧ wfield 2#64 0 3 = 2 ∧ 5 ≤ wfield 5#64 0 3
       ∧ wfield (word (1 + 254 * 2 ^ 56)) 56 8 < 255 ∧ wfield (word (254 * 2 ^ 48)) 48 8 ≠ 255 ∧ wfield (word (2 ^ 48)) 48 8 ≠ 0)
    ∧ (let s := ev (walked (pages stA (1 + 5 * 2 ^ 8))) { a := 0, b := 0x10008, c := 0 }
       (engCheck s (s.ev.a * 2048) s.ev.b s.ev.c 8).2 = .ok 0 ∧ engKey s (s.ev.a * 2048) s.ev.b s.ev.c = .ok (devKey 0 0x50008))
    ∧ (let s := ev (withAcc stA acc0) { a := 9 }
       tfind s.accs s.ev.a = some acc0 ∧ accAway s s.ev.a = false ∧ accLive (dropHop s.ev.a s) acc0 = true ∧ (slotAt (dropHop s.ev.a s) 1).st ≠ .trapped)
    ∧ (let h : HeapOp := { kind := 3, stage := 4, k := word (0x20100 + 2 ^ 62), tv := word (0x20100 + 2 ^ 62), kn := 3 }
       let s := ev { withAcc (mk 1 { st := .parked, hold := true, heldBy := 9 }) acc0 with hops := [(9, h)] } { a := 9, flag := true, w := word (2 ^ 56) }
       tfind s.hops s.ev.a = some h ∧ tfind s.accs s.ev.a = some acc0 ∧ s.ev.flag = true ∧ h.stage = 4 ∧ h.kind = 3 ∧ wfield s.ev.w 56 1 = 1
       ∧ wfield 0#64 56 1 = 0 ∧ wfield 0#64 48 8 ≠ 255)
    ∧ (let h : HeapOp := { kind := 2, stage := 3, k := word (0x20100 + 2 ^ 62), tv := word (0x20100 + 2 ^ 62), kn := 3, entry := 0x10008 }
       let s := ev { withAcc (walked (pages (mk 1 { st := .parked, hold := true, heldBy := 9 }) (1 + 5 * 2 ^ 8))) acc0 with hops := [(9, h)] } { a := 9 }
       tfind s.hops s.ev.a = some h ∧ tfind s.accs s.ev.a = some acc0 ∧ s.ev.flag = false ∧ h.want = 0 ∧ h.stage = 3
       ∧ (engCheck s (tidOfC (cidOf acc0.sid)) h.entry acc0.tenant 8).2 = .ok 0 ∧ { h with want := 0x10009 }.want ≠ 0)
    ∧ (let h : HeapOp := { kind := 0, k := word (0x20100 + 2 ^ 62), tv := word (0x20100 + 2 ^ 62), kn := 3 }
       let s : State := { withAcc (heapS 1) { acc0 with va := 0x20110 } with hops := [(9, h)] }
       tfind s.hops 9 = some h ∧ tfind s.accs 9 = some { acc0 with va := 0x20110 } ∧ accLive s acc0 = true ∧ h.kn < 16
       ∧ (slotAt s acc0.sid).st = .ready)
    ∧ (slotAt (withAcc stA acc0) acc0.sid).st ≠ .swapped := by
  and_intros <;> first | decide +kernel | rfl | exact ⟨rfl, rfl⟩ | exact ⟨rfl, _, rfl, rfl⟩ | exact ⟨_, rfl, rfl⟩ | exact ⟨_, rfl⟩ | exact fun h => absurd h (by decide)

/-- A vector entry of VADD, pushed before this cycle. -/
def vent0 : VEnt := { vid := 3, page := 4, op := 0, sid := 1, gen := 0, ipc := 0x1000, order := 0, dst := 6, reads := [5, 7], pushed := 90 }

theorem witness_VectorUnit :
    (classTrap .x stX = none ∧ (vqHeld stX 0).length < 16 ∧ dstFree ab (atIssue stX))
    ∧ (let o := { ab with xi := [11] }
       o.xi.length = 1 ∧ 8 ≤ (bitsR o).1 ∧ (bitsR o).1 ≤ 11 ∧ (bitsR { ab with xi := [1] }).1 < 2 ∧ (bitsR { ab with xi := [4] }).1 ≤ 4)
    ∧ ((bitsR { ab with xi := [51] }).1 < 64 ∧ nfield (bitsR { ab with xi := [51] }).1 2 4 ≤ 12 ∧ (bitsR { ab with xi := [5] }).1 < 6
       ∧ (bitsR { ab with xi := [31] }).1 < 32 ∧ ab.b.toNat < 32 ∧ (bitsR { ab with xi := [63] }).1 < 64 ∧ (bitsR { ab with xi := [8] }).1 ≤ 8
       ∧ (bitsR { ab with xi := [3] }).1 < 4 ∧ 6 ≤ (bitsR { ab with xi := [6] }).1)
    ∧ (let o : Ops := { lo := 15 }
       o.exr = false ∧ o.exq = none ∧ o.xi = [] ∧ o.a = 0 ∧ 1 ≤ o.lo.toNat % 64 ∧ o.lo.toNat % 64 ≤ 15)
    ∧ (let s := gm stX 5 0x100
       let t := atIssue s
       let p := word (ownBase + 0x100)
       readsB .x ab s p t ∧ (vqHeld t 0).length < 16 ∧ Num.fmtRow (wfield p 60 4) = some ⟨0, 8, 1, 1, 0⟩ ∧ wfield p 57 3 = 0 ∧ wfield p 56 1 = 0
       ∧ ((ownBase + 0x100 : Nat) : Int) = (wfield p 0 56 : Nat) + immR ab ∧ rangeOk t (ownBase + 0x100) 128 true false
       ∧ rangeOk t (ownBase + 0x100) 128 false true ∧ stepM (ownBase + 0x100) t = .ok ((), t) ∧ (ownBase + 0x100) % 4 = 0
       ∧ (∀ e ∈ tget t.vq (cidOf s.cur.sid) [], e.dst ≠ ab.a.toNat % 32 ∨ e.done.length = 4) ∧ srcA ab t = .ok (5#64, t))
    ∧ (let t := atIssue (gm stX 4 0x100)
       let p := word (ownBase + 0x100)
       ∃ l, lanesM p 4 false ((List.range 32).map fun (i : Nat) => immR ab + (i : Int) * 4) 0 t = .ok (l, t))
    ∧ (let t := atIssue (gm stX 4 0x100)
       let p := word (ownBase + 0x100)
       ∃ l, lanesM p 4 true ((List.range 32).map fun i => immR ab + (getLane t 0 5 i).toInt * 4) 0 t = .ok (l, t))
    ∧ (let s := ev { stX with vq := [(0, [vent0])] } { a := 0 }
       0 < 4 ∧ tget s.vq (s.ev.a * 4 + 0) [] = [vent0] ∧ (∀ d, d < 4 → d ≠ 0 → tget s.vq (s.ev.a * 4 + d) [] = []) ∧ vent0.page = 4
       ∧ vent0.op ≠ 26 ∧ allGroups vent0 = false ∧ vent0.issued = [] ∧ vent0.pushed < s.now ∧ heldBehind s 0 vent0.vid = false ∧ 1 ≤ (coreAt s 0).weight
       ∧ vecMem vent0 = false ∧ ¬ (vent0.page = 4 ∧ vent0.op = 26))
    ∧ (let s := ev { stX with vq := [(0, [vent0])] } { a := 0, b := 3, c := 3, p := .words (List.replicate 8 7#64) }
       (List.replicate 8 7#64).length = 8 ∧ (tget s.vq s.ev.a []).find? (fun x => x.vid == s.ev.b) = some vent0 ∧ vent0.dst < 32 ∧ s.ev.c < 4
       ∧ vSuperseded (tget s.vq s.ev.a []) vent0 s.ev.c = false) := by
  and_intros <;> first | decide +kernel | rfl | exact ⟨rfl, rfl⟩ | exact ⟨rfl, _, rfl, rfl⟩ | exact ⟨_, rfl, rfl⟩ | exact ⟨_, rfl⟩ | exact fun h => absurd h (by decide)

theorem witness_StrandControl_start :
    (let s := gm stU 5 0x400
     let t := atIssue s
     readsB .c ab s (word (ownBase + 0x400)) t ∧ rawAt (word (ownBase + 0x400)) (immR ab * 64) 64 (ownBase + 0x400)
     ∧ rangeOk t (ownBase + 0x400) 64 true false ∧ dstFree ab t ∧ gives (recordM (ownBase + 0x400) 64 t) (List.replicate 64 0#8) t = true)
    ∧ (List.replicate 8 0#64).length = 8
    ∧ freeSlots { slots := (List.range 11).map fun i => (i, { st := .ready }) } 0 = []
    ∧ freeSlots stU 0 = 1 :: 2 :: [3, 4, 5, 6, 7, 8, 9, 10] ∧ freePairSet stU 0 = some 0 := by
  and_intros <;> first | decide +kernel | rfl | exact ⟨rfl, rfl⟩ | exact ⟨rfl, _, rfl, rfl⟩ | exact ⟨_, rfl, rfl⟩ | exact ⟨_, rfl⟩ | exact fun h => absurd h (by decide)

theorem witness_StrandControl_end :
    (slotNo stU.cur.sid = 0 ∧ ab.exr = false ∧ ab.exq = none ∧ ab.xi = [])
    ∧ (slotNo (withAcc stA accSt).cur.sid ≠ 0 ∧ storesDone (withAcc stA accSt) 1 (fun _ => true) = false)
    ∧ (slotNo stA.cur.sid ≠ 0 ∧ drained stA stA.cur.sid = true ∧ storesDone stA stA.cur.sid (fun _ => true) = true
       ∧ rejectedOf stA stA.cur.sid = none
       ∧ (stA.cmds.any fun p => p.2.sid == stA.cur.sid && p.2.gen == (slotAt stA stA.cur.sid).gen && p.2.cpl) = false
       ∧ (teamRelease (cidOf stA.cur.sid) (slotAt stA stA.cur.sid).team stA.cur.sid (atIssue stA)).2 = true)
    ∧ lastOfTeam { stA with slots := [(1, { st := .ready, team := 5 }), (2, { st := .ready, team := 5 })] } 1 = false
    ∧ (let w := 2 * 2 ^ 13
       let s := gg stU 5 w
       readsB .c ab s (word w) (atIssue s) ∧ dstFree ab (atIssue s) ∧ wfield (word w) 54 10 = 0 ∧ wfield (word w) 25 16 = pkgOfC 0
       ∧ wfield (word w) 13 4 = 2 ∧ wfield (word w) 53 1 = 0 ∧ joined (atIssue s) 2 0 = some (false, false))
    ∧ joined { stA with slots := [(10, { st := .ready })] } 10 0 = none
    ∧ joined { stA with slots := [(2, { st := .trapped })] } 2 0 = some (true, false)
    ∧ joined stA 2 1 = some (false, true)
    ∧ ¬ (1 ≤ wfield (word (11 * 2 ^ 13)) 13 4 ∧ wfield (word (11 * 2 ^ 13)) 13 4 ≤ 10)
    ∧ (readsB .b ab (gg stA 5 7) 7#64 (atIssue (gg stA 5 7)) ∧ ab.xi.length ≤ 1 ∧ (bitsR ab).1 = 0)
    ∧ (bitsR { ab with xi := [1] }).1 = 1
    ∧ (bitsR { xi := [0x1FF, 0x1FF, 0x1FF] }).1 ≠ 0
    ∧ (let o : Ops := { b := 7, xi := [0] }
       o.xi.length ≤ 1 ∧ (bitsR o).1 = 0 ∧ (2#64 : Word).toNat.testBit 3 = false ∧ (bitsR { o with xi := [5] }).1 ≠ 0) := by
  and_intros <;> first | decide +kernel | rfl | exact ⟨rfl, rfl⟩ | exact ⟨rfl, _, rfl, rfl⟩ | exact ⟨_, rfl, rfl⟩ | exact ⟨_, rfl⟩ | exact fun h => absurd h (by decide)

/-- Operands of SYSWR: B is g7, the index or word in the immediate. -/
def oSys (n : Nat) : Ops := { b := 7, xi := [BitVec.ofNat 9 (n / 512), BitVec.ofNat 9 n] }

theorem witness_SupervisorInstructions_system :
    (let s := gg stS 5 7
     classTrap .s s = none ∧ sysIndexOk (bitsR (oSys 0xFF)).1 = false ∧ sysIndexOk (bitsR { a := 5, xi := [2] }).1 = true
     ∧ dstFree { a := 5, xi := [2] } (atIssue s) ∧ (bitsR { a := 5, xi := [2] }).1 % 256 ≠ 0x12 ∧ sysIndexOk (bitsR (oSys 0x12)).1 = true
     ∧ readsB .s (oSys 0xF02) s 7#64 (atIssue s) ∧ (oSys 0xF02).xi.length ≤ 2 ∧ sysIndexOk (bitsR (oSys 0xF02)).1 = true ∧ (oSys 0xF02).a = 0)
    ∧ ([0x11, 0x12, 0x21, 0x23, 0x24, 0x30, 0x13].map fun n => decide ((bitsR (oSys n)).1 = n) && sysIndexOk n) = List.replicate 7 true
    ∧ (4095 < 4096 ∧ 4096 ≤ 2 ^ 40 - 1 ∧ 2 ^ 40 - 1 < 2 ^ 40)
    ∧ (slotNo (sysSid stS 0 0x002) = 0 ∧ slotNo (sysSid stS 0 0x102) ≠ 0 ∧ (slotAt stS (sysSid stS 0 0x102)).st ≠ .trapped
       ∧ (slotAt { stS with slots := [(1, { st := .trapped })] } (sysSid stS 0 0x102)).st = .trapped ∧ 0xF02 % 256 = 2)
    ∧ (0 < 63 ∧ 63 < 64)
    ∧ (let s : State := { stS with pkgs := [(0, { present := true, feat0 := BitVec.allOnes 64 })] }
       hasFeature (atIssue s) 0 (sysFeature 5) = true ∧ hasFeature (atIssue stS) 0 (sysFeature 5) = false
       ∧ hasFeature (atIssue stS) 0 (sysFeature 0x11) = true ∧ (bitsR { a := 5, xi := [18] }).1 % 256 = 0x12 ∧ 2 < ([1, 1, 1] : List (BitVec 9)).length) := by
  and_intros <;> first | decide +kernel | rfl | exact ⟨rfl, rfl⟩ | exact ⟨rfl, _, rfl, rfl⟩ | exact ⟨_, rfl, rfl⟩ | exact ⟨_, rfl⟩ | exact fun h => absurd h (by decide)

/-- A supervisor at slot 0 of core 0 in partition 0 of package 0, which takes in the whole package; g7 a word. -/
def stB (w : Word) : State :=
  { stS with
    parts := [(0, { made := true, w := 64, h := 32 })], pkgs := [(0, { present := true, powered := true })], g := [(5, 9#64), (7, w)] }

/-- A block register's address word. -/
def blk (b off inst : Nat) : Word := word (off + b * 2 ^ 20 + inst * 2 ^ 24)

/-- A block register is reached from a supervisor's `SYSRD` or `SYSWR`. -/
def reaches (w : Word) (wr : Bool) : Bool :=
  match blockM w wr (atIssue (stB w)) with
  | .ok x => decide (x.1 = bAddr w) && decide (x.2 = atIssue (stB w))
  | .error _ => false

theorem witness_SupervisorInstructions_blocks :
    (readsB .s ab (stB (blk 4 0x200 0)) (blk 4 0x200 0) (atIssue (stB (blk 4 0x200 0))) ∧ dstFree ab (atIssue (stB (blk 4 0x200 0))))
    ∧ (reaches (blk 4 0x200 0) false && reaches (blk 4 0x310 0) false && reaches (blk 8 0x10 0) false) = true
    ∧ ((snapOf (bAddr (blk 4 0x310 0))).2 = false ∧ (clearRead (stB 0#64) 0 5 1 (bAddr (blk 4 0x310 0))).isSome = true
       ∧ clearRead (stB 0#64) 0 5 1 (bAddr (blk 4 0x200 0)) = none)
    ∧ (let s := { stB 9#64 with g := [(5, blk 4 0x200 0), (7, 9#64)] }
       readsA .s ab s (blk 4 0x200 0) (atIssue s) ∧ srcB ab (atIssue s) = .ok (9#64, atIssue s) ∧ ab.xi = [] ∧ (ab.exr = true → ab.c = 0))
    ∧ ([blk 4 0x008 0, blk 4 0x1E8 0, blk 4 0x200 0, blk 4 0x228 0, blk 4 0x230 0, blk 4 0x308 0, blk 4 0x340 0, blk 8 0x18 0, blk 8 0 0].map
        fun w => reaches w true) = List.replicate 9 true
    ∧ (let s : State := { stB (blk 6 0x1000 0) with pkgs := [(0, { present := true, powered := true, feat0 := BitVec.allOnes 64 })] }
       blockFeature (bAddr (blk 6 0x1000 0)) = 6 ∧ hasFeature s 0 6 = true ∧ hasFeature (stB 0#64) 0 6 = false ∧ hasFeature (stB 0#64) 0 0 = true
       ∧ (snapOf (bAddr (blk 4 (snapBase + 0x330) 0))).2 = isCounter 4 0x330)
    ∧ ((bAddr (blk 4 0x300 0)).blk = 4 ∧ (bAddr (blk 4 0x300 0)).off = 0x300 ∧ wfield 1#64 0 1 = 1 ∧ wfield 0#64 0 1 = 0
       ∧ (partAt { stB 0#64 with parts := [(0, { made := true, stopped := true })] } 0).stopped = true ∧ (partAt (stB 0#64) 0).stopped = false
       ∧ (bAddr (blk 4 0x208 0)).off = 0x208 ∧ reaches (blk 4 0x300 0) true = true) := by
  and_intros <;> first | decide +kernel | rfl | exact ⟨rfl, rfl⟩ | exact ⟨rfl, _, rfl, rfl⟩ | exact ⟨_, rfl, rfl⟩ | exact ⟨_, rfl⟩ | exact fun h => absurd h (by decide)

/-- The handler at slot 0, with INH set, for slot `n` of core 0. -/
def stT (n : Nat) (x : Slot) : State :=
  { stS with slots := (0, { st := .ready }) :: (if n = 0 then [] else [(n, x)]), cores := [(0, { modeS := true, inh := true, tslot := n, pend := [4] })] }

theorem witness_SupervisorInstructions_return :
    (let s := stT 10 { st := .trapped, tepc := 0x1000 }
     classTrap .s s = none ∧ ({} : Ops).xi.length ≤ 1 ∧ (coreAt s (cidOf s.cur.sid)).inh = true ∧ (coreAt s (cidOf s.cur.sid)).tslot = 10 ∧ 10 < 11
     ∧ (bitsR {}).1 < 4 ∧ 10 ≠ 0 ∧ (slotAt s 10).st = .trapped ∧ (coreAt s 0).pend ≠ [] ∧ (slotAt s 10).st ≠ .free
     ∧ (killing 10 (atIssue s)).2 = true)
    ∧ (let s := placeWord State.reset 16 0x094E
       fetchWords { s with slots := tput s.slots 10 { st := .trapped, tepc := (slotAt s 0).pc } } 0 5 (slotAt s 0).pc = .words [0x094E])
    ∧ (coreAt (stT 0 {}) 0).tslot = 0
    ∧ ((coreAt (stT 0 {}) 0).inh = true
       ∧ (slotAt (stT 10 { st := .swapped, tepc := 0x1000 }) 10).st ≠ .trapped ∧ (slotAt (stT 10 { st := .free }) 10).st = .free
       ∧ (coreAt (modCore 0 (fun c => { c with modeS := c.pmode }) (atIssue (stT 0 {}))) 0).tslot = 0)
    ∧ (let s := ev (stT 0 {}) { a := 0, flag := true }
       s.ev.flag = true ∧ (coreAt s s.ev.a).halted = false ∧ (coreAt s s.ev.a).pend ≠ [])
    ∧ (let s := placeWord State.reset 16 0x094E
       fetchWords (modCore 0 (fun c => { c with modeS := c.pmode }) s) 0 5 (slotAt s 0).pc = .words [0x094E]) := by
  and_intros <;> first | decide +kernel | rfl | exact ⟨rfl, rfl⟩ | exact ⟨rfl, _, rfl, rfl⟩ | exact ⟨_, rfl, rfl⟩ | exact ⟨_, rfl⟩ | exact fun h => absurd h (by decide)

theorem witness_SupervisorInstructions_strands :
    (slotNo stA.cur.sid ≠ 0 ∧ (slotAt stA stA.cur.sid).killed = false)
    ∧ (let s := { stB (word (2 ^ 56)) with g := [(5, word 0x100), (7, word (0x10000 + 2 ^ 56))] }
       let o := { ab with xi := [15] }
       readsAB .s o s (word 0x100) (word (0x10000 + 2 ^ 56)) (atIssue s) ∧ o.xi.length = 1 ∧ (bitsR o).1 < 16
       ∧ rtReason (partAt (atIssue s) 0) (word 0x100) (word (0x10000 + 2 ^ 56)) = some 2
       ∧ rtReason (partAt (atIssue s) 0) 0#64 0#64 = none)
    ∧ (bitsR { a := 5, xi := [127] }).1 < 128
    ∧ (readsB .s ab (gg stS 5 10) 10#64 (atIssue (gg stS 5 10)) ∧ dstFree ab (atIssue (gg stS 5 10)) ∧ wfield 10#64 4 60 = 0 ∧ wfield 10#64 0 4 ≤ 10
       ∧ wfield 10#64 0 4 ≠ 0 ∧ wfield 0#64 0 4 = 0)
    ∧ (let s := stT 10 { st := .trapped }
       (slotAt s 10).st = .trapped ∧ (slotAt s 9).st ≠ .trapped ∧ (slotAt s 9).st ≠ .swapped ∧ s.accs = [] ∧ wfield 10#64 12 52 = 0
       ∧ (bitsR {}).1 < 2 ∧ ((slotAt s 10).st ≠ .free ∧ (slotAt s 10).gen % 256 = wfield 10#64 4 8) ∧ (slotAt s 10).killed = false
       ∧ ¬ ((slotAt s 9).st ≠ .free) ∧ (killing 10 s).2 = true)
    ∧ ((slotAt (stT 10 { st := .swapped }) 10).st = .swapped ∧ (slotAt (stT 10 { st := .trapped, killed := true }) 10).killed = true
       ∧ rtBits0 (word (2 ^ 60 + 0x100)) = word 0x100) := by
  and_intros <;> first | decide +kernel | rfl | exact ⟨rfl, rfl⟩ | exact ⟨rfl, _, rfl, rfl⟩ | exact ⟨_, rfl, rfl⟩ | exact ⟨_, rfl⟩ | exact fun h => absurd h (by decide)

theorem witness_SupervisorInstructions_machine :
    (readsB .s ab (gg stS 5 0) 0#64 (atIssue (gg stS 5 0)) ∧ readsB .s ab (gg stS 5 7) 7#64 (atIssue (gg stS 5 7)) ∧ (7#64 : Word) ≠ 0#64)
    ∧ (classTrap .s stS = none ∧ ({} : Ops).exr = false ∧ ({} : Ops).exq = none ∧ ({} : Ops).xi = [])
    ∧ (wfeEvents (coreAt stS 0) = [] ∧ wfeEvents { pend := [1] } ≠ [])
    ∧ (coreAt (ev { stS with cores := [(0, { wfe := some (5, 90) })] } { a := 0, b := 90 }) 0).wfe = some (5, 90)
    ∧ (let o : Ops := { a := 31, exr := true, c := 6 }
       gives (dstReady o.a.toNat (wA o) (atIssue stS)) () (atIssue stS) = true ∧ gives (dstReady (dstN o) 1 (atIssue stS)) () (atIssue stS) = true
       ∧ o.a.toNat < 32)
    ∧ (let least := timeNs ((partAt stS 0).lastSwitch.getD 0) + 1000 * max (coreAt stS 0).slice (coreAt stS 0).switchMin
       least ≤ (word least).toNat ∧ (word least) ≠ 0#64)
    ∧ (let e : Escal := { cause := 0x1B, core := 0, slot := 1, tvalue := 0#64, tval2 := 0#64, tepc := 0x1000, tenant := 0, part := 0, pkg := 0, row := 31 }
       mergeable e.cause = false ∧ ([] : List TrcRec).length < 32 ∧ mergeable 0x18 = true ∧ (escalMates stS { e with cause := 0x18 }).length + 1 < 2 ^ 32
       ∧ tget stS.trcs 31 [] = [])
    ∧ ((qAt stS 0).en = false)
    ∧ (let r : TrcRec := { cause := 7, pv := true, tenant := 0, part := 3, count := 1, core := 0, tvalue := 0#64, tval2 := 0#64, tepc := 0, slot := 1, cores := [] }
       let s := ev { stS with trcs := [(0, [r])] } { a := 0, b := 3 }
       tget s.trcs s.ev.a [] = r :: [] ∧ r.part = s.ev.b ∧ 32 ≤ (List.replicate 32 r).length)
    ∧ (let s := stT 0 {}
       let n := (coreAt s 0).tslot
       wfield 15#64 0 4 = 15 ∧ n ≤ 10 ∧ (n = 0 ∧ (coreAt s 0).inh = true ∧ (coreAt s 0).tslot = 0)
       ∧ (slotAt (stT 10 { st := .trapped }) 10).st = .trapped ∧ (slotAt (stT 10 { st := .ready }) 10).st ≠ .trapped)
    ∧ (let least := timeNs ((partAt { stS with cores := [(0, { modeS := true, slice := 2000 })] } 0).lastSwitch.getD 0)
         + 1000 * max (coreAt { stS with cores := [(0, { modeS := true, slice := 2000 })] } 0).slice 0
       (1#64 : Word) ≠ 0#64 ∧ (1#64 : Word).toNat < least)
    ∧ (0 < 63 ∧ 63 < 64) := by
  and_intros <;> first | decide +kernel | rfl | exact ⟨rfl, rfl⟩ | exact ⟨rfl, _, rfl, rfl⟩ | exact ⟨_, rfl, rfl⟩ | exact ⟨_, rfl⟩ | exact fun h => absurd h (by decide)

/-- A pointer of a format with unblocked elements. -/
def fp (f a : Nat) : Word := word (f * 2 ^ 60 + a)

/-- A LOADB of macro 0 from bf16 rows, a MODE, a RUN, a CLEAR, and an epilogue with a bias and a multiplier row. -/
def dLoadb : List Word := [word (7 * 2 ^ 32), fp 2 (ownBase + 0x1000), word 256, 0#64]
def dMode : List Word := [word (3 + 7 * 2 ^ 32), word (2 + 6 * 2 ^ 4), 0#64, 0#64]
def dRun : List Word := [word (1 + 7 * 2 ^ 32), fp 2 (ownBase + 0x1000), word (256 + 64 * 2 ^ 32 + 2 ^ 39), 0#64]
def dClear : List Word := [word (2 + 7 * 2 ^ 32), word (128 * 2 ^ 10 + 64 * 2 ^ 26), 0#64, 0#64]
def dEpi : List Word :=
  [word (3 * 2 ^ 21 + 2 ^ 24 + 7 * 2 ^ 32), fp 1 (ownBase + 0x2000), word (128 * 2 ^ 10 + 2 * 2 ^ 26), word (512 * 2 ^ 32),
   fp 1 (ownBase + 0x1000), 0#64, fp 1 (ownBase + 0x1800), 0#64]

/-- What a push reads and checks, as something Lean decides. -/
def pushes (eng n : Nat) (d : List Word) : Bool :=
  let s := portS eng d
  let t := atIssue s
  gives (portM oEng eng n t) (0, { kind := 3, eng := eng }) t && gives (descM oEng n t) (ownBase + 0x400, d) t && gives (srcC oEng t) 0#64 t
  && gives (portSlotM oEng 0 { kind := 3, eng := eng } t) () t && gives (cplM 0 (ownBase + 0x400) eng 0 false t) () t && drained t 1

/-- A command at tile 0, and the tile. -/
def cmdS (eng : Nat) (d : List Word) (x : Tile) : State :=
  ev { withCmd stA { eng := eng, sid := 1, gen := 0, desc := d } with tiles := [(0, x)] } { a := 9 }

theorem witness_MatrixAndEpilogue_push :
    (readsB .b ab (gg stA 5 7) 7#64 (atIssue (gg stA 5 7)) ∧ ab.xi.length ≤ 1 ∧ dstFree ab (atIssue stA))
    ∧ (pushes 0 32 dLoadb = true ∧ pushes 0 32 dRun = true ∧ pushes 0 32 dMode = true ∧ pushes 1 64 dEpi = true)
    ∧ (mOk dLoadb = true ∧ mOk dRun = true ∧ mOk dMode = true ∧ mOk dClear = true ∧ eOk dEpi = true)
    ∧ (wfield 0#64 12 52 = 0 ∧ windowTile (tidOfC 0) ((0#64 : Word).toNat * 2 ^ 20) = some 0)
    ∧ (let t := atIssue (portS 0 dLoadb)
       let a := rowSpan (dLoadb.getD 1 0#64) (128 / 1 * 2) 128 256
       (∃ r, fmtM (dLoadb.getD 1 0#64) t = .ok (r, t)) ∧ gives (readSpanM 0 0x400 0 (dLoadb.getD 1 0#64) a.1 a.2 256 t) () t = true)
    ∧ (let t := atIssue (portS 1 dEpi)
       gives (readSpanM 0 0x400 0 (fp 1 (ownBase + 0x1000)) (wfield (fp 1 (ownBase + 0x1000)) 0 56 : Nat) 512 0 t) () t = true
       ∧ gives (readSpanM 0 0x400 0 (fp 1 (ownBase + 0x1800)) (wfield (fp 1 (ownBase + 0x1800)) 0 56 : Nat) 256 0 t) () t = true
       ∧ (∃ r, fmtM (fp 1 (ownBase + 0x2000)) t = .ok (r, t))
       ∧ gives (writeRowsM 0 (fp 1 (ownBase + 0x2000)) (ownBase + 0x2000 : Nat) 512 512 ⟨0, 32, 1, 4, 1⟩ 2 0 t) () t = true) := by
  and_intros <;> first | decide +kernel | rfl | exact ⟨rfl, rfl⟩ | exact ⟨rfl, _, rfl, rfl⟩ | exact ⟨_, rfl, rfl⟩ | exact ⟨_, rfl⟩ | exact fun h => absurd h (by decide)

theorem witness_MatrixAndEpilogue_units :
    (let s := cmdS 0 dRun { cap := 7 }
     let c : Cmd := { eng := 0, sid := 1, gen := 0, desc := dRun }
     tfind s.cmds s.ev.a = some c ∧ arrivesFirst s c = false ∧ c.tile = tidOfC (cidOf c.sid) ∧ (tileAt s 0).inq.length < 8
     ∧ 8 ≤ (tileAt (cmdS 0 dRun { inq := List.replicate 8 1 }) 0).inq.length ∧ ¬ (0 = 1 ∨ routerOk { s with tiles := [(0, { tenant := 3 })] } 0 0 0 false = true))
    ∧ (let s := ev (cmdS 0 dRun { cap := 7, inq := [9] }) { a := 0 }
       (tileAt s s.ev.a).shadow = none ∧ (tileAt s s.ev.a).inq = 9 :: [] ∧ (tfind s.cmds 9).isSome = true
       ∧ capNow s (tileAt s s.ev.a) ≠ 0 ∧ capNow s (tileAt s s.ev.a) = mCap { eng := 0, sid := 1, gen := 0, desc := dRun })
    ∧ capNow stA (tileAt stA 0) = 0
    ∧ (let c : Cmd := { eng := 0, sid := 1, gen := 0, desc := dRun }
       let s := cmdS 0 dRun { shadow := some 9, nmac := 1, loaded := [0] }
       (tileAt s 0).shadow = some s.ev.a ∧ mMayRun s (tileAt s 0) c = true ∧ partHeld s (0 * 4) = false ∧ released s c.entries = true
       ∧ eStillReads s (tileAt s 0) c = false ∧ mInvalid (tileAt s 0) c = false ∧ s.ev.c = 0 ∧ mInvalid { nmac := 1 } c = true ∧ .run_ ∈ [Instr.mode_, .loadb, .run_, .clear_])
    ∧ (let c : Cmd := { eng := 0, sid := 1, gen := 0, desc := dRun }
       let s := cmdS 0 dRun { active := some 9 }
       (tileAt s 0).active = some s.ev.a ∧ mCmd c = 1 ∧ wfield (mw c 2) 45 6 + wfield (mw c 2) 32 7 ≤ 64 ∧ 63 < wfield (mw c 2) 32 7
       ∧ 0 ∈ mMacros c ∧ s.ev.b = 0 ∧ c.cpl = false)
    ∧ (mCmd { eng := 0, sid := 1, gen := 0, desc := dLoadb } = 0 ∧ mCmd { eng := 0, sid := 1, gen := 0, desc := dClear } = 2
       ∧ 3 ≤ mCmd { eng := 0, sid := 1, gen := 0, desc := dMode } ∧ 127 < wfield (dClear.getD 1 0#64) 10 10 ∧ 63 < wfield (dClear.getD 1 0#64) 26 7)
    ∧ (let c : Cmd := { eng := 1, sid := 1, gen := 0, desc := dEpi }
       let s := cmdS 1 dEpi { cap := 7, nmac := 1, einq := [9] }
       let x := tileAt s 0
       x.eactive = none ∧ x.einq.head? = some s.ev.a ∧ capNow s x ≠ 0 ∧ capNow s x = mCap c ∧ c.off ≠ 1 ∧ partHeld s (0 * 4) = false
       ∧ released s c.entries = true ∧ mStillWrites s x c = false ∧ eInvalid x c = false)
    ∧ (let c : Cmd := { eng := 1, sid := 1, gen := 0, desc := dEpi, off := 1, row := 224, nstay := 1 }
       let s := ev { cmdS 1 dEpi { eactive := some 9 } with cmds := [(9, c)] } { a := 9, b := 2, d := ownBase + 0x2000, p := .bytes [1] }
       (tileAt s 0).eactive = some s.ev.a ∧ State.memOk s ∧ s.ev.b = 2 ∧ s.ev.p = .bytes [1] ∧ tileOfVa c.tile s.ev.d = some 0
       ∧ c.off = 1 ∧ c.step = s.ev.c ∧ min (eTotal c) (c.row + 32) = eTotal c ∧ c.row < eTotal c ∧ 2 < 3 ∧ c.nstay ≤ 1
       ∧ eTotal { c with row := 256 } ≤ 256 ∧ capNow s (tileAt s 0) = 0
       ∧ routerOk { s with tiles := [(1, { tenant := 3 })] } 1 0 0 false = false) := by
  and_intros <;> first | decide +kernel | rfl | exact ⟨rfl, rfl⟩ | exact ⟨rfl, _, rfl, rfl⟩ | exact ⟨_, rfl, rfl⟩ | exact ⟨_, rfl⟩ | exact fun h => absurd h (by decide)

/-- HCOMPACT of one page of heap 0 to page 3, its page list at 0x500, its array at page 4; and its command. -/
def dRel : List Word := [word (2 ^ 8), word (ownBase + 0x500), word (0x30000 + 2 ^ 56), word 0x40000]
def relS : State :=
  { heapS 0 with
    g := [(71, word (ownBase + 0x400))], q := [(16, { kind := 3, eng := 5 })], rt := (0, ownEntry) :: (heapS 0).rt
    mem := mwrite (mwrite (heapS 0).mem (spKey 0 0x400) (wordsBytes dRel)) (spKey 0 0x500) (wordsBytes [word 0x20000])
    own := [(0, word (1 + 2 ^ 16), word 5)] }
def cRel : Cmd := { eng := 5, sid := 1, gen := 0, desc := dRel, result := word 0x10000, nextAt := 0x30000 }
def relC (a : EvArg) : State := ev { relS with cmds := [(9, cRel)] } a

/-- Page 2 holds one object of 64 KiB. -/
def relP : State :=
  { relC { a := 9 } with
    mem := mwrite (mwrite (relC {}).mem (devKey 0 24592) (wordsBytes [word (1 + 6 * 2 ^ 8)])) (devKey 0 0x60000) (wordsBytes [word 4096])
    parts := [(0, { grants := [⟨0x40000, 0x50000, true, true, true⟩] })] }

theorem witness_Relocation_push :
    (let t := atIssue relS
     classTrap .a relS = none ∧ gives (portM oEng 5 32 t) (0, { kind := 3, eng := 5 }) t = true ∧ gives (descM oEng 32 t) (ownBase + 0x400, dRel) t = true
     ∧ relocOk dRel = true ∧ gives (spanM (dRel.getD 1 0#64) (ownBase + 0x500 : Nat) 8 true false t) () t = true
     ∧ gives (cplM 0 (ownBase + 0x400) 5 0 false t) () t = true ∧ gives (unitReadM (heapVa t 0 0) 48 t) (wordsBytes heapW) t = true)
    ∧ (let t := atIssue relS
       hValid heapW = true ∧ hTenant heapW = (coreAt t 0).tenant ∧ ownedBy t 0 (hBase heapW) (hLimit heapW) = true
       ∧ heapHold t 0 (slotAt t 1).team (hBase heapW) ≠ 0 ∧ gives (portSlotM oEng 0 { kind := 3, eng := 5 } t) () t = true)
    ∧ hValid [0#64, 1#64, word 0x20000, word 0x40000, word 0x10800, 0#64] = false := by
  and_intros <;> first | decide +kernel | rfl | exact ⟨rfl, rfl⟩ | exact ⟨rfl, _, rfl, rfl⟩ | exact ⟨_, rfl, rfl⟩ | exact ⟨_, rfl⟩ | exact fun h => absurd h (by decide)

/-- Every page of some spans is there. -/
def pagesInB (s : State) (c : Cmd) (l : List (Nat × Nat)) : Bool := l.all fun p => decide ((engCheck s (rOwn c) p.1 (rTen s c) p.2).2 ≠ .wait)

theorem pagesInB_iff (s : State) (c : Cmd) (l : List (Nat × Nat)) : pagesInB s c l = true ↔ pagesIn s c l := by
  simp [pagesInB, pagesIn]

theorem witness_Relocation_engine :
    (let s := relC { a := 9 }
     tfind s.cmds s.ev.a = some cRel ∧ s.ev.b = 0 ∧ released s cRel.entries = true ∧ (pkgAt s (rOwn cRel / 2048)).rq = []
     ∧ rHeap cRel ∉ (pkgAt s (rOwn cRel / 2048)).rle
     ∧ pagesInB s cRel [(wfield (rW cRel 1) 0 56, 8 * rNpg cRel), (cRel.result.toNat, 48)] = true ∧ rValid s cRel (rPages s cRel) = false
     ∧ heapCores s 0 (rEntry s cRel) ≠ []
     ∧ pagesInB s cRel [(0x10000, 48), (rArr cRel, 32768), (hFwd (rEntry s cRel), 8), (0x20000, 65536)] = true)
    ∧ (rValid relP cRel (rPages relP cRel) = true ∧ pagesInB relP cRel ((rPages relP cRel).map fun p => (p, 65536)) = true
       ∧ (rPages relP cRel).mapM (fun p => parsePage relP cRel p 4097 0) = some [[(0, 4096)]]
       ∧ (rPages (relC {}) cRel).mapM (fun p => parsePage (relC {}) cRel p 4097 0) = none)
    ∧ (let c : Cmd := { cRel with aux := [0x20100 + 2 * 2 ^ 68], row := 1 }
       let s := ev { relC {} with cmds := [(9, c)] } { a := 9, b := 0x40000, c := 1 }
       tfind s.cmds s.ev.a = some c ∧ c.aux = (0x20100 + 2 * 2 ^ 68) :: [] ∧ c.row = 1
       ∧ pagesInB s c [(s.ev.b, 8), (nfield (0x20100 + 2 * 2 ^ 68) 0 56, 32), (destOf c 32, 32)] = true ∧ s.ev.c = 1
       ∧ wfield (rPeek s c s.ev.b) 56 8 = 0 ∧ wfield (rPeek s c 0x20100) 48 8 = 0 ∧ (pkgAt s (rOwn c / 2048)).copying = 0)
    ∧ (wfield (rPeek { relP with mem := mwrite relP.mem (devKey 0 0x60000) (wordsBytes [word (2 ^ 56)]) } cRel 0x20000) 56 8 ≠ 0)
    ∧ (let s := ev (relC {}) { a := 9, c := 5 }
       (pkgAt s (rOwn cRel / 2048)).rq = [] ∧ cRel.cpl = false ∧ (let c := { cRel with gen := 1 }
         cmdAway s c = false ∧ cmdLive s c = false) ∧ pagesInB s cRel [(0x10000, 8), (0x30001, 16)] = true)
    ∧ (let c : Cmd := cRel
       let s := relC { a := 9 }
       let b : State := { s with pkgs := [(0, { (pkgAt s 0) with rle := [rHeap c] })] }
       rHeap c ∈ (pkgAt b (rOwn c / 2048)).rle ∧ (pkgAt b (rOwn c / 2048)).rq = [] ∧ released s [] = true
       ∧ released (withAcc s { accSt with sid := 1 }) [9] = false
       ∧ (let q : Cmd := { c with list := [0x20000] }
          (ev (relC {}) { a := 9, b := 1 }).ev.b ≠ 0 ∧ q.list = [0x20000])) := by
  and_intros <;> first | decide +kernel | rfl | exact ⟨rfl, rfl⟩ | exact ⟨rfl, _, rfl, rfl⟩ | exact ⟨_, rfl, rfl⟩ | exact ⟨_, rfl⟩ | exact fun h => absurd h (by decide)

/-- Queue 0 of cluster 0 serves partition 0; a record of eight words stands at 0x400 and a queue word in g5. -/
def qS (q : TduQ) : State :=
  { gm stA 0 0x400 with parts := [(0, { made := true, w := 64, h := 32, dcnum := 4 })], tduq := [(0, q)] }
def qOk : TduQ := { en := true, owned := true, part := 0 }
def rec0 : TaskRec := { words := [0#64, 5#64, 0#64, 0#64, 0#64, 0#64, 0#64, 0#64], pushed := 10 }

theorem witness_TaskQueuesAndCounters_queues :
    (let s := qS qOk
     let t := atIssue s
     gives (releaseM t) () t = true ∧ gives (srcA ab t) 0#64 t = true ∧ gives (queueM 0#64 t) 0 t = true
     ∧ gives (srcB ab t) (word (ownBase + 0x400)) t = true ∧ gives (taskRecM ab (word (ownBase + 0x400)) t) (List.replicate 8 0#64) t = true ∧ (ab.exr = true → ab.c = 0) ∧ qRoom (qAt s 0) = .entry
     ∧ wfield 0#64 12 52 = 0 ∧ qServes s 0 (qCluster 0 0#64) (wfield 0#64 0 4) = true ∧ qServes stA 0 (qCluster 0 0#64) (wfield 0#64 0 4) = false
     ∧ (wfield (word 0x800) 11 1 = 1 ∧ wfield (word 0x800) 4 7 = 0))
    ∧ (let q := { qOk with ents := List.replicate 32 rec0, rsz := 1, base := 0x10000 }
       qRoom q = .ring ∧ qRoom { q with wr := 2 } = .full ∧ (engCheck (walked (pages (qS q) (1 + 5 * 2 ^ 8))) (qOwn 0) (qSlot q q.wr) 0 64).2 ≠ .wait)
    ∧ (let s := qS { qOk with ents := [rec0] }
       let t := atIssue s
       classTrap .c { s with cur := { sid := 0 } } = none ∧ ab.xi.length ≤ 3 ∧ dstFree ab t ∧ gives (srcB ab t) (word (ownBase + 0x400)) t = true
       ∧ rawAt (word (ownBase + 0x400)) (immR ab * 64) 64 (ownBase + 0x400) ∧ tileOfVa 0 (ownBase + 0x400) = some 0
       ∧ rangeOk t (ownBase + 0x400) 64 false true ∧ bestTask s.now (qAt t 0).ents = some rec0 ∧ (bitsR ab).1 % 2 = 0
       ∧ bestTask s.now [] = none ∧ qRing (qAt (qS qOk) 0) = 0)
    ∧ (let q := { qOk with refill := true, wr := 1, rsz := 1, base := 0x10000 }
       let s := ev (walked (pages (qS q) (1 + 5 * 2 ^ 8))) { a := 0 }
       (qAt s s.ev.a).refill = true ∧ qRing (qAt s s.ev.a) ≠ 0 ∧ (qAt s s.ev.a).ents.length < 32
       ∧ (engCheck s (qOwn 0) (qSlot q 0) 0 64).2 ≠ .wait)
    ∧ (let o : Ops := { a := 5, b := 7, exr := true, c := 6, xi := [1] }
       let s := qS qOk
       let t := atIssue s
       (bitsR o).1 % 2 = 1 ∧ (bitsR ab).1 % 2 ≠ 1 ∧ wfield (word 0x800) 11 1 = 1 ∧ acqPending t t.cur.sid = false
       ∧ bestTask t.now (qAt t 0).ents = none ∧ qRing (qAt t 0) = 0 ∧ (neighbours 0).filter (fun c => qServes t 0 c 0) = []
       ∧ qRing (qAt (qS { qOk with wr := 1 }) 0) ≠ 0)
    ∧ (let s : State := { qS qOk with tduq := [(0, qOk), (16, { qOk with ents := [rec0] })] }
       let near := (neighbours 0).filter fun c => qServes s 0 c 0
       near.findSome? (fun c => (bestTask s.now (qAt s (qKey 0 c 0)).ents).map (c, ·)) = some (1, rec0)) := by
  and_intros <;> first | decide +kernel | rfl | exact ⟨rfl, rfl⟩ | exact ⟨rfl, _, rfl, rfl⟩ | exact ⟨_, rfl, rfl⟩ | exact ⟨_, rfl⟩ | exact fun h => absurd h (by decide)

theorem witness_TaskQueuesAndCounters_counters :
    (let s := { qS qOk with g := [(69, 3#64), (71, word 65535)] }
     let t := atIssue s
     readsAB .b ab s 3#64 (word 65535) t ∧ (3#64 : Word).toNat < (partAt t (pkeyOf t 0)).dcnum ∧ (word 65535).toNat < 2 ^ 16
     ∧ 2 ^ 16 ≤ (word 65536).toNat ∧ (partAt t 0).dcnum ≤ (4#64 : Word).toNat)
    ∧ (let s := ev (walked (pages (qS qOk) (1 + 5 * 2 ^ 8))) { a := 0, b := 3, p := .words (List.replicate 8 0#64) }
       let s := { s with parts := [(0, { made := true, dcbase := 0x10000, dcnum := 4 })] }
       (engCheck s 0 (0x10000 + 128 * 3) 0 128).2 ≠ .wait ∧ s.ev.p = .words (List.replicate 8 0#64) ∧ s.ev.e = 0
       ∧ wfield (dcWord s 0 (0x10000 + 128 * 3) 0) 0 16 = 0)
    ∧ (1 < wfield 2#64 0 16 ∧ wfield 1#64 0 16 = 1 ∧ wfield 1#64 16 1 = 0 ∧ wfield (word (1 + 2 ^ 16)) 16 1 = 1)
    ∧ heldOn (ev (mk 1 { st := .waiting, hold := true, heldBy := 9 }) { c := 1, d := 0, w := 9 }) 1 0 (9#64 : Word).toNat = true
    ∧ (let s := qS qOk
       let t := atIssue s
       gives (srcA ab t) 0#64 t = true ∧ (0#64 : Word).toNat < (partAt t (pkeyOf t 0)).dcnum ∧ gives (srcC ab t) 0#64 t = true
       ∧ gives (queueM 0#64 t) 0 t = true ∧ gives (srcB ab t) (word (ownBase + 0x400)) t = true ∧ gives (taskRecM ab (word (ownBase + 0x400)) t) (List.replicate 8 0#64) t = true ∧ gives (releaseM t) () t = true
       ∧ (slotAt t 1).st ≠ .free)
    ∧ (let s := ev (qS qOk) { a := 0, p := .words [] }
       s.ev.p = .words [] ∧ qRoom (qAt s (qKey 0 0 0)) ≠ .full ∧ (engCheck s (qOwn 0) (qSlot qOk 0) 0 64).2 ≠ .wait)
    ∧ (let s := gm stU 5 0x400
       readsB .c ab s (word (ownBase + 0x400)) (atIssue s) ∧ rawAt (word (ownBase + 0x400)) (immR ab * 64) 64 (ownBase + 0x400)
       ∧ rangeOk (atIssue s) (ownBase + 0x400) 64 true false ∧ dstFree ab (atIssue s)
       ∧ gives (recordM (ownBase + 0x400) 64 (atIssue s)) (List.replicate 64 0#8) (atIssue s) = true)
    ∧ ((partAt stA 0).jobs.length < 16 ∧ 16 ≤ (List.replicate 16 (0 : Nat)).length) := by
  and_intros <;> first | decide +kernel | rfl | exact ⟨rfl, rfl⟩ | exact ⟨rfl, _, rfl, rfl⟩ | exact ⟨_, rfl, rfl⟩ | exact ⟨_, rfl⟩ | exact fun h => absurd h (by decide)

theorem witness_counterTurn : counterTurn (ev (qS qOk) { a := 0, d := 0 }) 0 := by
  intro x c h
  cases h

/-- Core 0 alone in combining group 3 of its tile, whose node is the root, with this operation. -/
def cnS (w : Nat) : State := { gg stA 5 7 with cnGrp := [(3, word (1 + w * 2 + 2 ^ 5 + 7 * 2 ^ 14))] }

theorem witness_Collectives_nodes :
    (let o := { ab with xi := [3] }
     let s := cnS 9
     let t := atIssue s
     readsB .b o s 7#64 t ∧ o.xi.length = 1 ∧ (bitsR o).1 < 256 ∧ groupMember s 0 3 = true ∧ cnOpOf (cnWord s 3) ≤ 10 ∧ drained t 1 = true
     ∧ cnWouldWait t 0 3 = false ∧ cnWouldWait { s with cnNext := [(3, 2)] } 0 3 = true ∧ isScan (cnOpOf (cnWord s 3)) = true ∧ dstFree o t
     ∧ isScan (cnOpOf (cnWord (cnS 0) 3)) = false ∧ groupMember s 1 3 = false)
    ∧ (let s := { cnS 0 with cnInst := [(6, { seq := 0, cores := [(0, 7#64)] })] }
       let i := tget s.cnInst (3 * 2 + 0 % 2) { seq := 0 }
       i.sent = false ∧ (cnOperands (cnWord s 3) i).map List.length = some 1 ∧ wfield (cnWord s 3) 14 3 = 7
       ∧ neighbour 0 1 = some 1 ∧ wfield (word (1 + 2 ^ 14)) 14 3 < 4 ∧ wfield (word (4 * 2 ^ 14)) 14 3 = 4)
    ∧ (let s := ev (cnS 0) { a := 3, c := 3, p := .contrib ⟨[7#64], 0, 1⟩ }
       s.ev.p = .contrib ⟨[7#64], 0, 1⟩ ∧ s.ev.c < 4 ∧ 4 ≤ 5 ∧ wfield (word (1 + 2 ^ 10)) 0 1 = 1 ∧ 5 - 4 ∈ cnKids (word (1 + 2 ^ 10))
       ∧ ¬ (5 - 4 ∈ cnKids (cnWord s 3)))
    ∧ (let s := ev (cnS 0) { a := 3, flag := true, p := .contrib ⟨[7#64], 0, 1⟩ }
       s.ev.flag = true ∧ cnHeld s 3 = false ∧ cnHeld { s with ext := [(3, { waiting := [⟨[], 0, 0⟩] })] } 3 = true
       ∧ cnShares 9 7#64 [(0, 7#64, 0)] ≠ [] ∧ 4 ≤ 5 ∧ neighbour (3 / 256) (5 - 4) = some 1)
    ∧ (let w : CnWait := { sid := 1 }
       let s := ev { cnS 0 with cnWait := [(6, w)], ext := [(3, { owner := some 1 })] } { a := 3, p := .contrib ⟨[7#64], 0, 1⟩ }
       tfind s.cnWait ((0 * 256 + 3 % 256) * 2 + 0 % 2) = some w ∧ w.kind = 0 ∧ (extAt s 3).owner = some w.sid ∧ (extAt s 3).ents.length < 8
       ∧ (slotAt s w.sid).gen = w.gen ∧ (slotAt s w.sid).st ≠ .free
       ∧ 8 ≤ (List.replicate 8 ((0#64, 0#64) : Word × Word)).length ∧ (cnDeliver 3 0 0 w 7#64 0 s).2 = true
       ∧ (cnDeliver 3 0 0 w 7#64 0 { s with ext := [(3, { owner := some 1, ents := List.replicate 8 (0#64, 0#64) })] }).2 = false)
    ∧ (let s := cnS 0
       ({ sid := 1, kind := 2 } : CnWait).kind = 2 ∧ ({ sid := 1, kind := 1 } : CnWait).kind = 1
       ∧ ((slotAt s 1).gen = 0 ∧ (slotAt s 1).st ≠ .free) ∧ 0 / 2 ^ 17 % 4 = 0 ∧ ¬ ((slotAt s 2).gen = 0 ∧ (slotAt s 2).st ≠ .free))
    ∧ (let s := { cnS 0 with ext := [(3, { owner := some 1, ents := List.replicate 8 (0#64, 0#64) })] }
       (cnDeliver 3 0 0 { sid := 1, gen := 0 } 7#64 0 s).2 = false ∧ (cnDeliver 3 0 0 { sid := 1, gen := 0 } 7#64 0 (cnS 0)).2 = true) := by
  and_intros <;> first | decide +kernel | rfl | exact ⟨rfl, rfl⟩ | exact ⟨rfl, _, rfl, rfl⟩ | exact ⟨_, rfl, rfl⟩ | exact ⟨_, rfl⟩ | exact fun h => absurd h (by decide)

/-- A partial of group 3, instance 0, that arrives at Pavilion 0. -/
def part0 : FerPart := ⟨0, 0, 3, 0, 0, 0, 0, 0, ⟨[7#64], 0, 1⟩⟩

theorem witness_Collectives_pavilion :
    (let s := ev { stA with ferGrp := [(3, (word 1, word 2))] } { p := .fer part0 }
     s.ev.p = .fer part0 ∧ (pkgAt s 0).failed = false ∧ wfield (ferRoute s 0 3).1 0 1 = 1 ∧ (ferAtSlot s (ferKey 0 3 0)).st = 0
     ∧ 1 < wfield (ferRoute s 0 3).2 0 32 ∧ wfield (ferRoute { s with ferGrp := [(3, (word 1, word 1))] } 0 3).2 0 32 ≤ 1)
    ∧ (let x : FerSlot := { st := 1, tenant := 0, group := 3, seq := 0, arr := [part0], opened := 90 }
       let s := ev { stA with ferGrp := [(3, (word 1, word 2))], ferSlot := [(3, x)] } { a := 0, b := 3, c := 90, p := .fer { part0 with sender := 1 } }
       (ferAtSlot s (ferKey 0 3 0)).st = 1 ∧ x.tenant = part0.tenant ∧ x.group = part0.group ∧ part0.seq < 65536 ∧ x.seq = part0.seq
       ∧ wfield (ferRoute s 0 3).2 0 32 ≤ x.arr.length + 1 ∧ x.arr.length + 1 < wfield 3#64 0 32 ∧ (ferAtSlot s s.ev.b).opened = s.ev.c
       ∧ (ferAtSlot s s.ev.b).halted = false ∧ 3 ∈ ferSlots 0 3 ∧ wfield (ferRoute s 0 3).1 5 1 = 0
       ∧ 3 ∉ (ferAt s 0).halts.erase 3)
    ∧ (let x : FerSlot := { st := 2, waitParent := true }
       tfind { stA with ferSlot := [(ferUpKey (ferKey 0 3 0) 0 0, x)] }.ferSlot (ferUpKey (ferKey 0 3 0) 0 0) = some x)
    ∧ (pkgAt { stA with pkgs := [(0, { failed := true })] } part0.pkg).failed = true := by
  and_intros <;> first | decide +kernel | rfl | exact ⟨rfl, rfl⟩ | exact ⟨rfl, _, rfl, rfl⟩ | exact ⟨_, rfl, rfl⟩ | exact ⟨_, rfl⟩ | exact fun h => absurd h (by decide)

/-- A2A of one parcel of 64 bytes to one destination, with group 3; its lists and areas stand in the scratchpad. -/
def dA2a : List Word :=
  [word (ownBase + 0x800), word (ownBase + 0x900), word 64, word (ownBase + 0x600), word (ownBase + 0x700), word (1 + 3 * 2 ^ 38), 0#64, 0#64]

theorem witness_Collectives_a2a :
    (let s := { portS 3 dA2a with cnGrp := [(3, word (1 + 2 ^ 5 + 7 * 2 ^ 14))] }
     let t := atIssue s
     classTrap .a s = none ∧ gives (portM oEng 3 64 t) (0, { kind := 3, eng := 3 }) t = true ∧ gives (descM oEng 64 t) (ownBase + 0x400, dA2a) t = true
     ∧ a2aOk dA2a = true ∧ gives (spanBy rangeMatchM (dA2a.getD 0 0#64) (ownBase + 0x800 : Nat) 64 true false t) () t = true
     ∧ gives (spanM (dA2a.getD 3 0#64) (ownBase + 0x600 : Nat) 2 true false t) () t = true
     ∧ gives (spanM (dA2a.getD 4 0#64) (ownBase + 0x700 : Nat) 16 true false t) () t = true
     ∧ gives (spanBy rangeMatchM (dA2a.getD 1 0#64) (ownBase + 0x900 : Nat) 64 true true t) () t = true ∧ groupMember t 0 (aGroup dA2a) = true
     ∧ cnOpOf (cnWord t (0 * 256 + aGroup dA2a)) ≤ 10 ∧ userOverlap t 0 (aVa dA2a 0) 64 = none ∧ userOverlap t 0 (aVa dA2a 1) 64 = none
     ∧ ((List.range 64).drop 16).filter (fun e => !(rtView (rtAt t (0 * 64 + e))).valid) = 16 :: 17 :: (List.range 64).drop 18
     ∧ gives (cplM 0 (ownBase + 0x400) 3 0 false t) () t = true ∧ gives (portSlotM oEng 0 { kind := 3, eng := 3 } t) () t = true)
    ∧ (let c : Cmd := { eng := 3, op := 18, sid := 1, gen := 0, desc := dA2a, row := 1 }
       let s := ev (withCmd (cnS 0) c) { a := 9, p := .bytes [1], w := word (ownBase + 0x900) }
       tfind s.cmds s.ev.a = some c ∧ s.ev.b = 0 ∧ s.ev.d = 0 ∧ released s c.entries = true ∧ s.ev.p = .bytes [1]
       ∧ ([(aVa dA2a 3, 2), (aVa dA2a 4, 16), (aVa dA2a 0, 64)].all fun p => (engCheck s 0 p.1 0 p.2).2 == .ok 0) = true
       ∧ remoteCheck s 0 (s.ev.c % 65536) s.ev.w.toNat 1 0 0 = (ownBase + 0x900, .ok (spKey 0 0x900))
       ∧ cnWouldWait s 0 3 = false ∧ c.row - 1 = 0 ∧ c.row ≠ 0 ∧ a2aAhead s s.ev.a 0 = false ∧ s.ev.c % 65536 = 0 / 2048
       ∧ cmdAway s c = false ∧ cmdAway { s with gangs := [(1, { gang0 with active := false })] } { c with gang := some 1 } = true)
    ∧ (let c : Cmd := { eng := 3, op := 18, sid := 1, gen := 0, desc := dA2a, row := 1 }
       let s := ev (withCmd { cnS 0 with tiles := [(1, { tenant := 3, part := some 0 })] } c) { a := 9, b := 1, p := .bytes [1], w := word (windowBase + 2 ^ 20) }
       tfind s.cmds s.ev.a = some c ∧ s.ev.b ≠ 0 ∧ s.ev.d = 0 ∧ s.ev.p = .bytes [1]
       ∧ remoteCheck s 0 (s.ev.c % 65536) s.ev.w.toNat 1 0 0 = (windowBase + 2 ^ 20, .fail 0 4))
    ∧ (let s := cnS 0
       let x : Xfer := { pkg := 0, va := ownBase + 0x900, bytes := [1], first := 1 }
       x.pkg = identityOf s 0 ∧ 0 < x.bytes.length ∧ xferParts s 0 x = [x]) := by
  and_intros <;> first | decide +kernel | rfl | exact ⟨rfl, rfl⟩ | exact ⟨rfl, _, rfl, rfl⟩ | exact ⟨_, rfl, rfl⟩ | exact ⟨_, rfl⟩ | exact fun h => absurd h (by decide)

/-- A job of one tile whose strand 0 starts at 0x20000, as a supervisor; and its partition. -/
def jDesc : List Word := [word (0x20000 + 2 ^ 56), word (2 ^ 11 + 2 ^ 18), 0#64, 0#64, 0#64, 5#64, 0#64, 0#64]
def job0 : Job := { num := 1, desc := jDesc, super := true, seq := 0 }
def partJ (js : List Job) : Part := { made := true, w := 64, h := 32, tvec := 0x8000, jobs := js }
def jobS (p : Part) (a : EvArg) : State := ev { gangS stA gang0 with parts := [(0, p)] } a

theorem witness_GangsJobsAndDebug_switch :
    (let s := jobS { partJ [] with stamp := some 50 } { a := 0, w := 50 }
     let res := (residents s 0).filter fun x => !gangEnding s x.2
     (partAt s 0).stamp.map word = some s.ev.w ∧ (partAt s 0).switching = 0 ∧ (partAt s 0).stopped = false ∧ (res.all fun x => x.2.halted == 0) = true
     ∧ (partAt s 0).stamp.map word ≠ some 51#64 ∧ (res.all fun x => gangDrained s x.1 x.2) = true ∧ res ≠ []
     ∧ (let c : Cmd := { eng := 3, op := 18, sid := 1, gen := 0, desc := dA2a, gang := some 1 }
        (9, c) ∈ (withCmd s c).cmds ∧ c.placed = false))
    ∧ (let s := { jobS (partJ []) { a := 0, b := 1 } with accs := [(9, { acc0 with gang := some 1 })] }
       ((residents s 0).all fun x => gangDrained s x.1 x.2) = false)
    ∧ (let g := { gang0 with fallout := [(fallHops (5, msg0), msg0)] }
       let s := jobS (partJ []) { a := 1, b := 1 }
       gangAt s s.ev.b = some gang0 ∧ gangAt s s.ev.a = some gang0 ∧ (gangAt { s with gangs := [(1, g)] } 1).map (·.fallout.length) = some 1
       ∧ inGang gang0 (0 / 4) = true ∧ inGang gang0 1 = false ∧ isSpKey (spKey 0 0) = true ∧ State.memOk s)
    ∧ (let v : Saved := { slots := [(1, { st := .ready })] }
       let s := { jobS (partJ []) { a := 0, b := 1 } with saves := [(1, v)] }
       tfind s.saves s.ev.b = some v ∧ (v.slots.map (·.1)).Nodup)
    ∧ (partAt (jobS { partJ [] with switching := 3 } { a := 0, b := 2 }) 0).switching = 3
    ∧ (heapPageAway (jobS (partJ []) { a := 0, b := 1 }) gang0.pkey = none) := by
  and_intros <;> first | decide +kernel | rfl | exact ⟨rfl, rfl⟩ | exact ⟨rfl, _, rfl, rfl⟩ | exact ⟨_, rfl, rfl⟩ | exact ⟨_, rfl⟩ | exact fun h => absurd h (by decide)

theorem witness_GangsJobsAndDebug_jobs :
    (let s := ev { stA with parts := [(0, partJ [job0])] } { a := 0, b := 1 }
     let p := partAt s 0
     p.made = true ∧ p.switching = 0 ∧ p.stopped = false ∧ p.stopreq = false ∧ p.jobs = [job0] ∧ job0.st = 0 ∧ residents s 0 = []
     ∧ jobCheck s 0 job0 = none ∧ jobReady s 0 job0 = (true, none) ∧ jobCheck s 0 { job0 with super := false } = some 2
     ∧ 3 / 4 ∈ rectTiles (0 / 64) (jobRect jDesc))
    ∧ (let j := { job0 with st := 3, gid := 1 }
       let s := jobS (partJ [j]) { a := 0, b := 1 }
       (partAt s 0).jobs.find? (fun j => j.num == s.ev.b && j.st == 3) = some j ∧ gangAt s j.gid = some gang0 ∧ gang0.active = true ∧ gang0.halted ≠ 3
       ∧ gangAt s 2 = none ∧ (s.agenda.any fun e => e.2.1 == .tileClear && e.2.2.a == j.gid) = false
       ∧ ([(200, Instr.tileClear, ({ a := 1 } : EvArg))].any fun e => e.2.1 == .tileClear && e.2.2.a == j.gid) = true
       ∧ wfield (j.desc.getD 4 0#64) 0 56 = 0
       ∧ (let seen := (gangSids gang0).foldl (fun t sid => joinSeen t (handed s sid)) (partAt s 0).codeSeen
          let q := killAll (gangSids gang0) (modPart s.ev.a (fun p => { p with codeSeen := seen }) s)
          q.2 = true ∧ (q.1.accs.any fun p => p.2.gang == some j.gid && !p.2.rejected) = false
          ∧ (q.1.cmds.any fun p => p.2.gang == some j.gid) = false))
    ∧ (let j := { job0 with st := 1, gid := 1, done := [1, 2, 3] }
       let s := jobS (partJ [j]) { a := 0, b := 1 }
       (partAt s (pkeyOf s 0)).jobs.find? (fun j => j.num == s.ev.b && j.st != 3) = some j ∧ j.st = 1 ∧ gangAt s j.gid = some gang0
       ∧ 0 ∈ gangCores gang0 ∧ ((gangCores gang0).all fun c => c == 0 || j.done.contains c) = true)
    ∧ (gangCores gang0).all (fun c => c == 0 || ([] : List Nat).contains c) = false
    ∧ (let j := { job0 with st := 3, gid := 1 }
       let s := ev { jobS (partJ [j]) { a := 0, b := 1 } with gangs := [(1, { gang0 with active := false })] } { a := 0, b := 1 }
       (gangAt s j.gid).map (·.active) = some false ∧ savedBusy 1 { s with gangs := [] } = false
       ∧ savedBusy 1 { s with gangs := [], accs := [(9, { acc0 with gang := some 1 })] } = true) := by
  and_intros <;> first | decide +kernel | rfl | exact ⟨rfl, rfl⟩ | exact ⟨rfl, _, rfl, rfl⟩ | exact ⟨_, rfl, rfl⟩ | exact ⟨_, rfl⟩ | exact fun h => absurd h (by decide)

theorem witness_GangsJobsAndDebug_debug :
    (let s := jobS { partJ [] with stopreq := true } { a := 0, b := 1, c := 1 }
     (partAt s 0).stopreq = true ∧ (partAt s 0).stopped = false ∧ (partAt s 0).switching = 0 ∧ (1, gang0) ∈ residents s 0 ∧ gang0.halted = 0
     ∧ gang0.sstep = false ∧ gangAt s s.ev.c = some gang0 ∧ gang0.active = true ∧ gang0.halted < 2 ∧ gangDrained s s.ev.c gang0 = true)
    ∧ (let s := jobS { partJ [] with stopped := true, stepping := some (1, 1) } { a := 0, b := 0, c := 1 }
       (partAt s s.ev.a).stopped = true ∧ s.ev.b ∈ partCores { s with tiles := [(0, { part := some 0 })] } 0 ∧ s.ev.c ≤ 10 ∧ (slotAt s 1).st = .ready
       ∧ (partAt s s.ev.a).stepping = some (0 * 16 + 1, 1) ∧ 1 ≠ 0 ∧ (slotAt s 1).hold = false ∧ s.accs = [] ∧ s.cmds = [] ∧ tget s.vq s.ev.b [] = [])
    ∧ (let s := mk 1 { st := .waiting }
       (slotAt s 1).st = .waiting ∧ stepAnswer s 1 = false)
    ∧ (let cfg := word (1 + 2 ^ 8)
       let s := jobS { partJ [] with trcfg := cfg } { a := 0, w := cfg }
       (partAt s 0).trcfg = s.ev.w ∧ wfield cfg 8 1 = 1 ∧ wfield cfg 0 5 ≠ 0 ∧ wfield 1#64 8 1 = 0 ∧ wfield (word (2 ^ 8)) 0 5 = 0)
    ∧ (let s := jobS { partJ [] with snapAt := some 50 } { a := 0, b := 1, w := 50 }
       (partAt s 0).snapAt = some s.ev.w.toNat ∧ (partAt s 0).snapAt ≠ some (51#64 : Word).toNat)
    ∧ (let s := ev { stA with pkgs := [(0, { powered := true })] } { a := 0, p := .words [] }
       s.ev.p = .words [] ∧ (pkgAt s s.ev.a).powered = true) := by
  and_intros <;> first | decide +kernel | rfl | exact ⟨rfl, rfl⟩ | exact ⟨rfl, _, rfl, rfl⟩ | exact ⟨_, rfl, rfl⟩ | exact ⟨_, rfl⟩ | exact fun h => absurd h (by decide)

/-- A package that the host has started, with a command at the door. -/
def hostS (k : Pkg) (a : EvArg) : State := ev { stA with pkgs := [(0, { k with present := true, powered := true })] } a
def spec0 : PartSpec :=
  { part := 1, tenant := 3, x0 := 0, y0 := 0, w := 1, h := 1, tmpl := [], tvec := 0x8000, allow := 0#64, dcbase := 0, dcnum := 0, queues := [] }

theorem witness_HostAndCrazonCommands :
    (let m : HostMapEnt := { index := 1, make := true, base := 0x1000, size := 0x100, va := 0x20000, tenant := 3, write := true }
     let s := hostS { hostmaps := [m] } { a := 0, b := 0x10FC, c := 4 }
     (pkgAt s 0).hostmaps.find? (fun m => decide (m.base ≤ s.ev.b) && decide (s.ev.b + 4 ≤ m.base + m.size)) = some m
     ∧ (pkgAt s 0).hostmaps.find? (fun m => decide (m.base ≤ 0x10FD) && decide (0x10FD + 4 ≤ m.base + m.size)) = none)
    ∧ (let k : Pkg := { negotiated := true, head := 0, door := 1, cmdq := [{}], qbase := 0x2000, cbase := 0x1000, qsz := 16 }
       let s : State := { hostS k {} with mem := mwrite [] (devKey 0 0x2000) [0x21, 0, 5, 0] }
       (pkgAt s 0).crzBusy = false ∧ (pkgAt s 0).powered = true ∧ (pkgAt s 0).head ≠ (pkgAt s 0).door ∧ (pkgAt s 0).head + 1 = (pkgAt s 0).door
       ∧ crzOpen (pkgAt s 0).qsz = true ∧ (mget s.mem (devKey 0 0x2000)).toNat = 0x21 ∧ crzCommand 0x21 = .log_
       ∧ bytesNat (mread s.mem (devKey 0 0x2002) 2) = 5
       ∧ (pkgAt s 0).negotiated = true ∧ (pkgAt (hostS {} {}) 0).negotiated = false ∧ crzOpen (pkgAt (hostS {} {}) 0).qsz = false ∧ State.memOk s)
    ∧ (wfield 0#64 0 1 = 0 ∧ wfield 1#64 0 1 = 1 ∧ (pkgAt (hostS { patched := true } {}) 0).patched = true ∧ (pkgAt (hostS {} {}) 0).patched = false)
    ∧ (let s := hostS {} { a := 0, p := .part spec0 }
       s.ev.p = .part spec0 ∧ (pkgAt (hostS { door := 1 } {}) 0).head + 1 = (pkgAt (hostS { door := 1 } {}) 0).door ∧ partStatus s 0 spec0 = 0 ∧ partStatus s 0 { spec0 with w := 65 } ≠ 0 ∧ 0 ∈ specTiles 0 spec0)
    ∧ (let s := { hostS {} { a := 0, c := 1, flag := true } with parts := [(1, { made := true })] }
       (partAt s (0 * 64 + s.ev.c)).made = true ∧ (partAt s 1).jobs = [] ∧ (partAt s 1).switching = 0 ∧ (partAt s 2).made = false ∧ s.ev.c < 64)
    ∧ (let l : List GrantEnt := [⟨0x10000, 2 ^ 56, true, true, true⟩]
       l.length ≤ 32 ∧ (l.all fun g => g.base % 65536 == 0 && g.limit % 65536 == 0 && decide (g.limit ≤ 2 ^ 56)) = true
       ∧ ([⟨1, 2 ^ 56, true, true, true⟩] : List GrantEnt).all (fun g => g.base % 65536 == 0) = false)
    ∧ (let l : List MapEnt := [{ page := 1, leaf := word (1 + 5 * 2 ^ 8), backing := none }]
       (l.any fun m => m.backing.isSome) = false ∧ (l.any fun m => decide (2 ^ 40 ≤ m.page) || inWindow (m.page * 65536)) = false
       ∧ (decide (2 ^ 40 ≤ 2 ^ 40) || inWindow (2 ^ 40 * 65536)) = true ∧ wfield (word 0) 4 1 = 0 ∧ wfield (word 16) 4 1 = 1)
    ∧ (127 < 128 ∧ 128 ≤ 128)
    ∧ (let s := pages (hostS {} { a := 0, c := 1 }) (1 + 5 * 2 ^ 8)
       let e := leafOf s 0 (1 * 65536)
       leafV e = true ∧ leafSt e = 0 ∧ s.ev.d = 0 ∧ backed s 0 1 = false ∧ backed (hostS { backed := [1] } {}) 0 1 = true ∧ pageDraining s 0 1 = false
       ∧ pageDraining { s with accs := [(9, { accDev with decided := true })] } 0 1 = true ∧ wfield e 4 1 = 0 ∧ wfield 16#64 4 1 = 1 ∧ leafSt 5#64 = 2
       ∧ ([(200, Instr.evictWritebackComplete, ({ a := 0, b := 1 } : EvArg))].any fun x => x.2.1 == .evictWritebackComplete && x.2.2.a == 0 && x.2.2.b == 1)
         = true)
    ∧ (let m : HostMapEnt := { index := 1, make := true, base := 0, size := 0x100, va := 2 ^ 56, tenant := 3, write := true }
       2 ^ 56 < m.va + m.size ∧ { m with va := 0x20000 }.va + 0x100 ≤ windowBase)
    ∧ (let s := { hostS {} { a := 0, c := 63, p := .words jDesc } with parts := [(63, { made := true })] }
       (partAt s (0 * 64 + s.ev.c)).made = true ∧ s.ev.c < 64 ∧ s.ev.p = .words jDesc ∧ 64 ≤ 64)
    ∧ (let s := ev { stA with accs := [(9, { acc0 with tenant := 3 })], parts := [(1, { made := true, tenant := 4 })] } { a := 0, b := 3 }
       (s.parts.any fun q => q.1 / 64 == s.ev.a && q.2.made && q.2.tenant == s.ev.b) = false
       ∧ (s.parts.any fun q => q.1 / 64 == s.ev.a && q.2.made && q.2.tenant == 4) = true
       ∧ (s.accs.any fun a => a.2.dpkg == s.ev.a && a.2.tenant == s.ev.b && !a.2.performed) = true
       ∧ (s.accs.any fun a => a.2.dpkg == s.ev.a && a.2.tenant == 4 && !a.2.performed) = false)
    ∧ (127 < 128 ∧ ownBits0 (word (1 + 2 ^ 16)) = word (1 + 2 ^ 16)) := by
  and_intros <;> first | decide +kernel | rfl | exact ⟨rfl, rfl⟩ | exact ⟨rfl, _, rfl, rfl⟩ | exact ⟨_, rfl, rfl⟩ | exact ⟨_, rfl⟩ | exact fun h => absurd h (by decide)

theorem witness_BringUpPowerAndTrust :
    (let s := ev { stA with pkgs := [(0, { present := true, measures := [(3, 1)] })] } { a := 0, b := 11, flag := true }
     (pkgAt s 0).present = true ∧ (pkgAt s 0).powered = false ∧ 10 < 11 ∧ 11 ≤ s.ev.b ∧ 3 ≤ 10 ∧ (pkgAt stA 1).present = false
     ∧ (pkgAt s s.ev.a).measures[0]? = some (3, 1) ∧ 0 ∈ dieTiles 0 0)
    ∧ (∀ n, Config.trustOk n = true ∨ Config.trustOk n = false)
    ∧ (let f : Fill := { frame := 5, issued := 0 }
       let s := ev { pages stA (1 + 2 * 2) with fills := [(1, f)] } { a := 0, b := 0 }
       (1, f) ∈ s.fills ∧ 1 / 2 ^ 40 = s.ev.a ∧ wfield (backingOf s 0 (leafOf s 0 (1 * 65536))).2 32 4 = s.ev.b) := by
  and_intros <;> first | decide +kernel | rfl | exact fun n => by cases Config.trustOk n <;> simp

end Sys2Proof.Tests
end

section
/-!
SUPPORT. The byte stores stay canonical (`Obligations.StepKeepsMemoryCanonical`). First what leaves both stores alone: a
function `f` of the state has a lemma `f_stores`. Then `Canonical`, the form itself, and what keeps it: a lemma `f_canonical` for
a function to a state or a result, `f_keeps` for a body of an instruction. Each cites those of the functions that its definition
calls, down to the few that write bytes, where a lemma of `Laws/Memory` (`mwrite_wf`, `splice_wf`, `filter_wf`) says it.
-/

namespace Sys2Proof.Machine

/-! ### What leaves the byte stores alone -/

/-- The two byte stores of a state: memory and storage. -/
def State.stores (s : State) : List Host.Cell × List Host.Cell := (s.mem, s.ssd)

@[simp] theorem mem_ssd_eq_stores (s : State) : (s.mem, s.ssd) = s.stores := by simp only [State.stores]

@[simp] theorem stores_ite (c : Prop) [Decidable c] (s t : State) :
    (if c then s else t).stores = if c then s.stores else t.stores := apply_ite State.stores c s t

/-- The stores of a state that is given by its fields: an update of any other field leaves them. -/
@[simp] theorem stores_mk {x0 x1 x2 x3 x4 x5 m x7 x8 x9 d x11 x12 x13 x14 x15 x16 x17 x18 x19 x20 x21 x22 x23 x24 x25 x26 x27 x28
      x29 x30 x31 x32 x33 x34 x35 x36 x37 x38 x39 x40 x41 x42 x43 x44 x45 x46 x47 x48 x49 x50 x51 x52 x53 x54 x55 x56 x57 x58
      x59 x60 x61 x62} :
    State.stores (State.mk x0 x1 x2 x3 x4 x5 m x7 x8 x9 d x11 x12 x13 x14 x15 x16 x17 x18 x19 x20 x21 x22 x23 x24 x25 x26 x27 x28
      x29 x30 x31 x32 x33 x34 x35 x36 x37 x38 x39 x40 x41 x42 x43 x44 x45 x46 x47 x48 x49 x50 x51 x52 x53 x54 x55 x56 x57 x58
      x59 x60 x61 x62) = (m, d) := by simp only [State.stores]

/-- A fold whose every step leaves the stores leaves them. -/
@[simp] theorem foldl_stores {α : Type} (f : State → α → State) (h : ∀ s a, (f s a).stores = s.stores) (l : List α) (s : State) :
    (l.foldl f s).stores = s.stores := by
  induction l generalizing s with
  | nil => rfl
  | cons a l ih => rw [List.foldl_cons, ih, h]

/-- The same where the fold carries a value before the state. -/
theorem foldl_snd_stores {α β : Type} (f : β × State → α → β × State) (h : ∀ q a, (f q a).2.stores = q.2.stores) (l : List α)
    (q : β × State) : (l.foldl f q).2.stores = q.2.stores := by
  induction l generalizing q with
  | nil => rfl
  | cons a l ih => rw [List.foldl_cons, ih, h]

/-- The same where the fold carries a value after the state. -/
theorem foldl_fst_stores {α β : Type} (f : State × β → α → State × β) (h : ∀ q a, (f q a).1.stores = q.1.stores) (l : List α)
    (q : State × β) : (l.foldl f q).1.stores = q.1.stores := by
  induction l generalizing q with
  | nil => rfl
  | cons a l ih => rw [List.foldl_cons, ih, h]

/-! #### The definitions of `Sys2Proof/Machine/Ops.lean` -/

@[simp] theorem putSlot_stores (sid : Nat) (x : Slot) (s : State) : (putSlot sid x s).stores = s.stores := by rfl

@[simp] theorem modSlot_stores (sid : Nat) (f : Slot → Slot) (s : State) : (modSlot sid f s).stores = s.stores := by rfl

@[simp] theorem putCore_stores (cid : Nat) (x : Core) (s : State) : (putCore cid x s).stores = s.stores := by rfl

@[simp] theorem modCore_stores (cid : Nat) (f : Core → Core) (s : State) : (modCore cid f s).stores = s.stores := by rfl

@[simp] theorem modTile_stores (tid : Nat) (f : Tile → Tile) (s : State) : (modTile tid f s).stores = s.stores := by rfl

@[simp] theorem modPart_stores (pk : Nat) (f : Part → Part) (s : State) : (modPart pk f s).stores = s.stores := by rfl

@[simp] theorem modPkg_stores (p : Nat) (f : Pkg → Pkg) (s : State) : (modPkg p f s).stores = s.stores := by rfl

@[simp] theorem modRx_stores (rk : Nat) (f : RxQ → RxQ) (s : State) : (modRx rk f s).stores = s.stores := by rfl

@[simp] theorem modBind_stores (e : Nat) (f : Binding → Binding) (s : State) : (modBind e f s).stores = s.stores := by rfl

@[simp] theorem putRt_stores (e : Nat) (x : Word × Word) (s : State) : (putRt e x s).stores = s.stores := by rfl

@[simp] theorem modAcc_stores (id : Nat) (f : Acc → Acc) (s : State) : (modAcc id f s).stores = s.stores := by
  unfold modAcc
  split <;> simp

@[simp] theorem modCmd_stores (id : Nat) (f : Cmd → Cmd) (s : State) : (modCmd id f s).stores = s.stores := by
  unfold modCmd
  split <;> simp

@[simp] theorem modGang_stores (gid : Nat) (f : Gang → Gang) (s : State) : (modGang gid f s).stores = s.stores := by
  unfold modGang
  split <;> simp

@[simp] theorem post_stores (due : Nat) (ev : Instr) (arg : EvArg) (s : State) :
    (post due ev arg s).stores = s.stores := by rfl

@[simp] theorem postPackets_stores (k : Packet) (t : Nat) (s : State) :
    (postPackets k t s).stores = s.stores := by simp [postPackets]

@[simp] theorem overLink_stores (p q vc bytes t : Nat) (ev : Instr) (arg : EvArg) (s : State) :
    (overLink p q vc bytes t ev arg s).stores = s.stores := by simp [overLink]

@[simp] theorem freeValue_stores (s : State) : (freeValue s).2.stores = s.stores := by rfl

@[simp] theorem dropPlaces_stores (gone : Nat → Bool) (s : State) : (dropPlaces gone s).stores = s.stores := by rfl

@[simp] theorem dropStrand_stores (sid : Nat) (s : State) : (dropStrand sid s).stores = s.stores := by rfl

@[simp] theorem holdReg_stores (key : Nat) (s : State) : (holdReg key s).stores = s.stores := by rfl

@[simp] theorem settleFile_stores (cid : Nat) (s : State) : (settleFile cid s).stores = s.stores := by simp [settleFile]

@[simp] theorem gSet_stores (sid r : Nat) (x : Word) (s : State) : (gSet sid r x s).stores = s.stores := by simp [gSet]

@[simp] theorem kSet_stores (sid r : Nat) (x : Word) (s : State) : (kSet sid r x s).stores = s.stores := by rfl

@[simp] theorem handTo_stores (sid : Nat) (t : Tab Nat) (s : State) : (handTo sid t s).stores = s.stores := by rfl

@[simp] theorem dropOlds_stores (p : Nat → Bool) (s : State) : (dropOlds p s).stores = s.stores := by rfl

@[simp] theorem modMtu_stores (k : Nat) (f : Mtu → Mtu) (s : State) : (modMtu k f s).stores = s.stores := by rfl

@[simp] theorem dropLeaf_stores (pkg page : Nat) (s : State) : (dropLeaf pkg page s).stores = s.stores := by simp [dropLeaf]

@[simp] theorem fireEvent_stores (pk code : Nat) (s : State) : (fireEvent pk code s).stores = s.stores := by simp [fireEvent]

@[simp] theorem fireEventPkg_stores (pkg code : Nat) (s : State) :
    (fireEventPkg pkg code s).stores = s.stores := by simp [fireEventPkg]

@[simp] theorem bumpLife_stores (pkg key : Nat) (s : State) : (bumpLife pkg key s).stores = s.stores := by rfl

@[simp] theorem applyKills_stores (sid : Nat) (s : State) : (applyKills sid s).stores = s.stores := by simp [applyKills]

@[simp] theorem deferKills_stores (sid : Nat) (s t : State) : (deferKills sid s t).stores = t.stores := by simp [deferKills]

@[simp] theorem resume_stores (sid k : Nat) (s : State) : (resume sid k s).stores = s.stores := by simp [resume]

@[simp] theorem unpark_stores (a : Acc) (s : State) : (unpark a s).stores = s.stores := by simp [unpark]

@[simp] theorem goesOn_stores (sid gen id k : Nat) (s : State) : (goesOn sid gen id k s).stores = s.stores := by
  unfold goesOn
  split
  · simp
  · split <;> simp

@[simp] theorem goesOnHeld_stores (sid k : Nat) (s : State) : (goesOnHeld sid k s).stores = s.stores := by simp [goesOnHeld]

@[simp] theorem dropWaits_stores (sid : Nat) (s : State) : (dropWaits sid s).stores = s.stores := by
  unfold dropWaits
  extract_lets _ _ _ t
  repeat' split
  all_goals simp [t]

@[simp] theorem abandonWait_stores (sid : Nat) (s : State) : (abandonWait sid s).stores = s.stores := by
  simp only [abandonWait, stores_ite]
  repeat' split
  all_goals simp

@[simp] theorem sendEscal_stores (cid slot cause : Nat) (s : State) :
    (sendEscal cid slot cause s).stores = s.stores := by rfl

@[simp] theorem latch_stores (cid ev : Nat) (s : State) : (latch cid ev s).stores = s.stores := by simp [latch]

@[simp] theorem haltCore_stores (cid : Nat) (s : State) : (haltCore cid s).stores = s.stores := by rfl

@[simp] theorem endWfe_stores (cid : Nat) (s : State) : (endWfe cid s).stores = s.stores := by
  simp only [endWfe]
  repeat' split
  all_goals simp

@[simp] theorem signal_stores (cid ev : Nat) (s : State) : (signal cid ev s).stores = s.stores := by simp [signal]

@[simp] theorem takeTrap_stores (cid : Nat) (s : State) : (takeTrap cid s).stores = s.stores := by
  simp only [takeTrap, stores_ite]
  repeat' split
  all_goals simp

@[simp] theorem dropForwards_stores (sid : Nat) (s : State) : (dropForwards sid s).stores = s.stores := by rfl

@[simp] theorem detach_stores (sid : Nat) (s : State) : (detach sid s).stores = s.stores := by
  unfold detach
  split <;> simp

@[simp] theorem groupTrap_stores (sid : Nat) (s : State) : (groupTrap sid s).stores = s.stores := by
  unfold groupTrap
  split <;> simp

@[simp] theorem recordTrap_stores (sid cause : Nat) (tv tv2 : Word) (epc : Nat) (s : State) :
    (recordTrap sid cause tv tv2 epc s).stores = s.stores := by simp [recordTrap]

@[simp] theorem returnFromTrap_stores (cid : Nat) (s : State) : (returnFromTrap cid s).stores = s.stores := by rfl

@[simp] theorem returnDone_stores (cid : Nat) (s : State) : (returnDone cid s).stores = s.stores := by simp [returnDone]

@[simp] theorem forward_stores (sid next : Nat) (s : State) : (forward sid next s).stores = s.stores := by
  unfold forward
  repeat' split
  all_goals simp

@[simp] theorem startFetch_stores (sid n r : Nat) (s : State) : (startFetch sid n r s).stores = s.stores := by rfl

@[simp] theorem startFetches_stores (s : State) : (startFetches s).stores = s.stores := by simp [startFetches]

@[simp] theorem waitStateOn_stores (held : Acc → Bool) (s : State) :
    (waitStateOn held s).stores = s.stores := by simp [waitStateOn]

@[simp] theorem waitState_stores (s : State) : (waitState s).stores = s.stores := by simp [waitState]

@[simp] theorem waitPresence_stores (r : Nat) (s : State) : (waitPresence r s).stores = s.stores := by simp [waitPresence]

@[simp] theorem waitFetch_stores (r : Nat) (s : State) : (waitFetch r s).stores = s.stores := by simp [waitFetch]

@[simp] theorem holdStrand_stores (sid : Nat) (st : SlotSt) (s : State) : (holdStrand sid st s).stores = s.stores := by rfl

@[simp] theorem holdFor'_stores (id sid : Nat) (st : SlotSt) (s : State) : (holdFor' id sid st s).stores = s.stores := by rfl

@[simp] theorem atCost_stores (k : Nat) (s : State) : (atCost k s).stores = s.stores := by rfl

@[simp] theorem transfer_stores (t k : Nat) (s : State) : (transfer t k s).stores = s.stores := by rfl

/-! #### The definitions of `Sys2Proof/Machine/Operands.lean` -/

@[simp] theorem modPair_stores (pk : Nat) (f : PairSet → PairSet) (s : State) : (modPair pk f s).stores = s.stores := by rfl

@[simp] theorem modExt_stores (k : Nat) (f : Ext → Ext) (s : State) : (modExt k f s).stores = s.stores := by rfl

@[simp] theorem addNews_stores (key n : Nat) (s : State) : (addNews key n s).stores = s.stores := by rfl

@[simp] theorem grantRead_stores (sid rk w : Nat) (sender payload : Word) (s : State) :
    (grantRead sid rk w sender payload s).stores = s.stores := by simp [grantRead]

@[simp] theorem contribute_stores (cid g : Nat) (x : Word) (w : CnWait) (s : State) :
    (contribute cid g x w s).stores = s.stores := by rfl

@[simp] theorem addBusy_stores (sid r : Nat) (s : State) : (addBusy sid r s).stores = s.stores := by rfl

@[simp] theorem delBusy_stores (sid r : Nat) (s : State) : (delBusy sid r s).stores = s.stores := by rfl

@[simp] theorem killReg_stores (n : Nat) (s : State) : (killReg n s).stores = s.stores := by simp [killReg]

@[simp] theorem markLast_stores (o : Ops) (s : State) : (markLast o s).stores = s.stores := by simp [markLast]

@[simp] theorem markLastB_stores (o : Ops) (s : State) : (markLastB o s).stores = s.stores := by simp [markLastB]

/-! #### The definitions of `Sys2Proof/Machine/Access.lean` -/

@[simp] theorem sendAcc_stores (a : Acc) (s : State) : (sendAcc a s).2.stores = s.stores := by simp [sendAcc]

@[simp] theorem stepCheck_stores (gid cid : Nat) (s : State) : (stepCheck gid cid s).stores = s.stores := by
  unfold stepCheck
  split <;> simp

@[simp] theorem xchgIssued_stores (sid : Nat) (s : State) : (xchgIssued sid s).stores = s.stores := by
  unfold xchgIssued
  split <;> simp

@[simp] theorem putDone_stores (sid : Nat) (gang : Option Nat) (t : Nat) (s : State) :
    (putDone sid gang t s).stores = s.stores := by
  unfold putDone
  split <;> simp

@[simp] theorem xchgDone_stores (sid : Nat) (gang : Option Nat) (s : State) :
    (xchgDone sid gang s).stores = s.stores := by simp [xchgDone]

@[simp] theorem logReject_stores (mk cid va tenant : Nat) (s : State) :
    (logReject mk cid va tenant s).stores = s.stores := by rfl

@[simp] theorem rejectAcc_stores (id mk : Nat) (a : Acc) (s : State) :
    (rejectAcc id mk a s).stores = s.stores := by simp [rejectAcc]

@[simp] theorem failAcc_stores (id reason : Nat) (a : Acc) (s : State) :
    (failAcc id reason a s).stores = s.stores := by simp [failAcc]

@[simp] theorem refuseAcc_stores (id tid : Nat) (a : Acc) (s : State) :
    (refuseAcc id tid a s).stores = s.stores := by simp [refuseAcc]

@[simp] theorem engineTook_stores (key : Nat) (s : State) : (engineTook key s).stores = s.stores := by rfl

@[simp] theorem tookTurn_stores (a : Acc) (s : State) : (tookTurn a s).stores = s.stores := by simp [tookTurn]

@[simp] theorem inflDown_stores (a : Acc) (s : State) : (inflDown a s).stores = s.stores := by simp [inflDown]

@[simp] theorem landFree_stores (sid rid : Nat) (x : Word) (s : State) :
    (landFree sid rid x s).stores = s.stores := by simp [landFree]

@[simp] theorem landNone_stores (a : Acc) (rid : Nat) (s : State) :
    (landNone a rid s).stores = s.stores := by simp [landNone]

@[simp] theorem setLane_stores (cid vreg lane : Nat) (x : Lane) (s : State) :
    (setLane cid vreg lane x s).stores = s.stores := by rfl

@[simp] theorem modVEnt_stores (cid vid : Nat) (f : VEnt → VEnt) (s : State) :
    (modVEnt cid vid f s).stores = s.stores := by rfl

@[simp] theorem setLanes_stores (cid vreg lane : Nat) (xs : List Lane) (s : State) :
    (setLanes cid vreg lane xs s).stores = s.stores := by
  induction xs generalizing lane s with
  | nil => rfl
  | cons x xs ih => simp [setLanes, ih]

@[simp] theorem vWrite_stores (cid vid quarter : Nat) (xs : List Lane) (s : State) :
    (vWrite cid vid quarter xs s).stores = s.stores := by
  simp only [vWrite]
  repeat' split
  all_goals simp

@[simp] theorem laneAnswer_stores (cid vid quarter : Nat) (load : Bool) (va : Nat) (bs : List Byte) (s : State) :
    (laneAnswer cid vid quarter load va bs s).stores = s.stores := by
  simp only [laneAnswer, stores_ite]
  repeat' split
  all_goals simp

@[simp] theorem rxSpill_stores (rk : Nat) (m : Msg) (s : State) : (rxSpill rk m s).stores = s.stores := by simp [rxSpill]

@[simp] theorem rxSignal_stores (rk : Nat) (s : State) : (rxSignal rk s).stores = s.stores := by simp [rxSignal]

@[simp] theorem rxAppend_stores (rk : Nat) (m : Msg) (s : State) : (rxAppend rk m s).stores = s.stores := by simp [rxAppend]

@[simp] theorem spillAll_stores (rk n : Nat) (l : List (Word × Word)) (s : State) :
    (spillAll rk n l s).stores = s.stores := by
  induction l generalizing n s with
  | nil => simp [spillAll]
  | cons p r ih => simp [spillAll, ih]

@[simp] theorem refillCheck_stores (rk : Nat) (s : State) : (refillCheck rk s).stores = s.stores := by simp [refillCheck]

@[simp] theorem unbindHandle_stores (sid hn : Nat) (s : State) : (unbindHandle sid hn s).stores = s.stores := by
  simp only [unbindHandle]
  repeat' split
  all_goals simp

@[simp] theorem bindHandle_stores (sid hn : Nat) (h : Handle) (s : State) : (bindHandle sid hn h s).stores = s.stores := by
  unfold bindHandle
  repeat' split
  all_goals simp

@[simp] theorem bindAnswer_stores (id hn : Nat) (a : Acc) (s : State) : (bindAnswer id hn a s).stores = s.stores := by
  simp only [bindAnswer]
  repeat' split
  all_goals simp

@[simp] theorem dropHop_stores (hid : Nat) (s : State) : (dropHop hid s).stores = s.stores := by
  unfold dropHop
  split <;> simp

@[simp] theorem parcelAgain_stores (a : Acc) (cmd status : Nat) (s : State) :
    (parcelAgain a cmd status s).stores = s.stores := by rfl

@[simp] theorem readError_stores (id : Nat) (s : State) : (readError id s).stores = s.stores := by
  unfold readError
  split <;> simp

@[simp] theorem ringLost_stores (a : Acc) (s : State) : (ringLost a s).stores = s.stores := by
  unfold ringLost
  split <;> simp

@[simp] theorem sendLoad_stores (o : Ops) (va n : Nat) (e : Ext1) (conv acq : Bool) (s : State) :
    (sendLoad o va n e conv acq s).stores = s.stores := by simp [sendLoad]

@[simp] theorem sendStore_stores (va : Nat) (bs : List Byte) (conv : Bool) (s : State) :
    (sendStore va bs conv s).stores = s.stores := by simp [sendStore]

/-! #### The definitions of `Sys2Proof/Machine/Fetch.lean` -/

@[simp] theorem parkFetch_stores (sid ipc va : Nat) (s : State) : (parkFetch sid ipc va s).stores = s.stores := by rfl

/-! #### The definitions of `Sys2Proof/Machine/Mtu.lean` -/

@[simp] theorem modPort_stores (k : Nat) (f : Port → Port) (s : State) : (modPort k f s).stores = s.stores := by rfl

@[simp] theorem modSqe_stores (k : Nat) (f : Sqe → Sqe) (s : State) : (modSqe k f s).stores = s.stores := by rfl

@[simp] theorem postSwap_stores (cid team t : Nat) (s : State) : (postSwap cid team t s).stores = s.stores := by rfl

@[simp] theorem rearmSwap_stores (cid : Nat) (s : State) : (rearmSwap cid s).stores = s.stores := by
  unfold rearmSwap
  refine foldl_stores _ (fun s team => ?_) _ _
  split <;> simp

@[simp] theorem parkAcc_stores (id mk : Nat) (a : Acc) (s : State) :
    (parkAcc id mk a s).stores = s.stores := by simp [parkAcc]

@[simp] theorem failParked_stores (id cause reason nvst : Nat) (s : State) :
    (failParked id cause reason nvst s).stores = s.stores := by simp [failParked]

@[simp] theorem answerFault_stores (p requester page id reason : Nat) (s : State) :
    (answerFault p requester page id reason s).stores = s.stores := by simp [answerFault]

@[simp] theorem sendFault_stores (pkg owner id : Nat) (a : Acc) (s : State) :
    (sendFault pkg owner id a s).stores = s.stores := by simp [sendFault]

@[simp] theorem submitFill_stores (pkg page k frame : Nat) (s : State) :
    (submitFill pkg page k frame s).stores = s.stores := by rfl

@[simp] theorem startFill_stores (pkg page : Nat) (s : State) : (startFill pkg page s).stores = s.stores := by
  simp only [startFill, stores_ite]
  repeat' split
  all_goals simp

@[simp] theorem returnFrame_stores (pkg k frame : Nat) (s : State) : (returnFrame pkg k frame s).stores = s.stores := by
  unfold returnFrame
  split <;> simp

@[simp] theorem postRestore_stores (cid team : Nat) (s : State) :
    (postRestore cid team s).stores = s.stores := by simp [postRestore]

@[simp] theorem wakeParked_stores (a : Acc) (s : State) : (wakeParked a s).stores = s.stores := by simp [wakeParked]

@[simp] theorem discardVec_stores (cid vid sid : Nat) (s : State) :
    (discardVec cid vid sid s).2.stores = s.stores := by simp [discardVec]

@[simp] theorem loadFrameRegs_stores (sid : Nat) (g : Word) (kk : BitVec 16) (s : State) :
    (loadFrameRegs sid g kk s).stores = s.stores := by simp [loadFrameRegs]

@[simp] theorem unback_stores (pkg page : Nat) (s : State) : (unback pkg page s).stores = s.stores := by rfl

@[simp] theorem writeCmd_stores (pkg page port nsid stage : Nat) (s : State) :
    (writeCmd pkg page port nsid stage s).stores = s.stores := by simp [writeCmd]

/-! #### The definitions of `Sys2Proof/Machine/Links.lean` -/

@[simp] theorem modFer_stores (fk : Nat) (f : Fer → Fer) (s : State) : (modFer fk f s).stores = s.stores := by rfl

@[simp] theorem sendFlits_stores (k vc n : Nat) (s : State) : (sendFlits k vc n s).stores = s.stores := by
  induction n generalizing s with
  | zero => rfl
  | succ n ih =>
    simp only [sendFlits]
    split <;> simp [ih]

@[simp] theorem lostCmd_stores (ev : Instr) (arg : EvArg) (s : State) :
    (lostCmd ev arg s).stores = s.stores := by simp [lostCmd]

@[simp] theorem lostPkt_stores (id : Nat) (s : State) : (lostPkt id s).stores = s.stores := by
  unfold lostPkt
  repeat' split
  all_goals simp

@[simp] theorem lostAll_stores (pkg dst : Nat) (s : State) : (lostAll pkg dst s).stores = s.stores := by simp [lostAll]

@[simp] theorem localDone_stores (k : Packet) (s : State) : (localDone k s).stores = s.stores := by
  unfold localDone
  repeat' split
  all_goals simp

@[simp] theorem launchPkt_stores (id : Nat) (s : State) : (launchPkt id s).stores = s.stores := by
  unfold launchPkt
  split
  · rfl
  · extract_lets again
    split
    · simp [again]
    · split
      · simp +zetaDelta
      · split
        · simp +zetaDelta
        · split <;> simp +zetaDelta

@[simp] theorem sendPkt_stores (fk dst bytes toGo : Nat) (ev : Instr) (arg : EvArg) (t : Nat) (s : State) :
    (sendPkt fk dst bytes toGo ev arg t s).stores = s.stores := by simp [sendPkt]

/-! #### The definitions of `Sys2Proof/Machine/Engine.lean` -/

@[simp] theorem copyStart_stores (tid ch : Nat) (s : State) : (copyStart tid ch s).stores = s.stores := by
  unfold copyStart
  split
  · simp
  · split <;> simp

@[simp] theorem endCmd_stores (id : Nat) (s : State) : (endCmd id s).stores = s.stores := by
  unfold endCmd
  split <;> simp

@[simp] theorem engPark_stores (id pkg va tenant : Nat) (s : State) :
    (engPark id pkg va tenant s).stores = s.stores := by simp [engPark]

@[simp] theorem addCmd_stores (c : Cmd) (s : State) : (addCmd c s).2.stores = s.stores := by rfl

@[simp] theorem pushCopy_stores (c : Cmd) (s : State) : (pushCopy c s).stores = s.stores := by simp [pushCopy]

@[simp] theorem readErrorCmd_stores (bad : Bool) (id : Nat) (s : State) :
    (readErrorCmd bad id s).stores = s.stores := by simp [readErrorCmd]

@[simp] theorem sendRequest_stores (ev : Instr) (id : Nat) (c : Cmd) (s : State) :
    (sendRequest ev id c s).stores = s.stores := by
  simp only [sendRequest, stores_ite]
  repeat' split
  all_goals simp

@[simp] theorem answerBack_stores (id : Nat) (c : Cmd) (s : State) :
    (answerBack id c s).stores = s.stores := by simp [answerBack]

@[simp] theorem engineAtom_stores (id : Nat) (c : Cmd) (n key : Nat) (s : State) :
    (engineAtom id c n key s).stores = s.stores := by rfl

@[simp] theorem storageSubmit_stores (id op pkg port : Nat) (s : State) :
    (storageSubmit id op pkg port s).stores = s.stores := by simp [storageSubmit]

/-! #### The definitions of `Sys2Proof/Machine/Queue.lean` -/

@[simp] theorem pushRaw_stores (sid hn : Nat) (x : Word) (s : State) : (pushRaw sid hn x s).stores = s.stores := by
  simp only [pushRaw]
  repeat' split
  all_goals simp

@[simp] theorem pushRaws_stores (sid hn n : Nat) (s : State) : (pushRaws sid hn n s).stores = s.stores := by
  induction n generalizing s with
  | zero => rfl
  | succ n ih => simp [pushRaws, ih]

@[simp] theorem sendMsg_stores (isQ : Bool) (t : Word) (pkg idx : Nat) (x : Word) (spill : Bool) (s : State) :
    (sendMsg isQ t pkg idx x spill s).2.stores = s.stores := by
  simp only [sendMsg]
  repeat' split
  all_goals simp

@[simp] theorem orphan_stores (m : Msg) (s : State) : (orphan m s).stores = s.stores := by simp [orphan]

@[simp] theorem ackMsg_stores (m : Msg) (s : State) : (ackMsg m s).stores = s.stores := by
  unfold ackMsg
  split <;> simp

@[simp] theorem refuseMsg_stores (m : Msg) (s : State) : (refuseMsg m s).stores = s.stores := by
  unfold refuseMsg
  split <;> simp

@[simp] theorem rxFill_stores (rk : Nat) (sender payload : Word) (s : State) :
    (rxFill rk sender payload s).stores = s.stores := by rfl

@[simp] theorem rxTake_stores (rk : Nat) (sender payload : Word) (s : State) :
    (rxTake rk sender payload s).stores = s.stores := by simp [rxTake]

@[simp] theorem answerQ_stores (m : Msg) (ans : Nat) (s : State) : (answerQ m ans s).stores = s.stores := by
  unfold answerQ
  split <;> simp

@[simp] theorem judge_stores (m : Msg) (s : State) : (judge m s).stores = s.stores := by simp [judge]

@[simp] theorem refillTake_stores (rk pos : Nat) (e : Word × Word) (s : State) :
    (refillTake rk pos e s).stores = s.stores := by simp [refillTake]

@[simp] theorem modTrc_stores (trow part : Nat) (s : State) : (modTrc trow part s).stores = s.stores := by rfl

@[simp] theorem sendNotice_stores (p q within edge : Nat) (ev : Instr) (arg : EvArg) {lost : State → State} {s : State}
    (h : (lost s).stores = s.stores) : (sendNotice p q within edge ev arg lost s).stores = s.stores := by simp [sendNotice, h]

/-! #### The definitions of `Sys2Proof/Machine/Sync.lean` -/

@[simp] theorem modBar_stores (k : Nat) (f : Bar → Bar) (s : State) : (modBar k f s).stores = s.stores := by rfl

@[simp] theorem barArrive_stores (gid b sid dst : Nat) (g : Gang) (s : State) :
    (barArrive gid b sid dst g s).stores = s.stores := by simp [barArrive]

@[simp] theorem rejoinAll_stores (gk tag : Nat) (g : VGroup) (s : State) :
    (rejoinAll gk tag g s).stores = s.stores := by simp [rejoinAll]

@[simp] theorem leaveGroup_stores (sid : Nat) (s : State) : (leaveGroup sid s).stores = s.stores := by
  unfold leaveGroup
  split <;> simp

/-! #### The definitions of `Sys2Proof/Machine/Guards.lean` -/

@[simp] theorem putGuard_stores (gid : Word) (g : Guard) (s : State) : (putGuard gid g s).stores = s.stores := by rfl

@[simp] theorem modGuard_stores (gid : Word) (f : Guard → Guard) (s : State) : (modGuard gid f s).stores = s.stores := by
  unfold modGuard
  split <;> simp

@[simp] theorem postLeg_stores (a b : End) (same cross more vc bytes : Nat) (ev : Instr) (arg : EvArg) (s : State) :
    (postLeg a b same cross more vc bytes ev arg s).stores = s.stores := by simp [postLeg]

@[simp] theorem guardFailed_stores (gid : Word) (s : State) : (guardFailed gid s).stores = s.stores := by rfl

@[simp] theorem sendGrant_stores (gid : Word) (g : Guard) (r : GReq) (status : Nat) (s : State) :
    (sendGrant gid g r status s).stores = s.stores := by simp [sendGrant]

@[simp] theorem grantG_stores (gid : Word) (status : Nat) (r : GReq) (g : Guard) (s : State) :
    (grantG gid status r g s).2.stores = s.stores := by simp [grantG]

@[simp] theorem serveG_stores (gid : Word) (status : Nat) (g : Guard) (s : State) :
    (serveG gid status g s).2.stores = s.stores := by
  unfold serveG
  split
  · rfl
  · split
    · simp
    · exact foldl_snd_stores _ (fun q r => grantG_stores gid status r q.1 q.2) _ _

@[simp] theorem dropBinding_stores (cid e : Nat) (s : State) :
    (dropBinding cid e s).stores = s.stores := by simp [dropBinding]

@[simp] theorem savedUnbind_stores (gid : Word) (cid k h : Nat) (s : State) :
    (savedUnbind gid cid k h s).stores = s.stores := by simp [savedUnbind]

@[simp] theorem lostRequest_stores (r : GReq) (s : State) : (lostRequest r s).stores = s.stores := by simp [lostRequest]

@[simp] theorem startRelease_stores (cid e sid : Nat) (s : State) :
    (startRelease cid e sid s).stores = s.stores := by simp [startRelease]

@[simp] theorem sendAsk_stores (op : GOp) (gid : Word) (rid : Nat) (w : List Word) (s : State) :
    (sendAsk op gid rid w s).stores = s.stores := by simp [sendAsk]

@[simp] theorem sendUnbind_stores (cid sid : Nat) (gid : Word) (s : State) :
    (sendUnbind cid sid gid s).stores = s.stores := by simp [sendUnbind]

@[simp] theorem teamRelease_stores (cid team sid : Nat) (s : State) : (teamRelease cid team sid s).1.stores = s.stores := by
  simp only [teamRelease]
  refine foldl_fst_stores _ (fun q p => ?_) _ _
  repeat' split
  all_goals simp

/-! #### The definitions of `Sys2Proof/Machine/Memory.lean` -/

@[simp] theorem fetchesNew_stores (sid scope : Nat) (s : State) : (fetchesNew sid scope s).stores = s.stores := by rfl

/-! #### The definitions of `Sys2Proof/Machine/Tasks.lean` -/

@[simp] theorem modQ_stores (qk : Nat) (f : TduQ → TduQ) (s : State) : (modQ qk f s).stores = s.stores := by rfl

@[simp] theorem refillQ_stores (qk : Nat) (s : State) : (refillQ qk s).stores = s.stores := by simp [refillQ]

@[simp] theorem handRecord_stores (qk : Nat) (t : Tab Nat) (s : State) :
    (handRecord qk t s).stores = s.stores := by simp [handRecord]

@[simp] theorem unholdQ_stores (qk : Nat) (s : State) : (unholdQ qk s).stores = s.stores := by
  simp only [unholdQ]
  repeat' split
  all_goals simp

@[simp] theorem submitJob_stores (pk : Nat) (d : List Word) (super host : Bool) (after : List Nat) (tag : Nat) (s : State) :
    (submitJob pk d super host after tag s).2.stores = s.stores := by
  simp only [submitJob]
  repeat' split
  all_goals simp

/-! #### The definitions of `Sys2Proof/Machine/Blocks.lean` -/

@[simp] theorem readBack_stores (sid dst lat : Nat) (x : Word) (s : State) :
    (readBack sid dst lat x s).stores = s.stores := by rfl

@[simp] theorem blockPut_stores (cid : Nat) (a : BAddr) (x : Word) (s : State) : (blockPut cid a x s).stores = s.stores := by
  unfold blockPut
  split <;> simp

/-! #### The definitions of `Sys2Proof/Machine/Matrix.lean` -/

@[simp] theorem mNotice_stores (id st late : Nat) (c : Cmd) (s : State) :
    (mNotice id st late c s).stores = s.stores := by simp [mNotice]

@[simp] theorem parityFails_stores (tid bad : Nat) (s : State) :
    (parityFails tid bad s).stores = s.stores := by simp [parityFails]

@[simp] theorem accPut_stores (tid row col : Nat) (x : Lane) (s : State) :
    (accPut tid row col x s).stores = s.stores := by rfl

@[simp] theorem runRow_stores (fmt tid row m : Nat) (acc : Bool) (a : List Num.KBlk) (bs : List (List Num.KBlk)) (n : Nat)
    (s : State) : (runRow fmt tid row m acc a bs n s).stores = s.stores := by
  induction bs generalizing n s with
  | nil => rfl
  | cons b bs ih => simp [runRow, ih]

@[simp] theorem mApply_stores (t : Tile) (c : Cmd) (s : State) : (mApply t c s).stores = s.stores := by
  unfold mApply
  split <;> simp

@[simp] theorem eConvert_stores (id : Nat) (c : Cmd) (s : State) : (eConvert id c s).stores = s.stores := by simp [eConvert]

@[simp] theorem eNext_stores (tid : Nat) (s : State) : (eNext tid s).stores = s.stores := by
  unfold eNext
  split <;> simp

/-! #### The definitions of `Sys2Proof/Machine/Collective.lean` -/

@[simp] theorem cnErrUp_stores (tid : Nat) (s : State) : (cnErrUp tid s).stores = s.stores := by rfl

@[simp] theorem cnTry_stores (nk seq : Nat) (s : State) : (cnTry nk seq s).stores = s.stores := by
  simp only [cnTry]
  repeat' split
  all_goals simp

@[simp] theorem putFer_stores (k : Nat) (x : FerSlot) (s : State) : (putFer k x s).stores = s.stores := by rfl

@[simp] theorem ferAnswer_stores (p : FerPart) (val : Word) (st late : Nat) (s : State) :
    (ferAnswer p val st late s).stores = s.stores := by
  unfold ferAnswer
  split <;> simp

@[simp] theorem ferFan_stores (op st : Nat) (base : Word) (l : List FerPart) (s : State) :
    (ferFan op st base l s).2.stores = s.stores := by
  induction l generalizing base s with
  | nil => rfl
  | cons p r ih => simp [ferFan, ih]

@[simp] theorem ferPass_stores (k : Nat) (x : FerSlot) (op : Nat) (base : Word) (st : Nat) (s : State) :
    (ferPass k x op base st s).stores = s.stores := by simp [ferPass]

@[simp] theorem ferClose_stores (fk k : Nat) (timeout : Bool) (s : State) :
    (ferClose fk k timeout s).stores = s.stores := by simp [ferClose]

@[simp] theorem ferOpen_stores (fk k : Nat) (p : FerPart) (s : State) :
    (ferOpen fk k p s).stores = s.stores := by simp [ferOpen]

@[simp] theorem ferTake_stores (fk k : Nat) (p : FerPart) (s : State) :
    (ferTake fk k p s).stores = s.stores := by simp [ferTake]

@[simp] theorem modFerUp_stores (uk : Nat) (f : FerSlot → FerSlot) (s : State) : (modFerUp uk f s).stores = s.stores := by
  unfold modFerUp
  split <;> simp

@[simp] theorem ferIn_stores (fk : Nat) (again : Bool) (p : FerPart) (s : State) :
    (ferIn fk again p s).stores = s.stores := by simp [ferIn]

@[simp] theorem ferOrphans_stores (pkg par : Nat) (s : State) :
    (ferOrphans pkg par s).stores = s.stores := by simp [ferOrphans]

@[simp] theorem noticeUp_stores (fk g : Nat) (ev : Instr) (s : State) :
    (noticeUp fk g ev s).stores = s.stores := by simp [noticeUp]

@[simp] theorem xferSend_stores (id own : Nat) (l : List Xfer) (sent : Nat) (s : State) :
    (xferSend id own l sent s).stores = s.stores := by
  induction l generalizing sent s with
  | nil => rfl
  | cons x r ih => simp [xferSend, ih]

@[simp] theorem rejectParcel_stores (id va at' : Nat) (s : State) : (rejectParcel id va at' s).stores = s.stores := by
  unfold rejectParcel
  split <;> simp

@[simp] theorem parcelPark_stores (ev : EvArg) (q a ten : Nat) (bs : List Byte) (s : State) :
    (parcelPark ev q a ten bs s).stores = s.stores := by rfl

@[simp] theorem addStatus_stores (id st : Nat) (s : State) : (addStatus id st s).stores = s.stores := by simp [addStatus]

@[simp] theorem failParcel_stores (own q va st : Nat) (s : State) : (failParcel own q va st s).stores = s.stores := by
  simp only [failParcel]
  repeat' split
  all_goals simp

/-! #### The definitions of `Sys2Proof/Machine/Strands.lean` -/

@[simp] theorem clearRegs_stores (sid : Nat) (args : List Word) (s : State) :
    (clearRegs sid args s).stores = s.stores := by rfl

@[simp] theorem holdArgs_stores (sid : Nat) (s : State) : (holdArgs sid s).stores = s.stores := by simp [holdArgs]

@[simp] theorem initStrand_stores (sid team pc : Nat) (xseq : Bool) (args : List Word) (at' : Nat) (part : Bool)
    (after : List Nat) (s : State) :
    (initStrand sid team pc xseq args at' part after s).stores = s.stores := by simp [initStrand]

@[simp] theorem linkPair_stores (sa sx set : Nat) (s : State) : (linkPair sa sx set s).stores = s.stores := by rfl

@[simp] theorem freeStrand_stores (sid : Nat) (s : State) : (freeStrand sid s).stores = s.stores := by
  simp only [freeStrand]
  repeat' split
  all_goals simp

@[simp] theorem startTeam_stores (pair : Bool) (cid : Nat) (r : List Word) (at' : Nat) (after : List Nat) (s : State) :
    (startTeam pair cid r at' after s).2.stores = s.stores := by
  simp only [startTeam]
  repeat' split
  all_goals simp

@[simp] theorem liveOnly_stores (sid : Nat) (m : Word) (s : State) : (liveOnly sid m s).stores = s.stores := by rfl

/-! #### The definitions of `Sys2Proof/Machine/System.lean` -/

@[simp] theorem sysPut_stores (cid n : Nat) (v : Word) (s : State) : (sysPut cid n v s).stores = s.stores := by
  simp only [sysPut, stores_ite]
  repeat' split
  all_goals simp

@[simp] theorem modPartCores_stores (pk : Nat) (f : Core → Core) (s : State) :
    (modPartCores pk f s).stores = s.stores := by simp [modPartCores]

@[simp] theorem goOn_stores (sid pc k : Nat) (s : State) : (goOn sid pc k s).stores = s.stores := by rfl

@[simp] theorem tretDone_stores (cid s0 act : Nat) (s : State) :
    (tretDone cid s0 act s).stores = s.stores := by simp [tretDone]

@[simp] theorem killMark_stores (sid : Nat) (s : State) : (killMark sid s).stores = s.stores := by simp [killMark]

@[simp] theorem killStep_stores (sid : Nat) (s : State) : (killStep sid s).1.stores = s.stores := by
  simp only [killStep]
  repeat' split
  all_goals simp

@[simp] theorem killing_stores (sid : Nat) (s : State) : (killing sid s).1.stores = s.stores := by
  simp only [killing]
  repeat' split
  all_goals simp

@[simp] theorem loadFrame_stores (sid : Nat) (s : State) : (loadFrame sid s).stores = s.stores := by simp [loadFrame]

@[simp] theorem trcNotify_stores (trow part : Nat) (s : State) :
    (trcNotify trow part s).stores = s.stores := by simp [trcNotify]

@[simp] theorem dropMates_stores (e : Escal) (s : State) : (dropMates e s).stores = s.stores := by rfl

/-! #### The definitions of `Sys2Proof/Machine/Gangs.lean` -/

@[simp] theorem modJob_stores (pk num : Nat) (f : Job → Job) (s : State) : (modJob pk num f s).stores = s.stores := by rfl

@[simp] theorem abandon_stores (sid : Nat) (s : State) : (abandon sid s).stores = s.stores := by simp [abandon]

@[simp] theorem fallOut_stores (gid : Nat) (m : Msg) (t : Nat) (s : State) :
    (fallOut gid m t s).stores = s.stores := by simp [fallOut]

@[simp] theorem fallOne_stores (gids : List Nat) (e : Nat × Instr × EvArg) (s : State) :
    (fallOne gids e s).stores = s.stores := by
  unfold fallOne
  repeat' split
  all_goals simp

@[simp] theorem epiClock_stores (gs : List Gang) (s : State) : (epiClock gs s).stores = s.stores := by simp [epiClock]

@[simp] theorem epiClockOff_stores (gs : List Gang) (s : State) : (epiClockOff gs s).stores = s.stores := by rfl

@[simp] theorem emptyCores_stores (g : Gang) (s : State) : (emptyCores g s).stores = s.stores := by rfl

@[simp] theorem takeTraps_stores (cids : List Nat) (s : State) : (takeTraps cids s).stores = s.stores := by simp [takeTraps]

@[simp] theorem gangRuns_stores (gid : Nat) (s : State) : (gangRuns gid s).stores = s.stores := by
  unfold gangRuns
  split <;> simp

@[simp] theorem reinject_stores (gid : Nat) (s : State) : (reinject gid s).stores = s.stores := by
  unfold reinject
  split <;> simp

@[simp] theorem injectAll_stores (l : List (Nat × Msg)) (seen : List Nat) (s : State) :
    (injectAll l seen s).2.stores = s.stores := by
  induction l generalizing seen s with
  | nil => rfl
  | cons f l ih => simp [injectAll, ih]

@[simp] theorem loadGood_stores (g : Gang) (s : State) : (loadGood g s).stores = s.stores := by rfl

@[simp] theorem resumeEpi_stores (tid : Nat) (s : State) : (resumeEpi tid s).stores = s.stores := by
  unfold resumeEpi
  split
  · simp
  · split <;> simp

@[simp] theorem resumeCopies_stores (tid : Nat) (s : State) : (resumeCopies tid s).stores = s.stores := by
  unfold resumeCopies
  refine foldl_stores _ (fun s ch => ?_) _ _
  split <;> simp

@[simp] theorem endJob_stores (pk num status : Nat) (s : State) : (endJob pk num status s).stores = s.stores := by
  unfold endJob
  split <;> simp

@[simp] theorem killAll_stores (l : List Nat) (s : State) : (killAll l s).1.stores = s.stores := by
  induction l generalizing s with
  | nil => rfl
  | cons sid l ih =>
    simp only [killAll]
    split <;> simp [ih]

@[simp] theorem savedSend_stores (gid : Nat) (v : Saved) (k : Nat) (b : Binding) (g : Guard) (s : State) :
    (savedSend gid v k b g s).stores = s.stores := by simp [savedSend]

@[simp] theorem savedRelease_stores (gid : Nat) (s : State) : (savedRelease gid s).1.stores = s.stores := by
  unfold savedRelease
  split
  · rfl
  · refine foldl_fst_stores _ (fun q p => ?_) _ _
    dsimp only
    repeat' split
    all_goals simp

@[simp] theorem dropFallout_stores (gid : Nat) (s : State) : (dropFallout gid s).stores = s.stores := by simp [dropFallout]

/-! #### The definitions of `Sys2Proof/Machine/Debug.lean` -/

@[simp] theorem noticeAll_stores (pkg : Nat) (ev : Instr) (s : State) :
    (noticeAll pkg ev s).stores = s.stores := by simp [noticeAll]

@[simp] theorem fabricFlag_stores (pkg : Nat) (s : State) : (fabricFlag pkg s).stores = s.stores := by simp [fabricFlag]

/-! #### The definitions of `Sys2Proof/Machine/Fabric.lean` -/

@[simp] theorem eventLost_stores (k part : Nat) (s : State) : (eventLost k part s).stores = s.stores := by rfl

@[simp] theorem portChanged_stores (k : Nat) (s : State) : (portChanged k s).stores = s.stores := by simp [portChanged]

@[simp] theorem portDown_stores (k : Nat) (s : State) : (portDown k s).stores = s.stores := by simp [portDown]

@[simp] theorem portWatch_stores (k : Nat) (s : State) : (portWatch k s).stores = s.stores := by rfl

@[simp] theorem replayFrom_stores (k seq : Nat) (s : State) : (replayFrom k seq s).stores = s.stores := by
  simp only [replayFrom]
  repeat' split
  all_goals simp

@[simp] theorem unreach_stores (pkg dst : Nat) (s : State) : (unreach pkg dst s).stores = s.stores := by simp [unreach]

/-! #### The definitions of `Sys2Proof/Machine/Crazon.lean` -/

@[simp] theorem crzNext_stores (pkg : Nat) (s : State) : (crzNext pkg s).stores = s.stores := by simp [crzNext]

@[simp] theorem toHost_stores (pkg tag : Nat) (bs : List Byte) (s : State) :
    (toHost pkg tag bs s).stores = s.stores := by rfl

@[simp] theorem releasePart_stores (pk : Nat) (s : State) : (releasePart pk s).stores = s.stores := by simp [releasePart]

/-! #### The definitions of `Sys2Proof/Machine/Heap.lean` -/

@[simp] theorem modHop_stores (hid : Nat) (f : HeapOp → HeapOp) (s : State) : (modHop hid f s).stores = s.stores := by
  unfold modHop
  split <;> simp

@[simp] theorem entryRead_stores (hid va : Nat) (inc : Bool) (s : State) : (entryRead hid va inc s).stores = s.stores := by
  unfold entryRead
  split <;> simp

@[simp] theorem launch_stores (hid va : Nat) (f : Acc → Acc) (s : State) : (launch hid va f s).stores = s.stores := by
  unfold launch
  split <;> simp

@[simp] theorem heal_stores (hid field : Nat) (v r : Word) (s : State) : (heal hid field v r s).stores = s.stores := by
  unfold heal
  split <;> simp

@[simp] theorem lateTrap_stores (hid cause reason : Nat) (tv : Word) (s : State) :
    (lateTrap hid cause reason tv s).stores = s.stores := by rfl

@[simp] theorem slowPath_stores (hid pva : Nat) (k : Word) (s : State) :
    (slowPath hid pva k s).stores = s.stores := by simp [slowPath]

@[simp] theorem endHop_stores (hid : Nat) (s : State) : (endHop hid s).stores = s.stores := by rfl

@[simp] theorem waitDone_stores (hid : Nat) (s : State) : (waitDone hid s).stores = s.stores := by
  unfold waitDone
  split <;> simp

@[simp] theorem wakeEntry_stores (pkg va : Nat) (s : State) : (wakeEntry pkg va s).stores = s.stores := by simp [wakeEntry]

@[simp] theorem heapAtomic_stores (kind : AccKind) (op : Nat) (cmp data : List Byte) (again : Instr) (s : State) :
    (heapAtomic kind op cmp data again s).stores = s.stores := by
  simp only [heapAtomic]
  repeat' split
  all_goals simp

/-! #### The definitions of `Sys2Proof/Machine/Relocation.lean` -/

@[simp] theorem rTake_stores (pkg : Nat) (l : List (Nat × Nat)) (s : State) : (rTake pkg l s).stores = s.stores := by
  induction l generalizing s with
  | nil => rfl
  | cons p l ih =>
    simp only [rTake]
    repeat' split
    all_goals simp [ih]

@[simp] theorem rNext_stores (pkg : Nat) (s : State) : (rNext pkg s).stores = s.stores := by simp [rNext]

/-! #### The definitions of `Sys2Proof/Machine/Trust.lean` -/

@[simp] theorem bringNext_stores (pkg k : Nat) (s : State) : (bringNext pkg k s).stores = s.stores := by rfl

@[simp] theorem bringUp_stores (pkg : Nat) (s : State) : (bringUp pkg s).stores = s.stores := by simp [bringUp]

@[simp] theorem tellFatal_stores (pkg : Nat) (s : State) : (tellFatal pkg s).stores = s.stores := by simp [tellFatal]

/-! #### The definitions of `Sys2Proof/Machine/Vector.lean` -/

@[simp] theorem vecSend_stores (cid : Nat) (e : VEnt) (lo hi : Nat) (s : State) :
    (vecSend cid e lo hi s).stores = s.stores := by simp [vecSend]

@[simp] theorem vecIssue_stores (cid : Nat) (e : VEnt) (qs : List Nat) (s : State) :
    (vecIssue cid e qs s).stores = s.stores := by simp [vecIssue]

@[simp] theorem vshareHead_stores (cid : Nat) (s : State) : (vshareHead cid s).stores = s.stores := by
  unfold vshareHead
  split <;> simp

@[simp] theorem vecArm_stores (tid : Nat) (s : State) : (vecArm tid s).stores = s.stores := by simp [vecArm]

/-! #### The definitions of `Sys2Proof/Machine/Sched.lean` -/

@[simp] theorem redoIssue_stores (sid : Nat) (r : Redo) (s : State) :
    (redoIssue sid r s).stores = s.stores := by simp [redoIssue]

@[simp] theorem redoGone_stores (sid : Nat) (s : State) : (redoGone sid s).stores = s.stores := by
  unfold redoGone
  split <;> simp

@[simp] theorem handOver_stores (sid : Nat) (s : State) : (handOver sid s).stores = s.stores := by simp [handOver]

@[simp] theorem stepTaken_stores (sid : Nat) (s : State) : (stepTaken sid s).stores = s.stores := by simp [stepTaken]

/-! ### The canonical form of the stores -/

/-- Both byte stores have the canonical form. -/
def Canonical (p : List Host.Cell × List Host.Cell) : Prop := Memory.wf p.1 = true ∧ Memory.wf p.2 = true

theorem canonical_stores_iff (s : State) : Canonical s.stores ↔ s.memOk := Iff.rfl

@[simp] theorem canonical_mk (m d : List Host.Cell) : Canonical (m, d) ↔ Memory.wf m = true ∧ Memory.wf d = true := Iff.rfl

@[simp] theorem canonical_ite (c : Prop) [Decidable c] (p q : List Host.Cell × List Host.Cell) :
    Canonical (if c then p else q) ↔ if c then Canonical p else Canonical q := by split <;> rfl

@[simp] theorem mem_wf_of_canonical {s : State} (h : Canonical s.stores) : Memory.wf s.mem = true := h.1

@[simp] theorem ssd_wf_of_canonical {s : State} (h : Canonical s.stores) : Memory.wf s.ssd = true := h.2

/-- A fold whose every step keeps canonical stores keeps them. -/
theorem foldl_canonical {α : Type} {f : State → α → State} (hf : ∀ s a, Canonical s.stores → Canonical (f s a).stores)
    (l : List α) {s : State} (h : Canonical s.stores) : Canonical (l.foldl f s).stores := by
  induction l generalizing s with
  | nil => exact h
  | cons a l ih => exact ih (hf s a h)

/-- A step that goes on leaves canonical stores. -/
def CanonicalAfter : Res → Prop
  | .next t => Canonical t.stores
  | _ => True

@[simp] theorem canonicalAfter_next (t : State) : CanonicalAfter (.next t) ↔ Canonical t.stores := Iff.rfl
@[simp] theorem canonicalAfter_fault (f : Fault) : CanonicalAfter (.fault f) := trivial
@[simp] theorem canonicalAfter_refused (r : Refusal) : CanonicalAfter (.refused r) := trivial
@[simp] theorem canonicalAfter_ite (c : Prop) [Decidable c] (a b : Res) :
    CanonicalAfter (if c then a else b) ↔ if c then CanonicalAfter a else CanonicalAfter b := by split <;> rfl

theorem canonicalAfter_if {c : Prop} [Decidable c] {a b : Res} (ha : CanonicalAfter a) (hb : CanonicalAfter b) :
    CanonicalAfter (if c then a else b) := by
  split <;> assumption

/-! ### Bodies of instructions -/

/-- A body's stop carries no state, or one with canonical stores. -/
def Stop.Canonical : Stop → Prop
  | .keep t => Machine.Canonical t.stores
  | .again t => Machine.Canonical t.stores
  | _ => True

/-- What a body answers has canonical stores wherever it has a state. -/
def Kept {α : Type} : Except Stop (α × State) → Prop
  | .ok p => Canonical p.2.stores
  | .error e => e.Canonical

/-- A body that starts with canonical stores ends with canonical stores. -/
def Keeps {α : Type} (m : M α) : Prop := ∀ s, Canonical s.stores → Kept (m s)

@[simp] theorem kept_ok {α : Type} (p : α × State) : Kept (.ok p) ↔ Canonical p.2.stores := Iff.rfl
@[simp] theorem kept_error {α : Type} (e : Stop) : Kept (.error e : Except Stop (α × State)) ↔ e.Canonical := Iff.rfl
@[simp] theorem canonical_keep (t : State) : (Stop.keep t).Canonical ↔ Canonical t.stores := Iff.rfl
@[simp] theorem canonical_again (t : State) : (Stop.again t).Canonical ↔ Canonical t.stores := Iff.rfl
@[simp] theorem canonical_trap (c : Nat) (tv tv2 : Word) : (Stop.trap c tv tv2).Canonical := trivial
@[simp] theorem canonical_waitOn (f : Acc → Bool) : (Stop.waitOn f).Canonical := trivial
@[simp] theorem canonical_waitReg (r : Nat) : (Stop.waitReg r).Canonical := trivial
@[simp] theorem canonical_fetchReg (r : Nat) : (Stop.fetchReg r).Canonical := trivial

@[simp] theorem keeps_ite {α : Type} (c : Prop) [Decidable c] (x y : M α) :
    Keeps (if c then x else y) ↔ if c then Keeps x else Keeps y := by
  split <;> rfl

@[simp] theorem keeps_pure {α : Type} (a : α) : Keeps (pure a : M α) := fun _ h => h

theorem keeps_if {α : Type} {c : Prop} [Decidable c] {x y : M α} (hx : Keeps x) (hy : Keeps y) : Keeps (if c then x else y) := by
  split <;> assumption

theorem keeps_bind {α β : Type} {x : M α} {f : α → M β} (hx : Keeps x) (hf : ∀ a, Keeps (f a)) : Keeps (x >>= f) := by
  intro s h
  rw [bind_apply]
  have hk := hx s h
  cases hs : x s with
  | error e => rw [hs] at hk; exact hk
  | ok p => rw [hs] at hk; exact hf p.1 p.2 hk

/-- A body that asks for the state goes on with one whose stores are canonical. -/
theorem keeps_ask_bind {β : Type} {f : State → M β} (hf : ∀ s, Canonical s.stores → Keeps (f s)) : Keeps (askM id >>= f) :=
  fun s h => hf s h s h

@[simp] theorem keeps_updM (f : State → State) : Keeps (updM f) ↔ ∀ s, Canonical s.stores → Canonical (f s).stores := Iff.rfl

@[simp] theorem keeps_keepM {α : Type} (f : State → State) :
    Keeps (keepM f : M α) ↔ ∀ s, Canonical s.stores → Canonical (f s).stores := Iff.rfl

@[simp] theorem keeps_askM {α : Type} (f : State → α) : Keeps (askM f) := fun _ h => h
@[simp] theorem keeps_trapM {α : Type} (c : Nat) (tv tv2 : Word) : Keeps (trapM c tv tv2 : M α) := fun _ _ => trivial
@[simp] theorem keeps_waitM {α : Type} : Keeps (waitM : M α) := fun _ _ => trivial
@[simp] theorem keeps_illegal {α : Type} (n : Nat) : Keeps (illegal n : M α) := fun _ _ => trivial
@[simp] theorem keeps_stopM {α : Type} (e : Stop) :
    Keeps (stopM e : M α) ↔ ∀ s : State, Canonical s.stores → e.Canonical := Iff.rfl

theorem whenHere_canonical (ev : Instr) {act : State → State} (hact : ∀ s, Canonical s.stores → Canonical (act s).stores)
    {s : State} (h : Canonical s.stores) : Canonical (whenHere ev act s).stores := by
  unfold whenHere
  split
  · simp [h]
  · exact hact s h

theorem withPages_canonical (id : Nat) (c : Cmd) (spans : List (Nat × Nat)) (ev : Instr) (arg : EvArg) {go s : State}
    (hgo : Canonical go.stores) (h : Canonical s.stores) : Canonical (withPages id c spans ev arg go s).stores := by
  unfold withPages
  split
  · simp [h]
  · exact hgo

/-- A fold that carries a value beside the state keeps the form where every step does. -/
theorem foldl_snd_canonical {α β : Type} {f : β × State → α → β × State}
    (hf : ∀ q a, Canonical q.2.stores → Canonical (f q a).2.stores) (l : List α) {q : β × State} (h : Canonical q.2.stores) :
    Canonical (l.foldl f q).2.stores := by
  induction l generalizing q with
  | nil => exact h
  | cons a l ih => exact ih (hf q a h)

theorem foldl_mwrite_wf {α : Type} (key : α → Nat) (bytes : α → List Byte) (l : List α) {m : List Host.Cell}
    (h : Memory.wf m = true) : Memory.wf (l.foldl (fun m p => mwrite m (key p) (bytes p)) m) = true := by
  induction l generalizing m with
  | nil => exact h
  | cons p l ih => exact ih (mwrite_wf h _ _)

theorem putLanes_wf (key : Nat → Nat) (l : Tab Lane) {m : List Host.Cell} (h : Memory.wf m = true) :
    Memory.wf (putLanes key l m) = true := by
  unfold putLanes
  exact foldl_mwrite_wf _ _ l h

/-! ### What keeps the form

The body of an instruction is peeled bind by bind and branch by branch; what is left are the steps and updates that it is made
of, each with its lemma. -/

/-! #### The definitions of `Sys2Proof/Machine/Ops.lean` -/

@[simp] theorem memWrite_canonical (key : Nat) (bs : List Byte) (s : State) (w : (Nat × Nat)) (h : Canonical s.stores) :
    Canonical (memWrite key bs s w).stores := by
  rw [State.stores, memWrite_mem, memWrite_ssd]
  exact ⟨mwrite_wf h.1 key bs, h.2⟩

@[simp] theorem memSet64_canonical (key : Nat) (w : Word) (s : State) (h : Canonical s.stores) :
    Canonical (memSet64 key w s).stores := by simp [memSet64, h]

@[simp] theorem memWriteCells_canonical (w : Nat × Nat) (l : List Host.Cell) {s : State} (h : Canonical s.stores) :
    Canonical (memWriteCells w l s).stores := by
  induction l generalizing s with
  | nil => exact h
  | cons c r ih => exact ih (memWrite_canonical c.1 [c.2] s w h)

@[simp] theorem setLeaf_canonical (pkg va : Nat) (w : Word) (s : State) (h : Canonical s.stores) :
    Canonical (setLeaf pkg va w s).stores := by
  unfold setLeaf
  split <;> simp [h, mwrite_wf]

@[simp] theorem changeLeaf_canonical (pkg page : Nat) (e : Word) (s : State) (h : Canonical s.stores) :
    Canonical (changeLeaf pkg page e s).stores := by simp [changeLeaf, h]

@[simp] theorem markD_canonical (pkg va : Nat) (s : State) (h : Canonical s.stores) :
    Canonical (markD pkg va s).stores := by simp [markD, h]

@[simp] theorem engWrite_canonical (own va tenant : Nat) (bs : List Byte) (s : State) (w : (Nat × Nat))
    (h : Canonical s.stores) :
    Canonical (engWrite own va tenant bs s w).stores := by
  unfold engWrite
  refine foldl_canonical (fun s a h => ?_) _ h
  split <;> simp [h]

@[simp] theorem markDSpan_canonical (own va n : Nat) (s : State) (h : Canonical s.stores) :
    Canonical (markDSpan own va n s).stores := by
  unfold markDSpan
  exact foldl_canonical (fun s a h => by simp [h]) _ h

@[simp] theorem traceBytes_canonical (tid va tenant : Nat) (bs : List Byte) (s : State) (h : Canonical s.stores) :
    Canonical (traceBytes tid va tenant bs s).stores := by simp [traceBytes, h]

@[simp] theorem saveFrame_canonical (sid pc : Nat) (s : State) (h : Canonical s.stores) :
    Canonical (saveFrame sid pc s).stores := by simp [saveFrame, h, mwrite_wf]

@[simp] theorem waitUnless_keeps (b : Bool) : Keeps (waitUnless b) := by simp [waitUnless]

@[simp] theorem waitOnUnless_keeps (held : Acc → Bool) (b : Bool) : Keeps (waitOnUnless held b) := by
  intro s h
  simp only [waitOnUnless]
  repeat' split
  all_goals simp [h]

@[simp] theorem traceWrite_canonical (pk : Nat) (ws : List Word) (s : State) (h : Canonical s.stores) :
    Canonical (traceWrite pk ws s).stores := by simp [traceWrite, h]

@[simp] theorem breakHook_canonical (sid : Nat) (s : State) (h : Canonical s.stores) :
    Canonical (breakHook sid s).stores := by simp [breakHook, h]

@[simp] theorem markIssue_canonical (sid : Nat) (s : State) (h : Canonical s.stores) :
    Canonical (markIssue sid s).stores := by simp [markIssue, h]

@[simp] theorem markTrap_canonical (sid : Nat) (s : State) (h : Canonical s.stores) :
    Canonical (markTrap sid s).stores := by simp [markTrap, h]

@[simp] theorem completeIssue_canonical (s : State) (h : Canonical s.stores) :
    Canonical (completeIssue s).stores := by simp [completeIssue, h]

@[simp] theorem heldIssue_canonical (s : State) (h : Canonical s.stores) :
    Canonical (heldIssue s).stores := by simp [heldIssue, h]

/-- The frame of an issue keeps the form where the body does. -/
theorem issue_canonical {cls : Cls} {s : State} {body : M Unit} (h : Canonical s.stores) (hbody : Keeps body) :
    CanonicalAfter (issue cls s body) := by
  have hi : Canonical (atIssue s).stores := h
  have hb := hbody (atIssue s) hi
  unfold issue
  split
  · simp [h]
  · split
    all_goals simp_all

@[simp] theorem setCost_keeps (k : Nat) : Keeps (setCost k) := by simp [setCost]

@[simp] theorem idleM_keeps  : Keeps (idleM ) := by simp [idleM]

@[simp] theorem setPc_keeps (t k : Nat) : Keeps (setPc t k) := by simp [setPc]

@[simp] theorem rangeM_keeps (va n : Nat) (rd wr : Bool) : Keeps (rangeM va n rd wr) := by
  intro s h
  simp only [rangeM]
  repeat' split
  all_goals simp [h]

@[simp] theorem rangeMatchM_keeps (va n : Nat) (rd wr : Bool) : Keeps (rangeMatchM va n rd wr) := by
  intro s h
  simp only [rangeMatchM]
  repeat' split
  all_goals simp [h]

@[simp] theorem effAddr_keeps (p : Word) (off : Int) : Keeps (effAddr p off) := by simp [effAddr]

@[simp] theorem alignM_keeps (ea n : Nat) : Keeps (alignM ea n) := by simp [alignM]

/-! #### The definitions of `Sys2Proof/Machine/Operands.lean` -/

@[simp] theorem bumpCount_canonical (key n : Nat) (s : State) (h : Canonical s.stores) :
    Canonical (bumpCount key n s).stores := by simp [bumpCount, h]

@[simp] theorem readHandle_keeps (hn w : Nat) (peek : Bool) : Keeps (readHandle hn w peek) := by
  simp only [readHandle]
  repeat' first | with_reducible refine keeps_bind ?_ fun _ => ?_ | split
  all_goals simp +contextual

@[simp] theorem drainM_keeps  : Keeps (drainM ) := by
  unfold drainM
  repeat' first | with_reducible refine keeps_bind ?_ fun _ => ?_ | split
  all_goals simp

@[simp] theorem dstHandleReady_keeps (hn w : Nat) : Keeps (dstHandleReady hn w) := by
  unfold dstHandleReady
  repeat' first | with_reducible refine keeps_bind ?_ fun _ => ?_ | split
  all_goals simp

@[simp] theorem writeHandle_canonical (sid hn w : Nat) (x : Word) (s : State) (h : Canonical s.stores) :
    Canonical (writeHandle sid hn w x s).stores := by
  simp only [writeHandle]
  repeat' split
  all_goals simp [h]

@[simp] theorem readG_keeps (r opn : Nat) : Keeps (readG r opn) := by
  simp only [readG]
  repeat' first | with_reducible refine keeps_bind ?_ fun _ => ?_ | split
  all_goals simp +contextual

@[simp] theorem src_keeps (n w : Nat) (peek : Bool) : Keeps (src n w peek) := by simp [src]

@[simp] theorem srcK_keeps (n : Nat) : Keeps (srcK n) := by
  unfold srcK
  repeat' first | with_reducible refine keeps_bind ?_ fun _ => ?_ | split
  all_goals simp

@[simp] theorem dstReady_keeps (n w : Nat) : Keeps (dstReady n w) := by
  unfold dstReady
  repeat' first | with_reducible refine keeps_bind ?_ fun _ => ?_ | split
  all_goals simp

@[simp] theorem dstReadyK_keeps (n : Nat) : Keeps (dstReadyK n) := by
  unfold dstReadyK
  repeat' first | with_reducible refine keeps_bind ?_ fun _ => ?_ | split
  all_goals simp

@[simp] theorem writeReg_canonical (sid rid : Nat) (x : Word) (s : State) (h : Canonical s.stores) :
    Canonical (writeReg sid rid x s).stores := by simp [writeReg, h]

@[simp] theorem deliver_canonical (rid lat : Nat) (x : Word) (s : State) (h : Canonical s.stores) :
    Canonical (deliver rid lat x s).stores := by simp [deliver, h]

@[simp] theorem writeResult_keeps (rid lat : Nat) (x : Word) : Keeps (writeResult rid lat x) := by
  unfold writeResult
  simp +contextual

@[simp] theorem srcA_keeps (o : Ops) : Keeps (srcA o) := by simp [srcA]

@[simp] theorem srcB_keeps (o : Ops) : Keeps (srcB o) := by simp [srcB]

@[simp] theorem srcC_keeps (o : Ops) : Keeps (srcC o) := by simp [srcC]

@[simp] theorem lastUse_keeps (o : Ops) : Keeps (lastUse o) := by simp [lastUse]

@[simp] theorem lastUseB_keeps (o : Ops) : Keeps (lastUseB o) := by simp [lastUseB]

@[simp] theorem need9_keeps (b : Bool) : Keeps (need9 b) := by simp [need9]

@[simp] theorem oneXi_keeps (o : Ops) : Keeps (oneXi o) := by simp [oneXi]

@[simp] theorem fmtM_keeps (p : Word) : Keeps (fmtM p) := by
  unfold fmtM
  repeat' first | with_reducible refine keeps_bind ?_ fun _ => ?_ | split
  all_goals simp

@[simp] theorem rawM_keeps (p : Word) : Keeps (rawM p) := by
  unfold rawM
  repeat' first | with_reducible refine keeps_bind ?_ fun _ => ?_ | split
  all_goals simp

@[simp] theorem rawAddr_keeps (o : Ops) (p : Word) (scale align : Nat) : Keeps (rawAddr o p scale align) := by
  unfold rawAddr
  repeat' first | with_reducible refine keeps_bind ?_ fun _ => ?_ | split
  all_goals simp

/-! #### The definitions of `Sys2Proof/Machine/Access.lean` -/

@[simp] theorem accGate_keeps (bank : Nat) (slot remote : Bool) : Keeps (accGate bank slot remote) := by
  unfold accGate
  repeat' first | with_reducible refine keeps_bind ?_ fun _ => ?_ | split
  all_goals simp

@[simp] theorem stepM_keeps (va : Nat) : Keeps (stepM va) := by
  unfold stepM
  repeat' first | with_reducible refine keeps_bind ?_ fun _ => ?_ | split
  all_goals simp

/-- An access at its bank keeps the form where what it does there does. -/
theorem atBank_canonical (id : Nat) (ev : Instr) {act : Acc → Nat → State → Acc × State} {s : State}
    (hact : ∀ a key s, Canonical s.stores → Canonical (act a key s).2.stores) (h : Canonical s.stores) :
    Canonical (atBank id ev act s).stores := by
  unfold atBank
  split
  · exact h
  · dsimp only
    repeat' split
    all_goals simp [h, hact]

@[simp] theorem appended_stores (r : Acc × State) : (appended r).2.stores = r.2.stores := by
  unfold appended
  split
  · split <;> simp
  · rfl

@[simp] theorem execAccessPerform_canonical (s : State) (h : Canonical s.stores) : CanonicalAfter (execAccessPerform s) := by
  refine atBank_canonical _ _ (fun a key s h => ?_) h
  dsimp only
  split
  · simp [h]
  · exact h

@[simp] theorem regToFrame_canonical (sid rid : Nat) (s : State) (h : Canonical s.stores) :
    Canonical (regToFrame sid rid s).stores := by
  simp only [regToFrame]
  split
  · simp only [stores_mk, canonical_mk]
    exact ⟨mwrite_wf (mwrite_wf h.1 _ _) _ _, h.2⟩
  · exact h

@[simp] theorem syncFrame_canonical (sid rid : Nat) (s : State) (h : Canonical s.stores) :
    Canonical (syncFrame sid rid s).stores := by simp [syncFrame, h]

@[simp] theorem lateResult_canonical (sid rid : Nat) (x : Word) (s : State) (h : Canonical s.stores) :
    Canonical (lateResult sid rid x s).stores := by simp [lateResult, h]

@[simp] theorem landResult_canonical (a : Acc) (rid : Nat) (x : Word) (s : State) (h : Canonical s.stores) :
    Canonical (landResult a rid x s).stores := by simp [landResult, h]

@[simp] theorem answerAcc_canonical (id : Nat) (s : State) (h : Canonical s.stores) : Canonical (answerAcc id s).stores := by
  unfold answerAcc
  repeat' split
  all_goals simp [h]

@[simp] theorem execLoadResult_canonical (s : State) (h : Canonical s.stores) : CanonicalAfter (execLoadResult s) :=
  whenHere_canonical _ (fun s h => by simp [h]) h

@[simp] theorem execStoreAck_canonical (s : State) (h : Canonical s.stores) : CanonicalAfter (execStoreAck s) := by
  refine whenHere_canonical _ (fun s h => ?_) h
  split
  · simp [h]
  · exact h

@[simp] theorem execRemoteRejection_canonical (s : State) (h : Canonical s.stores) :
    CanonicalAfter (execRemoteRejection s) := by
  unfold execRemoteRejection
  split <;> simp [h]

@[simp] theorem stoppedHandle_canonical (sid hn w : Nat) (desc x : Word) (s : State) (h : Canonical s.stores) :
    Canonical (stoppedHandle sid hn w desc x s).stores := by
  unfold stoppedHandle
  split <;> simp [h]

@[simp] theorem execResultWriteback_canonical (s : State) (h : Canonical s.stores) :
    CanonicalAfter (execResultWriteback s) := by simp [execResultWriteback, h]

@[simp] theorem issueLoad_keeps (o : Ops) (va n : Nat) (e : Ext1) (conv acq : Bool) :
    Keeps (issueLoad o va n e conv acq) := by simp [issueLoad]

@[simp] theorem issueStore_keeps (va : Nat) (bs : List Byte) (conv : Bool) :
    Keeps (issueStore va bs conv) := by simp [issueStore]

@[simp] theorem gateAt_keeps (va : Nat) (remote : Bool) : Keeps (gateAt va remote) := by
  unfold gateAt
  repeat' first | with_reducible refine keeps_bind ?_ fun _ => ?_ | split
  all_goals simp

@[simp] theorem ptrAdd_keeps (p : Word) (n : Int) : Keeps (ptrAdd p n) := by
  unfold ptrAdd
  repeat' first | with_reducible refine keeps_bind ?_ fun _ => ?_ | split
  all_goals simp

/-! #### The definitions of `Sys2Proof/Machine/Fetch.lean` -/

@[simp] theorem lengthAt_keeps (va : Nat) : Keeps (lengthAt va) := by
  refine keeps_ask_bind fun s h => ?_
  split <;> simp [h]

/-! #### The definitions of `Sys2Proof/Machine/Mtu.lean` -/

@[simp] theorem claimFill_canonical (pkg page : Nat) (e : Word) (s : State) (h : Canonical s.stores) :
    Canonical (claimFill pkg page e s).stores := by simp [claimFill, h]

@[simp] theorem decideAcc_canonical (id : Nat) (a : Acc) (s : State) (h : Canonical s.stores) :
    Canonical (decideAcc id a s).stores := by
  unfold decideAcc
  extract_lets
  repeat' split
  all_goals simp +zetaDelta [h]

@[simp] theorem mtuDecide_canonical (id : Nat) (walked : Bool) (s : State) (h : Canonical s.stores) :
    Canonical (mtuDecide id walked s).stores := by
  unfold mtuDecide
  split <;> simp [h]

@[simp] theorem execMtuAccessDecide_canonical (s : State) (h : Canonical s.stores) :
    CanonicalAfter (execMtuAccessDecide s) := by simp [execMtuAccessDecide, h]

@[simp] theorem execMtuParkRetry_canonical (s : State) (h : Canonical s.stores) :
    CanonicalAfter (execMtuParkRetry s) := by simp [execMtuParkRetry, h]

@[simp] theorem execSqeFillRequest_canonical (s : State) (h : Canonical s.stores) :
    CanonicalAfter (execSqeFillRequest s) := by simp [execSqeFillRequest, h]

@[simp] theorem execSqeFillComplete_canonical (s : State) (h : Canonical s.stores) :
    CanonicalAfter (execSqeFillComplete s) := by
  simp only [execSqeFillComplete]
  repeat' split
  · exact h
  · exact h
  · simp [h]
  · simp only [canonicalAfter_next, post_stores]
    exact changeLeaf_canonical _ _ _ _ (by simp [h, splice_wf])

@[simp] theorem execMtuInstallNotice_canonical (s : State) (h : Canonical s.stores) :
    CanonicalAfter (execMtuInstallNotice s) :=
  foldl_canonical (fun s id h => mtuDecide_canonical id false s h) _ h

@[simp] theorem execSqeFillFail_canonical (s : State) (h : Canonical s.stores) : CanonicalAfter (execSqeFillFail s) := by
  simp only [execSqeFillFail]
  repeat' split
  all_goals simp [h]

@[simp] theorem execSqeCommandTimeout_canonical (s : State) (h : Canonical s.stores) :
    CanonicalAfter (execSqeCommandTimeout s) := by
  unfold execSqeCommandTimeout
  split <;> simp [h]

@[simp] theorem savedAnswer_canonical (id gid : Nat) (a : Acc) (s : State) (h : Canonical s.stores) :
    Canonical (savedAnswer id gid a s).stores := by
  have hu : Canonical (modAcc id (fun a => { a with parked := false }) (unpark a s)).stores := by simp [h]
  simp only [savedAnswer]
  split
  · split
    · exact hu
    · simp only [stores_mk, canonical_mk]
      exact ⟨mwrite_wf (mwrite_wf hu.1 _ _) _ _, hu.2⟩
  · simp only [stores_mk, canonical_mk]
    exact ⟨mwrite_wf hu.1 _ _, hu.2⟩
  · exact hu

@[simp] theorem execParkedAccessAnswer_canonical (s : State) (h : Canonical s.stores) :
    CanonicalAfter (execParkedAccessAnswer s) := by
  unfold execParkedAccessAnswer
  split <;> simp [h]

@[simp] theorem execParkedAccessFail_canonical (s : State) (h : Canonical s.stores) :
    CanonicalAfter (execParkedAccessFail s) := by
  unfold execParkedAccessFail
  dsimp only
  split
  · exact h
  · next a _ => cases a.ret <;> simp [h]

@[simp] theorem swapFrame_canonical (sid : Nat) (s : State) (h : Canonical s.stores) :
    Canonical (swapFrame sid s).stores := by simp [swapFrame, h, mwrite_wf]

@[simp] theorem execTeamSwapOut_canonical (s : State) (h : Canonical s.stores) : CanonicalAfter (execTeamSwapOut s) := by
  simp only [execTeamSwapOut]
  split
  · refine foldl_canonical (fun s sid h => ?_) _ h
    split <;> simp [h]
  · split
    · exact h
    · simp [h]

@[simp] theorem execTeamRestore_canonical (s : State) (h : Canonical s.stores) :
    CanonicalAfter (execTeamRestore s) := by simp [execTeamRestore, h]

@[simp] theorem downTable_canonical (pkg table ix : Nat) (s : State) (h : Canonical s.stores) :
    Canonical (downTable pkg table ix s).2.stores := by
  simp only [downTable]
  repeat' split
  all_goals simp [h, mwrite_wf]

@[simp] theorem writeLeaf_canonical (pkg page : Nat) (e : Word) (s : State) (h : Canonical s.stores) :
    Canonical (writeLeaf pkg page e s).stores := by
  simp only [writeLeaf]
  exact changeLeaf_canonical _ _ _ _ (downTable_canonical _ _ _ _ (downTable_canonical _ _ _ _ (downTable_canonical _ _ _ _ h)))

@[simp] theorem execFaultServe_canonical (s : State) (h : Canonical s.stores) : CanonicalAfter (execFaultServe s) := by
  unfold execFaultServe
  dsimp only
  repeat' first | with_reducible refine canonicalAfter_if ?_ ?_ | split
  all_goals simp [h]

@[simp] theorem execPageMigrationArrival_canonical (s : State) (h : Canonical s.stores) :
    CanonicalAfter (execPageMigrationArrival s) := by
  simp only [execPageMigrationArrival]
  split
  · simp only [canonicalAfter_next, overLink_stores, post_stores]
    exact writeLeaf_canonical _ _ _ _ (by simp [h, splice_wf])
  · simp [h]

@[simp] theorem execMigrationAck_canonical (s : State) (h : Canonical s.stores) :
    CanonicalAfter (execMigrationAck s) := by simp [execMigrationAck, h]

@[simp] theorem execEvictWritebackComplete_canonical (s : State) (h : Canonical s.stores) :
    CanonicalAfter (execEvictWritebackComplete s) := by
  simp only [execEvictWritebackComplete]
  repeat' split
  all_goals simp [h, splice_wf]

/-! #### The definitions of `Sys2Proof/Machine/Engine.lean` -/

@[simp] theorem ringPush_canonical (sid hn : Nat) (x : Word) (s : State) (h : Canonical s.stores) :
    Canonical (ringPush sid hn x s).stores := by simp [ringPush, h]

@[simp] theorem emit_canonical (id : Nat) (c : Cmd) (x : Word) (last held : Bool) (s : State) (h : Canonical s.stores) :
    Canonical (emit id c x last held s).stores := by
  unfold emit
  repeat' split
  all_goals simp [h]

@[simp] theorem execCompletionElementPlace_canonical (s : State) (h : Canonical s.stores) :
    CanonicalAfter (execCompletionElementPlace s) := by
  unfold execCompletionElementPlace
  split <;> simp [h]

@[simp] theorem complete_canonical (id : Nat) (c : Cmd) (tag : Nat) (remote : Bool) (s : State) (h : Canonical s.stores) :
    Canonical (complete id c tag remote s).stores := by simp [complete, h]

@[simp] theorem copyBytes_canonical (sid own src dst tenant n : Nat) {s : State} (h : Canonical s.stores) :
    Canonical (copyBytes sid own src dst tenant n s).stores := by
  induction n generalizing src dst s with
  | zero => exact h
  | succ n ih =>
    simp only [copyBytes]
    split
    · exact ih _ _ (memWrite_canonical _ _ _ _ h)
    · exact h

@[simp] theorem portM_keeps (o : Ops) (eng n : Nat) : Keeps (portM o eng n) := by
  simp only [portM]
  repeat' first | with_reducible refine keeps_bind ?_ fun _ => ?_ | split
  all_goals simp +contextual

@[simp] theorem descM_keeps (o : Ops) (n : Nat) : Keeps (descM o n) := by
  simp only [descM]
  repeat' first | with_reducible refine keeps_bind ?_ fun _ => ?_ | split
  all_goals simp +contextual

@[simp] theorem limitM_keeps (hn dp : Nat) (ok : Bool) : Keeps (limitM hn dp ok) := by simp [limitM]

theorem spanBy_keeps {check : Nat → Nat → Bool → Bool → M Nat} (hc : ∀ va n rd wr, Keeps (check va n rd wr)) (p : Word)
    (lo : Int)
    (n : Nat) (rd wr : Bool) : Keeps (spanBy check p lo n rd wr) := by
  unfold spanBy
  repeat' first
    | with_reducible refine keeps_bind ?_ fun _ => ?_
    | with_reducible refine keeps_if ?_ ?_
    | split
  all_goals simp [hc]

@[simp] theorem spanM_keeps (p : Word) (lo : Int) (n : Nat) (rd wr : Bool) :
    Keeps (spanM p lo n rd wr) := spanBy_keeps rangeM_keeps p lo n rd wr

@[simp] theorem portSlotM_keeps (o : Ops) (hn : Nat) (h : Handle) : Keeps (portSlotM o hn h) := by
  unfold portSlotM
  repeat' first | with_reducible refine keeps_bind ?_ fun _ => ?_ | split
  all_goals simp

@[simp] theorem cplM_keeps (hn dp eng ch : Nat) (want : Bool) : Keeps (cplM hn dp eng ch want) := by
  unfold cplM
  repeat' first | with_reducible refine keeps_bind ?_ fun _ => ?_ | split
  all_goals simp

@[simp] theorem stepRowsM_keeps (va : Nat) (stride : Int) (len rows : Nat) : Keeps (stepRowsM va stride len rows) := by
  simp only [stepRowsM]
  repeat' first | with_reducible refine keeps_bind ?_ fun _ => ?_ | split
  all_goals simp +contextual

@[simp] theorem execCpy_canonical (o : Ops) (s : State) (h : Canonical s.stores) : CanonicalAfter (execCpy o s) := by
  unfold execCpy
  refine issue_canonical h ?_
  repeat' first | with_reducible refine keeps_bind ?_ fun _ => ?_ | split
  all_goals simp

@[simp] theorem copyRows_canonical (sid own src dst : Nat) (ss ds : Int) (tenant len lo hi n : Nat) {s : State}
    (h : Canonical s.stores) : Canonical (copyRows sid own src dst ss ds tenant len lo hi n s).stores := by
  induction n with
  | zero => exact h
  | succ n ih => simp [copyRows, ih]

@[simp] theorem copyMove_canonical (c : Cmd) (lo hi : Nat) (s : State) (h : Canonical s.stores) :
    Canonical (copyMove c lo hi s).stores := by simp [copyMove, h]

@[simp] theorem copyStop_canonical (tid ch : Nat) (s : State) (h : Canonical s.stores) :
    Canonical (copyStop tid ch s).stores := by
  unfold copyStop
  repeat' split
  all_goals simp [h]

@[simp] theorem execCopyComplete_canonical (s : State) (h : Canonical s.stores) : CanonicalAfter (execCopyComplete s) := by
  simp only [execCopyComplete]
  repeat' split
  all_goals simp [h]

@[simp] theorem transportOp_canonical (put : Bool) (o : Ops) (s : State) (h : Canonical s.stores) :
    CanonicalAfter (transportOp put o s) := by
  unfold transportOp
  refine issue_canonical h ?_
  repeat' first
    | with_reducible refine keeps_ask_bind fun _ _ => ?_
    | with_reducible refine keeps_bind ?_ fun _ => ?_
    | with_reducible refine keeps_if ?_ ?_
    | extract_lets
  any_goals solve | simp
  all_goals
    refine (keeps_updM _).2 fun s hs => ?_
    extract_lets _ _ c x t
    have ht : Canonical t.stores := by simp [t, hs]
    clear_value c t x
    split
    · simp [ht]
    · dsimp only
      split <;> simp [ht, apply_ite Prod.snd]

@[simp] theorem execGet_canonical (o : Ops) (s : State) (h : Canonical s.stores) :
    CanonicalAfter (execGet o s) := by simp [execGet, h]

@[simp] theorem execPut_canonical (o : Ops) (s : State) (h : Canonical s.stores) :
    CanonicalAfter (execPut o s) := by simp [execPut, h]

@[simp] theorem remoteWrite_canonical (sid own q va tenant : Nat) (bs : List Byte) (s : State) (h : Canonical s.stores) :
    Canonical (remoteWrite sid own q va tenant bs s).stores := by simp [remoteWrite, h]

theorem serveRemote_canonical (ev : Instr) (n : Nat) (wait : Bool) {act : Nat → Cmd → Nat → State → State}
    (hact : ∀ id c k s, Canonical s.stores → Canonical (act id c k s).stores) {s : State} (h : Canonical s.stores) :
    CanonicalAfter (serveRemote ev n wait act s) := by
  simp only [serveRemote]
  repeat' split
  all_goals simp [h, hact]

@[simp] theorem execGetRequestServe_canonical (s : State) (h : Canonical s.stores) :
    CanonicalAfter (execGetRequestServe s) := by
  unfold execGetRequestServe
  exact serveRemote_canonical _ _ _ (fun id c k s h => by simp [h]) (by simp [h])

@[simp] theorem execRemoteAtomicServe_canonical (s : State) (h : Canonical s.stores) :
    CanonicalAfter (execRemoteAtomicServe s) := by
  unfold execRemoteAtomicServe
  refine serveRemote_canonical _ _ _ (fun id c k s h => by simp [h]) ?_
  split <;> simp [h]

@[simp] theorem execGetComplete_canonical (s : State) (h : Canonical s.stores) : CanonicalAfter (execGetComplete s) := by
  simp only [execGetComplete]
  repeat' split
  · exact h
  · exact h
  · simp [h]
  · simp [h]
  · simp [h]
  · exact complete_canonical _ _ _ _ _ (by simp [h])

@[simp] theorem execPutLocalComplete_canonical (s : State) (h : Canonical s.stores) :
    CanonicalAfter (execPutLocalComplete s) := by
  simp only [execPutLocalComplete]
  repeat' split
  all_goals simp [h]

@[simp] theorem execPutDataArrival_canonical (s : State) (h : Canonical s.stores) :
    CanonicalAfter (execPutDataArrival s) := by
  unfold execPutDataArrival
  exact serveRemote_canonical _ _ _ (fun id c k s h => by simp [h]) h

@[simp] theorem execPutRemoteComplete_canonical (s : State) (h : Canonical s.stores) :
    CanonicalAfter (execPutRemoteComplete s) := by
  simp only [execPutRemoteComplete]
  repeat' split
  all_goals simp [h]

@[simp] theorem storageOp_canonical (write : Bool) (o : Ops) (s : State) (h : Canonical s.stores) :
    CanonicalAfter (storageOp write o s) := by
  unfold storageOp
  refine issue_canonical h ?_
  repeat' first | with_reducible refine keeps_bind ?_ fun _ => ?_ | split
  all_goals simp

@[simp] theorem execSread_canonical (o : Ops) (s : State) (h : Canonical s.stores) :
    CanonicalAfter (execSread o s) := by simp [execSread, h]

@[simp] theorem execSwrite_canonical (o : Ops) (s : State) (h : Canonical s.stores) :
    CanonicalAfter (execSwrite o s) := by simp [execSwrite, h]

@[simp] theorem execStorageIoComplete_canonical (s : State) (h : Canonical s.stores) :
    CanonicalAfter (execStorageIoComplete s) := by
  simp only [execStorageIoComplete]
  repeat' split
  all_goals first
    | exact complete_canonical _ _ _ _ _ (by simp [h, mwrite_wf])
    | simp [h]

/-! #### The definitions of `Sys2Proof/Machine/Queue.lean` -/

@[simp] theorem execQbind_canonical (o : Ops) (s : State) (h : Canonical s.stores) : CanonicalAfter (execQbind o s) := by
  simp only [execQbind]
  refine issue_canonical h ?_
  repeat' first
    | with_reducible refine keeps_ask_bind fun _ _ => ?_
    | with_reducible refine keeps_bind ?_ fun _ => ?_
    | with_reducible refine keeps_if ?_ ?_
    | split
    | dsimp only
  all_goals simp +contextual [*]

@[simp] theorem execQfill_canonical (o : Ops) (s : State) (h : Canonical s.stores) : CanonicalAfter (execQfill o s) := by
  unfold execQfill
  refine issue_canonical h ?_
  repeat' first | with_reducible refine keeps_bind ?_ fun _ => ?_ | split
  all_goals simp

@[simp] theorem advRead_canonical (sid hn n : Nat) (s : State) (h : Canonical s.stores) :
    Canonical (advRead sid hn n s).stores := by
  simp only [advRead]
  repeat' split
  all_goals simp [h]

@[simp] theorem advWrite_canonical (sid hn n : Nat) (s : State) (h : Canonical s.stores) :
    Canonical (advWrite sid hn n s).stores := by
  simp only [advWrite]
  repeat' split
  all_goals simp [h]

@[simp] theorem execQadv_canonical (o : Ops) (s : State) (h : Canonical s.stores) : CanonicalAfter (execQadv o s) := by
  simp only [execQadv]
  refine issue_canonical h ?_
  repeat' first | with_reducible refine keeps_bind ?_ fun _ => ?_ | split
  all_goals simp +contextual

@[simp] theorem targetM_keeps (t : Word) (loc : Bool) : Keeps (targetM t loc) := by
  unfold targetM
  repeat' first | with_reducible refine keeps_bind ?_ fun _ => ?_ | split
  all_goals simp

@[simp] theorem execXput_canonical (o : Ops) (s : State) (h : Canonical s.stores) : CanonicalAfter (execXput o s) := by
  simp only [execXput]
  refine issue_canonical h ?_
  repeat' first | with_reducible refine keeps_bind ?_ fun _ => ?_ | split
  all_goals simp +contextual

@[simp] theorem execQsend_canonical (o : Ops) (s : State) (h : Canonical s.stores) : CanonicalAfter (execQsend o s) := by
  simp only [execQsend]
  refine issue_canonical h ?_
  repeat' first
    | with_reducible refine keeps_ask_bind fun _ _ => ?_
    | with_reducible refine keeps_bind ?_ fun _ => ?_
    | with_reducible refine keeps_if ?_ ?_
    | split
    | dsimp only
  all_goals simp +contextual [*]

@[simp] theorem execQsendWho_canonical (o : Ops) (s : State) (h : Canonical s.stores) :
    CanonicalAfter (execQsendWho o s) := by
  simp only [execQsendWho]
  refine issue_canonical h ?_
  repeat' first | with_reducible refine keeps_bind ?_ fun _ => ?_ | split
  all_goals simp +contextual

@[simp] theorem execXputArrival_canonical (s : State) (h : Canonical s.stores) : CanonicalAfter (execXputArrival s) := by
  unfold execXputArrival
  split <;> simp [h]

@[simp] theorem execQsendArrival_canonical (s : State) (h : Canonical s.stores) : CanonicalAfter (execQsendArrival s) := by
  unfold execQsendArrival
  split <;> simp [h]

@[simp] theorem execRingAppendDone_canonical (s : State) (h : Canonical s.stores) :
    CanonicalAfter (execRingAppendDone s) := by
  unfold execRingAppendDone
  split <;> simp [h]

@[simp] theorem execReceiveQueueRefill_canonical (s : State) (h : Canonical s.stores) :
    CanonicalAfter (execReceiveQueueRefill s) := by simp [execReceiveQueueRefill, h]

@[simp] theorem execQsendAnswer_canonical (s : State) (h : Canonical s.stores) : CanonicalAfter (execQsendAnswer s) := by
  simp only [execQsendAnswer]
  repeat' split
  all_goals simp [h]

@[simp] theorem execQsendResend_canonical (s : State) (h : Canonical s.stores) : CanonicalAfter (execQsendResend s) := by
  simp only [execQsendResend]
  repeat' split
  all_goals simp [h]

@[simp] theorem execTrcNoticeArrival_canonical (s : State) (h : Canonical s.stores) :
    CanonicalAfter (execTrcNoticeArrival s) := by simp [execTrcNoticeArrival, h]

@[simp] theorem heldM_keeps (n : Nat) : Keeps (heldM n) := by
  unfold heldM
  repeat' first | with_reducible refine keeps_bind ?_ fun _ => ?_ | split
  all_goals simp

@[simp] theorem execClrp_canonical (o : Ops) (s : State) (h : Canonical s.stores) : CanonicalAfter (execClrp o s) := by
  simp only [execClrp]
  refine issue_canonical h ?_
  repeat' first | with_reducible refine keeps_bind ?_ fun _ => ?_ | split
  all_goals simp +contextual

@[simp] theorem execTestp_canonical (o : Ops) (s : State) (h : Canonical s.stores) : CanonicalAfter (execTestp o s) := by
  unfold execTestp
  refine issue_canonical h ?_
  repeat' first | with_reducible refine keeps_bind ?_ fun _ => ?_ | split
  all_goals simp

@[simp] theorem execPresTimeout_canonical (s : State) (h : Canonical s.stores) :
    CanonicalAfter (execPresTimeout s) := by simp [execPresTimeout, h]

@[simp] theorem evictReg_canonical (sid r : Nat) (fromBank : Bool) (s : State) (h : Canonical s.stores) :
    Canonical (evictReg sid r fromBank s).stores := by simp [evictReg, h]

@[simp] theorem execRegisterEvict_canonical (s : State) (h : Canonical s.stores) : CanonicalAfter (execRegisterEvict s) := by
  simp only [execRegisterEvict]
  repeat' split
  all_goals simp [h]

@[simp] theorem execRegisterFetch_canonical (s : State) (h : Canonical s.stores) :
    CanonicalAfter (execRegisterFetch s) := by simp [execRegisterFetch, h]

@[simp] theorem execWaitw_canonical (o : Ops) (s : State) (h : Canonical s.stores) : CanonicalAfter (execWaitw o s) := by
  simp only [execWaitw]
  refine issue_canonical h ?_
  repeat' first
    | with_reducible refine keeps_ask_bind fun _ _ => ?_
    | with_reducible refine keeps_bind ?_ fun _ => ?_
    | with_reducible refine keeps_if ?_ ?_
    | split
    | dsimp only
  all_goals simp +contextual [*]

@[simp] theorem execWatchMade_canonical (s : State) (h : Canonical s.stores) : CanonicalAfter (execWatchMade s) := by
  unfold execWatchMade
  extract_lets
  repeat' split
  all_goals simp +zetaDelta [h]

@[simp] theorem execWatchWake_canonical (s : State) (h : Canonical s.stores) : CanonicalAfter (execWatchWake s) := by
  simp only [execWatchWake]
  repeat' split
  all_goals simp [h]

@[simp] theorem execWatchRetry_canonical (s : State) (h : Canonical s.stores) : CanonicalAfter (execWatchRetry s) := by
  unfold execWatchRetry
  split <;> simp [h]

@[simp] theorem execTime_canonical (o : Ops) (s : State) (h : Canonical s.stores) : CanonicalAfter (execTime o s) := by
  unfold execTime
  refine issue_canonical h ?_
  repeat' first | with_reducible refine keeps_bind ?_ fun _ => ?_ | split
  all_goals simp

@[simp] theorem execSelf_canonical (o : Ops) (s : State) (h : Canonical s.stores) : CanonicalAfter (execSelf o s) := by
  unfold execSelf
  refine issue_canonical h ?_
  repeat' first | with_reducible refine keeps_bind ?_ fun _ => ?_ | split
  all_goals simp

/-! #### The definitions of `Sys2Proof/Machine/Sync.lean` -/

@[simp] theorem atomImm_keeps (o : Ops) : Keeps (atomImm o) := by
  unfold atomImm
  repeat' first | with_reducible refine keeps_bind ?_ fun _ => ?_ | split
  all_goals simp

@[simp] theorem atomAddr_keeps (p : Word) (w : Nat) : Keeps (atomAddr p w) := by
  unfold atomAddr
  repeat' first | with_reducible refine keeps_bind ?_ fun _ => ?_ | split
  all_goals simp

@[simp] theorem execAtom_canonical (o : Ops) (s : State) (h : Canonical s.stores) : CanonicalAfter (execAtom o s) := by
  unfold execAtom
  refine issue_canonical h ?_
  repeat' first | with_reducible refine keeps_bind ?_ fun _ => ?_ | split
  all_goals simp

@[simp] theorem execCas_canonical (o : Ops) (s : State) (h : Canonical s.stores) : CanonicalAfter (execCas o s) := by
  unfold execCas
  refine issue_canonical h ?_
  repeat' first | with_reducible refine keeps_bind ?_ fun _ => ?_ | split
  all_goals simp

@[simp] theorem atomAct_canonical (a : Acc) (key : Nat) (s : State) (h : Canonical s.stores) :
    Canonical (atomAct a key s).2.stores := by simp [atomAct, h]

@[simp] theorem execAtomicPerform_canonical (s : State) (h : Canonical s.stores) : CanonicalAfter (execAtomicPerform s) :=
  atBank_canonical _ _ (fun a key s h => atomAct_canonical a key s h) h

@[simp] theorem issueSc_keeps (ea : Nat) (a : Acc) (busy : Nat) : Keeps (issueSc ea a busy) := by
  refine keeps_ask_bind fun s _ => keeps_bind (waitUnless_keeps _) fun _ => keeps_bind (gateAt_keeps _ _) fun _ => ?_
  refine keeps_ask_bind fun s h => ?_
  simp [h]

@[simp] theorem execAtomsc_canonical (o : Ops) (s : State) (h : Canonical s.stores) : CanonicalAfter (execAtomsc o s) := by
  unfold execAtomsc
  refine issue_canonical h ?_
  repeat' first | with_reducible refine keeps_bind ?_ fun _ => ?_ | split
  all_goals simp

@[simp] theorem execLdsc_canonical (o : Ops) (s : State) (h : Canonical s.stores) : CanonicalAfter (execLdsc o s) := by
  unfold execLdsc
  refine issue_canonical h ?_
  repeat' first | with_reducible refine keeps_bind ?_ fun _ => ?_ | split
  all_goals simp

@[simp] theorem execStsc_canonical (o : Ops) (s : State) (h : Canonical s.stores) : CanonicalAfter (execStsc o s) := by
  unfold execStsc
  refine issue_canonical h ?_
  repeat' first | with_reducible refine keeps_bind ?_ fun _ => ?_ | split
  all_goals simp

@[simp] theorem execScComplete_canonical (s : State) (h : Canonical s.stores) : CanonicalAfter (execScComplete s) := by
  unfold execScComplete
  dsimp only
  split
  · exact h
  · next id a _ =>
    split
    · exact h
    · refine canonicalAfter_if (by simp [h]) ?_
      have hm : Canonical (if (a.dev && (a.store || a.kind == .atom)) = true then markD a.dpkg a.va s else s).stores := by
        simp [h]
      generalize (if (a.dev && (a.store || a.kind == .atom)) = true then markD a.dpkg a.va s else s) = t at hm ⊢
      refine canonicalAfter_if ?_ ?_
      · split <;> simp [hm, apply_ite Prod.snd]
      · simp [hm, apply_ite Prod.snd]

@[simp] theorem execBar_canonical (o : Ops) (s : State) (h : Canonical s.stores) : CanonicalAfter (execBar o s) := by
  simp only [execBar]
  refine issue_canonical h ?_
  repeat' first
    | with_reducible refine keeps_ask_bind fun _ _ => ?_
    | with_reducible refine keeps_bind ?_ fun _ => ?_
    | with_reducible refine keeps_if ?_ ?_
    | split
    | dsimp only
  all_goals simp +contextual [*]

@[simp] theorem barAnswer_canonical (status : Word) (l : List (Nat × Nat)) {s : State} (h : Canonical s.stores) :
    Canonical (barAnswer status l s).stores := by
  induction l generalizing s with
  | nil => exact h
  | cons p r ih =>
    obtain ⟨sid, dst⟩ := p
    exact ih (by simp [h])

@[simp] theorem execBarRelease_canonical (s : State) (h : Canonical s.stores) :
    CanonicalAfter (execBarRelease s) := by simp [execBarRelease, h]

@[simp] theorem execBarTimeout_canonical (s : State) (h : Canonical s.stores) : CanonicalAfter (execBarTimeout s) := by
  unfold execBarTimeout
  split <;> simp [h]

@[simp] theorem stepOp_canonical (exch : Bool) (o : Ops) (s : State) (h : Canonical s.stores) :
    CanonicalAfter (stepOp exch o s) := by
  simp only [stepOp]
  refine issue_canonical h ?_
  repeat' first | with_reducible refine keeps_bind ?_ fun _ => ?_ | split
  all_goals simp +contextual

@[simp] theorem execSstep_canonical (o : Ops) (s : State) (h : Canonical s.stores) :
    CanonicalAfter (execSstep o s) := by simp [execSstep, h]

@[simp] theorem execSsync_canonical (o : Ops) (s : State) (h : Canonical s.stores) :
    CanonicalAfter (execSsync o s) := by simp [execSsync, h]

@[simp] theorem execSuperstepBoundary_canonical (s : State) (h : Canonical s.stores) :
    CanonicalAfter (execSuperstepBoundary s) := by
  unfold execSuperstepBoundary
  extract_lets
  repeat' split
  all_goals simp +zetaDelta [h]

@[simp] theorem execGjoin_canonical (o : Ops) (s : State) (h : Canonical s.stores) : CanonicalAfter (execGjoin o s) := by
  unfold execGjoin
  refine issue_canonical h ?_
  repeat' first | with_reducible refine keeps_bind ?_ fun _ => ?_ | split
  all_goals simp

@[simp] theorem groupAnswer_canonical (status : Word) (l : List (Nat × Nat)) {s : State} (h : Canonical s.stores) :
    Canonical (groupAnswer status l s).stores := by
  induction l generalizing s with
  | nil => exact h
  | cons p r ih =>
    obtain ⟨sid, dst⟩ := p
    exact ih (by simp [h])

@[simp] theorem execGroupForm_canonical (s : State) (h : Canonical s.stores) : CanonicalAfter (execGroupForm s) := by
  unfold execGroupForm
  split <;> simp [h]

@[simp] theorem execGjoinTimeout_canonical (s : State) (h : Canonical s.stores) : CanonicalAfter (execGjoinTimeout s) := by
  unfold execGjoinTimeout
  split <;> simp [h]

@[simp] theorem execGleave_canonical (o : Ops) (s : State) (h : Canonical s.stores) : CanonicalAfter (execGleave o s) := by
  unfold execGleave
  refine issue_canonical h ?_
  repeat' first | with_reducible refine keeps_bind ?_ fun _ => ?_ | split
  all_goals simp

@[simp] theorem execRejoin_canonical (o : Ops) (s : State) (h : Canonical s.stores) : CanonicalAfter (execRejoin o s) := by
  simp only [execRejoin]
  refine issue_canonical h ?_
  repeat' first | with_reducible refine keeps_bind ?_ fun _ => ?_ | split
  all_goals simp +contextual

@[simp] theorem execFollowerIssue_canonical (s : State) (h : Canonical s.stores) : CanonicalAfter (execFollowerIssue s) := by
  unfold execFollowerIssue
  split <;> simp [h]

/-! #### The definitions of `Sys2Proof/Machine/Guards.lean` -/

@[simp] theorem unitReadM_keeps (va n : Nat) : Keeps (unitReadM va n) := by
  refine keeps_ask_bind fun s h => ?_
  dsimp only
  split <;> simp [h]

@[simp] theorem recordM_keeps (va n : Nat) : Keeps (recordM va n) := by
  refine keeps_ask_bind fun s _ => keeps_bind (waitUnless_keeps _) fun _ => ?_
  split <;> simp

@[simp] theorem pageThereM_keeps (va n : Nat) : Keeps (pageThereM va n) := by
  refine keeps_ask_bind fun s h => ?_
  dsimp only
  split <;> simp [h]

@[simp] theorem checkIdM_keeps (gid : Word) : Keeps (checkIdM gid) := by
  intro s h
  simp only [checkIdM]
  repeat' split
  all_goals simp [h]

@[simp] theorem setStamps_canonical (gid : Word) (g : Guard) (subs : List Nat) (v : Nat) (s : State)
    (h : Canonical s.stores) :
    Canonical (setStamps gid g subs v s).stores :=
  foldl_canonical (fun s i h => by simp [h]) _ h

@[simp] theorem repairG_canonical (gid : Word) (g : Guard) (s : State) (h : Canonical s.stores) :
    Canonical (repairG gid g s).2.stores := by simp [repairG, h]

theorem reqG_stores {gid : Word} {r : GReq} {g : Guard} {s : State} {p : Guard × State} (hp : reqG gid r g s = some p) :
    p.2.stores = s.stores := by
  unfold reqG at hp
  repeat' split at hp
  all_goals cases hp
  all_goals simp

@[simp] theorem relG_canonical (gid : Word) (rel : GRel) (last : Word) (key : Nat) (g : Guard) (s : State)
    (h : Canonical s.stores) :
    Canonical (relG gid rel last key g s).2.stores := by
  simp only [relG]
  repeat' split
  all_goals simp [h]

@[simp] theorem breakDelivery_canonical (gid : Word) (r : GReq) (back : Nat) (g : Guard) (s : State)
    (h : Canonical s.stores) :
    Canonical (breakDelivery gid r back g s).stores := by
  simp only [breakDelivery]
  split
  · simp [h]
  · rw [putGuard_stores, foldl_snd_stores _ (fun q r => grantG_stores gid 1 r q.1 q.2), post_stores]
    exact repairG_canonical _ _ _ h

@[simp] theorem breakG_canonical (gid : Word) (g : Guard) (s : State) (h : Canonical s.stores) :
    Canonical (breakG gid g s).stores := by
  simp only [breakG]
  repeat' split
  all_goals simp [h]

theorem askBind_canonical {q : GAsk} {g : Guard} {s : State} {r : Option Word × Nat × State} (h : Canonical s.stores)
    (hr : askBind q g s = .ok r) : Canonical r.2.2.stores := by
  simp only [askBind] at hr
  repeat' split at hr
  all_goals simp only [reduceCtorEq, Except.ok.injEq] at hr
  all_goals subst hr
  all_goals simp [h]

theorem askUnbind_stores {q : GAsk} {s : State} {r : Option Word × Nat × State} (hr : askUnbind q s = .ok r) :
    r.2.2.stores = s.stores := by
  unfold askUnbind at hr
  repeat' split at hr
  all_goals cases hr
  all_goals simp

theorem askNew_stores {q : GAsk} {s : State} {r : Option Word × Nat × State} (hr : askNew q s = .ok r) :
    r.2.2.stores = s.stores := by
  simp only [askNew] at hr
  repeat' split at hr
  all_goals simp only [Except.ok.injEq] at hr
  all_goals subst hr
  all_goals simp

theorem askG_canonical {q : GAsk} {s : State} {r : Option Word × Nat × State} (h : Canonical s.stores)
    (hr : askG q s = .ok r) : Canonical r.2.2.stores := by
  unfold askG at hr
  split at hr
  · rw [askNew_stores hr]; exact h
  · split at hr
    · cases hr
    · split at hr
      · exact askBind_canonical h hr
      · rw [askUnbind_stores hr]; exact h
      · split at hr <;> cases hr
        simpa using h
      · cases hr; exact h
      · cases hr; exact h

@[simp] theorem answerAsk_canonical (q : GAsk) (s : State) (h : Canonical s.stores) : Canonical (answerAsk q s).stores := by
  unfold answerAsk
  split
  · simp only [post_stores]
    split
    · simp [h]
    · next hu _ => rw [askUnbind_stores hu]; exact h
    · exact h
  · split
    · exact h
    · dsimp only
      split
      · simp [h]
      · next hr =>
        have ha := askG_canonical h hr
        simp only [resume_stores]
        split
        · exact lateResult_canonical _ _ _ _ ha
        · exact ha

theorem vergerTurn_canonical (ev : Instr) (gid : Word) (cid : Nat) {act : Guard → State → State}
    (hact : ∀ g s, Canonical s.stores → Canonical (act g s).stores) {s : State} (h : Canonical s.stores) :
    Canonical (vergerTurn ev gid cid act s).stores := by
  unfold vergerTurn
  repeat' split
  all_goals simp [h, hact]

@[simp] theorem askTurn_canonical (q : GAsk) (s : State) (h : Canonical s.stores) : Canonical (askTurn q s).stores := by
  unfold askTurn
  split
  · simp [h]
  · split <;> simp [h]

@[simp] theorem execGuardRequest_canonical (s : State) (h : Canonical s.stores) : CanonicalAfter (execGuardRequest s) := by
  unfold execGuardRequest
  split
  · simp [h]
  · simp [h]
  · split
    · simp [h]
    · split
      · simp [h]
      · refine vergerTurn_canonical _ _ _ (fun g s h => ?_) h
        split
        · rename_i hq
          rw [putGuard_stores, reqG_stores hq]; exact h
        · simp [h]
  · exact h

@[simp] theorem execGuardRequestResend_canonical (s : State) (h : Canonical s.stores) :
    CanonicalAfter (execGuardRequestResend s) := by
  unfold execGuardRequestResend
  split <;> simp [h]

@[simp] theorem execGuardRelease_canonical (s : State) (h : Canonical s.stores) : CanonicalAfter (execGuardRelease s) := by
  unfold execGuardRelease
  split
  · dsimp only
    split
    · simp [h]
    · split
      · simp [h]
      · refine vergerTurn_canonical _ _ _ (fun g s h => ?_) h
        repeat' split
        all_goals simp [h]
  · exact h

@[simp] theorem execGuardForward_canonical (s : State) (h : Canonical s.stores) : CanonicalAfter (execGuardForward s) := by
  simp only [execGuardForward]
  repeat' split
  all_goals simp [h]

@[simp] theorem grantEntry_canonical (d : Grant) (s : State) (h : Canonical s.stores) :
    Canonical (grantEntry d s).stores := by
  have hb : Canonical (d.bytes.foldl (fun t c =>
      memWrite (imageKey s d.req.cid (d.req.entry % 64) + c.1) [c.2] t (1, t.now)) s).stores :=
    foldl_canonical (fun t c h => by simp [h]) _ h
  simp only [grantEntry]
  repeat' split
  all_goals simp [h, hb]

@[simp] theorem execGrantArrival_canonical (s : State) (h : Canonical s.stores) : CanonicalAfter (execGrantArrival s) := by
  unfold execGrantArrival
  split <;> simp [h]

@[simp] theorem execGrantRetry_canonical (s : State) (h : Canonical s.stores) : CanonicalAfter (execGrantRetry s) := by
  unfold execGrantRetry
  split <;> simp [h]

@[simp] theorem execHomeLostAnswer_canonical (s : State) (h : Canonical s.stores) :
    CanonicalAfter (execHomeLostAnswer s) := by
  unfold execHomeLostAnswer
  split <;> simp [h]

@[simp] theorem execReleaseSend_canonical (s : State) (h : Canonical s.stores) : CanonicalAfter (execReleaseSend s) := by
  simp only [execReleaseSend]
  repeat' split
  all_goals simp [h]

@[simp] theorem execWriteBehindComplete_canonical (s : State) (h : Canonical s.stores) :
    CanonicalAfter (execWriteBehindComplete s) := by
  simp only [execWriteBehindComplete]
  repeat' split
  all_goals simp [h]
  exact foldl_canonical (fun s p h => by simp [h]) _ h

@[simp] theorem execWbdone_canonical (s : State) (h : Canonical s.stores) :
    CanonicalAfter (execWbdone s) := by simp [execWbdone, h]

@[simp] theorem execGuardPackageFailure_canonical (s : State) (h : Canonical s.stores) :
    CanonicalAfter (execGuardPackageFailure s) := by
  simp only [execGuardPackageFailure]
  split
  · simp [h]
  · refine foldl_canonical (fun s p h => ?_) _ (by simp [h])
    simp [h]

@[simp] theorem askableM_keeps (gid : Word) : Keeps (askableM gid) := by
  intro s h
  simp only [askableM]
  repeat' split
  all_goals simp [h]

@[simp] theorem execBind_canonical (o : Ops) (s : State) (h : Canonical s.stores) : CanonicalAfter (execBind o s) := by
  unfold execBind
  refine issue_canonical h ?_
  repeat' first | with_reducible refine keeps_bind ?_ fun _ => ?_ | split
  all_goals simp

@[simp] theorem execUnbind_canonical (o : Ops) (s : State) (h : Canonical s.stores) : CanonicalAfter (execUnbind o s) := by
  simp only [execUnbind]
  refine issue_canonical h ?_
  repeat' first | with_reducible refine keeps_bind ?_ fun _ => ?_ | split
  all_goals simp +contextual

@[simp] theorem acquireOp_canonical (excl : Bool) (o : Ops) (s : State) (h : Canonical s.stores) :
    CanonicalAfter (acquireOp excl o s) := by
  unfold acquireOp
  refine issue_canonical h ?_
  dsimp only
  repeat' first
    | with_reducible refine keeps_bind ?_ fun _ => ?_
    | with_reducible refine keeps_if ?_ ?_
    | split
    | dsimp only
  all_goals simp

@[simp] theorem execAcqs_canonical (o : Ops) (s : State) (h : Canonical s.stores) :
    CanonicalAfter (execAcqs o s) := by simp [execAcqs, h]

@[simp] theorem execAcqx_canonical (o : Ops) (s : State) (h : Canonical s.stores) :
    CanonicalAfter (execAcqx o s) := by simp [execAcqx, h]

@[simp] theorem execRel_canonical (o : Ops) (s : State) (h : Canonical s.stores) : CanonicalAfter (execRel o s) := by
  simp only [execRel]
  refine issue_canonical h ?_
  repeat' first | with_reducible refine keeps_bind ?_ fun _ => ?_ | split
  all_goals simp +contextual

@[simp] theorem execGstat_canonical (o : Ops) (s : State) (h : Canonical s.stores) : CanonicalAfter (execGstat o s) := by
  unfold execGstat
  refine issue_canonical h ?_
  repeat' first | with_reducible refine keeps_bind ?_ fun _ => ?_ | split
  all_goals simp

@[simp] theorem execGstatVerger_canonical (o : Ops) (s : State) (h : Canonical s.stores) :
    CanonicalAfter (execGstatVerger o s) := by
  unfold execGstatVerger
  refine issue_canonical h ?_
  repeat' first | with_reducible refine keeps_bind ?_ fun _ => ?_ | split
  all_goals simp

@[simp] theorem execGnew_canonical (o : Ops) (s : State) (h : Canonical s.stores) : CanonicalAfter (execGnew o s) := by
  unfold execGnew
  refine issue_canonical h ?_
  repeat' first | with_reducible refine keeps_bind ?_ fun _ => ?_ | split
  all_goals simp

@[simp] theorem execGfree_canonical (o : Ops) (s : State) (h : Canonical s.stores) : CanonicalAfter (execGfree o s) := by
  unfold execGfree
  refine issue_canonical h ?_
  repeat' first | with_reducible refine keeps_bind ?_ fun _ => ?_ | split
  all_goals simp

/-! #### The definitions of `Sys2Proof/Machine/Memory.lean` -/

@[simp] theorem loadForm_keeps (p : Word) (n : Nat) (e : Ext1) (convOk : Bool) : Keeps (loadForm p n e convOk) := by
  simp only [loadForm]
  repeat' first | with_reducible refine keeps_bind ?_ fun _ => ?_ | split
  all_goals simp +contextual

@[simp] theorem loadOp_canonical (n : Nat) (e : Ext1) (convOk acq : Bool) (o : Ops) (s : State) (h : Canonical s.stores) :
    CanonicalAfter (loadOp n e convOk acq o s) := by
  unfold loadOp
  refine issue_canonical h ?_
  repeat' first | with_reducible refine keeps_bind ?_ fun _ => ?_ | split
  all_goals simp

@[simp] theorem execLdb_canonical (o : Ops) (s : State) (h : Canonical s.stores) :
    CanonicalAfter (execLdb o s) := by simp [execLdb, h]

@[simp] theorem execLdbu_canonical (o : Ops) (s : State) (h : Canonical s.stores) :
    CanonicalAfter (execLdbu o s) := by simp [execLdbu, h]

@[simp] theorem execLdh_canonical (o : Ops) (s : State) (h : Canonical s.stores) :
    CanonicalAfter (execLdh o s) := by simp [execLdh, h]

@[simp] theorem execLdhu_canonical (o : Ops) (s : State) (h : Canonical s.stores) :
    CanonicalAfter (execLdhu o s) := by simp [execLdhu, h]

@[simp] theorem execLdw_canonical (o : Ops) (s : State) (h : Canonical s.stores) :
    CanonicalAfter (execLdw o s) := by simp [execLdw, h]

@[simp] theorem execLdwu_canonical (o : Ops) (s : State) (h : Canonical s.stores) :
    CanonicalAfter (execLdwu o s) := by simp [execLdwu, h]

@[simp] theorem execLdd_canonical (o : Ops) (s : State) (h : Canonical s.stores) :
    CanonicalAfter (execLdd o s) := by simp [execLdd, h]

@[simp] theorem execLdacq_canonical (o : Ops) (s : State) (h : Canonical s.stores) :
    CanonicalAfter (execLdacq o s) := by simp [execLdacq, h]

@[simp] theorem storeOp_canonical (n : Nat) (convOk rel : Bool) (o : Ops) (s : State) (h : Canonical s.stores) :
    CanonicalAfter (storeOp n convOk rel o s) := by
  unfold storeOp
  refine issue_canonical h ?_
  repeat' first | with_reducible refine keeps_bind ?_ fun _ => ?_ | split
  all_goals simp

@[simp] theorem execStb_canonical (o : Ops) (s : State) (h : Canonical s.stores) :
    CanonicalAfter (execStb o s) := by simp [execStb, h]

@[simp] theorem execSth_canonical (o : Ops) (s : State) (h : Canonical s.stores) :
    CanonicalAfter (execSth o s) := by simp [execSth, h]

@[simp] theorem execStw_canonical (o : Ops) (s : State) (h : Canonical s.stores) :
    CanonicalAfter (execStw o s) := by simp [execStw, h]

@[simp] theorem execStd_canonical (o : Ops) (s : State) (h : Canonical s.stores) :
    CanonicalAfter (execStd o s) := by simp [execStd, h]

@[simp] theorem execStrel_canonical (o : Ops) (s : State) (h : Canonical s.stores) :
    CanonicalAfter (execStrel o s) := by simp [execStrel, h]

@[simp] theorem execFence_canonical (o : Ops) (s : State) (h : Canonical s.stores) : CanonicalAfter (execFence o s) := by
  simp only [execFence]
  refine issue_canonical h ?_
  repeat' first | with_reducible refine keeps_bind ?_ fun _ => ?_ | split
  all_goals simp +contextual

@[simp] theorem execPadd_canonical (o : Ops) (s : State) (h : Canonical s.stores) : CanonicalAfter (execPadd o s) := by
  unfold execPadd
  refine issue_canonical h ?_
  repeat' first | with_reducible refine keeps_bind ?_ fun _ => ?_ | split
  all_goals simp

@[simp] theorem execPtag_canonical (o : Ops) (s : State) (h : Canonical s.stores) : CanonicalAfter (execPtag o s) := by
  unfold execPtag
  refine issue_canonical h ?_
  repeat' first | with_reducible refine keeps_bind ?_ fun _ => ?_ | split
  all_goals simp

@[simp] theorem execPfmt_canonical (o : Ops) (s : State) (h : Canonical s.stores) : CanonicalAfter (execPfmt o s) := by
  unfold execPfmt
  refine issue_canonical h ?_
  repeat' first | with_reducible refine keeps_bind ?_ fun _ => ?_ | split
  all_goals simp

@[simp] theorem execPspan_canonical (o : Ops) (s : State) (h : Canonical s.stores) : CanonicalAfter (execPspan o s) := by
  unfold execPspan
  refine issue_canonical h ?_
  repeat' first | with_reducible refine keeps_bind ?_ fun _ => ?_ | split
  all_goals simp

/-! #### The definitions of `Sys2Proof/Machine/Tasks.lean` -/

@[simp] theorem queueM_keeps (w : Word) : Keeps (queueM w) := by
  unfold queueM
  repeat' first | with_reducible refine keeps_bind ?_ fun _ => ?_ | split
  all_goals simp

@[simp] theorem pushQ_canonical (qk : Nat) (ws : List Word) (ready : Nat) (s : State) (h : Canonical s.stores) :
    Canonical (pushQ qk ws ready s).stores := by
  simp only [pushQ]
  repeat' split
  all_goals simp [h]

@[simp] theorem execTqRefill_canonical (s : State) (h : Canonical s.stores) : CanonicalAfter (execTqRefill s) := by
  simp only [execTqRefill]
  repeat' split
  all_goals simp [h]

@[simp] theorem releaseM_keeps  : Keeps (releaseM ) := by
  unfold releaseM
  repeat' first | with_reducible refine keeps_bind ?_ fun _ => ?_ | split
  all_goals simp

@[simp] theorem taskRecM_keeps (o : Ops) (p : Word) : Keeps (taskRecM o p) := by
  unfold taskRecM
  repeat' first | with_reducible refine keeps_bind ?_ fun _ => ?_ | split
  all_goals simp

@[simp] theorem execTqput_canonical (o : Ops) (s : State) (h : Canonical s.stores) : CanonicalAfter (execTqput o s) := by
  simp only [execTqput]
  refine issue_canonical h ?_
  repeat' first
    | with_reducible refine keeps_ask_bind fun _ _ => ?_
    | with_reducible refine keeps_bind ?_ fun _ => ?_
    | with_reducible refine keeps_if ?_ ?_
    | split
    | dsimp only
  all_goals simp +contextual [*]

@[simp] theorem execTqget_canonical (o : Ops) (s : State) (h : Canonical s.stores) : CanonicalAfter (execTqget o s) := by
  simp only [execTqget]
  refine issue_canonical h ?_
  repeat' first | with_reducible refine keeps_bind ?_ fun _ => ?_ | split
  all_goals simp +contextual

@[simp] theorem counterM_keeps (k : Word) : Keeps (counterM k) := by
  unfold counterM
  repeat' first | with_reducible refine keeps_bind ?_ fun _ => ?_ | split
  all_goals simp

theorem atCounter_canonical (ev : Instr) {act : Nat → Nat → Nat → State → State}
    (hact : ∀ own a ten s, Canonical s.stores → Canonical (act own a ten s).stores) {s : State} (h : Canonical s.stores) :
    CanonicalAfter (atCounter ev act s) := by
  simp only [atCounter]
  repeat' split
  all_goals simp [h, hact]

@[simp] theorem execTdset_canonical (o : Ops) (s : State) (h : Canonical s.stores) : CanonicalAfter (execTdset o s) := by
  unfold execTdset
  refine issue_canonical h ?_
  repeat' first | with_reducible refine keeps_bind ?_ fun _ => ?_ | split
  all_goals simp

@[simp] theorem execTdsetApply_canonical (s : State) (h : Canonical s.stores) : CanonicalAfter (execTdsetApply s) := by
  unfold execTdsetApply
  exact atCounter_canonical _ (fun own a ten s h => by simp [h]) h

@[simp] theorem execTdbind_canonical (o : Ops) (s : State) (h : Canonical s.stores) : CanonicalAfter (execTdbind o s) := by
  unfold execTdbind
  refine issue_canonical h ?_
  repeat' first | with_reducible refine keeps_bind ?_ fun _ => ?_ | split
  all_goals simp

@[simp] theorem execTdbindApply_canonical (s : State) (h : Canonical s.stores) : CanonicalAfter (execTdbindApply s) := by
  unfold execTdbindApply
  dsimp only
  split
  · exact atCounter_canonical _ (fun own a ten s h => by simp [h]) h
  · exact h

@[simp] theorem execTdec_canonical (o : Ops) (s : State) (h : Canonical s.stores) : CanonicalAfter (execTdec o s) := by
  unfold execTdec
  refine issue_canonical h ?_
  repeat' first | with_reducible refine keeps_bind ?_ fun _ => ?_ | split
  all_goals simp

@[simp] theorem execTdecApply_canonical (s : State) (h : Canonical s.stores) : CanonicalAfter (execTdecApply s) := by
  unfold execTdecApply
  dsimp only
  split
  · simp [h]
  · split
    · simp [h]
    · refine atCounter_canonical _ (fun own a ten s h => ?_) h
      simp [h]

@[simp] theorem execReleasedRecordPush_canonical (s : State) (h : Canonical s.stores) :
    CanonicalAfter (execReleasedRecordPush s) := by
  simp only [execReleasedRecordPush]
  repeat' split
  all_goals simp [h]

@[simp] theorem execLaunch_canonical (o : Ops) (s : State) (h : Canonical s.stores) : CanonicalAfter (execLaunch o s) := by
  simp only [execLaunch]
  refine issue_canonical h ?_
  repeat' first
    | with_reducible refine keeps_ask_bind fun _ _ => ?_
    | with_reducible refine keeps_bind ?_ fun _ => ?_
    | with_reducible refine keeps_if ?_ ?_
    | split
    | dsimp only
  all_goals simp +contextual [*]

/-! #### The definitions of `Sys2Proof/Machine/Blocks.lean` -/

@[simp] theorem blockM_keeps (w : Word) (write : Bool) : Keeps (blockM w write) := by
  unfold blockM
  repeat' first | with_reducible refine keeps_bind ?_ fun _ => ?_ | split
  all_goals simp

@[simp] theorem execSysrdB_canonical (o : Ops) (s : State) (h : Canonical s.stores) : CanonicalAfter (execSysrdB o s) := by
  simp only [execSysrdB]
  refine issue_canonical h ?_
  repeat' first | with_reducible refine keeps_bind ?_ fun _ => ?_ | split
  all_goals simp +contextual

@[simp] theorem execSyswrB_canonical (o : Ops) (s : State) (h : Canonical s.stores) : CanonicalAfter (execSyswrB o s) := by
  unfold execSyswrB
  refine issue_canonical h ?_
  repeat' first
    | with_reducible refine keeps_bind ?_ fun _ => ?_
    | with_reducible refine keeps_if ?_ ?_
  all_goals simp

@[simp] theorem execTduQbaseWrite_canonical (s : State) (h : Canonical s.stores) :
    CanonicalAfter (execTduQbaseWrite s) := by simp [execTduQbaseWrite, h]

@[simp] theorem execTduDcbaseWrite_canonical (s : State) (h : Canonical s.stores) :
    CanonicalAfter (execTduDcbaseWrite s) := by simp [execTduDcbaseWrite, h]

@[simp] theorem execTduTrbaseWrite_canonical (s : State) (h : Canonical s.stores) :
    CanonicalAfter (execTduTrbaseWrite s) := by simp [execTduTrbaseWrite, h]

@[simp] theorem execTrcPop_canonical (s : State) (h : Canonical s.stores) :
    CanonicalAfter (execTrcPop s) := by simp [execTrcPop, h]

@[simp] theorem execTrcLostRead_canonical (s : State) (h : Canonical s.stores) :
    CanonicalAfter (execTrcLostRead s) := by simp [execTrcLostRead, h]

@[simp] theorem execFerPstatRead_canonical (s : State) (h : Canonical s.stores) :
    CanonicalAfter (execFerPstatRead s) := by simp [execFerPstatRead, h]

@[simp] theorem execFerEvlostRead_canonical (s : State) (h : Canonical s.stores) :
    CanonicalAfter (execFerEvlostRead s) := by simp [execFerEvlostRead, h]

@[simp] theorem execTduStepstRead_canonical (s : State) (h : Canonical s.stores) :
    CanonicalAfter (execTduStepstRead s) := by simp [execTduStepstRead, h]

/-! #### The definitions of `Sys2Proof/Machine/Matrix.lean` -/

@[simp] theorem execMxcap_canonical (o : Ops) (s : State) (h : Canonical s.stores) : CanonicalAfter (execMxcap o s) := by
  unfold execMxcap
  refine issue_canonical h ?_
  repeat' first | with_reducible refine keeps_bind ?_ fun _ => ?_ | split
  all_goals simp

@[simp] theorem execMxcapGet_canonical (o : Ops) (s : State) (h : Canonical s.stores) :
    CanonicalAfter (execMxcapGet o s) := by
  unfold execMxcapGet
  refine issue_canonical h ?_
  repeat' first | with_reducible refine keeps_bind ?_ fun _ => ?_ | split
  all_goals simp

@[simp] theorem readSpanM_keeps (hn dp tid : Nat) (p : Word) (lo : Int) (n : Nat) (stride : Int) :
    Keeps (readSpanM hn dp tid p lo n stride) := by
  simp only [readSpanM]
  repeat' first | with_reducible refine keeps_bind ?_ fun _ => ?_ | split
  all_goals simp +contextual

@[simp] theorem writeRowsM_keeps (tid : Nat) (p : Word) (va stride : Int) (n : Nat) (r : Num.FmtRow) (k i : Nat) :
    Keeps (writeRowsM tid p va stride n r k i) := by
  induction k generalizing i with
  | zero => exact keeps_pure ()
  | succ k ih =>
    simp only [writeRowsM]
    repeat' first
      | with_reducible refine keeps_bind ?_ fun _ => ?_
      | with_reducible refine keeps_if ?_ ?_
      | split
    all_goals simp [ih]

@[simp] theorem matrixOp_canonical (epi : Bool) (o : Ops) (s : State) (h : Canonical s.stores) :
    CanonicalAfter (matrixOp epi o s) := by
  simp only [matrixOp]
  refine issue_canonical h ?_
  repeat' first | with_reducible refine keeps_bind ?_ fun _ => ?_ | split
  all_goals simp +contextual

@[simp] theorem execMxc_canonical (o : Ops) (s : State) (h : Canonical s.stores) :
    CanonicalAfter (execMxc o s) := by simp [execMxc, h]

@[simp] theorem execEpi_canonical (o : Ops) (s : State) (h : Canonical s.stores) :
    CanonicalAfter (execEpi o s) := by simp [execEpi, h]

@[simp] theorem execMatrixNoticeArrival_canonical (s : State) (h : Canonical s.stores) :
    CanonicalAfter (execMatrixNoticeArrival s) := by
  simp only [execMatrixNoticeArrival]
  repeat' split
  all_goals simp [h]

@[simp] theorem execMatrixCommandArrival_canonical (s : State) (h : Canonical s.stores) :
    CanonicalAfter (execMatrixCommandArrival s) := by
  simp only [execMatrixCommandArrival]
  repeat' split
  all_goals simp [h]

@[simp] theorem execMatrixCommandResend_canonical (s : State) (h : Canonical s.stores) :
    CanonicalAfter (execMatrixCommandResend s) := by
  unfold execMatrixCommandResend
  split <;> simp [h]

@[simp] theorem execShadowEntry_canonical (s : State) (h : Canonical s.stores) : CanonicalAfter (execShadowEntry s) := by
  simp only [execShadowEntry]
  repeat' split
  all_goals simp [h]

@[simp] theorem mStart_canonical (s : State) (h : Canonical s.stores) : CanonicalAfter (mStart s) := by
  simp only [mStart]
  repeat' split
  all_goals simp [h]
  all_goals exact foldl_canonical (fun s k h => by simp [h]) _ (by simp [h])

@[simp] theorem execMode_canonical (s : State) (h : Canonical s.stores) :
    CanonicalAfter (execMode s) := by simp [execMode, h]

@[simp] theorem execLoadb_canonical (s : State) (h : Canonical s.stores) :
    CanonicalAfter (execLoadb s) := by simp [execLoadb, h]

@[simp] theorem execRun_canonical (s : State) (h : Canonical s.stores) : CanonicalAfter (execRun s) := by
  unfold execRun
  split <;> simp [h]

@[simp] theorem execClear_canonical (s : State) (h : Canonical s.stores) :
    CanonicalAfter (execClear s) := by simp [execClear, h]

@[simp] theorem execMatrixCommandComplete_canonical (s : State) (h : Canonical s.stores) :
    CanonicalAfter (execMatrixCommandComplete s) := by
  simp only [execMatrixCommandComplete]
  repeat' split
  all_goals simp [h]

@[simp] theorem execMacroScrub_canonical (s : State) (h : Canonical s.stores) :
    CanonicalAfter (execMacroScrub s) := by simp [execMacroScrub, h]

@[simp] theorem eWrite_canonical (id : Nat) (c : Cmd) (va : Nat) (bs : List Byte) (s : State) (h : Canonical s.stores) :
    Canonical (eWrite id c va bs s).stores := by
  unfold eWrite
  split <;> simp [h]

@[simp] theorem execEpiStart_canonical (s : State) (h : Canonical s.stores) : CanonicalAfter (execEpiStart s) := by
  unfold execEpiStart
  dsimp only
  split
  · exact h
  · repeat' first | with_reducible refine canonicalAfter_if ?_ ?_ | split
    all_goals simp [h]

@[simp] theorem execEpiComplete_canonical (s : State) (h : Canonical s.stores) : CanonicalAfter (execEpiComplete s) := by
  simp only [execEpiComplete]
  repeat' split
  all_goals simp [h]

@[simp] theorem execEpiSwitchTimeout_canonical (s : State) (h : Canonical s.stores) :
    CanonicalAfter (execEpiSwitchTimeout s) := by
  simp only [execEpiSwitchTimeout]
  repeat' split
  all_goals simp [h]

/-! #### The definitions of `Sys2Proof/Machine/Collective.lean` -/

@[simp] theorem execCnPartial_canonical (s : State) (h : Canonical s.stores) : CanonicalAfter (execCnPartial s) := by
  unfold execCnPartial
  split <;> simp [h]

@[simp] theorem execCnInstanceComplete_canonical (s : State) (h : Canonical s.stores) :
    CanonicalAfter (execCnInstanceComplete s) := by simp [execCnInstanceComplete, h]

@[simp] theorem a2aDone_canonical (id : Nat) (val : Word) (st : Nat) (s : State) (h : Canonical s.stores) :
    Canonical (a2aDone id val st s).stores := by
  unfold a2aDone
  split <;> simp [h]

@[simp] theorem cnDeliver_canonical (g seq cid : Nat) (w : CnWait) (val : Word) (st : Nat) (s : State)
    (h : Canonical s.stores) :
    Canonical (cnDeliver g seq cid w val st s).1.stores := by
  simp only [cnDeliver]
  repeat' split
  all_goals simp [h]

@[simp] theorem execCnResultArrival_canonical (s : State) (h : Canonical s.stores) :
    CanonicalAfter (execCnResultArrival s) := by
  unfold execCnResultArrival
  dsimp only
  split
  · split
    · split
      · simp [h]
      · refine foldl_canonical (fun s p h => ?_) _ (by simp [h])
        split
        · simp [h]
        · split <;> simp [h]
    · split
      · exact h
      · simp [h]
  · exact h

@[simp] theorem execCnResultUnblock_canonical (s : State) (h : Canonical s.stores) :
    CanonicalAfter (execCnResultUnblock s) := by
  unfold execCnResultUnblock
  split <;> simp [h]

@[simp] theorem execFerArrival_canonical (s : State) (h : Canonical s.stores) : CanonicalAfter (execFerArrival s) := by
  unfold execFerArrival
  split <;> simp [h]

@[simp] theorem execFerWaitRelease_canonical (s : State) (h : Canonical s.stores) :
    CanonicalAfter (execFerWaitRelease s) := by
  unfold execFerWaitRelease
  split <;> simp [h]

@[simp] theorem execFerSlotTimeout_canonical (s : State) (h : Canonical s.stores) :
    CanonicalAfter (execFerSlotTimeout s) := by simp [execFerSlotTimeout, h]

@[simp] theorem execFerParentResult_canonical (s : State) (h : Canonical s.stores) :
    CanonicalAfter (execFerParentResult s) := by
  simp only [execFerParentResult]
  repeat' split
  all_goals simp [h]

@[simp] theorem execFerHaltNotice_canonical (s : State) (h : Canonical s.stores) :
    CanonicalAfter (execFerHaltNotice s) := by simp [execFerHaltNotice, h]

@[simp] theorem execFerResumeNotice_canonical (s : State) (h : Canonical s.stores) :
    CanonicalAfter (execFerResumeNotice s) := by simp [execFerResumeNotice, h]

@[simp] theorem groupM_keeps (g : Nat) (scan : Bool) : Keeps (groupM g scan) := by
  unfold groupM
  repeat' first | with_reducible refine keeps_bind ?_ fun _ => ?_ | split
  all_goals simp

@[simp] theorem groupImm_keeps (o : Ops) : Keeps (groupImm o) := by
  unfold groupImm
  repeat' first | with_reducible refine keeps_bind ?_ fun _ => ?_ | split
  all_goals simp

@[simp] theorem execGcont_canonical (o : Ops) (s : State) (h : Canonical s.stores) : CanonicalAfter (execGcont o s) := by
  unfold execGcont
  refine issue_canonical h ?_
  repeat' first | with_reducible refine keeps_bind ?_ fun _ => ?_ | split
  all_goals simp

@[simp] theorem execGscan_canonical (o : Ops) (s : State) (h : Canonical s.stores) : CanonicalAfter (execGscan o s) := by
  unfold execGscan
  refine issue_canonical h ?_
  repeat' first | with_reducible refine keeps_bind ?_ fun _ => ?_ | split
  all_goals simp

@[simp] theorem execA2a_canonical (o : Ops) (s : State) (h : Canonical s.stores) : CanonicalAfter (execA2a o s) := by
  simp only [execA2a]
  refine issue_canonical h ?_
  repeat' first
    | with_reducible refine keeps_ask_bind fun _ _ => ?_
    | with_reducible refine keeps_bind ?_ fun _ => ?_
    | with_reducible refine keeps_if ?_ ?_
    | split
    | dsimp only
  all_goals simp +contextual [*, spanBy_keeps rangeMatchM_keeps]

@[simp] theorem execA2aParcelWrite_canonical (s : State) (h : Canonical s.stores) :
    CanonicalAfter (execA2aParcelWrite s) := by
  simp only [execA2aParcelWrite]
  repeat' split
  all_goals simp [h]

@[simp] theorem execA2aContribute_canonical (s : State) (h : Canonical s.stores) : CanonicalAfter (execA2aContribute s) := by
  simp only [execA2aContribute]
  repeat' split
  all_goals simp [h]

/-! #### The definitions of `Sys2Proof/Machine/Control.lean` -/

@[simp] theorem execUdf_canonical (o : Ops) (s : State) (h : Canonical s.stores) : CanonicalAfter (execUdf o s) := by
  unfold execUdf
  exact issue_canonical h (by simp)

@[simp] theorem branch_canonical (cond : Word → Word → Bool) (o : Ops) (s : State) (h : Canonical s.stores) :
    CanonicalAfter (branch cond o s) := by
  unfold branch
  refine issue_canonical h ?_
  repeat' first | with_reducible refine keeps_bind ?_ fun _ => ?_ | split
  all_goals simp

@[simp] theorem execBeq_canonical (o : Ops) (s : State) (h : Canonical s.stores) :
    CanonicalAfter (execBeq o s) := by simp [execBeq, h]

@[simp] theorem execBne_canonical (o : Ops) (s : State) (h : Canonical s.stores) :
    CanonicalAfter (execBne o s) := by simp [execBne, h]

@[simp] theorem execBlt_canonical (o : Ops) (s : State) (h : Canonical s.stores) :
    CanonicalAfter (execBlt o s) := by simp [execBlt, h]

@[simp] theorem execBge_canonical (o : Ops) (s : State) (h : Canonical s.stores) :
    CanonicalAfter (execBge o s) := by simp [execBge, h]

@[simp] theorem execBltu_canonical (o : Ops) (s : State) (h : Canonical s.stores) :
    CanonicalAfter (execBltu o s) := by simp [execBltu, h]

@[simp] theorem execBgeu_canonical (o : Ops) (s : State) (h : Canonical s.stores) :
    CanonicalAfter (execBgeu o s) := by simp [execBgeu, h]

@[simp] theorem execJ_canonical (o : Ops) (s : State) (h : Canonical s.stores) : CanonicalAfter (execJ o s) := by
  unfold execJ
  exact issue_canonical h (by simp)

@[simp] theorem execJal_canonical (o : Ops) (s : State) (h : Canonical s.stores) : CanonicalAfter (execJal o s) := by
  unfold execJal
  refine issue_canonical h ?_
  repeat' first | with_reducible refine keeps_bind ?_ fun _ => ?_ | split
  all_goals simp

@[simp] theorem execJalr_canonical (o : Ops) (s : State) (h : Canonical s.stores) : CanonicalAfter (execJalr o s) := by
  unfold execJalr
  refine issue_canonical h ?_
  repeat' first | with_reducible refine keeps_bind ?_ fun _ => ?_ | split
  all_goals simp

@[simp] theorem setLoop_keeps (lvl cnt st e : Nat) : Keeps (setLoop lvl cnt st e) := by
  refine keeps_bind (keeps_askM _) fun s => ?_
  dsimp only
  repeat' first
    | with_reducible refine keeps_bind ?_ fun _ => ?_
    | with_reducible refine keeps_if ?_ ?_
    | split
  all_goals simp

@[simp] theorem execLoop_canonical (o : Ops) (s : State) (h : Canonical s.stores) : CanonicalAfter (execLoop o s) := by
  unfold execLoop
  refine issue_canonical h ?_
  repeat' first | with_reducible refine keeps_bind ?_ fun _ => ?_ | split
  all_goals simp

@[simp] theorem execLoopi_canonical (o : Ops) (s : State) (h : Canonical s.stores) : CanonicalAfter (execLoopi o s) := by
  unfold execLoopi
  refine issue_canonical h ?_
  repeat' first | with_reducible refine keeps_bind ?_ fun _ => ?_ | split
  all_goals simp

@[simp] theorem execPushb_canonical (o : Ops) (s : State) (h : Canonical s.stores) : CanonicalAfter (execPushb o s) := by
  simp only [execPushb]
  refine issue_canonical h ?_
  repeat' first | with_reducible refine keeps_bind ?_ fun _ => ?_ | split
  all_goals simp +contextual

@[simp] theorem execBrq_canonical (o : Ops) (s : State) (h : Canonical s.stores) : CanonicalAfter (execBrq o s) := by
  simp only [execBrq]
  refine issue_canonical h ?_
  repeat' first | with_reducible refine keeps_bind ?_ fun _ => ?_ | split
  all_goals simp +contextual

/-! #### The definitions of `Sys2Proof/Machine/Strands.lean` -/

@[simp] theorem startOp_canonical (pair : Bool) (o : Ops) (s : State) (h : Canonical s.stores) :
    CanonicalAfter (startOp pair o s) := by
  simp only [startOp]
  refine issue_canonical h ?_
  repeat' first
    | with_reducible refine keeps_ask_bind fun _ _ => ?_
    | with_reducible refine keeps_bind ?_ fun _ => ?_
    | with_reducible refine keeps_if ?_ ?_
    | split
    | dsimp only
  all_goals simp +contextual [*]

@[simp] theorem execStart_canonical (o : Ops) (s : State) (h : Canonical s.stores) :
    CanonicalAfter (execStart o s) := by simp [execStart, h]

@[simp] theorem execStartp_canonical (o : Ops) (s : State) (h : Canonical s.stores) :
    CanonicalAfter (execStartp o s) := by simp [execStartp, h]

@[simp] theorem execStop_canonical (o : Ops) (s : State) (h : Canonical s.stores) : CanonicalAfter (execStop o s) := by
  simp only [execStop]
  refine issue_canonical h ?_
  repeat' first
    | with_reducible refine keeps_ask_bind fun _ _ => ?_
    | with_reducible refine keeps_bind ?_ fun _ => ?_
    | with_reducible refine keeps_if ?_ ?_
    | split
    | dsimp only
  all_goals simp +contextual [*]

@[simp] theorem execJoins_canonical (o : Ops) (s : State) (h : Canonical s.stores) : CanonicalAfter (execJoins o s) := by
  simp only [execJoins]
  refine issue_canonical h ?_
  repeat' first | with_reducible refine keeps_bind ?_ fun _ => ?_ | split
  all_goals simp +contextual

@[simp] theorem execLive_canonical (o : Ops) (s : State) (h : Canonical s.stores) : CanonicalAfter (execLive o s) := by
  unfold execLive
  refine issue_canonical h ?_
  repeat' first | with_reducible refine keeps_bind ?_ fun _ => ?_ | split
  all_goals simp

@[simp] theorem execLiveGet_canonical (o : Ops) (s : State) (h : Canonical s.stores) : CanonicalAfter (execLiveGet o s) := by
  unfold execLiveGet
  refine issue_canonical h ?_
  repeat' first | with_reducible refine keeps_bind ?_ fun _ => ?_ | split
  all_goals simp

@[simp] theorem execYield_canonical (o : Ops) (s : State) (h : Canonical s.stores) : CanonicalAfter (execYield o s) := by
  unfold execYield
  refine issue_canonical h ?_
  repeat' first | with_reducible refine keeps_bind ?_ fun _ => ?_ | split
  all_goals simp

/-! #### The definitions of `Sys2Proof/Machine/System.lean` -/

@[simp] theorem execSysrd_canonical (o : Ops) (s : State) (h : Canonical s.stores) : CanonicalAfter (execSysrd o s) := by
  unfold execSysrd
  refine issue_canonical h ?_
  repeat' first | with_reducible refine keeps_bind ?_ fun _ => ?_ | split
  all_goals simp

@[simp] theorem execOrphstatRead_canonical (s : State) (h : Canonical s.stores) :
    CanonicalAfter (execOrphstatRead s) := by simp [execOrphstatRead, h]

@[simp] theorem execRegisterWrite_canonical (s : State) (h : Canonical s.stores) :
    CanonicalAfter (execRegisterWrite s) := by simp [execRegisterWrite, h]

@[simp] theorem execSyswr_canonical (o : Ops) (s : State) (h : Canonical s.stores) : CanonicalAfter (execSyswr o s) := by
  unfold execSyswr
  refine issue_canonical h ?_
  repeat' first | with_reducible refine keeps_bind ?_ fun _ => ?_ | split
  all_goals simp

@[simp] theorem execTstatWrite_canonical (s : State) (h : Canonical s.stores) :
    CanonicalAfter (execTstatWrite s) := by simp [execTstatWrite, h]

@[simp] theorem execOrphstatWrite_canonical (s : State) (h : Canonical s.stores) :
    CanonicalAfter (execOrphstatWrite s) := by simp [execOrphstatWrite, h]

@[simp] theorem execPartitionRegisterPropagate_canonical (s : State) (h : Canonical s.stores) :
    CanonicalAfter (execPartitionRegisterPropagate s) := by simp [execPartitionRegisterPropagate, h]

@[simp] theorem execSliceWrite_canonical (s : State) (h : Canonical s.stores) :
    CanonicalAfter (execSliceWrite s) := by simp [execSliceWrite, h]

@[simp] theorem execSnapctlWrite_canonical (s : State) (h : Canonical s.stores) :
    CanonicalAfter (execSnapctlWrite s) := by simp [execSnapctlWrite, h]

@[simp] theorem tretM_keeps (o : Ops) (act : Nat) : Keeps (tretM o act) := by
  unfold tretM
  repeat' first | with_reducible refine keeps_bind ?_ fun _ => ?_ | split
  all_goals simp

@[simp] theorem execTret_canonical (o : Ops) (s : State) (h : Canonical s.stores) : CanonicalAfter (execTret o s) := by
  unfold execTret
  refine issue_canonical h ?_
  repeat' first | with_reducible refine keeps_bind ?_ fun _ => ?_ | split
  all_goals simp

@[simp] theorem execTretSkip_canonical (o : Ops) (s : State) (h : Canonical s.stores) :
    CanonicalAfter (execTretSkip o s) := by
  simp only [execTretSkip]
  refine issue_canonical h ?_
  repeat' first
    | with_reducible refine keeps_ask_bind fun _ _ => ?_
    | with_reducible refine keeps_bind ?_ fun _ => ?_
    | with_reducible refine keeps_if ?_ ?_
    | split
    | dsimp only
  all_goals simp +contextual [*]

@[simp] theorem execTretLeave_canonical (o : Ops) (s : State) (h : Canonical s.stores) :
    CanonicalAfter (execTretLeave o s) := by
  unfold execTretLeave
  refine issue_canonical h ?_
  repeat' first | with_reducible refine keeps_bind ?_ fun _ => ?_ | split
  all_goals simp

@[simp] theorem execTakeTrap_canonical (s : State) (h : Canonical s.stores) :
    CanonicalAfter (execTakeTrap s) := by simp [execTakeTrap, h]

theorem againM_keeps {α : Type} {s : State} (hs : Canonical s.stores) : Keeps (againM s : M α) := fun _ _ => hs

@[simp] theorem execTretKill_canonical (o : Ops) (s : State) (h : Canonical s.stores) :
    CanonicalAfter (execTretKill o s) := by
  unfold execTretKill
  refine issue_canonical h (keeps_bind (tretM_keeps o 3) fun n => keeps_ask_bind fun s hs => ?_)
  dsimp only
  split
  · simp
  · have hk : Canonical (killing (cidOf s.cur.sid * 16 + n) s).1.stores := by simpa using hs
    split
    · next e =>
      rw [e] at hk
      simp [hk]
    · next e => exact againM_keeps (by simpa [e] using hk)

@[simp] theorem killsM_keeps (o : Ops) : Keeps (killsM o) := by
  unfold killsM
  repeat' first | with_reducible refine keeps_bind ?_ fun _ => ?_ | split
  all_goals simp

@[simp] theorem execKills_canonical (o : Ops) (s : State) (h : Canonical s.stores) : CanonicalAfter (execKills o s) := by
  unfold execKills
  refine issue_canonical h (keeps_bind (killsM_keeps o) fun p => ?_)
  dsimp only
  split
  · exact keeps_bind (lastUseB_keeps o) fun _ => writeResult_keeps _ _ _
  · refine keeps_ask_bind fun s hs => ?_
    have hk : Canonical (killing p.1 s).1.stores := by simpa using hs
    split
    · next e => exact keeps_bind (fun _ _ => by simpa [e] using hk) fun _ =>
        keeps_bind (lastUseB_keeps o) fun _ => writeResult_keeps _ _ _
    · next e => exact againM_keeps (by simpa [e] using hk)

@[simp] theorem execKillsResume_canonical (o : Ops) (s : State) (h : Canonical s.stores) :
    CanonicalAfter (execKillsResume o s) := by
  simp only [execKillsResume]
  refine issue_canonical h ?_
  repeat' first | with_reducible refine keeps_bind ?_ fun _ => ?_ | split
  all_goals simp +contextual

@[simp] theorem execSvc_canonical (o : Ops) (s : State) (h : Canonical s.stores) : CanonicalAfter (execSvc o s) := by
  unfold execSvc
  exact issue_canonical h (by simp)

@[simp] theorem execBrk_canonical (o : Ops) (s : State) (h : Canonical s.stores) : CanonicalAfter (execBrk o s) := by
  unfold execBrk
  exact issue_canonical h (by simp)

@[simp] theorem execRtset_canonical (o : Ops) (s : State) (h : Canonical s.stores) : CanonicalAfter (execRtset o s) := by
  simp only [execRtset]
  refine issue_canonical h ?_
  repeat' first | with_reducible refine keeps_bind ?_ fun _ => ?_ | split
  all_goals simp +contextual

@[simp] theorem execRtget_canonical (o : Ops) (s : State) (h : Canonical s.stores) : CanonicalAfter (execRtget o s) := by
  unfold execRtget
  refine issue_canonical h ?_
  repeat' first | with_reducible refine keeps_bind ?_ fun _ => ?_ | split
  all_goals simp

@[simp] theorem ctxM_keeps (o : Ops) : Keeps (ctxM o) := by
  unfold ctxM
  repeat' first | with_reducible refine keeps_bind ?_ fun _ => ?_ | split
  all_goals simp

@[simp] theorem execCtxsave_canonical (o : Ops) (s : State) (h : Canonical s.stores) : CanonicalAfter (execCtxsave o s) := by
  unfold execCtxsave
  refine issue_canonical h ?_
  repeat' first | with_reducible refine keeps_bind ?_ fun _ => ?_ | split
  all_goals simp +contextual

@[simp] theorem execCtxload_canonical (o : Ops) (s : State) (h : Canonical s.stores) : CanonicalAfter (execCtxload o s) := by
  unfold execCtxload
  refine issue_canonical h ?_
  repeat' first | with_reducible refine keeps_bind ?_ fun _ => ?_ | split
  all_goals simp

@[simp] theorem execSnap_canonical (o : Ops) (s : State) (h : Canonical s.stores) : CanonicalAfter (execSnap o s) := by
  unfold execSnap
  refine issue_canonical h ?_
  repeat' first | with_reducible refine keeps_bind ?_ fun _ => ?_ | split
  all_goals simp

@[simp] theorem execHalt_canonical (o : Ops) (s : State) (h : Canonical s.stores) : CanonicalAfter (execHalt o s) := by
  unfold execHalt
  exact issue_canonical h (by simp)

@[simp] theorem execWfe_canonical (o : Ops) (s : State) (h : Canonical s.stores) : CanonicalAfter (execWfe o s) := by
  simp only [execWfe]
  refine issue_canonical h ?_
  repeat' first | with_reducible refine keeps_bind ?_ fun _ => ?_ | split
  all_goals simp +contextual

@[simp] theorem execWfeTimeout_canonical (s : State) (h : Canonical s.stores) : CanonicalAfter (execWfeTimeout s) := by
  unfold execWfeTimeout
  split <;> simp [h]

@[simp] theorem execOrphan_canonical (o : Ops) (s : State) (h : Canonical s.stores) : CanonicalAfter (execOrphan o s) := by
  unfold execOrphan
  refine issue_canonical h ?_
  repeat' first | with_reducible refine keeps_bind ?_ fun _ => ?_ | split
  all_goals simp

@[simp] theorem execGswitch_canonical (o : Ops) (s : State) (h : Canonical s.stores) : CanonicalAfter (execGswitch o s) := by
  unfold execGswitch
  refine issue_canonical h ?_
  repeat' first | with_reducible refine keeps_bind ?_ fun _ => ?_ | split
  all_goals simp

@[simp] theorem execTmsg_canonical (o : Ops) (s : State) (h : Canonical s.stores) : CanonicalAfter (execTmsg o s) := by
  simp only [execTmsg]
  refine issue_canonical h ?_
  repeat' first | with_reducible refine keeps_bind ?_ fun _ => ?_ | split
  all_goals simp +contextual

@[simp] theorem execEscalationArrival_canonical (s : State) (h : Canonical s.stores) :
    CanonicalAfter (execEscalationArrival s) := by
  simp only [execEscalationArrival]
  repeat' split
  all_goals simp [h]

/-! #### The definitions of `Sys2Proof/Machine/Gangs.lean` -/

@[simp] theorem stopGangs_canonical (gids : List Nat) (s : State) (h : Canonical s.stores) :
    Canonical (stopGangs gids s).stores := by
  unfold stopGangs
  refine foldl_canonical (fun s e h => by simp [h]) _ ?_
  rw [show State.stores { gids.foldl _ s with agenda := [] } = (gids.foldl _ s).stores from rfl]
  refine foldl_canonical (fun s gid h => ?_) _ h
  split
  · exact foldl_canonical (fun s t h => foldl_canonical (fun s ch h => by simp [h]) _ h) _ (by simp [h])
  · exact h

@[simp] theorem saveTile_canonical (gid t : Nat) (s : State) (h : Canonical s.stores) :
    Canonical (saveTile gid t s).stores := by
  simp only [saveTile, stores_mk, canonical_mk]
  exact ⟨putLanes_wf _ _ (foldl_mwrite_wf _ _ _ (putLanes_wf _ _ (splice_wf (mem_wf_of_canonical h) _ _ _))),
    ssd_wf_of_canonical h⟩

@[simp] theorem execGangSave_canonical (s : State) (h : Canonical s.stores) : CanonicalAfter (execGangSave s) := by
  unfold execGangSave
  dsimp only
  split
  · exact h
  · simp only [canonicalAfter_next, post_stores, modJob_stores, modGang_stores, emptyCores_stores]
    refine foldl_canonical (fun s t h => by simp [h]) _ ?_
    simp only [freshId_snd]
    exact foldl_canonical (fun s sid h => by simp [h]) _ h

@[simp] theorem execTileClear_canonical (s : State) (h : Canonical s.stores) : CanonicalAfter (execTileClear s) := by
  simp only [execTileClear]
  split
  · exact h
  · simp [h, filter_wf]

@[simp] theorem execFalloutPhase_canonical (s : State) (h : Canonical s.stores) : CanonicalAfter (execFalloutPhase s) := by
  simp only [execFalloutPhase]
  repeat' split
  all_goals simp [h]

@[simp] theorem execGangRestore_canonical (s : State) (h : Canonical s.stores) : CanonicalAfter (execGangRestore s) := by
  unfold execGangRestore
  dsimp only
  split
  · split
    · simp [h]
    · simp [h, mset_foldl_wf]
  · exact h

@[simp] theorem execGangSwitch_canonical (s : State) (h : Canonical s.stores) : CanonicalAfter (execGangSwitch s) := by
  unfold execGangSwitch
  split <;> simp [h]

@[simp] theorem pushRecs_canonical (pk qk va ten n : Nat) {s : State} (h : Canonical s.stores) :
    Canonical (pushRecs pk qk va ten n s).stores := by
  induction n with
  | zero => exact h
  | succ n ih =>
    simp only [pushRecs]
    repeat' split
    all_goals simp [ih]

@[simp] theorem placeFresh_canonical (pk : Nat) (j : Job) (s : State) (h : Canonical s.stores) :
    Canonical (placeFresh pk j s).2.stores := by simp [placeFresh, h]

@[simp] theorem placeJobs_canonical (pk : Nat) (l : List Job) (ahead : List (Nat × Nat × Nat × Nat)) {s : State}
    (h : Canonical s.stores) : Canonical (placeJobs pk l ahead s).stores := by
  induction l generalizing ahead s with
  | nil => exact h
  | cons j l ih =>
    simp only [placeJobs]
    repeat' split
    all_goals exact ih _ (by simp [h])

@[simp] theorem execGangPlace_canonical (s : State) (h : Canonical s.stores) :
    CanonicalAfter (execGangPlace s) := by simp [execGangPlace, h]

@[simp] theorem execJobEnd_canonical (s : State) (h : Canonical s.stores) : CanonicalAfter (execJobEnd s) := by
  simp only [execJobEnd]
  repeat' split
  all_goals simp [h]

@[simp] theorem execTduJdone_canonical (s : State) (h : Canonical s.stores) : CanonicalAfter (execTduJdone s) := by
  simp only [execTduJdone]
  repeat' split
  all_goals simp [h]

@[simp] theorem execTduJkill_canonical (s : State) (h : Canonical s.stores) :
    CanonicalAfter (execTduJkill s) := by simp [execTduJkill, h]

@[simp] theorem execTileFailure_canonical (s : State) (h : Canonical s.stores) :
    CanonicalAfter (execTileFailure s) := by simp [execTileFailure, h]

/-! #### The definitions of `Sys2Proof/Machine/Debug.lean` -/

@[simp] theorem stopGang_canonical (gid : Nat) (g : Gang) (s : State) (h : Canonical s.stores) :
    Canonical (stopGang gid g s).stores := by simp [stopGang, h]

@[simp] theorem execDebugStopRequest_canonical (s : State) (h : Canonical s.stores) :
    CanonicalAfter (execDebugStopRequest s) := by simp [execDebugStopRequest, h]

@[simp] theorem execDebugStop_canonical (s : State) (h : Canonical s.stores) : CanonicalAfter (execDebugStop s) := by
  unfold execDebugStop
  split <;> simp [h]

@[simp] theorem execDebugResume_canonical (s : State) (h : Canonical s.stores) :
    CanonicalAfter (execDebugResume s) := by simp [execDebugResume, h]

@[simp] theorem execTduStep_canonical (s : State) (h : Canonical s.stores) :
    CanonicalAfter (execTduStep s) := by simp [execTduStep, h]

@[simp] theorem execStepDone_canonical (s : State) (h : Canonical s.stores) : CanonicalAfter (execStepDone s) := by
  simp only [execStepDone]
  repeat' split
  all_goals simp [h]

@[simp] theorem execTraceSample_canonical (s : State) (h : Canonical s.stores) : CanonicalAfter (execTraceSample s) := by
  unfold execTraceSample
  dsimp only
  split
  · exact h
  · simp only [canonicalAfter_next, post_stores]
    exact foldl_canonical (fun s c h => by simp [h]) _ h

@[simp] theorem execSnapshotFire_canonical (s : State) (h : Canonical s.stores) :
    CanonicalAfter (execSnapshotFire s) := by simp [execSnapshotFire, h]

@[simp] theorem execLifetimeCounterUpdate_canonical (s : State) (h : Canonical s.stores) :
    CanonicalAfter (execLifetimeCounterUpdate s) := by simp [execLifetimeCounterUpdate, h]

/-! #### The definitions of `Sys2Proof/Machine/Fabric.lean` -/

@[simp] theorem execBandwidthEventArrival_canonical (s : State) (h : Canonical s.stores) :
    CanonicalAfter (execBandwidthEventArrival s) := by simp [execBandwidthEventArrival, h]

@[simp] theorem execKeepaliveSend_canonical (s : State) (h : Canonical s.stores) :
    CanonicalAfter (execKeepaliveSend s) := by simp [execKeepaliveSend, h]

@[simp] theorem execKeepaliveTimeout_canonical (s : State) (h : Canonical s.stores) :
    CanonicalAfter (execKeepaliveTimeout s) := by simp [execKeepaliveTimeout, h]

@[simp] theorem execLaneLoss_canonical (s : State) (h : Canonical s.stores) : CanonicalAfter (execLaneLoss s) := by
  simp only [execLaneLoss]
  repeat' split
  all_goals simp [h]

@[simp] theorem execLinkRetrainDone_canonical (s : State) (h : Canonical s.stores) :
    CanonicalAfter (execLinkRetrainDone s) := by
  simp only [execLinkRetrainDone]
  repeat' split
  all_goals simp [h]

@[simp] theorem execLinkFlitReceive_canonical (s : State) (h : Canonical s.stores) :
    CanonicalAfter (execLinkFlitReceive s) := by
  simp only [execLinkFlitReceive]
  repeat' split
  all_goals simp [h]

@[simp] theorem execLinkNak_canonical (s : State) (h : Canonical s.stores) :
    CanonicalAfter (execLinkNak s) := by simp [execLinkNak, h]

@[simp] theorem execLinkAck_canonical (s : State) (h : Canonical s.stores) :
    CanonicalAfter (execLinkAck s) := by simp [execLinkAck, h]

@[simp] theorem execTransportPacketArrival_canonical (s : State) (h : Canonical s.stores) :
    CanonicalAfter (execTransportPacketArrival s) := by
  unfold execTransportPacketArrival
  split <;> simp [h]

@[simp] theorem execTransportAck_canonical (s : State) (h : Canonical s.stores) : CanonicalAfter (execTransportAck s) := by
  unfold execTransportAck
  split <;> simp [h]

@[simp] theorem execTransportResend_canonical (s : State) (h : Canonical s.stores) :
    CanonicalAfter (execTransportResend s) := by
  unfold execTransportResend
  split <;> simp [h]

@[simp] theorem execPackageFailureDeclare_canonical (s : State) (h : Canonical s.stores) :
    CanonicalAfter (execPackageFailureDeclare s) := by simp [execPackageFailureDeclare, h]

@[simp] theorem crzComplete_canonical (pkg id status result : Nat) (s : State) (h : Canonical s.stores) :
    Canonical (crzComplete pkg id status result s).stores := by simp [crzComplete, h, mwrite_wf]

@[simp] theorem execFailureNotice_canonical (s : State) (h : Canonical s.stores) :
    CanonicalAfter (execFailureNotice s) := by simp [execFailureNotice, h]

/-! #### The definitions of `Sys2Proof/Machine/Crazon.lean` -/

@[simp] theorem execHostMemAccess_canonical (s : State) (h : Canonical s.stores) : CanonicalAfter (execHostMemAccess s) := by
  simp only [execHostMemAccess]
  repeat' split
  all_goals simp [h]

@[simp] theorem crzDone_canonical (pkg id status result : Nat) (s : State) (h : Canonical s.stores) :
    Canonical (crzDone pkg id status result s).stores := by simp [crzDone, h]

@[simp] theorem execCrzDoor_canonical (s : State) (h : Canonical s.stores) :
    CanonicalAfter (execCrzDoor s) := by simp [execCrzDoor, h]

@[simp] theorem execUnsupportedCommand_canonical (s : State) (h : Canonical s.stores) :
    CanonicalAfter (execUnsupportedCommand s) := by simp [execUnsupportedCommand, h]

@[simp] theorem execIdentify_canonical (s : State) (h : Canonical s.stores) :
    CanonicalAfter (execIdentify s) := by simp [execIdentify, h]

@[simp] theorem execNegotiate_canonical (s : State) (h : Canonical s.stores) :
    CanonicalAfter (execNegotiate s) := by simp [execNegotiate, h]

@[simp] theorem execPatch_canonical (s : State) (h : Canonical s.stores) :
    CanonicalAfter (execPatch s) := by simp [execPatch, h]

@[simp] theorem goodReset_canonical (pkg va ten : Nat) (s : State) (h : Canonical s.stores) :
    Canonical (goodReset pkg va ten s).stores := by
  unfold goodReset
  split
  · exact h
  · split
    · refine foldl_canonical (fun s i h => ?_) _ h
      dsimp only
      split <;> simp [h]
    · exact h

@[simp] theorem execPartMake_canonical (s : State) (h : Canonical s.stores) : CanonicalAfter (execPartMake s) := by
  simp only [execPartMake]
  split
  · split
    · simp [h]
    · exact crzDone_canonical _ _ _ _ _ (goodReset_canonical _ _ _ _ (by simp [h]))
  · simp [h]

@[simp] theorem execPartEnd_canonical (s : State) (h : Canonical s.stores) :
    CanonicalAfter (execPartEnd s) := by simp [execPartEnd, h]

@[simp] theorem execTenantKeyErase_canonical (s : State) (h : Canonical s.stores) :
    CanonicalAfter (execTenantKeyErase s) := by simp [execTenantKeyErase, h]

@[simp] theorem execGrant_canonical (s : State) (h : Canonical s.stores) : CanonicalAfter (execGrant s) := by
  unfold execGrant
  split
  · simp [h]
  · split <;> simp [h]

@[simp] theorem mapOne_canonical (pkg : Nat) (m : MapEnt) (s : State) (h : Canonical s.stores) :
    Canonical (mapOne pkg m s).stores := by
  unfold mapOne
  refine writeLeaf_canonical _ _ _ _ ?_
  split <;> simp [h, mwrite_wf]

@[simp] theorem execMap_canonical (s : State) (h : Canonical s.stores) : CanonicalAfter (execMap s) := by
  simp only [execMap]
  split
  · split
    · simp [h]
    · split
      · simp [h]
      · exact crzDone_canonical _ _ _ _ _ (foldl_canonical (fun s m h => by simp [h]) _ (by simp [h]))
  · simp [h]

@[simp] theorem execOwn_canonical (s : State) (h : Canonical s.stores) : CanonicalAfter (execOwn s) := by simp [execOwn, h]

@[simp] theorem execEvict_canonical (s : State) (h : Canonical s.stores) : CanonicalAfter (execEvict s) := by
  unfold execEvict
  split <;> simp [h]

@[simp] theorem execRoute_canonical (s : State) (h : Canonical s.stores) : CanonicalAfter (execRoute s) := by
  unfold execRoute
  split <;> simp [h]

@[simp] theorem execHostmap_canonical (s : State) (h : Canonical s.stores) : CanonicalAfter (execHostmap s) := by
  unfold execHostmap
  split <;> simp [h]

@[simp] theorem execJob_canonical (s : State) (h : Canonical s.stores) : CanonicalAfter (execJob s) := by
  unfold execJob
  split <;> simp [h]

@[simp] theorem execLog_canonical (s : State) (h : Canonical s.stores) : CanonicalAfter (execLog s) := by simp [execLog, h]

/-! #### The definitions of `Sys2Proof/Machine/Heap.lean` -/

@[simp] theorem refCheckM_keeps (k tv : Word) : Keeps (refCheckM k tv) := by
  unfold refCheckM
  repeat' first
    | with_reducible refine keeps_bind ?_ fun _ => ?_
    | with_reducible refine keeps_if ?_ ?_
    | split
    | dsimp only
  all_goals simp

@[simp] theorem barrierDone_canonical (hid : Nat) (k : Word) (addr : Nat) (old : Bool) (infl : Nat) (s : State)
    (h : Canonical s.stores) :
    Canonical (barrierDone hid k addr old infl s).stores := by
  unfold barrierDone
  repeat' split
  all_goals simp [h]

@[simp] theorem onEntry_canonical (hid : Nat) (oe : Word) (s : State) (h : Canonical s.stores) :
    Canonical (onEntry hid oe s).stores := by
  unfold onEntry
  repeat' split
  all_goals simp [h]

@[simp] theorem onInfl_canonical (hid : Nat) (old : Word) (s : State) (h : Canonical s.stores) :
    Canonical (onInfl hid old s).stores := by
  unfold onInfl
  split <;> simp [h]

@[simp] theorem onPage_canonical (hid : Nat) (pe : Word) (s : State) (h : Canonical s.stores) :
    Canonical (onPage hid pe s).stores := by
  unfold onPage
  split <;> simp [h]

@[simp] theorem onField_canonical (hid : Nat) (v : Word) (s : State) (h : Canonical s.stores) :
    Canonical (onField hid v s).stores := by
  simp only [onField]
  repeat' split
  all_goals simp [h]

@[simp] theorem onHeader_canonical (hid : Nat) (m : Word) (s : State) (h : Canonical s.stores) :
    Canonical (onHeader hid m s).stores := by
  unfold onHeader
  split <;> simp [h]

@[simp] theorem execHeapBarrierWake_canonical (s : State) (h : Canonical s.stores) :
    CanonicalAfter (execHeapBarrierWake s) := by
  refine whenHere_canonical _ (fun s h => ?_) h
  dsimp only
  repeat' split
  all_goals simp [h]

@[simp] theorem execInflDecrement_canonical (s : State) (h : Canonical s.stores) :
    CanonicalAfter (execInflDecrement s) := by simp [execInflDecrement, h]

@[simp] theorem execHealCas_canonical (s : State) (h : Canonical s.stores) :
    CanonicalAfter (execHealCas s) := by simp [execHealCas, h]

@[simp] theorem execBarrierLateTrap_canonical (s : State) (h : Canonical s.stores) :
    CanonicalAfter (execBarrierLateTrap s) := by
  simp only [execBarrierLateTrap]
  repeat' split
  all_goals simp [h]

@[simp] theorem objectM_keeps (n : Nat) (off : Int) (rd wr store : Bool) : Keeps (objectM n off rd wr store) := by
  simp only [objectM]
  repeat' first | with_reducible refine keeps_bind ?_ fun _ => ?_ | split
  all_goals simp +contextual

@[simp] theorem heapIssue_canonical (w : List Word) (k : Word) (off : Int) (kind : AccKind) (h : HeapOp) (f : Acc → Acc)
    (s : State) (hs : Canonical s.stores) :
    Canonical (heapIssue w k off kind h f s).2.stores := by
  simp only [heapIssue]
  repeat' split
  all_goals simp [hs]

@[simp] theorem heapGate_keeps (w : List Word) (k : Word) (off : Int) (store : Bool) : Keeps (heapGate w k off store) := by
  unfold heapGate
  repeat' first | with_reducible refine keeps_bind ?_ fun _ => ?_ | split
  all_goals simp

@[simp] theorem execLdk_canonical (o : Ops) (s : State) (h : Canonical s.stores) : CanonicalAfter (execLdk o s) := by
  unfold execLdk
  refine issue_canonical h ?_
  repeat' first | with_reducible refine keeps_bind ?_ fun _ => ?_ | split
  all_goals simp +contextual

@[simp] theorem execLdref_canonical (o : Ops) (s : State) (h : Canonical s.stores) : CanonicalAfter (execLdref o s) := by
  unfold execLdref
  refine issue_canonical h ?_
  repeat' first | with_reducible refine keeps_bind ?_ fun _ => ?_ | split
  all_goals simp +contextual

@[simp] theorem heapStore_keeps (n : Nat) (off : Int) (x k : Word) (w : List Word) : Keeps (heapStore n off x k w) := by
  unfold heapStore
  repeat' first | with_reducible refine keeps_bind ?_ fun _ => ?_ | split
  all_goals simp +contextual

@[simp] theorem execStref_canonical (o : Ops) (s : State) (h : Canonical s.stores) : CanonicalAfter (execStref o s) := by
  unfold execStref
  refine issue_canonical h ?_
  repeat' first | with_reducible refine keeps_bind ?_ fun _ => ?_ | split
  all_goals simp

@[simp] theorem execStk_canonical (o : Ops) (s : State) (h : Canonical s.stores) : CanonicalAfter (execStk o s) := by
  unfold execStk
  refine issue_canonical h ?_
  repeat' first | with_reducible refine keeps_bind ?_ fun _ => ?_ | split
  all_goals simp

@[simp] theorem pinOp_canonical (pin : Bool) (o : Ops) (s : State) (h : Canonical s.stores) :
    CanonicalAfter (pinOp pin o s) := by
  unfold pinOp
  refine issue_canonical h ?_
  repeat' first | with_reducible refine keeps_bind ?_ fun _ => ?_ | split
  all_goals simp +contextual

@[simp] theorem execKpin_canonical (o : Ops) (s : State) (h : Canonical s.stores) :
    CanonicalAfter (execKpin o s) := by simp [execKpin, h]

@[simp] theorem execKunpin_canonical (o : Ops) (s : State) (h : Canonical s.stores) :
    CanonicalAfter (execKunpin o s) := by simp [execKunpin, h]

@[simp] theorem heapAtM_keeps (va n : Nat) : Keeps (heapAtM va n) := by
  induction n with
  | zero => exact keeps_pure none
  | succ n ih =>
    refine keeps_bind (keeps_askM _) fun s => keeps_bind (unitReadM_keeps _ _) fun _ => ?_
    simp [ih]

@[simp] theorem execKnew_canonical (o : Ops) (s : State) (h : Canonical s.stores) : CanonicalAfter (execKnew o s) := by
  simp only [execKnew]
  refine issue_canonical h ?_
  repeat' first | with_reducible refine keeps_bind ?_ fun _ => ?_ | split
  all_goals simp +contextual

@[simp] theorem execKmov_canonical (o : Ops) (s : State) (h : Canonical s.stores) : CanonicalAfter (execKmov o s) := by
  unfold execKmov
  refine issue_canonical h ?_
  repeat' first | with_reducible refine keeps_bind ?_ fun _ => ?_ | split
  all_goals simp

@[simp] theorem execKmovToG_canonical (o : Ops) (s : State) (h : Canonical s.stores) : CanonicalAfter (execKmovToG o s) := by
  unfold execKmovToG
  refine issue_canonical h ?_
  repeat' first | with_reducible refine keeps_bind ?_ fun _ => ?_ | split
  all_goals simp

@[simp] theorem execKmovFromG_canonical (o : Ops) (s : State) (h : Canonical s.stores) :
    CanonicalAfter (execKmovFromG o s) := by
  unfold execKmovFromG
  refine issue_canonical h ?_
  repeat' first | with_reducible refine keeps_bind ?_ fun _ => ?_ | split
  all_goals simp

@[simp] theorem execKnull_canonical (o : Ops) (s : State) (h : Canonical s.stores) : CanonicalAfter (execKnull o s) := by
  unfold execKnull
  refine issue_canonical h ?_
  repeat' first | with_reducible refine keeps_bind ?_ fun _ => ?_ | split
  all_goals simp

@[simp] theorem compareGate_keeps (w : List Word) (k : Word) : Keeps (compareGate w k) := by
  unfold compareGate
  repeat' first | with_reducible refine keeps_bind ?_ fun _ => ?_ | split
  all_goals simp

@[simp] theorem execKcmp_canonical (o : Ops) (s : State) (h : Canonical s.stores) : CanonicalAfter (execKcmp o s) := by
  simp only [execKcmp]
  refine issue_canonical h ?_
  repeat' first
    | with_reducible refine keeps_ask_bind fun _ _ => ?_
    | with_reducible refine keeps_bind ?_ fun _ => ?_
    | with_reducible refine keeps_if ?_ ?_
    | split
    | dsimp only
  all_goals simp +contextual [*]

/-! #### The definitions of `Sys2Proof/Machine/Relocation.lean` -/

@[simp] theorem execHcompact_canonical (o : Ops) (s : State) (h : Canonical s.stores) :
    CanonicalAfter (execHcompact o s) := by
  simp only [execHcompact]
  refine issue_canonical h ?_
  repeat' first | with_reducible refine keeps_bind ?_ fun _ => ?_ | split
  all_goals simp +contextual

@[simp] theorem rWrite_canonical (c : Cmd) (va : Nat) (ws : List Word) (s : State) (h : Canonical s.stores) :
    Canonical (rWrite c va ws s).stores := by simp [rWrite, h]

@[simp] theorem rEmit_canonical (id : Nat) (final : Bool) (st : Nat) (s : State) (h : Canonical s.stores) :
    Canonical (rEmit id final st s).stores := by
  unfold rEmit
  split <;> simp [h]

@[simp] theorem execRelocCommand_canonical (s : State) (h : Canonical s.stores) : CanonicalAfter (execRelocCommand s) := by
  simp only [execRelocCommand]
  repeat' split
  all_goals simp [h]

@[simp] theorem writePage_canonical (c : Cmd) (w : List Word) (i p : Nat) (objs : List (Nat × Nat)) (s : State)
    (h : Canonical s.stores) :
    Canonical (writePage c w i p objs s).2.stores := by
  simp only [writePage]
  generalize List.range 4096 = slots
  refine rWrite_canonical _ _ _ _ (foldl_snd_canonical (fun q o hq => ?_) _ ?_)
  · simp [hq]
  · exact foldl_canonical (fun s j hj => rWrite_canonical _ _ _ _ hj) _ h

@[simp] theorem stayAll_canonical (c : Cmd) (l : List Nat) {s : State} (h : Canonical s.stores) :
    Canonical (stayAll c l s).stores := by
  induction l generalizing s with
  | nil => exact h
  | cons o os ih => exact ih (by simp [h])

@[simp] theorem countPages_canonical (id limit n : Nat) {s : State} (h : Canonical s.stores) :
    Canonical (countPages id limit n s).stores := by
  induction n generalizing s with
  | zero => exact h
  | succ n ih =>
    simp only [countPages]
    repeat' split
    all_goals simp [h, ih]

@[simp] theorem relocStep_canonical (id : Nat) (s : State) (h : Canonical s.stores) : Canonical (relocStep id s).stores := by
  unfold relocStep
  split
  · exact h
  · dsimp only
    split
    · simp [h]
    · split
      · simp only [post_stores]
        exact countPages_canonical _ _ _ (by simp [h])
      · simp [h]

@[simp] theorem execRelocParse_canonical (s : State) (h : Canonical s.stores) : CanonicalAfter (execRelocParse s) := by
  unfold execRelocParse
  dsimp only
  split
  · exact h
  · split
    · refine withPages_canonical _ _ _ _ _ ?_ h
      split
      · simp [h]
      · refine withPages_canonical _ _ _ _ _ ?_ h
        split <;> simp [h]
    · next c _ _ =>
      refine withPages_canonical _ _ _ _ _ ?_ h
      have hw : ∀ l : List (Nat × Nat), Canonical (l.foldl (fun (q : List Nat × State) ip =>
          (q.1 ++ (writePage c (rEntry s c) ip.1 ip.2 ((parsePage q.2 c ip.2 4097 0).getD []) q.2).1,
            (writePage c (rEntry s c) ip.1 ip.2 ((parsePage q.2 c ip.2 4097 0).getD []) q.2).2)) ([], s)).2.stores :=
        fun l => foldl_snd_canonical (fun q ip hq => by simp [hq]) l h
      split
      · exact relocStep_canonical _ _ (by simp [hw])
      · simp [hw]

@[simp] theorem execFlipArrival_canonical (s : State) (h : Canonical s.stores) : CanonicalAfter (execFlipArrival s) := by
  simp only [execFlipArrival]
  repeat' split
  all_goals simp [h]

@[simp] theorem execFlipAck_canonical (s : State) (h : Canonical s.stores) : CanonicalAfter (execFlipAck s) := by
  simp only [execFlipAck]
  repeat' split
  all_goals simp [h]

@[simp] theorem objectOver_canonical (id : Nat) (s : State) (h : Canonical s.stores) :
    Canonical (objectOver id s).stores := by simp [objectOver, h]

@[simp] theorem filler_canonical (c : Cmd) (lo hi : Nat) (s : State) (h : Canonical s.stores) :
    Canonical (filler c lo hi s).stores := by simp [filler, h]

@[simp] theorem execRelocObjectBusy_canonical (s : State) (h : Canonical s.stores) :
    CanonicalAfter (execRelocObjectBusy s) := by
  unfold execRelocObjectBusy
  extract_lets
  split
  · exact h
  · split
    · exact h
    · refine withPages_canonical _ _ _ _ _ ?_ h
      extract_lets e t
      have ht : Canonical t.stores := by simp [t, h]
      clear_value t
      repeat' split
      all_goals simp +zetaDelta [ht]

@[simp] theorem execRelocObjectDone_canonical (s : State) (h : Canonical s.stores) :
    CanonicalAfter (execRelocObjectDone s) := by
  unfold execRelocObjectDone
  dsimp only
  split
  · exact h
  · split
    · exact h
    · refine withPages_canonical _ _ _ _ _ ?_ h
      split
      · simp only [post_stores, modPkg_stores]
        exact rWrite_canonical _ _ _ _ (by simp [h])
      · exact objectOver_canonical _ _ (by simp [h])

@[simp] theorem execRelocComplete_canonical (s : State) (h : Canonical s.stores) : CanonicalAfter (execRelocComplete s) := by
  unfold execRelocComplete
  extract_lets
  split
  · exact h
  · extract_lets pkg top spans t u v
    refine withPages_canonical _ _ _ _ _ ?_ h
    have ht : Canonical t.stores := by simp [t, h]
    have hu : Canonical u.stores := by
      unfold u
      split <;> simp [h, ht]
    have hv : Canonical v.stores := by simp [v, hu]
    rw [rNext_stores]
    split <;> simp [hv]

/-! #### The definitions of `Sys2Proof/Machine/Scalar.lean` -/

@[simp] theorem alu2_canonical (f : Word → Word → Word) (lat : Word → Word → Nat) (o : Ops) (s : State)
    (h : Canonical s.stores) :
    CanonicalAfter (alu2 f lat o s) := by
  unfold alu2
  refine issue_canonical h ?_
  repeat' first | with_reducible refine keeps_bind ?_ fun _ => ?_ | split
  all_goals simp

theorem alu1_canonical {pre : M Unit} (hpre : Keeps pre) (f : Word → Word) (lat : Nat) (o : Ops) (s : State)
    (h : Canonical s.stores) :
    CanonicalAfter (alu1 pre f lat o s) := by
  unfold alu1
  refine issue_canonical h ?_
  repeat' first
    | with_reducible refine keeps_bind ?_ fun _ => ?_
    | with_reducible refine keeps_if ?_ ?_
    | split
  all_goals simp [hpre]

@[simp] theorem aluI_canonical (f : Word → Word → Word) (o : Ops) (s : State) (h : Canonical s.stores) :
    CanonicalAfter (aluI f o s) := by
  unfold aluI
  refine issue_canonical h ?_
  repeat' first | with_reducible refine keeps_bind ?_ fun _ => ?_ | split
  all_goals simp

@[simp] theorem execAdd_canonical (o : Ops) (s : State) (h : Canonical s.stores) :
    CanonicalAfter (execAdd o s) := by simp [execAdd, h]

@[simp] theorem execSub_canonical (o : Ops) (s : State) (h : Canonical s.stores) :
    CanonicalAfter (execSub o s) := by simp [execSub, h]

@[simp] theorem execAnd_canonical (o : Ops) (s : State) (h : Canonical s.stores) :
    CanonicalAfter (execAnd o s) := by simp [execAnd, h]

@[simp] theorem execOr_canonical (o : Ops) (s : State) (h : Canonical s.stores) :
    CanonicalAfter (execOr o s) := by simp [execOr, h]

@[simp] theorem execXor_canonical (o : Ops) (s : State) (h : Canonical s.stores) :
    CanonicalAfter (execXor o s) := by simp [execXor, h]

@[simp] theorem execShl_canonical (o : Ops) (s : State) (h : Canonical s.stores) :
    CanonicalAfter (execShl o s) := by simp [execShl, h]

@[simp] theorem execShr_canonical (o : Ops) (s : State) (h : Canonical s.stores) :
    CanonicalAfter (execShr o s) := by simp [execShr, h]

@[simp] theorem execSra_canonical (o : Ops) (s : State) (h : Canonical s.stores) :
    CanonicalAfter (execSra o s) := by simp [execSra, h]

@[simp] theorem execMul_canonical (o : Ops) (s : State) (h : Canonical s.stores) :
    CanonicalAfter (execMul o s) := by simp [execMul, h]

@[simp] theorem execSlt_canonical (o : Ops) (s : State) (h : Canonical s.stores) :
    CanonicalAfter (execSlt o s) := by simp [execSlt, h]

@[simp] theorem execSltu_canonical (o : Ops) (s : State) (h : Canonical s.stores) :
    CanonicalAfter (execSltu o s) := by simp [execSltu, h]

@[simp] theorem execSeq_canonical (o : Ops) (s : State) (h : Canonical s.stores) :
    CanonicalAfter (execSeq o s) := by simp [execSeq, h]

@[simp] theorem execMulh_canonical (o : Ops) (s : State) (h : Canonical s.stores) :
    CanonicalAfter (execMulh o s) := by simp [execMulh, h]

@[simp] theorem execMulhu_canonical (o : Ops) (s : State) (h : Canonical s.stores) :
    CanonicalAfter (execMulhu o s) := by simp [execMulhu, h]

@[simp] theorem execMin_canonical (o : Ops) (s : State) (h : Canonical s.stores) :
    CanonicalAfter (execMin o s) := by simp [execMin, h]

@[simp] theorem execMax_canonical (o : Ops) (s : State) (h : Canonical s.stores) :
    CanonicalAfter (execMax o s) := by simp [execMax, h]

@[simp] theorem execMinu_canonical (o : Ops) (s : State) (h : Canonical s.stores) :
    CanonicalAfter (execMinu o s) := by simp [execMinu, h]

@[simp] theorem execMaxu_canonical (o : Ops) (s : State) (h : Canonical s.stores) :
    CanonicalAfter (execMaxu o s) := by simp [execMaxu, h]

@[simp] theorem execDiv_canonical (o : Ops) (s : State) (h : Canonical s.stores) :
    CanonicalAfter (execDiv o s) := by simp [execDiv, h]

@[simp] theorem execDivu_canonical (o : Ops) (s : State) (h : Canonical s.stores) :
    CanonicalAfter (execDivu o s) := by simp [execDivu, h]

@[simp] theorem execRem_canonical (o : Ops) (s : State) (h : Canonical s.stores) :
    CanonicalAfter (execRem o s) := by simp [execRem, h]

@[simp] theorem execRemu_canonical (o : Ops) (s : State) (h : Canonical s.stores) :
    CanonicalAfter (execRemu o s) := by simp [execRemu, h]

@[simp] theorem execMov_canonical (o : Ops) (s : State) (h : Canonical s.stores) :
    CanonicalAfter (execMov o s) := alu1_canonical (keeps_pure ()) _ _ _ _ h

@[simp] theorem execClz_canonical (o : Ops) (s : State) (h : Canonical s.stores) :
    CanonicalAfter (execClz o s) := alu1_canonical (keeps_pure ()) _ _ _ _ h

@[simp] theorem execPopc_canonical (o : Ops) (s : State) (h : Canonical s.stores) :
    CanonicalAfter (execPopc o s) := alu1_canonical (keeps_pure ()) _ _ _ _ h

@[simp] theorem execBfx_canonical (o : Ops) (s : State) (h : Canonical s.stores) :
    CanonicalAfter (execBfx o s) := alu1_canonical (need9_keeps _) _ _ _ _ h

@[simp] theorem execBfi_canonical (o : Ops) (s : State) (h : Canonical s.stores) : CanonicalAfter (execBfi o s) := by
  unfold execBfi
  refine issue_canonical h ?_
  repeat' first | with_reducible refine keeps_bind ?_ fun _ => ?_ | split
  all_goals simp

@[simp] theorem execAddi_canonical (o : Ops) (s : State) (h : Canonical s.stores) :
    CanonicalAfter (execAddi o s) := by simp [execAddi, h]

@[simp] theorem execAndi_canonical (o : Ops) (s : State) (h : Canonical s.stores) :
    CanonicalAfter (execAndi o s) := by simp [execAndi, h]

@[simp] theorem execOri_canonical (o : Ops) (s : State) (h : Canonical s.stores) :
    CanonicalAfter (execOri o s) := by simp [execOri, h]

@[simp] theorem execXori_canonical (o : Ops) (s : State) (h : Canonical s.stores) :
    CanonicalAfter (execXori o s) := by simp [execXori, h]

@[simp] theorem execShli_canonical (o : Ops) (s : State) (h : Canonical s.stores) :
    CanonicalAfter (execShli o s) := by simp [execShli, h]

@[simp] theorem execShri_canonical (o : Ops) (s : State) (h : Canonical s.stores) :
    CanonicalAfter (execShri o s) := by simp [execShri, h]

@[simp] theorem execSrai_canonical (o : Ops) (s : State) (h : Canonical s.stores) :
    CanonicalAfter (execSrai o s) := by simp [execSrai, h]

@[simp] theorem execLih_canonical (o : Ops) (s : State) (h : Canonical s.stores) :
    CanonicalAfter (execLih o s) := by simp [execLih, h]

@[simp] theorem execSlti_canonical (o : Ops) (s : State) (h : Canonical s.stores) :
    CanonicalAfter (execSlti o s) := by simp [execSlti, h]

@[simp] theorem execLi_canonical (o : Ops) (s : State) (h : Canonical s.stores) : CanonicalAfter (execLi o s) := by
  unfold execLi
  refine issue_canonical h ?_
  repeat' first | with_reducible refine keeps_bind ?_ fun _ => ?_ | split
  all_goals simp

@[simp] theorem execFadd_canonical (o : Ops) (s : State) (h : Canonical s.stores) :
    CanonicalAfter (execFadd o s) := by simp [execFadd, h]

@[simp] theorem execFmul_canonical (o : Ops) (s : State) (h : Canonical s.stores) :
    CanonicalAfter (execFmul o s) := by simp [execFmul, h]

@[simp] theorem execFfma_canonical (o : Ops) (s : State) (h : Canonical s.stores) : CanonicalAfter (execFfma o s) := by
  unfold execFfma
  refine issue_canonical h ?_
  repeat' first | with_reducible refine keeps_bind ?_ fun _ => ?_ | split
  all_goals simp

@[simp] theorem execFcmp_canonical (o : Ops) (s : State) (h : Canonical s.stores) : CanonicalAfter (execFcmp o s) := by
  unfold execFcmp
  refine issue_canonical h ?_
  repeat' first | with_reducible refine keeps_bind ?_ fun _ => ?_ | split
  all_goals simp

@[simp] theorem execFcvt_canonical (o : Ops) (s : State) (h : Canonical s.stores) :
    CanonicalAfter (execFcvt o s) := alu1_canonical (need9_keeps _) _ _ _ _ h

/-! #### The definitions of `Sys2Proof/Machine/Trust.lean` -/

@[simp] theorem execPowerOn_canonical (s : State) (h : Canonical s.stores) :
    CanonicalAfter (execPowerOn s) := by simp [execPowerOn, h]

@[simp] theorem execThermalTrip_canonical (s : State) (h : Canonical s.stores) :
    CanonicalAfter (execThermalTrip s) := by simp [execThermalTrip, h]

@[simp] theorem execPowerLoss_canonical (s : State) (h : Canonical s.stores) : CanonicalAfter (execPowerLoss s) := by
  simp only [execPowerLoss]
  split
  · exact h
  · simp [h, filter_wf]

@[simp] theorem spdmAnswer_canonical (pkg code : Nat) (extra : List Byte) (s : State) (h : Canonical s.stores) :
    CanonicalAfter (spdmAnswer pkg code extra s) := by simp [spdmAnswer, h]

@[simp] theorem execGetVersion_canonical (s : State) (h : Canonical s.stores) :
    CanonicalAfter (execGetVersion s) := by simp [execGetVersion, h]

@[simp] theorem execGetCapabilities_canonical (s : State) (h : Canonical s.stores) :
    CanonicalAfter (execGetCapabilities s) := by simp [execGetCapabilities, h]

@[simp] theorem execNegotiateAlgorithms_canonical (s : State) (h : Canonical s.stores) :
    CanonicalAfter (execNegotiateAlgorithms s) := by simp [execNegotiateAlgorithms, h]

@[simp] theorem execGetDigests_canonical (s : State) (h : Canonical s.stores) :
    CanonicalAfter (execGetDigests s) := by simp [execGetDigests, h]

@[simp] theorem execGetCertificate_canonical (s : State) (h : Canonical s.stores) :
    CanonicalAfter (execGetCertificate s) := by simp [execGetCertificate, h]

@[simp] theorem execChallenge_canonical (s : State) (h : Canonical s.stores) :
    CanonicalAfter (execChallenge s) := by simp [execChallenge, h]

@[simp] theorem execGetMeasurements_canonical (s : State) (h : Canonical s.stores) :
    CanonicalAfter (execGetMeasurements s) := by simp [execGetMeasurements, h]

@[simp] theorem execSsdPortLinkChange_canonical (s : State) (h : Canonical s.stores) :
    CanonicalAfter (execSsdPortLinkChange s) := by simp [execSsdPortLinkChange, h]

/-! #### The definitions of `Sys2Proof/Machine/Vector.lean` -/

@[simp] theorem execVectorQuarterIssue_canonical (s : State) (h : Canonical s.stores) :
    CanonicalAfter (execVectorQuarterIssue s) := by
  unfold execVectorQuarterIssue
  simp only [canonicalAfter_next, stores_ite, vecArm_stores, modTile_stores, ite_self]
  rw [foldl_stores _ (fun _ _ => by simp), foldl_stores]
  · simp [h]
  · intro s g
    repeat' split
    all_goals simp

@[simp] theorem execVectorResult_canonical (s : State) (h : Canonical s.stores) : CanonicalAfter (execVectorResult s) := by
  unfold execVectorResult
  split <;> simp [h]

@[simp] theorem execVshareApply_canonical (s : State) (h : Canonical s.stores) :
    CanonicalAfter (execVshareApply s) := by simp [execVshareApply, h]

@[simp] theorem pushVec_keeps (e : VEnt) : Keeps (pushVec e) := by
  unfold pushVec
  repeat' first | with_reducible refine keeps_bind ?_ fun _ => ?_ | split
  all_goals simp

@[simp] theorem vTwo_canonical (op : Nat) (ok : Bool) (o : Ops) (s : State) (h : Canonical s.stores) :
    CanonicalAfter (vTwo op ok o s) := by
  unfold vTwo
  refine issue_canonical h ?_
  repeat' first | with_reducible refine keeps_bind ?_ fun _ => ?_ | split
  all_goals simp

@[simp] theorem vOne_canonical (page op : Nat) (ok : Bool) (o : Ops) (s : State) (h : Canonical s.stores) :
    CanonicalAfter (vOne page op ok o s) := by
  unfold vOne
  refine issue_canonical h ?_
  repeat' first | with_reducible refine keeps_bind ?_ fun _ => ?_ | split
  all_goals simp

@[simp] theorem execVadd_canonical (o : Ops) (s : State) (h : Canonical s.stores) :
    CanonicalAfter (execVadd o s) := by simp [execVadd, h]

@[simp] theorem execVsub_canonical (o : Ops) (s : State) (h : Canonical s.stores) :
    CanonicalAfter (execVsub o s) := by simp [execVsub, h]

@[simp] theorem execVmul_canonical (o : Ops) (s : State) (h : Canonical s.stores) :
    CanonicalAfter (execVmul o s) := by simp [execVmul, h]

@[simp] theorem execVfma_canonical (o : Ops) (s : State) (h : Canonical s.stores) : CanonicalAfter (execVfma o s) := by
  unfold execVfma
  exact issue_canonical h (by simp)

@[simp] theorem execVmin_canonical (o : Ops) (s : State) (h : Canonical s.stores) :
    CanonicalAfter (execVmin o s) := by simp [execVmin, h]

@[simp] theorem execVmax_canonical (o : Ops) (s : State) (h : Canonical s.stores) :
    CanonicalAfter (execVmax o s) := by simp [execVmax, h]

@[simp] theorem execVabs_canonical (o : Ops) (s : State) (h : Canonical s.stores) :
    CanonicalAfter (execVabs o s) := by simp [execVabs, h]

@[simp] theorem execVneg_canonical (o : Ops) (s : State) (h : Canonical s.stores) :
    CanonicalAfter (execVneg o s) := by simp [execVneg, h]

@[simp] theorem execVcmp_canonical (o : Ops) (s : State) (h : Canonical s.stores) :
    CanonicalAfter (execVcmp o s) := by simp [execVcmp, h]

@[simp] theorem execVsel_canonical (o : Ops) (s : State) (h : Canonical s.stores) : CanonicalAfter (execVsel o s) := by
  unfold execVsel
  exact issue_canonical h (by simp)

@[simp] theorem execVand_canonical (o : Ops) (s : State) (h : Canonical s.stores) :
    CanonicalAfter (execVand o s) := by simp [execVand, h]

@[simp] theorem execVor_canonical (o : Ops) (s : State) (h : Canonical s.stores) :
    CanonicalAfter (execVor o s) := by simp [execVor, h]

@[simp] theorem execVxor_canonical (o : Ops) (s : State) (h : Canonical s.stores) :
    CanonicalAfter (execVxor o s) := by simp [execVxor, h]

@[simp] theorem execVshl_canonical (o : Ops) (s : State) (h : Canonical s.stores) :
    CanonicalAfter (execVshl o s) := by simp [execVshl, h]

@[simp] theorem execVshr_canonical (o : Ops) (s : State) (h : Canonical s.stores) :
    CanonicalAfter (execVshr o s) := by simp [execVshr, h]

@[simp] theorem execViadd_canonical (o : Ops) (s : State) (h : Canonical s.stores) :
    CanonicalAfter (execViadd o s) := by simp [execViadd, h]

@[simp] theorem execVisub_canonical (o : Ops) (s : State) (h : Canonical s.stores) :
    CanonicalAfter (execVisub o s) := by simp [execVisub, h]

@[simp] theorem execVimul_canonical (o : Ops) (s : State) (h : Canonical s.stores) :
    CanonicalAfter (execVimul o s) := by simp [execVimul, h]

@[simp] theorem execVrcp_canonical (o : Ops) (s : State) (h : Canonical s.stores) :
    CanonicalAfter (execVrcp o s) := by simp [execVrcp, h]

@[simp] theorem execVrsq_canonical (o : Ops) (s : State) (h : Canonical s.stores) :
    CanonicalAfter (execVrsq o s) := by simp [execVrsq, h]

@[simp] theorem execVexp2_canonical (o : Ops) (s : State) (h : Canonical s.stores) :
    CanonicalAfter (execVexp2 o s) := by simp [execVexp2, h]

@[simp] theorem execVlog2_canonical (o : Ops) (s : State) (h : Canonical s.stores) :
    CanonicalAfter (execVlog2 o s) := by simp [execVlog2, h]

@[simp] theorem execVred_canonical (o : Ops) (s : State) (h : Canonical s.stores) :
    CanonicalAfter (execVred o s) := by simp [execVred, h]

@[simp] theorem execVscan_canonical (o : Ops) (s : State) (h : Canonical s.stores) :
    CanonicalAfter (execVscan o s) := by simp [execVscan, h]

@[simp] theorem execVperm_canonical (o : Ops) (s : State) (h : Canonical s.stores) :
    CanonicalAfter (execVperm o s) := by simp [execVperm, h]

@[simp] theorem execVbcast_canonical (o : Ops) (s : State) (h : Canonical s.stores) : CanonicalAfter (execVbcast o s) := by
  unfold execVbcast
  refine issue_canonical h ?_
  repeat' first | with_reducible refine keeps_bind ?_ fun _ => ?_ | split
  all_goals simp

@[simp] theorem execVext_canonical (o : Ops) (s : State) (h : Canonical s.stores) : CanonicalAfter (execVext o s) := by
  unfold execVext
  refine issue_canonical h ?_
  repeat' first | with_reducible refine keeps_bind ?_ fun _ => ?_ | split
  all_goals simp

@[simp] theorem execVins_canonical (o : Ops) (s : State) (h : Canonical s.stores) : CanonicalAfter (execVins o s) := by
  unfold execVins
  refine issue_canonical h ?_
  repeat' first | with_reducible refine keeps_bind ?_ fun _ => ?_ | split
  all_goals simp

@[simp] theorem execViota_canonical (o : Ops) (s : State) (h : Canonical s.stores) : CanonicalAfter (execViota o s) := by
  unfold execViota
  refine issue_canonical h ?_
  repeat' first | with_reducible refine keeps_bind ?_ fun _ => ?_ | split
  all_goals simp

@[simp] theorem execVcvt_canonical (o : Ops) (s : State) (h : Canonical s.stores) :
    CanonicalAfter (execVcvt o s) := by simp [execVcvt, h]

@[simp] theorem execVmov_canonical (o : Ops) (s : State) (h : Canonical s.stores) :
    CanonicalAfter (execVmov o s) := by simp [execVmov, h]

@[simp] theorem execVtopk_canonical (o : Ops) (s : State) (h : Canonical s.stores) :
    CanonicalAfter (execVtopk o s) := by simp [execVtopk, h]

@[simp] theorem execVbscale_canonical (o : Ops) (s : State) (h : Canonical s.stores) :
    CanonicalAfter (execVbscale o s) := by simp [execVbscale, h]

@[simp] theorem execVshare_canonical (o : Ops) (s : State) (h : Canonical s.stores) : CanonicalAfter (execVshare o s) := by
  unfold execVshare
  refine issue_canonical h ?_
  repeat' first | with_reducible refine keeps_bind ?_ fun _ => ?_ | split
  all_goals simp

@[simp] theorem vSpanOp_canonical (store : Bool) (o : Ops) (s : State) (h : Canonical s.stores) :
    CanonicalAfter (vSpanOp store o s) := by
  unfold vSpanOp
  refine issue_canonical h ?_
  repeat' first | with_reducible refine keeps_bind ?_ fun _ => ?_ | split
  all_goals simp

@[simp] theorem execVld_canonical (o : Ops) (s : State) (h : Canonical s.stores) :
    CanonicalAfter (execVld o s) := by simp [execVld, h]

@[simp] theorem execVst_canonical (o : Ops) (s : State) (h : Canonical s.stores) : CanonicalAfter (execVst o s) := by
  unfold execVst
  split
  · exact issue_canonical h (keeps_illegal 7)
  · simp [h]

@[simp] theorem laneFmtM_keeps (p : Word) : Keeps (laneFmtM p) := by
  unfold laneFmtM
  repeat' first | with_reducible refine keeps_bind ?_ fun _ => ?_ | split
  all_goals simp

@[simp] theorem laneM_keeps (p : Word) (off : Int) (z i : Nat) (store : Bool) : Keeps (laneM p off z i store) := by
  simp only [laneM]
  repeat' first | with_reducible refine keeps_bind ?_ fun _ => ?_ | split
  all_goals simp +contextual

@[simp] theorem lanesM_keeps (p : Word) (z : Nat) (store : Bool) (l : List Int) (i : Nat) :
    Keeps (lanesM p z store l i) := by
  induction l generalizing i with
  | nil => exact keeps_pure _
  | cons off r ih => exact keeps_bind (laneM_keeps _ _ _ _ _) fun _ => keeps_bind (ih _) fun _ => keeps_pure _

@[simp] theorem vLanesOp_canonical (op : Nat) (store indexed : Bool) (o : Ops) (s : State) (h : Canonical s.stores) :
    CanonicalAfter (vLanesOp op store indexed o s) := by
  unfold vLanesOp
  refine issue_canonical h ?_
  repeat' first | with_reducible refine keeps_bind ?_ fun _ => ?_ | split
  all_goals simp

@[simp] theorem execVldx_canonical (o : Ops) (s : State) (h : Canonical s.stores) :
    CanonicalAfter (execVldx o s) := by simp [execVldx, h]

@[simp] theorem execVstx_canonical (o : Ops) (s : State) (h : Canonical s.stores) :
    CanonicalAfter (execVstx o s) := by simp [execVstx, h]

@[simp] theorem execVlds_canonical (o : Ops) (s : State) (h : Canonical s.stores) :
    CanonicalAfter (execVlds o s) := by simp [execVlds, h]

@[simp] theorem execVsts_canonical (o : Ops) (s : State) (h : Canonical s.stores) :
    CanonicalAfter (execVsts o s) := by simp [execVsts, h]

@[simp] theorem execVstm_canonical (o : Ops) (s : State) (h : Canonical s.stores) : CanonicalAfter (execVstm o s) := by
  unfold execVstm
  refine issue_canonical h ?_
  repeat' first | with_reducible refine keeps_bind ?_ fun _ => ?_ | split
  all_goals simp

/-! #### The definitions of `Sys2Proof/Machine/Sched.lean` -/

@[simp] theorem decodeAt_canonical (sid ipc : Nat) (ws : List (BitVec 16)) (s : State) (h : Canonical s.stores) :
    Canonical (decodeAt sid ipc ws s).2.stores := by
  simp only [decodeAt]
  repeat' split
  all_goals simp [h]

@[simp] theorem attempt_canonical (sid : Nat) (s : State) (h : Canonical s.stores) : Canonical (attempt sid s).2.stores := by
  simp only [attempt]
  repeat' split
  all_goals simp [h]

@[simp] theorem plainWork_canonical (s : State) (h : Canonical s.stores) : Canonical (plainWork s).2.stores := by
  unfold plainWork
  repeat' split
  all_goals simp [h]

@[simp] theorem nextWork_canonical (s : State) (h : Canonical s.stores) : Canonical (nextWork s).2.stores := by
  unfold nextWork
  split <;> simp [h]

/-! ### The step -/

/-- Every instruction and event of the dispatch keeps the form. -/
theorem exec_canonical (i : Instr) {s : State} (h : Canonical s.stores) : CanonicalAfter (exec i s) := by
  unfold exec
  cases i <;> simp [h]

/-- One step keeps the form: the choice of its work does, and so does what performs the work. -/
theorem step_canonical {s : State} (h : Canonical s.stores) : CanonicalAfter (step s) := by
  have hw := nextWork_canonical s h
  unfold step
  split
  next i t hi => exact exec_canonical i (by simpa [hi] using hw)
  next t ht => simpa [ht] using hw

/-- Settles O6: whatever work the step chooses, the state that it leaves has canonical stores. -/
theorem stepKeepsMemoryCanonical : Obligations.StepKeepsMemoryCanonical := by
  unfold Obligations.StepKeepsMemoryCanonical
  intro s t hs ht
  have h := step_canonical ((canonical_stores_iff s).2 hs)
  rw [ht] at h
  exact (canonical_stores_iff t).1 h

end Sys2Proof.Machine
end

section
/-!
SUPPORT. The class checks of an instruction (`Obligations.ClassChecksOfEverySequencer`).
-/

namespace Sys2Proof.Machine

/-- Settles O7: each clause is one branch of `classTrap`, and `issue` takes its trap before the body. -/
theorem classChecksOfEverySequencer : Obligations.ClassChecksOfEverySequencer := by
  unfold Obligations.ClassChecksOfEverySequencer
  refine ⟨?_, ?_, ?_, ?_, ?_, ?_, ?_, ?_, ?_, fun cls c s body h => issue_of_class h⟩
  all_goals simp +contextual [classTrap]

end Sys2Proof.Machine
end

section
/-!
SUPPORT. What a step performs (`Obligations.StepRunsTheDecodedInstruction`): the branches of `nextWork`, then those of `attempt`.
-/

namespace Sys2Proof.Machine

/-! ### The work of a step -/

theorem step_of_overfull {s : State} {k : Nat} (h : overfull s = some k) :
    step s = exec .registerEvict { s with ev := { a := k / 128, b := k % 128 } } := by
  simp [step, nextWork, h]

theorem step_of_due {s : State} {i : Instr} {a : EvArg} {r : List (Nat × Instr × EvArg)} (ho : overfull s = none)
    (h : dueEvent s = some ((i, a), r)) : step s = exec i { s with agenda := r, ev := a } := by
  simp [step, nextWork, ho, plainWork, h]

/-- With no event due, the strand chosen makes its attempt. -/
theorem step_of_attempt {s t : State} {sid : Nat} {i : Option Instr} (ho : overfull s = none) (hd : dueEvent s = none)
    (hc : choose s s.slots = some sid) (ha : attempt sid (stepTaken sid s) = (i, t)) :
    step s = match i with
      | some i => exec i t
      | none => .next t := by
  cases i <;> simp [step, nextWork, ho, plainWork, hd, hc, ha]

theorem step_of_late {s : State} {i : Instr} {a : EvArg} {r : List (Nat × Instr × EvArg)} (ho : overfull s = none)
    (hd : dueEvent s = none) (hc : choose s s.slots = none) (h : lateEvent s = some ((i, a), r)) :
    step s = exec i { s with agenda := r, ev := a } := by
  simp [step, nextWork, ho, plainWork, hd, hc, h]

theorem step_of_idle {s : State} (ho : overfull s = none) (hd : dueEvent s = none) (hc : choose s s.slots = none)
    (h : lateEvent s = none) : step s = .next { s with now := s.now + 1 } := by
  simp [step, nextWork, ho, plainWork, hd, hc, h]

/-- A class of events before which none is due comes next. -/
theorem dueEvent_of_classes {s : State} {before after : List (Instr → Bool)} {p : Instr → Bool}
    (hl : [stampFirst, arrivalFirst, scFirst, fun i => !comesLast i && !afterStores i, afterStores] = before ++ p :: after)
    (hb : ∀ q ∈ before, takeEvent s.now q s.agenda = none) {e : (Instr × EvArg) × List (Nat × Instr × EvArg)}
    (hp : takeEvent s.now p s.agenda = some e) : dueEvent s = some e := by
  have hn : before.findSome? (fun q => takeEvent s.now q s.agenda) = none := List.findSome?_eq_none_iff.2 hb
  simp [dueEvent, hl, List.findSome?_append, hn, hp]

theorem attempt_of_redo {s : State} {sid : Nat} {r : Redo} (h : redoNow s sid = some r) :
    attempt sid s = (none, redoIssue sid r s) := by simp [attempt, h]

theorem decodeAt_of_ok {s : State} {sid ipc : Nat} {ws : List (BitVec 16)} {i : Instr}
    (h : decodeWords (accepted s (pkgOfC (cidOf sid))) ws = .ok i) :
    decodeAt sid ipc ws s = (some i, { s with cur := { sid := sid, ipc := ipc, words := ws } }) := by
  have ha : accepted { s with cur := { sid := sid, ipc := ipc, words := ws } } = accepted s := rfl
  simp [decodeAt, ha, h]

theorem attempt_of_fetch {s : State} {sid : Nat} {ws : List (BitVec 16)} (hr : redoNow s sid = none)
    (hf : (slotAt (redoGone sid s) sid).fwd = []) (hpc : (slotAt (redoGone sid s) sid).pc % 2 = 0)
    (hw : fetchWords (redoGone sid s) sid 5 (slotAt (redoGone sid s) sid).pc = .words ws) :
    attempt sid s = decodeAt sid (slotAt (redoGone sid s) sid).pc ws (redoGone sid s) := by
  simp [attempt, hr, hf, hpc, hw]

theorem attempt_of_forwarded {s : State} {sid : Nat} {f : Fwd} {r : List Fwd} (hr : redoNow s sid = none)
    (hf : (slotAt (redoGone sid s) sid).fwd = f :: r) :
    attempt sid s = decodeAt sid (slotAt (redoGone sid s) sid).pc f.words (redoGone sid s) := by
  simp [attempt, hr, hf]

/-- Settles O1: the clauses are the branches of `nextWork`, then those of `attempt`. -/
theorem stepRunsTheDecodedInstruction : Obligations.StepRunsTheDecodedInstruction := by
  unfold Obligations.StepRunsTheDecodedInstruction
  refine ⟨fun s k => step_of_overfull, fun s ho => ⟨fun i a r => step_of_due ho, ?_, ?_, ?_, ?_, ?_, ?_, ?_,
    fun i a r hd hc => step_of_late ho hd hc, fun hd hc => step_of_idle ho hd hc⟩⟩
  case refine_1 =>
    exact fun e he => dueEvent_of_classes (before := []) rfl (by simp) he
  case refine_2 =>
    exact fun h1 e he => dueEvent_of_classes (before := [stampFirst]) rfl (by simp [h1]) he
  case refine_3 =>
    exact fun h1 h2 e he => dueEvent_of_classes (before := [stampFirst, arrivalFirst]) rfl (by simp [h1, h2]) he
  case refine_4 =>
    intro h1 h2 h3 h4
    simp only [dueEvent, List.findSome?, h1, h2, h3, h4]
    cases takeEvent s.now afterStores s.agenda <;> rfl
  case refine_5 =>
    intro sid r hd hc hr
    rw [step_of_attempt ho hd hc (attempt_of_redo hr)]
  case refine_6 =>
    intro sid ws i hd hc hr u hf hpc hw hi
    rw [step_of_attempt ho hd hc ((attempt_of_fetch hr hf hpc hw).trans (decodeAt_of_ok hi))]
    rfl
  case refine_7 =>
    intro sid f r i hd hc hr u hf hi
    rw [step_of_attempt ho hd hc ((attempt_of_forwarded hr hf).trans (decodeAt_of_ok hi))]
    rfl

end Sys2Proof.Machine
end

section
/-!
SUPPORT. A g register as a source operand (`Obligations.RegisterOperandsRead`): one lemma for each way that `readG` ends.
-/

namespace Sys2Proof.Machine

/-- A step whose value is changed. -/
theorem map_apply {α β : Type} (f : α → β) (x : M α) (s : State) :
    (f <$> x) s = match x s with
      | .ok (a, t) => .ok (f a, t)
      | .error e => .error e := by
  rw [map_eq_pure_bind, bind_apply]
  rfl

/-! ### A g register as a source -/

theorem regOf_eq_zero {n : Nat} (hn : ¬ (32 ≤ n ∧ n < 48)) : regOf n = 0 ↔ n = 0 := by
  by_cases h : n < 32
  · simp [regOf, h]
  · have h' : ¬ n < 48 := fun h' => hn ⟨by omega, h'⟩
    simp only [regOf, h, h', if_false]; omega

theorem src_of_reg {n : Nat} (w : Nat) (pk : Bool) (hn : ¬ (32 ≤ n ∧ n < 48)) : src n w pk = readG (regOf n) n := by
  simp [src, hn]

theorem readG_zero (opn : Nat) (s : State) : readG 0 opn s = .ok (0#64, s) := by
  simp [readG, bind_apply]

/-- A register with a result to come waits for it (R213). -/
theorem readG_of_busy {r : Nat} {s : State} (opn : Nat) (hr : r ≠ 0) (hb : r ∈ (slotAt s s.cur.sid).busy) :
    readG r opn s = .error .wait := by
  simp [readG, bind_apply, hr, hb]

/-- A parked register is fetched (R39). -/
theorem readG_of_parked {r : Nat} {s : State} (opn : Nat) (hr : r ≠ 0) (hb : r ∉ (slotAt s s.cur.sid).busy)
    (hp : tget s.place (fileKey s.cur.sid r) .phys ≠ .phys) : readG r opn s = .error (.fetchReg r) := by
  simp [readG, bind_apply, hr, hb, hp]

section
variable {r : Nat} {s : State} (opn : Nat) (hr : r ≠ 0) (hb : r ∉ (slotAt s s.cur.sid).busy)
  (hp : tget s.place (fileKey s.cur.sid r) .phys = .phys)
include hr hb hp

theorem readG_of_absent (h : (slotAt s s.cur.sid).pres.toNat.testBit r = false) : readG r opn s = .error (.waitReg r) := by
  simp [readG, bind_apply, hr, hb, hp, h]

theorem readG_of_live (h : (slotAt s s.cur.sid).pres.toNat.testBit r = true) (hl : (slotAt s s.cur.sid).live.toNat.testBit r = true) :
    readG r opn s = .ok (gGet s s.cur.sid r, s) := by
  simp [readG, bind_apply, hr, hb, hp, h, hl]

theorem readG_of_dead_strict (h : (slotAt s s.cur.sid).pres.toNat.testBit r = true)
    (hl : (slotAt s s.cur.sid).live.toNat.testBit r = false) (hs : (coreAt s (cidOf s.cur.sid)).strict = true) :
    readG r opn s = .error (.trap 4 (word opn) 0#64) := by
  simp [readG, bind_apply, hr, hb, hp, h, hl, hs]

theorem readG_of_dead_free (h : (slotAt s s.cur.sid).pres.toNat.testBit r = true)
    (hl : (slotAt s s.cur.sid).live.toNat.testBit r = false) (hs : (coreAt s (cidOf s.cur.sid)).strict = false) :
    readG r opn s = .ok (Config.freeWord s.free, { s with free := s.free + 1 }) := by
  simp [readG, bind_apply, hr, hb, hp, h, hl, hs, freeValue, map_apply]

end

/-- Settles O11: an operand that names a g register is a read of it, whose cases are the clauses. -/
theorem registerOperandsRead : Obligations.RegisterOperandsRead := by
  unfold Obligations.RegisterOperandsRead
  refine ⟨fun s w pk => readG_zero 0 s, fun s n w pk _ hh hn => ?_⟩
  have hr : regOf n ≠ 0 := mt (regOf_eq_zero hh).1 hn
  rw [src_of_reg w pk hh]
  exact ⟨readG_of_busy n hr, fun hb hp => readG_of_parked n hr hb hp, fun hb hp => ⟨readG_of_absent n hr hb hp,
    readG_of_live n hr hb hp, readG_of_dead_strict n hr hb hp, readG_of_dead_free n hr hb hp⟩⟩

end Sys2Proof.Machine
end

section
/-!
SUPPORT. Results on their way to a g register (`Obligations.ResultsReachTheirRegister`): what `gSet`, `deliver` and `lateResult` write.
-/

namespace Sys2Proof.Machine

/-! ### Writes of a g register -/

theorem testBit_or_word_pow {r : Nat} (w : Word) (hr : r < 64) : (w ||| word (2 ^ r)).toNat.testBit r = true := by
  have hp : 2 ^ r < 2 ^ 64 := Nat.pow_lt_pow_right (by decide) hr
  rw [BitVec.toNat_or, BitVec.toNat_ofNat, Nat.mod_eq_of_lt hp]
  simp

theorem gGet_gSet_self {sid r : Nat} (x : Word) (s : State) (hr : 0 < r) : gGet (gSet sid r x s) sid r = x := by
  simp [gGet, gSet, Nat.ne_of_gt hr]

/-- A table of 64 entries a strand, written at register `r` of strand `sid`, reads as before elsewhere. -/
theorem gGet_of_tput {s t : State} {sid r : Nat} {x : Word} (ht : t.g = tput s.g (sid * 64 + r) x) (hr : r < 64) :
    keepsG s t sid r := by
  intro i j hj hne
  have : i * 64 + j ≠ sid * 64 + r := by omega
  simp [gGet, ht, tget_tput_of_ne _ _ _ this]

theorem gSet_keepsG {sid r : Nat} (x : Word) (s : State) (h0 : 0 < r) (hr : r < 64) : keepsG s (gSet sid r x s) sid r :=
  gGet_of_tput (x := x) (by simp [gSet, Nat.ne_of_gt h0]) hr

theorem slotAt_gSet_self {sid r : Nat} (x : Word) (s : State) (hr : 0 < r) : slotAt (gSet sid r x s) sid =
    { slotAt s sid with
      pres := (slotAt s sid).pres ||| word (2 ^ r), live := (slotAt s sid).live ||| word (2 ^ r)
      wrG := (slotAt s sid).wrG ||| word (2 ^ r), kills := (slotAt s sid).kills &&& ~~~ word (2 ^ r) } := by
  simp [gSet, Nat.ne_of_gt hr, slotAt]

@[simp] theorem gSet_now (sid r : Nat) (x : Word) (s : State) : (gSet sid r x s).now = s.now := by unfold gSet; split <;> rfl
@[simp] theorem gSet_place (sid r : Nat) (x : Word) (s : State) : (gSet sid r x s).place = s.place := by unfold gSet; split <;> rfl

theorem writeReg_of_lt {sid r : Nat} (x : Word) (s : State) (hr : r < 64) : writeReg sid r x s = gSet sid r x s := by
  have h : r % 128 = r := Nat.mod_eq_of_lt (by omega)
  simp [writeReg, h, hr]

/-! ### Results that a body delivers -/

section
variable {s : State} {r lat : Nat} (x : Word) (h0 : 0 < r) (hr : r < 64)
include h0 hr

theorem deliver_of_le_one (hl : lat ≤ 1) :
    deliver r lat x s = modSlot s.cur.sid (fun y => { y with wr1 := some (r, s.now + 1) }) (gSet s.cur.sid r x s) := by
  have h : r % 128 = r := Nat.mod_eq_of_lt (by omega)
  have h80 : r < 80 := by omega
  simp [deliver, h, Nat.ne_of_gt h0, hl, h80, writeReg_of_lt x s hr]

theorem deliver_of_one_lt (hl : 1 < lat) :
    deliver r lat x s = post (s.now + lat) .resultWriteback { a := s.cur.sid, b := (slotAt s s.cur.sid).gen, c := r, w := x }
      (addBusy s.cur.sid r s) := by
  have h : r % 128 = r := Nat.mod_eq_of_lt (by omega)
  have h80 : r < 80 := by omega
  have hm : max 1 lat = lat := by omega
  have hl' : ¬ lat ≤ 1 := by omega
  simp [deliver, h, Nat.ne_of_gt h0, hl', h80, hm]

end

@[simp] theorem gSet_cur (sid r : Nat) (x : Word) (s : State) : (gSet sid r x s).cur = s.cur := by unfold gSet; split <;> rfl
@[simp] theorem kSet_cur (sid r : Nat) (x : Word) (s : State) : (kSet sid r x s).cur = s.cur := rfl

/-- A result at the end of a body leaves the instruction register. -/
@[simp] theorem deliver_cur (rid lat : Nat) (x : Word) (s : State) : (deliver rid lat x s).cur = s.cur := by
  unfold deliver
  dsimp only
  split_ifs with h0 hl
  · rfl
  · have h80 : rid % 128 < 80 := hl.2
    simp only [modSlot_cur, writeReg, h80, if_true]
    split <;> simp
  all_goals rfl

/-! ### Results that land later -/

@[simp] theorem delBusy_g (sid r : Nat) (s : State) : (delBusy sid r s).g = s.g := rfl
@[simp] theorem delBusy_mem (sid r : Nat) (s : State) : (delBusy sid r s).mem = s.mem := rfl
@[simp] theorem delBusy_place (sid r : Nat) (s : State) : (delBusy sid r s).place = s.place := rfl
@[simp] theorem slotAt_delBusy_self (sid r : Nat) (s : State) :
    slotAt (delBusy sid r s) sid = { slotAt s sid with busy := (slotAt s sid).busy.erase r } := by simp [delBusy]

@[simp] theorem regToFrame_g (sid rid : Nat) (s : State) : (regToFrame sid rid s).g = s.g := by
  unfold regToFrame; dsimp only; split <;> rfl

/-- A register's copy in a frame lies in the strand's own frame (R36). -/
theorem regToFrame_keepsOutside {sid rid : Nat} (s : State) (hr : rid < 64) :
    keepsOutside s (regToFrame sid rid s) (frameKey sid) 0x400 := by
  intro a ha
  have h80 : rid < 80 := by omega
  simp only [regToFrame, hr, h80, if_true]
  rw [mget_mwrite_outside, mget_mwrite_outside]
  · simp [natBytes]; omega
  · simp [wordsBytes, natBytes]; omega

theorem syncFrame_of_not_swapped {sid rid : Nat} {s : State} (h : (slotAt s sid).st ≠ .swapped) :
    syncFrame sid rid s = if tget s.place (fileKey sid rid) .phys = .frame then regToFrame sid rid s else s := by
  simp [syncFrame, h]

section
variable {s : State} {sid r : Nat} (x : Word) (h0 : 0 < r) (hr : r < 64)
include h0 hr

/-- The late result of a g register of a strand in the core: the write, and its copy in the frame where it is parked there. -/
theorem lateResult_of_lt (hs : (slotAt s sid).st ≠ .swapped) :
    lateResult sid r x s = if tget s.place (fileKey sid r) .phys = .frame
      then regToFrame sid r (gSet sid r x (delBusy sid r s)) else gSet sid r x (delBusy sid r s) := by
  have h : r % 128 = r := Nat.mod_eq_of_lt (by omega)
  simp only [lateResult, h, Nat.ne_of_gt h0, if_false, writeReg_of_lt x _ hr]
  rw [syncFrame_of_not_swapped (by simpa [slotAt_gSet_self x _ h0] using hs)]
  simp

theorem lateResult_g (hs : (slotAt s sid).st ≠ .swapped) : (lateResult sid r x s).g = tput s.g (sid * 64 + r) x := by
  rw [lateResult_of_lt x h0 hr hs]
  split <;> simp [gSet, Nat.ne_of_gt h0]

theorem lateResult_keepsOutside (hs : (slotAt s sid).st ≠ .swapped) :
    keepsOutside s (lateResult sid r x s) (frameKey sid) 0x400 := by
  intro a ha
  rw [lateResult_of_lt x h0 hr hs]
  split
  · simpa using regToFrame_keepsOutside (gSet sid r x (delBusy sid r s)) hr a ha
  · simp

theorem lateResult_mem (hs : (slotAt s sid).st ≠ .swapped) (hp : tget s.place (fileKey sid r) .phys ≠ .frame) :
    (lateResult sid r x s).mem = s.mem := by
  rw [lateResult_of_lt x h0 hr hs]
  simp [hp]

end

theorem gGet_of_g_tput {t : State} {g : Tab Word} {sid r : Nat} {x : Word} (h0 : 0 < r) (ht : t.g = tput g (sid * 64 + r) x) :
    gGet t sid r = x := by
  simp [gGet, Nat.ne_of_gt h0, ht]

theorem landFree_of_lt {sid r : Nat} (x : Word) (s : State) (h0 : 0 < r) (hr : r < 64) :
    landFree sid r x s = { s with g := tput s.g (sid * 64 + r) x } := by
  have h : r % 128 = r := Nat.mod_eq_of_lt (by omega)
  have h64 : ¬ 64 ≤ r := by omega
  simp [landFree, h, Nat.ne_of_gt h0, h64]

/-- RESULT_WRITEBACK of a strand in its life. -/
theorem exec_resultWriteback_of_live {s : State} (hg : (slotAt s s.ev.a).gen = s.ev.b) (hf : (slotAt s s.ev.a).st ≠ .free) :
    exec .resultWriteback s = .next (lateResult s.ev.a s.ev.c s.ev.w s) := by
  simp [exec, execResultWriteback, hg, hf]

/-- RESULT_WRITEBACK after the strand's STOP. -/
theorem exec_resultWriteback_of_freed {s : State} (hf : freedLife s s.ev.a s.ev.b = true) (hr : s.ev.c < 64) :
    exec .resultWriteback s = .next (landFree s.ev.a s.ev.c s.ev.w s) := by
  have h80 : ¬ 80 ≤ s.ev.c % 128 := by omega
  have hst : (slotAt s s.ev.a).st = .free := by
    simp only [freedLife, Bool.and_eq_true, beq_iff_eq] at hf
    exact hf.2
  simp [exec, execResultWriteback, hst, h80, hf]

/-- Settles O14: a result is a `gSet`, at once or by its event, and `gSet` writes one entry. -/
theorem resultsReachTheirRegister : Obligations.ResultsReachTheirRegister := by
  unfold Obligations.ResultsReachTheirRegister
  refine ⟨fun s sid x => gSet_zero sid x s, ?write, ?now, ?later, ?event, ?freed⟩
  case write =>
    intro s sid r x h0 hr
    refine ⟨gGet_gSet_self x s h0, ?_, ?_, gSet_keepsG x s h0 hr, by simp⟩
    · rw [slotAt_gSet_self x s h0]; exact testBit_or_word_pow _ hr
    · rw [slotAt_gSet_self x s h0]; exact testBit_or_word_pow _ hr
  case now =>
    intro s r lat x h0 hr hl
    rw [deliver_of_le_one x h0 hr hl, gGet_modSlot]
    exact gGet_gSet_self x s h0
  case later =>
    intro s r lat x h0 hr hl
    rw [deliver_of_one_lt x h0 hr hl]
    refine ⟨by simp [post], by simp [addBusy], rfl⟩
  case event =>
    intro s hg hf hw h0 hr
    have ht := lateResult_g s.ev.w h0 hr hw
    exact ⟨_, exec_resultWriteback_of_live hg hf, gGet_of_g_tput h0 ht, gGet_of_tput ht hr,
      lateResult_keepsOutside s.ev.w h0 hr hw, fun hp a => by rw [lateResult_mem s.ev.w h0 hr hw hp]⟩
  case freed =>
    intro s hf h0 hr
    refine ⟨_, exec_resultWriteback_of_freed hf hr, ?_⟩
    rw [landFree_of_lt s.ev.w s h0 hr]
    exact ⟨gGet_of_g_tput h0 rfl, gGet_of_tput rfl hr, rfl, rfl⟩

end Sys2Proof.Machine
end

section
/-!
SUPPORT. What the read of a source operand may change (`readKeeps`), so that what a body finds before the read still stands after it.
-/

namespace Sys2Proof.Machine

/-! ### The state in which a body starts -/

@[simp] theorem slotAt_atIssue (s : State) (sid : Nat) : slotAt (atIssue s) sid = slotAt s sid := rfl
@[simp] theorem coreAt_atIssue (s : State) (cid : Nat) : coreAt (atIssue s) cid = coreAt s cid := rfl
@[simp] theorem atIssue_now (s : State) : (atIssue s).now = s.now := rfl
@[simp] theorem atIssue_pairs (s : State) : (atIssue s).pairs = s.pairs := rfl
@[simp] theorem atIssue_gangs (s : State) : (atIssue s).gangs = s.gangs := rfl
@[simp] theorem atIssue_bars (s : State) : (atIssue s).bars = s.bars := rfl
@[simp] theorem atIssue_groups (s : State) : (atIssue s).groups = s.groups := rfl
@[simp] theorem atIssue_cmds (s : State) : (atIssue s).cmds = s.cmds := rfl
@[simp] theorem atIssue_place (s : State) : (atIssue s).place = s.place := rfl

/-! ### What the read of a source operand changes -/

/-- All that a read of an operand may change: the counter of free values (R41), and what the first read of a grant's payload sets, the
queue's marks, the binding and its entry, and the strand's regions handed over (R119). -/
def readKeeps (s t : State) : Prop :=
  t = { s with free := t.free, slots := t.slots, rx := t.rx, binds := t.binds, rt := t.rt }
  ∧ ∀ sid, slotAt t sid = { slotAt s sid with codeReg := (slotAt t sid).codeReg }

theorem readKeeps_refl (s : State) : readKeeps s s := ⟨rfl, fun _ => rfl⟩

theorem readKeeps_trans {s t u : State} (h : readKeeps s t) (k : readKeeps t u) : readKeeps s u := by
  refine ⟨?_, fun sid => ?_⟩
  · rw [k.1, h.1]
  · rw [k.2 sid, h.2 sid]

theorem modRx_readKeeps (rk : Nat) (f : RxQ → RxQ) (s : State) : readKeeps s (modRx rk f s) := ⟨rfl, fun _ => rfl⟩
theorem modBind_readKeeps (e : Nat) (f : Binding → Binding) (s : State) : readKeeps s (modBind e f s) := ⟨rfl, fun _ => rfl⟩
theorem putRt_readKeeps (e : Nat) (x : Word × Word) (s : State) : readKeeps s (putRt e x s) := ⟨rfl, fun _ => rfl⟩
theorem freeValue_readKeeps (s : State) : readKeeps s (freeValue s).2 := ⟨rfl, fun _ => rfl⟩

theorem modSlot_codeReg_readKeeps (sid : Nat) (f : Slot → List (Nat × Nat × Nat)) (s : State) :
    readKeeps s (modSlot sid (fun x => { x with codeReg := f x }) s) := by
  refine ⟨rfl, fun i => ?_⟩
  by_cases hi : i = sid
  · subst hi; simp
  · rw [slotAt_modSlot_of_ne _ _ hi]

theorem grantRead_readKeeps (sid rk w : Nat) (sender payload : Word) (s : State) :
    readKeeps s (grantRead sid rk w sender payload s) := by
  simp only [grantRead]
  split_ifs
  · exact readKeeps_trans (modRx_readKeeps _ _ _) (readKeeps_trans (modSlot_codeReg_readKeeps _ _ _) (modBind_readKeeps _ _ _))
  · exact readKeeps_trans (modRx_readKeeps _ _ _) (readKeeps_trans (modSlot_codeReg_readKeeps _ _ _)
      (readKeeps_trans (modBind_readKeeps _ _ _) (putRt_readKeeps _ _ _)))
  · exact readKeeps_refl s

/-- A step of a body that changes no more than the read of an operand does. -/
def ReadsOnly {α : Type} (m : M α) : Prop := ∀ s a t, m s = .ok (a, t) → readKeeps s t

@[simp] theorem readsOnly_pure {α : Type} (a : α) : ReadsOnly (pure a : M α) := by
  intro s b t h
  simp only [pure_apply, Except.ok.injEq, Prod.mk.injEq] at h
  exact h.2 ▸ readKeeps_refl s

@[simp] theorem readsOnly_askM {α : Type} (f : State → α) : ReadsOnly (askM f) := by
  intro s b t h
  simp only [askM_apply, Except.ok.injEq, Prod.mk.injEq] at h
  exact h.2 ▸ readKeeps_refl s

@[simp] theorem readsOnly_waitM {α : Type} : ReadsOnly (waitM : M α) := fun s a t h => by simp at h
@[simp] theorem readsOnly_trapM {α : Type} (c : Nat) (tv tv2 : Word) : ReadsOnly (trapM c tv tv2 : M α) := fun s a t h => by simp at h
@[simp] theorem readsOnly_stopM {α : Type} (e : Stop) : ReadsOnly (stopM e : M α) := fun s a t h => by simp at h

theorem readsOnly_updM {f : State → State} (hf : ∀ s, readKeeps s (f s)) : ReadsOnly (updM f) := by
  intro s a t h
  simp only [updM_apply, Except.ok.injEq, Prod.mk.injEq] at h
  exact h.2 ▸ hf s

theorem readsOnly_bind {α β : Type} {x : M α} {f : α → M β} (hx : ReadsOnly x) (hf : ∀ a, ReadsOnly (f a)) :
    ReadsOnly (x >>= f) := by
  intro s b u h
  obtain ⟨a, t, h1, h2⟩ := bind_ok h
  exact readKeeps_trans (hx s a t h1) (hf a t b u h2)

theorem readHandle_readsOnly (hn w : Nat) (pk : Bool) : ReadsOnly (readHandle hn w pk) := by
  refine readsOnly_bind (readsOnly_askM _) fun s => ?_
  dsimp only
  repeat' split
  case h_2.isTrue => exact readsOnly_bind (readsOnly_updM fun s => grantRead_readKeeps _ _ _ _ _ s) fun _ => readsOnly_pure _
  all_goals simp

theorem readG_readsOnly (r opn : Nat) : ReadsOnly (readG r opn) := by
  refine readsOnly_bind (readsOnly_askM _) fun s => ?_
  dsimp only
  repeat' split
  case isTrue.isFalse =>
    exact readsOnly_bind (readsOnly_askM _) fun _ => readsOnly_bind (readsOnly_updM freeValue_readKeeps) fun _ => readsOnly_pure _
  all_goals simp

theorem src_readsOnly (n w : Nat) (pk : Bool) : ReadsOnly (src n w pk) := by
  unfold src
  split
  · exact readHandle_readsOnly _ _ _
  · exact readG_readsOnly _ _

/-! The fields that a read leaves. -/

section
variable {s t : State} (h : readKeeps s t)
include h

theorem readKeeps_now : t.now = s.now := by rw [h.1]
theorem readKeeps_cur : t.cur = s.cur := by rw [h.1]
theorem readKeeps_pairs : t.pairs = s.pairs := by rw [h.1]
theorem readKeeps_cores : t.cores = s.cores := by rw [h.1]

theorem readKeeps_coreAt (cid : Nat) : coreAt t cid = coreAt s cid := by simp [coreAt, readKeeps_cores h]
theorem readKeeps_pairSet (sid : Nat) : (slotAt t sid).pairSet = (slotAt s sid).pairSet := by rw [h.2 sid]

end

/-- The instruction register of a body that has read an operand is as at its start. -/
theorem readsB_cur {cls : Cls} {o : Ops} {s t : State} {b : Word} (h : readsB cls o s b t) : t.cur = (atIssue s).cur :=
  readKeeps_cur (src_readsOnly _ _ _ _ _ _ h.2)

theorem readsB_readKeeps {cls : Cls} {o : Ops} {s t : State} {b : Word} (h : readsB cls o s b t) : readKeeps (atIssue s) t :=
  src_readsOnly _ _ _ _ _ _ h.2

end Sys2Proof.Machine
end

section
/-!
SUPPORT. PUSHB and BRQ (`Obligations.BranchOutcomeQueue`): one lemma for each way that they end.
-/

namespace Sys2Proof.Machine

/-! ### The branch-outcome queue -/

theorem drainM_of_drained {s : State} (h : drained s s.cur.sid = true) : drainM s = .ok ((), s) := by
  simp [drainM, bind_apply, h]

theorem drained_atIssue (s : State) (sid : Nat) : drained (atIssue s) sid = drained s sid := rfl

/-- The marks of last uses change the strand's live set and the places of its registers, and nothing else. -/
theorem killReg_cur (n : Nat) (s : State) : (killReg n s).cur = s.cur := by
  unfold killReg; dsimp only; split_ifs <;> rfl

theorem markLastB_cur (o : Ops) (s : State) : (markLastB o s).cur = s.cur := by
  unfold markLastB; split <;> simp [killReg_cur]

theorem markLast_cur (o : Ops) (s : State) : (markLast o s).cur = s.cur := by
  unfold markLast; dsimp only; split_ifs <;> simp [killReg_cur]

theorem relTarget_eq (s : State) (off : Int) : relTarget s off = (((s.cur.ipc : Int) + 2 * off) % 2 ^ 56).toNat := by
  simp [relTarget, vaTop]

section
variable {s : State} (o : Ops)

/-- PUSHB traps where the strand has no partner, or a stopped one whose entries are used up (R34, R232). -/
theorem exec_pushb_of_gone (h : (slotAt s s.cur.sid).paired = false ∨ (partnerGone s s.cur.sid = true
      ∧ takeBranch (slotAt s s.cur.sid).xseq (pairAt s (pairKey s s.cur.sid)).br = none)) :
    exec (.pushb o) s = .next (trapsAt s 0x0E 0#64 0#64) := by
  simp only [exec, execPushb, h, if_true]
  exact issue_of_trap (cls := .b) rfl rfl

theorem exec_brq_of_gone (h : (slotAt s s.cur.sid).paired = false ∨ (partnerGone s s.cur.sid = true
      ∧ takeBranch (slotAt s s.cur.sid).xseq (pairAt s (pairKey s s.cur.sid)).br = none)) :
    exec (.brq o) s = .next (trapsAt s 0x0E 0#64 0#64) := by
  refine issue_of_trap (cls := .b) rfl ?_
  rcases h with h | ⟨hg, hn⟩
  · simp [h]
  · by_cases hp : (slotAt s s.cur.sid).paired = false
    · simp [hp]
    · simp [hp, hn, hg]

theorem exec_brq_of_empty (hp : (slotAt s s.cur.sid).paired = true) (hg : partnerGone s s.cur.sid = false)
    (hn : takeBranch (slotAt s s.cur.sid).xseq (pairAt s (pairKey s s.cur.sid)).br = none) :
    exec (.brq o) s = .next (waitState s) := by
  refine issue_of_wait (cls := .b) rfl ?_
  simp [hp, hn, hg]

/-- BRQ with an entry of the partner's: it waits until the entry is available, and branches where it is 1 (R233). -/
theorem exec_brq_of_entry {v : Bool} {at' : Nat} {r : List (Bool × Bool × Nat)} (hp : (slotAt s s.cur.sid).paired = true)
    (ht : takeBranch (slotAt s s.cur.sid).xseq (pairAt s (pairKey s s.cur.sid)).br = some ((v, at'), r)) :
    (at' ≤ s.now → exec (.brq o) s = .next (completeIssue (
        let t := modPair (pairKey s s.cur.sid) (fun p => { p with br := r }) (atIssue s)
        if v = true then transfer (relTarget s (immJ o)) 2 t else t)))
    ∧ (s.now < at' → exec (.brq o) s = .next (waitState s)) := by
  constructor
  · intro h
    refine issue_of_ok (cls := .b) rfl (t := _) ?_ ?_
    · cases v <;> simp [hp, ht, h, bind_apply]
    · cases v <;> rfl
  · intro h
    refine issue_of_wait (cls := .b) rfl ?_
    simp [hp, ht, Nat.not_le.2 h, bind_apply]

end

/-- PUSHB of a strand whose partner may still take an entry. -/
theorem exec_pushb_of_partner {o : Ops} {s t : State} {b : Word} (hb : readsB .b o s b t)
    (hp : (slotAt s s.cur.sid).paired = true) (hd : drained s s.cur.sid = true)
    (hg : partnerGone s s.cur.sid = false ∨ takeBranch (slotAt s s.cur.sid).xseq (pairAt s (pairKey s s.cur.sid)).br ≠ none) :
    ((pairAt s (pairKey s s.cur.sid)).br.length < 32 →
      exec (.pushb o) s = .next (completeIssue (modPair (pairKey s s.cur.sid)
        (fun p => { p with br := p.br ++ [((slotAt s s.cur.sid).xseq, b != 0#64, s.now + 2)] }) (markLast o t))))
    ∧ (32 ≤ (pairAt s (pairKey s s.cur.sid)).br.length → exec (.pushb o) s = .next (waitState s)) := by
  have hk := readsB_readKeeps hb
  have hkey : pairKey t s.cur.sid = pairKey s s.cur.sid := by simp [pairKey, readKeeps_pairSet hk]
  have hpair : pairAt t (pairKey s s.cur.sid) = pairAt s (pairKey s s.cur.sid) := by simp [pairAt, readKeeps_pairs hk]
  have hnow : t.now = s.now := by simp [readKeeps_now hk]
  have hcond : ¬ ((slotAt s s.cur.sid).paired = false ∨ (partnerGone s s.cur.sid = true
      ∧ takeBranch (slotAt s s.cur.sid).xseq (pairAt s (pairKey s s.cur.sid)).br = none)) := by
    rcases hg with hg | hg <;> simp [hp, hg]
  constructor
  · intro hl
    refine issue_of_ok (cls := .b) rfl (t := _) ?_ ?_
    · simp [hcond, bind_apply, drainM_of_drained, drained_atIssue, hd, hb.2, hkey, hpair, hl, lastUse, hnow]
    · simp [modPair, markLast_cur, readKeeps_cur hk, atIssue]
  · intro hl
    refine issue_of_wait (cls := .b) rfl ?_
    simp [hcond, bind_apply, drainM_of_drained, drained_atIssue, hd, hb.2, hkey, hpair, Nat.not_lt.2 hl]

/-- Settles O21: each clause is a way that PUSHB or BRQ can end. -/
theorem branchOutcomeQueue : Obligations.BranchOutcomeQueue := by
  unfold Obligations.BranchOutcomeQueue
  refine ⟨fun o s b t => exec_pushb_of_partner, fun o s v at' r hp ht => ?_, fun o s => exec_brq_of_empty o,
    fun o s h => ⟨exec_brq_of_gone o h, exec_pushb_of_gone o h⟩⟩
  simpa only [relTarget_eq] using exec_brq_of_entry o hp ht

end Sys2Proof.Machine
end

section
/-!
SUPPORT. What ending a strand's wait changes (`resume`), and what it leaves unchanged.
-/

namespace Sys2Proof.Machine

/-! ### Folds -/

/-- What every step of a fold leaves, the fold leaves. -/
theorem foldl_leaves {σ α β : Type} (φ : σ → β) {f : σ → α → σ} (h : ∀ s a, φ (f s a) = φ s) (l : List α) (s : σ) :
    φ (l.foldl f s) = φ s := by
  induction l generalizing s with
  | nil => rfl
  | cons a l ih => rw [List.foldl_cons, ih, h]

/-! ### What the end of a held instruction leaves -/

theorem applyKills_frame (sid : Nat) (s : State) : applyKills sid s =
    { s with slots := (applyKills sid s).slots, place := (applyKills sid s).place, file := (applyKills sid s).file } := by
  unfold applyKills
  dsimp only
  split <;> rfl

@[simp] theorem applyKills_now (sid : Nat) (s : State) : (applyKills sid s).now = s.now := by rw [applyKills_frame]
@[simp] theorem applyKills_cur (sid : Nat) (s : State) : (applyKills sid s).cur = s.cur := by rw [applyKills_frame]
@[simp] theorem applyKills_mem (sid : Nat) (s : State) : (applyKills sid s).mem = s.mem := by rw [applyKills_frame]
@[simp] theorem applyKills_g (sid : Nat) (s : State) : (applyKills sid s).g = s.g := by rw [applyKills_frame]
@[simp] theorem applyKills_cores (sid : Nat) (s : State) : (applyKills sid s).cores = s.cores := by rw [applyKills_frame]
@[simp] theorem applyKills_gangs (sid : Nat) (s : State) : (applyKills sid s).gangs = s.gangs := by rw [applyKills_frame]
@[simp] theorem applyKills_groups (sid : Nat) (s : State) : (applyKills sid s).groups = s.groups := by rw [applyKills_frame]

@[simp] theorem slotAt_dropPlaces (gone : Nat → Bool) (s : State) (i : Nat) : slotAt (dropPlaces gone s) i = slotAt s i := rfl

/-- The last uses of a held instruction change its strand's live set, and the marks that wait. -/
theorem slotAt_applyKills_of_ne {i sid : Nat} (s : State) (h : i ≠ sid) : slotAt (applyKills sid s) i = slotAt s i := by
  unfold applyKills
  dsimp only
  split
  · rfl
  · rw [slotAt_dropPlaces, slotAt_modSlot_of_ne _ _ h]

theorem slotAt_applyKills_self (sid : Nat) (s : State) : slotAt (applyKills sid s) sid = { slotAt s sid with
    live := (slotAt s sid).live &&& ~~~ (slotAt s sid).kills, kills := 0#64 } := by
  unfold applyKills
  dsimp only
  split
  next h => rw [h, BitVec.not_zero, BitVec.and_allOnes, ← h]
  next h => rw [slotAt_dropPlaces, slotAt_modSlot_self]

@[simp] theorem resume_now (sid k : Nat) (s : State) : (resume sid k s).now = s.now := applyKills_now sid s
@[simp] theorem resume_cur (sid k : Nat) (s : State) : (resume sid k s).cur = s.cur := applyKills_cur sid s
@[simp] theorem resume_mem (sid k : Nat) (s : State) : (resume sid k s).mem = s.mem := applyKills_mem sid s
@[simp] theorem resume_g (sid k : Nat) (s : State) : (resume sid k s).g = s.g := applyKills_g sid s
@[simp] theorem resume_cores (sid k : Nat) (s : State) : (resume sid k s).cores = s.cores := applyKills_cores sid s
@[simp] theorem resume_gangs (sid k : Nat) (s : State) : (resume sid k s).gangs = s.gangs := applyKills_gangs sid s
@[simp] theorem resume_groups (sid k : Nat) (s : State) : (resume sid k s).groups = s.groups := applyKills_groups sid s

theorem slotAt_resume_of_ne {i sid : Nat} (k : Nat) (s : State) (h : i ≠ sid) : slotAt (resume sid k s) i = slotAt s i := by
  rw [← slotAt_applyKills_of_ne s h]
  exact slotAt_putSlot_of_ne _ _ h

/-- The slot of a strand after `resume`, from its slot before: it goes on after its instruction at cycle `at'`, with the loop decision, and
its pending last uses are made. -/
def resumedSlot (at' : Nat) (x : Slot) : Slot :=
  let y : Slot := { x with live := x.live &&& ~~~ x.kills, kills := 0#64 }
  let p := loopEnd y x.pc ((x.pc + 2 * x.ilen) % vaTop)
  { p.1 with
    st := if x.st = .swapped then .swapped else .ready
    hold := false, heldBy := 0, pc := p.2, readyAt := at', issued := y.issued + 1 }

theorem resume_eq (sid k : Nat) (s : State) :
    resume sid k s = putSlot sid (resumedSlot (s.now + k) (slotAt s sid)) (applyKills sid s) := by
  simp only [resume, resumedSlot, slotAt_applyKills_self, applyKills_now]

theorem slotAt_resume_self (sid k : Nat) (s : State) : slotAt (resume sid k s) sid = resumedSlot (s.now + k) (slotAt s sid) := by
  rw [resume_eq, slotAt_putSlot_self]

theorem loopEnd_arrived (x : Slot) (ipc next : Nat) : (loopEnd x ipc next).1.arrived = x.arrived := by
  simp only [loopEnd, apply_ite Prod.fst, apply_ite Slot.arrived, ite_self]

theorem resumedSlot_arrived (at' : Nat) (x : Slot) : (resumedSlot at' x).arrived = x.arrived := loopEnd_arrived _ _ _

end Sys2Proof.Machine
end

section
/-!
SUPPORT. Presence bits, TIME, SELF, and the parked and the orphaned registers (`Obligations.PresenceTimeSelfAndParkedRegisters`).
-/

namespace Sys2Proof.Machine

/-! ### Presence bits -/

theorem issue_of_fetchReg {cls : Cls} {s : State} {body : M Unit} {r : Nat} (hc : classTrap cls s = none)
    (h : body (atIssue s) = .error (.fetchReg r)) : issue cls s body = .next (waitFetch r s) := by
  simp [issue, hc, h]

theorem heldM_of_phys {n : Nat} {s : State} (h : regOf n = 0 ∨ tget s.place (fileKey s.cur.sid (regOf n)) .phys = .phys) :
    heldM n s = .ok ((), s) := by
  rcases h with h | h <;> simp [heldM, bind_apply, h]

theorem heldM_of_parked {n : Nat} {s : State} (h0 : regOf n ≠ 0)
    (h : tget s.place (fileKey s.cur.sid (regOf n)) .phys ≠ .phys) : heldM n s = .error (.fetchReg (regOf n)) := by
  simp [heldM, bind_apply, h, h0]

section
variable {o : Ops} {s : State}

theorem exec_clrp_of_handle (h1 : 32 ≤ o.a.toNat) (h2 : o.a.toNat < 48) :
    exec (.clrp o) s = .next (trapsAt s 0x0E (word (o.a.toNat - 32)) 0#64) := by
  refine issue_of_trap (cls := .b) rfl ?_
  simp [h1, h2]

section
variable (hn : ¬ (32 ≤ o.a.toNat ∧ o.a.toNat < 48)) (hc : o.exr = true → o.c = 0)
include hn hc

theorem exec_clrp_of_parked (h0 : regOf o.a.toNat ≠ 0)
    (hp : tget s.place (fileKey s.cur.sid (regOf o.a.toNat)) .phys ≠ .phys) :
    exec (.clrp o) s = .next (waitFetch (regOf o.a.toNat) s) := by
  refine issue_of_fetchReg (cls := .b) rfl ?_
  cases he : o.exr
  · simp [hn, bind_apply, heldM_of_parked (s := atIssue s) h0 hp]
  · simp [hn, bind_apply, hc he, heldM_of_parked (s := atIssue s) h0 hp]

/-- CLRP of a register in the physical file clears its bit, unless it is g0 or an arrival of this cycle sets it (R252). -/
theorem exec_clrp_of_phys (hp : regOf o.a.toNat = 0 ∨ tget s.place (fileKey s.cur.sid (regOf o.a.toNat)) .phys = .phys) :
    exec (.clrp o) s = .next (completeIssue
      (if regOf o.a.toNat = 0 ∨ (slotAt s s.cur.sid).arrivals.contains (regOf o.a.toNat, s.now) = true then atIssue s
       else modSlot s.cur.sid (fun x => { x with pres := x.pres &&& ~~~ word (2 ^ regOf o.a.toNat) }) (atIssue s))) := by
  refine issue_of_ok (cls := .b) rfl ?_ ?_
  · cases he : o.exr
    · simp [hn, bind_apply, heldM_of_phys (s := atIssue s) hp]
      rfl
    · simp [hn, bind_apply, hc he, heldM_of_phys (s := atIssue s) hp]
      rfl
  · split <;> rfl

end

/-- TESTP of a register in the physical file, or of g0 (R253). -/
theorem exec_testp_of_phys (hn : ¬ (32 ≤ o.b.toNat ∧ o.b.toNat < 48)) (hd : dstFree o (atIssue s))
    (hp : regOf o.b.toNat = 0 ∨ tget s.place (fileKey s.cur.sid (regOf o.b.toNat)) .phys = .phys) :
    exec (.testp o) s = .next (completeIssue (deliver (dstRid o) 1
      (ofBool (regOf o.b.toNat == 0 || (slotAt s s.cur.sid).pres.toNat.testBit (regOf o.b.toNat))) (atIssue s))) := by
  refine issue_of_ok (cls := .b) rfl ?_ ?_
  · rw [dstFree] at hd
    simp [hn, bind_apply, hd, heldM_of_phys (s := atIssue s) hp, writeResult]
  · rw [deliver_cur]; rfl

/-! ### TIME and SELF -/

theorem exec_time (hx : o.xi = []) (hd : dstFree o (atIssue s)) :
    exec (.time_ o) s = .next (completeIssue (deliver (dstRid o) 1 (word (timeNs s.now)) (atIssue s))) := by
  refine issue_of_ok (cls := .b) rfl ?_ ?_
  · rw [dstFree] at hd
    simp [need9, hx, bind_apply, hd, writeResult]
  · rw [deliver_cur]; rfl

section
variable (hx : o.xi.length ≤ 1)
include hx

theorem exec_self {w : Word} (hn : (bitsR o).1 < 6) (hw : selfOf s s.cur.sid (bitsR o).1 = some w) (hd : dstFree o (atIssue s)) :
    exec (.self_ o) s = .next (completeIssue (deliver (dstRid o) 1 w (atIssue s))) := by
  have hn8 : (bitsR o).1 < 8 := by omega
  have hw' : selfOf (atIssue s) s.cur.sid (bitsR o).1 = some w := hw
  refine issue_of_ok (cls := .b) rfl ?_ ?_
  · rw [dstFree] at hd
    simp [oneXi, need9, hx, hn8, bind_apply, hw', hd, writeResult]
  · rw [deliver_cur]; rfl

theorem exec_self_of_reserved (hn : 6 ≤ (bitsR o).1) :
    exec (.self_ o) s = .next (trapsAt s 1 (firstFour s.cur.words) 9#64) := by
  refine issue_of_trap (cls := .b) rfl ?_
  by_cases hn8 : (bitsR o).1 < 8
  · have hw : selfOf (atIssue s) s.cur.sid (bitsR o).1 = none := by
      have : (bitsR o).1 = 6 ∨ (bitsR o).1 = 7 := by omega
      rcases this with h | h <;> rw [h] <;> rfl
    simp [oneXi, need9, hx, hn8, bind_apply, hw]
  · simp [oneXi, need9, hx, hn8, bind_apply]

end
end

/-! ### The time-out of a presence wait -/

section
variable {s : State} (hg : (slotAt s s.ev.a).gen = s.ev.b) (hw : (slotAt s s.ev.a).waitReg = some (s.ev.c, s.ev.d))
  (hp : (slotAt s s.ev.a).pres.toNat.testBit s.ev.c = false)
include hg hw hp

theorem exec_presTimeout_of_waiting (h : (slotAt s s.ev.a).st = .waiting ∨ (slotAt s s.ev.a).st = .parked) :
    exec .presTimeout s = .next (recordTrap s.ev.a 0x10 (word s.ev.c) 0#64 (slotAt s s.ev.a).pc s) := by
  simp [exec, execPresTimeout, hg, hw, hp, h]

theorem exec_presTimeout_of_swapped (h : (slotAt s s.ev.a).st = .swapped) :
    exec .presTimeout s = .next (post (s.now + 1) .presTimeout s.ev s) := by
  simp [exec, execPresTimeout, hg, hw, hp, h]

end

/-! ### Registers that leave the physical file and come back -/

theorem mem_tdel_key {α : Type} {t : Tab α} {k : Nat} {p : Nat × α} (h : p ∈ tdel t k) : p.1 ≠ k := by
  simpa [tdel] using (List.mem_filter.1 h).2

/-- Registers that take a place in the file are those that stand in it already. -/
theorem settleFile_tfind {s : State} {key : Nat} (cid : Nat) (h : ∀ p ∈ s.file, p.1 ≠ key) :
    tfind (settleFile cid s).file key = tfind s.file key := by
  have hl : ∀ k ∈ (s.file.filter fun p => p.2 == 8 && fileCore p.1 == cid).map (·.1), k ≠ key := by
    intro k hk
    obtain ⟨p, hp, rfl⟩ := List.mem_map.1 hk
    exact h p (List.mem_filter.1 hp).1
  unfold settleFile
  generalize (s.file.filter fun p => p.2 == 8 && fileCore p.1 == cid).map (·.1) = l at hl
  clear h
  induction l generalizing s with
  | nil => rfl
  | cons k l ih =>
    rw [List.foldl_cons, ih fun j hj => hl j (List.mem_cons_of_mem _ hj)]
    exact tfind_tput_of_ne _ _ (hl k List.mem_cons_self).symm

section
variable (cid : Nat) (s : State)

@[simp] theorem settleFile_g : (settleFile cid s).g = s.g := by
  unfold settleFile
  refine foldl_leaves State.g ?_ _ _
  intros; rfl
@[simp] theorem settleFile_k : (settleFile cid s).k = s.k := by
  unfold settleFile
  refine foldl_leaves State.k ?_ _ _
  intros; rfl
@[simp] theorem settleFile_slots : (settleFile cid s).slots = s.slots := by
  unfold settleFile
  refine foldl_leaves State.slots ?_ _ _
  intros; rfl
@[simp] theorem settleFile_place : (settleFile cid s).place = s.place := by
  unfold settleFile
  refine foldl_leaves State.place ?_ _ _
  intros; rfl

end

section
variable (sid r : Nat) (s : State)

@[simp] theorem regToFrame_k : (regToFrame sid r s).k = s.k := by unfold regToFrame; dsimp only; split <;> rfl
@[simp] theorem regToFrame_slots : (regToFrame sid r s).slots = s.slots := by unfold regToFrame; dsimp only; split <;> rfl
@[simp] theorem regToFrame_place : (regToFrame sid r s).place = s.place := by unfold regToFrame; dsimp only; split <;> rfl
@[simp] theorem regToFrame_file : (regToFrame sid r s).file = s.file := by unfold regToFrame; dsimp only; split <;> rfl

end

/-- An evicted register stands where R38 parks it, and no value changes. -/
theorem evictReg_spec (sid r : Nat) (fromBank : Bool) (s : State) :
    tget (evictReg sid r fromBank s).place (fileKey sid r) .phys = parkPlace s (fileKey sid r) fromBank
    ∧ tfind (evictReg sid r fromBank s).file (fileKey sid r) = none
    ∧ (evictReg sid r fromBank s).g = s.g ∧ (evictReg sid r fromBank s).k = s.k ∧ (evictReg sid r fromBank s).slots = s.slots := by
  have hf (p : Place) : tfind (settleFile (cidOf sid) { s with
      place := tput s.place (fileKey sid r) p, file := tdel s.file (fileKey sid r) }).file (fileKey sid r) = none := by
    rw [settleFile_tfind _ fun p hp => mem_tdel_key hp]
    exact tfind_tdel_self _ _
  unfold evictReg
  dsimp only
  split <;> simp [hf]

theorem exec_registerEvict_of_phys {s : State} (hb : s.ev.b ∉ (slotAt s s.ev.a).busy)
    (hp : tget s.place (fileKey s.ev.a s.ev.b) .phys = .phys) (hf : (tfind s.file (fileKey s.ev.a s.ev.b)).isSome = true) :
    exec .registerEvict s = .next (evictReg s.ev.a s.ev.b false s) := by
  simp [exec, execRegisterEvict, hb, hp, hf]

theorem exec_registerEvict_of_bank {s : State} {b : Nat} (hb : s.ev.b ∉ (slotAt s s.ev.a).busy)
    (hp : tget s.place (fileKey s.ev.a s.ev.b) .phys = .bank b) :
    exec .registerEvict s = .next (evictReg s.ev.a s.ev.b true s) := by
  simp [exec, execRegisterEvict, hb, hp]

theorem exec_registerFetch_of_fetching {s : State} (hp : tget s.place (fileKey s.ev.a s.ev.b) .phys = .fetching)
    (hg : (slotAt s s.ev.a).gen = s.ev.c) :
    exec .registerFetch s = .next (holdReg (fileKey s.ev.a s.ev.b) { s with place := tput s.place (fileKey s.ev.a s.ev.b) .phys }) := by
  simp [exec, execRegisterFetch, hp, hg]

theorem holdReg_isSome {s : State} {key : Nat} (h : tget s.place key .phys = .phys) : (tfind (holdReg key s).file key).isSome = true := by
  simp only [holdReg, fileHold]
  split
  next hc => simpa [h] using hc
  next => simp

/-! ### Messages and signals -/

section
variable (k : Packet) (t : Nat) (s : State)

theorem postPackets_leaves {β : Type} (φ : State → β)
    (h : ∀ (s : State) (n : Nat) (a : List (Nat × Instr × EvArg)) (p : Tab Packet),
      φ { s with nextId := n, agenda := a, pkts := p } = φ s) : φ (postPackets k t s) = φ s := by
  simp only [postPackets, post, freshId]
  refine foldl_leaves φ (fun u p => ?_) _ _
  exact h u _ _ _

end

/-- A message over a link, or within a package, leaves what its packets, its numbers and the agenda do not hold. -/
theorem overLink_leaves {β : Type} (φ : State → β)
    (h : ∀ (s : State) (n : Nat) (a : List (Nat × Instr × EvArg)) (p : Tab Packet),
      φ { s with nextId := n, agenda := a, pkts := p } = φ s)
    (p q vc bytes t : Nat) (ev : Instr) (arg : EvArg) (s : State) : φ (overLink p q vc bytes t ev arg s) = φ s := by
  unfold overLink
  split
  · exact h s s.nextId _ s.pkts
  · exact postPackets_leaves _ _ _ φ h

/-- The acknowledgement of a message leaves what its packets, its access and the agenda do not hold. -/
theorem ackMsg_leaves {β : Type} (φ : State → β)
    (h : ∀ (s : State) (n : Nat) (a : List (Nat × Instr × EvArg)) (p : Tab Packet) (c : Tab Acc),
      φ { s with nextId := n, agenda := a, pkts := p, accs := c } = φ s) (m : Msg) (s : State) : φ (ackMsg m s) = φ s := by
  unfold ackMsg
  split
  · rw [overLink_leaves φ fun s n a p => h s n a p s.accs]
    unfold modAcc
    split
    · exact h s s.nextId s.agenda s.pkts _
    · rfl
  · rfl

@[simp] theorem ackMsg_g (m : Msg) (s : State) : (ackMsg m s).g = s.g := ackMsg_leaves State.g (fun _ _ _ _ _ => rfl) m s
@[simp] theorem ackMsg_mem (m : Msg) (s : State) : (ackMsg m s).mem = s.mem := ackMsg_leaves State.mem (fun _ _ _ _ _ => rfl) m s
@[simp] theorem ackMsg_slots (m : Msg) (s : State) : (ackMsg m s).slots = s.slots := ackMsg_leaves State.slots (fun _ _ _ _ _ => rfl) m s
@[simp] theorem ackMsg_cores (m : Msg) (s : State) : (ackMsg m s).cores = s.cores := ackMsg_leaves State.cores (fun _ _ _ _ _ => rfl) m s

@[simp] theorem latch_g (cid ev : Nat) (s : State) : (latch cid ev s).g = s.g := by unfold latch; dsimp only; split <;> rfl
@[simp] theorem latch_mem (cid ev : Nat) (s : State) : (latch cid ev s).mem = s.mem := by unfold latch; dsimp only; split <;> rfl
@[simp] theorem endWfe_g (cid : Nat) (s : State) : (endWfe cid s).g = s.g := by unfold endWfe; dsimp only; split <;> simp
@[simp] theorem endWfe_mem (cid : Nat) (s : State) : (endWfe cid s).mem = s.mem := by unfold endWfe; dsimp only; split <;> simp
@[simp] theorem signal_g (cid ev : Nat) (s : State) : (signal cid ev s).g = s.g := by unfold signal; dsimp only; split <;> simp
@[simp] theorem signal_mem (cid ev : Nat) (s : State) : (signal cid ev s).mem = s.mem := by unfold signal; dsimp only; split <;> simp

theorem latch_ocount (cid ev : Nat) (s : State) : (coreAt (latch cid ev s) cid).ocount = (coreAt s cid).ocount := by
  unfold latch
  dsimp only
  split <;> simp

theorem endWfe_ocount (cid : Nat) (s : State) : (coreAt (endWfe cid s) cid).ocount = (coreAt s cid).ocount := by
  unfold endWfe
  dsimp only
  split
  · rfl
  · simp [coreAt, putCore, post]

theorem signal_ocount (cid ev : Nat) (s : State) : (coreAt (signal cid ev s) cid).ocount = (coreAt s cid).ocount := by
  unfold signal
  dsimp only
  split
  · rw [endWfe_ocount, latch_ocount]
  · rw [latch_ocount]

/-- A message to an ended strand: its core's orphan queue counts it, and no register is written (R399). -/
theorem orphan_spec (m : Msg) (s : State) : (orphan m s).g = s.g ∧ (orphan m s).mem = s.mem
    ∧ (coreAt (orphan m s) (targetCid m)).ocount = ((coreAt s (targetCid m)).ocount + 1) % 2 ^ 32 := by
  refine ⟨by simp [orphan], by simp [orphan], ?_⟩
  rw [orphan, signal_ocount, coreAt_modCore_self]
  dsimp only
  split <;> rfl

theorem exec_xputArrival_of_orphan {s : State} {m : Msg} (hp : s.ev.p = .msg m) (hr : msgRefused s m = false) (hf : msgFits s m = false) :
    exec .xputArrival s = .next (ackMsg m (orphan m s)) := by
  simp [exec, execXputArrival, hp, hr, hf]

/-! ### An arriving XPUT -/

/-- What the arrival does to the strand's slot besides the write of the register: it is noted, and a wait for that register ends. -/
def noteArrival (r now : Nat) (x : Slot) : Slot :=
  { x with
    arrivals := (x.arrivals.filter fun p => p.2 == now) ++ [(r, now)]
    readyAt := match x.waitReg with
      | some (r', _) => if r' = r then max x.readyAt (now + 1) else x.readyAt
      | none => x.readyAt }

/-- The copy of a register in the strand's frame, where it stands there too. -/
def frameCopy (trapped : Bool) (sid r : Nat) (s : State) : State := if trapped then regToFrame sid r s else syncFrame sid r s

theorem syncFrame_g (sid r : Nat) (s : State) : (syncFrame sid r s).g = s.g := by
  unfold syncFrame
  dsimp only
  split_ifs <;> simp [dropPlaces]

theorem syncFrame_slots (sid r : Nat) (s : State) : (syncFrame sid r s).slots = s.slots := by
  unfold syncFrame
  dsimp only
  split_ifs <;> simp [dropPlaces]

theorem syncFrame_keepsOutside {sid r : Nat} (s : State) (hr : r < 64) : keepsOutside s (syncFrame sid r s) (frameKey sid) 0x400 := by
  unfold syncFrame
  dsimp only
  split_ifs
  · exact regToFrame_keepsOutside s hr
  · exact regToFrame_keepsOutside s hr
  · exact fun _ _ => rfl

theorem frameCopy_spec {sid r : Nat} (trapped : Bool) (s : State) (hr : r < 64) :
    (frameCopy trapped sid r s).g = s.g ∧ (frameCopy trapped sid r s).slots = s.slots
    ∧ keepsOutside s (frameCopy trapped sid r s) (frameKey sid) 0x400 := by
  cases trapped
  · exact ⟨syncFrame_g sid r s, syncFrame_slots sid r s, syncFrame_keepsOutside s hr⟩
  · exact ⟨regToFrame_g sid r s, regToFrame_slots sid r s, regToFrame_keepsOutside s hr⟩

theorem exec_xputArrival_of_fits {s : State} {m : Msg} (hp : s.ev.p = .msg m) (hr : msgRefused s m = false) (hf : msgFits s m = true)
    (hw : (slotAt s (targetSid m)).wr1 ≠ some (m.idx, s.now)) :
    exec .xputArrival s = .next (ackMsg m (frameCopy (decide ((slotAt s (targetSid m)).st = .trapped)) (targetSid m) m.idx
      (modSlot (targetSid m) (noteArrival m.idx s.now) (gSet (targetSid m) m.idx m.payload s)))) := by
  have hst : ((slotAt s (targetSid m)).wr1 == some (m.idx, s.now)) = false := by simpa using hw
  by_cases ht : (slotAt s (targetSid m)).st = .trapped
  · simp only [exec, execXputArrival, hp, hr, hf, hst, gSet_now, ht, frameCopy, decide_true, Bool.not_true, Bool.false_eq_true, if_false,
      if_true]
    rfl
  · simp only [exec, execXputArrival, hp, hr, hf, hst, gSet_now, ht, frameCopy, decide_false, Bool.not_true, Bool.false_eq_true, if_false]
    rfl

/-- Settles O33: each clause is one way in which its instruction or event ends. -/
theorem presenceTimeSelfAndParkedRegisters : Obligations.PresenceTimeSelfAndParkedRegisters := by
  unfold Obligations.PresenceTimeSelfAndParkedRegisters
  refine ⟨?clrp, fun o s => exec_clrp_of_handle, ?testp, fun o s => exec_time, fun o s w hx hn hw hd => exec_self hx hn hw hd,
    fun o s hn hx => exec_self_of_reserved hx hn, fun s sid => rfl, ?timeout, ?evict, ?fetch, ?xput, ?late⟩
  case clrp =>
    intro o s hn hc
    refine ⟨fun h0 => ?_, fun h0 hp ha => ?_, fun h0 hp ha => ?_, exec_clrp_of_parked hn hc⟩
    · rw [exec_clrp_of_phys hn hc (.inl h0), if_pos (.inl h0)]
    · rw [exec_clrp_of_phys hn hc (.inr hp), if_neg (by simpa [h0] using ha)]
    · rw [exec_clrp_of_phys hn hc (.inr hp), if_pos (.inr ha)]
  case testp =>
    intro o s hn hd hp
    rw [exec_testp_of_phys hn hd hp]
    simp [ofBool]
  case timeout =>
    intro s x hg hw hp
    exact ⟨exec_presTimeout_of_waiting hg hw hp, exec_presTimeout_of_swapped hg hw hp⟩
  case evict =>
    intro s key hb
    refine ⟨fun hp hf => ⟨_, exec_registerEvict_of_phys hb hp hf, evictReg_spec _ _ _ s⟩, fun b hp => ?_⟩
    obtain ⟨h1, _, h3⟩ := evictReg_spec s.ev.a s.ev.b true s
    exact ⟨_, exec_registerEvict_of_bank hb hp, h1, h3⟩
  case fetch =>
    intro s key hp hg
    exact ⟨_, exec_registerFetch_of_fetching hp hg, tget_tput_self _ _ _ _, holdReg_isSome (tget_tput_self _ _ _ _), rfl, rfl, rfl, rfl⟩
  case xput =>
    intro s m hp hr hf h0 hi hw
    refine ⟨_, exec_xputArrival_of_fits hp hr hf hw, ?_⟩
    generalize hu : modSlot (targetSid m) (noteArrival m.idx s.now) (gSet (targetSid m) m.idx m.payload s) = u
    obtain ⟨hg, hs, hm⟩ := frameCopy_spec (sid := targetSid m) (decide ((slotAt s (targetSid m)).st = .trapped)) u hi
    generalize frameCopy (decide ((slotAt s (targetSid m)).st = .trapped)) (targetSid m) m.idx u = v at hg hs hm
    have hgv : (ackMsg m v).g = tput s.g (targetSid m * 64 + m.idx) m.payload := by
      rw [ackMsg_g, hg, ← hu, modSlot_g, gSet, if_neg (Nat.ne_of_gt h0)]
    have hsv : slotAt (ackMsg m v) (targetSid m) = noteArrival m.idx s.now (slotAt (gSet (targetSid m) m.idx m.payload s) (targetSid m)) := by
      rw [slotAt, ackMsg_slots, hs, ← slotAt, ← hu, slotAt_modSlot_self]
    have hmv : (ackMsg m v).mem = v.mem := ackMsg_mem m v
    have hmu : u.mem = s.mem := by rw [← hu, modSlot_mem, gSet_mem]
    refine ⟨gGet_of_g_tput h0 hgv, ?_, ?_, gGet_of_tput hgv hi, fun a ha => ?_⟩
    · rw [hsv, slotAt_gSet_self _ _ h0]; exact testBit_or_word_pow _ hi
    · rw [hsv, slotAt_gSet_self _ _ h0]; exact testBit_or_word_pow _ hi
    · rw [hmv, hm a ha, hmu]
  case late =>
    intro s m hp hr hf
    obtain ⟨hg, hm, hc⟩ := orphan_spec m s
    refine ⟨_, exec_xputArrival_of_orphan hp hr hf, by rw [ackMsg_g, hg], by rw [ackMsg_mem, hm], ?_⟩
    rw [coreAt, ackMsg_cores, ← coreAt, hc]

end Sys2Proof.Machine
end

section
/-!
SUPPORT. What the end of an issue changes beside what the instruction's body did (`endKeeps`): marks, trace records, what a group forwards.
-/

namespace Sys2Proof.Machine

/-! ### Folds -/

/-- A relation that every step of a fold keeps, and that is reflexive and transitive, holds over the fold. -/
theorem foldl_keeps {α : Type} {r : State → State → Prop} (refl : ∀ s, r s s) (trans : ∀ {s t u}, r s t → r t u → r s u)
    {f : State → α → State} (h : ∀ s a, r s (f s a)) (l : List α) (s : State) : r s (l.foldl f s) := by
  induction l generalizing s with
  | nil => exact refl s
  | cons a l ih => exact trans (h s a) (ih _)

/-! ### What a trace record changes (R460, R461) -/

/-- What a unit's own write may change: memory with its records, a watch that wakes, the translation caches, the partition, and more
events. -/
def traceKeeps (s t : State) : Prop :=
  t = { s with
    mem := t.mem, olds := t.olds, dirty := t.dirty, accs := t.accs, mtus := t.mtus, parts := t.parts, agenda := t.agenda }
  ∧ s.agenda ⊆ t.agenda

theorem traceKeeps_refl (s : State) : traceKeeps s s := ⟨rfl, fun _ h => h⟩

theorem traceKeeps_trans {s t u : State} (h : traceKeeps s t) (k : traceKeeps t u) : traceKeeps s u := by
  refine ⟨?_, List.Subset.trans h.2 k.2⟩
  rw [k.1, h.1]

theorem post_traceKeeps (c : Nat) (i : Instr) (a : EvArg) (s : State) : traceKeeps s (post c i a s) :=
  ⟨rfl, List.subset_append_left _ _⟩

theorem modPart_traceKeeps (pk : Nat) (f : Part → Part) (s : State) : traceKeeps s (modPart pk f s) := ⟨rfl, fun _ h => h⟩

theorem wakeWatches_traceKeeps (s : State) (l : List (Nat × Acc)) : traceKeeps s (wakeWatches s l) := by
  induction l with
  | nil => exact traceKeeps_refl s
  | cons p l ih =>
    obtain ⟨id, a⟩ := p
    refine traceKeeps_trans ih ?_
    simp only [wakeWatches]
    split
    · split
      · exact ⟨rfl, List.subset_append_left _ _⟩
      · exact traceKeeps_refl _
    · exact traceKeeps_refl _

theorem memWrite_traceKeeps (key : Nat) (bs : List Byte) (s : State) (w : Nat × Nat) : traceKeeps s (memWrite key bs s w) := by
  unfold memWrite
  exact traceKeeps_trans ⟨rfl, fun _ h => h⟩ (wakeWatches_traceKeeps _ _)

theorem setLeaf_traceKeeps (pkg va : Nat) (w : Word) (s : State) : traceKeeps s (setLeaf pkg va w s) := by
  unfold setLeaf
  split
  · exact ⟨rfl, fun _ h => h⟩
  · exact traceKeeps_refl _

theorem dropLeaf_traceKeeps (pkg page : Nat) (s : State) : traceKeeps s (dropLeaf pkg page s) := by
  unfold dropLeaf
  refine foldl_keeps traceKeeps_refl traceKeeps_trans (fun _ _ => ?_) _ _
  exact ⟨rfl, fun _ h => h⟩

theorem markD_traceKeeps (pkg va : Nat) (s : State) : traceKeeps s (markD pkg va s) := by
  unfold markD
  dsimp only
  split
  · exact traceKeeps_trans (setLeaf_traceKeeps _ _ _ s) (dropLeaf_traceKeeps _ _ _)
  · exact traceKeeps_refl _

theorem traceBytes_traceKeeps (tid va tenant : Nat) (bs : List Byte) (s : State) : traceKeeps s (traceBytes tid va tenant bs s) := by
  unfold traceBytes engWrite markDSpan
  refine traceKeeps_trans (foldl_keeps traceKeeps_refl traceKeeps_trans (fun u a => ?_) _ _)
    (foldl_keeps traceKeeps_refl traceKeeps_trans (fun u a => ?_) _ _)
  · split
    · exact traceKeeps_refl _
    · exact markD_traceKeeps _ _ _
  · split
    · exact memWrite_traceKeeps _ _ _ _
    · exact traceKeeps_refl _

theorem traceWrite_traceKeeps (pk : Nat) (ws : List Word) (s : State) : traceKeeps s (traceWrite pk ws s) := by
  unfold traceWrite
  dsimp only
  split
  · exact traceKeeps_refl _
  · exact traceKeeps_trans (traceBytes_traceKeeps _ _ _ _ _) (modPart_traceKeeps _ _ _)

theorem fireEvent_traceKeeps (pk code : Nat) (s : State) : traceKeeps s (fireEvent pk code s) := by
  unfold fireEvent
  dsimp only
  split
  · exact post_traceKeeps _ _ _ _
  · exact traceKeeps_refl _

theorem breakHook_traceKeeps (sid : Nat) (s : State) : traceKeeps s (breakHook sid s) := by
  unfold breakHook
  dsimp only
  split
  · have h := fun (ws : List Word) (pk : Nat) => traceKeeps_trans (traceWrite_traceKeeps pk ws s) (fireEvent_traceKeeps pk 3 _)
    split
    · exact traceKeeps_trans (traceKeeps_trans (h _ _) (modPart_traceKeeps _ _ _)) (post_traceKeeps _ _ _ _)
    · exact h _ _
  · exact traceKeeps_refl _

/-! ### What the end of an issue changes -/

/-- What the end of an issue may change beside what its body did: the marks of the issue, the last uses that wait, and what a vector
group forwards or drops (R31, R46, R47, R460). -/
def endKeeps (s t : State) : Prop :=
  t = { s with
    mem := t.mem, olds := t.olds, dirty := t.dirty, accs := t.accs, mtus := t.mtus, parts := t.parts, agenda := t.agenda
    slots := t.slots, cores := t.cores, groups := t.groups, place := t.place, file := t.file }
  ∧ (∀ i, slotAt t i = { slotAt s i with
      lastPc := (slotAt t i).lastPc, lastAt := (slotAt t i).lastAt, fwd := (slotAt t i).fwd, live := (slotAt t i).live
      kills := (slotAt t i).kills, ilen := (slotAt t i).ilen, tried := (slotAt t i).tried })
  ∧ (∀ c, coreAt t c = { coreAt s c with
      lastA := (coreAt t c).lastA, usedA := (coreAt t c).usedA, lastX := (coreAt t c).lastX, usedX := (coreAt t c).usedX })
  ∧ ∀ c i a, due s c i a → i ≠ .followerIssue → due t c i a

theorem endKeeps_refl (s : State) : endKeeps s s := ⟨rfl, fun _ => rfl, fun _ => rfl, fun _ _ _ h _ => h⟩

theorem endKeeps_trans {s t u : State} (h : endKeeps s t) (k : endKeeps t u) : endKeeps s u := by
  obtain ⟨h1, h2, h3, h4⟩ := h
  obtain ⟨k1, k2, k3, k4⟩ := k
  refine ⟨?_, fun i => ?_, fun c => ?_, fun c i a hd hi => k4 c i a (h4 c i a hd hi) hi⟩
  · rw [k1, h1]
  · rw [k2, h2]
  · rw [k3, h3]

theorem endKeeps_of_traceKeeps {s t : State} (h : traceKeeps s t) : endKeeps s t := by
  obtain ⟨h, ha⟩ := h
  have hs : t.slots = s.slots := by rw [h]
  have hc : t.cores = s.cores := by rw [h]
  refine ⟨?_, fun i => ?_, fun c => ?_, fun c i a hd _ => ha hd⟩
  · rw [h]
  · simp [slotAt, hs]
  · simp [coreAt, hc]

theorem post_endKeeps (c : Nat) (i : Instr) (a : EvArg) (s : State) : endKeeps s (post c i a s) :=
  endKeeps_of_traceKeeps (post_traceKeeps c i a s)

theorem endKeeps_ite {s t u : State} {p : Prop} [Decidable p] (h : endKeeps s t) (k : endKeeps s u) :
    endKeeps s (if p then t else u) := by
  split
  · exact h
  · exact k

/-- A change of one slot, of what `endKeeps` leaves open. -/
theorem modSlot_endKeeps (sid : Nat) (f : Slot → Slot) (s : State) (h : ∀ x, f x = { x with
    lastPc := (f x).lastPc, lastAt := (f x).lastAt, fwd := (f x).fwd, live := (f x).live
    kills := (f x).kills, ilen := (f x).ilen, tried := (f x).tried }) : endKeeps s (modSlot sid f s) := by
  refine ⟨rfl, fun i => ?_, fun _ => rfl, fun _ _ _ h _ => h⟩
  by_cases hi : i = sid
  · subst hi
    rw [slotAt_modSlot_self]
    exact h _
  · rw [slotAt_modSlot_of_ne _ _ hi]

theorem modCore_endKeeps (cid : Nat) (f : Core → Core) (s : State) (h : ∀ x, f x = { x with
    lastA := (f x).lastA, usedA := (f x).usedA, lastX := (f x).lastX, usedX := (f x).usedX }) : endKeeps s (modCore cid f s) := by
  refine ⟨rfl, fun _ => rfl, fun c => ?_, fun _ _ _ h _ => h⟩
  by_cases hc : c = cid
  · subst hc
    rw [coreAt_modCore_self]
    exact h _
  · rw [coreAt_modCore_of_ne _ _ hc]

theorem groups_endKeeps (gs : Tab VGroup) (s : State) : endKeeps s { s with groups := gs } :=
  ⟨rfl, fun _ => rfl, fun _ => rfl, fun _ _ _ h _ => h⟩

theorem dropForwards_endKeeps (sid : Nat) (s : State) : endKeeps s (dropForwards sid s) := by
  refine endKeeps_trans (modSlot_endKeeps sid (fun x => { x with fwd := [] }) s fun _ => rfl)
    ⟨rfl, fun _ => rfl, fun _ => rfl, fun c i a hd hi => ?_⟩
  refine List.mem_filter.mpr ⟨hd, ?_⟩
  have hb : (i == Instr.followerIssue) = false := by simpa using hi
  simp [hb]

theorem detach_endKeeps (sid : Nat) (s : State) : endKeeps s (detach sid s) := by
  unfold detach
  split
  · exact endKeeps_refl s
  · split
    · exact endKeeps_trans (groups_endKeeps _ s) (dropForwards_endKeeps sid _)
    · exact endKeeps_refl s

theorem forward_endKeeps (sid next : Nat) (s : State) : endKeeps s (forward sid next s) := by
  unfold forward
  split
  · exact endKeeps_refl s
  · split
    · exact endKeeps_trans (groups_endKeeps _ s) (foldl_keeps endKeeps_refl endKeeps_trans (fun _ _ => post_endKeeps _ _ _ _) _ _)
    · split
      · exact endKeeps_refl s
      · dsimp only
        split
        · exact endKeeps_trans (modSlot_endKeeps sid _ s fun _ => rfl) (detach_endKeeps sid _)
        · exact modSlot_endKeeps sid _ s fun _ => rfl

theorem markIssue_endKeeps (sid : Nat) (s : State) : endKeeps s (markIssue sid s) := by
  unfold markIssue
  refine endKeeps_trans (endKeeps_trans (modSlot_endKeeps sid _ s fun _ => rfl) (modCore_endKeeps _ _ _ fun c => ?_))
    (endKeeps_of_traceKeeps (breakHook_traceKeeps sid _))
  split <;> rfl

theorem heldIssue_endKeeps (s : State) : endKeeps s (heldIssue s) := by
  unfold heldIssue
  dsimp only
  split
  · exact markIssue_endKeeps _ s
  · exact endKeeps_trans (markIssue_endKeeps _ s) (forward_endKeeps _ _ _)

theorem deferKills_endKeeps (sid : Nat) (s t : State) : endKeeps t (deferKills sid s t) := by
  unfold deferKills
  dsimp only
  split
  · exact endKeeps_refl t
  · exact endKeeps_trans (modSlot_endKeeps sid _ t fun _ => rfl) ⟨rfl, fun _ => rfl, fun _ => rfl, fun _ _ _ h _ => h⟩

/-- The end of an instruction of `s` whose body keeps the state `t` while another agent completes it. -/
def keptIssue (s t : State) : State :=
  heldIssue (modSlot s.cur.sid (fun x => { x with ilen := s.cur.words.length, tried := s.now + 1 }) (deferKills s.cur.sid s t))

theorem keptIssue_endKeeps (s t : State) : endKeeps t (keptIssue s t) :=
  endKeeps_trans (endKeeps_trans (deferKills_endKeeps _ s t) (modSlot_endKeeps _ _ _ fun _ => rfl)) (heldIssue_endKeeps _)

section
variable {s t : State} (h : endKeeps s t)
include h

theorem endKeeps_hold (sid : Nat) : (slotAt t sid).hold = (slotAt s sid).hold := by rw [h.2.1 sid]
theorem endKeeps_st (sid : Nat) : (slotAt t sid).st = (slotAt s sid).st := by rw [h.2.1 sid]
theorem endKeeps_gen (sid : Nat) : (slotAt t sid).gen = (slotAt s sid).gen := by rw [h.2.1 sid]
theorem endKeeps_arrived (sid : Nat) : (slotAt t sid).arrived = (slotAt s sid).arrived := by rw [h.2.1 sid]
theorem endKeeps_bars : t.bars = s.bars := by rw [h.1]
theorem endKeeps_group (cid : Nat) : (coreAt t cid).group = (coreAt s cid).group := by rw [h.2.2.1 cid]
theorem endKeeps_due {c : Nat} {i : Instr} {a : EvArg} (hd : due s c i a) (hi : i ≠ .followerIssue) : due t c i a := h.2.2.2 c i a hd hi

end

end Sys2Proof.Machine
end

section
/-!
SUPPORT. Barrier wires and supersteps (`Obligations.BarriersAndSupersteps`).
-/

namespace Sys2Proof.Machine

/-! ### Barrier wires -/

/-- The barrier after an arrival (R272). -/
def barArrived (cid sid dst now : Nat) (x : Bar) : Bar := { x with
  cores := if x.cores.contains cid then x.cores else x.cores ++ [cid]
  waiters := x.waiters ++ [(sid, dst)]
  first := if x.cores.isEmpty then now else x.first }

theorem barAt_modBar_self (k : Nat) (f : Bar → Bar) (s : State) : barAt (modBar k f s) k = f (barAt s k) := by simp [barAt, modBar]

theorem barAt_of_bars {s t : State} (h : t.bars = s.bars) (k : Nat) : barAt t k = barAt s k := by rw [barAt, h, barAt]

theorem barArrive_eq (gid b sid dst : Nat) (g : Gang) (s : State) :
    let x := barArrived (cidOf sid) sid dst s.now (barAt s (gid * 4 + b))
    let t := modBar (gid * 4 + b) (barArrived (cidOf sid) sid dst s.now) s
    let tmo := (coreAt s (cidOf sid)).bartmo
    let u := if (barAt s (gid * 4 + b)).cores.isEmpty && tmo != 0 then
      post (s.now + tmo) .barTimeout { a := gid, b := b, c := x.episode } t else t
    barArrive gid b sid dst g s = if (barMembers g b).all fun c => x.cores.contains c then
      post (s.now + 4 + 2 * (g.w + g.h)) .barRelease { a := gid, b := b, c := x.episode } u else u := by
  simp only [barArrive, barAt_modBar_self, barArrived, apply_ite State.now, post_now, ite_self]
  rfl

/-- An arrival changes its barrier, and may put the time-out and the release on the agenda. -/
theorem barArrive_endKeeps (gid b sid dst : Nat) (g : Gang) (s : State) :
    endKeeps (modBar (gid * 4 + b) (barArrived (cidOf sid) sid dst s.now) s) (barArrive gid b sid dst g s) := by
  rw [barArrive_eq]
  have h := endKeeps_refl (modBar (gid * 4 + b) (barArrived (cidOf sid) sid dst s.now) s)
  have hu := endKeeps_ite (p := ((barAt s (gid * 4 + b)).cores.isEmpty && (coreAt s (cidOf sid)).bartmo != 0) = true)
    (post_endKeeps (s.now + (coreAt s (cidOf sid)).bartmo) .barTimeout { a := gid, b := b, c := (barAt s (gid * 4 + b)).episode } _) h
  exact endKeeps_ite (endKeeps_trans hu (post_endKeeps _ _ _ _)) hu

/-- The last arrival of a barrier's members sets its release (R273). -/
theorem barArrive_due {gid b sid dst : Nat} {g : Gang} {s : State}
    (h : ∀ c ∈ barMembers g b, c ∈ (barArrived (cidOf sid) sid dst s.now (barAt s (gid * 4 + b))).cores) :
    due (barArrive gid b sid dst g s) (s.now + 4 + 2 * (g.w + g.h)) .barRelease
      { a := gid, b := b, c := (barAt s (gid * 4 + b)).episode } := by
  rw [barArrive_eq, if_pos (by simpa [List.all_eq_true] using h)]
  exact List.mem_append_right _ (List.mem_singleton.mpr rfl)

section
variable {o : Ops} {s : State} {gid : Nat} {g : Gang}
variable (hn : o.lo.toNat % 64 < 4) (ha : o.exr = true → o.a = 0) (hd : drained s s.cur.sid = true) (hf : dstFree o (atIssue s))
  (hg : gangHere s (cidOf s.cur.sid) gid g)
include hn ha hd hf hg

theorem exec_bar_of_outside (hm : cidOf s.cur.sid ∉ barMembers g (o.lo.toNat % 64)) :
    exec (.bar_ o) s = .next (trapsAt s 0x17 (word (o.lo.toNat % 64)) 0#64) := by
  refine issue_of_trap (cls := .b) rfl ?_
  obtain ⟨h1, h2⟩ := hg
  have hc : ¬ (o.exr = true ∧ ¬ o.a.toNat = 0) := fun h => h.2 (by simp [ha h.1])
  rw [dstFree] at hf
  simp [bind_apply, need9, hn, hc, drainM_of_drained (s := atIssue s) hd, hf, h1, gangAt, h2, hm]

theorem exec_bar_of_member (hm : cidOf s.cur.sid ∈ barMembers g (o.lo.toNat % 64))
    (ho : (barAt s (gid * 4 + o.lo.toNat % 64)).owed = []) :
    exec (.bar_ o) s = .next (keptIssue s (holdStrand s.cur.sid .waiting
      (barArrive gid (o.lo.toNat % 64) s.cur.sid (dstRid o) g (atIssue s)))) := by
  refine issue_of_keep (cls := .b) rfl ?_
  obtain ⟨h1, h2⟩ := hg
  have hc : ¬ (o.exr = true ∧ ¬ o.a.toNat = 0) := fun h => h.2 (by simp [ha h.1])
  rw [dstFree] at hf
  simp [bind_apply, need9, hn, hc, drainM_of_drained (s := atIssue s) hd, hf, h1, gangAt, h2, hm, barAt] at ho ⊢
  simp [ho]

end

/-- What the arrival of a result may change in a slot: what is pending, present, live, written and staged. -/
def resultKeeps (x y : Slot) : Prop := y = { x with
  busy := y.busy, pres := y.pres, live := y.live, wrG := y.wrG, kills := y.kills, wrK := y.wrK, portw := y.portw }

theorem resultKeeps_trans {x y z : Slot} (h : resultKeeps x y) (k : resultKeeps y z) : resultKeeps x z := by
  unfold resultKeeps at *
  rw [k, h]

theorem modSlot_resultKeeps (sid : Nat) {f : Slot → Slot} (s : State) (h : ∀ x, resultKeeps x (f x)) (i : Nat) :
    resultKeeps (slotAt s i) (slotAt (modSlot sid f s) i) := by
  by_cases hi : i = sid
  · subst hi
    rw [slotAt_modSlot_self]
    exact h _
  · rw [slotAt_modSlot_of_ne _ _ hi]
    rfl

theorem slotAt_of_slots {s t : State} (h : t.slots = s.slots) (i : Nat) : slotAt t i = slotAt s i := by rw [slotAt, h, slotAt]

theorem gSet_resultKeeps (sid r : Nat) (x : Word) (s : State) (i : Nat) : resultKeeps (slotAt s i) (slotAt (gSet sid r x s) i) := by
  unfold gSet
  split
  · rfl
  · exact modSlot_resultKeeps sid (f := fun sl => { sl with
      pres := sl.pres ||| word (2 ^ r), live := sl.live ||| word (2 ^ r), wrG := sl.wrG ||| word (2 ^ r)
      kills := sl.kills &&& ~~~ word (2 ^ r) }) s (fun _ => rfl) i

theorem writeHandle_resultKeeps (sid hn w : Nat) (x : Word) (s : State) (i : Nat) :
    resultKeeps (slotAt s i) (slotAt (writeHandle sid hn w x s) i) := by
  unfold writeHandle
  dsimp only
  split
  · have h : (memSet64 (ringSlotKey sid (hGet s sid hn) (ringWr s sid (hGet s sid hn) + w - 1)) x s).slots = s.slots := by
      rw [memSet64, (memWrite_traceKeeps _ _ _ _).1]
    rw [slotAt_of_slots h]
    rfl
  · rfl
  · exact modSlot_resultKeeps sid s (by intro y; rfl) i
  · split
    · exact modSlot_resultKeeps sid (f := fun y => { y with busy := y.busy ++ [80 + hn] }) s (fun _ => rfl) i
    · rfl
  · rfl

theorem writeReg_resultKeeps (sid rid : Nat) (x : Word) (s : State) (i : Nat) :
    resultKeeps (slotAt s i) (slotAt (writeReg sid rid x s) i) := by
  unfold writeReg
  dsimp only
  split
  · exact gSet_resultKeeps sid _ x s i
  · split
    · exact modSlot_resultKeeps sid (f := fun sl => { sl with wrK := sl.wrK ||| BitVec.ofNat 16 (2 ^ (rid % 128 - 64)) }) s (fun _ => rfl) i
    · exact writeHandle_resultKeeps ..

/-- A result of an instruction that had to wait leaves the state of its strand as it was. -/
theorem lateResult_resultKeeps (sid rid : Nat) (x : Word) (s : State) (i : Nat) :
    resultKeeps (slotAt s i) (slotAt (lateResult sid rid x s) i) := by
  have hb : resultKeeps (slotAt s i) (slotAt (delBusy sid (rid % 128) s) i) := modSlot_resultKeeps sid s (by intro y; rfl) i
  unfold lateResult
  dsimp only
  split
  · exact hb
  · rw [slotAt_of_slots (syncFrame_slots _ _ _)]
    exact resultKeeps_trans hb (writeReg_resultKeeps ..)

theorem lateResult_hold (sid rid : Nat) (x : Word) (s : State) (i : Nat) : (slotAt (lateResult sid rid x s) i).hold = (slotAt s i).hold := by
  rw [lateResult_resultKeeps sid rid x s i]

theorem lateResult_st (sid rid : Nat) (x : Word) (s : State) (i : Nat) : (slotAt (lateResult sid rid x s) i).st = (slotAt s i).st := by
  rw [lateResult_resultKeeps sid rid x s i]

theorem barAnswer_cons {st : Word} {s : State} {sid : Nat} (dst : Nat) (r : List (Nat × Nat)) (hh : (slotAt s sid).hold = true)
    (ht : (slotAt s sid).st ≠ .trapped) (hf : (slotAt s sid).st ≠ .free) :
    barAnswer st ((sid, dst) :: r) s = barAnswer st r (resume sid 1 (lateResult sid dst st s)) := by
  simp [barAnswer, answersHeld, goesOnHeld, lateResult_hold, lateResult_st, hh, ht, hf]

/-! ### Supersteps -/

@[simp] theorem slotAt_stepCheck (gid cid : Nat) (s : State) (i : Nat) : slotAt (stepCheck gid cid s) i = slotAt s i := by
  unfold stepCheck
  dsimp only
  split
  · rfl
  · split
    · rfl
    · split <;> split <;> rfl

/-- A check for the boundary leaves the kind, the number and the count of the step. -/
theorem stepCheck_step {gid : Nat} {s : State} {g : Gang} (cid : Nat) (h : tfind s.gangs gid = some g) :
    ∃ g', tfind (stepCheck gid cid s).gangs gid = some g' ∧ g'.exch = g.exch ∧ g'.stepNo = g.stepNo ∧ g'.count = g.count := by
  unfold stepCheck
  rw [gangAt, h]
  dsimp only
  split
  · exact ⟨g, h, rfl, rfl, rfl⟩
  · split <;> split <;> exact ⟨_, tfind_tput_self .., rfl, rfl, rfl⟩

theorem foldl_stepCheck_step {gid : Nat} (l : List Nat) {s : State} {g : Gang} (h : tfind s.gangs gid = some g) :
    ∃ g', tfind (l.foldl (fun s c => stepCheck gid c s) s).gangs gid = some g' ∧ g'.exch = g.exch ∧ g'.stepNo = g.stepNo
      ∧ g'.count = g.count := by
  induction l generalizing s g with
  | nil => exact ⟨g, h, rfl, rfl, rfl⟩
  | cons c l ih =>
    obtain ⟨g1, h1, he, hn, hc⟩ := stepCheck_step c h
    obtain ⟨g2, h2, he', hn', hc'⟩ := ih h1
    exact ⟨g2, h2, he'.trans he, hn'.trans hn, hc'.trans hc⟩

section
variable {o : Ops} {s : State} {gid : Nat} {g : Gang} {exch : Bool}
variable (hr : o.exr = false) (hq : o.exq = none) (hx : o.xi = []) (hg : gangHere s (cidOf s.cur.sid) gid g)
include hr hq hx hg

theorem stepOp_of_other (h : g.sstep = false ∨ g.exch = !exch) : stepOp exch o s = .next (trapsAt s 0x17 0#64 0#64) := by
  refine issue_of_trap (cls := .b) rfl ?_
  obtain ⟨h1, h2⟩ := hg
  have hb : g.sstep = false ∨ ¬ g.exch = exch := by rcases h with h | h <;> simp [h]
  simp [bind_apply, need9, hr, hq, hx, h1, gangAt, h2, hb]

theorem stepOp_of_own (hd : drained s s.cur.sid = true) (hs : g.sstep = true) (he : g.exch = exch) :
    ∃ t, stepOp exch o s = .next t ∧ (slotAt t s.cur.sid).hold = true ∧ (slotAt t s.cur.sid).st = .waiting
      ∧ (slotAt t s.cur.sid).arrived = true := by
  have hk := keptIssue_endKeeps s (stepCheck gid (cidOf s.cur.sid)
    (modSlot s.cur.sid (fun x => { x with arrived := true }) (holdStrand s.cur.sid .waiting (atIssue s))))
  refine ⟨_, issue_of_keep (cls := .b) rfl ?_, (endKeeps_hold hk _).trans ?_, (endKeeps_st hk _).trans ?_, (endKeeps_arrived hk _).trans ?_⟩
  · obtain ⟨h1, h2⟩ := hg
    simp [bind_apply, need9, hr, hq, hx, h1, gangAt, h2, hs, he, drainM_of_drained (s := atIssue s) hd]
  all_goals simp [holdStrand]

end

/-! ### The boundary of a step -/

theorem resume_arrived (sid k : Nat) (s : State) (i : Nat) : (slotAt (resume sid k s) i).arrived = (slotAt s i).arrived := by
  by_cases hi : i = sid
  · subst hi
    rw [slotAt_resume_self, resumedSlot_arrived]
  · rw [slotAt_resume_of_ne _ _ hi]

theorem modSlot_arrived (sid : Nat) (f : Slot → Slot) (s : State) (i : Nat) (h : ∀ x, (f x).arrived = x.arrived) :
    (slotAt (modSlot sid f s) i).arrived = (slotAt s i).arrived := by
  by_cases hi : i = sid
  · subst hi
    rw [slotAt_modSlot_self, h]
  · rw [slotAt_modSlot_of_ne _ _ hi]

theorem handTo_arrived (sid : Nat) (t : Tab Nat) (s : State) (i : Nat) : (slotAt (handTo sid t s) i).arrived = (slotAt s i).arrived :=
  modSlot_arrived sid _ s i fun _ => rfl

theorem goesOn_arrived (sid gen id k : Nat) (s : State) (i : Nat) : (slotAt (goesOn sid gen id k s) i).arrived = (slotAt s i).arrived := by
  unfold goesOn
  split
  · exact resume_arrived sid k s i
  · split
    · split
      · exact modSlot_arrived sid _ s i fun _ => rfl
      · rfl
    · rfl

theorem goesOnHeld_arrived (sid k : Nat) (s : State) (i : Nat) : (slotAt (goesOnHeld sid k s) i).arrived = (slotAt s i).arrived := by
  unfold goesOnHeld
  dsimp only
  split
  · exact resume_arrived sid k s i
  · exact goesOn_arrived ..

theorem goesOnHeld_gangs (sid k : Nat) (s : State) : (goesOnHeld sid k s).gangs = s.gangs := by
  unfold goesOnHeld goesOn
  dsimp only
  split
  · exact resume_gangs sid k s
  · split
    · exact resume_gangs sid k s
    · split
      · split <;> rfl
      · rfl

/-- What the boundary of a step does with one participant (R50, R149). -/
def crossBoundary (seen : Tab Nat) (handed : List Nat) (s : State) (sid : Nat) : State :=
  if (slotAt s sid).arrived then
    goesOnHeld sid 0 (handTo sid seen (modSlot sid (fun x => { x with arrived := false, after := x.after ++ handed }) s))
  else s

theorem crossBoundary_gangs (seen : Tab Nat) (handed : List Nat) (s : State) (sid : Nat) :
    (crossBoundary seen handed s sid).gangs = s.gangs := by
  unfold crossBoundary
  split
  · exact goesOnHeld_gangs ..
  · rfl

theorem crossBoundary_arrived_self (seen : Tab Nat) (handed : List Nat) (s : State) (sid : Nat) :
    (slotAt (crossBoundary seen handed s sid) sid).arrived = false := by
  unfold crossBoundary
  split
  next => rw [goesOnHeld_arrived, handTo_arrived, slotAt_modSlot_self]
  next h => simpa using h

theorem crossBoundary_arrived (seen : Tab Nat) (handed : List Nat) {s : State} (sid : Nat) {i : Nat} (h : (slotAt s i).arrived = false) :
    (slotAt (crossBoundary seen handed s sid) i).arrived = false := by
  by_cases hi : i = sid
  · rw [hi, crossBoundary_arrived_self]
  · unfold crossBoundary
    split
    · rw [goesOnHeld_arrived, handTo_arrived, slotAt_modSlot_of_ne _ _ hi, h]
    · exact h

/-- After the boundary no participant is at it any more. -/
theorem foldl_crossBoundary_arrived (seen : Tab Nat) (handed sids : List Nat) (s : State) {i : Nat}
    (h : i ∈ sids ∨ (slotAt s i).arrived = false) : (slotAt (sids.foldl (crossBoundary seen handed) s) i).arrived = false := by
  induction sids generalizing s with
  | nil => simpa using h
  | cons sid l ih =>
    refine ih _ ?_
    rcases h with h | h
    · rcases List.mem_cons.mp h with rfl | h
      · exact .inr (crossBoundary_arrived_self ..)
      · exact .inl h
    · exact .inr (crossBoundary_arrived _ _ _ h)

theorem foldl_crossBoundary_gangs (seen : Tab Nat) (handed sids : List Nat) (s : State) :
    (sids.foldl (crossBoundary seen handed) s).gangs = s.gangs :=
  foldl_leaves State.gangs (crossBoundary_gangs seen handed) sids s

/-- The gang after a boundary at cycle `now` (R50, R52). -/
def nextStep (now : Nat) (g : Gang) : Gang := { g with
  exch := !g.exch, count := if g.exch then g.count + 1#64 else g.count, stepNo := g.stepNo + 1
  posted := false, arrivedAt := [], ended := if g.exch then now + 1 else g.ended }

theorem exec_superstepBoundary_of_posted {s : State} {g : Gang} (hg : tfind s.gangs s.ev.a = some g) (hn : g.stepNo = s.ev.b)
    (hp : g.posted = true) : ∃ t g', exec .superstepBoundary s = .next t
      ∧ tfind t.gangs s.ev.a = some g' ∧ g'.exch = !g.exch ∧ g'.stepNo = g.stepNo + 1
      ∧ g'.count = (if g.exch = true then g.count + 1#64 else g.count)
      ∧ ∀ c ∈ gangCores g, ∀ n, n < 11 → (slotAt t (c * 16 + n)).arrived = false := by
  show ∃ t g', execSuperstepBoundary s = .next t ∧ _
  unfold execSuperstepBoundary
  extract_lets gid
  rw [show gangAt s gid = some g from hg]
  dsimp -zeta only
  rw [if_neg (by simp [hn, hp])]
  extract_lets ws u sids u1 handed seen u2 u3
  have hu2 : tfind u2.gangs s.ev.a = some (nextStep u.now g) := by
    rw [show u2 = sids.foldl (crossBoundary seen handed) u1 from rfl, foldl_crossBoundary_gangs]
    exact tfind_tput_self ..
  obtain ⟨g', h', he, hn', hc⟩ := foldl_stepCheck_step (gangCores g) hu2
  have ha : ∀ c ∈ gangCores g, ∀ n, n < 11 → (slotAt u3 (c * 16 + n)).arrived = false := fun c hc n hn => by
    rw [show slotAt u3 = slotAt u2 from funext fun i => foldl_leaves (slotAt · i) (fun _ _ => slotAt_stepCheck ..) _ u2]
    refine foldl_crossBoundary_arrived seen handed sids u1 (.inl (List.mem_flatMap.mpr ⟨c, hc, ?_⟩))
    exact List.mem_map.mpr ⟨n, List.mem_range.mpr hn, rfl⟩
  refine ⟨_, g', rfl, ?_, he, hn', hc, fun c hc n hn => ?_⟩
  · split <;> exact h'
  · split <;> exact ha c hc n hn

/-- Settles O37: BAR by what `barArrive` sets, the boundary by what it does with each participant and then with each core's check. -/
theorem barriersAndSupersteps : Obligations.BarriersAndSupersteps := by
  unfold Obligations.BarriersAndSupersteps
  refine ⟨fun o s gid g hn ha hd hf hg => ⟨exec_bar_of_outside hn ha hd hf hg, fun hm ho => ?_⟩, fun s => ?_, fun s g => ?_,
    fun st s sid dst r => barAnswer_cons dst r, fun o s gid g hr hq hx hg hd => ⟨?_, ?_, ?_, ?_⟩, fun s g hg hn hp _ => ?_⟩
  · have hk := keptIssue_endKeeps s (holdStrand s.cur.sid .waiting
      (barArrive gid (o.lo.toNat % 64) s.cur.sid (dstRid o) g (atIssue s)))
    have hb := barArrive_endKeeps gid (o.lo.toNat % 64) s.cur.sid (dstRid o) g (atIssue s)
    refine ⟨_, exec_bar_of_member hn ha hd hf hg hm ho, (endKeeps_hold hk _).trans ?_, (endKeeps_st hk _).trans ?_, ?_⟩
    · simp [holdStrand]
    · simp [holdStrand]
    · have he : barAt (keptIssue s (holdStrand s.cur.sid .waiting
          (barArrive gid (o.lo.toNat % 64) s.cur.sid (dstRid o) g (atIssue s)))) (gid * 4 + o.lo.toNat % 64)
          = barArrived (cidOf s.cur.sid) s.cur.sid (dstRid o) s.now (barAt s (gid * 4 + o.lo.toNat % 64)) := by
        rw [barAt_of_bars (endKeeps_bars hk)]
        exact (barAt_of_bars (endKeeps_bars hb) _).trans (barAt_modBar_self ..)
      rw [he]
      refine ⟨?_, List.mem_append_right _ (List.mem_singleton.mpr rfl), fun h => ?_⟩
      · unfold barArrived
        split
        next h => exact List.contains_iff_mem.mp h
        next => exact List.mem_append_right _ (List.mem_singleton.mpr rfl)
      · exact endKeeps_due hk (barArrive_due (s := atIssue s) h) nofun
  · intro k he
    simp [exec, execBarRelease, he, k]
  · intro k hg ha he hm
    show execBarTimeout s = _
    unfold execBarTimeout
    have hw : ¬ ((barAt s k).episode ≠ s.ev.c ∨ (barMembers g s.ev.b).all (fun c => (barAt s k).cores.contains c) = true) :=
      not_or.mpr ⟨not_not.mpr he, by rw [hm]; exact Bool.false_ne_true⟩
    simp only [gangAt, hg, ha, if_neg hw, Bool.not_true, Bool.false_eq_true, if_false, k]
  · exact fun hs he => stepOp_of_own hr hq hx hg hd hs he
  · exact fun hs he => stepOp_of_own hr hq hx hg hd hs he
  · exact fun h => stepOp_of_other hr hq hx hg h
  · exact fun h => stepOp_of_other hr hq hx hg h
  · exact exec_superstepBoundary_of_posted hg hn hp

end Sys2Proof.Machine
end

section
/-!
SUPPORT. Vector groups (`Obligations.VectorGroups`): joining, forming, forwarding, REJOIN and GLEAVE.
-/

namespace Sys2Proof.Machine

/-! ### The group of a strand -/

theorem groupOf_congr {s t : State} {sid : Nat} (hc : (coreAt t (cidOf sid)).group = (coreAt s (cidOf sid)).group)
    (hg : t.groups = s.groups) : groupOf t sid = groupOf s sid := by
  simp only [groupOf, hc, hg]

theorem groupOf_eq_some {s : State} {sid gk : Nat} {g : VGroup} : groupOf s sid = some (gk, g) ↔
    (coreAt s (cidOf sid)).group = some gk ∧ tfind s.groups gk = some g ∧ g.formed = true
      ∧ (g.leader = sid ∨ sid ∈ g.attached ∨ sid ∈ g.detached) := by
  unfold groupOf
  cases hc : (coreAt s (cidOf sid)).group with
  | none => simp
  | some gk' =>
    dsimp only
    cases hg : tfind s.groups gk' with
    | none =>
      refine ⟨nofun, fun ⟨h, h', _⟩ => ?_⟩
      cases h
      simp [hg] at h'
    | some g' =>
      dsimp only
      split
      next hm =>
        refine ⟨fun h => ?_, fun ⟨h, h', _⟩ => ?_⟩
        · cases h
          exact ⟨rfl, hg, by simpa [or_assoc] using hm⟩
        · cases h
          cases hg.symm.trans h'
          rfl
      next hm =>
        refine ⟨nofun, fun ⟨h, h', hf⟩ => ?_⟩
        cases h
        cases hg.symm.trans h'
        exact absurd (by simpa [or_assoc] using hf) hm

/-- A strand's group in a new record of it, with the same members. -/
theorem groupOf_tput {s : State} {sid gk : Nat} {g v : VGroup} (h : groupOf s sid = some (gk, g)) (hf : v.formed = g.formed)
    (hl : v.leader = g.leader) (ha : v.attached = g.attached) (hd : v.detached = g.detached) :
    groupOf { s with groups := tput s.groups gk v } sid = some (gk, v) := by
  obtain ⟨hc, -, hm⟩ := groupOf_eq_some.mp h
  exact groupOf_eq_some.mpr ⟨hc, tfind_tput_self .., by rwa [hf, hl, ha, hd]⟩

/-- The strand neither leads a group nor follows a leader's stream. -/
def standsApart (s : State) (sid : Nat) : Prop := ∀ gk g, groupOf s sid = some (gk, g) → g.leader ≠ sid ∧ sid ∉ g.attached

theorem standsApart_of_none {s : State} {sid : Nat} (h : groupOf s sid = none) : standsApart s sid := fun gk g hg => by
  rw [h] at hg
  cases hg

theorem breakHook_groups (sid : Nat) (s : State) : (breakHook sid s).groups = s.groups := by rw [(breakHook_traceKeeps sid s).1]

theorem markIssue_groups (sid : Nat) (s : State) : (markIssue sid s).groups = s.groups := breakHook_groups sid _

theorem markIssue_cur (sid : Nat) (s : State) : (markIssue sid s).cur = s.cur := by rw [(markIssue_endKeeps sid s).1]

theorem groupOf_markIssue (sid : Nat) (s : State) (i : Nat) : groupOf (markIssue sid s) i = groupOf s i :=
  groupOf_congr (endKeeps_group (markIssue_endKeeps sid s) _) (markIssue_groups sid s)

theorem dropForwards_fwd (sid : Nat) (s : State) : (slotAt (dropForwards sid s) sid).fwd = [] :=
  congrArg Slot.fwd (slotAt_modSlot_self sid (fun x => { x with fwd := [] }) s)

theorem detach_of_apart {s : State} {sid gk : Nat} {g : VGroup} (h : groupOf s sid = some (gk, g)) (ha : sid ∉ g.attached) :
    detach sid s = s := by
  simp [detach, h, ha]

theorem detach_of_attached {s : State} {sid gk : Nat} {g : VGroup} (h : groupOf s sid = some (gk, g)) (ha : sid ∈ g.attached) :
    detach sid s = dropForwards sid
      { s with groups := tput s.groups gk { g with attached := g.attached.erase sid, detached := g.detached ++ [sid] } } := by
  simp [detach, h, ha]

/-- The groups stay as they are at the issue of a strand that stands apart. -/
theorem forward_groups {s : State} {sid : Nat} (next : Nat) (h : standsApart s sid) : (forward sid next s).groups = s.groups := by
  unfold forward
  split
  · rfl
  next gk g hg =>
    obtain ⟨hl, ha⟩ := h gk g hg
    rw [if_neg hl]
    split
    · rfl
    next f r hf =>
      dsimp only
      split
      · have hd := detach_of_apart (s := modSlot sid (fun x => { x with fwd := r }) s) hg ha
        rw [hd]
        rfl
      · rfl

theorem deferKills_groups (sid : Nat) (s t : State) : (deferKills sid s t).groups = t.groups := by
  unfold deferKills
  dsimp only
  split <;> rfl

theorem heldIssue_groups {s : State} (h : standsApart s s.cur.sid) : (heldIssue s).groups = s.groups := by
  unfold heldIssue
  dsimp only
  split
  · exact markIssue_groups ..
  · rw [markIssue_cur]
    refine (forward_groups _ fun gk g hg => h gk g ?_).trans (markIssue_groups ..)
    rw [← hg, groupOf_markIssue]

theorem keptIssue_groups {s t : State} (h : standsApart t t.cur.sid) : (keptIssue s t).groups = t.groups := by
  have hk := deferKills_endKeeps s.cur.sid s t
  have hu := modSlot_endKeeps s.cur.sid (fun x => { x with ilen := s.cur.words.length, tried := s.now + 1 }) (deferKills s.cur.sid s t)
    fun _ => rfl
  unfold keptIssue
  refine (heldIssue_groups ?_).trans (deferKills_groups s.cur.sid s t)
  have hc : (deferKills s.cur.sid s t).cur = t.cur := by rw [hk.1]
  have hg := groupOf_congr (endKeeps_group (endKeeps_trans hk hu) (cidOf t.cur.sid)) (deferKills_groups s.cur.sid s t)
  intro gk g h'
  rw [show (modSlot _ _ _).cur = t.cur from hc] at h' ⊢
  exact h gk g (hg.symm.trans h')

/-! ### GJOIN -/

theorem killReg_endKeeps (n : Nat) (s : State) : endKeeps s (killReg n s) := by
  unfold killReg
  dsimp only
  split
  · exact endKeeps_refl s
  · split
    · exact endKeeps_refl s
    · exact endKeeps_trans (modSlot_endKeeps _ _ s fun _ => rfl) ⟨rfl, fun _ => rfl, fun _ => rfl, fun _ _ _ h _ => h⟩

theorem markLast_endKeeps (o : Ops) (s : State) : endKeeps s (markLast o s) := by
  unfold markLast
  exact endKeeps_trans (endKeeps_ite (killReg_endKeeps _ s) (endKeeps_refl s))
    (endKeeps_ite (killReg_endKeeps _ _) (endKeeps_refl _))

theorem killReg_groups (n : Nat) (s : State) : (killReg n s).groups = s.groups := by
  unfold killReg; dsimp only; split_ifs <;> rfl

theorem markLast_groups (o : Ops) (s : State) : (markLast o s).groups = s.groups := by
  unfold markLast; dsimp only; split_ifs <;> simp [killReg_groups]

/-- A strand and its core join a group (R308). -/
def joinGroup (sid dst gk : Nat) (g : VGroup) (s : State) : State :=
  holdStrand sid .waiting { s with
    nextId := if (tfind s.groups gk).isSome then s.nextId else s.nextId + 1
    groups := tput s.groups gk { g with members := g.members ++ [(sid, dst)] }
    cores := tput s.cores (cidOf sid) { coreAt s (cidOf sid) with group := some gk } }

/-- The events of a join: the first member's time-out and, of the last, the forming of the group (R308). -/
def joinEvents (gk tmo : Nat) (v : VGroup) (cores : List Nat) (s : State) : State :=
  let u := if v.members.length = 1 ∧ tmo ≠ 0 then post (s.now + tmo) .gjoinTimeout { a := gk, b := v.first } s else s
  if v.members.length = cores.length then post (s.now + 2 * groupReach cores) .groupForm { a := gk } u else u

theorem joinEvents_endKeeps (gk tmo : Nat) (v : VGroup) (cores : List Nat) (s : State) : endKeeps s (joinEvents gk tmo v cores s) := by
  have hu : endKeeps s (if v.members.length = 1 ∧ tmo ≠ 0 then post (s.now + tmo) .gjoinTimeout { a := gk, b := v.first } s else s) :=
    endKeeps_ite (post_endKeeps _ _ _ s) (endKeeps_refl s)
  exact endKeeps_ite (endKeeps_trans hu (post_endKeeps _ _ _ _)) hu

theorem joinEvents_groups (gk tmo : Nat) (v : VGroup) (cores : List Nat) (s : State) : (joinEvents gk tmo v cores s).groups = s.groups := by
  unfold joinEvents
  dsimp only
  split_ifs <;> rfl

/-- The end of GJOIN, once its checks pass and it joins group `gk` (R308). -/
def gjoinStep (sid dst gk : Nat) (w : Word) (cores : List Nat) (s : State) : State :=
  let cid := cidOf sid
  let s := if (tfind s.groups gk).isSome then s else { s with nextId := s.nextId + 1 }
  let g : VGroup := (tfind s.groups gk).getD { word := w, first := s.now }
  let g := { g with members := g.members ++ [(sid, dst)] }
  let s := holdStrand sid .waiting { s with
    groups := tput s.groups gk g
    cores := tput s.cores cid { coreAt s cid with group := some gk } }
  let tmo := (coreAt s cid).bartmo
  let s := if g.members.length = 1 ∧ tmo ≠ 0 then post (s.now + tmo) .gjoinTimeout { a := gk, b := g.first } s else s
  if g.members.length = cores.length then
    let lt := tidOfC (cores.headD 0)
    let far := cores.foldl (fun m c => max m (6 + 3 * hops lt (tidOfC c) + 8 * crossings lt (tidOfC c))) 6
    post (s.now + 2 * far) .groupForm { a := gk } s
  else s

theorem gjoinStep_eq (sid dst gk : Nat) (w : Word) (cores : List Nat) (s : State) :
    let g := (tfind s.groups gk).getD { word := w, first := s.now }
    gjoinStep sid dst gk w cores s = joinEvents gk (coreAt s (cidOf sid)).bartmo { g with members := g.members ++ [(sid, dst)] } cores
      (joinGroup sid dst gk g s) := by
  have hb (n : Nat) (c : Core) (f : Tab VGroup) :
      coreAt (holdStrand sid .waiting { s with nextId := n, groups := f, cores := tput s.cores (cidOf sid) c }) (cidOf sid) = c :=
    tget_tput_self ..
  unfold gjoinStep
  dsimp only
  split
  next hs =>
    simp only [hb]
    simp only [joinEvents, joinGroup, if_pos hs, apply_ite State.now, post_now, ite_self]
    rfl
  next hs =>
    have hn : coreAt { s with nextId := s.nextId + 1 } (cidOf sid) = coreAt s (cidOf sid) := rfl
    simp only [hb, hn]
    simp only [joinEvents, joinGroup, if_neg hs, apply_ite State.now, post_now, ite_self]
    rfl

/-- The cores lie in the gang of the joining core `cid` (R308). -/
def joinsInside (t : State) (cid : Nat) (cores : List Nat) : Prop :=
  ∃ g, gangOfCore t cid = some g ∧ (cores.all fun c => inGang g (tidOfC c)) = true

section
variable {o : Ops} {s t : State} {w : Word}
variable (hb : readsB .b o s w t) (hd : dstFree o t)
include hb hd

theorem exec_gjoin_of_bad (h : groupBad w = true) : exec (.gjoin o) s = .next (trapsAt s 0x17 w 1#64) := by
  refine issue_of_trap (cls := .b) rfl ?_
  rw [dstFree] at hd
  simp [bind_apply, hb.2, hd, h]

theorem exec_gjoin_of_outside (h : groupBad w = false) (hc : cidOf s.cur.sid ∉ groupCores (pkgOfC (cidOf s.cur.sid)) w
    ∨ ¬ joinsInside t (cidOf s.cur.sid) (groupCores (pkgOfC (cidOf s.cur.sid)) w)) :
    exec (.gjoin o) s = .next (trapsAt s 0x17 w 2#64) := by
  refine issue_of_trap (cls := .b) rfl ?_
  rw [dstFree] at hd
  have hcur := readsB_cur hb
  cases hg : gangOfCore t (cidOf s.cur.sid) with
  | none => simp [bind_apply, hb.2, hd, h, hcur, hg]
  | some g =>
    rcases hc with hc | hc
    · simp [bind_apply, hb.2, hd, h, hcur, hc]
    · have hi : ((groupCores (pkgOfC (cidOf s.cur.sid)) w).all fun c => inGang g (tidOfC c)) = false :=
        Bool.eq_false_iff.mpr fun ha => hc ⟨g, hg, ha⟩
      simp only [bind_apply, hb.2, hd, h, askM_apply, hcur, atIssue_cur_sid, id, hg, hi]
      simp

theorem exec_gjoin_of_joined (h : groupBad w = false) (hc : cidOf s.cur.sid ∈ groupCores (pkgOfC (cidOf s.cur.sid)) w)
    (hi : joinsInside t (cidOf s.cur.sid) (groupCores (pkgOfC (cidOf s.cur.sid)) w))
    (hg : (coreAt t (cidOf s.cur.sid)).group.isSome = true) : exec (.gjoin o) s = .next (trapsAt s 0x17 w 3#64) := by
  refine issue_of_trap (cls := .b) rfl ?_
  rw [dstFree] at hd
  have hcur := readsB_cur hb
  obtain ⟨g, hgc, ha⟩ := hi
  simp only [bind_apply, hb.2, hd, h, askM_apply, hcur, atIssue_cur_sid, id, hgc, ha]
  simp [hc, hg]

theorem exec_gjoin_of_free (h : groupBad w = false) (hc : cidOf s.cur.sid ∈ groupCores (pkgOfC (cidOf s.cur.sid)) w)
    (hi : joinsInside t (cidOf s.cur.sid) (groupCores (pkgOfC (cidOf s.cur.sid)) w))
    (hg : (coreAt t (cidOf s.cur.sid)).group = none) :
    let u := markLast o t
    let gk := groupKeyFor u (pkgOfC (cidOf s.cur.sid)) w
    let g := (tfind u.groups gk).getD { word := w, first := u.now }
    exec (.gjoin o) s = .next (keptIssue s
      (joinEvents gk (coreAt u (cidOf s.cur.sid)).bartmo { g with members := g.members ++ [(s.cur.sid, dstRid o)] }
        (groupCores (pkgOfC (cidOf s.cur.sid)) w) (joinGroup s.cur.sid (dstRid o) gk g u))) := by
  intro u gk g
  rw [← gjoinStep_eq]
  refine issue_of_keep (cls := .b) rfl ?_
  rw [dstFree] at hd
  have hcur := readsB_cur hb
  obtain ⟨g, hgc, ha⟩ := hi
  simp only [bind_apply, hb.2, hd, h, askM_apply, hcur, atIssue_cur_sid, id, hgc, ha]
  simp only [List.contains_iff_mem.mpr hc, hg, Bool.not_true, Bool.or_false, Bool.false_eq_true, if_false, Option.isSome_none]
  rfl

end

theorem joinEvents_due_timeout {gk tmo : Nat} {v : VGroup} (cores : List Nat) (s : State) (h1 : v.members.length = 1) (ht : tmo ≠ 0) :
    due (joinEvents gk tmo v cores s) (s.now + tmo) .gjoinTimeout { a := gk, b := v.first } := by
  unfold joinEvents
  dsimp only
  rw [if_pos (show v.members.length = 1 ∧ tmo ≠ 0 from ⟨h1, ht⟩)]
  have h : due (post (s.now + tmo) .gjoinTimeout { a := gk, b := v.first } s) (s.now + tmo) .gjoinTimeout { a := gk, b := v.first } :=
    List.mem_append_right _ (List.mem_singleton.mpr rfl)
  split
  · exact List.mem_append_left _ h
  · exact h

theorem joinEvents_due_form {gk tmo : Nat} {v : VGroup} {cores : List Nat} (s : State) (h : v.members.length = cores.length) :
    due (joinEvents gk tmo v cores s) (s.now + 2 * groupReach cores) .groupForm { a := gk } := by
  unfold joinEvents
  dsimp only
  rw [if_pos h]
  exact List.mem_append_right _ (List.mem_singleton.mpr rfl)

theorem groupOf_of_unformed {s : State} {sid gk : Nat} {g : VGroup} (hc : (coreAt s (cidOf sid)).group = some gk)
    (hg : tfind s.groups gk = some g) (hf : g.formed = false) : groupOf s sid = none := by
  simp [groupOf, hc, hg, hf]

/-- What a core's joining of a group leaves and sets (R308). -/
theorem joinGroup_keptIssue {s u : State} {dst gk tmo : Nat} {g : VGroup} {cores : List Nat} (hu : u.cur.sid = s.cur.sid) (hn : u.now = s.now)
    (hf : g.formed = false) :
    let v := { g with members := g.members ++ [(s.cur.sid, dst)] }
    let z := keptIssue s (joinEvents gk tmo v cores (joinGroup s.cur.sid dst gk g u))
    (coreAt z (cidOf s.cur.sid)).group = some gk ∧ tfind z.groups gk = some v
      ∧ (slotAt z s.cur.sid).hold = true ∧ (slotAt z s.cur.sid).st = .waiting
      ∧ (v.members.length = 1 → tmo ≠ 0 → due z (s.now + tmo) .gjoinTimeout { a := gk, b := g.first })
      ∧ (v.members.length = cores.length → due z (s.now + 2 * groupReach cores) .groupForm { a := gk }) := by
  intro v z
  have hj := joinEvents_endKeeps gk tmo v cores (joinGroup s.cur.sid dst gk g u)
  have hk := keptIssue_endKeeps s (joinEvents gk tmo v cores (joinGroup s.cur.sid dst gk g u))
  have hc : (coreAt (joinGroup s.cur.sid dst gk g u) (cidOf s.cur.sid)).group = some gk :=
    congrArg Core.group (tget_tput_self ..)
  have hg : tfind (joinEvents gk tmo v cores (joinGroup s.cur.sid dst gk g u)).groups gk = some v := by
    rw [joinEvents_groups]
    exact tfind_tput_self ..
  have hcur : (joinEvents gk tmo v cores (joinGroup s.cur.sid dst gk g u)).cur.sid = s.cur.sid := by
    rw [show (joinEvents gk tmo v cores (joinGroup s.cur.sid dst gk g u)).cur = u.cur by rw [hj.1]; rfl, hu]
  refine ⟨?_, ?_, ?_, ?_, fun h1 ht => endKeeps_due hk (hn ▸ joinEvents_due_timeout cores _ h1 ht) nofun,
    fun h => endKeeps_due hk (hn ▸ joinEvents_due_form _ h) nofun⟩
  · rw [endKeeps_group hk, endKeeps_group hj, hc]
  · rw [keptIssue_groups (standsApart_of_none (groupOf_of_unformed (gk := gk) (g := v) ?_ ?_ hf)), hg]
    · rw [hcur, endKeeps_group hj, hc]
    · exact hg
  · rw [endKeeps_hold hk, endKeeps_hold hj]
    simp [joinGroup, holdStrand]
  · rw [endKeeps_st hk, endKeeps_st hj]
    simp [joinGroup, holdStrand]

/-- GJOIN of a core that joins a group not yet formed (R308). -/
theorem exec_gjoin_joins {o : Ops} {s t : State} {w : Word} (hb : readsB .b o s w t) (hd : dstFree o t) (hbad : groupBad w = false)
    (hc : cidOf s.cur.sid ∈ groupCores (pkgOfC (cidOf s.cur.sid)) w)
    (hi : joinsInside t (cidOf s.cur.sid) (groupCores (pkgOfC (cidOf s.cur.sid)) w)) (hn : (coreAt t (cidOf s.cur.sid)).group = none) :
    let gk := groupKeyFor t (pkgOfC (cidOf s.cur.sid)) w
    let g := (tfind t.groups gk).getD { word := w, first := s.now }
    let v := { g with members := g.members ++ [(s.cur.sid, dstRid o)] }
    g.formed = false → ∃ u, exec (.gjoin o) s = .next u ∧ (coreAt u (cidOf s.cur.sid)).group = some gk ∧ tfind u.groups gk = some v
      ∧ (slotAt u s.cur.sid).hold = true ∧ (slotAt u s.cur.sid).st = .waiting
      ∧ (v.members.length = 1 → (coreAt s (cidOf s.cur.sid)).bartmo ≠ 0 →
          due u (s.now + (coreAt s (cidOf s.cur.sid)).bartmo) .gjoinTimeout { a := gk, b := g.first })
      ∧ (v.members.length = (groupCores (pkgOfC (cidOf s.cur.sid)) w).length →
          due u (s.now + 2 * groupReach (groupCores (pkgOfC (cidOf s.cur.sid)) w)) .groupForm { a := gk }) := by
  intro gk g v hf
  have hm := markLast_endKeeps o t
  have hr := readsB_readKeeps hb
  have hnow : (markLast o t).now = s.now := (show _ = t.now by rw [hm.1]).trans ((readKeeps_now hr).trans rfl)
  have hsid : (markLast o t).cur.sid = s.cur.sid := by
    rw [markLast_cur, readsB_cur hb]
    rfl
  have htmo : (coreAt (markLast o t) (cidOf s.cur.sid)).bartmo = (coreAt s (cidOf s.cur.sid)).bartmo := by
    rw [hm.2.2.1, readKeeps_coreAt hr]
    rfl
  have hgk : groupKeyFor (markLast o t) (pkgOfC (cidOf s.cur.sid)) w = gk := by
    simp only [gk, groupKeyFor, markLast_groups]
    rw [hm.1]
  have hg : (tfind (markLast o t).groups gk).getD { word := w, first := (markLast o t).now } = g := by rw [markLast_groups, hnow]
  have he := exec_gjoin_of_free hb hd hbad hc hi hn
  simp only [hgk, hg] at he
  obtain ⟨h1, h2, h3, h4, h5, h6⟩ := joinGroup_keptIssue (s := s) (u := markLast o t) (dst := dstRid o) (gk := gk)
    (tmo := (coreAt s (cidOf s.cur.sid)).bartmo) (g := g) (cores := groupCores (pkgOfC (cidOf s.cur.sid)) w) hsid hnow hf
  exact ⟨_, htmo ▸ he, h1, h2, h3, h4, h5, h6⟩

/-! ### The forming of a group -/

/-- The fold that chooses a group's leader finds a member of the lowest core. -/
theorem foldl_lowest (l : List (Nat × Nat)) (m : Nat) :
    let r := l.foldl (fun m p => if cidOf p.1 < cidOf m then p.1 else m) m
    cidOf r ≤ cidOf m ∧ (∀ p ∈ l, cidOf r ≤ cidOf p.1) ∧ (r = m ∨ ∃ p ∈ l, p.1 = r) := by
  induction l generalizing m with
  | nil => simp
  | cons q l ih =>
    dsimp only
    rw [List.foldl_cons]
    by_cases hq : cidOf q.1 < cidOf m
    · obtain ⟨h1, h2, h3⟩ := ih q.1
      rw [if_pos hq]
      refine ⟨h1.trans hq.le, List.forall_mem_cons.mpr ⟨h1, h2⟩, .inr ?_⟩
      rcases h3 with h3 | ⟨p, hp, he⟩
      · exact ⟨q, List.mem_cons_self, h3.symm⟩
      · exact ⟨p, List.mem_cons_of_mem _ hp, he⟩
    · obtain ⟨h1, h2, h3⟩ := ih m
      rw [if_neg hq]
      exact ⟨h1, List.forall_mem_cons.mpr ⟨h1.trans (not_lt.mp hq), h2⟩, h3.imp_right fun ⟨p, hp, he⟩ => ⟨p, List.mem_cons_of_mem _ hp, he⟩⟩

/-- The group that GROUP_FORM makes (R308, R46). -/
def formedGroup (g : VGroup) : VGroup :=
  let lead := g.members.foldl (fun m p => if cidOf p.1 < cidOf m then p.1 else m) ((g.members.headD (0, 0)).1)
  { g with formed := true, leader := lead, attached := (g.members.map (·.1)).filter (· != lead), members := [] }

theorem exec_groupForm {s : State} {g : VGroup} (hg : tfind s.groups s.ev.a = some g) :
    ∃ g', exec .groupForm s = .next (groupAnswer 0#64 g.members { s with groups := tput s.groups s.ev.a g' })
      ∧ g'.formed = true ∧ g'.members = [] ∧ (∀ m ∈ g.members, m.1 = g'.leader ∨ m.1 ∈ g'.attached)
      ∧ (∀ m ∈ g.members, cidOf g'.leader ≤ cidOf m.1) ∧ (g.members ≠ [] → ∃ m ∈ g.members, m.1 = g'.leader) := by
  obtain ⟨-, hle, hmem⟩ := foldl_lowest g.members (g.members.headD (0, 0)).1
  refine ⟨formedGroup g, ?_, rfl, rfl, fun m hm => ?_, hle, fun hne => ?_⟩
  · show execGroupForm s = _
    simp only [execGroupForm, hg]
    rfl
  · exact or_iff_not_imp_left.mpr fun hl => List.mem_filter.mpr ⟨List.mem_map_of_mem hm, bne_iff_ne.mpr hl⟩
  · rcases hmem with h | h
    · cases hl : g.members with
      | nil => exact absurd hl hne
      | cons m l =>
        have hh : g.members.headD (0, 0) = m := by rw [hl, List.headD_cons]
        exact ⟨m, List.mem_cons_self, (congrArg Prod.fst hh).symm.trans h.symm⟩
    · exact h

theorem groupAnswer_cons {st : Word} {s : State} {sid : Nat} (dst : Nat) (r : List (Nat × Nat)) (hh : (slotAt s sid).hold = true)
    (ht : (slotAt s sid).st ≠ .trapped) (hf : (slotAt s sid).st ≠ .free) :
    groupAnswer st ((sid, dst) :: r) s = groupAnswer st r (resume sid 1 (lateResult sid dst st s)) := by
  simp [groupAnswer, hh, ht, hf]

/-! ### Cores that leave a group -/

/-- A strand's core is in no group. -/
def clearGroup (s : State) (sid : Nat) : State := modCore (cidOf sid) (fun c => { c with group := none }) s

theorem clearGroup_self (s : State) (sid : Nat) : (coreAt (clearGroup s sid) (cidOf sid)).group = none := by
  rw [clearGroup, coreAt_modCore_self]

theorem clearGroup_none {s : State} (sid : Nat) {c : Nat} (h : (coreAt s c).group = none) : (coreAt (clearGroup s sid) c).group = none := by
  by_cases hc : c = cidOf sid
  · rw [hc, clearGroup_self]
  · rw [clearGroup, coreAt_modCore_of_ne _ _ hc, h]

/-- A fold that clears the groups of some strands' cores, and sets none, leaves them in no group. -/
theorem foldl_clears {α : Type} (sid : α → Nat) {f : State → α → State} (hs : ∀ s a, (coreAt (f s a) (cidOf (sid a))).group = none)
    (hn : ∀ s a c, (coreAt s c).group = none → (coreAt (f s a) c).group = none) (l : List α) (s : State) {c : Nat}
    (h : (∃ a ∈ l, cidOf (sid a) = c) ∨ (coreAt s c).group = none) : (coreAt (l.foldl f s) c).group = none := by
  induction l generalizing s with
  | nil => simpa using h
  | cons a l ih =>
    refine ih _ ?_
    rcases h with ⟨b, hb, rfl⟩ | h
    · rcases List.mem_cons.mp hb with rfl | hb
      · exact .inr (hs s b)
      · exact .inl ⟨b, hb, rfl⟩
    · exact .inr (hn s a c h)

theorem exec_gjoinTimeout_of_waiting {s : State} {g : VGroup} (hg : tfind s.groups s.ev.a = some g) (hf : g.formed = false)
    (hl : g.members.length ≠ wfield g.word 14 4 + 1) (h1 : g.first = s.ev.b) :
    ∃ t, exec .gjoinTimeout s = .next (groupAnswer 1#64 g.members t) ∧ tfind t.groups s.ev.a = none ∧ t.slots = s.slots
      ∧ ∀ m ∈ g.members, (coreAt t (cidOf m.1)).group = none := by
  refine ⟨g.members.foldl (fun s p => clearGroup s p.1) { s with groups := tdel s.groups s.ev.a }, ?_, ?_, ?_, fun m hm => ?_⟩
  · show execGjoinTimeout s = _
    simp only [execGjoinTimeout, hg]
    rw [if_neg (by simp [hf, hl, h1])]
    rfl
  · rw [foldl_leaves State.groups (f := fun s (p : Nat × Nat) => clearGroup s p.1) fun _ _ => rfl]
    exact tfind_tdel_self ..
  · rw [foldl_leaves State.slots (f := fun s (p : Nat × Nat) => clearGroup s p.1) fun _ _ => rfl]
  · exact foldl_clears (·.1) (fun s p => clearGroup_self s p.1) (fun s p c => clearGroup_none p.1) g.members _ (.inl ⟨m, hm, rfl⟩)

/-! ### What a group forwards -/

theorem loopEnd_gen (x : Slot) (ipc next : Nat) : (loopEnd x ipc next).1.gen = x.gen := by
  simp only [loopEnd, apply_ite Prod.fst, apply_ite Slot.gen, ite_self]

theorem loopEnd_fwd (x : Slot) (ipc next : Nat) : (loopEnd x ipc next).1.fwd = x.fwd := by
  simp only [loopEnd, apply_ite Prod.fst, apply_ite Slot.fwd, ite_self]

theorem advance_gen (s : State) (x : Slot) : (advance s x).1.gen = x.gen := by
  unfold advance
  split
  · rfl
  · exact loopEnd_gen ..

theorem advance_fwd (s : State) (x : Slot) : (advance s x).1.fwd = x.fwd := by
  unfold advance
  split
  · rfl
  · exact loopEnd_fwd ..

/-- The strand's slot after an instruction that completes, before its group's part. -/
def advancedSlot (s : State) : Slot := { (advance s (slotAt s s.cur.sid)).1 with
  st := if s.cur.idle then .waiting else .ready
  pc := (advance s (slotAt s s.cur.sid)).2
  readyAt := s.now + s.cur.cost
  waitReg := none
  issued := (slotAt s s.cur.sid).issued + 1 }

/-- The state in which a completing instruction is forwarded. -/
def issuedState (s : State) : State := markIssue s.cur.sid (putSlot s.cur.sid (advancedSlot s) s)

theorem completeIssue_eq (s : State) :
    completeIssue s = forward s.cur.sid (advance s (slotAt s s.cur.sid)).2 (issuedState s) := rfl

theorem issuedState_cur (s : State) : (issuedState s).cur = s.cur := by rw [issuedState, markIssue_cur]; rfl
theorem issuedState_now (s : State) : (issuedState s).now = s.now := by rw [issuedState, (markIssue_endKeeps _ _).1]; rfl
theorem issuedState_groups (s : State) : (issuedState s).groups = s.groups := by rw [issuedState, markIssue_groups]; rfl

theorem groupOf_issuedState (s : State) (i : Nat) : groupOf (issuedState s) i = groupOf s i := by rw [issuedState, groupOf_markIssue]; rfl

theorem issuedState_gen (s : State) (i : Nat) : (slotAt (issuedState s) i).gen = (slotAt s i).gen := by
  rw [issuedState, (markIssue_endKeeps _ _).2.1 i]
  by_cases hi : i = s.cur.sid
  · rw [hi, slotAt_putSlot_self]
    exact advance_gen ..
  · rw [slotAt_putSlot_of_ne _ _ hi]

theorem markIssue_fwd (sid : Nat) (s : State) (i : Nat) : (slotAt (markIssue sid s) i).fwd = (slotAt s i).fwd := by
  have hb (u : State) : slotAt (breakHook sid u) i = slotAt u i := slotAt_of_slots (by rw [(breakHook_traceKeeps sid u).1]) i
  rw [markIssue, hb]
  by_cases hi : i = sid
  · rw [hi]
    simp
  · simp [slotAt_modSlot_of_ne _ _ hi]

theorem issuedState_fwd (s : State) : (slotAt (issuedState s) s.cur.sid).fwd = (slotAt s s.cur.sid).fwd := by
  rw [issuedState, markIssue_fwd, slotAt_putSlot_self]
  exact advance_fwd ..

/-- A leader's instruction on its way to one follower (R46). -/
def sendForward (sid next : Nat) (s : State) (f : Nat) : State :=
  post (s.now + 1 + 3 * hops (tidOfC (cidOf sid)) (tidOfC (cidOf f)) + 8 * crossings (tidOfC (cidOf sid)) (tidOfC (cidOf f))) .followerIssue
    { a := f, b := (slotAt s f).gen, p := .fwd ⟨s.cur.ipc, s.cur.words, next, true⟩ } s

theorem foldl_sendForward_due {sid next f gen now : Nat} {cur : Cur} {l : List Nat} {s : State} (h : f ∈ l) (hn : s.now = now)
    (hc : s.cur = cur) (hg : (slotAt s f).gen = gen) : due (l.foldl (sendForward sid next) s)
      (now + 1 + 3 * hops (tidOfC (cidOf sid)) (tidOfC (cidOf f)) + 8 * crossings (tidOfC (cidOf sid)) (tidOfC (cidOf f))) .followerIssue
      { a := f, b := gen, p := .fwd ⟨cur.ipc, cur.words, next, true⟩ } := by
  induction l generalizing s with
  | nil => cases h
  | cons a l ih =>
    rcases List.mem_cons.mp h with rfl | h
    · subst hn hc hg
      exact foldl_keeps (r := fun s t => s.agenda ⊆ t.agenda) (fun _ => List.Subset.refl _) List.Subset.trans
        (fun _ _ => List.subset_append_left _ _) l (sendForward sid next s f) (List.mem_append_right _ (List.mem_singleton.mpr rfl))
    · exact ih (s := sendForward sid next s a) h hn hc hg

theorem completeIssue_of_leader {s : State} {gk f : Nat} {g : VGroup} (hg : groupOf s s.cur.sid = some (gk, g)) (hl : g.leader = s.cur.sid)
    (hf : f ∈ g.attached) (hw : (f, 256) ∉ g.waiting) :
    let a := tidOfC (cidOf s.cur.sid)
    let b := tidOfC (cidOf f)
    due (completeIssue s) (s.now + 1 + 3 * hops a b + 8 * crossings a b) .followerIssue
      { a := f, b := (slotAt s f).gen, p := .fwd ⟨s.cur.ipc, s.cur.words, (advance s (slotAt s s.cur.sid)).2, true⟩ } := by
  rw [completeIssue_eq, forward, groupOf_issuedState, hg]
  dsimp only
  rw [if_pos hl]
  have hm : f ∈ g.attached.filter fun f => !g.waiting.contains (f, 256) := List.mem_filter.mpr ⟨hf, by simpa using hw⟩
  exact foldl_sendForward_due hm (issuedState_now s) (issuedState_cur s) (issuedState_gen s f)

theorem completeIssue_of_follower {s : State} {gk : Nat} {g : VGroup} {f : Fwd} {r : List Fwd} (hg : groupOf s s.cur.sid = some (gk, g))
    (hl : g.leader ≠ s.cur.sid) (ha : s.cur.sid ∈ g.attached) (hf : (slotAt s s.cur.sid).fwd = f :: r) (hc : f.compare = true) :
    let next := (advance s (slotAt s s.cur.sid)).2
    (f.next = next → (slotAt (completeIssue s) s.cur.sid).fwd = r ∧ tfind (completeIssue s).groups gk = some g)
    ∧ (f.next ≠ next → (slotAt (completeIssue s) s.cur.sid).fwd = [] ∧ tfind (completeIssue s).groups gk
        = some { g with attached := g.attached.erase s.cur.sid, detached := g.detached ++ [s.cur.sid] }) := by
  intro next
  rw [completeIssue_eq, forward, groupOf_issuedState, hg]
  dsimp only
  rw [if_neg hl, issuedState_fwd, hf]
  dsimp only
  constructor
  · intro hn
    rw [if_neg (by simp [hn, next])]
    refine ⟨by rw [slotAt_modSlot_self], ?_⟩
    exact (congrArg (tfind · gk) (issuedState_groups s)).trans (groupOf_eq_some.mp hg).2.1
  · intro hn
    rw [if_pos (by simpa [hc] using hn)]
    have hd := detach_of_attached (s := modSlot s.cur.sid (fun x => { x with fwd := r }) (issuedState s)) (gk := gk) (g := g)
      ((groupOf_issuedState s _).trans hg) ha
    rw [hd]
    exact ⟨dropForwards_fwd .., tfind_tput_self ..⟩


/-! ### REJOIN -/

/-- What the leader's REJOIN does with one waiting follower (R48). -/
def rejoinOne (tag next : Nat) (s : State) (w : Nat × Nat) : State :=
  if (slotAt s w.1).hold then
    (let s := resume w.1 1 s
     if w.2 = tag then modSlot w.1 (fun x => { x with pc := next }) s else s)
  else s

/-- The group after its leader's REJOIN (R48). -/
def rejoined (tag : Nat) (g : VGroup) : VGroup :=
  let back := (g.waiting.filter fun w => w.2 == tag).map (·.1)
  { g with
    attached := g.attached ++ back, detached := g.detached.filter fun d => !(back.contains d), waiting := back.map fun f => (f, 256) }

theorem rejoinAll_eq (gk tag : Nat) (g : VGroup) (s : State) : rejoinAll gk tag g s = g.waiting.foldl
    (rejoinOne tag (advance s (slotAt s s.cur.sid)).2) { s with groups := tput s.groups gk (rejoined tag g) } := rfl

theorem rejoinOne_leaves {β : Type} (φ : State → β) (hm : ∀ sid f s, φ (modSlot sid f s) = φ s) (hr : ∀ sid k s, φ (resume sid k s) = φ s)
    (tag next : Nat) (s : State) (w : Nat × Nat) : φ (rejoinOne tag next s w) = φ s := by
  unfold rejoinOne
  dsimp only
  split
  · split
    · rw [hm, hr]
    · exact hr ..
  · rfl

theorem rejoinAll_cur (gk tag : Nat) (g : VGroup) (s : State) : (rejoinAll gk tag g s).cur = s.cur := by
  rw [rejoinAll_eq, foldl_leaves State.cur (rejoinOne_leaves State.cur (fun _ _ _ => rfl) (fun _ _ _ => resume_cur ..) _ _)]

theorem rejoinAll_groups (gk tag : Nat) (g : VGroup) (s : State) : (rejoinAll gk tag g s).groups = tput s.groups gk (rejoined tag g) := by
  rw [rejoinAll_eq, foldl_leaves State.groups (rejoinOne_leaves State.groups (fun _ _ _ => rfl) (fun _ _ _ => resume_groups ..) _ _)]

theorem slotAt_rejoinOne_of_ne {tag next : Nat} {w : Nat × Nat} (s : State) {i : Nat} (h : i ≠ w.1) :
    slotAt (rejoinOne tag next s w) i = slotAt s i := by
  unfold rejoinOne
  dsimp only
  split
  · split
    · rw [slotAt_modSlot_of_ne _ _ h, slotAt_resume_of_ne _ _ h]
    · exact slotAt_resume_of_ne _ _ h
  · rfl

theorem slotAt_rejoinOne_self {tag next : Nat} {w : Nat × Nat} {s : State} (h : (slotAt s w.1).hold = true) :
    slotAt (rejoinOne tag next s w) w.1 = (if w.2 = tag then { resumedSlot (s.now + 1) (slotAt s w.1) with pc := next }
      else resumedSlot (s.now + 1) (slotAt s w.1)) := by
  unfold rejoinOne
  rw [if_pos h]
  dsimp only
  split
  · rw [slotAt_modSlot_self, slotAt_resume_self]
  · rw [slotAt_resume_self]

theorem slotAt_foldl_rejoinOne_of_notMem {tag next : Nat} {l : List (Nat × Nat)} (s : State) {i : Nat} (h : i ∉ l.map (·.1)) :
    slotAt (l.foldl (rejoinOne tag next) s) i = slotAt s i := by
  induction l generalizing s with
  | nil => rfl
  | cons a l ih =>
    obtain ⟨ha, hl⟩ := not_or.mp (List.mem_cons.not.mp h)
    rw [List.foldl_cons, ih _ hl, slotAt_rejoinOne_of_ne _ ha]

/-- Each follower that waits is let go once. -/
theorem slotAt_foldl_rejoinOne {tag next : Nat} {l : List (Nat × Nat)} {s : State} (hn : (l.map (·.1)).Nodup) {w : Nat × Nat} (hw : w ∈ l)
    (hh : (slotAt s w.1).hold = true) :
    slotAt (l.foldl (rejoinOne tag next) s) w.1 = (if w.2 = tag then { resumedSlot (s.now + 1) (slotAt s w.1) with pc := next }
      else resumedSlot (s.now + 1) (slotAt s w.1)) := by
  induction l generalizing s with
  | nil => cases hw
  | cons a l ih =>
    obtain ⟨ha, hl⟩ := List.nodup_cons.mp hn
    rw [List.foldl_cons]
    rcases List.mem_cons.mp hw with rfl | hw
    · rw [slotAt_foldl_rejoinOne_of_notMem _ ha, slotAt_rejoinOne_self hh]
    · have hne : w.1 ≠ a.1 := fun h => ha (List.mem_map.mpr ⟨w, hw, h⟩)
      have hs := slotAt_rejoinOne_of_ne (tag := tag) (next := next) s hne
      rw [ih hl hw (by rw [hs, hh]), hs, rejoinOne_leaves State.now (fun _ _ _ => rfl) (fun _ _ _ => resume_now ..)]

theorem rejoinAll_members (gk tag : Nat) (g : VGroup) (s : State) : ∃ v, tfind (rejoinAll gk tag g s).groups gk = some v
    ∧ (∀ w ∈ g.waiting, w.2 = tag → w.1 ∈ v.attached ∧ w.1 ∉ v.detached) ∧ (∀ f ∈ g.attached, f ∈ v.attached) := by
  refine ⟨rejoined tag g, by rw [rejoinAll_groups]; exact tfind_tput_self .., fun w hw ht => ?_, fun f hf => List.mem_append_left _ hf⟩
  have hb : w.1 ∈ (g.waiting.filter fun w => w.2 == tag).map (·.1) :=
    List.mem_map_of_mem (List.mem_filter.mpr ⟨hw, beq_iff_eq.mpr ht⟩)
  refine ⟨List.mem_append_right _ hb, fun h => ?_⟩
  simpa [hb] using (List.mem_filter.mp h).2

theorem resumedSlot_st {at' : Nat} {x : Slot} (h : x.st ≠ .swapped) : (resumedSlot at' x).st = .ready := if_neg h

theorem rejoinAll_slot {gk tag : Nat} {g : VGroup} {s : State} {w : Nat × Nat} (hn : (g.waiting.map (·.1)).Nodup) (hw : w ∈ g.waiting)
    (hh : (slotAt s w.1).hold = true) (hs : (slotAt s w.1).st ≠ .swapped) :
    let t := rejoinAll gk tag g s
    (slotAt t w.1).st = .ready ∧ (slotAt t w.1).hold = false
    ∧ (w.2 = tag → (slotAt t w.1).pc = (advance s (slotAt s s.cur.sid)).2)
    ∧ (w.2 ≠ tag → (slotAt t w.1).pc = (slotAt (resume w.1 1 s) w.1).pc) := by
  intro t
  have ht : slotAt t w.1 = (if w.2 = tag then
      { resumedSlot (s.now + 1) (slotAt s w.1) with pc := (advance s (slotAt s s.cur.sid)).2 }
      else resumedSlot (s.now + 1) (slotAt s w.1)) := slotAt_foldl_rejoinOne hn hw hh
  rw [ht, slotAt_resume_self]
  by_cases hw : w.2 = tag
  · rw [if_pos hw]
    exact ⟨resumedSlot_st (at' := s.now + 1) hs, rfl, fun _ => rfl, fun h => absurd hw h⟩
  · rw [if_neg hw]
    exact ⟨resumedSlot_st hs, rfl, fun h => absurd h hw, fun _ => rfl⟩

section
variable {o : Ops} {s : State} (hx : o.xi.length = 1) (hn : (bitsR o).1 < 256)
include hx hn

theorem exec_rejoin_of_none (hg : groupOf s s.cur.sid = none) : exec (.rejoin o) s = .next (completeIssue (atIssue s)) := by
  refine issue_of_ok (cls := .b) rfl ?_ rfl
  have h : groupOf (atIssue s) s.cur.sid = none := hg
  simp [bind_apply, need9, hx, hn, h]

variable {gk : Nat} {g : VGroup} (hg : groupOf s s.cur.sid = some (gk, g))
include hg

theorem exec_rejoin_of_attached (hl : g.leader ≠ s.cur.sid) (ha : s.cur.sid ∈ g.attached) :
    exec (.rejoin o) s = .next (completeIssue (atIssue s)) := by
  refine issue_of_ok (cls := .b) rfl ?_ rfl
  have h : groupOf (atIssue s) s.cur.sid = some (gk, g) := hg
  simp [bind_apply, need9, hx, hn, h, hl, ha]

theorem exec_rejoin_of_early (hl : g.leader = s.cur.sid) (hr : allAtRejoin g = false) : exec (.rejoin o) s = .next (waitState s) := by
  refine issue_of_wait (cls := .b) rfl ?_
  have h : groupOf (atIssue s) s.cur.sid = some (gk, g) := hg
  simp [bind_apply, need9, hx, hn, h, hl, hr]

theorem exec_rejoin_of_leader (hl : g.leader = s.cur.sid) (hr : allAtRejoin g = true) :
    exec (.rejoin o) s = .next (completeIssue (rejoinAll gk (bitsR o).1 g (atIssue s))) := by
  refine issue_of_ok (cls := .b) rfl ?_ ?_
  · have h : groupOf (atIssue s) s.cur.sid = some (gk, g) := hg
    simp [bind_apply, need9, hx, hn, h, hl, hr]
  · rw [rejoinAll_cur]
    rfl

theorem exec_rejoin_of_detached (hl : g.leader ≠ s.cur.sid) (ha : s.cur.sid ∉ g.attached) :
    ∃ t v, exec (.rejoin o) s = .next t ∧ (slotAt t s.cur.sid).hold = true
        ∧ (slotAt t s.cur.sid).st = .waiting ∧ tfind t.groups gk = some v ∧ v.waiting = g.waiting ++ [(s.cur.sid, (bitsR o).1)] := by
  have h : groupOf (atIssue s) s.cur.sid = some (gk, g) := hg
  let v : VGroup := { g with waiting := g.waiting ++ [(s.cur.sid, (bitsR o).1)] }
  let u : State := holdStrand s.cur.sid .waiting { atIssue s with groups := tput s.groups gk v }
  have hu : groupOf u s.cur.sid = some (gk, v) := groupOf_tput h rfl rfl rfl rfl
  have hk := keptIssue_endKeeps s u
  refine ⟨_, v, issue_of_keep (cls := .b) (t := u) rfl ?_, (endKeeps_hold hk _).trans ?_, (endKeeps_st hk _).trans ?_, ?_, rfl⟩
  · simp [bind_apply, need9, hx, hn, h, hl, ha]
    rfl
  · simp [u, holdStrand]
  · simp [u, holdStrand]
  · refine (congrArg (tfind · gk) (keptIssue_groups (s := s) (t := u) fun gk' g' h' => ?_)).trans (tfind_tput_self ..)
    cases hu.symm.trans h'
    exact ⟨hl, ha⟩

end

/-! ### GLEAVE -/

/-- A waiting follower that is still held goes on (R48). -/
def letGo (s : State) (w : Nat × Nat) : State := if (slotAt s w.1).hold then resume w.1 1 s else s

/-- What the dissolving of a group does with one of its followers (R309). -/
def dismiss (s : State) (f : Nat) : State := dropForwards f (clearGroup s f)

theorem leaveGroup_of_leader {s : State} {sid gk : Nat} {g : VGroup} (hg : groupOf s sid = some (gk, g)) (hl : g.leader = sid) :
    leaveGroup sid s = g.waiting.foldl letGo ((g.attached ++ g.detached).foldl dismiss
      { clearGroup s sid with groups := tdel s.groups gk }) := by
  unfold leaveGroup
  rw [hg]
  exact if_pos hl

theorem leaveGroup_of_follower {s : State} {sid gk : Nat} {g : VGroup} (hg : groupOf s sid = some (gk, g)) (hl : g.leader ≠ sid) :
    leaveGroup sid s = dropForwards sid { clearGroup s sid with groups := tput s.groups gk { g with
      attached := g.attached.erase sid, detached := g.detached.erase sid, waiting := g.waiting.filter fun w => w.1 != sid } } := by
  unfold leaveGroup
  rw [hg]
  exact if_neg hl

theorem leaveGroup_of_none {s : State} {sid : Nat} (hg : groupOf s sid = none) : leaveGroup sid s = s := by
  unfold leaveGroup
  rw [hg]

theorem letGo_leaves {β : Type} (φ : State → β) (hr : ∀ sid k s, φ (resume sid k s) = φ s) (s : State) (w : Nat × Nat) : φ (letGo s w) = φ s := by
  unfold letGo
  split
  · exact hr ..
  · rfl

theorem leaveGroup_cur (sid : Nat) (s : State) : (leaveGroup sid s).cur = s.cur := by
  cases hg : groupOf s sid with
  | none => rw [leaveGroup_of_none hg]
  | some p =>
    by_cases hl : p.2.leader = sid
    · rw [leaveGroup_of_leader hg hl, foldl_leaves State.cur (letGo_leaves State.cur fun _ _ _ => resume_cur ..),
        foldl_leaves State.cur (f := dismiss) fun _ _ => rfl]
      rfl
    · rw [leaveGroup_of_follower hg hl]
      rfl

theorem leaveGroup_spec {s : State} {sid gk : Nat} {g : VGroup} (hg : groupOf s sid = some (gk, g)) :
    (coreAt (leaveGroup sid s) (cidOf sid)).group = none
    ∧ (g.leader = sid → tfind (leaveGroup sid s).groups gk = none
        ∧ ∀ f, f ∈ g.attached ++ g.detached → (coreAt (leaveGroup sid s) (cidOf f)).group = none)
    ∧ (g.leader ≠ sid → tfind (leaveGroup sid s).groups gk = some { g with
        attached := g.attached.erase sid, detached := g.detached.erase sid, waiting := g.waiting.filter fun w => w.1 != sid }) := by
  by_cases hl : g.leader = sid
  · rw [leaveGroup_of_leader hg hl]
    have hc (c : Nat) (h : (∃ a ∈ g.attached ++ g.detached, cidOf a = c) ∨ (coreAt (clearGroup s sid) c).group = none) :
        (coreAt (g.waiting.foldl letGo ((g.attached ++ g.detached).foldl dismiss { clearGroup s sid with groups := tdel s.groups gk })) c).group
          = none := by
      rw [foldl_leaves (coreAt · c) (letGo_leaves (coreAt · c) fun _ _ _ => by simp only [coreAt, resume_cores])]
      exact foldl_clears (f := dismiss) id (fun s f => clearGroup_self s f) (fun s f c => clearGroup_none f) _ _ h
    refine ⟨hc _ (.inr (clearGroup_self s sid)), fun _ => ⟨?_, fun f hf => hc _ (.inl ⟨f, hf, rfl⟩)⟩, fun h => absurd hl h⟩
    rw [foldl_leaves State.groups (letGo_leaves State.groups fun _ _ _ => resume_groups ..),
      foldl_leaves State.groups (f := dismiss) fun _ _ => rfl]
    exact tfind_tdel_self ..
  · rw [leaveGroup_of_follower hg hl]
    exact ⟨clearGroup_self s sid, fun h => absurd h hl, fun _ => tfind_tput_self ..⟩

theorem exec_gleave {o : Ops} {s : State} (hr : o.exr = false) (hq : o.exq = none) (hx : o.xi = []) :
    exec (.gleave o) s = .next (completeIssue (leaveGroup s.cur.sid (atIssue s))) := by
  refine issue_of_ok (cls := .b) rfl ?_ ?_
  · simp [bind_apply, need9, hr, hq, hx]
  · rw [leaveGroup_cur]
    rfl

theorem exec_followerIssue {s : State} {f : Fwd} (hp : s.ev.p = .fwd f) (hg : (slotAt s s.ev.a).gen = s.ev.b)
    (hl : followsLeader s s.ev.a = true) : exec .followerIssue s = .next (modSlot s.ev.a (fun x => { x with fwd := x.fwd ++ [f] }) s) := by
  show execFollowerIssue s = _
  simp [execFollowerIssue, hp, hg, hl]

/-- Settles O38: the clauses of GJOIN, of the group's events, of the forwarding at an issue, of REJOIN and of GLEAVE. -/
theorem vectorGroups : Obligations.VectorGroups := by
  unfold Obligations.VectorGroups
  refine ⟨fun o s w t hb hd => ⟨exec_gjoin_of_bad hb hd, exec_gjoin_of_outside hb hd, exec_gjoin_of_joined hb hd,
      exec_gjoin_joins hb hd⟩,
    fun s g => exec_groupForm, fun s g => exec_gjoinTimeout_of_waiting, fun st s sid dst r => groupAnswer_cons dst r,
    fun s gk g f => completeIssue_of_leader, fun s f => exec_followerIssue, fun s gk g f r => completeIssue_of_follower,
    fun o s hx hn => ⟨exec_rejoin_of_none hx hn, fun gk g hg => ⟨exec_rejoin_of_attached hx hn hg, exec_rejoin_of_detached hx hn hg,
      exec_rejoin_of_early hx hn hg, exec_rejoin_of_leader hx hn hg⟩⟩,
    fun s gk g tag => rejoinAll_members gk tag g s, fun s gk g tag w => rejoinAll_slot, fun o s => exec_gleave, fun s sid => leaveGroup_of_none,
    fun s sid gk g => leaveGroup_spec⟩

end Sys2Proof.Machine
end

section
/-!
SUPPORT. Starting and ending strands (`Obligations.StrandControl`): START, STARTP, STOP, JOINS, LIVE and YIELD.
-/

namespace Sys2Proof.Machine

/-! ### Tables that lose keys -/

theorem tget_filter {α : Type} (p : Nat → Bool) (t : Tab α) (k : Nat) (d : α) :
    tget (t.filter fun x => p x.1) k d = if p k then tget t k d else d := by
  induction t with
  | nil => simp [tget]
  | cons x r ih =>
    obtain ⟨j, y⟩ := x
    by_cases hk : j = k
    · subst hk
      cases hj : p j <;> simp [hj, tget, ih]
    · cases hj : p j <;> simp [hj, tget, hk, ih]

theorem tget_foldl_tput_of_ne {α : Type} (b : Nat) (l : List (Nat × α)) (t : Tab α) {k : Nat} (d : α) (h : ∀ p ∈ l, k ≠ b + p.1) :
    tget (l.foldl (fun t p => tput t (b + p.1) p.2) t) k d = tget t k d := by
  induction l generalizing t with
  | nil => rfl
  | cons p l ih =>
    obtain ⟨hp, hl⟩ := List.forall_mem_cons.mp h
    rw [List.foldl_cons, ih _ hl, tget_tput_of_ne _ _ _ hp]

/-- Of values put at keys `b + i`, the one for `n` stands at key `b + n`. -/
theorem tget_foldl_tput {α : Type} (b : Nat) (l : List (Nat × α)) (t : Tab α) {n : Nat} {x : α} (d : α) (hn : (l.map (·.1)).Nodup)
    (h : (n, x) ∈ l) : tget (l.foldl (fun t p => tput t (b + p.1) p.2) t) (b + n) d = x := by
  induction l generalizing t with
  | nil => cases h
  | cons p l ih =>
    obtain ⟨hp, hl⟩ := List.nodup_cons.mp hn
    rcases List.mem_cons.mp h with rfl | h
    · rw [List.foldl_cons, tget_foldl_tput_of_ne, tget_tput_self]
      exact fun q hq he => hp (List.mem_map.mpr ⟨q, hq, (Nat.add_left_cancel he).symm⟩)
    · exact ih _ hl h

/-! ### A strand's start -/

section
variable (sid team pc : Nat) (xseq : Bool) (args : List Word) (at' : Nat) (part : Bool) (after : List Nat) (s : State)

theorem holdArgs_leaves {β : Type} (φ : State → β) (h : ∀ s l, φ { s with file := l } = φ s) : φ (holdArgs sid s) = φ s :=
  foldl_leaves φ (f := fun s i => holdReg (fileKey sid (2 + i)) s) (fun _ _ => h _ _) _ s

/-- The slot of a strand at its start (R25, R28). -/
def bornSlot : Slot :=
  { st := .ready, gen := ((slotAt s sid).gen + 1) % 256, pc := pc % vaTop, xseq := xseq, team := team, part := part, readyAt := at'
    wrG := 0xFC#64, after := after, freeAt := (slotAt s sid).freeAt, bornAt := s.now }

theorem initStrand_eq : initStrand sid team pc xseq args at' part after s
    = putSlot sid (bornSlot sid team pc xseq at' part after s) (holdArgs sid (clearRegs sid args s)) := rfl

theorem slotAt_initStrand_self : slotAt (initStrand sid team pc xseq args at' part after s) sid
    = bornSlot sid team pc xseq at' part after s := by
  rw [initStrand_eq, slotAt_putSlot_self]

theorem slotAt_initStrand_of_ne {i : Nat} (h : i ≠ sid) : slotAt (initStrand sid team pc xseq args at' part after s) i = slotAt s i := by
  rw [initStrand_eq, slotAt_putSlot_of_ne _ _ h, holdArgs_leaves sid _ (slotAt · i) fun _ _ => rfl]
  rfl

theorem initStrand_mem : (initStrand sid team pc xseq args at' part after s).mem = s.mem :=
  holdArgs_leaves sid (clearRegs sid args s) State.mem fun _ _ => rfl

theorem initStrand_g : (initStrand sid team pc xseq args at' part after s).g = (clearRegs sid args s).g :=
  holdArgs_leaves sid (clearRegs sid args s) State.g fun _ _ => rfl

theorem initStrand_k : (initStrand sid team pc xseq args at' part after s).k = (clearRegs sid args s).k :=
  holdArgs_leaves sid (clearRegs sid args s) State.k fun _ _ => rfl

end

theorem kGet_clearRegs (sid : Nat) (args : List Word) (s : State) {i : Nat} (h : i < 16) : kGet (clearRegs sid args s) sid i = 0#64 := by
  unfold kGet clearRegs
  dsimp only
  rw [tget_filter fun k => k / 16 != sid, if_neg]
  rw [show (sid * 16 + i) / 16 = sid by omega]
  simp

section
variable {sid : Nat} {args : List Word} (s : State)

theorem gGet_clearRegs_arg {i : Nat} (hl : args.length = 6) (hi : i < 6) : gGet (clearRegs sid args s) sid (2 + i) = args.getD i 0#64 := by
  unfold gGet clearRegs
  rw [if_neg (by omega), show sid * 64 + (2 + i) = sid * 64 + 2 + i by omega]
  refine tget_foldl_tput (sid * 64 + 2) _ _ _ ?_ ?_
  · rw [List.map_fst_zip (by simp [hl])]
    exact List.nodup_range
  · refine List.mem_iff_getElem.mpr ⟨i, by simp [hl, hi], ?_⟩
    simp [hl, hi]

theorem gGet_clearRegs_zero {i : Nat} (h64 : i < 64) (hi : i < 2 ∨ 8 ≤ i) : gGet (clearRegs sid args s) sid i = 0#64 := by
  unfold gGet clearRegs
  split
  · rfl
  · dsimp only
    rw [tget_foldl_tput_of_ne (sid * 64 + 2), tget_filter fun k => k / 64 != sid, if_neg]
    · rw [show (sid * 64 + i) / 64 = sid by omega]
      simp
    · intro p hp
      have := List.mem_range.mp (List.of_mem_zip (a := p.1) (b := p.2) hp).1
      omega

end

theorem slotNo_slot {cid n : Nat} (h : n < 16) : slotNo (cid * 16 + n) = n := by
  unfold slotNo
  omega

theorem freeSlots_lt {s : State} {cid n : Nat} (h : n ∈ freeSlots s cid) : n < 11 :=
  List.mem_range.mp (List.mem_of_mem_drop (List.mem_filter.mp h).1)

theorem freeSlots_nodup (s : State) (cid : Nat) : (freeSlots s cid).Nodup :=
  (List.nodup_range.sublist (List.drop_sublist ..)).filter _

theorem teamWord_none (s : State) (sa : Nat) : teamWord s sa none = selfWord s sa := by
  simp [teamWord, word]

/-- The strands of a core are participants where its gang is in supersteps (R50). -/
def startsPart (s : State) (cid : Nat) : Bool :=
  match gangOfCore s cid with
  | some g => g.sstep
  | none => false

theorem startTeam_of_none {s : State} {cid : Nat} (pair : Bool) (r : List Word) (at' : Nat) (after : List Nat) (h : freeSlots s cid = []) :
    (startTeam pair cid r at' after s).1 = 0#64 := by
  cases pair <;> simp [startTeam, h]

theorem startTeam_of_single {s : State} {cid a : Nat} {l : List Nat} (r : List Word) (at' : Nat) (after : List Nat)
    (h : freeSlots s cid = a :: l) : startTeam false cid r at' after s
      = (let t := initStrand (cid * 16 + a) s.nextId (r.getD 0 0#64).toNat (wfield (r.getD 1 0#64) 4 1 == 1) (r.drop 2) at' (startsPart s cid) after
          { s with nextId := s.nextId + 1 }
         (teamWord t (cid * 16 + a) none, t)) := by
  simp only [startTeam, h]
  rfl

/-- START of one strand (R312, R28). -/
theorem startTeam_single_spec {s : State} {cid a : Nat} {l : List Nat} {r : List Word} (at' : Nat) (after : List Nat) (hr : r.length = 8)
    (h : freeSlots s cid = a :: l) :
    let q := startTeam false cid r at' after s
    let sa := cid * 16 + a
    let x := slotAt q.2 sa
    q.1 = selfWord q.2 sa ∧ x.st = .ready ∧ x.pc = (r.getD 0 0#64).toNat % 2 ^ 56 ∧ x.readyAt = at'
      ∧ x.gen = ((slotAt s sa).gen + 1) % 256 ∧ (x.xseq = true ↔ wfield (r.getD 1 0#64) 4 1 = 1) ∧ x.after = after
      ∧ (∀ i, i < 6 → gGet q.2 sa (2 + i) = r.getD (2 + i) 0#64) ∧ gGet q.2 sa 1 = 0#64
      ∧ (∀ i, 8 ≤ i → i < 64 → gGet q.2 sa i = 0#64) ∧ (∀ i, i < 16 → kGet q.2 sa i = 0#64)
      ∧ (∀ sid, sid ≠ sa → slotAt q.2 sid = slotAt s sid) ∧ q.2.mem = s.mem := by
  intro q sa x
  have hq : q = _ := startTeam_of_single r at' after h
  have hx : x = _ := (congrArg (fun q : Word × State => slotAt q.2 sa) hq).trans (slotAt_initStrand_self ..)
  have hg (i : Nat) : gGet q.2 sa i = gGet (clearRegs sa (r.drop 2) { s with nextId := s.nextId + 1 }) sa i := by
    rw [hq, gGet, initStrand_g]
    rfl
  have hk (i : Nat) : kGet q.2 sa i = kGet (clearRegs sa (r.drop 2) { s with nextId := s.nextId + 1 }) sa i := by
    rw [hq, kGet, initStrand_k]
    rfl
  refine ⟨?_, by rw [hx]; rfl, by rw [hx]; rfl, by rw [hx]; rfl, by rw [hx]; rfl, by rw [hx]; exact beq_iff_eq, by rw [hx]; rfl,
    fun i hi => ?_, ?_, fun i h8 hi => ?_, fun i hi => ?_, fun sid hs => ?_, ?_⟩
  · rw [hq]
    exact teamWord_none ..
  · rw [hg, gGet_clearRegs_arg _ (by simp [hr]) hi]
    simp [List.getD]
  · rw [hg, gGet_clearRegs_zero _ (by omega) (by omega)]
  · rw [hg, gGet_clearRegs_zero _ hi (.inr h8)]
  · rw [hk, kGet_clearRegs _ _ _ hi]
  · rw [hq]
    exact slotAt_initStrand_of_ne _ _ _ _ _ _ _ _ _ hs
  · rw [hq]
    exact initStrand_mem ..

/-! ### A pair's start -/

section
variable {sa sx : Nat} (set : Nat) (s : State)

theorem slotAt_linkPair_a (h : sa ≠ sx) : slotAt (linkPair sa sx set s) sa
    = { slotAt s sa with paired := true, partner := slotNo sx, pairSet := set } := by
  unfold linkPair
  dsimp only
  rw [slotAt_modSlot_of_ne _ _ h]
  exact slotAt_modSlot_self sa (fun x => { x with paired := true, partner := slotNo sx, pairSet := set }) _

theorem slotAt_linkPair_x (h : sa ≠ sx) : slotAt (linkPair sa sx set s) sx
    = { slotAt s sx with paired := true, partner := slotNo sa, pairSet := set } := by
  unfold linkPair
  dsimp only
  rw [slotAt_modSlot_self]
  exact congrArg (fun x : Slot => { x with paired := true, partner := slotNo sa, pairSet := set })
    (slotAt_modSlot_of_ne (fun x => { x with paired := true, partner := slotNo sx, pairSet := set }) _ h.symm)

theorem hGet_linkPair_a (h : sa ≠ sx) : hGet (linkPair sa sx set s) sa 15 = { kind := 2 } := by
  have hk : sa * 16 + 15 ≠ sx * 16 + 15 := by omega
  exact (tget_tput_of_ne _ _ _ hk).trans (tget_tput_self ..)

theorem hGet_linkPair_x : hGet (linkPair sa sx set s) sx 15 = { kind := 2 } := tget_tput_self ..

end

/-- The X strand's address at the start of a pair (R313). -/
def pairPc (r : List Word) : Int := (((r.getD 0 0#64).toNat : Int) + 2 * signed32 (wfield (r.getD 1 0#64) 16 32)) % (vaTop : Nat)

theorem pairPc_toNat (r : List Word) : ((pairPc r).toNat % vaTop : Nat)
    = (((r.getD 0 0#64).toNat : Int) + 2 * signed32 (wfield (r.getD 1 0#64) 16 32)) % 2 ^ 56 := by
  have h0 : 0 ≤ pairPc r := Int.emod_nonneg _ (by decide)
  have h1 : pairPc r < 2 ^ 56 := Int.emod_lt_of_pos _ (by decide)
  have hn : (pairPc r).toNat % vaTop = (pairPc r).toNat := Nat.mod_eq_of_lt (by rw [vaTop]; omega)
  rw [hn, Int.toNat_of_nonneg h0]
  rfl

theorem startTeam_of_pair {s : State} {cid a x set : Nat} {l : List Nat} (r : List Word) (at' : Nat) (after : List Nat)
    (h : freeSlots s cid = a :: x :: l) (hs : freePairSet s cid = some set) : startTeam true cid r at' after s
      = (let sa := cid * 16 + a
         let sx := cid * 16 + x
         let t := linkPair sa sx set (initStrand sx s.nextId (pairPc r).toNat true (r.drop 2) at' (startsPart s cid) after
          (initStrand sa s.nextId (r.getD 0 0#64).toNat false (r.drop 2) at' (startsPart s cid) after { s with nextId := s.nextId + 1 }))
         (teamWord t sa (some sx), t)) := by
  simp only [startTeam, h, hs]
  rfl

/-- STARTP (R312, R313, R32). -/
theorem startTeam_pair_spec {s : State} {cid a x set : Nat} {l : List Nat} {r : List Word} (at' : Nat) (after : List Nat)
    (h : freeSlots s cid = a :: x :: l) (hs : freePairSet s cid = some set) :
    let q := startTeam true cid r at' after s
    let ya := slotAt q.2 (cid * 16 + a)
    let yx := slotAt q.2 (cid * 16 + x)
    ya.st = .ready ∧ yx.st = .ready ∧ ya.xseq = false ∧ yx.xseq = true ∧ ya.paired = true ∧ yx.paired = true ∧ ya.partner = x
      ∧ yx.partner = a ∧ ya.pairSet = set ∧ yx.pairSet = set ∧ ya.pc = (r.getD 0 0#64).toNat % 2 ^ 56
      ∧ (yx.pc : Int) = (((r.getD 0 0#64).toNat : Int) + 2 * signed32 (wfield (r.getD 1 0#64) 16 32)) % 2 ^ 56
      ∧ (hGet q.2 (cid * 16 + a) 15).kind = 2 ∧ (hGet q.2 (cid * 16 + x) 15).kind = 2 := by
  intro q ya yx
  have ha : a < 11 := freeSlots_lt (by rw [h]; exact List.mem_cons_self)
  have hx : x < 11 := freeSlots_lt (by rw [h]; exact List.mem_cons_of_mem _ List.mem_cons_self)
  have hne : cid * 16 + a ≠ cid * 16 + x := fun he => by
    have hn := freeSlots_nodup s cid
    rw [h] at hn
    exact (List.nodup_cons.mp hn).1 (List.mem_cons.mpr (.inl (Nat.add_left_cancel he)))
  have hq : q = _ := startTeam_of_pair r at' after h hs
  have hya : ya = _ := (congrArg (fun q : Word × State => slotAt q.2 (cid * 16 + a)) hq).trans (slotAt_linkPair_a _ _ hne)
  have hyx : yx = _ := (congrArg (fun q : Word × State => slotAt q.2 (cid * 16 + x)) hq).trans (slotAt_linkPair_x _ _ hne)
  rw [slotAt_initStrand_of_ne _ _ _ _ _ _ _ _ _ hne, slotAt_initStrand_self] at hya
  rw [slotAt_initStrand_self] at hyx
  refine ⟨by rw [hya]; rfl, by rw [hyx]; rfl, by rw [hya]; rfl, by rw [hyx]; rfl, by rw [hya], by rw [hyx], ?_, ?_, by rw [hya], by rw [hyx],
    by rw [hya]; rfl, ?_, ?_, ?_⟩
  · rw [hya]
    exact slotNo_slot (by omega)
  · rw [hyx]
    exact slotNo_slot (by omega)
  · rw [hyx]
    exact pairPc_toNat r
  · rw [hq]
    exact congrArg Handle.kind (hGet_linkPair_a _ _ hne)
  · rw [hq]
    exact congrArg Handle.kind (hGet_linkPair_x _ _)

/-! ### START and STARTP -/

theorem effAddr_of_eq {p : Word} {off : Int} {ea : Nat} (s : State) (h : (ea : Int) = (wfield p 0 56 : Nat) + off) (hl : ea < 2 ^ 56) :
    effAddr p off s = .ok (ea, s) := by
  have hv : ¬ ((ea : Int) < 0 ∨ (ea : Int) ≥ (vaTop : Nat)) := by
    rw [vaTop]
    omega
  unfold effAddr
  rw [← h, if_neg hv]
  rfl

theorem rawAddr_of_rawAt {o : Ops} {p : Word} {scale align ea : Nat} (s : State) (h : rawAt p (immR o * scale) align ea) :
    rawAddr o p scale align s = .ok (ea, s) := by
  obtain ⟨hp, he, hlt, hal⟩ := h
  have h60 : wfield p 60 4 = 0 := by
    simp only [wfield, nfield] at hp ⊢
    omega
  have h57 : wfield p 57 3 = 0 := by
    simp only [wfield, nfield] at hp ⊢
    omega
  have h56 : wfield p 56 1 = 0 := by
    simp only [wfield, nfield] at hp ⊢
    omega
  have hf : rawM p s = .ok ((), s) := by simp [rawM, fmtM, bind_apply, h60, h57, h56, Num.fmtRow]
  simp [rawAddr, bind_apply, hf, effAddr_of_eq s he hlt, alignM, hal]

theorem rangeM_of_rangeOk {s : State} {ea n : Nat} {rd wr : Bool} (h : rangeOk s ea n rd wr) : ∃ e, rangeM ea n rd wr s = .ok (e, s) := by
  obtain ⟨e, h⟩ := h
  exact ⟨e, by simp [rangeM, h]⟩

theorem initStrand_cur (sid team pc : Nat) (xseq : Bool) (args : List Word) (at' : Nat) (part : Bool) (after : List Nat) (s : State) :
    (initStrand sid team pc xseq args at' part after s).cur = s.cur :=
  holdArgs_leaves sid (clearRegs sid args s) State.cur fun _ _ => rfl

theorem linkPair_cur (sa sx set : Nat) (s : State) : (linkPair sa sx set s).cur = s.cur := rfl

theorem startTeam_cur (pair : Bool) (cid : Nat) (r : List Word) (at' : Nat) (after : List Nat) (s : State) :
    (startTeam pair cid r at' after s).2.cur = s.cur := by
  unfold startTeam
  dsimp only
  split
  · split
    · simp only [linkPair_cur, initStrand_cur, freshId]
    · rfl
  · split
    · simp only [initStrand_cur, freshId]
    · rfl

theorem markLastB_endKeeps (o : Ops) (s : State) : endKeeps s (markLastB o s) := endKeeps_ite (killReg_endKeeps _ s) (endKeeps_refl s)

/-- What marks the last use of B after its read leaves of the state at issue. -/
theorem readsB_markLastB {cls : Cls} {o : Ops} {s t : State} {b : Word} (h : readsB cls o s b t) :
    (markLastB o t).cur = (atIssue s).cur ∧ (markLastB o t).now = s.now := by
  refine ⟨(markLastB_cur o t).trans (readsB_cur h), ?_⟩
  rw [(markLastB_endKeeps o t).1]
  exact (readKeeps_now (readsB_readKeeps h)).trans rfl

/-- The end of START and STARTP: what the strand's fetches see is handed on, and the team word is the result (R191, R313). -/
theorem startOp_of_record {o : Ops} {s t : State} {p : Word} {ea : Nat} {bs : List Byte} (pair : Bool) (hb : readsB .c o s p t)
    (hr : rawAt p (immR o * 64) 64 ea) (hk : rangeOk t ea 64 true false) (hd : dstFree o t) (hm : recordM ea 64 t = .ok (bs, t)) :
    let u := markLastB o t
    let cid := cidOf s.cur.sid
    let lat := loadLatency (tidOfC cid) ea
    let r := startTeam pair cid (bytesWords 8 bs) (max (s.now + 6) (s.now + lat + 2)) (releaseSet u s.cur.sid) u
    let seen := handed u s.cur.sid
    let v := handTo (cid * 16 + wfield r.1 13 4) seen r.2
    let w := if pair = true then handTo (cid * 16 + wfield r.1 41 4) seen v else v
    startOp pair o s = .next (completeIssue (deliver (dstRid o) lat r.1 (if r.1 = 0#64 then r.2 else w))) := by
  intro u cid lat r seen v w
  obtain ⟨hcur, hnow⟩ := readsB_markLastB hb
  have hsid : (markLastB o t).cur.sid = s.cur.sid := by rw [hcur]; rfl
  obtain ⟨e, he⟩ := rangeM_of_rangeOk hk
  rw [dstFree] at hd
  refine issue_of_ok hb.1 ?_ ?_
  · simp only [bind_apply, hb.2, hd, rawAddr_of_rawAt t hr, he, hm, lastUseB, updM_apply, askM_apply, id, writeResult, hsid, hnow]
    rfl
  · have hr : r.2.cur = (atIssue s).cur := (startTeam_cur ..).trans hcur
    rw [deliver_cur]
    split
    · rw [hr]
      rfl
    · refine (congrArg Cur.manual (?_ : w.cur = r.2.cur)).trans (by rw [hr]; rfl)
      simp only [w, v]
      split <;> rfl

/-! ### STOP -/

theorem startRelease_slots (cid e sid : Nat) (s : State) : (startRelease cid e sid s).slots = s.slots := by
  unfold startRelease
  dsimp only
  split <;> rfl

theorem dropBinding_slots (cid e : Nat) (s : State) : (dropBinding cid e s).slots = s.slots := by
  unfold dropBinding modGuard
  dsimp only
  split <;> rfl

theorem sendUnbind_slots (cid sid : Nat) (gid : Word) (s : State) : (sendUnbind cid sid gid s).slots = s.slots := by
  unfold sendUnbind postLeg
  dsimp only
  split
  · rfl
  · exact overLink_leaves State.slots (fun _ _ _ _ => rfl) ..

theorem teamRelease_slots (cid team sid : Nat) (s : State) : (teamRelease cid team sid s).1.slots = s.slots := by
  unfold teamRelease
  refine foldl_leaves (fun p : State × Bool => p.1.slots) (fun u p => ?_) _ (s, _)
  dsimp only
  split_ifs <;> simp [startRelease_slots, dropBinding_slots, sendUnbind_slots, putRt, modBind]

theorem slotAt_signal_of_ne {cid i : Nat} (ev : Nat) (s : State) (h : i ≠ cid * 16) : slotAt (signal cid ev s) i = slotAt s i := by
  have hl : slotAt (latch cid ev s) i = slotAt s i := by
    unfold latch
    dsimp only
    split <;> rfl
  unfold signal endWfe
  dsimp only
  split
  · split
    · exact hl
    · rw [slotAt_resume_of_ne _ _ h]
      exact hl
  · exact hl

/-- The slot of a strand that has stopped is FREE, in the life that it ends (R314). -/
theorem freeStrand_slot {s : State} {sid : Nat} (h : slotNo sid ≠ 0) : (slotAt (freeStrand sid s) sid).st = .free
    ∧ (slotAt (freeStrand sid s) sid).gen = (slotAt s sid).gen ∧ (slotAt (freeStrand sid s) sid).hold = false := by
  have hne : sid ≠ cidOf sid * 16 := fun he => h (by rw [he]; exact Nat.mul_mod_left ..)
  unfold freeStrand
  extract_lets cid x s1 s2 s3 s4 s5 s6 s7
  have h7 : slotAt s7 sid = slotAt s6 sid := by
    simp only [s7, h, if_false]
    exact slotAt_signal_of_ne _ _ hne
  split
  · rw [slotAt_stepCheck, h7, slotAt_putSlot_self]
    exact ⟨rfl, rfl, rfl⟩
  · rw [h7, slotAt_putSlot_self]
    exact ⟨rfl, rfl, rfl⟩

section
variable {o : Ops} {s : State}

theorem exec_stop_of_slot0 (h : slotNo s.cur.sid = 0) : exec (.stop_ o) s = .next (trapsAt s 1 (firstFour s.cur.words) 9#64) := by
  refine issue_of_trap (cls := .b) rfl ?_
  simp [bind_apply, h]

theorem exec_stop_of_busy (h0 : slotNo s.cur.sid ≠ 0)
    (h : drained s s.cur.sid = false ∨ storesDone s s.cur.sid (fun _ => true) = false) : exec (.stop_ o) s = .next (waitState s) := by
  refine issue_of_wait (cls := .b) rfl ?_
  have hs : storesDone (atIssue s) s.cur.sid (fun _ => true) = storesDone s s.cur.sid (fun _ => true) := rfl
  cases hd : drained s s.cur.sid
  · simp [bind_apply, h0, drainM, drained_atIssue, hd]
  · simp [bind_apply, h0, drainM_of_drained (s := atIssue s) hd, hs, h.resolve_left (by simp [hd])]

theorem exec_stop_of_done (h0 : slotNo s.cur.sid ≠ 0) (hd : drained s s.cur.sid = true)
    (hs : storesDone s s.cur.sid (fun _ => true) = true) (hr : rejectedOf s s.cur.sid = none)
    (hc : (s.cmds.any fun p => p.2.sid == s.cur.sid && p.2.gen == (slotAt s s.cur.sid).gen && p.2.cpl) = false)
    (ht : lastOfTeam s s.cur.sid = false
      ∨ (teamRelease (cidOf s.cur.sid) (slotAt s s.cur.sid).team s.cur.sid (atIssue s)).2 = true) :
    ∃ t, exec (.stop_ o) s = .next t ∧ (slotAt t s.cur.sid).st = .free ∧ (slotAt t s.cur.sid).gen = (slotAt s s.cur.sid).gen := by
  let u : State := if lastOfTeam s s.cur.sid then
    (teamRelease (cidOf s.cur.sid) (slotAt s s.cur.sid).team s.cur.sid (atIssue s)).1 else atIssue s
  have hu : slotAt u s.cur.sid = slotAt s s.cur.sid := by
    simp only [u]
    split
    · exact slotAt_of_slots (teamRelease_slots ..) _
    · rfl
  obtain ⟨hst, hgen, -⟩ := freeStrand_slot (s := u) h0
  have hk := keptIssue_endKeeps s (freeStrand s.cur.sid u)
  refine ⟨_, issue_of_keep (cls := .b) (t := freeStrand s.cur.sid u) rfl ?_, (endKeeps_st hk _).trans hst,
    (endKeeps_gen hk _).trans (hgen.trans (by rw [hu]))⟩
  have hs' : storesDone (atIssue s) s.cur.sid (fun _ => true) = true := hs
  have hr' : rejectedOf (atIssue s) s.cur.sid = none := hr
  have hl : lastOfTeam (atIssue s) s.cur.sid = lastOfTeam s s.cur.sid := rfl
  cases hlt : lastOfTeam s s.cur.sid
  · simp [bind_apply, h0, drainM_of_drained (s := atIssue s) hd, hs', hr', hc, hl, hlt, u]
  · simp [bind_apply, h0, drainM_of_drained (s := atIssue s) hd, hs', hr', hc, hl, hlt, ht.resolve_left (by simp [hlt]), u]

end

/-! ### JOINS -/

/-- A team word that JOINS accepts: no reserved bits, a package's own strands, helper slots (R315). -/
def joinsLegal (own : Nat) (w : Word) : Prop :=
  wfield w 54 10 = 0 ∧ wfield w 25 16 = own ∧ 1 ≤ wfield w 13 4 ∧ wfield w 13 4 ≤ 10
    ∧ (wfield w 53 1 = 1 → 1 ≤ wfield w 41 4 ∧ wfield w 41 4 ≤ 10)

/-- The condition under which JOINS traps, as its instruction tests it. -/
def joinsBad (own : Nat) (w : Word) : Prop :=
  wfield w 54 10 ≠ 0 ∨ wfield w 25 16 ≠ own ∨ (wfield w 13 4 == 0 || decide (10 < wfield w 13 4)) = true
    ∨ ((wfield w 53 1 == 1) = true ∧ (wfield w 41 4 == 0 || decide (10 < wfield w 41 4)) = true)

theorem joinsBad_iff (own : Nat) (w : Word) : joinsBad own w ↔ ¬ joinsLegal own w := by
  unfold joinsBad joinsLegal
  simp only [Bool.or_eq_true, beq_iff_eq, decide_eq_true_eq]
  omega

section
variable {o : Ops} {s t : State} {w : Word} (hb : readsB .c o s w t) (hd : dstFree o t)
include hb hd

theorem exec_joins_of_bad (h : ¬ joinsLegal (pkgOfC (cidOf s.cur.sid)) w) : exec (.joins o) s = .next (trapsAt s 6 w 0#64) := by
  refine issue_of_trap hb.1 ?_
  rw [dstFree] at hd
  have hc := (joinsBad_iff ..).mpr h
  unfold joinsBad at hc
  simp only [bind_apply, hb.2, hd, askM_apply, id, readsB_cur hb, atIssue_cur_sid, if_pos hc]
  rfl

/-- The state of the second strand that the word names; none but of a pair. -/
def joinedX (s : State) (w : Word) (cid : Nat) : Option (Bool × Bool) :=
  if wfield w 53 1 = 1 then joined s (cid * 16 + wfield w 41 4) (wfield w 45 8) else some (false, false)

theorem exec_joins_of_running (hl : joinsLegal (pkgOfC (cidOf s.cur.sid)) w)
    (h : joined t ((pkgOfC (cidOf s.cur.sid) * 8192 + wfield w 0 13) * 16 + wfield w 13 4) (wfield w 17 8) = none
      ∨ joinedX t w (pkgOfC (cidOf s.cur.sid) * 8192 + wfield w 0 13) = none) :
    exec (.joins o) s = .next (waitState s) := by
  refine issue_of_wait hb.1 ?_
  rw [dstFree] at hd
  have hc := (joinsBad_iff ..).not.mpr (not_not.mpr hl)
  unfold joinsBad at hc
  simp only [bind_apply, hb.2, hd, askM_apply, id, readsB_cur hb, atIssue_cur_sid, if_neg hc]
  unfold joinedX at h
  simp only [beq_iff_eq]
  rcases h with h | h
  · rw [h]
    rfl
  · rw [h]
    generalize joined t _ _ = ja
    cases ja <;> rfl

theorem exec_joins_of_ended {ta ra tx rx : Bool} (hl : joinsLegal (pkgOfC (cidOf s.cur.sid)) w)
    (ha : joined t ((pkgOfC (cidOf s.cur.sid) * 8192 + wfield w 0 13) * 16 + wfield w 13 4) (wfield w 17 8) = some (ta, ra))
    (hx : joinedX t w (pkgOfC (cidOf s.cur.sid) * 8192 + wfield w 0 13) = some (tx, rx)) :
    let cid := pkgOfC (cidOf s.cur.sid) * 8192 + wfield w 0 13
    let u := markLastB o t
    exec (.joins o) s = .next (completeIssue (deliver (dstRid o) 1 (word ((if ta = true then 1 else 0) + (if tx = true then 2 else 0)
        + (if ra = true then 4 else 0) + (if rx = true then 8 else 0)))
        (let v := handTo s.cur.sid (joinSeenOf u (cid * 16 + wfield w 13 4) ta ra) u
         if wfield w 53 1 = 1 then handTo s.cur.sid (joinSeenOf u (cid * 16 + wfield w 41 4) tx rx) v else v))) := by
  intro cid u
  obtain ⟨hcur, -⟩ := readsB_markLastB hb
  have hsid : (markLastB o t).cur.sid = s.cur.sid := by rw [hcur]; rfl
  refine issue_of_ok hb.1 ?_ ?_
  · rw [dstFree] at hd
    have hc := (joinsBad_iff ..).not.mpr (not_not.mpr hl)
    unfold joinsBad at hc
    unfold joinedX at hx
    simp only [bind_apply, hb.2, hd, askM_apply, id, readsB_cur hb, atIssue_cur_sid, if_neg hc]
    simp only [bind_apply, beq_iff_eq, ha, hx, lastUseB, updM_apply, hsid]
    rfl
  · rw [deliver_cur]
    dsimp only
    split <;> exact congrArg Cur.manual hcur

end

/-! ### LIVE and YIELD -/

theorem liveOnly_cur (sid : Nat) (m : Word) (s : State) : (liveOnly sid m s).cur = s.cur := rfl

theorem exec_live {o : Ops} {s t : State} {m : Word} (hb : readsB .b o s m t) (hx : o.xi.length ≤ 1) (hn : (bitsR o).1 = 0)
    (hc : o.exr = true → o.c = 0) : exec (.live_ o) s = .next (completeIssue (markLastB o
      (liveOnly s.cur.sid (m ||| (if userMode t s.cur.sid = true then 0xFFFF000000000001#64 else 1#64)) t))) := by
  have hc' : ¬ (o.exr = true ∧ ¬ o.c.toNat = 0) := fun h => h.2 (by simp [hc h.1])
  refine issue_of_ok (cls := .b) rfl ?_ ?_
  · simp [bind_apply, oneXi, need9, hx, hn, hc', hb.2, readsB_cur hb, lastUseB]
  · rw [markLastB_cur, liveOnly_cur, readsB_cur hb]
    rfl

theorem exec_liveGet {o : Ops} {s : State} (hx : o.xi.length ≤ 1) (hn : (bitsR o).1 = 1) (hd : dstFree o (atIssue s)) :
    exec (.liveGet o) s
      = .next (completeIssue (deliver (dstRid o) 1 ((slotAt s s.cur.sid).live &&& 0xFFFFFFFFFFFFFFFE#64) (atIssue s))) := by
  rw [dstFree] at hd
  refine issue_of_ok (cls := .b) rfl ?_ ?_
  · simp [bind_apply, oneXi, need9, hx, hn, hd, writeResult]
  · rw [deliver_cur]
    rfl

theorem liveOnly_spec (s : State) (sid : Nat) (m : Word) : let t := liveOnly sid m s
    (slotAt t sid).live = (slotAt s sid).live &&& m ∧ (slotAt t sid).pres = (slotAt s sid).pres ∧ t.g = s.g ∧ t.k = s.k ∧ t.mem = s.mem
    ∧ (∀ r, r < 64 → m.toNat.testBit r = false → tget t.place (fileKey sid r) .phys = .phys)
    ∧ ∀ i r, r < 128 → ¬ (i = sid ∧ r < 64 ∧ m.toNat.testBit r = false) → tget t.place (fileKey i r) .phys = tget s.place (fileKey i r) .phys := by
  intro t
  have hp (k : Nat) : tget t.place k .phys = if !(k / 128 == sid && decide (k % 128 < 64) && !m.toNat.testBit (k % 128)) then
      tget s.place k .phys else .phys := 
    tget_filter (fun k => !(k / 128 == sid && decide (k % 128 < 64) && !m.toNat.testBit (k % 128))) s.place k .phys
  have hd (i r : Nat) (h : r < 128) : fileKey i r / 128 = i ∧ fileKey i r % 128 = r := by
    unfold fileKey
    omega
  have hs : slotAt t sid = { slotAt s sid with live := (slotAt s sid).live &&& m } :=
    slotAt_modSlot_self sid (fun x => { x with live := x.live &&& m }) s
  refine ⟨by rw [hs], by rw [hs], rfl, rfl, rfl, fun r hr hm => ?_, fun i r hr hn => ?_⟩
  · obtain ⟨h1, h2⟩ := hd sid r (by omega)
    rw [hp, h1, h2]
    simp [hr, hm]
  · obtain ⟨h1, h2⟩ := hd i r hr
    rw [hp, h1, h2, if_pos]
    by_cases hi : i = sid <;> by_cases h64 : r < 64 <;> simp_all

/-- The strands that a YIELD of zero lets go first: the READY ones of its sequencer (R317). -/
def yieldTo (s : State) : List (Nat × Nat) :=
  ((List.range 11).map (cidOf s.cur.sid * 16 + ·)).filterMap fun t =>
    if t != s.cur.sid && (slotAt s t).xseq == (slotAt s s.cur.sid).xseq && (slotAt s t).st == .ready && decide ((slotAt s t).readyAt ≤ s.now)
    then some (t, (slotAt s t).issued) else none

theorem mem_yieldTo (s : State) (p : Nat × Nat) : p ∈ yieldTo s ↔ ∃ n, n < 11 ∧ p.1 = cidOf s.cur.sid * 16 + n ∧ p.1 ≠ s.cur.sid
    ∧ (slotAt s p.1).xseq = (slotAt s s.cur.sid).xseq ∧ (slotAt s p.1).st = .ready ∧ (slotAt s p.1).readyAt ≤ s.now
    ∧ p.2 = (slotAt s p.1).issued := by
  obtain ⟨a, b⟩ := p
  simp only [yieldTo, List.mem_filterMap, List.mem_map, List.mem_range]
  constructor
  · rintro ⟨t, ⟨n, hn, rfl⟩, h⟩
    split at h
    next hc =>
      simp at hc
      cases h
      exact ⟨n, hn, rfl, hc.1.1.1, hc.1.1.2, hc.1.2, hc.2, rfl⟩
    · cases h
  · rintro ⟨n, hn, rfl, h1, h2, h3, h4, rfl⟩
    exact ⟨_, ⟨n, hn, rfl⟩, by simp [h1, h2, h3, h4]⟩

theorem exec_yield_of_pos {o : Ops} {s : State} (h : (bitsR o).1 ≠ 0) : exec (.yield o) s = .next (completeIssue
      { atIssue s with cur := { (atIssue s).cur with cost := (bitsR o).1 + 1, idle := true } }) := by
  refine issue_of_ok (cls := .b) rfl ?_ rfl
  simp [bind_apply, h, setCost, atCost, idleM]

theorem exec_yield_of_zero {o : Ops} {s : State} (h : (bitsR o).1 = 0) : exec (.yield o) s
    = .next (completeIssue (if yieldTo s = [] then atCost 2 (modSlot s.cur.sid (fun x => { x with yieldOn := yieldTo s }) (atIssue s))
        else modSlot s.cur.sid (fun x => { x with yieldOn := yieldTo s }) (atIssue s))) := by
  refine issue_of_ok (cls := .b) rfl ?_ ?_
  · simp only [bind_apply, askM_apply, h, if_true, updM_apply]
    change (if (yieldTo s).isEmpty then setCost 2 else pure ())
      (modSlot s.cur.sid (fun x => { x with yieldOn := yieldTo s }) (atIssue s)) = _
    cases yieldTo s <;> rfl
  · split <;> rfl

/-- Settles O52: each clause is what one instruction, or one way that it ends, does with the slots of its strands. -/
theorem strandControl : Obligations.StrandControl := by
  unfold Obligations.StrandControl
  refine ⟨fun o s p t ea bs pair hb hr hk hd hm => ?_, fun s cid r at' after hr => ⟨fun h => ⟨startTeam_of_none _ _ _ _ h, startTeam_of_none _ _ _ _ h⟩,
      fun a l => startTeam_single_spec at' after hr, fun a x l set => startTeam_pair_spec at' after⟩,
    fun o s => ⟨exec_stop_of_slot0, exec_stop_of_busy, exec_stop_of_done⟩,
    fun o s w t hb hd => ⟨exec_joins_of_bad hb hd, exec_joins_of_running hb hd, fun ta ra tx rx => exec_joins_of_ended hb hd⟩,
    fun o s m t => exec_live, liveOnly_spec, fun o s => exec_liveGet,
    fun o s => ⟨exec_yield_of_pos, fun h => ⟨yieldTo s, mem_yieldTo s, exec_yield_of_zero h⟩⟩⟩
  have h := startOp_of_record pair hb hr hk hd hm
  cases pair
  · exact h
  · exact h

end Sys2Proof.Machine
end

section
/-!
SUPPORT. The vector unit (`Obligations.VectorUnit`): pushes, the issue of quarters, the lane groups and the lane results.
-/

namespace Sys2Proof.Machine

/-! ### A push -/

/-- The state after a push (R44, R282). -/
def queued (e : VEnt) (t s : State) : State :=
  let cid := cidOf s.cur.sid
  let x : VEnt := { e with
    vid := t.nextId, sid := s.cur.sid, gen := (slotAt t s.cur.sid).gen, ipc := s.cur.ipc, order := (slotAt t s.cur.sid).issued
    pushed := s.now }
  let u := { t with nextId := t.nextId + 1 }
  let u := if e.gdst = 0 then u else addBusy s.cur.sid e.gdst u
  vecArm (tidOfC cid) { u with vq := tput u.vq cid (tget u.vq cid [] ++ [x]) }

theorem vecArm_cur (tid : Nat) (s : State) : (vecArm tid s).cur = s.cur := by
  unfold vecArm
  split <;> rfl

theorem queued_cur (e : VEnt) (t s : State) : (queued e t s).cur = t.cur := by
  unfold queued
  dsimp only
  rw [vecArm_cur]
  split <;> rfl

theorem pushVec_of_room {e : VEnt} {t s : State} (hc : t.cur = (atIssue s).cur) (hn : t.now = s.now) (hr : vecRoomIn t s) :
    pushVec e t = .ok ((), queued e t s) := by
  have hsid : t.cur.sid = s.cur.sid := by rw [hc]; rfl
  have hipc : t.cur.ipc = s.cur.ipc := by rw [hc]; rfl
  unfold vecRoomIn at hr
  by_cases he : e.gdst = 0
  · simp only [pushVec, queued, bind_apply, askM_apply, id, hsid, hr, decide_true, waitOnUnless, if_true, pure_apply, updM_apply, freshId, hipc,
      hn, he]
    rfl
  · simp only [pushVec, queued, bind_apply, askM_apply, id, hsid, hr, decide_true, waitOnUnless, if_true, pure_apply, updM_apply, freshId, hipc,
      hn, if_neg he]
    rfl

/-- An instruction of the X class whose body ends in a push. -/
theorem issue_of_push {body : M Unit} {e : VEnt} {t s : State} (hx : classTrap .x s = none) (hb : body (atIssue s) = pushVec e t)
    (hc : t.cur = (atIssue s).cur) (hn : t.now = s.now) (hr : vecRoomIn t s) : issue .x s body = .next (pushed e t s) := by
  refine issue_of_ok (t := queued e t s) hx (hb.trans (pushVec_of_room hc hn hr)) ?_
  rw [queued_cur, hc]
  rfl

section
variable {o : Ops} {s : State} (hx : classTrap .x s = none) (hr : vecRoomIn s s)
include hx hr

theorem vTwo_pushed (op : Nat) {ok : Bool} (h : ok = true) :
    vTwo op ok o s = .next (pushed { vent 4 op o with reads := [o.a.toNat % 32, o.b.toNat % 32] } (atIssue s) s) := by
  subst h
  exact issue_of_push hx rfl rfl rfl hr

theorem vOne_pushed (page op : Nat) {ok : Bool} (h : ok = true) :
    vOne page op ok o s = .next (pushed { vent page op o with reads := [o.b.toNat % 32] } (atIssue s) s) := by
  subst h
  exact issue_of_push hx rfl rfl rfl hr

theorem vecTwoTable_pushed : ∀ row ∈ vecTwoTable, ∃ e : VEnt,
    exec (row.1 o) s = .next (pushed e (atIssue s) s) ∧ e.dst = dstN o % 32 ∧ e.gdst = 0 ∧ e.reads = [o.a.toNat % 32, o.b.toNat % 32]
      ∧ vecMem e = false
      ∧ ∀ t cid, vecLanes t cid e = row.2 e.imm (vread t cid (o.a.toNat % 32)) (vread t cid (o.b.toNat % 32)) := by
  have h (op : Nat) := vTwo_pushed (o := o) hx hr op rfl
  simp only [vecTwoTable, List.forall_mem_cons]
  refine ⟨?_, ?_, ?_, ?_, ?_, ?_, ?_, ?_, ?_, ?_, ?_, ?_, ?_, nofun⟩
  all_goals exact ⟨_, h _, rfl, rfl, rfl, rfl, fun _ _ => rfl⟩

theorem vecOneTable_pushed : ∀ row ∈ vecOneTable, ∃ e : VEnt,
    exec (row.1 o) s = .next (pushed e (atIssue s) s) ∧ e.dst = dstN o % 32 ∧ e.gdst = 0 ∧ e.reads = [o.b.toNat % 32]
      ∧ vecMem e = false ∧ ∀ t cid, vecLanes t cid e = (vread t cid (o.b.toNat % 32)).map row.2 := by
  have h (op : Nat) := vOne_pushed (o := o) hx hr 4 op rfl
  simp only [vecOneTable, List.forall_mem_cons]
  refine ⟨?_, ?_, ?_, ?_, ?_, ?_, ⟨_, h 30, rfl, rfl, rfl, rfl, fun _ _ => (List.map_id' _).symm⟩, nofun⟩
  all_goals exact ⟨_, h _, rfl, rfl, rfl, rfl, fun _ _ => rfl⟩

/-! ### The compute instructions, one by one (R290 to R302, R307) -/

theorem vfma_pushed : ∃ e : VEnt, exec (.vfma o) s = .next (pushed e (atIssue s) s) ∧ e.dst = dstN o % 32
    ∧ ∀ t cid, vecLanes t cid e
      = lanes3 Num.ffma (vread t cid (o.a.toNat % 32)) (vread t cid (o.b.toNat % 32)) (vread t cid (o.c.toNat % 32)) :=
  ⟨{ vent 4 3 o with reads := [o.a.toNat % 32, o.b.toNat % 32, o.c.toNat % 32] }, issue_of_push hx rfl rfl rfl hr, rfl, fun _ _ => rfl⟩

theorem vsel_pushed : ∃ e : VEnt, exec (.vsel o) s = .next (pushed e (atIssue s) s) ∧ e.dst = dstN o % 32
    ∧ ∀ t cid, vecLanes t cid e = lanes3 (fun x y m => if m != 0#32 then x else y)
        (vread t cid (o.a.toNat % 32)) (vread t cid (o.b.toNat % 32)) (vread t cid (o.c.toNat % 32)) :=
  ⟨{ vent 4 9 o with reads := [o.a.toNat % 32, o.b.toNat % 32, o.c.toNat % 32] }, issue_of_push hx rfl rfl rfl hr, rfl, fun _ _ => rfl⟩

theorem vshr_pushed (hl : o.xi.length ≤ 1) (hn : (bitsR o).1 < 2) : ∃ e : VEnt, exec (.vshr o) s = .next (pushed e (atIssue s) s)
    ∧ e.dst = dstN o % 32 ∧ ∀ t cid, vecLanes t cid e
      = lanes2 (fun x y => if (bitsR o).1 = 1 then x.sshiftRight (y.toNat % 32) else x >>> (y.toNat % 32))
          (vread t cid (o.a.toNat % 32)) (vread t cid (o.b.toNat % 32)) :=
  ⟨_, vTwo_pushed hx hr 14 (by simp [hl, hn]), rfl, fun _ _ => rfl⟩

theorem vcmp_pushed (hl : o.xi.length = 1) (hn : (bitsR o).1 ≤ 4 ∨ (8 ≤ (bitsR o).1 ∧ (bitsR o).1 ≤ 11)) :
    ∃ e : VEnt, exec (.vcmp o) s = .next (pushed e (atIssue s) s) ∧ e.dst = dstN o % 32
      ∧ ∀ t cid, vecLanes t cid e = lanes2 (vcmp (bitsR o).1) (vread t cid (o.a.toNat % 32)) (vread t cid (o.b.toNat % 32)) :=
  ⟨_, vTwo_pushed hx hr 8 (by simpa [hl] using hn), rfl, fun _ _ => rfl⟩

theorem vcvt_pushed (hl : o.xi.length = 1) (hn : (bitsR o).1 < 64) (hf : nfield (bitsR o).1 2 4 ≤ 12) :
    ∃ e : VEnt, exec (.vcvt o) s = .next (pushed e (atIssue s) s)
      ∧ ∀ t cid, vecLanes t cid e = (vread t cid (o.b.toNat % 32)).map (vcvt (bitsR o).1) :=
  ⟨_, vOne_pushed hx hr 4 29 (by simp only [hl, hn, hf, decide_true, Bool.and_self]), fun _ _ => rfl⟩

theorem vred_pushed (hl : o.xi.length = 1) (hn : (bitsR o).1 < 6) : ∃ e : VEnt, exec (.vred o) s = .next (pushed e (atIssue s) s)
    ∧ allGroups e = true ∧ ∀ t cid, vecLanes t cid e = List.replicate 32 (vred (bitsR o).1 (vread t cid (o.b.toNat % 32))) :=
  ⟨_, vOne_pushed hx hr 4 22 (by simp [hl, hn]), rfl, fun _ _ => rfl⟩

theorem vscan_pushed (hl : o.xi.length = 1) (hn : (bitsR o).1 < 4) : ∃ e : VEnt, exec (.vscan o) s = .next (pushed e (atIssue s) s)
    ∧ allGroups e = true ∧ ∀ t cid, vecLanes t cid e = vscan (bitsR o).1 (vread t cid (o.b.toNat % 32)) :=
  ⟨_, vOne_pushed hx hr 4 23 (by simp [hl, hn]), rfl, fun _ _ => rfl⟩

theorem viota_pushed (hl : o.xi.length ≤ 1) : ∃ e : VEnt, exec (.viota o) s = .next (pushed e (atIssue s) s)
    ∧ ∀ t cid, vecLanes t cid e = (List.range 32).map fun i => (BitVec.ofInt 64 (immR o)).truncate 32 + BitVec.ofNat 32 i :=
  ⟨{ vent 4 28 o with scalar := wordI (immR o) }, issue_of_push hx (by simp [bind_apply, oneXi, need9, hl]) rfl rfl hr, fun _ _ => rfl⟩

theorem vbcast_pushed_lane (hl : o.xi.length = 1) (hn : (bitsR o).1 < 32) (hb : o.b.toNat < 32) :
    ∃ e : VEnt, exec (.vbcast o) s = .next (pushed e (atIssue s) s)
      ∧ ∀ t cid, vecLanes t cid e = List.replicate 32 ((vread t cid (o.b.toNat % 32)).getD (bitsR o).1 0#32) := by
  have he : o.xi ≠ [] := fun h => by simp [h] at hl
  refine ⟨{ vent 4 25 o with reads := [o.b.toNat % 32] }, issue_of_push hx ?_ rfl rfl hr, fun t cid => ?_⟩
  · simp [bind_apply, oneXi, need9, hl, hn, he, show ¬ 48 ≤ o.b.toNat by omega, show ¬ 32 ≤ o.b.toNat by omega]
  · simp [vecLanes, vent, hl]

theorem vext_pushed (hl : o.xi.length = 1) (hn : (bitsR o).1 < 64) (hd : dstFree o (atIssue s)) :
    ∃ e : VEnt, exec (.vext o) s = .next (pushed e (atIssue s) s)
      ∧ e.dst = 32 ∧ e.gdst = dstRid o % 128 ∧ e.imm = (bitsR o).1 ∧ e.reads = [o.b.toNat % 32] := by
  rw [dstFree] at hd
  refine ⟨{ vent 4 26 o with dst := 32, gdst := dstRid o % 128, reads := [o.b.toNat % 32] }, issue_of_push hx ?_ rfl rfl hr, rfl, rfl, rfl, rfl⟩
  simp [bind_apply, need9, hl, hn, hd]

theorem vtopk_pushed (hl : o.xi.length = 1) (h1 : 1 ≤ (bitsR o).1) (h8 : (bitsR o).1 ≤ 8) :
    ∃ e : VEnt, exec (.vtopk o) s = .next (pushed e (atIssue s) s)
      ∧ ∀ t cid, vecLanes t cid e = vtopk (bitsR o).1 (vread t cid (o.b.toNat % 32)) :=
  ⟨_, vOne_pushed hx hr 5 7 (by simp [hl, h1, h8]), fun _ _ => rfl⟩

theorem vbscale_pushed (hl : o.xi.length = 1) (hn : (bitsR o).1 < 4) : ∃ e : VEnt, exec (.vbscale o) s = .next (pushed e (atIssue s) s)
    ∧ ∀ t cid, vecLanes t cid e = vbscale (bitsR o).1 (vread t cid (o.b.toNat % 32)) :=
  ⟨_, vOne_pushed hx hr 5 8 (by simp [hl, hn]), fun _ _ => rfl⟩

theorem vshare_pushed (he : o.exr = false) (hq : o.exq = none) (hxi : o.xi = []) (ha : o.a = 0) (h1 : 1 ≤ o.lo.toNat % 64)
    (h15 : o.lo.toNat % 64 ≤ 15) : ∃ e : VEnt,
      exec (.vshare o) s = .next (pushed e (atIssue s) s) ∧ e.page = 5 ∧ e.op = 12 ∧ e.imm = o.lo.toNat % 64 := by
  refine ⟨{ vent 5 12 o with imm := o.lo.toNat % 64, dst := 32 }, issue_of_push hx ?_ rfl rfl hr, rfl, rfl, rfl⟩
  simp [bind_apply, need9, he, hq, hxi, ha, h1, h15]

omit hr in
theorem exec_vred_of_bad (h : o.xi.length ≠ 1 ∨ 6 ≤ (bitsR o).1) : exec (.vred o) s = .next (trapsAt s 1 (firstFour s.cur.words) 9#64) := by
  have hb : (decide (o.xi.length = 1) && decide ((bitsR o).1 < 6)) = false := by
    rcases h with h | h
    · simp [h]
    · simp [Nat.not_lt.mpr h]
  refine issue_of_trap hx ?_
  simp only [bind_apply, need9, hb, Bool.false_eq_true, if_false]
  rfl

end

/-! ### The instructions with an operand of a g register -/

theorem vqHeld_congr {s t : State} (ha : t.accs = s.accs) (hv : t.vq = s.vq) (cid : Nat) : vqHeld t cid = vqHeld s cid := by
  simp only [vqHeld, vidParked, ha, hv]

theorem killReg_accs (n : Nat) (s : State) : (killReg n s).accs = s.accs := by
  unfold killReg; dsimp only; split_ifs <;> rfl

theorem killReg_vq (n : Nat) (s : State) : (killReg n s).vq = s.vq := by
  unfold killReg; dsimp only; split_ifs <;> rfl

theorem vecRoomIn_markLastB {o : Ops} {t s : State} (h : vecRoomIn t s) : vecRoomIn (markLastB o t) s := by
  unfold vecRoomIn at *
  rwa [vqHeld_congr (s := t)]
  · unfold markLastB
    split
    · exact killReg_accs ..
    · rfl
  · unfold markLastB
    split
    · exact killReg_vq ..
    · rfl

theorem vecRoomIn_markLast {o : Ops} {t s : State} (h : vecRoomIn t s) : vecRoomIn (markLast o t) s := by
  unfold vecRoomIn at *
  rwa [vqHeld_congr (s := t)]
  · unfold markLast
    dsimp only
    split_ifs <;> simp [killReg_accs]
  · unfold markLast
    dsimp only
    split_ifs <;> simp [killReg_vq]

section
variable {o : Ops} {s t : State} {x : Word} (hb : readsB .x o s x t) (hr : vecRoomIn t s)
include hb hr

/-- An instruction that reads B and then pushes an entry. -/
theorem issue_of_read_push {body : M Unit} {e : VEnt} (h : body (atIssue s) = pushVec e (markLastB o t)) :
    issue .x s body = .next (pushed e (markLastB o t) s) := by
  obtain ⟨hcur, hnow⟩ := readsB_markLastB hb
  exact issue_of_push hb.1 h hcur hnow (vecRoomIn_markLastB hr)

theorem vbcast_pushed_word (hl : o.xi = []) : ∃ e : VEnt, exec (.vbcast o) s = .next (pushed e (markLastB o t) s)
    ∧ ∀ u cid, vecLanes u cid e = List.replicate 32 (x.truncate 32) := by
  refine ⟨{ vent 4 25 o with scalar := x }, issue_of_read_push hb hr ?_, fun u cid => ?_⟩
  · simp [bind_apply, oneXi, need9, hl, bitsR, exiNat, hb.2, lastUseB]
  · simp [vecLanes, vent, hl]

theorem vins_pushed (hl : o.xi.length = 1) (hn : (bitsR o).1 < 32) : ∃ e : VEnt, exec (.vins o) s = .next (pushed e (markLastB o t) s)
    ∧ ∀ u cid, vecLanes u cid e = (vread u cid (o.a.toNat % 32)).set (bitsR o).1 (x.truncate 32) := by
  refine ⟨{ vent 4 27 o with scalar := x, reads := [o.a.toNat % 32] }, issue_of_read_push hb hr ?_, fun u cid => rfl⟩
  simp [bind_apply, need9, hl, hn, hb.2, lastUseB]

end

/-! ### Vector loads and stores -/

theorem fmtM_of_row {p : Word} {r : Num.FmtRow} (s : State) (hf : Num.fmtRow (wfield p 60 4) = some r) (hk : wfield p 57 3 = r.blk)
    (h0 : wfield p 56 1 = 0) : fmtM p s = .ok (r, s) := by
  unfold fmtM
  rw [hf]
  exact congrFun (if_pos ⟨hk, h0⟩) s

theorem laneFmtM_of_row {p : Word} {r : Num.FmtRow} (s : State) (hf : Num.fmtRow (wfield p 60 4) = some r) (hk : wfield p 57 3 = r.blk)
    (h0 : wfield p 56 1 = 0) (hu : r.ue = 1) : laneFmtM p s = .ok ((wfield p 60 4, if wfield p 60 4 = 0 then 4 else r.ub), s) := by
  simp [laneFmtM, bind_apply, fmtM_of_row s hf hk h0, hu]

section
variable {o : Ops} {s t : State} {p : Word} {r : Num.FmtRow} {ea : Nat}
variable (hb : readsB .x o s p t) (hr : vecRoomIn t s) (hf : Num.fmtRow (wfield p 60 4) = some r) (hk : wfield p 57 3 = r.blk)
  (h0 : wfield p 56 1 = 0) (he : (ea : Int) = (wfield p 0 56 : Nat) + immR o) (hl : ea < 2 ^ 56)
include hb hr hf hk h0 he hl

/-- A contiguous vector access whose span passes its checks is pushed (R304). -/
theorem vSpanOp_pushed (store : Bool) (hu : r.ue = 1 → ea % r.ub = 0)
    (hg : rangeOk t ea (if wfield p 60 4 = 0 then 128 else 32 / r.ue * r.ub) (!store) store)
    (hs : store = true → stepM ea t = .ok ((), t)) :
    vSpanOp store o s = .next (pushed { vent 5 (if store then 1 else 0) o with
      fmt := wfield p 60 4, addr := ea, dst := if store then 32 else dstN o % 32
      reads := if store then [o.a.toNat % 32] else [] } (markLastB o t) s) := by
  obtain ⟨x, hx⟩ := rangeM_of_rangeOk hg
  have hfm := fmtM_of_row t hf hk h0
  have hef := effAddr_of_eq t he hl
  have hal : r.ue = 1 → alignM ea r.ub t = .ok ((), t) := fun h => by rw [alignM, if_pos (hu h)]; rfl
  refine issue_of_read_push hb hr ?_
  by_cases h1 : r.ue = 1
  · cases store
    · simp only [bind_apply, hb.2, hfm, hef, if_pos h1, hal h1, hx, Bool.false_eq_true, if_false, lastUseB, updM_apply]
      rfl
    · simp only [bind_apply, hb.2, hfm, hef, if_pos h1, hal h1, hx, if_true, hs, lastUseB, updM_apply]
  · cases store
    · simp only [bind_apply, hb.2, hfm, hef, if_neg h1, hx, Bool.false_eq_true, if_false, lastUseB, updM_apply]
      rfl
    · simp only [bind_apply, hb.2, hfm, hef, if_neg h1, hx, if_true, hs, lastUseB, updM_apply]

theorem vld_pushed (hu : r.ue = 1 → ea % r.ub = 0)
    (hg : rangeOk t ea (if wfield p 60 4 = 0 then 128 else 32 / r.ue * r.ub) true false) :
    ∃ e : VEnt, exec (.vld o) s = .next (pushed e (markLastB o t) s) ∧ e.addr = ea ∧ e.fmt = wfield p 60 4
      ∧ e.lanes = [] ∧ e.dst = dstN o % 32 ∧ vecMem e = true ∧ vecStore e = false :=
  ⟨_, vSpanOp_pushed hb hr hf hk h0 he hl false hu hg nofun, rfl, rfl, rfl, rfl, rfl, rfl⟩

theorem vst_pushed (hu : r.ue = 1 → ea % r.ub = 0)
    (hg : rangeOk t ea (if wfield p 60 4 = 0 then 128 else 32 / r.ue * r.ub) false true) (hc : o.exr = true → o.c = 0)
    (hs : stepM ea t = .ok ((), t)) : ∃ e : VEnt,
      exec (.vst o) s = .next (pushed e (markLastB o t) s) ∧ e.addr = ea ∧ e.fmt = wfield p 60 4 ∧ e.lanes = [] ∧ e.dst = 32
      ∧ e.reads = [o.a.toNat % 32] ∧ vecStore e = true := by
  have hn : ¬ (o.exr && o.c.toNat ≠ 0) = true := by
    cases h : o.exr
    · simp
    · simp [hc h]
  exact ⟨_, (if_neg hn).trans (vSpanOp_pushed hb hr hf hk h0 he hl true hu hg fun _ => hs), rfl, rfl, rfl, rfl, rfl, rfl⟩

theorem vstm_pushed (hu : r.ue = 1) {z : Nat} (hz : z = (if wfield p 60 4 = 0 then 4 else r.ub)) (ha : ea % z = 0)
    (hg : rangeOk t ea (32 * z) false true) (hs : stepM ea t = .ok ((), t)) : ∃ e : VEnt,
      exec (.vstm o) s = .next (pushed e (markLastB o t) s) ∧ e.fmt = wfield p 60 4 ∧ e.z = z
      ∧ e.lanes = (List.range 32).map (fun i => ea + i * z) ∧ e.reads = [o.c.toNat % 32, o.a.toNat % 32] ∧ vecStore e = true := by
  obtain ⟨x, hx⟩ := rangeM_of_rangeOk hg
  have hal : alignM ea z t = .ok ((), t) := by rw [alignM, if_pos ha]; rfl
  refine ⟨{ vent 5 4 o with
    fmt := wfield p 60 4, z := z, lanes := (List.range 32).map fun i => ea + i * z, dst := 32
    reads := [o.c.toNat % 32, o.a.toNat % 32] }, issue_of_read_push hb hr ?_, rfl, rfl, rfl, rfl, rfl⟩
  simp only [bind_apply, hb.2, laneFmtM_of_row t hf hk h0 hu, ← hz, effAddr_of_eq t he hl, hal, hx, hs, lastUseB, updM_apply]

end

section
variable {o : Ops} {s t : State} {p : Word} {r : Num.FmtRow} {z : Nat} {l : List Nat}
variable (hb : readsB .x o s p t) (hf : Num.fmtRow (wfield p 60 4) = some r) (hk : wfield p 57 3 = r.blk)
  (h0 : wfield p 56 1 = 0) (hu : r.ue = 1) (hz : z = (if wfield p 60 4 = 0 then 4 else r.ub))
include hb hf hk h0 hu hz

/-- The entry of a strided or indexed access (R305). -/
def lanesEntry (op : Nat) (store : Bool) (o : Ops) (f z : Nat) (l : List Nat) : VEnt :=
  { vent 5 op o with
    fmt := f, z := z, lanes := l, dst := if store then 32 else o.c.toNat % 32, reads := if store then [o.c.toNat % 32] else [] }

theorem vLanesOp_indexed_pushed (op : Nat) (store : Bool) (hr : vecRoomIn t s)
    (hw : ∀ e ∈ tget t.vq (cidOf s.cur.sid) [], e.dst ≠ o.a.toNat % 32 ∨ e.done.length = 4)
    (hl : lanesM p z store ((List.range 32).map fun i => immR o + (getLane t (cidOf s.cur.sid) (o.a.toNat % 32) i).toInt * z) 0 t
      = .ok (l, t)) :
    vLanesOp op store true o s = .next (pushed (lanesEntry op store o (wfield p 60 4) z l) (markLastB o t) s) := by
  have hcur : t.cur = (atIssue s).cur := readsB_cur hb
  have hq : (tget t.vq (cidOf s.cur.sid) []).all (fun e => e.dst != o.a.toNat % 32 || e.done.length == 4) = true := by
    simpa [List.all_eq_true] using hw
  have hfm := laneFmtM_of_row t hf hk h0 hu
  rw [← hz] at hfm
  refine issue_of_read_push hb hr ?_
  simp only [bind_apply, hb.2, if_true, pure_apply, askM_apply, id, hcur, atIssue_cur_sid, waitOnUnless, hq, hfm, hl, lastUseB, updM_apply]
  rfl

theorem vLanesOp_strided_pushed (op : Nat) (store : Bool) {d : Word} {u : State} (hs : srcA o t = .ok (d, u)) (hr : vecRoomIn u s)
    (hl : lanesM p z store ((List.range 32).map fun (i : Nat) => immR o + (i : Int) * d.toInt) 0 u = .ok (l, u)) :
    vLanesOp op store false o s = .next (pushed (lanesEntry op store o (wfield p 60 4) z l) (markLast o u) s) := by
  have hk' : readKeeps t u := src_readsOnly _ _ _ t d u hs
  have hcur : u.cur = (atIssue s).cur := (readKeeps_cur hk').trans (readsB_cur hb)
  have hnow : (markLast o u).now = s.now := by
    rw [(markLast_endKeeps o u).1]
    exact (readKeeps_now hk').trans ((readKeeps_now (readsB_readKeeps hb)).trans rfl)
  have hfm := laneFmtM_of_row u hf hk h0 hu
  rw [← hz] at hfm
  refine issue_of_push hb.1 ?_ ((markLast_cur o u).trans hcur) hnow (vecRoomIn_markLast hr)
  simp only [bind_apply, hb.2, hs, Bool.false_eq_true, if_false, askM_apply, id, hfm, hl, lastUse, updM_apply]
  rfl

end

/-! ### The issue of quarters -/

/-- What the issue of a vector instruction's quarters leaves as it is: it adds to the agenda. -/
def vecKeeps (s t : State) : Prop := t.now = s.now ∧ t.g = s.g ∧ t.mem = s.mem ∧ t.v = s.v ∧ s.agenda ⊆ t.agenda

theorem vecKeeps_refl (s : State) : vecKeeps s s := ⟨rfl, rfl, rfl, rfl, fun _ h => h⟩

theorem vecKeeps_trans {s t u : State} (h : vecKeeps s t) (k : vecKeeps t u) : vecKeeps s u := by
  obtain ⟨h1, h2, h3, h4, h5⟩ := h
  obtain ⟨k1, k2, k3, k4, k5⟩ := k
  exact ⟨k1.trans h1, k2.trans h2, k3.trans h3, k4.trans h4, List.Subset.trans h5 k5⟩

theorem post_vecKeeps (c : Nat) (i : Instr) (a : EvArg) (s : State) : vecKeeps s (post c i a s) :=
  ⟨rfl, rfl, rfl, rfl, List.subset_append_left _ _⟩

theorem modVEnt_vecKeeps (cid vid : Nat) (f : VEnt → VEnt) (s : State) : vecKeeps s (modVEnt cid vid f s) := ⟨rfl, rfl, rfl, rfl, fun _ h => h⟩

theorem modTile_vecKeeps (tid : Nat) (f : Tile → Tile) (s : State) : vecKeeps s (modTile tid f s) := ⟨rfl, rfl, rfl, rfl, fun _ h => h⟩

theorem vecKeeps_ite {s t u : State} {p : Prop} [Decidable p] (h : vecKeeps s t) (k : vecKeeps s u) : vecKeeps s (if p then t else u) := by
  split
  · exact h
  · exact k

theorem vecArm_vecKeeps (tid : Nat) (s : State) : vecKeeps s (vecArm tid s) := vecKeeps_ite (vecKeeps_refl s) (post_vecKeeps ..)

theorem sendAcc_vecKeeps (a : Acc) (s : State) : vecKeeps s (sendAcc a s).2 :=
  vecKeeps_ite ⟨rfl, rfl, rfl, rfl, List.subset_append_left _ _⟩ ⟨rfl, rfl, rfl, rfl, List.subset_append_left _ _⟩

theorem xchgIssued_vecKeeps (sid : Nat) (s : State) : vecKeeps s (xchgIssued sid s) := by
  unfold xchgIssued modGang
  split
  · split
    · exact ⟨rfl, rfl, rfl, rfl, fun _ h => h⟩
    · exact vecKeeps_refl s
  · exact vecKeeps_refl s

theorem vecSend_vecKeeps (cid : Nat) (e : VEnt) (lo hi : Nat) (s : State) : vecKeeps s (vecSend cid e lo hi s) := by
  unfold vecSend
  refine foldl_keeps vecKeeps_refl vecKeeps_trans (fun u p => ?_) _ _
  exact vecKeeps_trans (vecKeeps_ite (xchgIssued_vecKeeps ..) (vecKeeps_refl u)) (sendAcc_vecKeeps ..)

/-- A quarter's lanes on their way to their register (R289). -/
def sendLanes (cid : Nat) (e : VEnt) (out : List Lane) (s : State) (k : Nat) : State :=
  post (s.now + vecLatency e) .vectorResult
    { a := cid, b := e.vid, c := k, p := .words (((out.drop (8 * k)).take 8).map fun x => x.zeroExtend 64) } s

theorem foldl_sendLanes_vecKeeps (cid : Nat) (e : VEnt) (out : List Lane) (qs : List Nat) (s : State) :
    vecKeeps s (qs.foldl (sendLanes cid e out) s) :=
  foldl_keeps vecKeeps_refl vecKeeps_trans (fun _ _ => post_vecKeeps ..) qs s

theorem vecIssue_vecKeeps (cid : Nat) (e : VEnt) (qs : List Nat) (s : State) : vecKeeps s (vecIssue cid e qs s) := by
  have hm := modVEnt_vecKeeps cid e.vid (fun x => { x with issued := x.issued ++ qs }) s
  unfold vecIssue
  dsimp only
  split
  · have hs := vecKeeps_trans hm (vecSend_vecKeeps cid e (qs.headD 0) (qs.getLastD 0) _)
    exact vecKeeps_ite (vecKeeps_trans hs (modVEnt_vecKeeps ..)) hs
  · split
    · have hd := vecKeeps_trans hm (modVEnt_vecKeeps cid e.vid (fun x => { x with done := x.done ++ qs }) _)
      exact vecKeeps_ite hd (vecKeeps_trans hd (post_vecKeeps ..))
    · exact vecKeeps_trans hm (foldl_sendLanes_vecKeeps cid e _ qs _)

/-- The lanes come from the vector registers alone. -/
theorem vecLanes_congr {s t : State} (h : t.v = s.v) (cid : Nat) (e : VEnt) : vecLanes t cid e = vecLanes s cid e := by
  have hv (r : Nat) : vread t cid r = vread s cid r := by simp only [vread, getLane, h]
  simp only [vecLanes, hv]

theorem foldl_sendLanes_due {cid : Nat} {e : VEnt} {out : List Lane} {qs : List Nat} {s : State} {q now : Nat} (hn : s.now = now) (h : q ∈ qs) :
    due (qs.foldl (sendLanes cid e out) s) (now + vecLatency e) .vectorResult
      { a := cid, b := e.vid, c := q, p := .words (((out.drop (8 * q)).take 8).map fun x => x.zeroExtend 64) } := by
  induction qs generalizing s with
  | nil => cases h
  | cons k qs ih =>
    rcases List.mem_cons.mp h with rfl | h
    · subst hn
      exact (foldl_sendLanes_vecKeeps cid e out qs (sendLanes cid e out s q)).2.2.2.2
        (List.mem_append_right _ (List.mem_singleton.mpr rfl))
    · exact ih (s := sendLanes cid e out s k) hn h

/-- A quarter of a compute instruction delivers its lanes at its latency (R289). -/
theorem vecIssue_due {cid : Nat} {e : VEnt} {qs : List Nat} {s : State} (hm : vecMem e = false) (hx : ¬ (e.page = 4 ∧ e.op = 26)) :
    ∀ q ∈ qs, due (vecIssue cid e qs s) (s.now + vecLatency e) .vectorResult
      { a := cid, b := e.vid, c := q, p := .words ((((vecLanes s cid e).drop (8 * q)).take 8).map fun x => x.zeroExtend 64) } := by
  intro q hq
  unfold vecIssue
  dsimp only
  rw [if_neg (by simp [hm]), if_neg hx]
  exact foldl_sendLanes_due (s := modVEnt cid e.vid _ s) rfl hq

theorem vecIssue_due_of_keeps {cid q : Nat} {e : VEnt} {qs : List Nat} {s u : State} (hm : vecMem e = false) (hx : ¬ (e.page = 4 ∧ e.op = 26))
    (hu : vecKeeps s u) (hq : q ∈ qs) : due (vecIssue cid e qs u) (s.now + vecLatency e) .vectorResult
      { a := cid, b := e.vid, c := q, p := .words ((((vecLanes s cid e).drop (8 * q)).take 8).map fun x => x.zeroExtend 64) } := by
  have hd := vecIssue_due (cid := cid) (s := u) hm hx q hq
  rwa [vecLanes_congr hu.2.2.2.1, hu.1] at hd

/-! ### One cycle of the lane groups (R45) -/

theorem vshareHead_vecKeeps (cid : Nat) (s : State) : vecKeeps s (vshareHead cid s) := by
  unfold vshareHead
  split
  · exact vecKeeps_ite (vecKeeps_trans (modVEnt_vecKeeps ..) (post_vecKeeps ..)) (vecKeeps_refl s)
  · exact vecKeeps_refl s

/-- The choices of the four lane groups of a tile, each after those of the lower ones. -/
def groupChoices (s : State) (tid : Nat) : List (Option GroupChoice) := (List.range 4).foldl (fun l g => l ++ [groupChoice s tid g l]) []

/-- What one lane group serves, of the choices `ch`. -/
def serveGroup (tid : Nat) (ch : List (Option GroupChoice)) (s : State) (g : Nat) : State :=
  let together (x : GroupChoice) : Bool := ch.all fun y => match y with
    | some y => y.core == x.core && y.ent.vid == x.ent.vid
    | none => false
  match (ch.getD g none) with
  | none => s
  | some x =>
    let cid := tid * 4 + x.core
    if allGroups x.ent && !together x then s
    else
      let s := modTile tid (fun t => { t with
        ptr := t.ptr.set g x.ptr
        deficit := (List.range 4).map fun c => (t.deficit.getD c []).set g (x.deficit.getD c 0) }) s
      if allGroups x.ent then (if g = 0 then vecIssue cid x.ent [0, 1, 2, 3] s else s)
      else vecIssue cid x.ent [g] s

/-- What follows the groups' service: the queues and the deficits are brought up to date, and the next cycle is armed. -/
def endQuarter (tid : Nat) (s : State) : State :=
  let cores := (List.range 4).map (tid * 4 + ·)
  let s := cores.foldl (fun s c => { s with vq := tput s.vq c (vTrim (tget s.vq c [])) }) s
  let s := modTile tid (fun t => { t with
    deficit := (List.range 4).map fun c => if (vqHeld s (tid * 4 + c)).isEmpty then [0, 0, 0, 0] else t.deficit.getD c [] }) s
  if cores.any fun c => !(vqHeld s c).isEmpty then vecArm tid s else s

theorem exec_vectorQuarterIssue (s : State) : exec .vectorQuarterIssue s = .next (
    let u := ((List.range 4).map (s.ev.a * 4 + ·)).foldl (fun s c => vshareHead c s) s
    endQuarter s.ev.a ((List.range 4).foldl (serveGroup s.ev.a (groupChoices u s.ev.a)) u)) := rfl

theorem serveGroup_vecKeeps (tid : Nat) (ch : List (Option GroupChoice)) (s : State) (g : Nat) : vecKeeps s (serveGroup tid ch s g) := by
  unfold serveGroup
  dsimp only
  split
  · exact vecKeeps_refl s
  · have ht := modTile_vecKeeps tid
    exact vecKeeps_ite (vecKeeps_refl s) (vecKeeps_ite
      (vecKeeps_ite (vecKeeps_trans (ht _ s) (vecIssue_vecKeeps ..)) (ht _ s)) (vecKeeps_trans (ht _ s) (vecIssue_vecKeeps ..)))

theorem endQuarter_vecKeeps (tid : Nat) (s : State) : vecKeeps s (endQuarter tid s) := by
  have hf : vecKeeps s (((List.range 4).map (tid * 4 + ·)).foldl (fun s c => { s with vq := tput s.vq c (vTrim (tget s.vq c [])) }) s) := by
    refine foldl_keeps vecKeeps_refl vecKeeps_trans (fun _ _ => ?_) _ s
    exact ⟨rfl, rfl, rfl, rfl, fun _ h => h⟩
  exact vecKeeps_ite (vecKeeps_trans (vecKeeps_trans hf (modTile_vecKeeps ..)) (vecArm_vecKeeps ..)) (vecKeeps_trans hf (modTile_vecKeeps ..))

theorem exec_vectorQuarterIssue_keeps (s : State) :
    ∃ t, exec .vectorQuarterIssue s = .next t ∧ t.now = s.now ∧ t.g = s.g ∧ t.mem = s.mem ∧ t.v = s.v := by
  have hu : vecKeeps s (((List.range 4).map (s.ev.a * 4 + ·)).foldl (fun s c => vshareHead c s) s) :=
    foldl_keeps vecKeeps_refl vecKeeps_trans (fun _ _ => vshareHead_vecKeeps ..) _ s
  obtain ⟨h1, h2, h3, h4, -⟩ := vecKeeps_trans (vecKeeps_trans hu (foldl_keeps vecKeeps_refl vecKeeps_trans
    (serveGroup_vecKeeps s.ev.a (groupChoices _ s.ev.a)) (List.range 4) _)) (endQuarter_vecKeeps s.ev.a _)
  exact ⟨_, exec_vectorQuarterIssue s, h1, h2, h3, h4⟩

/-! ### A tile with one instruction to serve -/

theorem foldl_eq_self {α : Type} {f : State → α → State} {l : List α} {s : State} (h : ∀ a ∈ l, f s a = s) : l.foldl f s = s := by
  induction l with
  | nil => rfl
  | cons a l ih =>
    obtain ⟨ha, hl⟩ := List.forall_mem_cons.mp h
    rw [List.foldl_cons, ha, ih hl]

theorem filterMap_range_four {α : Type} {f : Nat → Option α} {c : Nat} {x : α} (hc : c < 4) (h : f c = some x)
    (h0 : ∀ d, d < 4 → d ≠ c → f d = none) : (List.range 4).filterMap f = [x] := by
  interval_cases c <;> simp [List.range_succ, h, h0]

/-- The one core of the tile with an instruction in its queue, and that instruction may issue: a compute instruction pushed before, of which
no quarter has issued. -/
structure OneReady (s : State) (tid c : Nat) (e : VEnt) : Prop where
  lt : c < 4
  own : tget s.vq (tid * 4 + c) [] = [e]
  others : ∀ d, d < 4 → d ≠ c → tget s.vq (tid * 4 + d) [] = []
  page : e.page = 4
  single : allGroups e = false
  fresh : e.issued = []
  pushed : e.pushed < s.now
  free : heldBehind s (tid * 4 + c) e.vid = false
  weight : 1 ≤ (coreAt s (tid * 4 + c)).weight

section
variable {s : State} {tid c : Nat} {e : VEnt} (h : OneReady s tid c e)
include h

theorem vshareHead_of_oneReady {d : Nat} (hd : d < 4) : vshareHead (tid * 4 + d) s = s := by
  unfold vshareHead
  by_cases hdc : d = c
  · have hq : vqHeld s (tid * 4 + d) = [e] := by simp [vqHeld, hdc, h.own, h.fresh]
    rw [hq]
    exact if_neg (by simp [isShare, h.page])
  · have hq : vqHeld s (tid * 4 + d) = [] := by simp [vqHeld, h.others d hd hdc]
    rw [hq]
    rfl

theorem vqHead_self (g : Nat) : vqHead s (tid * 4 + c) g = some e := by
  simp [vqHead, h.own, h.fresh, isShare, h.page, h.free]

theorem vqHead_other {d : Nat} (hd : d < 4) (hdc : d ≠ c) (g : Nat) : vqHead s (tid * 4 + d) g = none := by
  simp [vqHead, h.others d hd hdc]

theorem vqReady_self (g : Nat) (prev : List (Option GroupChoice)) : vqReady s tid c g e prev = true := by
  simp [vqReady, h.own, h.pushed, vecMem, h.page]

/-- Each lane group chooses the instruction, whatever its deficits are (R45). -/
theorem groupChoice_of_oneReady (g : Nat) (prev : List (Option GroupChoice)) :
    ∃ x, groupChoice s tid g prev = some x ∧ x.core = c ∧ x.ent = e := by
  unfold groupChoice
  extract_lets t cand d0 has d p0
  have hcand : cand = [(c, e)] := by
    refine filterMap_range_four h.lt ?_ fun d hd hdc => ?_
    · simp only [vqHead_self h g, vqReady_self h g prev, if_true]
    · simp only [vqHead_other h hd hdc g]
  have hget (f : Nat → Nat) : ((List.range 4).map f).getD c 0 = f c := by simp [h.lt]
  have hd : has d c = true := by
    simp only [d, hcand, List.any_cons, List.any_nil, Bool.or_false]
    split
    next hh => exact hh
    next => exact decide_eq_true (by rw [hget]; simpa using Nat.le_add_left_of_le h.weight)
  clear_value d
  rw [hcand, if_neg (by simp)]
  obtain ⟨c', hc'⟩ : ∃ c', List.find? (fun x => ([(c, e)].any fun p => p.1 == x) && has d x) ((List.range 4).map fun k => (p0 + k) % 4) = some c' := by
    refine Option.isSome_iff_exists.mp (List.find?_isSome.mpr ⟨c, ?_, by simp [hd]⟩)
    have := h.lt
    exact List.mem_map.mpr ⟨(c + 4 - p0 % 4) % 4, List.mem_range.mpr (Nat.mod_lt _ (by decide)), by omega⟩
  have hp := List.find?_some hc'
  have hcc : c = c' := by
    simp only [Bool.and_eq_true, List.any_cons, List.any_nil, Bool.or_false, beq_iff_eq] at hp
    exact hp.1
  subst hcc
  rw [hc']
  simp

theorem groupChoices_of_oneReady {q : Nat} (hq : q < 4) :
    ∃ x, (groupChoices s tid).getD q none = some x ∧ x.core = c ∧ x.ent = e := by
  obtain ⟨prev, hp⟩ : ∃ prev, (groupChoices s tid).getD q none = groupChoice s tid q prev := by
    interval_cases q <;> exact ⟨_, rfl⟩
  rw [hp]
  exact groupChoice_of_oneReady h q prev

/-- A group that serves the instruction puts its quarter's result on the agenda. -/
theorem serveGroup_due (hop : e.op ≠ 26) {q : Nat} (hq : q < 4) {u : State} (hu : vecKeeps s u) :
    due (serveGroup tid (groupChoices s tid) u q) (s.now + vecLatency e) .vectorResult
      { a := tid * 4 + c, b := e.vid, c := q
        p := .words ((((vecLanes s (tid * 4 + c) e).drop (8 * q)).take 8).map fun x => x.zeroExtend 64) } := by
  obtain ⟨x, hx, rfl, rfl⟩ := groupChoices_of_oneReady h hq
  unfold serveGroup
  rw [hx]
  dsimp only
  rw [if_neg (by simp [h.single]), if_neg (by simp [h.single])]
  have hm : vecMem x.ent = false := by simp [vecMem, h.page]
  exact vecIssue_due_of_keeps hm (fun h => hop h.2) (vecKeeps_trans hu (modTile_vecKeeps ..)) (List.mem_singleton.mpr rfl)

theorem foldl_serveGroup_due (hop : e.op ≠ 26) {l : List Nat} {q : Nat} (hl : q ∈ l) (hq : q < 4) {u : State} (hu : vecKeeps s u) :
    due (l.foldl (serveGroup tid (groupChoices s tid)) u) (s.now + vecLatency e) .vectorResult
      { a := tid * 4 + c, b := e.vid, c := q
        p := .words ((((vecLanes s (tid * 4 + c) e).drop (8 * q)).take 8).map fun x => x.zeroExtend 64) } := by
  induction l generalizing u with
  | nil => cases hl
  | cons k l ih =>
    rcases List.mem_cons.mp hl with rfl | hl
    · exact (foldl_keeps vecKeeps_refl vecKeeps_trans (serveGroup_vecKeeps tid (groupChoices s tid)) l
        (serveGroup tid (groupChoices s tid) u q)).2.2.2.2 (serveGroup_due h hop hq hu)
    · exact ih hl (vecKeeps_trans hu (serveGroup_vecKeeps ..))

theorem exec_vectorQuarterIssue_of_oneReady (htid : tid = s.ev.a) (hop : e.op ≠ 26) : ∃ t, exec .vectorQuarterIssue s = .next t ∧
    ∀ q, q < 4 → due t (s.now + vecLatency e) .vectorResult
      { a := tid * 4 + c, b := e.vid, c := q
        p := .words ((((vecLanes s (tid * 4 + c) e).drop (8 * q)).take 8).map fun x => x.zeroExtend 64) } := by
  subst htid
  have hs : ((List.range 4).map (s.ev.a * 4 + ·)).foldl (fun s c => vshareHead c s) s = s := foldl_eq_self fun d hd => by
    obtain ⟨k, hk, rfl⟩ := List.mem_map.mp hd
    exact vshareHead_of_oneReady h (List.mem_range.mp hk)
  refine ⟨_, exec_vectorQuarterIssue s, fun q hq => ?_⟩
  dsimp only
  rw [hs]
  exact (endQuarter_vecKeeps ..).2.2.2.2 (foldl_serveGroup_due h hop (List.mem_range.mpr hq) hq (vecKeeps_refl s))

end

/-! ### The lanes of a quarter -/

theorem getLane_setLane (cid r i : Nat) (x : Lane) (s : State) {r' i' : Nat} (hi : i < 32) (hi' : i' < 32) :
    getLane (setLane cid r i x s) cid r' i' = if r' = r ∧ i' = i then x else getLane s cid r' i' := by
  unfold getLane setLane
  dsimp only
  split
  next h => rw [h.1, h.2, tget_tput_self]
  next h => rw [tget_tput_of_ne _ _ _ (by omega)]

/-- Consecutive lanes written: those of the list, and no other. -/
theorem getLane_setLanes (cid r : Nat) (l : List Lane) (i : Nat) (s : State) {r' i' : Nat} (hl : i + l.length ≤ 32) (hi' : i' < 32) :
    getLane (setLanes cid r i l s) cid r' i' = if r' = r ∧ i ≤ i' ∧ i' < i + l.length then l.getD (i' - i) 0#32 else getLane s cid r' i' := by
  induction l generalizing i s with
  | nil =>
    rw [if_neg (by simp), setLanes]
  | cons x l ih =>
    rw [List.length_cons] at hl
    rw [setLanes, if_pos (by omega), ih (i + 1) _ (by omega), getLane_setLane _ _ _ _ _ (by omega) hi']
    by_cases hr : r' = r
    · rcases lt_trichotomy i' i with h | rfl | h
      · rw [if_neg (by omega), if_neg (by omega), if_neg (by omega)]
      · rw [if_neg (by omega), if_pos ⟨hr, rfl⟩, if_pos ⟨hr, le_rfl, by simp⟩, Nat.sub_self]
        rfl
      · rw [show i' - i = (i' - (i + 1)) + 1 by omega, List.getD_cons_succ, List.length_cons, Nat.add_right_comm i 1, Nat.add_assoc i l.length 1]
        by_cases hb : i' < i + (l.length + 1)
        · rw [if_pos ⟨hr, h, hb⟩, if_pos ⟨hr, h.le, hb⟩]
        · rw [if_neg fun k => hb k.2.2, if_neg fun k => h.ne' k.2, if_neg fun k => hb k.2.2]
    · simp [hr]

theorem setLanes_leaves {β : Type} (φ : State → β) (h : ∀ s v, φ { s with v := v } = φ s) (cid r : Nat) (l : List Lane) (i : Nat) (s : State) :
    φ (setLanes cid r i l s) = φ s := by
  induction l generalizing i s with
  | nil => rfl
  | cons x l ih =>
    rw [setLanes, ih]
    split
    · exact h ..
    · rfl

/-- The queue after a quarter's lanes are written, and the lanes themselves (R289). -/
theorem vWrite_of_found {s : State} {cid vid quarter : Nat} {e : VEnt} (xs : List Lane)
    (hf : (tget s.vq cid []).find? (fun x => x.vid == vid) = some e) (hd : e.dst < 32) (hs : vSuperseded (tget s.vq cid []) e quarter = false) :
    ∃ vq, vWrite cid vid quarter xs s = { setLanes cid e.dst (8 * quarter) xs s with vq := vq } := by
  unfold vWrite
  dsimp only
  rw [hf]
  dsimp only
  rw [if_pos (by simp [hd, hs])]
  exact ⟨_, rfl⟩

theorem exec_vectorResult {s : State} {e : VEnt} {l : List Word} (hp : s.ev.p = .words l) (hl : l.length = 8)
    (hf : (tget s.vq s.ev.a []).find? (fun x => x.vid == s.ev.b) = some e) (hd : e.dst < 32) (hc : s.ev.c < 4)
    (hs : vSuperseded (tget s.vq s.ev.a []) e s.ev.c = false) : ∃ t, exec .vectorResult s = .next t
      ∧ (∀ i, i < 8 → getLane t s.ev.a e.dst (8 * s.ev.c + i) = (l.getD i 0#64).truncate 32)
      ∧ (∀ i, i < 32 → (i < 8 * s.ev.c ∨ 8 * s.ev.c + 8 ≤ i) → getLane t s.ev.a e.dst i = getLane s s.ev.a e.dst i)
      ∧ (∀ r, r < 32 → r ≠ e.dst → vread t s.ev.a r = vread s s.ev.a r) ∧ t.mem = s.mem ∧ t.g = s.g := by
  obtain ⟨vq, hw⟩ := vWrite_of_found (l.map fun x => x.truncate 32) hf hd hs
  have hg (r i : Nat) (hi : i < 32) : getLane (vWrite s.ev.a s.ev.b s.ev.c (l.map fun x => x.truncate 32) s) s.ev.a r i
      = if r = e.dst ∧ 8 * s.ev.c ≤ i ∧ i < 8 * s.ev.c + 8 then (l.map fun x : Word => x.truncate 32).getD (i - 8 * s.ev.c) 0#32
        else getLane s s.ev.a r i := by
    rw [hw]
    refine (getLane_setLanes s.ev.a e.dst (l.map fun x => x.truncate 32) (8 * s.ev.c) s (by simp [hl]; omega) hi).trans ?_
    simp [hl]
  refine ⟨vWrite s.ev.a s.ev.b s.ev.c (l.map fun x => x.truncate 32) s, ?_, fun i hi => ?_, fun i hi hx => ?_, fun r _ hr => ?_, ?_, ?_⟩
  · show execVectorResult s = _
    unfold execVectorResult
    rw [hp]
  · rw [hg _ _ (by omega), if_pos ⟨rfl, by omega, by omega⟩, Nat.add_sub_cancel_left]
    simp [hl, hi]
  · rw [hg _ _ hi, if_neg (by omega)]
  · refine List.map_congr_left fun i hi => ?_
    rw [hg _ _ (List.mem_range.mp hi), if_neg fun h => hr h.1]
  · rw [hw]
    exact setLanes_leaves State.mem (fun _ _ => rfl) ..
  · rw [hw]
    exact setLanes_leaves State.g (fun _ _ => rfl) ..

/-- Settles O51: one lemma for each instruction that is pushed, and the events of the queue and its results. -/
theorem vectorUnit : Obligations.VectorUnit := by
  unfold Obligations.VectorUnit
  refine ⟨fun row hrow o s hx hr => vecTwoTable_pushed hx hr row hrow, fun row hrow o s hx hr => vecOneTable_pushed hx hr row hrow,
    fun o s hx hr => ⟨vfma_pushed hx hr, vsel_pushed hx hr, vshr_pushed hx hr, vcmp_pushed hx hr, vcvt_pushed hx hr, vred_pushed hx hr,
      vscan_pushed hx hr, viota_pushed hx hr, vbcast_pushed_lane hx hr, vext_pushed hx hr, vtopk_pushed hx hr, vbscale_pushed hx hr,
      vshare_pushed hx hr, exec_vred_of_bad hx⟩,
    fun o s x t hb hr => ⟨vbcast_pushed_word hb hr, vins_pushed hb hr⟩,
    fun o s p t r ea hb hr hf hk h0 he hl hu => ⟨vld_pushed hb hr hf hk h0 he hl hu, vst_pushed hb hr hf hk h0 he hl hu,
      fun h1 z => vstm_pushed hb hr hf hk h0 he hl h1⟩,
    fun o s p t r z l hb hr hf hk h0 hu hz hw => ⟨fun hl => ⟨_, vLanesOp_indexed_pushed hb hf hk h0 hu hz 2 false hr hw hl, rfl, rfl, rfl, rfl, rfl⟩,
      fun hl => ⟨_, vLanesOp_indexed_pushed hb hf hk h0 hu hz 3 true hr hw hl, rfl, rfl, rfl, rfl⟩⟩,
    fun o s p t d u r z l hb hs hr hf hk h0 hu hz =>
      ⟨fun hl => ⟨_, vLanesOp_strided_pushed hb hf hk h0 hu hz 5 false hs hr hl, rfl, rfl, rfl, rfl, rfl⟩,
        fun hl => ⟨_, vLanesOp_strided_pushed hb hf hk h0 hu hz 6 true hs hr hl, rfl, rfl, rfl, rfl⟩⟩,
    fun cid e qs s => vecIssue_due, exec_vectorQuarterIssue_keeps, fun s e c => ?_, fun s e l => exec_vectorResult, fun s => rfl⟩
  intro tid hc hown hothers hpage hop hsingle hfresh hpushed hfree hweight
  exact exec_vectorQuarterIssue_of_oneReady ⟨hc, hown, hothers, hpage, hsingle, hfresh, hpushed, hfree, hweight⟩ rfl hop

end Sys2Proof.Machine
end

section
/-!
SUPPORT. Handles as operands (`Obligations.HandleOperandsRead`): one lemma for each way that `readHandle` ends, where the kind is no pair
link.
-/

namespace Sys2Proof.Machine

theorem src_of_handle {n : Nat} (w : Nat) (pk : Bool) (h1 : 32 ≤ n) (h2 : n < 48) : src n w pk = readHandle (n - 32) w pk := by
  simp [src, h1, h2]

/-- The kinds that a source reads, but for a pair link: rings, receive queues, extract streams. -/
theorem kindSrc_of_queue {k : Nat} (h : k = 1 ∨ k = 4 ∨ k = 5 ∨ k = 7) : kindSrc k = true ∧ k ≠ 2 := by
  rcases h with rfl | rfl | rfl | rfl <;> decide

section
variable {s : State} {hn : Nat} (w : Nat) (hb : 80 + hn ∉ (slotAt s s.cur.sid).busy)
include hb

/-- A kind that cannot be read (R94, R99). -/
theorem readHandle_of_badKind (pk : Bool) (hk : kindSrc (hGet s s.cur.sid hn).kind = false) :
    readHandle hn w pk s = .error (.trap 0x0E (word hn) 0#64) := by
  simp [readHandle, bind_apply, hb, hk]

variable {w : Nat} (hk : kindSrc (hGet s s.cur.sid hn).kind = true) (h2 : (hGet s s.cur.sid hn).kind ≠ 2)
include hk h2

/-- A wait count above the queue's capacity (R99). -/
theorem readHandle_of_overCap (pk : Bool) (hc : hCap (hGet s s.cur.sid hn) < w) :
    readHandle hn w pk s = .error (.trap 0x0E (word hn) (word w)) := by
  simp [readHandle, bind_apply, hb, hk, h2, hc]

variable (hc : w ≤ hCap (hGet s s.cur.sid hn))
include hc

/-- The peek flag answers the filled slots (R98). -/
theorem readHandle_of_peek :
    readHandle hn w true s = .ok (word (min (hFilled s s.cur.sid (hGet s s.cur.sid hn)) (2 ^ 32 - 1)), s) := by
  simp [readHandle, bind_apply, hb, hk, h2, Nat.not_lt.2 hc]

/-- A read waits until its slot is filled (R97). -/
theorem readHandle_of_unfilled (hf : hFilled s s.cur.sid (hGet s s.cur.sid hn) < w) : readHandle hn w false s = .error .wait := by
  simp [readHandle, bind_apply, hb, hk, h2, Nat.not_lt.2 hc, hf]

end

/-- A ring's slot at its read count and the wait count (R96, R97). -/
theorem readHandle_of_ring {s : State} {hn w : Nat} (hb : 80 + hn ∉ (slotAt s s.cur.sid).busy)
    (hk : (hGet s s.cur.sid hn).kind = 1 ∨ (hGet s s.cur.sid hn).kind = 4) (hc : w ≤ hCap (hGet s s.cur.sid hn))
    (hf : w ≤ hFilled s s.cur.sid (hGet s s.cur.sid hn)) : readHandle hn w false s
      = .ok (mem64 s (ringSlotKey s.cur.sid (hGet s s.cur.sid hn) (ringRd s s.cur.sid (hGet s s.cur.sid hn) + w - 1)), s) := by
  rcases hk with hk | hk <;>
    simp [readHandle, bind_apply, hb, kindSrc, hPeekSlot, hk, Nat.not_lt.2 hc, Nat.not_lt.2 hf]

/-- Settles O12: a handle as a source is a read of it, whose cases are the clauses. -/
theorem handleOperandsRead : Obligations.HandleOperandsRead := by
  unfold Obligations.HandleOperandsRead
  intro s n w h1 h2 hb
  simp only [src_of_handle _ _ h1 h2]
  refine ⟨fun hk pk => readHandle_of_badKind w hb pk hk, fun hq => ?_, fun hk hc hf => readHandle_of_ring hb hk hc hf⟩
  obtain ⟨hk, hne⟩ := kindSrc_of_queue hq
  exact ⟨fun hc pk => readHandle_of_overCap hb hk hne pk hc, readHandle_of_peek hb hk hne, readHandle_of_unfilled hb hk hne⟩

end Sys2Proof.Machine
end

section
/-!
SUPPORT. Results written to a handle (`Obligations.HandleResultsReachTheirSlot`): eight bytes written and read back, then one lemma for
each kind of handle.
-/

namespace Sys2Proof.Machine

/-! ### Eight bytes in memory -/

@[simp] theorem natBytes_length (n x : Nat) : (natBytes n x).length = n := by
  induction n generalizing x with
  | zero => rfl
  | succ n ih => rw [natBytes, List.length_cons, ih]

/-- The bytes of a number hold it modulo their count (R6). -/
theorem bytesNat_natBytes (n x : Nat) : bytesNat (natBytes n x) = x % 256 ^ n := by
  induction n generalizing x with
  | zero => rw [natBytes, bytesNat, pow_zero, Nat.mod_one]
  | succ n ih =>
    have h : x % 256 ^ (n + 1) = x % 256 + 256 * (x / 256 % 256 ^ n) := by rw [pow_succ', Nat.mod_mul]
    rw [natBytes, bytesNat, ih, BitVec.toNat_ofNat, h]

theorem mem64_memSet64_self {s : State} (h : s.memOk) (key : Nat) (x : Word) : mem64 (memSet64 key x s) key = x := by
  have hr := mread_mwrite h.1 key (natBytes 8 x.toNat)
  rw [natBytes_length] at hr
  have hx : x.toNat < 256 ^ 8 := x.isLt
  rw [mem64, memSet64, memWrite_mem, hr, bytesNat_natBytes, Nat.mod_eq_of_lt hx]
  exact BitVec.ofNat_toNat ..

theorem memSet64_keepsOutside (key : Nat) (x : Word) (s : State) : keepsOutside s (memSet64 key x s) key 8 := fun a ha => by
  rw [memSet64, memWrite_mem, mget_mwrite_outside _ _ _ _ (by rwa [natBytes_length])]

/-! ### The slot that a result reaches -/

theorem pairAt_modPair_self (pk : Nat) (f : PairSet → PairSet) (s : State) : pairAt (modPair pk f s) pk = f (pairAt s pk) := by
  simp [pairAt, modPair]

section
variable {s : State} {sid hn : Nat} (w : Nat) (x : Word)

theorem writeHandle_of_ring (hk : (hGet s sid hn).kind = 1) : writeHandle sid hn w x s
    = memSet64 (ringSlotKey sid (hGet s sid hn) (ringWr s sid (hGet s sid hn) + w - 1)) x s := by
  simp [writeHandle, hk]

/-- A pair link's queue that runs away from the strand: from the A strand to the X strand, or back (R32). -/
theorem writeHandle_of_pair (hk : (hGet s sid hn).kind = 2) : writeHandle sid hn w x s = modPair (pairKey s sid) (fun p =>
    if (slotAt s sid).xseq = true then { p with xa := tput p.xa ((p.xaW + w - 1) % 16) x }
    else { p with ax := tput p.ax ((p.axW + w - 1) % 16) x }) s := by
  simp [writeHandle, hk]

theorem writeHandle_of_port (hk : (hGet s sid hn).kind = 3) : writeHandle sid hn w x s
    = modSlot sid (fun y => { y with portw := tput y.portw (hn * 16 + w - 1) x }) s := by
  simp [writeHandle, hk]

end

/-- A result for a handle is kept back until its result cycle (R213). -/
theorem deliver_of_handle {s : State} {r : Nat} (lat : Nat) (x : Word) (hr : 80 ≤ r % 128) :
    deliver r lat x s = post (s.now + max 1 lat) .resultWriteback
      { a := s.cur.sid, b := (slotAt s s.cur.sid).gen, c := r, w := x, w2 := handleDesc (hGet s s.cur.sid (r % 128 - 80)) }
      (addBusy s.cur.sid (r % 128) s) := by
  have h0 : r % 128 ≠ 0 := by omega
  simp [deliver, h0, Nat.not_lt.2 hr]

/-- Settles O23: a slot of each kind of handle, and the event that a result for one waits for. -/
theorem handleResultsReachTheirSlot : Obligations.HandleResultsReachTheirSlot := by
  unfold Obligations.HandleResultsReachTheirSlot
  refine ⟨?ring, ?pair, ?port, ?later⟩
  case ring =>
    intro s sid hn w x hk
    simp only [writeHandle_of_ring w x hk]
    have ht := fun key => (memWrite_traceKeeps key (natBytes 8 x.toNat) s (0, 0)).1
    exact ⟨fun h => mem64_memSet64_self h _ x, memSet64_keepsOutside _ x s, by rw [memSet64, ht], by rw [memSet64, ht], by rw [memSet64, ht]⟩
  case pair =>
    intro s sid hn w x hk
    simp only [writeHandle_of_pair w x hk, pairAt_modPair_self]
    refine ⟨fun _ => rfl, rfl, ?_⟩
    cases (slotAt s sid).xseq <;> simp
  case port =>
    intro s sid hn w x hk
    simp only [writeHandle_of_port w x hk, slotAt_modSlot_self]
    exact ⟨tget_tput_self .., rfl, rfl, rfl, rfl⟩
  case later =>
    intro s r lat x hr
    simp only [deliver_of_handle lat x hr]
    refine ⟨List.mem_append_right _ (List.mem_singleton.mpr rfl), ?_, rfl, rfl, rfl⟩
    simp [addBusy]

end Sys2Proof.Machine
end

section
/-!
SUPPORT. The checks of a memory operand (`Obligations.MemoryOperandChecks`): the entry that matches, then one lemma for each step of R92
that refuses the access.
-/

namespace Sys2Proof.Machine

/-! ### The entry that matches -/

/-- A match from entry `64 - n` up covers the address, and no entry from there to it does. -/
theorem rtMatch_some {s : State} {cid va n e : Nat} (hn : n ≤ 64) (h : rtMatch s cid va n = some e) :
    covers (rtView (rtAt s (cid * 64 + e))) va = true
    ∧ ∀ f, 64 - n ≤ f → f < e → covers (rtView (rtAt s (cid * 64 + f))) va = false := by
  induction n with
  | zero => cases h
  | succ n ih =>
    rw [rtMatch] at h
    split at h
    next hc =>
      obtain rfl := Option.some.inj h
      exact ⟨hc, fun f h1 h2 => by omega⟩
    next hc =>
      obtain ⟨he, hf⟩ := ih (by omega) h
      refine ⟨he, fun f h1 h2 => ?_⟩
      by_cases hlast : f = 63 - n
      · rw [hlast]; exact Bool.eq_false_iff.mpr hc
      · exact hf f (by omega) h2

theorem rtMatch_none {s : State} {cid va n : Nat} (hn : n ≤ 64) (h : rtMatch s cid va n = none) :
    ∀ f, 64 - n ≤ f → f < 64 → covers (rtView (rtAt s (cid * 64 + f))) va = false := by
  induction n with
  | zero => exact fun f h1 h2 => by omega
  | succ n ih =>
    rw [rtMatch] at h
    split at h
    next => cases h
    next hc =>
      intro f h1 h2
      by_cases hlast : f = 63 - n
      · rw [hlast]; exact Bool.eq_false_iff.mpr hc
      · exact ih (by omega) h f (by omega) h2

/-! ### Range, rights, buffer and guard -/

/-- The entry denies the read, the write or user mode (R92, step 6). -/
def rightsRefused (v : RtView) (user rd wr : Bool) : Prop :=
  (rd = true ∧ v.rd = false) ∨ (wr = true ∧ v.wr = false) ∨ (user = true ∧ v.usr = false)

/-- The class of an entry under a guard (R90). -/
def guardedCls (c : Nat) : Prop := c = 2 ∨ c = 3 ∨ c = 4

theorem ne_five_of_guarded {c : Nat} (h : guardedCls c) : c ≠ 5 := by
  rcases h with rfl | rfl | rfl <;> decide

section
variable {s : State} {cid team va n : Nat} {user rd wr : Bool}

/-- What the match alone refuses, the check refuses. -/
theorem rangeCheck_of_error {x : Nat × Nat} (h : rangeMatch s cid team user va n rd wr = .error x) :
    rangeCheck s cid team user va n rd wr = .error x := by rw [rangeCheck, h]

theorem rangeCheck_of_hole (hw : inWindow va = true) (ht : windowTile (tidOfC cid) va = none) :
    rangeCheck s cid team user va n rd wr = .error (6, va) :=
  rangeCheck_of_error (by simp [rangeMatch, hw, ht])

theorem rangeCheck_of_unmatched (hm : rtMatch s cid va 64 = none) : rangeCheck s cid team user va n rd wr = .error (6, va) :=
  rangeCheck_of_error (by simp [rangeMatch, hm])

section
variable {e : Nat} (hw : ¬ (inWindow va = true ∧ windowTile (tidOfC cid) va = none)) (hm : rtMatch s cid va 64 = some e)
include hw hm

/-- Steps 4 to 9 against the entry that matches (R92). -/
theorem rangeMatch_of_matched : rangeMatch s cid team user va n rd wr =
    let v := rtView (rtAt s (cid * 64 + e))
    if v.limit < va + n then .error (6, v.limit)
    else if (rd && !v.rd) || (wr && !v.wr) || (user && !v.usr) then .error (7, va)
    else if v.cls = 5 then .error (11, va)
    else if v.cls = 2 ∨ v.cls = 3 ∨ v.cls = 4 then
      if holdFor s cid team e = 0 then .error (8, va) else if wr && holdFor s cid team e != 2 then .error (9, va) else .ok e
    else .ok e := by
  have hw' : (inWindow va && (windowTile (tidOfC cid) va).isNone) = false := by
    rw [← Option.isNone_iff_eq_none, ← Bool.and_eq_true] at hw
    exact Bool.eq_false_iff.mpr hw
  simp only [rangeMatch, hw', hm, Bool.false_eq_true, if_false]

theorem rangeCheck_of_short (hl : (rtView (rtAt s (cid * 64 + e))).limit < va + n) :
    rangeCheck s cid team user va n rd wr = .error (6, (rtView (rtAt s (cid * 64 + e))).limit) := by
  refine rangeCheck_of_error ?_
  rw [rangeMatch_of_matched hw hm]
  exact if_pos hl

variable (hl : va + n ≤ (rtView (rtAt s (cid * 64 + e))).limit)
include hl

theorem rangeCheck_of_refused (hr : rightsRefused (rtView (rtAt s (cid * 64 + e))) user rd wr) :
    rangeCheck s cid team user va n rd wr = .error (7, va) := by
  refine rangeCheck_of_error ?_
  rw [rangeMatch_of_matched hw hm]
  rcases hr with ⟨h1, h2⟩ | ⟨h1, h2⟩ | ⟨h1, h2⟩ <;> simp [Nat.not_lt.2 hl, h1, h2]

variable (hr : ¬ rightsRefused (rtView (rtAt s (cid * 64 + e))) user rd wr)
include hr

/-- Steps 7 to 9 (R92): what the class of the entry asks for. -/
theorem rangeMatch_of_rights : rangeMatch s cid team user va n rd wr =
    let v := rtView (rtAt s (cid * 64 + e))
    if v.cls = 5 then .error (11, va)
    else if v.cls = 2 ∨ v.cls = 3 ∨ v.cls = 4 then
      if holdFor s cid team e = 0 then .error (8, va) else if wr && holdFor s cid team e != 2 then .error (9, va) else .ok e
    else .ok e := by
  have hr' : ((rd && !(rtView (rtAt s (cid * 64 + e))).rd) || (wr && !(rtView (rtAt s (cid * 64 + e))).wr)
      || (user && !(rtView (rtAt s (cid * 64 + e))).usr)) = false := by
    simpa [rightsRefused, and_assoc] using hr
  rw [rangeMatch_of_matched hw hm]
  simp only [Nat.not_lt.2 hl, hr', Bool.false_eq_true, if_false]

theorem rangeCheck_of_busy (h5 : (rtView (rtAt s (cid * 64 + e))).cls = 5) :
    rangeCheck s cid team user va n rd wr = .error (11, va) := by
  refine rangeCheck_of_error ?_
  rw [rangeMatch_of_rights hw hm hl hr]
  exact if_pos h5

theorem rangeCheck_of_notHeld (hg : guardedCls (rtView (rtAt s (cid * 64 + e))).cls) (h0 : holdFor s cid team e = 0) :
    rangeCheck s cid team user va n rd wr = .error (8, va) := by
  refine rangeCheck_of_error ?_
  rw [rangeMatch_of_rights hw hm hl hr]
  exact (if_neg (ne_five_of_guarded hg)).trans ((if_pos hg).trans (if_pos h0))

theorem rangeCheck_of_mode (hg : guardedCls (rtView (rtAt s (cid * 64 + e))).cls) (h0 : holdFor s cid team e ≠ 0) (hwr : wr = true)
    (h2 : holdFor s cid team e ≠ 2) : rangeCheck s cid team user va n rd wr = .error (9, va) := by
  refine rangeCheck_of_error ?_
  rw [rangeMatch_of_rights hw hm hl hr]
  exact (if_neg (ne_five_of_guarded hg)).trans ((if_pos hg).trans ((if_neg h0).trans (if_pos (by simp [hwr, h2]))))

/-- Of an access that its match allows only the collective buffers are left to look at (R183, log 89). -/
theorem rangeCheck_of_allowed (h5 : (rtView (rtAt s (cid * 64 + e))).cls ≠ 5)
    (hg : guardedCls (rtView (rtAt s (cid * 64 + e))).cls → holdFor s cid team e ≠ 0 ∧ (wr = true → holdFor s cid team e = 2)) :
    rangeCheck s cid team user va n rd wr = if e < 16 ∧ collTouched s cid va n = true then .error (11, va) else .ok e := by
  have hok : rangeMatch s cid team user va n rd wr = .ok e := by
    rw [rangeMatch_of_rights hw hm hl hr]
    simp only [if_neg h5]
    split
    next hc =>
      obtain ⟨h0, h2⟩ := hg hc
      cases wr
      · simp [h0]
      · simp [h2 rfl]
    next => rfl
  rw [rangeCheck, hok]

end
end

/-! ### Address, alignment, format -/

theorem effAddr_of_outside {p : Word} {off : Int} (s : State)
    (h : ((wfield p 0 56 : Nat) : Int) + off < 0 ∨ ((wfield p 0 56 : Nat) : Int) + off ≥ 2 ^ 56) :
    effAddr p off s = .error (.trap 13 p 0#64) := by
  have hv : ((wfield p 0 56 : Nat) : Int) + off < 0 ∨ ((wfield p 0 56 : Nat) : Int) + off ≥ (vaTop : Nat) := by
    rw [vaTop]; exact_mod_cast h
  rw [effAddr, if_pos hv]
  rfl

theorem effAddr_of_inside {p : Word} {off : Int} (s : State) (h0 : 0 ≤ ((wfield p 0 56 : Nat) : Int) + off)
    (h1 : ((wfield p 0 56 : Nat) : Int) + off < 2 ^ 56) :
    effAddr p off s = .ok ((((wfield p 0 56 : Nat) : Int) + off).toNat, s) :=
  effAddr_of_eq s (Int.toNat_of_nonneg h0) (by omega)

theorem rawM_of_raw {p : Word} (s : State) (h : wfield p 56 8 = 0) : rawM p s = .ok ((), s) := by
  obtain ⟨h60, h57, h56⟩ : wfield p 60 4 = 0 ∧ wfield p 57 3 = 0 ∧ wfield p 56 1 = 0 := by
    simp only [wfield, nfield] at h ⊢
    omega
  simp [rawM, fmtM, bind_apply, h60, h57, h56, Num.fmtRow]

/-- A pointer that is not RAW: its format is reserved, its BLK not the format's, or the format another. -/
theorem rawM_of_not_raw {p : Word} (s : State) (h : wfield p 56 8 ≠ 0) : rawM p s = .error (.trap 12 p 0#64) := by
  by_cases h60 : wfield p 60 4 = 0
  · have hb : ¬ (wfield p 57 3 = 0 ∧ wfield p 56 1 = 0) := by
      simp only [wfield, nfield] at h h60 ⊢
      omega
    simp [rawM, fmtM, bind_apply, h60, hb, Num.fmtRow]
  · unfold rawM fmtM
    rw [bind_apply]
    cases Num.fmtRow (wfield p 60 4) with
    | none => rfl
    | some r => by_cases hb : wfield p 57 3 = r.blk ∧ wfield p 56 1 = 0 <;> simp [hb, h60]

/-- Settles O24: the clauses are the steps of R92 in their order, each with the earlier ones passed. -/
theorem memoryOperandChecks : Obligations.MemoryOperandChecks := by
  unfold Obligations.MemoryOperandChecks
  refine ⟨fun s cid va => ?matched, fun s cid team user va n rd wr => rangeCheck_of_hole, fun s cid team user va n rd wr => rangeCheck_of_unmatched,
    fun s cid team user va n rd wr e hw hm => ⟨rangeCheck_of_short hw hm, rangeCheck_of_refused hw hm, rangeCheck_of_busy hw hm,
      rangeCheck_of_notHeld hw hm, rangeCheck_of_mode hw hm, fun hl hr h5 hg => ?coll⟩,
    fun s p off => ⟨effAddr_of_outside s, effAddr_of_inside s⟩, fun s ea n => ⟨fun h => ?_, fun h => ?_⟩,
    fun s p => rawM_of_raw s, fun s p => rawM_of_not_raw s⟩
  case matched =>
    cases h : rtMatch s cid va 64 with
    | some e =>
      obtain ⟨he, hf⟩ := rtMatch_some (le_refl 64) h
      exact ⟨he, fun f hfe => hf f (Nat.zero_le f) hfe⟩
    | none => exact fun f => rtMatch_none (le_refl 64) h f (Nat.zero_le f)
  case coll =>
    rw [rangeCheck_of_allowed hw hm hl hr h5 hg]
    refine ⟨fun he hc => if_pos ⟨he, hc⟩, fun hc => if_neg ?_⟩
    rintro ⟨he, ht⟩
    rcases hc with hc | hc
    · omega
    · rw [hc] at ht; cases ht
  · rw [alignM, if_neg h]; rfl
  · rw [alignM, if_pos h]; rfl

end Sys2Proof.Machine
end

section
/-!
SUPPORT. Pointer operations (`Obligations.PointerOperations`): one lemma for each way that PADD, PSPAN, PTAG and PFMT end.
-/

namespace Sys2Proof.Machine

/-! ### The end of an instruction with a result -/

theorem readsAB_readKeeps {cls : Cls} {o : Ops} {s t : State} {a b : Word} (h : readsAB cls o s a b t) : readKeeps (atIssue s) t := by
  obtain ⟨-, u, ha, hb⟩ := h
  exact readKeeps_trans (src_readsOnly _ _ _ _ _ _ ha) (src_readsOnly _ _ _ _ _ _ hb)

/-- A body that ends with its result, after reads alone. -/
theorem issue_of_result {cls : Cls} {o : Ops} {s t : State} {body : M Unit} {lat : Nat} {x : Word} (hc : classTrap cls s = none)
    (hk : readKeeps (atIssue s) t) (h : body (atIssue s) = .ok ((), deliver (dstRid o) lat x (markLast o t))) :
    issue cls s body = .next (withResult o lat x t) :=
  issue_of_ok hc h (by rw [deliver_cur, markLast_cur, readKeeps_cur hk]; rfl)

/-! ### The format of a pointer -/

/-- A pointer whose format is reserved, whose BLK is not the format's, or with bit 56 set (R57). -/
theorem fmtM_of_not_ptrOk {p : Word} (s : State) (h : ptrOk (fun c => (Num.fmtRow c).map (·.blk)) p = false) :
    fmtM p s = .error (.trap 12 p 0#64) := by
  unfold fmtM
  cases hf : Num.fmtRow (wfield p 60 4) with
  | none => rfl
  | some r =>
    have hb : ¬ (wfield p 57 3 = r.blk ∧ wfield p 56 1 = 0) := by simpa [ptrOk, hf] using h
    exact congrFun (if_neg hb) s

theorem wfield_lt (x : Word) (lo w : Nat) : wfield x lo w < 2 ^ w := Nat.mod_lt _ (Nat.two_pow_pos w)

/-- The fields of a pointer word that is put together from them (R56). -/
theorem wfield_pointer {f k a : Nat} {w : Word} (hw : word (f * 2 ^ 60 + k * 2 ^ 57 + a) = w) (hf : f < 16) (hk : k < 8) (ha : a < 2 ^ 56) :
    wfield w 60 4 = f ∧ wfield w 57 3 = k ∧ wfield w 56 1 = 0 := by
  have hn : w.toNat = f * 2 ^ 60 + k * 2 ^ 57 + a := by
    rw [← hw, BitVec.toNat_ofNat, Nat.mod_eq_of_lt (by omega)]
  simp only [wfield, nfield, hn, Nat.shiftRight_eq_div_pow]
  omega

/-! ### PADD and PSPAN -/

section
variable {o : Ops} {s t : State} {p n : Word} (hr : readsAB .b o s p n t) (hd : dstFree o t)
include hr hd

/-- PADD with the sum that `ptrAdd` answers. -/
theorem exec_padd_of_ok {x : Word} (h : ptrAdd p n.toInt t = .ok (x, t)) : exec (.padd o) s = .next (withResult o 1 x t) := by
  have hk := readsAB_readKeeps hr
  obtain ⟨hc, u, ha, hb⟩ := hr
  refine issue_of_result hc hk ?_
  rw [dstFree] at hd
  simp [bind_apply, ha, hb, hd, h, lastUse, writeResult]

theorem exec_padd_of_trap {c : Nat} {tv : Word} (h : ptrAdd p n.toInt t = .error (.trap c tv 0#64)) :
    exec (.padd o) s = .next (trapsAt s c tv 0#64) := by
  obtain ⟨hc, u, ha, hb⟩ := hr
  refine issue_of_trap hc ?_
  rw [dstFree] at hd
  simp [bind_apply, ha, hb, hd, h]

theorem exec_pspan_of_units {r : Num.FmtRow} (hf : fmtM p t = .ok (r, t)) (hu : n.toInt % r.ue = 0) :
    exec (.pspan o) s = .next (withResult o 1 (BitVec.ofInt 64 (n.toInt / r.ue * r.ub)) t) := by
  have hk := readsAB_readKeeps hr
  obtain ⟨hc, u, ha, hb⟩ := hr
  refine issue_of_result hc hk ?_
  rw [dstFree] at hd
  simp only [bind_apply, ha, hb, hd, hf, if_neg (not_not_intro hu)]
  rfl

theorem exec_pspan_of_part {r : Num.FmtRow} (hf : fmtM p t = .ok (r, t)) (hu : n.toInt % r.ue ≠ 0) :
    exec (.pspan o) s = .next (trapsAt s 12 p 0#64) := by
  obtain ⟨hc, u, ha, hb⟩ := hr
  refine issue_of_trap hc ?_
  rw [dstFree] at hd
  simp only [bind_apply, ha, hb, hd, hf, if_pos hu]
  rfl

theorem exec_pspan_of_format (hf : fmtM p t = .error (.trap 12 p 0#64)) : exec (.pspan o) s = .next (trapsAt s 12 p 0#64) := by
  obtain ⟨hc, u, ha, hb⟩ := hr
  refine issue_of_trap hc ?_
  rw [dstFree] at hd
  simp [bind_apply, ha, hb, hd, hf]

end

section
variable {p : Word} {n : Int} {r : Num.FmtRow} {s : State} (hf : fmtM p s = .ok (r, s))
include hf

/-- Elements that are no whole units (R85). -/
theorem ptrAdd_of_part (hu : n % r.ue ≠ 0) : ptrAdd p n s = .error (.trap 12 p 0#64) := by
  simp only [ptrAdd, bind_apply, hf, if_pos hu]
  rfl

variable (hu : n % r.ue = 0)
include hu

theorem ptrAdd_of_outside (hv : ((wfield p 0 56 : Nat) : Int) + n / r.ue * r.ub < 0
    ∨ ((wfield p 0 56 : Nat) : Int) + n / r.ue * r.ub ≥ 2 ^ 56) : ptrAdd p n s = .error (.trap 13 p 0#64) := by
  have hv' : ((wfield p 0 56 : Nat) : Int) + n / r.ue * r.ub < 0 ∨ ((wfield p 0 56 : Nat) : Int) + n / r.ue * r.ub ≥ (vaTop : Nat) := by
    rw [vaTop]; exact_mod_cast hv
  rw [ptrAdd, bind_apply, hf]
  dsimp only
  rw [if_neg (not_not_intro hu), if_pos hv']
  rfl

theorem ptrAdd_of_inside (h0 : 0 ≤ ((wfield p 0 56 : Nat) : Int) + n / r.ue * r.ub)
    (h1 : ((wfield p 0 56 : Nat) : Int) + n / r.ue * r.ub < 2 ^ 56) : ptrAdd p n s
      = .ok (word (wfield p 56 8 * 2 ^ 56 + (((wfield p 0 56 : Nat) : Int) + n / r.ue * r.ub).toNat), s) := by
  have hv : ¬ (((wfield p 0 56 : Nat) : Int) + n / r.ue * r.ub < 0 ∨ ((wfield p 0 56 : Nat) : Int) + n / r.ue * r.ub ≥ (vaTop : Nat)) := by
    rw [vaTop]; omega
  have hhi : p.toNat / 2 ^ 56 = wfield p 56 8 := by
    simp only [wfield, nfield, Nat.shiftRight_eq_div_pow]
    omega
  rw [ptrAdd, bind_apply, hf]
  dsimp only
  rw [if_neg (not_not_intro hu), if_neg hv, hhi]
  rfl

end

/-! ### PTAG and PFMT -/

/-- The format and block of PTAG's immediate, whose upper bits are zero (R243). -/
theorem ptag_fields {n : Nat} (h : n < 128) : nfield n 7 2 = 0 ∧ nfield n 0 4 = n % 16 ∧ nfield n 4 3 = n / 16 := by
  simp only [nfield, Nat.shiftRight_eq_div_pow]
  omega

section
variable {o : Ops} {s t : State} {b : Word} (hr : readsB .b o s b t) (hd : dstFree o t)
include hr hd

theorem exec_pfmt : exec (.pfmt o) s = .next (withResult o 1 (pfmtWord b) t) := by
  have hk := readsB_readKeeps hr
  obtain ⟨hc, hb⟩ := hr
  refine issue_of_result hc hk ?_
  rw [dstFree] at hd
  simp [bind_apply, hb, hd, lastUse, writeResult]

variable {w : Word} (hx : o.xi.length = 1) (hn : (bitsR o).1 < 128)
  (hw : word ((bitsR o).1 % 16 * 2 ^ 60 + (bitsR o).1 / 16 * 2 ^ 57 + wfield b 0 56) = w)
include hx hn hw

/-- PTAG checks its result as a pointer (R243). -/
theorem exec_ptag_of_ok {r : Num.FmtRow} (hf : fmtM w t = .ok (r, t)) : exec (.ptag o) s = .next (withResult o 1 w t) := by
  have hk := readsB_readKeeps hr
  obtain ⟨hc, hb⟩ := hr
  obtain ⟨h72, h04, h43⟩ := ptag_fields hn
  refine issue_of_result hc hk ?_
  rw [dstFree] at hd
  simp only [bind_apply, oneXi, need9, hx, le_refl, h72, decide_true, if_true, pure_apply, hb, hd, h04, h43, hw, hf, lastUse, writeResult, updM_apply]

theorem exec_ptag_of_format (hf : fmtM w t = .error (.trap 12 w 0#64)) : exec (.ptag o) s = .next (trapsAt s 12 w 0#64) := by
  obtain ⟨hc, hb⟩ := hr
  obtain ⟨h72, h04, h43⟩ := ptag_fields hn
  refine issue_of_trap hc ?_
  rw [dstFree] at hd
  simp only [bind_apply, oneXi, need9, hx, le_refl, h72, decide_true, if_true, pure_apply, hb, hd, h04, h43, hw, hf]

/-- PTAG of a format that is not reserved: its result stands where the block is the format's (R57, R243). -/
theorem exec_ptag_of_row {r : Num.FmtRow} (hf : Num.fmtRow ((bitsR o).1 % 16) = some r) :
    ((bitsR o).1 / 16 = r.blk → exec (.ptag o) s = .next (withResult o 1 w t))
    ∧ ((bitsR o).1 / 16 ≠ r.blk → exec (.ptag o) s = .next (trapsAt s 12 w 0#64)) := by
  obtain ⟨h60, h57, h56⟩ := wfield_pointer hw (by omega) (by omega) (wfield_lt b 0 56)
  rw [← h60] at hf
  rw [← h57]
  exact ⟨fun hk => exec_ptag_of_ok hr hd hx hn hw (fmtM_of_row t hf hk h56),
    fun hk => exec_ptag_of_format hr hd hx hn hw (fmtM_of_not_ptrOk t (by simp [ptrOk, hf, hk]))⟩

end

theorem pfmtWord_of_row {b : Word} {r : Num.FmtRow} (hf : Num.fmtRow (wfield b 60 4) = some r) (hk : wfield b 57 3 = r.blk) :
    pfmtWord b = word (wfield b 56 8 + r.ue * 2 ^ 8 + r.ub * 2 ^ 16) := by
  unfold pfmtWord
  rw [hf]
  exact if_pos hk

theorem pfmtWord_of_illegal {b : Word} (h : ∀ r, Num.fmtRow (wfield b 60 4) = some r → wfield b 57 3 ≠ r.blk) :
    pfmtWord b = word (wfield b 56 8) := by
  unfold pfmtWord
  cases hf : Num.fmtRow (wfield b 60 4) with
  | none => rfl
  | some r => exact if_neg (h r hf)

/-- Settles O32: each clause is one way in which the instruction ends. -/
theorem pointerOperations : Obligations.PointerOperations := by
  unfold Obligations.PointerOperations
  refine ⟨fun o s p n t r hr hf hblk h56 hd => ?units, fun o s p n t hr hd hp => ?format,
    fun o s b t r hr hx hn hf hd => exec_ptag_of_row hr hd hx hn rfl hf, fun o s b t hr hd => ⟨fun r hf hblk => ?row, fun h => ?illegal⟩⟩
  case units =>
    have hfm := fmtM_of_row t hf hblk h56
    exact ⟨fun hu h0 h1 => exec_padd_of_ok hr hd (ptrAdd_of_inside hfm hu h0 h1),
      fun hu hv => exec_padd_of_trap hr hd (ptrAdd_of_outside hfm hu hv),
      fun hu => ⟨exec_padd_of_trap hr hd (ptrAdd_of_part hfm hu), exec_pspan_of_part hr hd hfm hu⟩,
      fun hu => exec_pspan_of_units hr hd hfm hu⟩
  case format =>
    have hfm := fmtM_of_not_ptrOk t hp
    exact ⟨exec_padd_of_trap hr hd (by rw [ptrAdd, bind_apply, hfm]), exec_pspan_of_format hr hd hfm⟩
  case row => rw [exec_pfmt hr hd, pfmtWord_of_row hf hblk]
  case illegal => rw [exec_pfmt hr hd, pfmtWord_of_illegal h]

end Sys2Proof.Machine
end

section
/-!
SUPPORT. Receive queues (`Obligations.ReceiveQueues`): what a message, an answer, an append and a refill change, and what they leave.
-/

namespace Sys2Proof.Machine

/-! ### A signal to slot 0 -/

/-- An event of slot 0's WFE leaves what the slots, the register places, the cores and the agenda do not hold. -/
theorem signal_leaves {β : Type} (φ : State → β)
    (h : ∀ (s : State) (x : Tab Slot) (p : Tab Place) (f : Tab Nat) (c : Tab Core) (a : List (Nat × Instr × EvArg)),
      φ { s with slots := x, place := p, file := f, cores := c, agenda := a } = φ s) (cid ev : Nat) (s : State) :
    φ (signal cid ev s) = φ s := by
  have hl : φ (latch cid ev s) = φ s := by
    unfold latch
    dsimp only
    split
    · rfl
    · exact h s s.slots s.place s.file _ s.agenda
  have he (u : State) : φ (endWfe cid u) = φ u := by
    unfold endWfe
    dsimp only
    split
    · rfl
    · rw [resume_eq, applyKills_frame]
      exact h u _ _ _ _ _
  unfold signal
  dsimp only
  split
  · rw [he, hl]
  · exact hl

theorem rxSignal_leaves {β : Type} (φ : State → β)
    (h : ∀ (s : State) (x : Tab Slot) (p : Tab Place) (f : Tab Nat) (c : Tab Core) (a : List (Nat × Instr × EvArg)),
      φ { s with slots := x, place := p, file := f, cores := c, agenda := a } = φ s) (rk : Nat) (s : State) :
    φ (rxSignal rk s) = φ s := by
  unfold rxSignal
  split
  · exact signal_leaves φ h _ _ s
  · rfl

/-! ### A message that arrives -/

/-- A message taken into a hardware slot stands after the entries there (R101). -/
theorem rxTake_spec (rk : Nat) (sender payload : Word) (s : State) :
    (rxAt (rxTake rk sender payload s) rk).ents = (rxAt s rk).ents ++ [(sender, payload)]
    ∧ (rxTake rk sender payload s).accs = s.accs ∧ (rxTake rk sender payload s).now = s.now
    ∧ (rxTake rk sender payload s).mem = s.mem := by
  unfold rxTake
  refine ⟨?_, rxSignal_leaves State.accs (fun _ _ _ _ _ _ => rfl) .., rxSignal_leaves State.now (fun _ _ _ _ _ _ => rfl) ..,
    rxSignal_leaves State.mem (fun _ _ _ _ _ _ => rfl) ..⟩
  have h : rxAt (rxSignal rk (rxFill rk sender payload s)) rk = rxAt (rxFill rk sender payload s) rk :=
    rxSignal_leaves (fun u => rxAt u rk) (fun _ _ _ _ _ _ => rfl) ..
  have hf : rxAt (rxFill rk sender payload s) rk = rxAt (modRx rk (fun q => { q with
    ents := q.ents ++ [(sender, payload)], takes := q.takes + 1 }) s) rk := rfl
  rw [h, hf]
  simp

/-- The answer to a sender within the package takes no link (R102). -/
theorem answerQ_of_near {s : State} {m : Msg} {a : Acc} (ans : Nat) (ha : tfind s.accs m.acc = some a) (hp : a.dpkg = pkgOfC (cidOf a.sid)) :
    answerQ m ans s = post (s.now + a.ansLat) .qsendAnswer { a := m.acc, b := ans } s := by
  simp [answerQ, ha, overLink, hp]

section
variable {s : State} {m : Msg} (hp : s.ev.p = .msg m) (hr : msgRefused s m = false) (hf : msgFits s m = true)
  (ho : (rxAt s (targetCid m * 4 + m.idx)).owner = some (wfield m.target 13 4))
include hp hr hf ho

/-- A message for a bound queue, by the table of R102. -/
theorem exec_qsendArrival_of_bound : exec .qsendArrival s = .next (
    let rk := targetCid m * 4 + m.idx
    if direct s rk m.sender = true then answerQ m 0 (rxTake rk m.sender m.payload s)
    else if (ringZero s rk m.sender && !m.spill) = true then answerQ m 1 s
    else if ovRoom (rxAt s rk) = 0 then answerQ m 2 s
    else rxAppend rk m s) := by
  simp [exec, execQsendArrival, hp, hr, judge, hf, ho]

theorem exec_qsendArrival_of_direct (h : direct s (targetCid m * 4 + m.idx) m.sender = true) :
    exec .qsendArrival s = .next (answerQ m 0 (rxTake (targetCid m * 4 + m.idx) m.sender m.payload s)) := by
  rw [exec_qsendArrival_of_bound hp hr hf ho]
  simp only [h, if_true]

theorem exec_qsendArrival_of_full (hz : ringZero s (targetCid m * 4 + m.idx) m.sender = true)
    (hl : 64 ≤ (rxAt s (targetCid m * 4 + m.idx)).ents.length) (hs : m.spill = false) :
    exec .qsendArrival s = .next (answerQ m 1 s) := by
  rw [exec_qsendArrival_of_bound hp hr hf ho]
  simp [direct, hz, hs, Nat.not_lt.2 hl]

/-- A message that goes to the ring: one behind an entry there, or one marked SPILL that finds the slots full. -/
theorem exec_qsendArrival_of_ring (h : ringZero s (targetCid m * 4 + m.idx) m.sender = false
      ∨ (64 ≤ (rxAt s (targetCid m * 4 + m.idx)).ents.length ∧ m.spill = true)) :
    exec .qsendArrival s = .next (if ovRoom (rxAt s (targetCid m * 4 + m.idx)) = 0 then answerQ m 2 s
      else rxAppend (targetCid m * 4 + m.idx) m s) := by
  rw [exec_qsendArrival_of_bound hp hr hf ho]
  rcases h with h | ⟨hl, hs⟩
  · simp [direct, h]
  · simp [direct, Nat.not_lt.2 hl, hs]

end

theorem ringZero_of_empty {s : State} {rk : Nat} {sender : Word} (h : (rxAt s rk).rrd = (rxAt s rk).rwr) (ha : (rxAt s rk).ahead = [])
    (hn : appending s rk sender = false) : ringZero s rk sender = true := by
  simp [ringZero, h, ha, hn]

/-! ### The answer at the sender -/

section
variable {s : State} {a : Acc} (ha : tfind s.accs s.ev.a = some a) (hw : accAway s s.ev.a = false)
  (hh : heldOn s a.sid a.gen s.ev.a = true)
include ha hw hh

theorem exec_qsendAnswer_of_accept (hb : s.ev.b = 0) :
    exec .qsendAnswer s = .next (resume a.sid 1 { s with accs := tdel s.accs s.ev.a }) := by
  have hh' : heldOn { s with accs := tdel s.accs s.ev.a } a.sid a.gen s.ev.a = true := hh
  simp [exec, execQsendAnswer, ha, hw, hb, goesOn, hh']

theorem exec_qsendAnswer_of_hold (hb : s.ev.b = 1) :
    exec .qsendAnswer s = .next (post (s.now + (coreAt s (cidOf a.sid)).sendtmo) .qsendResend { a := s.ev.a } s) := by
  simp [exec, execQsendAnswer, ha, hw, hb, hh]

theorem exec_qsendAnswer_of_full (hb : s.ev.b = 2) (hp : a.dpkg = pkgOfC (cidOf a.sid)) : exec .qsendAnswer s
    = .next (recordTrap a.sid 0x0F (word a.va) 0#64 (slotAt s a.sid).pc { s with accs := tdel s.accs s.ev.a }) := by
  simp [exec, execQsendAnswer, ha, hw, hb, hh, hp]

end

theorem exec_qsendResend_of_msg {s : State} {a : Acc} {rk pos : Nat} {m : Msg} (ha : tfind s.accs s.ev.a = some a)
    (hr : a.ret = .ring rk pos m) :
    exec .qsendResend s = .next (post (s.now + a.ansLat) .qsendArrival { p := .msg { m with spill := true } } s) := by
  simp [exec, execQsendResend, ha, hr]

/-! ### An append that is performed -/

/-- The entry at the write count moves it on by one, where no later entry is performed yet. -/
theorem ringSet_of_next {q : RxQ} (h : q.ahead = []) :
    (ringSet q.rwr q).rwr = q.rwr + 1 ∧ (ringSet q.rwr q).pendApp = q.pendApp - 1 := by
  simp [ringSet, ringCount, h]

/-- An entry performed before one ahead of it waits for that one (R472). -/
theorem ringSet_of_later {q : RxQ} {pos : Nat} (h : pos ≠ q.rwr) (hn : q.rwr ∉ q.ahead) :
    ringSet pos q = { q with ahead := q.ahead ++ [pos] } := by
  simp [ringSet, ringCount, h.symm, hn]

/-- The queue after the event of an append. -/
def appendedQ (e : EvArg) (q : RxQ) : RxQ := if q.epoch = e.b then ringSet e.c q else q

theorem refillCheck_leaves {β : Type} (φ : State → β) (h : ∀ (s : State) (a : List (Nat × Instr × EvArg)), φ { s with agenda := a } = φ s)
    (rk : Nat) (s : State) : φ (refillCheck rk s) = φ s := by
  unfold refillCheck
  dsimp only
  split
  · exact h s _
  · rfl

theorem answerQ_leaves {β : Type} (φ : State → β)
    (h : ∀ (s : State) (n : Nat) (a : List (Nat × Instr × EvArg)) (p : Tab Packet),
      φ { s with nextId := n, agenda := a, pkts := p } = φ s) (m : Msg) (ans : Nat) (s : State) : φ (answerQ m ans s) = φ s := by
  unfold answerQ
  split
  · exact overLink_leaves φ h ..
  · rfl

/-- RING_APPEND_DONE leaves what its queue, the answer and the refill do not hold. -/
theorem exec_ringAppendDone_leaves (s : State) : ∃ t, exec .ringAppendDone s = .next t ∧ t.mem = s.mem ∧ t.g = s.g
    ∧ rxAt t s.ev.a = appendedQ s.ev (rxAt s s.ev.a) := by
  have hrx : rxAt (modRx s.ev.a (appendedQ s.ev) s) s.ev.a = appendedQ s.ev (rxAt s s.ev.a) := rxAt_modRx_self ..
  have hc {β : Type} (φ : State → β) (h : ∀ (s : State) (n : Nat) (a : List (Nat × Instr × EvArg)) (p : Tab Packet),
      φ { s with nextId := n, agenda := a, pkts := p } = φ s) (u : State) : φ (refillCheck s.ev.a u) = φ u :=
    refillCheck_leaves φ (fun s a => h s s.nextId a s.pkts) _ u
  by_cases hm : ∃ m, s.ev.p = .msg m
  · obtain ⟨m, hm⟩ := hm
    have hleaves {β : Type} (φ : State → β) (h : ∀ (s : State) (n : Nat) (a : List (Nat × Instr × EvArg)) (p : Tab Packet),
        φ { s with nextId := n, agenda := a, pkts := p } = φ s) (u : State) : φ (refillCheck s.ev.a (answerQ m 0 u)) = φ u :=
      (hc φ h _).trans (answerQ_leaves φ h m 0 u)
    refine ⟨refillCheck s.ev.a (answerQ m 0 (modRx s.ev.a (appendedQ s.ev) s)), ?_, hleaves State.mem (fun _ _ _ _ => rfl) _,
      hleaves State.g (fun _ _ _ _ => rfl) _, (hleaves (fun u => rxAt u s.ev.a) (fun _ _ _ _ => rfl) _).trans hrx⟩
    simp only [exec, execRingAppendDone, hm]
    rfl
  · refine ⟨refillCheck s.ev.a (modRx s.ev.a (appendedQ s.ev) s), ?_, hc State.mem (fun _ _ _ _ => rfl) _,
      hc State.g (fun _ _ _ _ => rfl) _, (hc (fun u => rxAt u s.ev.a) (fun _ _ _ _ => rfl) _).trans hrx⟩
    simp only [exec, execRingAppendDone]
    split
    next m h => exact absurd ⟨m, h⟩ hm
    next => rfl

/-! ### A refill -/

/-- The entries of a run of positions that move to the slots: those whose store did not fail (R103). -/
def moved (gaps : List Nat) (rrd : Nat) (es : List ((Word × Word) × Nat)) : List (Word × Word) :=
  (es.filter fun e => !gaps.contains (rrd + e.2)).map (·.1)

theorem moved_cons (gaps : List Nat) (rrd : Nat) (e : (Word × Word) × Nat) (es : List ((Word × Word) × Nat)) :
    moved gaps rrd (e :: es) = (if gaps.contains (rrd + e.2) = true then [] else [e.1]) ++ moved gaps rrd es := by
  unfold moved
  rw [List.filter_cons]
  cases gaps.contains (rrd + e.2) <;> rfl

/-- What the move of entries to the slots leaves of the state and of the queue. -/
def refillKeeps (rk : Nat) (s t : State) : Prop :=
  t.mem = s.mem ∧ t.now = s.now ∧ (rxAt t rk).gaps = (rxAt s rk).gaps ∧ (rxAt t rk).rrd = (rxAt s rk).rrd

theorem refillTake_spec (rk pos : Nat) (e : Word × Word) (s : State) : refillKeeps rk s (refillTake rk pos e s)
    ∧ (rxAt (refillTake rk pos e s) rk).ents = (rxAt s rk).ents ++ if (rxAt s rk).gaps.contains pos = true then [] else [e] := by
  unfold refillTake
  dsimp only
  split
  next h => exact ⟨⟨rfl, rfl, rfl, rfl⟩, (List.append_nil _).symm⟩
  next h =>
    have hf : rxAt (rxFill rk e.1 e.2 s) rk = { rxAt s rk with ents := (rxAt s rk).ents ++ [e], takes := (rxAt s rk).takes + 1 } :=
      rxAt_modRx_self rk (fun q => { q with ents := q.ents ++ [(e.1, e.2)], takes := q.takes + 1 }) s
    split
    · exact ⟨⟨rfl, rfl, by rw [rxAt_modRx_self, hf], by rw [rxAt_modRx_self, hf]⟩, by rw [rxAt_modRx_self, hf]⟩
    · exact ⟨⟨rfl, rfl, by rw [hf], by rw [hf]⟩, by rw [hf]⟩

theorem foldl_refillTake_spec (rk rrd : Nat) (es : List ((Word × Word) × Nat)) (s : State) :
    let t := es.foldl (fun s e => refillTake rk (rrd + e.2) e.1 s) s
    refillKeeps rk s t ∧ (rxAt t rk).ents = (rxAt s rk).ents ++ moved (rxAt s rk).gaps rrd es := by
  induction es generalizing s with
  | nil => exact ⟨⟨rfl, rfl, rfl, rfl⟩, (List.append_nil _).symm⟩
  | cons e es ih =>
    obtain ⟨⟨h1, h2, h3, h4⟩, he⟩ := refillTake_spec rk (rrd + e.2) e.1 s
    obtain ⟨⟨k1, k2, k3, k4⟩, ke⟩ := ih (refillTake rk (rrd + e.2) e.1 s)
    refine ⟨⟨k1.trans h1, k2.trans h2, k3.trans h3, k4.trans h4⟩, ke.trans ?_⟩
    rw [he, h3, List.append_assoc, ← moved_cons]

theorem engPark_leaves {β : Type} (φ : State → β)
    (h : ∀ (s : State) (n : Nat) (a : List (Nat × Instr × EvArg)) (c : Tab Acc),
      φ { s with nextId := n, agenda := a, accs := c } = φ s) (id pkg va tenant : Nat) (s : State) :
    φ (engPark id pkg va tenant s) = φ s := by
  unfold engPark
  split
  · rfl
  · exact h s _ _ _

/-- A refill of a bound queue moves what it could read of the positions that have room; where a page is not there, it comes again (R422). -/
theorem exec_receiveQueueRefill_of_bound {s : State} {q : RxQ} {n : Nat} {es : List (Word × Word)} (hq : q = rxAt s s.ev.a)
    (hn : n = min (64 - q.ents.length) (q.rwr - q.rrd))
    (hes : es = ringEnts s (pkgOfC (s.ev.a / 4)) (coreAt s (s.ev.a / 4)).tenant q n q.rrd) (ho : q.owner.isSome = true) :
    ∃ t, exec .receiveQueueRefill s = .next t ∧ (rxAt t s.ev.a).ents = q.ents ++ moved q.gaps q.rrd es.zipIdx
      ∧ (rxAt t s.ev.a).rrd = q.rrd + es.length ∧ t.mem = s.mem
      ∧ (es.length ≠ n → due t (s.now + 1) .receiveQueueRefill { a := s.ev.a }) := by
  have ho' : q.owner.isNone = false := by simpa using ho
  obtain ⟨⟨hm, ht, hg, hr⟩, he⟩ := foldl_refillTake_spec s.ev.a q.rrd es.zipIdx s
  simp only [exec, execReceiveQueueRefill, ← hq, ho', ← hn, ← hes, Bool.false_eq_true, if_false]
  generalize es.zipIdx.foldl (fun s' e => refillTake s.ev.a (q.rrd + e.2) e.1 s') s = u at hm ht hg hr he
  rw [← hq] at he hr
  split
  next hl =>
    refine ⟨_, rfl, ?_, ?_, hm, fun h => absurd hl h⟩
    · rw [rxAt_modRx_self]; exact he
    · rw [rxAt_modRx_self]; exact congrArg (· + es.length) hr
  next hl =>
    have hk {β : Type} (φ : State → β) (h : ∀ (s : State) (n : Nat) (a : List (Nat × Instr × EvArg)) (c : Tab Acc),
        φ { s with nextId := n, agenda := a, accs := c } = φ s) := engPark_leaves φ h
    refine ⟨_, rfl, ?_, ?_, ?_, fun _ => List.mem_append_right _ (List.mem_singleton.mpr rfl)⟩
    · refine Eq.trans (hk (fun v => (rxAt v s.ev.a).ents) (fun _ _ _ _ => rfl) ..) ?_
      rw [rxAt_modRx_self]; exact he
    · refine Eq.trans (hk (fun v => (rxAt v s.ev.a).rrd) (fun _ _ _ _ => rfl) ..) ?_
      rw [rxAt_modRx_self]; exact congrArg (· + es.length) hr
    · exact (hk State.mem (fun _ _ _ _ => rfl) ..).trans hm

theorem exec_trcNoticeArrival_of_direct {s : State} (hn : noticeTaken s s.ev.a s.ev.c s.ev.b (s.ev.d / 32 * 64 + s.ev.e) = true)
    (hd : direct s s.ev.a s.ev.w = true) : exec .trcNoticeArrival s = .next (rxTake s.ev.a s.ev.w s.ev.w2 s) := by
  simp [exec, execTrcNoticeArrival, hn, hd]

/-- Settles O36: the table of R102, the sender's side, the append that is performed, the refill, and the notice. -/
theorem receiveQueues : Obligations.ReceiveQueues := by
  unfold Obligations.ReceiveQueues
  refine ⟨?arrival, ?answer, fun s a rk pos m => exec_qsendResend_of_msg, ?append, fun s => exec_receiveQueueRefill_of_bound rfl rfl rfl, ?notice⟩
  case arrival =>
    intro s m hp hr hf ho
    refine ⟨fun hd a ha hn => ?_, fun hz hl hs a ha hn => ?_, ringZero_of_empty, fun h => ⟨fun h0 a ha hn => ?_, fun h0 => ?_⟩⟩
    · obtain ⟨he, hacc, hnow, -⟩ := rxTake_spec (targetCid m * 4 + m.idx) m.sender m.payload s
      rw [exec_qsendArrival_of_direct hp hr hf ho hd, answerQ_of_near 0 (by rw [hacc]; exact ha) hn, hnow]
      exact ⟨_, rfl, he, List.mem_append_right _ (List.mem_singleton.mpr rfl)⟩
    · rw [exec_qsendArrival_of_full hp hr hf ho hz hl hs, answerQ_of_near 1 ha hn]
    · rw [exec_qsendArrival_of_ring hp hr hf ho h, if_pos h0, answerQ_of_near 2 ha hn]
    · rw [exec_qsendArrival_of_ring hp hr hf ho h, if_neg h0]
  case answer =>
    intro s a ha hw
    exact ⟨fun hb hh => exec_qsendAnswer_of_accept ha hw hh hb, fun hb hh => exec_qsendAnswer_of_hold ha hw hh hb,
      fun hb hp hh => exec_qsendAnswer_of_full ha hw hh hb hp⟩
  case append =>
    intro s
    obtain ⟨t, he, hm, hg, hq⟩ := exec_ringAppendDone_leaves s
    refine ⟨t, he, hm, hg, fun hb ha hc => ?_, fun hb hc hn => ?_, fun hb => ?_⟩
    · rw [hq, appendedQ, if_pos hb, hc]
      exact ringSet_of_next ha
    · rw [hq, appendedQ, if_pos hb, ringSet_of_later hc hn]
      exact ⟨rfl, List.mem_append_right _ (List.mem_singleton.mpr rfl)⟩
    · rw [hq, appendedQ, if_neg hb]
  case notice =>
    intro s q hn hd
    obtain ⟨he, -, -, hm⟩ := rxTake_spec s.ev.a s.ev.w s.ev.w2 s
    exact ⟨_, exec_trcNoticeArrival_of_direct hn hd, he, hm⟩

end Sys2Proof.Machine
end

section
/-!
SUPPORT. XPUT and QSEND (`Obligations.MessagesLeave`). The statement ranges over every state, and its clause on a message to another package
names no condition on the table of accesses. It fails where that table lists two records under the number that the message takes: the
message replaces the first; the QSEND stands at a breakpoint, whose trace record is a write of memory (R460, R461); the write wakes the
watch that is listed second (R255), and the record of the watch replaces that of the message.
-/

namespace Sys2Proof.Machine

/-- A made watch of a scratchpad word, which differs from the value it was made with. -/
def staleWatch : Acc :=
  { kind := .watch, sid := 2, gen := 0, ipc := 0x1000, order := 0, dpkg := 0, dev := false, va := ownBase + 0x100, size := 8
    key := some (spKey 0 0x100), bank := 0, perfAt := 90, ansLat := 2, performed := true, cmp := natBytes 8 1 }

/-- A QSEND to package 1 is at issue at a breakpoint, in a partition with a trace ring; two records of watches stand under the number that
the message takes. -/
def twiceListed : State :=
  { now := 100, nextId := 20, slots := [(1, { st := .ready })], cur := { sid := 1, ipc := 0x1000, words := [0x094E] }
    g := [(1 * 64 + 5, word (1 * 2 ^ 13 + 1 * 2 ^ 25)), (1 * 64 + 7, word 7)]
    pkgs := [(0, { present := true, feat0 := BitVec.allOnes 64 }), (1, { present := true })]
    parts := [(0, { bps := [word 0x1001], trcfg := 1#64, trbase := ownBase + 0x200 })]
    accs := [(20, staleWatch), (20, staleWatch)] }

/-- The QSEND of `twiceListed`: its target is in g5, its word in g7, and its immediate names queue 3 of another package. -/
def qsendFar : Ops := { a := 5, b := 7, xi := [3] }

/-- The kind of the record that a step leaves under a number. -/
def kindLeft (r : Res) (id : Nat) : Option AccKind :=
  match r with
  | .next t => (tfind t.accs id).map (·.kind)
  | _ => none

theorem qsendFar_leaves_watch : kindLeft (exec (.qsend qsendFar) twiceListed) 20 = some .watch := by decide +kernel

/-- Refutes O35: a QSEND to another package leaves no record of its message where its number is listed twice, `twiceListed`. -/
theorem not_messagesLeave : ¬ Obligations.MessagesLeave := by
  unfold Obligations.MessagesLeave
  rintro ⟨-, -, hfar, -⟩
  have hreads : readsAB .b qsendFar twiceListed (word (1 * 2 ^ 13 + 1 * 2 ^ 25)) 7#64 (atIssue twiceListed) := ⟨rfl, _, rfl, rfl⟩
  obtain ⟨t, a, ht, ha, hk, -⟩ := hfar qsendFar twiceListed _ _ _ 1 hreads (by decide) (by decide) (by decide) rfl (by decide)
    (by decide +kernel) (by decide +kernel)
  have hw := qsendFar_leaves_watch
  have hid : (markLast qsendFar (atIssue twiceListed)).nextId = 20 := rfl
  rw [ht, kindLeft, ← hid, ha, Option.map_some, hk] at hw
  cases hw

end Sys2Proof.Machine
end

section
/-!
SUPPORT. Messages of the guard protocol and the Verger's table (`Obligations.GuardProtocol`): what a leg posts and leaves, and what a
message handled in its turn does with the descriptor of a home guard.
-/

namespace Sys2Proof.Machine

/-! ### A leg (R132) -/

theorem postPackets_agenda (k : Packet) (t : Nat) (s : State) : s.agenda ⊆ (postPackets k t s).agenda := by
  unfold postPackets
  exact foldl_keeps (r := fun s t => s.agenda ⊆ t.agenda) (fun _ => List.Subset.refl _) List.Subset.trans
    (fun _ _ => List.subset_append_left _ _) _ _

theorem overLink_agenda (p q vc bytes t : Nat) (ev : Instr) (arg : EvArg) (s : State) :
    s.agenda ⊆ (overLink p q vc bytes t ev arg s).agenda := by
  unfold overLink
  split
  · exact List.subset_append_left _ _
  · exact postPackets_agenda ..

section
variable (a b : End) (same cross more vc bytes : Nat) (ev : Instr) (arg : EvArg) (s : State)

/-- A message of a leg leaves what its packets, its numbers and the agenda do not hold. -/
theorem postLeg_leaves {β : Type} (φ : State → β)
    (h : ∀ (s : State) (n : Nat) (l : List (Nat × Instr × EvArg)) (p : Tab Packet),
      φ { s with nextId := n, agenda := l, pkts := p } = φ s) : φ (postLeg a b same cross more vc bytes ev arg s) = φ s := by
  unfold postLeg post
  dsimp only
  rw [h _ _ _ (State.pkts _)]
  split
  · rfl
  · exact overLink_leaves φ h ..

@[simp] theorem postLeg_now : (postLeg a b same cross more vc bytes ev arg s).now = s.now :=
  postLeg_leaves _ _ _ _ _ _ _ _ _ _ State.now fun _ _ _ _ => rfl
@[simp] theorem postLeg_mem : (postLeg a b same cross more vc bytes ev arg s).mem = s.mem :=
  postLeg_leaves _ _ _ _ _ _ _ _ _ _ State.mem fun _ _ _ _ => rfl
@[simp] theorem postLeg_guards : (postLeg a b same cross more vc bytes ev arg s).guards = s.guards :=
  postLeg_leaves _ _ _ _ _ _ _ _ _ _ State.guards fun _ _ _ _ => rfl
@[simp] theorem postLeg_wbs : (postLeg a b same cross more vc bytes ev arg s).wbs = s.wbs :=
  postLeg_leaves _ _ _ _ _ _ _ _ _ _ State.wbs fun _ _ _ _ => rfl
@[simp] theorem leg_postLeg (c d : End) (n m : Nat) : leg (postLeg a b same cross more vc bytes ev arg s) c d n m = leg s c d n m :=
  postLeg_leaves _ _ _ _ _ _ _ _ _ _ (fun s => leg s c d n m) fun _ _ _ _ => rfl

theorem postLeg_agenda : s.agenda ⊆ (postLeg a b same cross more vc bytes ev arg s).agenda := by
  unfold postLeg
  dsimp only
  split
  · exact List.subset_append_left _ _
  · exact List.Subset.trans (overLink_agenda ..) (List.subset_append_left _ _)

theorem postLeg_due {d : Nat} (h : d = s.now + leg s a b same cross + more) :
    due (postLeg a b same cross more vc bytes ev arg s) d ev arg := by
  subst h
  exact List.mem_append_right _ (List.mem_singleton.mpr rfl)

end

/-! ### The Verger's table -/

@[simp] theorem guardOf_putGuard_self (gid : Word) (g : Guard) (s : State) : guardOf (putGuard gid g s) gid = some g :=
  tfind_tput_self ..

theorem guardOf_putGuard_of_ne {gid gid' : Word} (g : Guard) (s : State) (h : gid' ≠ gid) :
    guardOf (putGuard gid g s) gid' = guardOf s gid' :=
  tfind_tput_of_ne _ _ fun he => h (BitVec.eq_of_toNat_eq he)

@[simp] theorem putGuard_mem (gid : Word) (g : Guard) (s : State) : (putGuard gid g s).mem = s.mem := rfl

theorem modGuard_of_found {gid : Word} {s : State} {g : Guard} (f : Guard → Guard) (h : guardOf s gid = some g) :
    modGuard gid f s = putGuard gid (f g) s := by simp [modGuard, h]

/-- The Verger has handled a message of the guard in cycle `now` (R125). -/
def handledAt (gid : Word) (now : Nat) (s : State) : State := modGuard gid (fun g => { g with lastMsg := now + 1 }) s

theorem handledAt_of_found {gid : Word} {s : State} {g : Guard} (now : Nat) (h : guardOf s gid = some g) :
    handledAt gid now s = putGuard gid { g with lastMsg := now + 1 } s := modGuard_of_found _ h

/-- A guard without stamps is handled at once in its turn (R125). -/
theorem vergerTurn_of_home {gid : Word} {cid : Nat} {s : State} {g : Guard} (ev : Instr) (act : Guard → State → State)
    (hb : vergerBusy s gid cid = false) (hg : guardOf s gid = some g) (hh : g.home = true) :
    vergerTurn ev gid cid act s = handledAt gid s.now (act g s) := by
  simp [vergerTurn, hb, hg, stampPages, hh, handledAt]

/-! ### Grants of a home guard -/

/-- The descriptor with a request's core among the holders (R126). -/
def grantedTo (r : GReq) (g : Guard) : Guard :=
  { g with st := if r.excl then .excl else .shared, holders := g.holders ++ [(r.cid, r.entry)] }

/-- The grant's message, which delivers nothing (R118). -/
def emptyGrant (r : GReq) (status ver : Nat) : EvArg :=
  { p := .grant ⟨r, [], grantWord (if r.excl then 2 else 1) status 0 ver⟩ }

theorem sendGrant_of_home {g : Guard} (gid : Word) (r : GReq) (status : Nat) (s : State) (hh : g.home = true) :
    sendGrant gid g r status s
      = postLeg (vergerEnd gid) (coreEnd r.cid) 15 35 5 1 56 .grantArrival (emptyGrant r status g.ver) s := by
  simp [sendGrant, hh, emptyGrant]

theorem grantG_of_home {g : Guard} (gid : Word) (status : Nat) (r : GReq) (s : State) (hh : g.home = true) :
    grantG gid status r g s = (grantedTo r g,
      postLeg (vergerEnd gid) (coreEnd r.cid) 15 35 5 1 56 .grantArrival (emptyGrant r status g.ver) s) := by
  have h : (grantedTo r g).home = true := hh
  show (grantedTo r g, sendGrant gid (grantedTo r g) r status s) = _
  rw [sendGrant_of_home gid r status s h]
  rfl

/-- A grant leaves what its message's packets, its numbers and the agenda do not hold. -/
theorem grantG_leaves {β : Type} (φ : State → β)
    (h : ∀ (s : State) (n : Nat) (l : List (Nat × Instr × EvArg)) (p : Tab Packet),
      φ { s with nextId := n, agenda := l, pkts := p } = φ s) (gid : Word) (status : Nat) (r : GReq) (g : Guard) (s : State) :
    φ (grantG gid status r g s).2 = φ s := by
  have hs (g : Guard) : φ (sendGrant gid g r status s) = φ s := by
    unfold sendGrant
    extract_lets _ _ subs _
    split_ifs
    · exact postLeg_leaves _ _ _ _ _ _ _ _ _ _ φ h
    · exact postLeg_leaves _ _ _ _ _ _ _ _ _ _ φ h
    · exact h s s.nextId _ s.pkts
  exact hs _

@[simp] theorem grantG_fst (gid : Word) (status : Nat) (r : GReq) (g : Guard) (s : State) :
    (grantG gid status r g s).1 = grantedTo r g := rfl

/-- Grants one after another (R126). -/
def grantAll (gid : Word) (status : Nat) (run : List GReq) (p : Guard × State) : Guard × State :=
  run.foldl (fun p r => grantG gid status r p.1 p.2) p

theorem grantAll_leaves {β : Type} (φ : State → β)
    (h : ∀ (s : State) (n : Nat) (l : List (Nat × Instr × EvArg)) (p : Tab Packet),
      φ { s with nextId := n, agenda := l, pkts := p } = φ s) (gid : Word) (status : Nat) (run : List GReq) (p : Guard × State) :
    φ (grantAll gid status run p).2 = φ p.2 :=
  foldl_leaves (fun p : Guard × State => φ p.2) (fun p r => grantG_leaves φ h gid status r p.1 p.2) run p

theorem grantAll_ver (gid : Word) (status : Nat) (run : List GReq) (p : Guard × State) : (grantAll gid status run p).1.ver = p.1.ver :=
  foldl_leaves (fun p : Guard × State => p.1.ver) (f := fun p r => grantG gid status r p.1 p.2) (fun _ _ => rfl) run p

theorem grantAll_waiting (gid : Word) (status : Nat) (run : List GReq) (p : Guard × State) :
    (grantAll gid status run p).1.waiting = p.1.waiting :=
  foldl_leaves (fun p : Guard × State => p.1.waiting) (f := fun p r => grantG gid status r p.1 p.2) (fun _ _ => rfl) run p

theorem grantAll_holders (gid : Word) (status : Nat) (run : List GReq) (p : Guard × State) :
    (grantAll gid status run p).1.holders = p.1.holders ++ run.map fun r => (r.cid, r.entry) := by
  induction run generalizing p with
  | nil => simp [grantAll]
  | cons r run ih =>
    have h := ih (grantG gid status r p.1 p.2)
    rw [grantAll, List.foldl_cons, ← grantAll, h, grantG_fst]
    simp [grantedTo]

theorem headRun_subset (l : List GReq) : headRun l ⊆ l := by
  induction l with
  | nil => exact List.Subset.refl _
  | cons r l ih =>
    unfold headRun
    split
    · exact List.nil_subset _
    · exact List.cons_subset_cons r ih

/-! #### Serving the queue (R126) -/

theorem serveG_of_empty {g : Guard} (gid : Word) (status : Nat) (s : State) (h : g.waiting = []) :
    serveG gid status g s = ({ g with st := if status = 0 then .free else .broken }, s) := by simp [serveG, h]

theorem serveG_of_excl {g : Guard} {r : GReq} {l : List GReq} (gid : Word) (status : Nat) (s : State) (h : g.waiting = r :: l)
    (hx : r.excl = true) : serveG gid status g s = grantG gid status r { g with waiting := l } s := by simp [serveG, h, hx]

theorem serveG_of_shared {g : Guard} {r : GReq} {l : List GReq} (gid : Word) (status : Nat) (s : State) (h : g.waiting = r :: l)
    (hx : r.excl = false) : serveG gid status g s
      = grantAll gid status (headRun g.waiting) ({ g with waiting := g.waiting.drop (headRun g.waiting).length }, s) := by
  simp [serveG, h, hx, grantAll]

/-- What serving the queue leaves, and from where the new holders come. -/
theorem serveG_spec (gid : Word) (status : Nat) (g : Guard) (s : State) :
    (serveG gid status g s).2.guards = s.guards ∧ (serveG gid status g s).1.ver = g.ver
    ∧ (serveG gid status g s).1.waiting ⊆ g.waiting
    ∧ ∀ x ∈ (serveG gid status g s).1.holders, x ∈ g.holders ∨ ∃ r ∈ g.waiting, x = (r.cid, r.entry) := by
  cases hw : g.waiting with
  | nil => simp [serveG_of_empty gid status s hw, hw]
  | cons r l =>
    cases hx : r.excl with
    | true =>
      rw [serveG_of_excl gid status s hw hx]
      refine ⟨grantG_leaves State.guards (fun _ _ _ _ => rfl) .., rfl, List.subset_cons_self r l, fun x hm => ?_⟩
      rcases List.mem_append.mp hm with hm | hm
      · exact .inl hm
      · exact .inr ⟨r, List.mem_cons_self, List.mem_singleton.mp hm⟩
    | false =>
      rw [serveG_of_shared gid status s hw hx, hw]
      refine ⟨grantAll_leaves State.guards (fun _ _ _ _ => rfl) .., grantAll_ver .., ?_, fun x hm => ?_⟩
      · rw [grantAll_waiting]
        exact List.drop_subset _ _
      · rw [grantAll_holders] at hm
        rcases List.mem_append.mp hm with hm | hm
        · exact .inl hm
        · obtain ⟨q, hq, rfl⟩ := List.mem_map.mp hm
          exact .inr ⟨q, headRun_subset _ hq, rfl⟩

end Sys2Proof.Machine
end

section
/-!
SUPPORT. Requests, releases and deliveries of a home guard (`Obligations.GuardProtocol`): one lemma for each message in its turn.
-/

namespace Sys2Proof.Machine

/-! ### A request at the Verger (R126) -/

@[simp] theorem withVlast_cid (s : State) (r : GReq) : (withVlast s r).cid = r.cid := by unfold withVlast; split <;> rfl
@[simp] theorem withVlast_entry (s : State) (r : GReq) : (withVlast s r).entry = r.entry := by unfold withVlast; split <;> rfl
@[simp] theorem withVlast_excl (s : State) (r : GReq) : (withVlast s r).excl = r.excl := by unfold withVlast; split <;> rfl

theorem reqG_of_grantable {r : GReq} {g : Guard} (gid : Word) (s : State)
    (h : g.st = .free ∨ (g.st = .shared ∧ r.excl = false ∧ g.waiting.any (·.excl) = false)) :
    reqG gid r g s = some (grantG gid 0 r g s) := by
  rcases h with h | ⟨h, hx, hw⟩
  · simp [reqG, h]
  · simp only [reqG, h, hx, hw, Bool.or_self, Bool.false_eq_true, if_false]

theorem reqG_of_held {r : GReq} {g : Guard} {gid : Word} {s : State} (h : g.st = .excl ∨ (g.st = .shared ∧ r.excl = true))
    (hu : requestsUsed s (gPkg gid) (gDie gid) < 8192) :
    reqG gid r g s = some ({ g with waiting := g.waiting ++ [r] }, s) := by
  rcases h with h | ⟨h, hx⟩
  · simp [reqG, h, hu]
  · simp [reqG, h, hx, hu]

section
variable {s : State} {r : GReq} {g : Guard} (hp : s.ev.p = .greq r) (hd : homeDead s r.guard = false)
  (hq : requestAhead s r.cid r.guard r.issued = false) (hr : releaseAhead s r.cid r.guard r.issued 0 = false)
  (hb : vergerBusy s r.guard r.cid = false) (hg : guardOf s r.guard = some g) (hh : g.home = true)
include hp hd hq hr hb hg hh

/-- A request in its turn leaves what the table of R126 answers. -/
theorem exec_guardRequest_of_turn {h : Guard} {u : State} (ha : reqG r.guard (withVlast s r) g s = some (h, u)) :
    exec .guardRequest s = .next (putGuard r.guard { h with lastMsg := s.now + 1 } (putGuard r.guard h u)) := by
  show execGuardRequest s = _
  simp only [execGuardRequest, hp, hd, hq, hr, Bool.or_self, Bool.false_eq_true, if_false]
  rw [vergerTurn_of_home _ _ hb hg hh, ha]
  rw [handledAt_of_found _ (guardOf_putGuard_self ..)]

theorem exec_guardRequest_of_grantable (h : g.st = .free ∨ (g.st = .shared ∧ r.excl = false ∧ g.waiting.any (·.excl) = false)) :
    ∃ t h, exec .guardRequest s = .next t
      ∧ guardOf t r.guard = some h ∧ h.st = (if r.excl = true then .excl else .shared) ∧ h.holders = g.holders ++ [(r.cid, r.entry)]
      ∧ h.waiting = g.waiting ∧ t.mem = s.mem
      ∧ due t (s.now + 5 + leg s (vergerEnd r.guard) (coreEnd r.cid) 15 35) .grantArrival
          { p := .grant ⟨withVlast s r, [], grantWord (if r.excl = true then 2 else 1) 0 0 g.ver⟩ } := by
  have ha : reqG r.guard (withVlast s r) g s = some (grantG r.guard 0 (withVlast s r) g s) :=
    reqG_of_grantable _ _ (by simpa using h)
  rw [grantG_of_home _ _ _ _ hh] at ha
  refine ⟨_, _, exec_guardRequest_of_turn hp hd hq hr hb hg hh ha, guardOf_putGuard_self .., ?_, ?_, rfl, ?_, ?_⟩
  · simp [grantedTo]
  · simp [grantedTo]
  · simp
  · have he := withVlast_excl s r
    refine (?_ : due (postLeg ..) _ _ _)
    simp only [emptyGrant, withVlast_cid, he]
    exact postLeg_due _ _ _ _ _ _ _ _ _ _ (by omega)

theorem exec_guardRequest_of_held (h : g.st = .excl ∨ (g.st = .shared ∧ r.excl = true))
    (hu : requestsUsed s (gPkg r.guard) (gDie r.guard) < 8192) :
    ∃ t h, exec .guardRequest s = .next t ∧ guardOf t r.guard = some h ∧ h.st = g.st ∧ h.holders = g.holders
      ∧ h.waiting = g.waiting ++ [withVlast s r] ∧ t.mem = s.mem :=
  ⟨_, _, exec_guardRequest_of_turn hp hd hq hr hb hg hh (reqG_of_held (by simpa using h) hu),
    guardOf_putGuard_self .., rfl, rfl, rfl, rfl⟩

end

theorem exec_guardRequestResend {s : State} {r : GReq} (hp : s.ev.p = .greq r) :
    exec .guardRequestResend s = .next (postLeg (coreEnd r.cid) (vergerEnd r.guard) 15 35 0 0 56 .guardRequest { p := .greq r } s) := by
  simp [exec, execGuardRequestResend, hp]

/-! ### A release at the Verger (R114, R126) -/

/-- The descriptor once its last holder has let go: the new version and LAST of an exclusive hold (R107, R114). -/
def lastReleased (rel : GRel) (last : Word) (key : Nat) (g : Guard) : Guard :=
  { (if rel.excl then { g with last := last, lastRt := rel.entry, lastCid := rel.cid, lastKey := key, ver := nextVer g.ver } else g) with
    holders := [] }

theorem relG_of_last_holder {gid last : Word} {rel : GRel} {key : Nat} {g : Guard} {s : State} (hh : g.home = true)
    (h1 : g.holders = [(rel.cid, rel.entry)]) (hs : g.st ≠ .broken) :
    relG gid rel last key g s = serveG gid 0 (lastReleased rel last key g) s := by
  cases hx : rel.excl <;> simp [relG, lastReleased, hx, hh, h1, hs]

theorem lastReleased_ver (rel : GRel) (last : Word) (key : Nat) (g : Guard) :
    (lastReleased rel last key g).ver = if rel.excl = true then nextVer g.ver else g.ver := by
  unfold lastReleased; split <;> rfl

theorem lastReleased_waiting (rel : GRel) (last : Word) (key : Nat) (g : Guard) : (lastReleased rel last key g).waiting = g.waiting := by
  unfold lastReleased; split <;> rfl

/-- What a handled release leaves of its record, which a write-behind to come keeps (R124). -/
def releaseNoted (id : Nat) (rel : GRel) (ver : Nat) (s : State) : State :=
  if rel.excl && !rel.dirty.isEmpty then
    match tfind s.wbs id with
    | some w => { s with wbs := tput s.wbs id { w with handled := true, ver := ver } }
    | none => s
  else { s with wbs := tdel s.wbs id }

theorem releaseNoted_leaves {β : Type} (φ : State → β) (h : ∀ (s : State) (w : Tab WriteBehind), φ { s with wbs := w } = φ s)
    (id : Nat) (rel : GRel) (ver : Nat) (s : State) : φ (releaseNoted id rel ver s) = φ s := by
  unfold releaseNoted
  split
  · split
    · exact h s _
    · rfl
  · exact h s _

section
variable {s : State} {rel : GRel} {g : Guard} (hp : s.ev.p = .grel rel) (hd : homeDead s rel.guard = false)
  (hq : requestAhead s rel.cid rel.guard (((tfind s.wbs s.ev.a).map (·.issued)).getD 0) = false)
  (hr : releaseAhead s rel.cid rel.guard (((tfind s.wbs s.ev.a).map (·.issued)).getD 0) s.ev.a = false)
  (hb : vergerBusy s rel.guard rel.cid = false) (hg : guardOf s rel.guard = some g) (hh : g.home = true)
include hp hd hq hr hb hg hh

/-- A release in its turn leaves what the table of R126 answers. -/
theorem exec_guardRelease_of_turn : ∃ last key, exec .guardRelease s = .next (
    let q := relG rel.guard rel last key g s
    handledAt rel.guard s.now (releaseNoted s.ev.a rel q.1.ver (putGuard rel.guard q.1 q.2))) := by
  refine ⟨selfWord s ((tfind s.wbs s.ev.a).getD { rel := rel }).sid, ((tfind s.wbs s.ev.a).getD { rel := rel }).key, ?_⟩
  show execGuardRelease s = _
  simp only [execGuardRelease, hp, hd, hq, hr, Bool.or_self, Bool.false_eq_true, if_false]
  rw [vergerTurn_of_home _ _ hb hg hh]
  rfl

theorem exec_guardRelease_of_last_holder (h1 : g.holders = [(rel.cid, rel.entry)]) (hs : g.st ≠ .broken) :
    ∃ t h, exec .guardRelease s = .next t ∧ guardOf t rel.guard = some h
      ∧ h.ver = (if rel.excl = true then nextVer g.ver else g.ver) ∧ t.mem = s.mem
      ∧ (g.waiting = [] → h.st = .free ∧ h.holders = [])
      ∧ (∀ r l, g.waiting = r :: l → r.excl = true → h.st = .excl ∧ h.holders = [(r.cid, r.entry)] ∧ h.waiting = l) := by
  obtain ⟨last, key, he⟩ := exec_guardRelease_of_turn hp hd hq hr hb hg hh
  have hw := lastReleased_waiting rel last key g
  rw [relG_of_last_holder hh h1 hs] at he
  generalize hv : lastReleased rel last key g = v at he hw
  have hf : guardOf (releaseNoted s.ev.a rel (serveG rel.guard 0 v s).1.ver (putGuard rel.guard (serveG rel.guard 0 v s).1
      (serveG rel.guard 0 v s).2)) rel.guard = some (serveG rel.guard 0 v s).1 :=
    (releaseNoted_leaves (guardOf · rel.guard) (fun _ _ => rfl) ..).trans (guardOf_putGuard_self ..)
  dsimp only at he
  rw [handledAt_of_found _ hf] at he
  refine ⟨_, _, he, guardOf_putGuard_self .., ?_, ?_, fun h => ?_, fun r l h hx => ?_⟩
  · rw [← lastReleased_ver rel last key g, hv]
    exact (serveG_spec ..).2.1
  · calc (releaseNoted _ _ _ (putGuard _ _ _)).mem = (serveG rel.guard 0 v s).2.mem :=
          releaseNoted_leaves State.mem (fun _ _ => rfl) ..
      _ = s.mem := congrArg Prod.fst (serveG_stores rel.guard 0 v s)
  · rw [serveG_of_empty _ _ _ (hw.trans h)]
    exact ⟨rfl, by rw [← hv]; rfl⟩
  · rw [serveG_of_excl _ _ _ (hw.trans h) hx, grantG_fst]
    refine ⟨by simp [grantedTo, hx], ?_, rfl⟩
    rw [← hv]
    rfl

end

/-! ### Deliveries (R120, R122, R127) -/

section
variable {s : State} {f : GFwd} {g : Guard} (hp : s.ev.p = .gfwd f) (hg : guardOf s f.req.guard = some g)
include hp hg

/-- The last holder delivers from its image. -/
theorem exec_guardForward_of_holder (hf : f.holder ≠ fromHome) :
    exec .guardForward s = .next (
      let u := bumpLife (gPkg f.req.guard) (0x20000 + gDie f.req.guard) s
      postLeg (coreEnd f.holder) (coreEnd f.req.cid) 30 50 (8 * f.subs.length) 2 (256 * f.subs.length) .grantArrival
        { p := .grant ⟨f.req, imageCells u f.key f.subs, f.payload⟩ } u) := by
  show execGuardForward s = _
  simp [execGuardForward, hp, hg, hf]

/-- A home page that fails stops the delivery. -/
theorem exec_guardForward_of_failed {n a c k : Nat} (hf : f.holder = fromHome) (hd : homeDead s f.req.guard = false) (hn : f.subs = [n])
    (hc : guardCheck s f.req.guard (g.base + 256 * n) g.tenant 256 = (a, .fail c k)) :
    exec .guardForward s = .next (breakDelivery f.req.guard f.req (leg s (homeEnd f.req.guard g.base) (coreEnd f.req.cid) 30 50) g
      (guardFailed f.req.guard s)) := by
  show execGuardForward s = _
  simp [execGuardForward, hp, hg, hf, hd, hn, hc]

end

/-- A home guard whose only holder's delivery fails, with no one waiting: the grant goes out BROKEN (log 104). -/
theorem breakDelivery_of_only_holder {g : Guard} {r : GReq} (gid : Word) (back : Nat) (s : State) (hh : g.home = true)
    (h1 : g.holders = [(r.cid, r.entry)]) (hw : g.waiting = []) :
    breakDelivery gid r back g s = putGuard gid
      { g with ver := nextVer g.ver, lastv := false, st := if r.excl then .excl else .shared, holders := [(r.cid, r.entry)] }
      (post (s.now + back) .grantArrival (emptyGrant r 1 (nextVer g.ver)) s) := by
  cases hx : r.excl <;> simp [breakDelivery, repairG, hh, h1, hw, hx, headRun, emptyGrant]

end Sys2Proof.Machine
end

section
/-!
SUPPORT. Grants that arrive, releases that leave, write-behinds and failed packages (`Obligations.GuardProtocol`).
-/

namespace Sys2Proof.Machine

/-! ### The bytes of a delivery -/

/-- The cells of a delivery, written into the image at `key`. -/
def placeCells (key : Nat) (cells : List Host.Cell) (s : State) : State :=
  cells.foldl (fun s c => memWrite (key + c.1) [c.2] s (1, s.now)) s

theorem placeCells_cons (key : Nat) (c : Host.Cell) (l : List Host.Cell) (s : State) :
    placeCells key (c :: l) s = placeCells key l (memWrite (key + c.1) [c.2] s (1, s.now)) := rfl

theorem placeCells_traceKeeps (key : Nat) (cells : List Host.Cell) (s : State) : traceKeeps s (placeCells key cells s) :=
  foldl_keeps traceKeeps_refl traceKeeps_trans (fun _ _ => memWrite_traceKeeps _ _ _ _) _ _

theorem rxAt_placeCells (key : Nat) (cells : List Host.Cell) (s : State) (rk : Nat) : rxAt (placeCells key cells s) rk = rxAt s rk := by
  unfold rxAt
  rw [(placeCells_traceKeeps key cells s).1]

/-- Bytes that no cell names are as they were. -/
theorem mget_placeCells_of_ne {key a : Nat} (cells : List Host.Cell) (s : State) (h : ∀ c ∈ cells, a ≠ key + c.1) :
    mget (placeCells key cells s).mem a = mget s.mem a := by
  induction cells generalizing s with
  | nil => rfl
  | cons c l ih =>
    rw [placeCells_cons, ih _ fun d hd => h d (List.mem_cons_of_mem c hd), memWrite_mem]
    exact mget_mset_of_ne _ _ (h c List.mem_cons_self)

/-- Cells with different offsets read back. -/
theorem mget_placeCells {key : Nat} {cells : List Host.Cell} {s : State} (hm : Memory.wf s.mem = true)
    (hn : (cells.map (·.1)).Nodup) : ∀ c ∈ cells, mget (placeCells key cells s).mem (key + c.1) = c.2 := by
  induction cells generalizing s with
  | nil => simp
  | cons d l ih =>
    obtain ⟨hd, hl⟩ := List.nodup_cons.mp hn
    intro c hc
    rw [placeCells_cons]
    rcases List.mem_cons.mp hc with rfl | hc
    · rw [mget_placeCells_of_ne l _ fun e he heq => hd (List.mem_map.mpr ⟨e, he, (Nat.add_left_cancel heq).symm⟩), memWrite_mem]
      exact mget_mset_self hm ..
    · exact ih (memWrite_wf hm ..) hl c hc

/-! ### A grant at its queue (R118, R119, R121) -/

/-- The sender word of a grant's entry (R119). -/
def grantSender (d : Grant) : Word := word (wfield d.payload 32 32 + d.req.entry % 64 * 2 ^ 41 + 2 ^ 63)

/-- The image of an acquirer with a delivery in it, its lines clean where the hold is exclusive (R116). -/
def deliveredTo (d : Grant) (s : State) : State :=
  let key := imageKey s d.req.cid (d.req.entry % 64)
  let t := placeCells key d.bytes s
  let n := ((guardOf t d.req.guard).map fun g => if g.home then 0 else g.nsb).getD 0
  if d.req.excl then { t with dirty := (List.range n).foldl (fun l i => tdel l (key / 256 + i)) t.dirty } else t

theorem deliveredTo_leaves {β : Type} (φ : State → β) (h : ∀ (s : State) (d : Tab Bool), φ { s with dirty := d } = φ s) (d : Grant)
    (s : State) : φ (deliveredTo d s) = φ (placeCells (imageKey s d.req.cid (d.req.entry % 64)) d.bytes s) := by
  unfold deliveredTo
  extract_lets key t n
  split
  · exact h t _
  · rfl

theorem grantEntry_of_away {d : Grant} {s : State} (hr : resident s d.req.cid d.req.entry = false) (hg : goneGang s d.req.entry = false) :
    grantEntry d s = post (s.now + 256) .grantRetry { p := .grant d } s := by simp [grantEntry, hr, hg]

section
variable {d : Grant} {s : State} (hr : resident s d.req.cid d.req.entry = true)
  (ho : (rxAt s (d.req.cid * 4 + d.req.qix)).owner.isSome = true) (hd : direct s (d.req.cid * 4 + d.req.qix) (grantSender d) = true)
include hr ho hd

/-- A grant that its queue has a hardware slot for is taken there once its delivery is written. -/
theorem grantEntry_of_direct :
    grantEntry d s = rxTake (d.req.cid * 4 + d.req.qix) (grantSender d) d.payload (deliveredTo d s) := by
  have hn : (rxAt s (d.req.cid * 4 + d.req.qix)).owner.isNone = false := by
    rw [← Option.not_isSome, ho, Bool.not_true]
  unfold grantSender at hd ⊢
  simp only [grantEntry, hr, hd, hn, Bool.not_true, Bool.and_false, Bool.false_and, Bool.false_eq_true, if_false, if_true]
  rfl

/-- What a grant taken into a hardware slot leaves: its entry, and the delivery's bytes alone. -/
theorem grantEntry_spec : (rxAt (grantEntry d s) (d.req.cid * 4 + d.req.qix)).ents
      = (rxAt s (d.req.cid * 4 + d.req.qix)).ents ++ [(grantSender d, d.payload)]
    ∧ (grantEntry d s).mem = (placeCells (imageKey s d.req.cid (d.req.entry % 64)) d.bytes s).mem := by
  obtain ⟨he, -, -, hm⟩ := rxTake_spec (d.req.cid * 4 + d.req.qix) (grantSender d) d.payload (deliveredTo d s)
  rw [grantEntry_of_direct hr ho hd]
  refine ⟨?_, hm.trans (deliveredTo_leaves State.mem (fun _ _ => rfl) d s)⟩
  rw [he, deliveredTo_leaves (fun u => rxAt u (d.req.cid * 4 + d.req.qix)) (fun _ _ => rfl) d s, rxAt_placeCells]

end

theorem exec_grantArrival {s : State} {d : Grant} (hp : s.ev.p = .grant d) : exec .grantArrival s = .next (grantEntry d s) := by
  simp [exec, execGrantArrival, hp]

theorem exec_grantRetry {s : State} {d : Grant} (hp : s.ev.p = .grant d) : exec .grantRetry s = .next (grantEntry d s) := by
  simp [exec, execGrantRetry, hp]

theorem exec_homeLostAnswer {s : State} {r : GReq} (hp : s.ev.p = .greq r) :
    exec .homeLostAnswer s = .next (grantEntry ⟨r, [], grantWord (if r.excl then 2 else 1) 2 0 0⟩ s) := by
  simp [exec, execHomeLostAnswer, hp]

/-! ### A release that leaves (R123, R124) -/

/-- The sub-blocks that an exclusive hold of an image has written (R116, R124). -/
def dirtySubs (s : State) (w : WriteBehind) : List Nat :=
  let g := (guardOf s w.rel.guard).getD {}
  if w.rel.excl && !g.home then (List.range g.nsb).filter (fun i => tget s.dirty (w.key / 256 + i) false) else []

/-- The release has left, with its dirty sub-blocks. -/
def releaseSent (id : Nat) (w : WriteBehind) (s : State) : State :=
  postLeg (coreEnd w.rel.cid) (vergerEnd w.rel.guard) 15 35 0 0 56 .guardRelease
    { a := id, p := .grel { w.rel with dirty := dirtySubs s w } }
    { s with wbs := tput s.wbs id { w with
        rel := { w.rel with dirty := dirtySubs s w }, sent := true
        data := (dirtySubs s w).flatMap fun i => mread s.mem (w.key + 256 * i) 256 } }

theorem releaseSent_now (id : Nat) (w : WriteBehind) (s : State) : (releaseSent id w s).now = s.now := postLeg_now ..

theorem leg_releaseSent (id : Nat) (w : WriteBehind) (s : State) (a b : End) (n m : Nat) :
    leg (releaseSent id w s) a b n m = leg s a b n m := leg_postLeg ..

theorem releaseSent_due (id : Nat) (w : WriteBehind) (s : State) :
    due (releaseSent id w s) (s.now + leg s (coreEnd w.rel.cid) (vergerEnd w.rel.guard) 15 35) .guardRelease
      { a := id, p := .grel { w.rel with dirty := dirtySubs s w } } := postLeg_due _ _ _ _ _ _ _ _ _ _ rfl

section
variable {s : State} {w : WriteBehind} (hw : tfind s.wbs s.ev.a = some w) (hl : homeLost s w.rel.cid w.rel.guard = false)
  (hb : ∀ i ∈ w.accs, (∀ a, tfind s.accs i = some a → a.performed = true)
    ∧ (∀ c, tfind s.cmds i = some c → cmdWrites c = false) ∧ vecOpen s w.rel.cid i = false)
  (ha : ∀ p ∈ s.wbs, p.1 < s.ev.a → p.2.rel.cid = w.rel.cid → vergerEnd p.2.rel.guard = vergerEnd w.rel.guard → p.2.sent = true)
include hw hl hb ha

theorem exec_releaseSend_of_ready :
    exec .releaseSend s = .next (
      let g := (guardOf s w.rel.guard).getD {}
      if dirtySubs s w = [] then releaseSent s.ev.a w s
      else postLeg (coreEnd w.rel.cid) (homeEnd w.rel.guard g.base) 30 50 (8 * (dirtySubs s w).length + 160) 2
        (256 * (dirtySubs s w).length) .writeBehindComplete { a := s.ev.a } (releaseSent s.ev.a w s)) := by
  show execReleaseSend s = _
  unfold execReleaseSend
  dsimp only
  rw [hw]
  dsimp only
  rw [if_neg (by simp [hl]), if_neg]
  · rfl
  · rw [Bool.or_eq_true, not_or]
    constructor
    · simp only [List.any_eq_true, not_exists, not_and, Bool.or_eq_true, not_or]
      intro i hi
      obtain ⟨h1, h2, h3⟩ := hb i hi
      refine ⟨⟨?_, ?_⟩, by simp [h3]⟩
      · cases hf : tfind s.accs i with
        | none => simp
        | some a => simp [h1 a hf]
      · cases hf : tfind s.cmds i with
        | none => simp
        | some c => simp [h2 c hf]
    · simp only [List.any_eq_true, not_exists, not_and, Bool.and_eq_true, beq_iff_eq, decide_eq_true_eq]
      rintro p hp ⟨⟨hlt, hc⟩, hv⟩
      simp [ha p hp hlt hc hv]

/-- A release whose earlier writes are performed leaves, and the write-behind of its dirty sub-blocks with it. -/
theorem exec_releaseSend_spec :
    ∃ t, exec .releaseSend s = .next t ∧ t.mem = s.mem
      ∧ due t (s.now + leg s (coreEnd w.rel.cid) (vergerEnd w.rel.guard) 15 35) .guardRelease
          { a := s.ev.a, p := .grel { w.rel with dirty := dirtySubs s w } }
      ∧ (dirtySubs s w ≠ [] → due t (s.now + leg s (coreEnd w.rel.cid)
          (homeEnd w.rel.guard ((guardOf s w.rel.guard).getD {}).base) 30 50 + 8 * (dirtySubs s w).length + 160)
          .writeBehindComplete { a := s.ev.a }) := by
  have he := exec_releaseSend_of_ready hw hl hb ha
  have hmem : (releaseSent s.ev.a w s).mem = s.mem := postLeg_mem ..
  dsimp only at he
  split at he
  next hn => exact ⟨_, he, hmem, releaseSent_due .., fun h => absurd hn h⟩
  next => exact ⟨_, he, (postLeg_mem ..).trans hmem, postLeg_agenda _ _ _ _ _ _ _ _ _ _ (releaseSent_due ..),
      fun _ => postLeg_due _ _ _ _ _ _ _ _ _ _ (by rw [releaseSent_now, leg_releaseSent]; omega)⟩

end

/-! ### Write-behinds (R124) -/

theorem exec_writeBehindComplete_of_page {s : State} {w : WriteBehind} {g : Guard} {i k a : Nat} (hw : tfind s.wbs s.ev.a = some w)
    (hg : guardOf s w.rel.guard = some g) (hd : homeDead s w.rel.guard = false) (hh : w.handled = true)
    (ho : ∀ p ∈ s.wbs, p.1 < s.ev.a → p.2.rel.guard = w.rel.guard → p.2.rel.dirty = []) (hs : w.rel.dirty = [i])
    (hc : guardCheck s w.rel.guard (g.base + 256 * i) g.tenant 256 = (a, .ok k)) :
    exec .writeBehindComplete s = .next (
      let u := engWrite (gOwn w.rel.guard) (g.base + 256 * i) g.tenant (w.data.take 256)
        (markDSpan (gOwn w.rel.guard) (g.base + 256 * i) 256 s)
      postLeg (homeEnd w.rel.guard g.base) (vergerEnd w.rel.guard) 15 35 0 0 56 .wbdone
        { w := w.rel.guard, a := w.ver, b := w.rel.cid } { u with wbs := tdel u.wbs s.ev.a }) := by
  have hn : (s.wbs.any fun p => decide (p.1 < s.ev.a) && p.2.rel.guard == w.rel.guard && !p.2.rel.dirty.isEmpty) = false := by
    rw [List.any_eq_false]
    intro p hp
    simp only [Bool.and_eq_true, decide_eq_true_eq, beq_iff_eq, not_and]
    rintro ⟨hlt, heq⟩
    simp [ho p hp hlt heq]
  show execWriteBehindComplete s = _
  simp only [execWriteBehindComplete, hw, hg, hd, hh, hn, hs, hc, List.findSome?, Bool.not_true, Bool.or_self, Bool.false_eq_true, if_false]
  rfl

theorem exec_wbdone_of_turn {s : State} {g : Guard} (hg : guardOf s s.ev.w = some g) (hb : vergerBusy s s.ev.w s.ev.b = false) :
    exec .wbdone s = .next (putGuard s.ev.w
      { g with wbver := s.ev.a, lastv := if s.ev.a = g.ver then false else g.lastv, lastMsg := s.now + 1 } s) := by
  show execWbdone s = _
  simp [execWbdone, hb, modGuard_of_found _ hg]

theorem exec_wbdone_of_busy {s : State} (hb : vergerBusy s s.ev.w s.ev.b = true) :
    exec .wbdone s = .next (post (s.now + 1) .wbdone (laterEv s) s) := by
  show execWbdone s = _
  simp [execWbdone, hb]

/-! ### A failed package (R127) -/

/-- The descriptor without the holders, bindings and requests of a package. -/
def withoutPkg (failed : Nat) (g : Guard) : Guard := { g with
  holders := g.holders.filter fun h => pkgOfC h.1 != failed
  binds := g.binds.filter fun h => pkgOfC h.1 != failed
  waiting := g.waiting.filter fun r => pkgOfC r.cid != failed }

/-- A guard that had a holder in the package. -/
def lostHolder (failed : Nat) (g : Guard) : Bool := g.holders.any fun h => pkgOfC h.1 == failed

/-- The descriptor `h` of a guard that stood as `g` when the package failed: no holder and no request of the package, and BROKEN where it
lost a holder and no other asked (R127). -/
def clearedOf (failed : Nat) (g h : Guard) : Prop :=
  (∀ x ∈ h.holders, pkgOfC x.1 ≠ failed) ∧ (∀ r ∈ h.waiting, pkgOfC r.cid ≠ failed)
  ∧ ((∃ x ∈ g.holders, pkgOfC x.1 = failed) → (∀ r ∈ g.waiting, pkgOfC r.cid = failed) → h.st = .broken)

/-- What the failure of a package does to one guard. -/
def failGuard (failed : Nat) (s : State) (p : Nat × Guard) : State :=
  if lostHolder failed p.2 then breakG (word p.1) (withoutPkg failed p.2) s else putGuard (word p.1) (withoutPkg failed p.2) s

theorem exec_guardPackageFailure_of_home {s : State} (hh : ∀ p ∈ s.guards, p.2.home = true) :
    ∃ u, exec .guardPackageFailure s
      = .next ((s.guards.filter fun p => gPkg (word p.1) == s.ev.a).foldl (failGuard s.ev.b) u) := by
  show ∃ u, execGuardPackageFailure s = _
  unfold execGuardPackageFailure
  extract_lets failed mine gone lost waits
  have hn : waits = none := List.findSome?_eq_none_iff.mpr fun p hp => by
    have h := hh p (List.mem_of_mem_filter hp)
    simp [stampPages, h]
  rw [hn]
  exact ⟨_, rfl⟩

/-- A home guard that breaks: who holds it and who waits were among those that asked, and it is BROKEN where none waited. -/
theorem breakG_of_home {g : Guard} (gid : Word) (s : State) (hh : g.home = true) : ∃ h u, breakG gid g s = putGuard gid h u
    ∧ u.guards = s.guards ∧ h.waiting ⊆ g.waiting
    ∧ (∀ x ∈ h.holders, x ∈ g.holders ∨ ∃ r ∈ g.waiting, x = (r.cid, r.entry))
    ∧ (g.waiting = [] → h.st = .broken) := by
  let v : Guard := { g with ver := nextVer g.ver, lastv := false, st := .broken }
  by_cases he : g.holders.isEmpty = true
  · have hb : breakG gid g s = putGuard gid (serveG gid 1 v s).1 (serveG gid 1 v s).2 := by simp [breakG, repairG, hh, he, v]
    obtain ⟨h1, -, h2, h3⟩ := serveG_spec gid 1 v s
    refine ⟨_, _, hb, h1, h2, h3, fun hw => ?_⟩
    rw [serveG_of_empty gid 1 s (show v.waiting = [] from hw)]
    rfl
  · exact ⟨v, s, by simp [breakG, repairG, hh, he, v], rfl, List.Subset.refl _, fun x hx => .inl hx, fun _ => rfl⟩

theorem failGuard_spec {failed : Nat} {p : Nat × Guard} (s : State) (hh : p.2.home = true) :
    ∃ h u, failGuard failed s p = putGuard (word p.1) h u ∧ u.guards = s.guards ∧ clearedOf failed p.2 h := by
  have hol : ∀ x ∈ (withoutPkg failed p.2).holders, pkgOfC x.1 ≠ failed := fun x hx => by
    simpa using (List.mem_filter.mp hx).2
  have wai : ∀ r ∈ (withoutPkg failed p.2).waiting, pkgOfC r.cid ≠ failed := fun r hr => by
    simpa using (List.mem_filter.mp hr).2
  cases hl : lostHolder failed p.2 with
  | true =>
    obtain ⟨h, u, he, hu, hw, hx, hb⟩ := breakG_of_home (g := withoutPkg failed p.2) (word p.1) s hh
    refine ⟨h, u, by rw [failGuard, if_pos hl, he], hu, fun x hm => ?_, fun r hr => wai r (hw hr), fun _ hall => hb ?_⟩
    · rcases hx x hm with hm | ⟨r, hr, rfl⟩
      · exact hol x hm
      · exact wai r hr
    · exact List.filter_eq_nil_iff.mpr fun r hr => by simp [hall r hr]
  | false =>
    refine ⟨_, s, by rw [failGuard, if_neg (by simp [hl])], rfl, hol, wai, fun ⟨x, hx, hf⟩ => ?_⟩
    have := List.any_eq_false.mp hl x hx
    simp [hf] at this

/-- What a step of a fold establishes for its own key, and the steps for other keys keep, holds after a fold over different keys. -/
theorem foldl_establishes {α κ : Type} {key : α → κ} {Q : State → Prop} {f : State → α → State} {l : List α} {a : α}
    (ha : a ∈ l) (hn : (l.map key).Nodup) (hset : ∀ s, Q (f s a))
    (hkeep : ∀ s, ∀ b ∈ l, key b ≠ key a → Q s → Q (f s b)) (s : State) :
    Q (l.foldl f s) := by
  induction l generalizing s with
  | nil => cases ha
  | cons b l ih =>
    obtain ⟨hb, hl⟩ := List.nodup_cons.mp hn
    rcases List.mem_cons.mp ha with rfl | ha
    · exact List.foldlRecOn (motive := Q) l f (hset s) fun u hu c hc =>
        hkeep u c (List.mem_cons_of_mem a hc) (fun he => hb (he ▸ List.mem_map_of_mem hc)) hu
    · exact ih ha hl (fun u c hc => hkeep u c (List.mem_cons_of_mem b hc)) (f s b)

theorem word_inj {a b : Nat} (ha : a < 2 ^ 64) (hb : b < 2 ^ 64) (h : word a = word b) : a = b := by
  have h' := congrArg BitVec.toNat h
  rwa [BitVec.toNat_ofNat, BitVec.toNat_ofNat, Nat.mod_eq_of_lt ha, Nat.mod_eq_of_lt hb] at h'

theorem exec_guardPackageFailure_clears {s : State} (hn : (s.guards.map (·.1)).Nodup)
    (hh : ∀ p ∈ s.guards, p.1 < 2 ^ 64 ∧ p.2.home = true) :
    ∃ t, exec .guardPackageFailure s = .next t
      ∧ ∀ p ∈ s.guards, gPkg (word p.1) = s.ev.a → ∃ h, guardOf t (word p.1) = some h ∧ clearedOf s.ev.b p.2 h := by
  obtain ⟨u, he⟩ := exec_guardPackageFailure_of_home fun p hp => (hh p hp).2
  refine ⟨_, he, fun p hp hpk => ?_⟩
  refine foldl_establishes (key := (·.1)) (Q := fun t => ∃ h, guardOf t (word p.1) = some h ∧ clearedOf s.ev.b p.2 h) (a := p) ?_
    (hn.sublist (List.filter_sublist.map _)) (fun v => ?_) (fun v q hq hne hv => ?_) u
  · exact List.mem_filter.mpr ⟨hp, beq_iff_eq.mpr hpk⟩
  · obtain ⟨h, w, hf, -, hs⟩ := failGuard_spec (failed := s.ev.b) v (hh p hp).2
    exact ⟨h, by rw [hf, guardOf_putGuard_self], hs⟩
  · have hq' := List.mem_of_mem_filter hq
    obtain ⟨h, w, hf, hw, -⟩ := failGuard_spec (failed := s.ev.b) v (hh q hq').2
    have hk : word p.1 ≠ word q.1 := fun hk => hne (word_inj (hh p hp).1 (hh q hq').1 hk).symm
    have hg : guardOf (failGuard s.ev.b v q) (word p.1) = guardOf v (word p.1) := by
      rw [hf, guardOf_putGuard_of_ne _ _ hk]
      unfold guardOf
      rw [hw]
    rw [hg]
    exact hv

/-- Settles O49: each clause is one message of the protocol in its turn, or one way that it ends. -/
theorem guardProtocol : Obligations.GuardProtocol := by
  unfold Obligations.GuardProtocol
  refine ⟨fun s r g hp hd hq hr hb hg hh => ⟨exec_guardRequest_of_grantable hp hd hq hr hb hg hh,
      exec_guardRequest_of_held hp hd hq hr hb hg hh⟩,
    fun s r hp => ⟨_, exec_guardRequestResend hp, postLeg_guards .., postLeg_mem .., postLeg_due _ _ _ _ _ _ _ _ _ _ rfl⟩,
    fun s rel g hp hd hq hr hb hg hh => exec_guardRelease_of_last_holder hp hd hq hr hb hg hh, ?_, ?_,
    fun s d hp => ⟨fun hr hg => ?_, fun hm hr ho hd => ?_⟩, ?_, fun s w => exec_releaseSend_spec, ?_,
    fun s g hg => ⟨exec_wbdone_of_turn hg, exec_wbdone_of_busy⟩, fun s => exec_guardPackageFailure_clears⟩
  case refine_1 =>
    intro s f g hp hg hf u
    exact ⟨_, exec_guardForward_of_holder hp hg hf, postLeg_mem .., postLeg_guards .., postLeg_due _ _ _ _ _ _ _ _ _ _ rfl⟩
  case refine_2 =>
    intro s f g a c n hp hg hf hd hh h1 hw hn hc
    have he := exec_guardForward_of_failed hp hg hf hd hn hc
    rw [breakDelivery_of_only_holder _ _ _ hh h1 hw] at he
    exact ⟨_, _, nextVer g.ver, he, guardOf_putGuard_self .., h1.symm, rfl, List.mem_append_right _ List.mem_cons_self⟩
  case refine_3 => rw [exec_grantArrival hp, grantEntry_of_away hr hg]
  case refine_4 =>
    obtain ⟨he, hmem⟩ := grantEntry_spec hr ho hd
    rw [exec_grantArrival hp, exec_grantRetry hp]
    refine ⟨_, _, rfl, rfl, he, he, fun hn => ?_, fun a ha => ?_⟩
    · rw [hmem]
      exact mget_placeCells hm.1 hn
    · rw [hmem]
      exact mget_placeCells_of_ne _ _ ha
  case refine_5 =>
    intro s r hp rk q pay x hr ho hd
    obtain ⟨he, hmem⟩ := grantEntry_spec (d := ⟨r, [], pay⟩) hr ho hd
    exact ⟨_, exec_homeLostAnswer hp, he, hmem⟩
  case refine_6 =>
    intro s w g i k a hw hg hd hh ho hs hc
    refine ⟨_, _, exec_writeBehindComplete_of_page hw hg hd hh ho hs hc, ?_, postLeg_due _ _ _ _ _ _ _ _ _ _ rfl, postLeg_mem ..⟩
    rw [postLeg_wbs]
    exact tfind_tdel_self ..

end Sys2Proof.Machine
end

section
/-!
SUPPORT. The frame of the scalar instructions (`Obligations.ScalarFrame`): each step of such an instruction changes at most one g register
beside the strand's own progress (`onlyChanges`), and the steps compose.
-/

namespace Sys2Proof.Machine

/-! ### The frame and its composition -/

/-- A step that leaves everything but g register `r` of strand `sid` and the strands' own progress, and stays at the same instruction. -/
def onlyChanges (sid r : Nat) (s t : State) : Prop :=
  keepsRest s t ∧ keepsG s t sid r ∧ t.cur.sid = s.cur.sid ∧ t.cur.ipc = s.cur.ipc

theorem keepsRest_trans {s t u : State} (h : keepsRest s t) (k : keepsRest t u) : keepsRest s u := by
  obtain ⟨hm, hk, hq, hv, ha, hmac, hti, hp, htr, hc⟩ := h
  obtain ⟨km, kk, kq, kv, ka, kmac, kti, kp, ktr, kc⟩ := k
  refine ⟨fun a => (km a).trans (hm a), kk.trans hk, kq.trans hq, kv.trans hv, ka.trans ha, kmac.trans hmac, kti.trans hti, kp.trans hp,
    fun i => (ktr i).trans (htr i), fun c => ?_⟩
  rw [kc c, hc c]

theorem onlyChanges_trans {sid r : Nat} {s t u : State} (h : onlyChanges sid r s t) (k : onlyChanges sid r t u) :
    onlyChanges sid r s u := by
  obtain ⟨hr, hg, hs, hi⟩ := h
  obtain ⟨kr, kg, ks, ki⟩ := k
  exact ⟨keepsRest_trans hr kr, fun i j hj hn => (kg i j hj hn).trans (hg i j hj hn), ks.trans hs, ki.trans hi⟩

theorem keepsG_of_g {s t : State} (h : t.g = s.g) (sid r : Nat) : keepsG s t sid r := fun i j _ _ => by simp [gGet, h]

theorem onlyChanges_refl (sid r : Nat) (s : State) : onlyChanges sid r s s :=
  ⟨⟨fun _ => rfl, rfl, rfl, rfl, rfl, rfl, rfl, rfl, fun _ => rfl, fun _ => rfl⟩, keepsG_of_g rfl sid r, rfl, rfl⟩

/-- No breakpoint stands at the instruction after such a step either. -/
theorem noBreak_of_onlyChanges {sid r : Nat} {s t : State} (h : onlyChanges sid r s t) (hb : noBreak s) : noBreak t := by
  obtain ⟨⟨-, -, -, -, -, -, -, hp, -, hc⟩, -, hs, hi⟩ := h
  unfold noBreak at *
  rwa [hs, hi, pkeyOf, hc, partAt, hp]

/-! ### The steps of an instruction -/

section
variable (sid r : Nat) (s : State)

theorem atIssue_onlyChanges : onlyChanges sid r s (atIssue s) := onlyChanges_refl sid r s

theorem transfer_onlyChanges (t k : Nat) : onlyChanges sid r s (transfer t k s) := onlyChanges_refl sid r s

theorem post_onlyChanges (c : Nat) (i : Instr) (a : EvArg) : onlyChanges sid r s (post c i a s) := onlyChanges_refl sid r s

end

/-- A change of one slot outside its trap registers. -/
theorem putSlot_onlyChanges {i : Nat} {x : Slot} {s : State} (sid r : Nat) (h : trapRegs x = trapRegs (slotAt s i)) :
    onlyChanges sid r s (putSlot i x s) := by
  refine ⟨⟨fun _ => rfl, rfl, rfl, rfl, rfl, rfl, rfl, rfl, fun j => ?_, fun _ => rfl⟩, keepsG_of_g rfl sid r, rfl, rfl⟩
  by_cases hj : j = i
  · rw [hj, slotAt_putSlot_self, h]
  · rw [slotAt_putSlot_of_ne _ _ hj]

theorem modSlot_onlyChanges (sid r : Nat) (s : State) (i : Nat) (f : Slot → Slot) (h : ∀ x, trapRegs (f x) = trapRegs x) :
    onlyChanges sid r s (modSlot i f s) := putSlot_onlyChanges sid r (h _)

theorem addBusy_onlyChanges (sid r : Nat) (s : State) (i n : Nat) : onlyChanges sid r s (addBusy i n s) :=
  modSlot_onlyChanges sid r s i (fun x => { x with busy := x.busy ++ [n] }) fun _ => rfl

/-- A read of an operand (R119, R41). -/
theorem onlyChanges_of_readKeeps {s t : State} (h : readKeeps s t) (sid r : Nat) : onlyChanges sid r s t := by
  obtain ⟨ht, hs⟩ := h
  have hc := readKeeps_coreAt ⟨ht, hs⟩
  refine ⟨⟨fun a => ?_, ?_, ?_, ?_, ?_, ?_, ?_, ?_, fun i => by rw [hs i]; rfl, fun c => by rw [hc c]⟩,
    keepsG_of_g ?_ sid r, ?_, ?_⟩
  all_goals rw [ht]

/-- The end of an issue that writes no trace record. -/
theorem onlyChanges_of_endKeeps {s t : State} (h : endKeeps s t) (hm : t.mem = s.mem) (hp : t.parts = s.parts) (sid r : Nat) :
    onlyChanges sid r s t := by
  obtain ⟨ht, hs, hc, -⟩ := h
  refine ⟨⟨fun a => by rw [hm], ?_, ?_, ?_, ?_, ?_, ?_, hp, fun i => by rw [hs i]; rfl, fun c => ?_⟩, keepsG_of_g ?_ sid r, ?_, ?_⟩
  case refine_7 => rw [hc c]
  all_goals rw [ht]

theorem mem_of_stores {s t : State} (h : t.stores = s.stores) : t.mem = s.mem := congrArg Prod.fst h

theorem killReg_parts (n : Nat) (s : State) : (killReg n s).parts = s.parts := by
  unfold killReg; dsimp only; split_ifs <;> rfl

theorem markLast_onlyChanges (sid r : Nat) (o : Ops) (s : State) : onlyChanges sid r s (markLast o s) := by
  refine onlyChanges_of_endKeeps (markLast_endKeeps o s) (mem_of_stores (markLast_stores o s)) ?_ sid r
  unfold markLast
  dsimp only
  split_ifs <;> simp [killReg_parts]

/-- A write of a g register is a change of its entry and of the slot's masks. -/
theorem gSet_onlyChanges {r : Nat} (sid : Nat) (x : Word) (s : State) (hr : r < 64) : onlyChanges sid r s (gSet sid r x s) := by
  unfold gSet
  split
  · exact onlyChanges_refl sid r s
  · have hg : onlyChanges sid r s { s with g := tput s.g (sid * 64 + r) x, file := fileHold s (fileKey sid r) } :=
      ⟨⟨fun _ => rfl, rfl, rfl, rfl, rfl, rfl, rfl, rfl, fun _ => rfl, fun _ => rfl⟩, gGet_of_tput rfl hr, rfl, rfl⟩
    exact onlyChanges_trans hg (modSlot_onlyChanges sid r _ sid (fun sl => { sl with
      pres := sl.pres ||| word (2 ^ r), live := sl.live ||| word (2 ^ r), wrG := sl.wrG ||| word (2 ^ r)
      kills := sl.kills &&& ~~~ word (2 ^ r) }) fun _ => rfl)

/-- A result for a g register changes that register alone, now or not yet (R213). -/
theorem deliver_onlyChanges {r : Nat} (lat : Nat) (x : Word) (s : State) (hr : r < 64) :
    onlyChanges s.cur.sid r s (deliver r lat x s) := by
  rcases Nat.eq_zero_or_pos r with rfl | h0
  · exact onlyChanges_refl s.cur.sid 0 s
  · rcases Nat.lt_or_ge 1 lat with hl | hl
    · rw [deliver_of_one_lt x h0 hr hl]
      exact onlyChanges_trans (addBusy_onlyChanges _ _ s _ _) (post_onlyChanges ..)
    · rw [deliver_of_le_one x h0 hr hl]
      exact onlyChanges_trans (gSet_onlyChanges _ x s hr) (modSlot_onlyChanges _ _ _ _ _ fun _ => rfl)

/-! ### The completion -/

theorem loopEnd_trapRegs (x : Slot) (ipc next : Nat) : trapRegs (loopEnd x ipc next).1 = trapRegs x := by
  simp only [trapRegs, loopEnd, apply_ite Prod.fst, apply_ite Slot.tcause, apply_ite Slot.tvalue, apply_ite Slot.tval2,
    apply_ite Slot.tepc, apply_ite Slot.hbump, apply_ite Slot.hlim, ite_self]

theorem advance_trapRegs (s : State) (x : Slot) : trapRegs (advance s x).1 = trapRegs x := by
  unfold advance
  split
  · rfl
  · exact loopEnd_trapRegs ..

theorem breakHook_of_noBreak {s : State} (h : noBreak s) : breakHook s.cur.sid s = s := by
  unfold noBreak at h
  simp [breakHook, h]

/-- The marks of an issue, without what a breakpoint adds (R31). -/
def issueMarked (s : State) : State :=
  modCore (cidOf s.cur.sid) (fun c => if (slotAt s s.cur.sid).xseq then { c with lastX := slotNo s.cur.sid, usedX := s.now + 1 }
    else { c with lastA := slotNo s.cur.sid, usedA := s.now + 1 })
    (modSlot s.cur.sid (fun x => { x with lastPc := s.cur.ipc, lastAt := s.now + 1 }) s)

theorem markIssue_eq (s : State) : markIssue s.cur.sid s = breakHook s.cur.sid (issueMarked s) := rfl

theorem issueMarked_endKeeps (s : State) : endKeeps s (issueMarked s) := by
  refine endKeeps_trans (modSlot_endKeeps _ _ s fun _ => rfl) (modCore_endKeeps _ _ _ fun c => ?_)
  split <;> rfl

theorem markIssue_onlyChanges {s : State} (sid r : Nat) (hb : noBreak s) : onlyChanges sid r s (markIssue s.cur.sid s) := by
  have hm : onlyChanges sid r s (issueMarked s) := onlyChanges_of_endKeeps (issueMarked_endKeeps s) rfl rfl sid r
  have hn : breakHook s.cur.sid (issueMarked s) = issueMarked s := breakHook_of_noBreak (noBreak_of_onlyChanges hm hb)
  rwa [markIssue_eq, hn]

theorem detach_parts (sid : Nat) (s : State) : (detach sid s).parts = s.parts := by
  unfold detach
  split
  · rfl
  · split <;> rfl

theorem forward_parts (sid next : Nat) (s : State) : (forward sid next s).parts = s.parts := by
  unfold forward
  split
  · rfl
  · split
    · exact foldl_leaves State.parts (f := sendForward sid next) (fun _ _ => rfl) _ _
    · split
      · rfl
      · dsimp only
        split
        · exact detach_parts ..
        · rfl

theorem forward_onlyChanges (sid r i next : Nat) (s : State) : onlyChanges sid r s (forward i next s) :=
  onlyChanges_of_endKeeps (forward_endKeeps i next s) (mem_of_stores (forward_stores i next s)) (forward_parts i next s) sid r

theorem completeIssue_onlyChanges {s : State} (sid r : Nat) (hb : noBreak s) : onlyChanges sid r s (completeIssue s) := by
  have hp : onlyChanges sid r s (putSlot s.cur.sid (advancedSlot s) s) :=
    putSlot_onlyChanges sid r (advance_trapRegs s (slotAt s s.cur.sid))
  rw [completeIssue_eq, issuedState]
  exact onlyChanges_trans hp (onlyChanges_trans (markIssue_onlyChanges sid r (noBreak_of_onlyChanges hp hb)) (forward_onlyChanges ..))

/-! ### Whole instructions -/

/-- The reads of an instruction and its last uses. -/
theorem reads_onlyChanges {s t : State} (h : readKeeps (atIssue s) t) (r : Nat) (o : Ops) :
    onlyChanges s.cur.sid r s (markLast o t) :=
  onlyChanges_trans (onlyChanges_of_readKeeps h _ _) (markLast_onlyChanges _ _ o t)

/-- The end of an instruction with a result for a g register, after reads alone (R119, R213). -/
theorem withResult_keeps {o : Ops} {s t : State} {lat : Nat} {x : Word} (hk : readKeeps (atIssue s) t) (hr : dstRid o < 64)
    (hb : noBreak s) :
    keepsRest s (withResult o lat x t) ∧ keepsG s (withResult o lat x t) s.cur.sid (dstRid o) := by
  have hread := reads_onlyChanges hk (dstRid o) o
  have hdel : onlyChanges s.cur.sid (dstRid o) s (deliver (dstRid o) lat x (markLast o t)) := by
    have h := deliver_onlyChanges lat x (markLast o t) hr
    rw [hread.2.2.1] at h
    exact onlyChanges_trans hread h
  obtain ⟨hrest, hg, -⟩ := onlyChanges_trans hdel (completeIssue_onlyChanges _ _ (noBreak_of_onlyChanges hdel hb))
  exact ⟨hrest, hg⟩

/-- Every instruction with two sources and one result is `alu2` of some function and latency. -/
theorem resultInstrs_alu2 : ∀ mk ∈ resultInstrs, ∃ f lat, ∀ o s, exec (mk o) s = alu2 f lat o s := by
  simp only [resultInstrs, twoSourceTable, List.map, List.cons_append, List.nil_append, List.forall_mem_cons, List.not_mem_nil,
    false_implies, implies_true, and_true]
  refine ⟨?_, ?_, ?_, ?_, ?_, ?_, ?_, ?_, ?_, ?_, ?_, ?_, ?_, ?_, ?_, ?_, ?_, ?_, ?_, ?_, ?_, ?_, ?_, ?_⟩
  all_goals exact ⟨_, _, fun _ _ => rfl⟩

theorem alu2_of_reads {o : Ops} {s t : State} {a b : Word} (f : Word → Word → Word) (lat : Word → Word → Nat)
    (h : readsAB .b o s a b t) (hd : dstFree o t) : alu2 f lat o s = .next (withResult o (lat a b) (f a b) t) := by
  have hk := readsAB_readKeeps h
  obtain ⟨hc, u, ha, hb⟩ := h
  unfold dstFree at hd
  exact issue_of_result hc hk (by simp [bind_apply, ha, hb, hd, lastUse, writeResult])

/-- Every conditional branch is `branch` of some condition. -/
theorem branchTable_branch : ∀ row ∈ branchTable, ∃ cond, ∀ o s, exec (row.1 o) s = branch cond o s := by
  simp only [branchTable, List.forall_mem_cons, List.not_mem_nil, false_implies, implies_true, and_true]
  refine ⟨?_, ?_, ?_, ?_, ?_, ?_⟩
  all_goals exact ⟨_, fun _ _ => rfl⟩

theorem branch_of_reads {o : Ops} {s t : State} {a b : Word} (cond : Word → Word → Bool) (h : readsAB .b o s a b t) :
    branch cond o s = .next (completeIssue
      (if cond a b then transfer (relTarget s (immR o)) 2 (markLast o t) else markLast o t)) := by
  have hcur := readKeeps_cur (readsAB_readKeeps h)
  obtain ⟨hc, u, ha, hb⟩ := h
  refine issue_of_ok hc (by by_cases hab : cond a b <;> simp [bind_apply, ha, hb, lastUse, hab]) ?_
  split <;> simp [transfer, markLast_cur, hcur, atIssue]

/-- Settles O22: reads, last uses, the result and the completion each change no more than the frame allows. -/
theorem scalarFrame : Obligations.ScalarFrame := by
  unfold Obligations.ScalarFrame
  refine ⟨fun o s a b t lat x h => withResult_keeps (readsAB_readKeeps h),
    fun o s a t lat x h => withResult_keeps (src_readsOnly _ _ _ _ _ _ h.2),
    fun o s b t lat x h => withResult_keeps (readsB_readKeeps h), fun row hrow o s a b t u h hb he => ?_,
    fun mk hmk o s a b t u h hd hr hb he => ?_⟩
  · obtain ⟨cond, hx⟩ := branchTable_branch row hrow
    rw [hx, branch_of_reads cond h, Host.Outcome.next.injEq] at he
    have hread := reads_onlyChanges (readsAB_readKeeps h) 0 o
    have hjump : onlyChanges s.cur.sid 0 s (if cond a b then transfer (relTarget s (immR o)) 2 (markLast o t) else markLast o t) := by
      split
      · exact onlyChanges_trans hread (transfer_onlyChanges ..)
      · exact hread
    obtain ⟨hrest, hg, -⟩ := onlyChanges_trans hjump (completeIssue_onlyChanges _ _ (noBreak_of_onlyChanges hjump hb))
    exact he ▸ ⟨hrest, hg⟩
  · obtain ⟨f, lat, hx⟩ := resultInstrs_alu2 mk hmk
    rw [hx, alu2_of_reads f lat h hd, Host.Outcome.next.injEq] at he
    exact he ▸ withResult_keeps (readsAB_readKeeps h) hr hb

end Sys2Proof.Machine
end

section
/-!
SUPPORT. The guard instructions (`Obligations.GuardInstructions`) fail as stated: a strand's question to the Verger is to leave every byte of
memory (`asksVerger`), and no premise says that no breakpoint stands at the instruction. One that does writes a trace record into the
partition's trace ring as the instruction issues (R460, R461).
-/

namespace Sys2Proof.Machine

/-- A strand about to issue at an enabled breakpoint, in a partition whose trace ring stands in the scratchpad's window. -/
def breakpointAtGfree : State :=
  { now := 100, slots := [(1, { st := .ready })], cur := { sid := 1, ipc := 0x1000, words := [0] }
    pkgs := [(0, { present := true })]
    parts := [(0, { bps := [word 0x1001], trcfg := 1#64, trbase := windowBase })] }

/-- The memory that an event leaves. -/
def memLeft (r : Res) : Option (List Host.Cell) :=
  match r with
  | .next t => some t.mem
  | _ => none

/-- The GFREE at the breakpoint leaves a trace record in memory, which was empty. -/
theorem memLeft_breakpointAtGfree : memLeft (exec (.gfree {}) breakpointAtGfree) ≠ some [] := by decide +kernel

/-- Refutes O48: GFREE of guard 0 at an enabled breakpoint sends its question and writes a trace record too (R460), so memory does not
stay; the statement's other clauses are not touched by this. -/
theorem not_guardInstructions : ¬ Obligations.GuardInstructions := by
  unfold Obligations.GuardInstructions
  rintro ⟨-, hask, -⟩
  have hreads : readsA .a {} breakpointAtGfree 0#64 (atIssue breakpointAtGfree) := ⟨rfl, rfl⟩
  obtain ⟨⟨z, hz, -, -, -, -, -, -, -, hmem, -⟩, -⟩ := hask {} breakpointAtGfree 0#64 _ hreads (by decide) (by decide) (by decide)
  refine memLeft_breakpointAtGfree ?_
  rw [hz, memLeft, hmem]
  rfl

end Sys2Proof.Machine
end

section
/-!
SUPPORT. Scalar stores (`Obligations.StoresIssueTheirAccess`): the format that decides the bytes, then one run of `storeOp` for plain
stores, STREL and converting stores.
-/

namespace Sys2Proof.Machine

/-! ### The format of the pointer -/

theorem loadForm_of_raw {p : Word} (n : Nat) (e : Ext1) (convOk : Bool) (s : State) (h : wfield p 56 8 = 0) :
    loadForm p n e convOk s = .ok ((n, e, false), s) := by
  obtain ⟨h60, h57, h56⟩ : wfield p 60 4 = 0 ∧ wfield p 57 3 = 0 ∧ wfield p 56 1 = 0 := by
    simp only [wfield, nfield] at h ⊢
    omega
  simp [loadForm, fmtM, bind_apply, h60, h57, h56, Num.fmtRow]

/-- The converting formats are in the table of formats, with BLK 0 (R57, R240). -/
theorem fmtRow_of_convRow {c z : Nat} (h : convRow c = some z) : c ≠ 0 ∧ ∃ r, Num.fmtRow c = some r ∧ r.blk = 0 := by
  unfold convRow at h
  split at h
  case h_8 => cases h
  all_goals exact ⟨by decide, _, rfl, rfl⟩

theorem loadForm_of_conv {p : Word} {z : Nat} (n : Nat) (e : Ext1) (s : State) (hz : convRow (wfield p 60 4) = some z)
    (hp : wfield p 56 4 = 0) : loadForm p n e true s = .ok ((z, .fmt (wfield p 60 4), true), s) := by
  obtain ⟨h0, r, hr, hb⟩ := fmtRow_of_convRow hz
  obtain ⟨h57, h56⟩ : wfield p 57 3 = 0 ∧ wfield p 56 1 = 0 := by
    simp only [wfield, nfield] at hp ⊢
    omega
  simp [loadForm, bind_apply, fmtM_of_row s hr (h57.trans hb.symm) h56, h0, hz]

/-! ### The store's access -/

theorem sendStore_leaves {β : Type} (φ : State → β) (hx : ∀ sid s, φ (xchgIssued sid s) = φ s) (ha : ∀ a s, φ (sendAcc a s).2 = φ s)
    (ea : Nat) (bs : List Byte) (conv : Bool) (s : State) : φ (sendStore ea bs conv s) = φ s := by
  have hi (p : Prop) [Decidable p] (sid : Nat) : φ (if p then xchgIssued sid s else s) = φ s := by
    split
    · exact hx ..
    · rfl
  exact (ha _ _).trans (hi ..)

theorem xchgIssued_cur (sid : Nat) (s : State) : (xchgIssued sid s).cur = s.cur := by
  unfold xchgIssued
  split
  · exact modGang_cur ..
  · rfl

theorem sendAcc_cur (a : Acc) (s : State) : (sendAcc a s).2.cur = s.cur := by
  simp only [sendAcc]
  split <;> rfl

theorem sendStore_cur (ea : Nat) (bs : List Byte) (conv : Bool) (s : State) : (sendStore ea bs conv s).cur = s.cur :=
  sendStore_leaves State.cur xchgIssued_cur sendAcc_cur ea bs conv s

/-- The issue of a store changes no byte of memory (R135). -/
theorem sendStore_mem (ea : Nat) (bs : List Byte) (conv : Bool) (s : State) : (sendStore ea bs conv s).mem = s.mem :=
  sendStore_leaves State.mem (fun sid s => (xchgIssued_vecKeeps sid s).2.2.1) (fun a s => (sendAcc_vecKeeps a s).2.2.1) ea bs conv s

/-! ### The run of a store -/

theorem alignM_of_mod {ea n : Nat} (s : State) (h : ea % n = 0) : alignM ea n s = .ok ((), s) := by rw [alignM, if_pos h]; rfl

/-- The bytes that a store of `z` bytes writes, by the widening that its pointer's format gives (R240). -/
def storeBytes (e : Ext1) (z : Nat) (a : Word) : List Byte :=
  match e with
  | .fmt c => storeConv c z a
  | _ => natBytes z a.toNat

/-- STREL's wait is over: the strand's loads are performed, its stores acknowledged, in PACKAGE scope (R142). -/
def relDone (s : State) : Bool := loadsDone s s.cur.sid (inScope s.cur.sid 2) && storesDone s s.cur.sid (inScope s.cur.sid 2)

section
variable {o : Ops} {s t u : State} {p a : Word} {ea n z : Nat} {e : Ext1} {convOk conv rel : Bool}
variable (hb : readsB .a o s p t) (ha : srcA o t = .ok (a, u)) (hf : loadForm p n .zext convOk u = .ok ((z, e, conv), u))
  (he : (ea : Int) = (wfield p 0 56 : Nat) + immR o * z) (hl : ea < 2 ^ 56) (hal : ea % z = 0) (hr : rangeOk u ea z false true)
  (hs : stepM ea u = .ok ((), u))
include hb ha hf he hl hal hr hs

/-- A store that passes its checks issues its access (R235 to R240). -/
theorem storeOp_of_free (hd : rel = true → relDone u = true) (hg : gateFree u ea true) : storeOp n convOk rel o s
    = .next (completeIssue (sendStore ea (storeBytes e z a) conv (markLast o u))) := by
  obtain ⟨m, hm⟩ := rangeM_of_rangeOk hr
  have hcur : u.cur = (atIssue s).cur := (readKeeps_cur (src_readsOnly _ _ _ _ _ _ ha)).trans (readsB_cur hb)
  rw [gateFree] at hg
  refine issue_of_ok hb.1 ?_ ?_
  · simp only [bind_apply, hb.2, ha, hf, effAddr_of_eq u he hl, alignM_of_mod u hal, hm, hs, askM_apply, id]
    cases rel with
    | false =>
      simp only [bind_apply, hg, lastUse, updM_apply, issueStore, Bool.false_eq_true, if_false]
      rfl
    | true =>
      have hw := hd rfl
      rw [relDone] at hw
      simp only [bind_apply, hw, hg, lastUse, updM_apply, issueStore, if_true, waitUnless_true]
      rfl
  · rw [sendStore_cur, markLast_cur, hcur]
    rfl

/-- STREL waits (R142). -/
theorem storeOp_of_undone (hd : relDone u = false) : storeOp n convOk true o s = .next (waitState s) := by
  obtain ⟨m, hm⟩ := rangeM_of_rangeOk hr
  rw [relDone] at hd
  refine issue_of_wait hb.1 ?_
  simp only [bind_apply, hb.2, ha, hf, effAddr_of_eq u he hl, alignM_of_mod u hal, hm, hs, askM_apply, id, hd, if_true, waitUnless_false]

end

/-- A store through a RAW pointer (R239). -/
theorem storeOp_of_raw (n : Nat) (convOk : Bool) {o : Ops} {s t u : State} {p a : Word} {ea : Nat} (hb : readsB .a o s p t)
    (ha : srcA o t = .ok (a, u)) (hp : rawAt p (immR o * n) n ea) (hr : rangeOk u ea n false true) (hs : stepM ea u = .ok ((), u))
    (hg : gateFree u ea true) :
    storeOp n convOk false o s = .next (completeIssue (sendStore ea (natBytes n a.toNat) false (markLast o u))) := by
  obtain ⟨hraw, he, hl, hal⟩ := hp
  have hfree := storeOp_of_free (rel := false) hb ha (loadForm_of_raw n .zext convOk u hraw) he hl hal hr hs (fun h => nomatch h) hg
  exact hfree

/-- Settles O26: each clause is a run of `storeOp`, by the format that its pointer gives. -/
theorem storesIssueTheirAccess : Obligations.StoresIssueTheirAccess := by
  unfold Obligations.StoresIssueTheirAccess
  refine ⟨?plain, ?release, ?conv, fun ea bs conv s a => by rw [sendStore_mem]⟩
  case plain =>
    intro row hrow o s p t a u ea hb ha hp hr hs hg
    simp only [storeTable, List.mem_cons, List.not_mem_nil, or_false] at hrow
    rcases hrow with rfl | rfl | rfl | rfl
    · exact storeOp_of_raw 1 false hb ha hp hr hs hg
    · exact storeOp_of_raw 2 false hb ha hp hr hs hg
    · exact storeOp_of_raw 4 true hb ha hp hr hs hg
    · exact storeOp_of_raw 8 false hb ha hp hr hs hg
  case release =>
    intro o s p t a u ea hb ha ⟨hp, he, hl, hal⟩ hr hs
    have hf := loadForm_of_raw 8 .zext false u hp
    have he : (ea : Int) = (wfield p 0 56 : Nat) + immR o * (8 : Nat) := by exact_mod_cast he
    constructor
    · intro hld hst
      have hd : relDone u = true := by rw [relDone, hld, hst]; rfl
      have hfree := storeOp_of_free (rel := true) hb ha hf he hl hal hr hs fun _ => hd
      exact hfree
    · intro hd
      exact storeOp_of_undone hb ha hf he hl hal hr hs (by rwa [relDone, Bool.and_eq_false_iff])
  case conv =>
    intro o s p t a u ea z hb ha hz hp he hl hal hr hs
    have hfree := storeOp_of_free (rel := false) hb ha (loadForm_of_conv 4 .zext u hz hp) he hl hal hr hs fun h => nomatch h
    exact hfree

end Sys2Proof.Machine
end

section
/-!
SUPPORT. Accesses at their bank and their answers (`Obligations.AccessesPerformAndAnswer`): what an access does in its turn, then each
event that ends one.
-/

namespace Sys2Proof.Machine

/-! ### An access in its turn -/

/-- The bank or engine that serves an access notes it, and nothing else. -/
theorem tookTurn_eq (a : Acc) (s : State) :
    tookTurn a s = { s with banks := (tookTurn a s).banks, engines := (tookTurn a s).engines } := by
  unfold tookTurn engineTook
  split
  · rfl
  · split <;> rfl

@[simp] theorem tookTurn_mem (a : Acc) (s : State) : (tookTurn a s).mem = s.mem := by rw [tookTurn_eq]
@[simp] theorem tookTurn_g (a : Acc) (s : State) : (tookTurn a s).g = s.g := by rw [tookTurn_eq]
@[simp] theorem tookTurn_now (a : Acc) (s : State) : (tookTurn a s).now = s.now := by rw [tookTurn_eq]
@[simp] theorem tookTurn_pkgs (a : Acc) (s : State) : (tookTurn a s).pkgs = s.pkgs := by rw [tookTurn_eq]

/-- The walk of the page table reads memory and the table's base alone (R409). -/
theorem leafOf_congr {s t : State} (hm : t.mem = s.mem) (hp : t.pkgs = s.pkgs) (pkg va : Nat) : leafOf t pkg va = leafOf s pkg va := by
  have h64 : mem64 t = mem64 s := funext fun k => by rw [mem64, hm, mem64]
  have hpt : ptEntry t = ptEntry s := by unfold ptEntry; rw [h64]
  have hpk : pkgAt t pkg = pkgAt s pkg := by rw [pkgAt, hp, pkgAt]
  unfold leafOf leafAddr
  rw [hpt, hpk, h64]

/-- A page whose D is set needs no change before a write (R409). -/
theorem markD_of_dirty {s : State} {pkg va : Nat} (h : wfield (leafOf s pkg va) 4 1 = 1) : markD pkg va s = s := by
  simp [markD, h]

theorem due_post (c : Nat) (i : Instr) (x : EvArg) (s : State) : due (post c i x s) c i x :=
  List.mem_append_right _ (List.mem_singleton.2 rfl)

/-- An access with what it found, performed: its answer is on its way (R236). -/
def performedAt (id : Nat) (r : Acc × State) : State :=
  post (r.2.now + r.1.ansLat) (answerEvent r.1) { a := id } { r.2 with accs := tput r.2.accs id { r.1 with performed := true } }

theorem performedAt_find (id : Nat) (r : Acc × State) : tfind (performedAt id r).accs id = some { r.1 with performed := true } :=
  tfind_tput_self ..

theorem performedAt_due (id : Nat) (r : Acc × State) :
    due (performedAt id r) (r.2.now + r.1.ansLat) (answerEvent r.1) { a := id } := due_post ..

theorem atBank_of_turn {s : State} {id key : Nat} {a : Acc} (ev : Instr) (act : Acc → Nat → State → Acc × State)
    (h : atItsBank s id a key) (hd : (a.store || a.kind == .atom || a.kind == .cas) = true → leafDirty s a) :
    atBank id ev act s = performedAt id (act a key (tookTurn a s)) := by
  obtain ⟨ha, hk, hp, hb, hf, hr, ht⟩ := h
  have hm : (if (a.dev && (a.store || a.kind == .atom || a.kind == .cas)) = true then markD a.dpkg a.va (tookTurn a s) else tookTurn a s)
      = tookTurn a s := by
    split
    next hw =>
      obtain ⟨hdev, hw⟩ := Bool.and_eq_true_iff.1 hw
      exact markD_of_dirty (by rw [leafOf_congr (tookTurn_mem a s) (tookTurn_pkgs a s)]; exact hd hw hdev)
    next => rfl
  simp only [atBank, ha, hp, hb, hf, hk, hr, ht, hm, Bool.false_eq_true, if_false, Bool.or_false]
  rfl

/-! ### Loads and stores -/

theorem exec_accessPerform_of_load {s : State} {a : Acc} {key : Nat} (h : atItsBank s s.ev.a a key) (hs : a.store = false)
    (ha : a.kind ≠ .atom) (hc : a.kind ≠ .cas) : exec .accessPerform s
    = .next (performedAt s.ev.a ({ a with data := mread s.mem key a.size }, tookTurn a s)) := by
  refine congrArg Host.Outcome.next ((atBank_of_turn _ _ h fun hw => ?_).trans ?_)
  · simp [hs, ha, hc] at hw
  · simp only [hs, Bool.false_eq_true, if_false, tookTurn_mem]

theorem accessPerform_load_spec {s : State} {a : Acc} {key : Nat} (h : atItsBank s s.ev.a a key) (hs : a.store = false)
    (ha : a.kind ≠ .atom) (hc : a.kind ≠ .cas) : ∃ t, exec .accessPerform s = .next t ∧ (∀ x, mget t.mem x = mget s.mem x) ∧ t.g = s.g
      ∧ tfind t.accs s.ev.a = some { a with data := mread s.mem key a.size, performed := true }
      ∧ due t (s.now + a.ansLat) (answerEvent a) { a := s.ev.a } := by
  have hm : (performedAt s.ev.a ({ a with data := mread s.mem key a.size }, tookTurn a s)).mem = s.mem := tookTurn_mem a s
  have hdue := performedAt_due s.ev.a ({ a with data := mread s.mem key a.size }, tookTurn a s)
  rw [tookTurn_now] at hdue
  exact ⟨_, exec_accessPerform_of_load h hs ha hc, fun x => by rw [hm], tookTurn_g a s, performedAt_find .., hdue⟩

/-- What a store does at its bank, beside its bytes: INFL - 1 and ACCEPT leave where one is due (R102, R160). -/
def stored (a : Acc) (s : State) : Acc × State := appended (a, inflDown a s)

theorem stored_fst (a : Acc) (s : State) : (stored a s).1 = a := by
  unfold stored appended
  split <;> rfl

theorem stored_leaves {β : Type} (φ : State → β) (h : ∀ (s : State) (l : List (Nat × Instr × EvArg)), φ { s with agenda := l } = φ s)
    (a : Acc) (s : State) : φ (stored a s).2 = φ s := by
  have hi : φ (inflDown a s) = φ s := by
    unfold inflDown
    dsimp only
    split
    · rfl
    · exact h ..
  unfold stored appended
  split
  · dsimp only
    split
    · exact hi
    · exact (h ..).trans hi
  · exact hi

theorem exec_accessPerform_of_store {s : State} {a : Acc} {key : Nat} (h : atItsBank s s.ev.a a key) (hd : leafDirty s a)
    (hs : a.store = true) (hc : a.cells = []) : exec .accessPerform s
    = .next (performedAt s.ev.a (stored a (memWrite key a.data (tookTurn a s) (strandWriter a.sid a.issuedAt)))) := by
  refine congrArg Host.Outcome.next ((atBank_of_turn _ _ h fun _ => hd).trans ?_)
  simp only [hs, hc, if_true, List.isEmpty_nil]
  rfl

/-- The bytes that a write leaves in memory, and what it leaves beside them. -/
theorem memWrite_stores {s : State} (hw : s.memOk) (a : Acc) (key : Nat) (bs : List Byte) (w : Nat × Nat) :
    let t := memWrite key bs (tookTurn a s) w
    mread t.mem key bs.length = bs ∧ keepsOutside s t key bs.length ∧ t.g = s.g ∧ t.now = s.now := by
  intro t
  have ht : t = _ := (memWrite_traceKeeps key bs (tookTurn a s) w).1
  have hm : t.mem = mwrite s.mem key bs := by rw [memWrite_mem, tookTurn_mem]
  refine ⟨by rw [hm]; exact mread_mwrite hw.1 key bs, fun x hx => by rw [hm]; exact mget_mwrite_outside _ _ _ _ hx, ?_, ?_⟩
  · rw [ht]
    exact tookTurn_g a s
  · rw [ht]
    exact tookTurn_now a s

theorem accessPerform_store_spec {s : State} {a : Acc} {key : Nat} (hw : s.memOk) (h : atItsBank s s.ev.a a key) (hd : leafDirty s a)
    (hs : a.store = true) (hc : a.cells = []) : ∃ t, exec .accessPerform s = .next t ∧ mread t.mem key a.data.length = a.data
      ∧ keepsOutside s t key a.data.length ∧ t.g = s.g ∧ (∃ b, tfind t.accs s.ev.a = some b ∧ b.performed = true)
      ∧ due t (s.now + a.ansLat) (answerEvent a) { a := s.ev.a } := by
  obtain ⟨hr, ho, hg, hn⟩ := memWrite_stores hw a key a.data (strandWriter a.sid a.issuedAt)
  refine ⟨_, exec_accessPerform_of_store h hd hs hc, ?_⟩
  generalize memWrite key a.data (tookTurn a s) (strandWriter a.sid a.issuedAt) = u at hr ho hg hn
  have hm : (performedAt s.ev.a (stored a u)).mem = u.mem := stored_leaves State.mem (fun _ _ => rfl) a u
  have hdue := performedAt_due s.ev.a (stored a u)
  rw [stored_fst, stored_leaves State.now (fun _ _ => rfl), hn] at hdue
  exact ⟨by rw [hm, hr], fun x hx => by rw [hm]; exact ho x hx, (stored_leaves State.g (fun _ _ => rfl) a u).trans hg,
    ⟨_, performedAt_find .., rfl⟩, hdue⟩

/-! ### Atomics (R254, R269, R270) -/

theorem exec_atomicPerform_of_turn {s : State} {a : Acc} {key : Nat} (h : atItsBank s s.ev.a a key) (hd : leafDirty s a) :
    exec .atomicPerform s = .next (performedAt s.ev.a (atomAct a key (tookTurn a s))) :=
  congrArg Host.Outcome.next (atBank_of_turn _ _ h fun _ => hd)

/-- An atomic that finds its bytes and writes others: the old ones are its answer (R254). -/
def atomWrites (a : Acc) (key : Nat) (bs : List Byte) (s : State) : Acc × State :=
  ({ a with data := mread s.mem key a.size }, memWrite key bs (tookTurn a s) (strandWriter a.sid a.issuedAt))

theorem atomWrites_spec {s : State} {a : Acc} {bs : List Byte} (hw : s.memOk) (key id : Nat) (hl : bs.length = a.size) :
    let t := performedAt id (atomWrites a key bs s)
    mread t.mem key a.size = bs ∧ keepsOutside s t key a.size ∧ t.g = s.g
      ∧ (∃ b, tfind t.accs id = some b ∧ b.performed = true ∧ b.data = mread s.mem key a.size)
      ∧ due t (s.now + a.ansLat) (answerEvent a) { a := id } := by
  intro t
  obtain ⟨hr, ho, hg, hn⟩ := memWrite_stores hw a key bs (strandWriter a.sid a.issuedAt)
  have hdue : due t _ _ _ := performedAt_due id (atomWrites a key bs s)
  rw [show (atomWrites a key bs s).2.now = s.now from hn] at hdue
  rw [hl] at hr ho
  exact ⟨hr, ho, hg, ⟨_, performedAt_find .., rfl, rfl⟩, hdue⟩

/-- The new value of an atomic at the bytes `old` (R269). -/
def atomValue (a : Acc) (old : List Byte) : Nat := (atomNew a.op a.size (word (bytesNat old)) (word (bytesNat a.data))).toNat

theorem atomicPerform_atom_spec {s : State} {a : Acc} {key : Nat} (hw : s.memOk) (h : atItsBank s s.ev.a a key) (hd : leafDirty s a)
    (hk : a.kind = .atom) : ∃ t, exec .atomicPerform s = .next t
      ∧ mread t.mem key a.size = natBytes a.size (atomValue a (mread s.mem key a.size)) ∧ keepsOutside s t key a.size ∧ t.g = s.g
      ∧ (∃ b, tfind t.accs s.ev.a = some b ∧ b.performed = true ∧ b.data = mread s.mem key a.size)
      ∧ due t (s.now + a.ansLat) (answerEvent a) { a := s.ev.a } := by
  have hact : atomAct a key (tookTurn a s) = atomWrites a key (natBytes a.size (atomValue a (mread s.mem key a.size))) s := by
    simp [atomAct, atomBytes, atomWrites, atomValue, hk]
  refine ⟨_, exec_atomicPerform_of_turn h hd, ?_⟩
  rw [hact]
  exact atomWrites_spec hw key s.ev.a (natBytes_length ..)

theorem atomicPerform_cas_spec {s : State} {a : Acc} {key : Nat} (hw : s.memOk) (h : atItsBank s s.ev.a a key) (hd : leafDirty s a)
    (hk : a.kind = .cas) (hl : a.data.length = a.size) : ∃ t, exec .atomicPerform s = .next t
      ∧ mread t.mem key a.size = (if mread s.mem key a.size = a.cmp then a.data else mread s.mem key a.size)
      ∧ keepsOutside s t key a.size
      ∧ ∃ b, tfind t.accs s.ev.a = some b ∧ b.performed = true ∧ b.data = mread s.mem key a.size := by
  refine ⟨_, exec_atomicPerform_of_turn h hd, ?_⟩
  by_cases hc : mread s.mem key a.size = a.cmp
  · have hact : atomAct a key (tookTurn a s) = atomWrites a key a.data s := by simp [atomAct, atomBytes, atomWrites, hk, hc]
    obtain ⟨hr, ho, -, hb, -⟩ := atomWrites_spec hw key s.ev.a hl
    rw [hact, if_pos hc]
    exact ⟨hr, ho, hb⟩
  · have hact : atomAct a key (tookTurn a s) = ({ a with data := mread s.mem key a.size }, tookTurn a s) := by
      simp [atomAct, hk, hc]
    have hm : (performedAt s.ev.a ({ a with data := mread s.mem key a.size }, tookTurn a s)).mem = s.mem := tookTurn_mem a s
    rw [hact, if_neg hc]
    exact ⟨by rw [hm], fun x _ => by rw [hm], _, performedAt_find .., rfl, rfl⟩

/-! ### Answers (R236, R396, R464) -/

theorem exec_loadResult_of_here {s : State} (hw : accAway s s.ev.a = false) :
    exec .loadResult s = .next (if s.ev.flag = true then readError s.ev.a s else answerAcc s.ev.a s) := by
  simp only [exec, execLoadResult, whenHere, hw, Bool.false_eq_true, if_false]

/-- The answer of an access into a register of a strand in its life: its late result. -/
theorem answerAcc_of_reg {s : State} {id dst : Nat} {a : Acc} {e : Ext1} (ha : tfind s.accs id = some a) (hx : a.xchg = false)
    (hr : a.ret = .reg dst e) (hl : accLive s a = true) :
    answerAcc id s = lateResult a.sid dst (extend e a.data) { s with accs := tdel s.accs id } := by
  have hl' : accLive { s with accs := tdel s.accs id } a = true := hl
  simp [answerAcc, ha, hx, hr, landResult, hl']

theorem answerAcc_of_store {s : State} {id : Nat} {a : Acc} (ha : tfind s.accs id = some a) (hx : a.xchg = false)
    (hr : a.ret = .none) (hk : a.kind = .store) : answerAcc id s = { s with accs := tdel s.accs id } := by
  simp [answerAcc, ha, hx, hr, hk]

theorem exec_storeAck_of_store {s : State} {a : Acc} (ha : tfind s.accs s.ev.a = some a) (hw : accAway s s.ev.a = false)
    (hk : a.kind = .store) (hx : a.xchg = false) (hr : a.ret = .none) (hj : a.rejected = false) :
    exec .storeAck s = .next { s with accs := tdel s.accs s.ev.a } := by
  simp [exec, execStoreAck, whenHere, hw, ha, hk, hj, answerAcc_of_store ha hx hr hk]

theorem lateResult_accs {s : State} {sid r : Nat} (x : Word) (h0 : 0 < r) (hr : r < 64) (hs : (slotAt s sid).st ≠ .swapped) :
    (lateResult sid r x s).accs = s.accs := by
  have hg (u : State) : (gSet sid r x u).accs = u.accs := by unfold gSet; split <;> rfl
  have hf (u : State) : (regToFrame sid r u).accs = u.accs := by unfold regToFrame; dsimp only; split <;> rfl
  rw [lateResult_of_lt x h0 hr hs]
  split
  · rw [hf, hg]
    rfl
  · exact hg _

theorem loadResult_reg_spec {s : State} {a : Acc} {dst : Nat} {e : Ext1} (ha : tfind s.accs s.ev.a = some a) (hw : accAway s s.ev.a = false)
    (hx : a.xchg = false) (hr : a.ret = .reg dst e) (hl : accLive s a = true) (hs : (slotAt s a.sid).st ≠ .swapped) (h0 : 0 < dst)
    (h64 : dst < 64) (hf : s.ev.flag = false) : ∃ t, exec .loadResult s = .next t ∧ gGet t a.sid dst = extend e a.data
      ∧ keepsG s t a.sid dst ∧ tfind t.accs s.ev.a = none ∧ keepsOutside s t (frameKey a.sid) 0x400 := by
  have hg := lateResult_g (s := { s with accs := tdel s.accs s.ev.a }) (extend e a.data) h0 h64 hs
  refine ⟨_, by rw [exec_loadResult_of_here hw, hf, if_neg Bool.false_ne_true, answerAcc_of_reg ha hx hr hl],
    gGet_of_g_tput h0 hg, gGet_of_tput hg h64, ?_, lateResult_keepsOutside _ h0 h64 hs⟩
  have haccs := lateResult_accs (s := { s with accs := tdel s.accs s.ev.a }) (extend e a.data) h0 h64 hs
  exact (congrArg (tfind · s.ev.a) haccs).trans (tfind_tdel_self ..)

/-- The die that counts an uncorrectable error: of the page's MTU, or of the tile (R463). -/
def errorDie (a : Acc) : Nat := if a.dev then mtuOfVa a.dpkg a.va % 8 else dieOfTile (spTile (a.key.getD 0))

theorem readError_of_find {s : State} {id : Nat} {a : Acc} (ha : tfind s.accs id = some a) : readError id s
    = post s.now .parkedAccessFail { a := id, b := 0x19, c := 8 } (bumpLife a.dpkg (0x70000 + errorDie a) s) := by
  simp [readError, ha, errorDie]

theorem loadResult_error_spec {s : State} {a : Acc} (ha : tfind s.accs s.ev.a = some a) (hw : accAway s s.ev.a = false)
    (hf : s.ev.flag = true) : ∃ t, exec .loadResult s = .next t
      ∧ due t s.now .parkedAccessFail { a := s.ev.a, b := 0x19, c := 8 } ∧ t.mem = s.mem ∧ t.g = s.g ∧ t.accs = s.accs := by
  have he := exec_loadResult_of_here hw
  rw [hf, if_pos rfl, readError_of_find ha] at he
  exact ⟨_, he, due_post .., rfl, rfl, rfl⟩

/-! ### Rejections (R397) -/

theorem resume_accs (sid k : Nat) (s : State) : (resume sid k s).accs = s.accs := by
  show (applyKills sid s).accs = s.accs
  rw [applyKills_frame]

theorem goesOn_leaves {β : Type} (φ : State → β) (hm : ∀ sid f s, φ (modSlot sid f s) = φ s) (hr : ∀ sid k s, φ (resume sid k s) = φ s)
    (sid gen id k : Nat) (s : State) : φ (goesOn sid gen id k s) = φ s := by
  unfold goesOn
  split
  · exact hr ..
  · split
    · split
      · exact hm ..
      · rfl
    · rfl

/-- The store of a ring entry that is lost changes its queue, and its sender is answered FULL (log 80). -/
theorem ringLost_of_ring {a : Acc} {rk pos : Nat} {m : Msg} (hr : a.ret = .ring rk pos m) (hk : a.kind = .store) (s : State) :
    ∃ lose, ringLost a s = post s.now .qsendAnswer { a := m.acc, b := 2 } (refillCheck rk (modRx rk lose s)) := by
  have hm : a.kind ≠ .msg := by rw [hk]; decide
  simp only [ringLost, hr, hm, if_false]
  exact ⟨_, rfl⟩

theorem remoteRejection_ring_spec {s : State} {a : Acc} {rk pos : Nat} {m : Msg} (ha : tfind s.accs s.ev.a = some a) (hr : a.ret = .ring rk pos m)
    (hk : a.kind = .store) : ∃ t, exec .remoteRejection s = .next t ∧ tfind t.accs s.ev.a = none
      ∧ due t s.now .qsendAnswer { a := m.acc, b := 2 } ∧ t.mem = s.mem ∧ t.g = s.g := by
  have hring : isRing a = true := by simp [isRing, hr, hk]
  obtain ⟨lose, hl⟩ := ringLost_of_ring hr hk { s with accs := tdel s.accs s.ev.a }
  have hkeep {β : Type} (φ : State → β) (h : ∀ (s : State) (l : List (Nat × Instr × EvArg)), φ { s with agenda := l } = φ s) :
      φ (ringLost a { s with accs := tdel s.accs s.ev.a }) = φ (modRx rk lose { s with accs := tdel s.accs s.ev.a }) := by
    rw [hl, post, h, refillCheck_leaves φ h]
  have hgone : tfind (ringLost a { s with accs := tdel s.accs s.ev.a }).accs s.ev.a = none :=
    (congrArg (tfind · s.ev.a) (hkeep State.accs fun _ _ => rfl)).trans (tfind_tdel_self ..)
  refine ⟨ringLost a { s with accs := tdel s.accs s.ev.a }, ?_, hgone, ?_, hkeep State.mem fun _ _ => rfl, hkeep State.g fun _ _ => rfl⟩
  · simp only [exec, execRemoteRejection, ha, hring, if_true, modAcc, hgone]
  · rw [hl]
    exact due_post ..

theorem remoteRejection_kept_spec {s : State} {a : Acc} (ha : tfind s.accs s.ev.a = some a) (hx : a.xchg = false) (hr : isRing a = false) :
    ∃ t, exec .remoteRejection s = .next t
      ∧ (∃ b, tfind t.accs s.ev.a = some b ∧ b.rejected = true ∧ b.slot = false ∧ b.tvalue = a.tvalue ∧ b.ipc = a.ipc)
      ∧ t.mem = s.mem ∧ t.g = s.g := by
  have haccs := goesOn_leaves State.accs (fun _ _ _ => rfl) resume_accs a.sid a.gen s.ev.a 1 s
  have hmem := goesOn_leaves State.mem (fun _ _ _ => rfl) resume_mem a.sid a.gen s.ev.a 1 s
  have hg := goesOn_leaves State.g (fun _ _ _ => rfl) resume_g a.sid a.gen s.ev.a 1 s
  simp only [exec, execRemoteRejection, ha, hx, hr, Bool.false_eq_true, if_false, modAcc, haccs]
  exact ⟨_, rfl, ⟨_, tfind_tput_self .., rfl, rfl, rfl, rfl⟩, hmem, hg⟩

/-! ### The bytes of a load in a register (R238) -/

theorem extend_signed_byte (b : Byte) : extend (.sext 8) [b] = b.signExtend 64 := by
  have hb : signExt (bytesNat [b], 8) = b.toInt := by
    rw [BitVec.toInt_eq_msb_cond, BitVec.msb_eq_getLsbD_last]
    simp [signExt, bytesNat, BitVec.getLsbD]
  rw [extend, hb]
  rfl

/-- Settles O28: each clause is one way that an access is performed or answered. -/
theorem accessesPerformAndAnswer : Obligations.AccessesPerformAndAnswer := by
  unfold Obligations.AccessesPerformAndAnswer
  exact ⟨fun s a key => accessPerform_load_spec, fun s a key => accessPerform_store_spec,
    fun s a key hw h hd hk _ => atomicPerform_atom_spec hw h hd hk, fun s a key => atomicPerform_cas_spec,
    fun s a dst e => loadResult_reg_spec, fun s a => loadResult_error_spec, fun s a => exec_storeAck_of_store,
    fun s a rk pos m => remoteRejection_ring_spec, fun s a => remoteRejection_kept_spec, fun _ => rfl, extend_signed_byte⟩

end Sys2Proof.Machine
end

section
/-!
SUPPORT. Watches and SC accesses (`Obligations.WatchesAndScAccessesComplete`) fail as stated: the last clause lets the access pass where
`accRefused` is false, which asks for no router once an access is decided. SC_COMPLETE asks the router of any access of another tile.
-/

namespace Sys2Proof.Machine

/-- An LDSC of strand 1 into g47 whose word lies in tile 1, marked decided. -/
def scOfTile1 : Acc :=
  { kind := .load, sid := 1, gen := 0, ipc := 0x1000, order := 0, dpkg := 0, dev := false, va := windowBase + 2 ^ 20, size := 8
    key := some (spKey 1 0), bank := 0, ret := .reg 47 .zext, perfAt := 100, ansLat := 0, decided := true, sc := some (0, 0) }

/-- The cycle of its completion. Its strand waits for it, and tile 1 is in no partition, so that its router accepts nothing (R427). -/
def scAtClosedTile : State :=
  { now := 100, slots := [(1, { st := .waiting, hold := true, heldBy := 9 })], accs := [(9, scOfTile1)], ev := { a := 9 } }

/-- The access that an event leaves under a number. -/
def accLeft (r : Res) (id : Nat) : Option Acc :=
  match r with
  | .next t => tfind t.accs id
  | _ => none

/-- The router refuses the access (R428), which stays until its failure reaches the core. -/
theorem accLeft_scAtClosedTile : accLeft (exec .scComplete scAtClosedTile) 9 = some { scOfTile1 with performed := true } := by
  decide +kernel

/-- Refutes O30: of an SC access that is marked decided the clause asks no router, and SC_COMPLETE asks the router of tile 1, which refuses
it. The access stays, where the clause has it gone. -/
theorem not_watchesAndScAccessesComplete : ¬ Obligations.WatchesAndScAccessesComplete := by
  unfold Obligations.WatchesAndScAccessesComplete
  rintro ⟨-, -, -, hsc⟩
  obtain ⟨t, ht, -, -, -, hgone, -⟩ := hsc scAtClosedTile scOfTile1 (spKey 1 0) 47 (by decide +kernel) rfl rfl (by decide +kernel) rfl rfl
    rfl rfl (by decide +kernel) (by decide +kernel) (by decide) (by decide)
  have hleft := accLeft_scAtClosedTile
  rw [ht, accLeft, show tfind t.accs 9 = none from hgone] at hleft
  cases hleft

end Sys2Proof.Machine
end

section
/-!
SUPPORT. What a trap changes in the strand that takes it (`slotAt_recordTrap_self`): slot 0 alone enters the handler (R374).
-/

namespace Sys2Proof.Machine

/-! ### What ends or abandons a wait of slot 0 -/

theorem slotAt_endWfe_of_ne {cid i : Nat} (s : State) (h : i ≠ cid * 16) : slotAt (endWfe cid s) i = slotAt s i := by
  unfold endWfe
  dsimp only
  split
  · rfl
  · exact slotAt_resume_of_ne 1 _ h

theorem unpark_slots (a : Acc) (s : State) : (unpark a s).slots = s.slots := by
  unfold unpark
  split <;> rfl

theorem dropWaits_slots (sid : Nat) (s : State) : (dropWaits sid s).slots = s.slots := by
  unfold dropWaits
  dsimp only
  repeat' split
  all_goals rfl

theorem slotAt_abandonWait_of_ne {sid i : Nat} (s : State) (h : i ≠ sid) : slotAt (abandonWait sid s) i = slotAt s i := by
  unfold abandonWait
  dsimp only
  split
  · exact slotAt_modSlot_of_ne _ _ h
  · split
    · exact slotAt_modSlot_of_ne _ _ h
    · rw [slotAt_modSlot_of_ne _ _ h, slotAt, dropWaits_slots, ← slotAt]
      split
      · split
        · rw [slotAt_modSlot_of_ne _ _ h, slotAt, unpark_slots, ← slotAt]
        · split
          · rw [slotAt, unpark_slots, ← slotAt]
          · rfl
      · rfl

/-! ### A trap -/

/-- Taking a trap changes no slot but slot 0 (R374). -/
theorem slotAt_takeTrap_of_ne {cid i : Nat} (s : State) (h : i ≠ cid * 16) : slotAt (takeTrap cid s) i = slotAt s i := by
  have hend (u : State) : slotAt (if (coreAt u cid).wfe.isSome = true then endWfe cid u
      else if (slotAt u (cid * 16)).st = .waiting ∨ (slotAt u (cid * 16)).st = .parked then abandonWait (cid * 16) u else u) i
      = slotAt u i := by
    split
    · exact slotAt_endWfe_of_ne u h
    · split
      · exact slotAt_abandonWait_of_ne u h
      · rfl
  unfold takeTrap
  dsimp only
  split
  · rfl
  · split
    · rfl
    · split
      · rfl
      · rw [slotAt_putCore, slotAt_putSlot_of_ne _ _ h]
        exact hend s

/-- A TRAPPED slot with its trap registers (R374, R389). -/
def showsTrap (x : Slot) (cause : Nat) (tv tv2 : Word) (epc : Nat) : Prop :=
  x.st = .trapped ∧ x.tcause = cause ∧ x.tvalue = tv ∧ x.tval2 = tv2 ∧ x.tepc = epc

/-- A strand outside slot 0 that traps shows its trap, whatever slot 0 does then. -/
theorem recordTrap_showsTrap {sid : Nat} {s : State} (cause : Nat) (tv tv2 : Word) (epc : Nat) (hn : slotNo sid ≠ 0)
    (hk : (slotAt s sid).killed = false) : showsTrap (slotAt (recordTrap sid cause tv tv2 epc s) sid) cause tv tv2 epc := by
  have h0 : sid ≠ cidOf sid * 16 := by
    unfold slotNo at hn
    unfold cidOf
    omega
  have hend (p : Prop) [Decidable p] (u : State) : slotAt (if p then endWfe (cidOf sid) u else u) sid = slotAt u sid := by
    split
    · exact slotAt_endWfe_of_ne u h0
    · rfl
  simp only [recordTrap, hk, hn, Bool.false_eq_true, if_false, decide_false, Bool.false_and]
  split
  · rw [slotAt_modCore, slotAt_modCore, slotAt_modSlot_self]
    exact ⟨rfl, rfl, rfl, rfl, rfl⟩
  · rw [slotAt_takeTrap_of_ne _ h0, hend, slotAt_modCore, slotAt_modSlot_self]
    exact ⟨rfl, rfl, rfl, rfl, rfl⟩

/-- What ends the issue of an instruction that kept a trap's state leaves the trap's slot. -/
theorem endKeeps_showsTrap {s t : State} (h : endKeeps s t) {sid cause : Nat} {tv tv2 : Word} {epc : Nat}
    (hs : showsTrap (slotAt s sid) cause tv tv2 epc) : showsTrap (slotAt t sid) cause tv tv2 epc := by
  rw [h.2.1 sid]
  exact hs

end Sys2Proof.Machine
end

section
/-!
SUPPORT. FENCE (`Obligations.FenceWaitsThenReports`): the condition that it waits for, then its three ends.
-/

namespace Sys2Proof.Machine

/-- A condition that some instructions wait for, and the rest of their body. -/
theorem ite_waitUnless_apply {α : Type} {p : Prop} [Decidable p] (b : Bool) (m : M α) (s : State) :
    (if p then waitUnless b >>= fun _ => m else m) s = if p ∧ b = false then .error .wait else m s := by
  by_cases hp : p <;> cases b <;> simp [hp, bind_apply]

/-- What FENCE waits for, by its sub-operation: LD, ST, ALL or ENG (R140, R258). -/
abbrev fenceDone (s : State) (sid sub scope : Nat) : Prop :=
  (sub = 1 ∨ (loadsDone s sid (inScope sid scope) = true ∧ getsDone s sid scope false = true))
  ∧ (sub = 0 ∨ (storesDone s sid (inScope sid scope) = true ∧ getsDone s sid scope true = true))
  ∧ (sub = 3 → enginesDone s sid scope = true)

/-- The end of a FENCE: it reports a store that was rejected (R141, R397). -/
def fenceReport (sid : Nat) (rejected : Option (Nat × Acc)) : M Unit :=
  match rejected with
  | some (id, a) => keepM fun s => recordTrap sid 0x11 a.tvalue (word a.ipc) s.cur.ipc { s with accs := tdel s.accs id }
  | none => pure ()

/-- What the strand's fetches see after a FENCE: after ALL and ENG the writes in its scope (R191). -/
def fenced (sid sub scope : Nat) (s : State) : State := if 2 ≤ sub then fetchesNew sid scope s else s

/-- The whole of a FENCE without refused fields. -/
def fenceBody (sub scope : Nat) : M Unit := fun s =>
  if fenceDone s s.cur.sid sub scope then fenceReport s.cur.sid (rejectedOf s s.cur.sid) (fenced s.cur.sid sub scope s)
  else .error .wait

theorem exec_fence_eq {o : Ops} (hx : o.exr = false) (hq : o.exq = none) (hi : o.xi = []) (s : State) :
    exec (.fence o) s = issue .a s (fenceBody (o.a.toNat % 4) (o.a.toNat / 4)) := by
  refine congrArg (issue .a s) (funext fun u => ?_)
  have hsub : (o.a.toNat % 4 = 0 ∨ o.a.toNat % 4 = 2 ∨ o.a.toNat % 4 = 3) ↔ o.a.toNat % 4 ≠ 1 := by omega
  simp only [bind_apply, need9, hx, hq, hi, Bool.not_false, Option.isNone_none, List.isEmpty_nil, Bool.and_self, if_true, pure_apply,
    askM_apply, id, ite_waitUnless_apply, hsub, fenceBody]
  generalize o.a.toNat % 4 = sub
  generalize o.a.toNat / 4 = scope
  have hdone : fenceDone u u.cur.sid sub scope
      ↔ ¬ (sub ≠ 1 ∧ (loadsDone u u.cur.sid (inScope u.cur.sid scope) && getsDone u u.cur.sid scope false) = false)
        ∧ ¬ (sub ≠ 0 ∧ (storesDone u u.cur.sid (inScope u.cur.sid scope) && getsDone u u.cur.sid scope true) = false)
        ∧ ¬ (sub = 3 ∧ enginesDone u u.cur.sid scope = false) := by
    simp only [fenceDone, not_and, Bool.not_eq_false, Bool.and_eq_true, ne_eq, or_iff_not_imp_left]
  by_cases hd : fenceDone u u.cur.sid sub scope
  · obtain ⟨hld, hst, heng⟩ := hdone.1 hd
    rw [if_pos hd, if_neg hld, if_neg hst, if_neg heng, fenced]
    split <;> rfl
  · rw [if_neg hd]
    split
    · rfl
    next hld =>
      split
      · rfl
      next hst => exact if_pos (not_not.1 fun heng => hd (hdone.2 ⟨hld, hst, heng⟩))

section
variable {o : Ops} {s : State} (hc : classTrap .a s = none) (hx : o.exr = false) (hq : o.exq = none) (hi : o.xi = [])
include hc hx hq hi

theorem exec_fence_of_undone (h : ¬ fenceDone s s.cur.sid (o.a.toNat % 4) (o.a.toNat / 4)) :
    exec (.fence o) s = .next (waitState s) := by
  rw [exec_fence_eq hx hq hi]
  exact issue_of_wait hc (if_neg h)

variable (hd : fenceDone s s.cur.sid (o.a.toNat % 4) (o.a.toNat / 4))
include hd

theorem exec_fence_of_accepted (hr : rejectedOf s s.cur.sid = none) : exec (.fence o) s
    = .next (completeIssue (fenced s.cur.sid (o.a.toNat % 4) (o.a.toNat / 4) (atIssue s))) := by
  rw [exec_fence_eq hx hq hi]
  refine issue_of_ok hc ((if_pos hd).trans ?_) ?_
  · exact congrArg (fenceReport s.cur.sid · _) hr
  · unfold fenced
    split <;> rfl

/-- A FENCE that reports keeps the trap's state, without the entry reported (R397). -/
theorem exec_fence_of_rejected {id : Nat} {a : Acc} (hr : rejectedOf s s.cur.sid = some (id, a)) :
    let u := fenced s.cur.sid (o.a.toNat % 4) (o.a.toNat / 4) (atIssue s)
    exec (.fence o) s = .next (keptIssue s
      (recordTrap s.cur.sid 0x11 a.tvalue (word a.ipc) s.cur.ipc { u with accs := tdel u.accs id })) := by
  intro u
  have hu : u.cur.ipc = s.cur.ipc := by
    simp only [u, fenced]
    split <;> rfl
  rw [exec_fence_eq hx hq hi, ← hu]
  exact issue_of_keep hc ((if_pos hd).trans (congrArg (fenceReport s.cur.sid · _) hr))

end

theorem fenced_killed (sid sub scope i : Nat) (s : State) : (slotAt (fenced sid sub scope s) i).killed = (slotAt s i).killed := by
  unfold fenced fetchesNew
  split
  · by_cases hi : i = sid
    · subst hi
      rw [slotAt_modSlot_self]
      split <;> rfl
    · rw [slotAt_modSlot_of_ne _ _ hi]
  · rfl

/-- Settles O31: a FENCE waits, goes on, or keeps the state of its trap. -/
theorem fenceWaitsThenReports : Obligations.FenceWaitsThenReports := by
  unfold Obligations.FenceWaitsThenReports
  intro o s hc hx hq hi _ _
  refine ⟨exec_fence_of_undone hc hx hq hi, exec_fence_of_accepted hc hx hq hi, fun id a hd hr hn _ hk => ?_⟩
  refine ⟨_, exec_fence_of_rejected hc hx hq hi hd hr, ?_⟩
  refine endKeeps_showsTrap (keptIssue_endKeeps s _) (recordTrap_showsTrap _ _ _ _ hn ?_)
  exact (fenced_killed _ _ _ _ _).trans hk

end Sys2Proof.Machine
end

section
/-!
SUPPORT. The heap instructions (`Obligations.HeapInstructionsAndBarrier`) fail as stated: a slow LDK is to send its read of the page entry
as it issues. Its gate counts the bank that the entry's address names in device memory (R236). R154 has the heap's page entries in PLAIN
memory, which no premise says: where they stand in another tile's scratchpad, the read waits for a place at a bank of that tile.
-/

namespace Sys2Proof.Machine

/-! ### The checks of a reference -/

theorem unitReadM_of_page {va n key : Nat} {s : State}
    (h : (engCheck s (tidOfC (cidOf s.cur.sid)) va (coreAt s (cidOf s.cur.sid)).tenant n).2 = .ok key) : unitReadM va n s
      = .ok ((engRead (ownView s.cur.sid s) (tidOfC (cidOf s.cur.sid)) va (coreAt s (cidOf s.cur.sid)).tenant n).getD [], s) := by
  obtain ⟨a, he⟩ : ∃ a, engCheck s (tidOfC (cidOf s.cur.sid)) va (coreAt s (cidOf s.cur.sid)).tenant n = (a, .ok key) :=
    ⟨_, Prod.ext rfl h⟩
  simp [unitReadM, bind_apply, he]

/-- The checks of R160 before the fast path pass. -/
theorem refCheckM_of_sound {k tv : Word} {bs : List Byte} {s : State} (h0 : k ≠ 0#64) (hl : wfield k 0 3 = 0)
    (hr : unitReadM (heapVa s (cidOf s.cur.sid) (refHeap k)) 48 s = .ok (bs, s))
    (hn : refReason k (coreAt s (cidOf s.cur.sid)).tenant (bytesWords 6 bs) = none) :
    refCheckM k tv s = .ok (bytesWords 6 bs, s) := by
  simp [refCheckM, bind_apply, h0, hl, hr, hn]

/-- The checks and rights of a heap access pass (R160, R163). -/
theorem objectM_of_rights {n : Nat} {off : Int} {rd wr store : Bool} {k : Word} {w : List Word} {s : State} (hk : srcK n s = .ok (k, s))
    (hw : refCheckM k k s = .ok (w, s))
    (hr : heapRefusal s s.cur.sid k (resolveNow s (cidOf s.cur.sid) w k).2 off rd wr store = none) :
    objectM n off rd wr store s = .ok ((k, w), s) := by
  simp [objectM, bind_apply, hk, hw, hr]

/-! ### Page entries in another tile's scratchpad -/

/-- The words of heap 0, over [0x20000, 0x40000), whose page entries stand in the scratchpad of tile 1. -/
def farTableWords : List Word := [1#64, 1#64, word 0x20000, word 0x40000, word (windowBase + 2 ^ 20), 0#64]

/-- A store of strand 2 to the bank of tile 1 that holds the first page entry, in flight. -/
def storeToTile1 : Acc :=
  { kind := .store, sid := 2, gen := 0, ipc := 0x2000, order := 0, dpkg := 0, dev := false, va := windowBase + 2 ^ 20, size := 8
    key := some (spKey 1 0), bank := 528, perfAt := 110, ansLat := 8, slot := true, remote := true, store := true, data := natBytes 8 0 }

/-- Strand 1 is to issue an LDK through k3, of a colour that is no longer good, and holds the heap's guard. Twelve stores of strand 2
of its core, as many as may be (R236), are on their way to the bank of the page entry. -/
def farTable : State :=
  { now := 100, nextId := 20, slots := [(1, { st := .ready })], cur := { sid := 1, ipc := 0x1000, words := [0x094E] }
    cores := [(0, { heaptab := ownBase })], k := [(19, word 0x20100)]
    rt := [(17, word (0x20000 + 4 * 2 ^ 56), word (0x40000 + 2 ^ 56 + 2 ^ 57 + 2 ^ 58 + 2 ^ 60 + 2 ^ 61))]
    mem := mwrite [] (spKey 0 0) (wordsBytes farTableWords)
    accs := (List.range 12).map fun i => (i + 1, storeToTile1) }

/-- The LDK of `farTable`: g5 takes the word at offset 16 of the object of k3. -/
def ldkFar : Ops := { a := 5, b := 3, xi := [2] }

theorem ldkFar_checked : refCheckM (word 0x20100) (word 0x20100) (atIssue farTable) = .ok (farTableWords, atIssue farTable) := by
  have hr : unitReadM ownBase 48 (atIssue farTable) = .ok (_, atIssue farTable) := unitReadM_of_page (key := 0) (by decide +kernel)
  have hw : bytesWords 6 ((engRead (ownView 1 (atIssue farTable)) 0 ownBase 0 48).getD []) = farTableWords := by decide +kernel
  have hn : refReason (word 0x20100) 0 farTableWords = none := by decide +kernel
  rw [← hw] at hn ⊢
  exact refCheckM_of_sound (by decide) (by decide) hr hn

theorem ldkFar_ready : heapReady ldkFar (immR ldkFar * 8) true false false (word 0x20100) farTableWords (atIssue farTable) :=
  objectM_of_rights rfl ldkFar_checked (by decide +kernel)

/-- The read of the page entry is not on its way: it waits for its place at the bank. -/
theorem ldkFar_sends_no_read : accLeft (exec (.ldk ldkFar) farTable) 21 = none := by decide +kernel

/-- Refutes O50: the LDK of `farTable` passes its gate, and its read of the page entry is not sent as it issues; the statement's other
clauses are not touched by this. -/
theorem not_heapInstructionsAndBarrier : ¬ Obligations.HeapInstructionsAndBarrier := by
  unfold Obligations.HeapInstructionsAndBarrier
  rintro ⟨-, -, -, hldk, -⟩
  obtain ⟨-, hslow, -⟩ := hldk ldkFar farTable (word 0x20100) farTableWords rfl ldkFar_ready rfl
  obtain ⟨t, h, a, ht, -, -, -, -, -, -, ha, -⟩ := hslow rfl (by unfold goodColour; decide)
  have hleft := ldkFar_sends_no_read
  rw [ht, accLeft, show tfind t.accs 21 = some a from ha] at hleft
  cases hleft

end Sys2Proof.Machine
end

section
/-!
SUPPORT. HCOMPACT and the relocation engine (`Obligations.Relocation`). First the engine's own accesses, which change no more than a trace
record does (`traceKeeps`), so that the commands, the engine's queue and the clock stand through them.
-/

namespace Sys2Proof.Machine

/-! ### The engine's own accesses -/

theorem withPages_of_in {id : Nat} {c : Cmd} {spans : List (Nat × Nat)} {ev : Instr} {arg : EvArg} {go s : State} (h : pagesIn s c spans) :
    withPages id c spans ev arg go s = go := by
  unfold withPages
  split
  · rename_i a ha
    obtain ⟨p, hp, he⟩ := List.exists_of_findSome?_eq_some ha
    have hn := h p hp
    split at he
    · rename_i hw
      exact absurd (congrArg Prod.snd hw) hn
    · cases he
  · rfl

theorem markDSpan_traceKeeps (own va n : Nat) (s : State) : traceKeeps s (markDSpan own va n s) := by
  refine foldl_keeps traceKeeps_refl traceKeeps_trans (fun u a => ?_) _ _
  split
  · exact traceKeeps_refl u
  · exact markD_traceKeeps _ _ u

theorem engWrite_traceKeeps (own va tenant : Nat) (bs : List Byte) (s : State) (w : Nat × Nat) :
    traceKeeps s (engWrite own va tenant bs s w) := by
  refine foldl_keeps traceKeeps_refl traceKeeps_trans (fun u a => ?_) _ _
  split
  · exact memWrite_traceKeeps _ _ u _
  · exact traceKeeps_refl u

theorem rWrite_traceKeeps (c : Cmd) (va : Nat) (ws : List Word) (s : State) : traceKeeps s (rWrite c va ws s) :=
  traceKeeps_trans (markDSpan_traceKeeps _ _ _ s) (engWrite_traceKeeps _ _ _ _ _ _)

theorem copyBytes_traceKeeps (sid own src dst tenant n : Nat) (s : State) : traceKeeps s (copyBytes sid own src dst tenant n s) := by
  induction n generalizing src dst s with
  | zero => exact traceKeeps_refl s
  | succ n ih =>
    unfold copyBytes
    split
    · exact traceKeeps_trans (memWrite_traceKeeps _ _ s _) (ih _ _ _)
    · exact traceKeeps_refl s

theorem filler_traceKeeps (c : Cmd) (lo hi : Nat) (s : State) : traceKeeps s (filler c lo hi s) := by
  unfold filler
  split
  · exact rWrite_traceKeeps _ _ _ s
  · exact traceKeeps_refl s

theorem traceKeeps_ite {s t u : State} {p : Prop} [Decidable p] (h : traceKeeps s t) (k : traceKeeps s u) :
    traceKeeps s (if p then t else u) := by
  split
  · exact h
  · exact k

section
variable {s t : State} (h : traceKeeps s t)
include h

theorem traceKeeps_now : t.now = s.now := by rw [h.1]
theorem traceKeeps_ev : t.ev = s.ev := by rw [h.1]
theorem traceKeeps_cmds : t.cmds = s.cmds := by rw [h.1]
theorem traceKeeps_rt : t.rt = s.rt := by rw [h.1]
theorem traceKeeps_pkgAt (p : Nat) : pkgAt t p = pkgAt s p := by rw [pkgAt, show t.pkgs = s.pkgs by rw [h.1], pkgAt]

end

/-! ### HCOMPACT (R332) -/

theorem completeIssue_endKeeps (s : State) : endKeeps (putSlot s.cur.sid (advancedSlot s) s) (completeIssue s) :=
  endKeeps_trans (markIssue_endKeeps _ _) (forward_endKeeps _ _ _)

theorem fmtM_readsOnly (p : Word) : ReadsOnly (fmtM p) := by
  unfold fmtM
  split
  · split <;> simp
  · simp

theorem rawM_readsOnly (p : Word) : ReadsOnly (rawM p) := by
  refine readsOnly_bind (fmtM_readsOnly p) fun _ => ?_
  split <;> simp

theorem effAddr_readsOnly (p : Word) (off : Int) : ReadsOnly (effAddr p off) := fun s _ _ h =>
  (effAddr_ok h).1 ▸ readKeeps_refl s

theorem rangeM_readsOnly (va n : Nat) (rd wr : Bool) : ReadsOnly (rangeM va n rd wr) := fun s _ _ h =>
  (rangeM_ok h).1 ▸ readKeeps_refl s

/-- The read of a descriptor (R259). -/
theorem descM_readsOnly (o : Ops) (n : Nat) : ReadsOnly (descM o n) := by
  refine readsOnly_bind (src_readsOnly _ _ _) fun p => readsOnly_bind (rawM_readsOnly p) fun _ =>
    readsOnly_bind (effAddr_readsOnly _ _) fun ea => readsOnly_bind (readsOnly_askM _) fun s => ?_
  dsimp only
  split
  · simp
  · exact readsOnly_bind (rangeM_readsOnly _ _ _ _) fun _ => readsOnly_pure _

@[simp] theorem limitM_true (hn dp : Nat) (s : State) : limitM hn dp true s = .ok ((), s) := rfl

/-- The command that HCOMPACT makes of a descriptor (R332). -/
def relocCmd (cid : Nat) (h : Handle) (hn : Nat) (d : List Word) (s : State) : Cmd :=
  { newCmd s 5 h.ch 9 hn d (wfield (d.getD 0 0#64) 20 1 == 1) with result := word (heapVa s cid (wfield (d.getD 0 0#64) 0 6)) }

/-- It is pushed, and received 40 cycles later (R332). -/
def relocPushed (cid : Nat) (h : Handle) (hn : Nat) (d : List Word) (s : State) : State :=
  post (s.now + 40) .relocCommand { a := s.nextId } (addCmd (relocCmd cid h hn d s) s).2

section
variable {o : Ops} {s t : State} {hn dp : Nat} {h : Handle} {d : List Word} {bs : List Byte}
variable (hc : classTrap .a s = none) (hp : portM o 5 32 (atIssue s) = .ok ((hn, h), atIssue s))
  (hd : descM o 32 (atIssue s) = .ok ((dp, d), t)) (hl : relocOk d = true)
  (hs : spanM (d.getD 1 0#64) (wfield (d.getD 1 0#64) 0 56 : Nat) (8 * wfield (d.getD 0 0#64) 8 12) true false t = .ok ((), t))
  (hq : cplM hn dp 5 h.ch (wfield (d.getD 0 0#64) 20 1 == 1) t = .ok ((), t))
  (hr : unitReadM (heapVa t (cidOf s.cur.sid) (wfield (d.getD 0 0#64) 0 6)) 48 t = .ok (bs, t))
include hc hp hd hl hs hq hr

theorem exec_hcompact_of_heapless
    (hw : hValid (bytesWords 6 bs) = false ∨ hTenant (bytesWords 6 bs) ≠ (coreAt t (cidOf s.cur.sid)).tenant) :
    exec (.hcompact o) s = .next (trapsAt s 0x13 (word (wfield (d.getD 0 0#64) 0 6)) 3#64) := by
  have hsid : t.cur.sid = s.cur.sid := (congrArg Cur.sid (readKeeps_cur (descM_readsOnly _ _ _ _ _ hd))).trans rfl
  refine issue_of_trap hc ?_
  simp only [bind_apply, hp, hd, hl, limitM_true, hs, hq, askM_apply, id, hsid, hr, if_pos hw, trapM_apply]

theorem exec_hcompact_of_heap (hv : hValid (bytesWords 6 bs) = true)
    (ht : hTenant (bytesWords 6 bs) = (coreAt t (cidOf s.cur.sid)).tenant)
    (ho : ownedBy t (pkgOfC (cidOf s.cur.sid)) (hBase (bytesWords 6 bs)) (hLimit (bytesWords 6 bs)) = true)
    (hh : heapHold t (cidOf s.cur.sid) (slotAt t s.cur.sid).team (hBase (bytesWords 6 bs)) ≠ 0) (hf : portSlotM o hn h t = .ok ((), t)) :
    exec (.hcompact o) s = .next (completeIssue (atCost 5 (relocPushed (cidOf s.cur.sid) h hn d (markLastB o t)))) := by
  have hcur := readKeeps_cur (descM_readsOnly _ _ _ _ _ hd)
  have hsid : t.cur.sid = s.cur.sid := (congrArg Cur.sid hcur).trans rfl
  have hw : ¬ (hValid (bytesWords 6 bs) = false ∨ hTenant (bytesWords 6 bs) ≠ (coreAt t (cidOf s.cur.sid)).tenant) := by simp [hv, ht]
  refine issue_of_ok hc ?_ ?_
  · simp only [bind_apply, hp, hd, hl, limitM_true, hs, hq, askM_apply, id, hsid, hr, if_neg hw, ho, if_neg hh, hf, lastUseB, updM_apply,
      setCost_apply]
    rfl
  · show (relocPushed (cidOf s.cur.sid) h hn d (markLastB o t)).cur.manual = false
    rw [show (relocPushed (cidOf s.cur.sid) h hn d (markLastB o t)).cur = (markLastB o t).cur from rfl, markLastB_cur, hcur]
    rfl

end

/-- What the end of the push leaves: the command, its event, the strand's next issue. -/
theorem relocPushed_spec (cid : Nat) (h : Handle) (hn : Nat) (d : List Word) (s : State) :
    let u := completeIssue (atCost 5 (relocPushed cid h hn d s))
    ∃ c, tfind u.cmds s.nextId = some c ∧ c.eng = 5 ∧ c.desc = d ∧ c.sid = s.cur.sid
      ∧ due u (s.now + 40) .relocCommand { a := s.nextId } ∧ (slotAt u s.cur.sid).readyAt = s.now + 5 := by
  intro u
  have hk := completeIssue_endKeeps (atCost 5 (relocPushed cid h hn d s))
  have hcmds : u.cmds = (relocPushed cid h hn d s).cmds := by rw [show u = completeIssue _ from rfl, hk.1]; rfl
  refine ⟨relocCmd cid h hn d s, ?_, rfl, rfl, rfl, ?_, ?_⟩
  · rw [hcmds]
    exact tfind_tput_self ..
  · exact endKeeps_due hk (List.mem_append_right _ (List.mem_singleton.mpr rfl)) nofun
  · rw [hk.2.1]
    exact congrArg Slot.readyAt (slotAt_putSlot_self ..)

section
variable {o : Ops} {s t : State} {hn dp : Nat} {h : Handle} {d : List Word} {bs : List Byte}
variable (hc : classTrap .a s = none) (hp : portM o 5 32 (atIssue s) = .ok ((hn, h), atIssue s))
  (hd : descM o 32 (atIssue s) = .ok ((dp, d), t)) (hl : relocOk d = true)
  (hs : spanM (d.getD 1 0#64) (wfield (d.getD 1 0#64) 0 56 : Nat) (8 * wfield (d.getD 0 0#64) 8 12) true false t = .ok ((), t))
  (hq : cplM hn dp 5 h.ch (wfield (d.getD 0 0#64) 20 1 == 1) t = .ok ((), t))
  (hr : unitReadM (heapVa t (cidOf s.cur.sid) (wfield (d.getD 0 0#64) 0 6)) 48 t = .ok (bs, t))
include hc hp hd hl hs hq hr

theorem hcompact_spec (hv : hValid (bytesWords 6 bs) = true) (ht : hTenant (bytesWords 6 bs) = (coreAt t (cidOf s.cur.sid)).tenant)
    (ho : ownedBy t (pkgOfC (cidOf s.cur.sid)) (hBase (bytesWords 6 bs)) (hLimit (bytesWords 6 bs)) = true)
    (hh : heapHold t (cidOf s.cur.sid) (slotAt t s.cur.sid).team (hBase (bytesWords 6 bs)) ≠ 0) (hf : portSlotM o hn h t = .ok ((), t)) :
    ∃ u c, exec (.hcompact o) s = .next u ∧ tfind u.cmds t.nextId = some c ∧ c.eng = 5 ∧ c.desc = d ∧ c.sid = s.cur.sid
      ∧ due u (s.now + 40) .relocCommand { a := t.nextId } ∧ (slotAt u s.cur.sid).readyAt = s.now + 5 := by
  have hrd : readKeeps (atIssue s) t := descM_readsOnly o 32 _ _ _ hd
  obtain ⟨hk, -⟩ := markLastB_endKeeps o t
  obtain ⟨c, hfind, heng, hdesc, hsid, hdue, hready⟩ := relocPushed_spec (cidOf s.cur.sid) h hn d (markLastB o t)
  have hcur : (markLastB o t).cur.sid = s.cur.sid := (congrArg Cur.sid ((markLastB_cur o t).trans (readKeeps_cur hrd)) :)
  have hnow : (markLastB o t).now = s.now := (show _ = t.now by rw [hk]).trans (readKeeps_now hrd :)
  have hid : (markLastB o t).nextId = t.nextId := by rw [hk]
  rw [hcur] at hsid hready
  rw [hnow] at hdue hready
  rw [hid] at hfind hdue
  exact ⟨_, c, exec_hcompact_of_heap hc hp hd hl hs hq hr hv ht ho hh hf, hfind, heng, hdesc, hsid, hdue, hready⟩

end

/-! ### The engine's queue (R333) -/

section
variable {s : State} {pkg : Nat} {p : Nat × Nat}

theorem rTake_of_relocating (h : p.2 ∈ (pkgAt s pkg).rle) : rTake pkg [p] s = s := by simp [rTake, h]

/-- The command at the head whose push released writes that are not yet performed (R147). -/
theorem rTake_of_unreleased (h : p.2 ∉ (pkgAt s pkg).rle) (hr : released s (((tfind s.cmds p.1).map (·.entries)).getD []) = false) :
    rTake pkg [p] s = post (s.now + 1) .relocCommand { a := p.1, b := 1 } s := by
  simp [rTake, h, hr]

theorem rTake_of_released (h : p.2 ∉ (pkgAt s pkg).rle) (hr : released s (((tfind s.cmds p.1).map (·.entries)).getD []) = true) :
    rTake pkg [p] s = post (s.now + 220) .relocParse { a := p.1 }
      (modPkg pkg (fun q => { q with rq := q.rq.filter (· != p), rle := q.rle ++ [p.2] }) s) := by
  simp [rTake, h, hr]

theorem rNext_of_empty (h : (pkgAt s pkg).rq = []) : rNext pkg s = s := by rw [rNext, h]; rfl

end

/-- A command joins the queue of a package's engine. -/
def queuedReloc (pkg : Nat) (p : Nat × Nat) (s : State) : State := modPkg pkg (fun q => { q with rq := q.rq ++ [p] }) s

theorem queuedReloc_rq (pkg : Nat) (p : Nat × Nat) (s : State) : (pkgAt (queuedReloc pkg p s) pkg).rq = (pkgAt s pkg).rq ++ [p] := by
  rw [queuedReloc, pkgAt_modPkg_self]

theorem queuedReloc_rle (pkg : Nat) (p : Nat × Nat) (s : State) : (pkgAt (queuedReloc pkg p s) pkg).rle = (pkgAt s pkg).rle := by
  rw [queuedReloc, pkgAt_modPkg_self]

section
variable {s : State} {c : Cmd} (hf : tfind s.cmds s.ev.a = some c)
include hf

theorem exec_relocCommand_of_push (hb : s.ev.b = 0) (hq : (pkgAt s (rOwn c / 2048)).rq = []) : exec .relocCommand s
    = .next (rTake (rOwn c / 2048) [(s.ev.a, rHeap c)] (queuedReloc (rOwn c / 2048) (s.ev.a, rHeap c) s)) := by
  show execRelocCommand s = _
  simp only [execRelocCommand, hf, hb, if_true, rNext, pkgAt_modPkg_self, hq]
  rfl

/-- The command in its turn: it waits for the writes that its push released, is taken, or waits for its heap. -/
theorem relocCommand_spec (hb : s.ev.b = 0) (hq : (pkgAt s (rOwn c / 2048)).rq = []) : ∃ t, exec .relocCommand s = .next t
    ∧ (rHeap c ∉ (pkgAt s (rOwn c / 2048)).rle → released s c.entries = false →
        (pkgAt t (rOwn c / 2048)).rq = [(s.ev.a, rHeap c)] ∧ due t (s.now + 1) .relocCommand { a := s.ev.a, b := 1 })
    ∧ (rHeap c ∉ (pkgAt s (rOwn c / 2048)).rle → released s c.entries = true → rHeap c ∈ (pkgAt t (rOwn c / 2048)).rle
        ∧ due t (s.now + 220) .relocParse { a := s.ev.a })
    ∧ (rHeap c ∈ (pkgAt s (rOwn c / 2048)).rle → (pkgAt t (rOwn c / 2048)).rq = [(s.ev.a, rHeap c)]) := by
  have hrle := queuedReloc_rle (rOwn c / 2048) (s.ev.a, rHeap c) s
  have hrq : (pkgAt (queuedReloc (rOwn c / 2048) (s.ev.a, rHeap c) s) (rOwn c / 2048)).rq = [(s.ev.a, rHeap c)] := by
    rw [queuedReloc_rq, hq, List.nil_append]
  have he : ((tfind (queuedReloc (rOwn c / 2048) (s.ev.a, rHeap c) s).cmds s.ev.a).map (·.entries)).getD [] = c.entries := by
    rw [show (queuedReloc (rOwn c / 2048) (s.ev.a, rHeap c) s).cmds = s.cmds from rfl, hf]
    rfl
  refine ⟨_, exec_relocCommand_of_push hf hb hq, fun hn hr => ?_, fun hn hr => ?_, fun hm => ?_⟩
  · rw [rTake_of_unreleased (by rwa [hrle]) (he.symm ▸ hr)]
    exact ⟨hrq, due_post ..⟩
  · rw [rTake_of_released (by rwa [hrle]) (he.symm ▸ hr)]
    refine ⟨?_, due_post ..⟩
    simp
  · rw [rTake_of_relocating (by rwa [hrle])]
    exact hrq

end

/-! ### The parse and step 1 (R158, R162, R333) -/

section
variable {s : State} {c : Cmd} (hf : tfind s.cmds s.ev.a = some c) (hb : s.ev.b = 0)
  (hp : pagesIn s c [(wfield (rW c 1) 0 56, 8 * rNpg c), (c.result.toNat, 48)])
include hf hb hp

theorem exec_relocParse_of_invalid (hv : rValid s c (rPages s c) = false) :
    exec .relocParse s = .next (post (s.now + 40) .relocComplete { a := s.ev.a, c := 5 } s) := by
  show execRelocParse s = _
  simp only [execRelocParse, hf, hb, if_true, withPages_of_in hp, hv, Bool.not_false, if_true]

variable (hv : rValid s c (rPages s c) = true) (hg : pagesIn s c ((rPages s c).map fun p => (p, 65536)))
include hv hg

theorem exec_relocParse_of_unparsed (hn : (rPages s c).mapM (fun p => parsePage s c p 4097 0) = none) :
    exec .relocParse s = .next (post (s.now + 40) .relocComplete { a := s.ev.a, c := 5 } s) := by
  show execRelocParse s = _
  simp only [execRelocParse, hf, hb, if_true, withPages_of_in hp, hv, withPages_of_in hg, hn, Bool.not_true, Bool.false_eq_true, if_false]

theorem exec_relocParse_of_parsed {os : List (List (Nat × Nat))}
    (ho : (rPages s c).mapM (fun p => parsePage s c p 4097 0) = some os) :
    exec .relocParse s = .next (post (s.now + 240 + 4 * (os.map List.length).sum) .relocParse { s.ev with b := 1 }
      (modCmd s.ev.a (fun x => { x with list := rPages s c }) s)) := by
  show execRelocParse s = _
  simp only [execRelocParse, hf, hb, if_true, withPages_of_in hp, hv, withPages_of_in hg, ho, Bool.not_true, Bool.false_eq_true, if_false]

end

section
variable {β : Type} (φ : State → β) (hw : ∀ c va ws s, φ (rWrite c va ws s) = φ s) (hp : ∀ p f s, φ (modPkg p f s) = φ s)
include hw hp

theorem writePage_leaves (c : Cmd) (w : List Word) (i p : Nat) (objs : List (Nat × Nat)) (s : State) :
    φ (writePage c w i p objs s).2 = φ s := by
  unfold writePage
  generalize List.range 4096 = js
  dsimp only
  rw [hw]
  refine (foldl_leaves (fun q : List Nat × State => φ q.2) (fun q o => ?_) objs _).trans (foldl_leaves φ (fun u _ => hw _ _ _ u) js s)
  dsimp only
  split
  · rw [hp, hw]
  · rw [hw]

end

/-! ### Step 1 and the flip (R162, R333) -/

/-- Step 1: the page entries and the forwarding array of each page of the list are written, in address order. -/
def pagesWritten (c : Cmd) (w : List Word) (ps : List Nat) (s : State) : List Nat × State :=
  (((List.range ps.length).zip ps).foldr pageInsert []).foldl (fun (q : List Nat × State) ip =>
    let (l, s) := writePage c w ip.1 ip.2 ((parsePage q.2 c ip.2 4097 0).getD []) q.2
    (q.1 ++ l, s)) ([], s)

/-- The header: the next good colour, the relocation in progress, and one relocation more. -/
def headerFlipped (c : Cmd) (w : List Word) (s : State) : State :=
  rWrite c (c.result.toNat + 40) [setField (w.getD 5 0#64) 0 32 (wfield (w.getD 5 0#64) 0 32 + 1)]
    (rWrite c c.result.toNat [setField (setField (w.getD 0 0#64) 1 2 (hGood w % 3 + 1)) 3 1 1] s)

/-- The command while the flip is out: the colour, the objects to move, where they go and the acknowledgements to come. -/
def flipCmd (w : List Word) (objs : List Nat) (n : Nat) (c : Cmd) : Cmd :=
  { c with user := hGood w % 3 + 1, aux := objs, nextAt := rDst c, row := n }

/-- The flip goes out to a core. -/
def sendFlip (id : Nat) (s : State) (x : Nat) : State := post (s.now + 30) .flipArrival { a := id, b := x } s

/-- Step 1 of a command is done: the flip can go out to the cores `cs`. -/
def flipStarted (id : Nat) (c : Cmd) (cs : List Nat) (s : State) : State :=
  modCmd id (flipCmd (rEntry s c) (pagesWritten c (rEntry s c) c.list s).1 cs.length)
    (headerFlipped c (rEntry s c) (pagesWritten c (rEntry s c) c.list s).2)

/-- It goes out to each of them; where there is none, the moves begin. -/
def flipOut (id : Nat) (c : Cmd) (cs : List Nat) (s : State) : State :=
  if cs.isEmpty then relocStep id (flipStarted id c cs s) else cs.foldl (sendFlip id) (flipStarted id c cs s)

theorem foldl_sendFlip_due {id x now : Nat} {cs : List Nat} {s : State} (h : x ∈ cs) (hn : s.now = now) :
    due (cs.foldl (sendFlip id) s) (now + 30) .flipArrival { a := id, b := x } := by
  induction cs generalizing s with
  | nil => cases h
  | cons y cs ih =>
    rcases List.mem_cons.mp h with rfl | h
    · subst hn
      exact foldl_keeps (r := fun s t => s.agenda ⊆ t.agenda) (fun _ => List.Subset.refl _) List.Subset.trans
        (fun _ _ => List.subset_append_left _ _) cs (sendFlip id s x) (List.mem_append_right _ (List.mem_singleton.mpr rfl))
    · exact ih (s := sendFlip id s y) h hn

section
variable {β : Type} (φ : State → β) (hw : ∀ c va ws s, φ (rWrite c va ws s) = φ s) (hp : ∀ p f s, φ (modPkg p f s) = φ s)
include hw hp

/-- What the writes of step 1 leave: whatever an engine's write and the engine's own counts leave. -/
theorem headerFlipped_pagesWritten_leaves (c : Cmd) (w : List Word) (ps : List Nat) (s : State) :
    φ (headerFlipped c w (pagesWritten c w ps s).2) = φ s := by
  rw [headerFlipped, hw, hw, pagesWritten]
  generalize ((List.range ps.length).zip ps).foldr pageInsert [] = ips
  refine foldl_leaves (fun q : List Nat × State => φ q.2) (fun q ip => ?_) ips ([], s)
  have h := writePage_leaves φ hw hp c w ip.1 ip.2 ((parsePage q.2 c ip.2 4097 0).getD []) q.2
  generalize writePage c w ip.1 ip.2 ((parsePage q.2 c ip.2 4097 0).getD []) q.2 = r at h ⊢
  exact h

end

section
variable {s : State} {c : Cmd} (hf : tfind s.cmds s.ev.a = some c) (hb : s.ev.b ≠ 0)
  (hp : pagesIn s c ((c.result.toNat, 48) :: (rArr c, 32768 * rNpg c)
    :: (c.list.map fun p => (hFwd (rEntry s c) + 8 * ((p - hBase (rEntry s c)) / 65536), 8)) ++ c.list.map fun p => (p, 65536)))
  (hc : heapCores s (rOwn c / 2048) (rEntry s c) ≠ [])
include hf hb hp hc

theorem exec_relocParse_of_paged : exec .relocParse s = .next ((heapCores s (rOwn c / 2048) (rEntry s c)).foldl (sendFlip s.ev.a)
    (flipStarted s.ev.a c (heapCores s (rOwn c / 2048) (rEntry s c)) s)) := by
  have hrt := headerFlipped_pagesWritten_leaves State.rt (fun c va ws s => traceKeeps_rt (rWrite_traceKeeps c va ws s)) (fun _ _ _ => rfl)
    c (rEntry s c) c.list s
  have hcs : heapCores (headerFlipped c (rEntry s c) (pagesWritten c (rEntry s c) c.list s).2) (rOwn c / 2048) (rEntry s c)
      = heapCores s (rOwn c / 2048) (rEntry s c) := by rw [heapCores, hrt, heapCores]
  have he : (heapCores s (rOwn c / 2048) (rEntry s c)).isEmpty = false := List.isEmpty_eq_false_iff.mpr hc
  show execRelocParse s = _
  simp only [execRelocParse, hf, if_neg hb, withPages_of_in hp]
  show Host.Outcome.next (flipOut s.ev.a c
    (heapCores (headerFlipped c (rEntry s c) (pagesWritten c (rEntry s c) c.list s).2) (rOwn c / 2048) (rEntry s c)) s) = _
  rw [hcs, flipOut, he, if_neg Bool.false_ne_true]

theorem relocParse_paged_spec : ∃ t b, exec .relocParse s = .next t ∧ tfind t.cmds s.ev.a = some b
    ∧ b.row = (heapCores s (rOwn c / 2048) (rEntry s c)).length ∧ b.user = hGood (rEntry s c) % 3 + 1
    ∧ ∀ x, x ∈ heapCores s (rOwn c / 2048) (rEntry s c) → due t (s.now + 30) .flipArrival { a := s.ev.a, b := x } := by
  have hcmds := headerFlipped_pagesWritten_leaves State.cmds (fun c va ws s => traceKeeps_cmds (rWrite_traceKeeps c va ws s))
    (fun _ _ _ => rfl) c (rEntry s c) c.list s
  have hnow := headerFlipped_pagesWritten_leaves State.now (fun c va ws s => traceKeeps_now (rWrite_traceKeeps c va ws s))
    (fun _ _ _ => rfl) c (rEntry s c) c.list s
  refine ⟨_, flipCmd (rEntry s c) (pagesWritten c (rEntry s c) c.list s).1 (heapCores s (rOwn c / 2048) (rEntry s c)).length c,
    exec_relocParse_of_paged hf hb hp hc, ?_, rfl, rfl, fun x hx => foldl_sendFlip_due hx ?_⟩
  · rw [foldl_leaves State.cmds (f := sendFlip s.ev.a) (fun _ _ => rfl), flipStarted, modCmd_find, hcmds, hf]
    rfl
  · exact (modCmd_now ..).trans hnow

end

/-- The core that the flip reaches takes the heap's new colour. -/
def colourTaken (c : Cmd) (s : State) : State := { s with good := tput s.good (s.ev.b * 64 + rHeap c) c.user }

section
variable {s : State} {c : Cmd} (hf : tfind s.cmds s.ev.a = some c)
include hf

theorem exec_flipArrival_of_first (hc : s.ev.c = 0) : exec .flipArrival s = .next
    (if s.accs.any fun p => decide (p.1 < s.nextId) && cidOf p.2.sid == s.ev.b && p.2.store && p.2.heap == rHeap c
        && !p.2.performed && !p.2.rejected then
      post (s.now + 1) .flipArrival { a := s.ev.a, b := s.ev.b, c := s.nextId } (colourTaken c s)
    else post (s.now + 30) .flipAck { a := s.ev.a, b := s.ev.b } (colourTaken c s)) := by
  show execFlipArrival s = _
  simp only [execFlipArrival, hf, hc, if_true]
  rfl

/-- The core takes the colour, and acknowledges once its earlier stores through references of the heap are performed. -/
theorem flipArrival_spec (hc : s.ev.c = 0) : ∃ t, exec .flipArrival s = .next t
    ∧ tget t.good (s.ev.b * 64 + rHeap c) 1 = c.user
    ∧ (let waits := s.accs.any fun p => decide (p.1 < s.nextId) && cidOf p.2.sid == s.ev.b && p.2.store && p.2.heap == rHeap c
        && !p.2.performed && !p.2.rejected
      (waits = true → due t (s.now + 1) .flipArrival { a := s.ev.a, b := s.ev.b, c := s.nextId })
      ∧ (waits = false → due t (s.now + 30) .flipAck { a := s.ev.a, b := s.ev.b })) := by
  refine ⟨_, exec_flipArrival_of_first hf hc, ?_, fun h => ?_, fun h => ?_⟩
  · split <;> exact tget_tput_self ..
  · rw [if_pos h]
    exact due_post ..
  · rw [h, if_neg Bool.false_ne_true]
    exact due_post ..

theorem exec_flipAck_of_cmd : exec .flipAck s = .next (if c.row = 1
    then relocStep s.ev.a (modCmd s.ev.a (fun c => { c with row := c.row - 1 }) s)
    else modCmd s.ev.a (fun c => { c with row := c.row - 1 }) s) := by
  show execFlipAck s = _
  rw [execFlipAck, hf]

end

/-! ### The end of a command -/

theorem modCmd_find_of_none {j id : Nat} {f : Cmd → Cmd} {s : State} (h : tfind s.cmds j = none) :
    tfind (modCmd id f s).cmds j = none := by
  by_cases hj : j = id
  · rw [hj] at h ⊢
    rw [modCmd_find, h]
    rfl
  · unfold modCmd
    split
    · exact (tfind_tput_of_ne _ _ hj).trans h
    · exact h

theorem copyStart_find_of_none {j tid ch : Nat} {s : State} (h : tfind s.cmds j = none) : tfind (copyStart tid ch s).cmds j = none := by
  unfold copyStart
  split
  · exact h
  · split
    · exact h
    · exact modCmd_find_of_none h

theorem endCmd_find (id : Nat) (s : State) : tfind (endCmd id s).cmds id = none := by
  unfold endCmd
  split
  case h_1 h => exact h
  case h_2 c _ =>
    dsimp only
    split
    · split
      · exact tfind_tdel_self ..
      · exact copyStart_find_of_none (tfind_tdel_self ..)
    · exact tfind_tdel_self ..

theorem copyStart_pkgs (tid ch : Nat) (s : State) : (copyStart tid ch s).pkgs = s.pkgs := by
  unfold copyStart
  split
  · rfl
  · split
    · rfl
    · exact modCmd_pkgs ..

theorem endCmd_pkgs (id : Nat) (s : State) : (endCmd id s).pkgs = s.pkgs := by
  unfold endCmd
  split
  · rfl
  · dsimp only
    split
    · split
      · rfl
      · exact copyStart_pkgs ..
    · rfl

/-! ### Elements, counts and wakes leave the packages -/

theorem memSet64_pkgs (key : Nat) (w : Word) (s : State) : (memSet64 key w s).pkgs = s.pkgs := by
  rw [memSet64, (memWrite_traceKeeps _ _ s _).1]

theorem ringPush_pkgs (sid hn : Nat) (x : Word) (s : State) : (ringPush sid hn x s).pkgs = s.pkgs :=
  (memSet64_pkgs _ _ _).trans (memSet64_pkgs _ _ s)

theorem emit_pkgs (id : Nat) (c : Cmd) (x : Word) (last held : Bool) (s : State) : (emit id c x last held s).pkgs = s.pkgs := by
  have hd (u : State) : (if last then endCmd id u else modCmd id (fun c => { c with elem := true }) u).pkgs = u.pkgs := by
    split
    · exact endCmd_pkgs id u
    · exact modCmd_pkgs ..
  unfold emit
  dsimp only
  split
  · rfl
  · split
    · exact hd s
    · split
      · exact hd s
      · split
        · rfl
        · exact (hd _).trans (ringPush_pkgs ..)

theorem rEmit_pkgs (id : Nat) (final : Bool) (st : Nat) (s : State) : (rEmit id final st s).pkgs = s.pkgs := by
  unfold rEmit
  split
  · rfl
  · exact emit_pkgs ..

theorem countPages_pkgs (id limit n : Nat) (s : State) : (countPages id limit n s).pkgs = s.pkgs := by
  induction n generalizing s with
  | zero => rfl
  | succ n ih =>
    unfold countPages
    split
    · rfl
    · split
      · rfl
      · rw [ih]
        split
        · rw [rEmit_pkgs, modCmd_pkgs]
        · exact modCmd_pkgs ..

theorem wakeEntry_pkgs (pkg va : Nat) (s : State) : (wakeEntry pkg va s).pkgs = s.pkgs := by
  refine foldl_leaves State.pkgs (fun u p => ?_) _ s
  split <;> rfl

/-! ### Only an object that is copied counts as moved -/

/-- The objects that a package's engine has moved. -/
def movedOf (p : Nat) (s : State) : Nat := (pkgAt s p).rleMoved

theorem movedOf_of_pkgs {s t : State} (p : Nat) (h : t.pkgs = s.pkgs) : movedOf p t = movedOf p s := by rw [movedOf, pkgAt, h]; rfl

theorem movedOf_modPkg (p i : Nat) {f : Pkg → Pkg} (hf : ∀ k, (f k).rleMoved = k.rleMoved) (s : State) :
    movedOf p (modPkg i f s) = movedOf p s := by
  by_cases h : p = i
  · rw [h, movedOf, pkgAt_modPkg_self, hf, movedOf]
  · rw [movedOf, pkgAt_modPkg_of_ne _ _ h, movedOf]

theorem movedOf_rWrite (p : Nat) (c : Cmd) (va : Nat) (ws : List Word) (s : State) : movedOf p (rWrite c va ws s) = movedOf p s :=
  congrArg Pkg.rleMoved (traceKeeps_pkgAt (rWrite_traceKeeps c va ws s) p)

theorem movedOf_stayAll (p : Nat) (c : Cmd) (os : List Nat) (s : State) : movedOf p (stayAll c os s) = movedOf p s := by
  induction os generalizing s with
  | nil => rfl
  | cons o os ih =>
    unfold stayAll
    rw [ih, movedOf_of_pkgs p (wakeEntry_pkgs ..)]
    exact (movedOf_modPkg p _ (f := fun k => { k with rleStayed := k.rleStayed + 1 }) (fun _ => rfl) _).trans (movedOf_rWrite ..)

theorem movedOf_relocStep (p id : Nat) (s : State) : movedOf p (relocStep id s) = movedOf p s := by
  unfold relocStep
  split
  · rfl
  · dsimp only
    split
    · exact movedOf_of_pkgs p (countPages_pkgs ..)
    · split
      · exact (movedOf_of_pkgs p ((countPages_pkgs ..).trans (modCmd_pkgs ..))).trans
          ((movedOf_stayAll ..).trans (movedOf_of_pkgs p (countPages_pkgs ..)))
      · exact movedOf_of_pkgs p (countPages_pkgs ..)

theorem movedOf_objectOver (p id : Nat) (s : State) : movedOf p (objectOver id s) = movedOf p s := by
  rw [objectOver, movedOf_relocStep, movedOf_of_pkgs p (modCmd_pkgs ..)]

/-! ### Step 4 for one object (R162, R333, R361) -/

/-- The entry of an object is marked BUSY when the engine first comes to it. -/
def entryBusy (c : Cmd) (s : State) : State :=
  if s.ev.c = 0 then rWrite c s.ev.b [word ((rPeek s c s.ev.b).toNat / 8 * 8 + 2)] s else s

/-- An object of `n` bytes at `a` gets its destination: its header says that it moves, a filler closes what is left before. -/
def destTaken (id : Nat) (c : Cmd) (a n : Nat) (s : State) : State :=
  modCmd id (fun c => { c with nextAt := destOf c n + n }) (filler c c.nextAt (destOf c n) (rWrite c a [setField (rPeek s c a) 56 1 1] s))

/-- The bytes of an object of `n` bytes at `a` stand at `d`, with its header as it was before the move. -/
def objectCopied (c : Cmd) (a d n : Nat) (s : State) : State :=
  rWrite c d [setField (rPeek s c a) 56 2 0] (copyBytes c.sid (rOwn c) a d (rTen s c) n (markDSpan (rOwn c) d n s))

/-- The old header says where the object is, and the entry is DONE. -/
def objectRedirected (c : Cmd) (a d oe : Nat) (s : State) : State :=
  let t := rWrite c a [setField (rPeek s c a) 57 1 1, word (c.user * 2 ^ 62 + rHeap c * 2 ^ 56 + d)] s
  rWrite c oe [setField (setField (rPeek t c oe) 0 56 d) 0 3 3] t

theorem entryBusy_traceKeeps (c : Cmd) (s : State) : traceKeeps s (entryBusy c s) :=
  traceKeeps_ite (rWrite_traceKeeps ..) (traceKeeps_refl s)

theorem destTaken_now (id : Nat) (c : Cmd) (a n : Nat) (s : State) : (destTaken id c a n s).now = s.now :=
  (modCmd_now ..).trans (traceKeeps_now (traceKeeps_trans (rWrite_traceKeeps ..) (filler_traceKeeps ..)))

theorem destTaken_pkgAt (id : Nat) (c : Cmd) (a n p : Nat) (s : State) : pkgAt (destTaken id c a n s) p = pkgAt s p := by
  rw [destTaken, pkgAt, modCmd_pkgs]
  exact traceKeeps_pkgAt (traceKeeps_trans (rWrite_traceKeeps ..) (filler_traceKeeps ..)) p

theorem objectCopied_traceKeeps (c : Cmd) (a d n : Nat) (s : State) : traceKeeps s (objectCopied c a d n s) :=
  traceKeeps_trans (markDSpan_traceKeeps ..) (traceKeeps_trans (copyBytes_traceKeeps ..) (rWrite_traceKeeps ..))

theorem objectRedirected_traceKeeps (c : Cmd) (a d oe : Nat) (s : State) : traceKeeps s (objectRedirected c a d oe s) :=
  traceKeeps_trans (rWrite_traceKeeps ..) (rWrite_traceKeeps ..)

section
variable {s : State} {c : Cmd} {obj : Nat} {l : List Nat} (hf : tfind s.cmds s.ev.a = some c) (ha : c.aux = obj :: l)
include hf ha

section
variable (hp : pagesIn s c [(s.ev.b, 8), (nfield obj 0 56, 16 * (obj / 2 ^ 68)), (destOf c (16 * (obj / 2 ^ 68)), 16 * (obj / 2 ^ 68))])
include hp

/-- A writer is in the object: the entry is looked at in the next cycle. -/
theorem exec_relocObjectBusy_of_inflight (hi : wfield (rPeek s c s.ev.b) 56 8 ≠ 0) :
    exec .relocObjectBusy s = .next (post (s.now + 1) .relocObjectBusy { s.ev with c := 1 } (entryBusy c s)) := by
  have hk := entryBusy_traceKeeps c s
  show execRelocObjectBusy s = _
  rw [entryBusy] at *
  simp only [execRelocObjectBusy, hf, ha, withPages_of_in hp, if_pos hi, traceKeeps_now hk]

/-- No writer and no pin: the object is copied, where the package's engine copies no other. -/
theorem exec_relocObjectBusy_of_free (hc : s.ev.c = 1) (hi : wfield (rPeek s c s.ev.b) 56 8 = 0)
    (hpin : wfield (rPeek s c (nfield obj 0 56)) 48 8 = 0) (hn : (pkgAt s (rOwn c / 2048)).copying = 0) :
    exec .relocObjectBusy s = .next (post (s.now + 300 + (16 * (obj / 2 ^ 68) + 63) / 64) .relocObjectDone
      { a := s.ev.a, b := s.ev.b, d := destOf c (16 * (obj / 2 ^ 68)) }
      (modPkg (rOwn c / 2048) (fun k => { k with copying := s.ev.a + 1 })
        (destTaken s.ev.a c (nfield obj 0 56) (16 * (obj / 2 ^ 68)) s))) := by
  have hpkg := destTaken_pkgAt s.ev.a c (nfield obj 0 56) (16 * (obj / 2 ^ 68)) (rOwn c / 2048) s
  have hnow := destTaken_now s.ev.a c (nfield obj 0 56) (16 * (obj / 2 ^ 68)) s
  show execRelocObjectBusy s = _
  rw [destTaken] at *
  simp only [execRelocObjectBusy, hf, ha, withPages_of_in hp, hc, hi, hpin, ne_eq, not_true_eq_false, and_false, if_false, one_ne_zero,
    Nat.one_lt_ofNat, if_true, hpkg, hn, hnow]

theorem relocObjectBusy_spec :
    (wfield (rPeek s c s.ev.b) 56 8 ≠ 0 → ∃ t, exec .relocObjectBusy s = .next t
      ∧ due t (s.now + 1) .relocObjectBusy { s.ev with c := 1 })
    ∧ (s.ev.c = 1 → wfield (rPeek s c s.ev.b) 56 8 = 0 → wfield (rPeek s c (nfield obj 0 56)) 48 8 = 0 →
        (pkgAt s (rOwn c / 2048)).copying = 0 → ∃ t, exec .relocObjectBusy s = .next t
      ∧ due t (s.now + 300 + (16 * (obj / 2 ^ 68) + 63) / 64) .relocObjectDone
        { a := s.ev.a, b := s.ev.b, d := destOf c (16 * (obj / 2 ^ 68)) }
      ∧ (pkgAt t (rOwn c / 2048)).copying = s.ev.a + 1) := by
  refine ⟨fun hi => ⟨_, exec_relocObjectBusy_of_inflight hf ha hp hi, due_post ..⟩, fun hc hi hpin hn =>
    ⟨_, exec_relocObjectBusy_of_free hf ha hp hc hi hpin hn, due_post .., ?_⟩⟩
  rw [pkgAt_post, pkgAt_modPkg_self]

end

section
variable (hp : pagesIn s c [(s.ev.b, 8), (nfield obj 0 56, 16 * (obj / 2 ^ 68)), (s.ev.d, 16 * (obj / 2 ^ 68))])
include hp

/-- The copy ends; what it says comes 224 cycles later. -/
theorem exec_relocObjectDone_of_copied (hc : s.ev.c = 0) :
    exec .relocObjectDone s = .next (post (s.now + 224) .relocObjectDone { s.ev with c := 1 }
      (modPkg (rOwn c / 2048) (fun k => { k with copying := 0 }) (objectCopied c (nfield obj 0 56) s.ev.d (16 * (obj / 2 ^ 68)) s))) := by
  have hnow := traceKeeps_now (objectCopied_traceKeeps c (nfield obj 0 56) s.ev.d (16 * (obj / 2 ^ 68)) s)
  show execRelocObjectDone s = _
  rw [objectCopied] at *
  simp only [execRelocObjectDone, hf, ha, withPages_of_in hp, hc, if_true, hnow]

theorem exec_relocObjectDone_of_redirected (hc : s.ev.c ≠ 0) :
    exec .relocObjectDone s = .next (objectOver s.ev.a (wakeEntry (rOwn c / 2048) s.ev.b
      (modPkg (rOwn c / 2048) (fun k => { k with rleMoved := k.rleMoved + 1 })
        (objectRedirected c (nfield obj 0 56) s.ev.d s.ev.b s)))) := by
  show execRelocObjectDone s = _
  simp only [execRelocObjectDone, hf, ha, withPages_of_in hp, if_neg hc]
  rfl

theorem relocObjectDone_spec :
    (s.ev.c = 0 → ∃ t, exec .relocObjectDone s = .next t ∧ due t (s.now + 224) .relocObjectDone { s.ev with c := 1 }
      ∧ (pkgAt t (rOwn c / 2048)).copying = 0)
    ∧ (s.ev.c ≠ 0 → ∃ t, exec .relocObjectDone s = .next t
      ∧ (pkgAt t (rOwn c / 2048)).rleMoved = (pkgAt s (rOwn c / 2048)).rleMoved + 1) := by
  refine ⟨fun hc => ⟨_, exec_relocObjectDone_of_copied hf ha hp hc, due_post .., ?_⟩, fun hc =>
    ⟨_, exec_relocObjectDone_of_redirected hf ha hp hc, ?_⟩⟩
  · rw [pkgAt_post, pkgAt_modPkg_self]
  · rw [← movedOf, movedOf_objectOver, movedOf_of_pkgs _ (wakeEntry_pkgs ..), movedOf, pkgAt_modPkg_self,
      traceKeeps_pkgAt (objectRedirected_traceKeeps ..)]

end
end

/-! ### Step 5 (R162, R333, R334) -/

/-- The heap is free for the next relocation; its command is at its end. -/
def heapFreed (id : Nat) (c : Cmd) (s : State) : State :=
  modCmd id (fun c => { c with placed := true }) (modPkg (rOwn c / 2048) (fun k => { k with rle := k.rle.erase (rHeap c) }) s)

/-- The last writes: a filler to the end of the last destination page, and the header's bit of a relocation in progress. -/
def relocClosed (c : Cmd) (s : State) : State :=
  let t := filler c c.nextAt ((c.nextAt + 65535) / 65536 * 65536) s
  rWrite c c.result.toNat [setField (rPeek t c c.result.toNat) 3 1 0] t

theorem relocClosed_traceKeeps (c : Cmd) (s : State) : traceKeeps s (relocClosed c s) :=
  traceKeeps_trans (filler_traceKeeps ..) (rWrite_traceKeeps ..)

theorem heapFreed_pkgAt (id : Nat) (c : Cmd) (s : State) : pkgAt (heapFreed id c s) (rOwn c / 2048)
    = { pkgAt s (rOwn c / 2048) with rle := (pkgAt s (rOwn c / 2048)).rle.erase (rHeap c) } := by
  rw [heapFreed, pkgAt, modCmd_pkgs]
  exact pkgAt_modPkg_self ..

theorem heapFreed_ev (id : Nat) (c : Cmd) (s : State) : (heapFreed id c s).ev = s.ev := modCmd_ev ..

theorem heapFreed_find {id : Nat} {c : Cmd} {s : State} (hf : tfind s.cmds id = some c) :
    tfind (heapFreed id c s).cmds id = some { c with placed := true } :=
  (modCmd_find ..).trans (congrArg (Option.map _) hf)

theorem heapFreed_stores (id : Nat) (c : Cmd) (s : State) : (heapFreed id c s).stores = s.stores := modCmd_stores ..

theorem cmdAway_heapFreed (id : Nat) (c : Cmd) (s : State) : cmdAway (heapFreed id c s) { c with placed := true } = cmdAway s c := by
  simp only [cmdAway, coreAt, gangAt, heapFreed, modCmd_cores, modCmd_gangs]
  rfl

theorem cmdLive_heapFreed (id : Nat) (c : Cmd) (s : State) : cmdLive (heapFreed id c s) { c with placed := true } = cmdLive s c := by
  simp only [cmdLive, coreAt, slotAt, heapFreed, modCmd_cores, modCmd_slots]
  rfl

/-- The element of a command whose strand is gone is not placed: the command ends. -/
theorem emit_of_gone {id : Nat} {c : Cmd} {x : Word} {held : Bool} {s : State} (ha : cmdAway s c = false) (hl : cmdLive s c = false) :
    emit id c x true held s = endCmd id s := by
  simp only [emit, ha, hl, Bool.not_false, Bool.false_eq_true, if_false, if_true]

/-- Where no command waits, the one that ends leaves its heap's place in the list of those that relocate. -/
theorem endCmd_heapFreed {id : Nat} {c : Cmd} {s : State} (hq : (pkgAt s (rOwn c / 2048)).rq = []) :
    rNext (rOwn c / 2048) (endCmd id (heapFreed id c s)) = endCmd id (heapFreed id c s)
    ∧ (pkgAt (endCmd id (heapFreed id c s)) (rOwn c / 2048)).rle = (pkgAt s (rOwn c / 2048)).rle.erase (rHeap c) := by
  have hk : pkgAt (endCmd id (heapFreed id c s)) (rOwn c / 2048) = pkgAt (heapFreed id c s) (rOwn c / 2048) := by
    rw [pkgAt, endCmd_pkgs, ← pkgAt]
  rw [heapFreed_pkgAt] at hk
  exact ⟨rNext_of_empty (hk ▸ hq), by rw [hk]⟩

section
variable {s : State} {c : Cmd} (hf : tfind s.cmds s.ev.a = some c) (hq : (pkgAt s (rOwn c / 2048)).rq = [])
include hf hq

theorem exec_relocComplete_of_silent (hc : s.ev.c ≠ 5) (hcpl : c.cpl = false) (hp : pagesIn s c ((c.result.toNat, 8)
      :: (if c.nextAt < (c.nextAt + 65535) / 65536 * 65536 then [(c.nextAt, 16)] else []))) :
    exec .relocComplete s = .next (endCmd s.ev.a (heapFreed s.ev.a c (relocClosed c s))) := by
  have hq' : (pkgAt (relocClosed c s) (rOwn c / 2048)).rq = [] := by rwa [traceKeeps_pkgAt (relocClosed_traceKeeps c s)]
  have hev : (heapFreed s.ev.a c (relocClosed c s)).ev = s.ev := (heapFreed_ev ..).trans (traceKeeps_ev (relocClosed_traceKeeps c s))
  show execRelocComplete s = _
  simp only [execRelocComplete, hf, if_neg hc, withPages_of_in hp, hcpl, Bool.false_or]
  show Host.Outcome.next (rNext _ (if decide ((heapFreed s.ev.a c (relocClosed c s)).ev.c = 5) = true then _ else _)) = _
  rw [hev, decide_eq_false hc, if_neg Bool.false_ne_true]
  exact congrArg Host.Outcome.next (endCmd_heapFreed hq').1

/-- The command was INVALID, and no strand is there for its element. -/
theorem exec_relocComplete_of_invalid (hc : s.ev.c = 5) (ha : cmdAway s c = false) (hl : cmdLive s c = false) :
    exec .relocComplete s = .next (endCmd s.ev.a (heapFreed s.ev.a c s)) := by
  have he : rEmit s.ev.a true (heapFreed s.ev.a c s).ev.c (heapFreed s.ev.a c s) = endCmd s.ev.a (heapFreed s.ev.a c s) := by
    rw [rEmit, heapFreed_find hf]
    exact emit_of_gone ((cmdAway_heapFreed ..).trans ha) ((cmdLive_heapFreed ..).trans hl)
  have hp : pagesIn s c [] := nofun
  show execRelocComplete s = _
  simp only [execRelocComplete, hf, if_pos hc, withPages_of_in hp]
  show Host.Outcome.next (rNext _ (if (c.cpl || decide ((heapFreed s.ev.a c s).ev.c = 5)) = true then rEmit s.ev.a true _ _ else _)) = _
  rw [heapFreed_ev, decide_eq_true hc, Bool.or_true, if_pos rfl]
  exact congrArg Host.Outcome.next ((congrArg _ he).trans (endCmd_heapFreed hq).1)

theorem relocComplete_spec :
    (s.ev.c ≠ 5 → c.cpl = false → pagesIn s c ((c.result.toNat, 8)
        :: (if c.nextAt < (c.nextAt + 65535) / 65536 * 65536 then [(c.nextAt, 16)] else [])) →
      ∃ t, exec .relocComplete s = .next t ∧ tfind t.cmds s.ev.a = none
        ∧ (pkgAt t (rOwn c / 2048)).rle = (pkgAt s (rOwn c / 2048)).rle.erase (rHeap c))
    ∧ (s.ev.c = 5 → cmdAway s c = false → cmdLive s c = false → ∃ t, exec .relocComplete s = .next t
      ∧ tfind t.cmds s.ev.a = none ∧ t.mem = s.mem
      ∧ (pkgAt t (rOwn c / 2048)).rle = (pkgAt s (rOwn c / 2048)).rle.erase (rHeap c)) := by
  refine ⟨fun hc hcpl hp => ⟨_, exec_relocComplete_of_silent hf hq hc hcpl hp, endCmd_find .., ?_⟩, fun hc ha hl =>
    ⟨_, exec_relocComplete_of_invalid hf hq hc ha hl, endCmd_find .., ?_, (endCmd_heapFreed hq).2⟩⟩
  · have hk := traceKeeps_pkgAt (relocClosed_traceKeeps c s) (rOwn c / 2048)
    rw [(endCmd_heapFreed (hk ▸ hq)).2, hk]
  · exact mem_of_stores ((endCmd_stores ..).trans (heapFreed_stores ..))

end

/-- Settles O55: each event of the engine by the equation of its case, the engine's own writes leaving clock, commands and package. -/
theorem relocation : Obligations.Relocation := by
  unfold Obligations.Relocation
  refine ⟨fun o s hn h dp d t bs hc hp hd hl hs hq hr => ⟨fun hw => ?_, fun hv ht ho hh hf => ?_⟩, fun s c hf hb hq => ?_,
    fun s c hf => ⟨fun hb hp => ?_, fun hb hc hp => ?_⟩, fun s c hf hc => ?_, fun s c hf => ?_,
    fun s c obj l hf ha => ⟨fun hp => ?_, fun hp => ?_⟩, fun s c hf hq => ?_⟩
  · exact exec_hcompact_of_heapless hc hp hd hl hs hq hr hw
  · exact hcompact_spec hc hp hd hl hs hq hr hv ht ho hh hf
  · exact relocCommand_spec hf hb hq
  · simp only [hb, if_true]
    exact ⟨exec_relocParse_of_invalid hf hb hp, fun hv hg => ⟨exec_relocParse_of_unparsed hf hb hp hv hg,
      fun os ho => exec_relocParse_of_parsed hf hb hp hv hg ho⟩⟩
  · simp only [if_neg hb] at hp
    exact relocParse_paged_spec hf hb hp hc
  · exact flipArrival_spec hf hc
  · exact exec_flipAck_of_cmd hf
  · exact relocObjectBusy_spec hf ha hp
  · exact relocObjectDone_spec hf ha hp
  · exact relocComplete_spec hf hq

end Sys2Proof.Machine
end

section
/-!
SUPPORT. GCONT and GSCAN (`Obligations.Collectives`): the checks of R176, then the ways in which the two end.
-/

namespace Sys2Proof.Machine

/-! ### The checks of a contribution (R176) -/

/-- The core is a member of the combining group, and the group's operator is defined. -/
abbrev groupOk (s : State) (cid g : Nat) : Prop := groupMember s cid g = true ∧ cnOpOf (cnWord s (tidOfC cid * 256 + g)) ≤ 10

theorem groupImm_of_one {o : Ops} (s : State) (hx : o.xi.length = 1) (hb : (bitsR o).1 < 256) : groupImm o s = .ok ((bitsR o).1, s) := by
  simp [groupImm, bind_apply, need9, hx, hb]

theorem groupM_of_ok {g : Nat} {scan : Bool} {s : State} (h : groupOk s (cidOf s.cur.sid) g)
    (hs : scan = true → isScan (cnOpOf (cnWord s (tidOfC (cidOf s.cur.sid) * 256 + g))) = true) : groupM g scan s = .ok ((), s) := by
  cases scan with
  | false => simp [groupM, bind_apply, h.1, h.2]
  | true => simp [groupM, bind_apply, h.1, h.2, hs rfl]

theorem groupM_of_bad {g : Nat} {scan : Bool} {s : State} (h : ¬ groupOk s (cidOf s.cur.sid) g
    ∨ scan = true ∧ isScan (cnOpOf (cnWord s (tidOfC (cidOf s.cur.sid) * 256 + g))) = false) :
    groupM g scan s = .error (.trap 0x1D (word g) 0#64) := by
  have hn : (groupMember s (cidOf s.cur.sid) g && decide (cnOpOf (cnWord s (tidOfC (cidOf s.cur.sid) * 256 + g)) ≤ 10)
      && (!scan || isScan (cnOpOf (cnWord s (tidOfC (cidOf s.cur.sid) * 256 + g))))) = false := by
    rcases h with h | ⟨rfl, h⟩
    · rw [groupOk, ← decide_eq_true_iff (p := _ ≤ 10), ← Bool.and_eq_true, Bool.not_eq_true] at h
      rw [h, Bool.false_and]
    · rw [h]
      exact Bool.and_false _
  simp only [groupM, bind_apply, askM_apply, id, hn, Bool.false_eq_true, if_false, trapM_apply]

theorem readKeeps_cnGrp {s t : State} (h : readKeeps s t) : t.cnGrp = s.cnGrp := by rw [h.1]

/-! ### GCONT and GSCAN (R344, R345) -/

section
variable {o : Ops} {s t : State} {x : Word} (hr : readsB .b o s x t) (hx : o.xi.length = 1) (hb : (bitsR o).1 < 256)
include hr

theorem readsB_sid : t.cur.sid = s.cur.sid := (congrArg Cur.sid (readsB_cur hr)).trans rfl

theorem readsB_cnWord (nk : Nat) : cnWord t nk = cnWord s nk := by
  rw [cnWord, readKeeps_cnGrp (readsB_readKeeps hr), cnWord]
  rfl

theorem readsB_groupOk (g : Nat) : groupOk t (cidOf t.cur.sid) g ↔ groupOk s (cidOf s.cur.sid) g := by
  have hm (cid : Nat) : groupMember t cid g = groupMember s cid g := by
    rw [groupMember, readKeeps_cnGrp (readsB_readKeeps hr), groupMember]
    rfl
  rw [groupOk, readsB_sid hr, readsB_cnWord hr, hm]

theorem readsB_isScan (g : Nat) : isScan (cnOpOf (cnWord t (tidOfC (cidOf t.cur.sid) * 256 + g)))
    = isScan (cnOpOf (cnWord s (tidOfC (cidOf s.cur.sid) * 256 + g))) := by
  rw [readsB_sid hr, readsB_cnWord hr]

theorem readsB_markLastB_manual : (markLastB o t).cur.manual = false := by
  rw [(readsB_markLastB hr).1]
  rfl

include hx hb

theorem exec_gcont_of_bad (h : ¬ groupOk s (cidOf s.cur.sid) (bitsR o).1) :
    exec (.gcont o) s = .next (trapsAt s 0x1D (word (bitsR o).1) 0#64) := by
  have hg := groupM_of_bad (scan := false) (.inl (mt (readsB_groupOk hr _).1 h))
  exact issue_of_trap hr.1 (by simp only [bind_apply, groupImm_of_one _ hx hb, hr.2, hg])

theorem exec_gscan_of_bad (h : ¬ groupOk s (cidOf s.cur.sid) (bitsR o).1
      ∨ isScan (cnOpOf (cnWord s (tidOfC (cidOf s.cur.sid) * 256 + (bitsR o).1))) = false) (hf : dstFree o t) :
    exec (.gscan o) s = .next (trapsAt s 0x1D (word (bitsR o).1) 0#64) := by
  have hg := groupM_of_bad (scan := true) (h.imp (mt (readsB_groupOk hr _).1) fun hs => ⟨rfl, (readsB_isScan hr _).trans hs⟩)
  rw [dstFree] at hf
  exact issue_of_trap hr.1 (by simp only [bind_apply, groupImm_of_one _ hx hb, hr.2, hf, hg])

variable (h : groupOk s (cidOf s.cur.sid) (bitsR o).1) (hd : drained t s.cur.sid = true)
include h hd

/-- Two instances of the group are held already (R174). -/
theorem exec_gcont_of_full (hw : cnWouldWait t (cidOf s.cur.sid) (bitsR o).1 = true) : exec (.gcont o) s = .next (waitState s) := by
  have hg := groupM_of_ok (scan := false) ((readsB_groupOk hr _).2 h) nofun
  refine issue_of_wait hr.1 ?_
  simp only [bind_apply, groupImm_of_one _ hx hb, hr.2, hg, drainM_of_drained ((readsB_sid hr).symm ▸ hd), askM_apply, id, readsB_sid hr,
    hw, Bool.not_true, waitUnless_false]

variable (hw : cnWouldWait t (cidOf s.cur.sid) (bitsR o).1 = false)
include hw

theorem exec_gcont_of_room : exec (.gcont o) s = .next (completeIssue (contribute (cidOf s.cur.sid) (bitsR o).1 x
    { sid := s.cur.sid, gen := (slotAt t s.cur.sid).gen } (markLastB o t))) := by
  have hg := groupM_of_ok (scan := false) ((readsB_groupOk hr _).2 h) nofun
  refine issue_of_ok hr.1 ?_ (readsB_markLastB_manual hr :)
  simp only [bind_apply, groupImm_of_one _ hx hb, hr.2, hg, drainM_of_drained ((readsB_sid hr).symm ▸ hd), askM_apply, id,
    readsB_sid hr, hw, Bool.not_false, waitUnless_true, lastUseB, updM_apply]

theorem exec_gscan_of_room (hs : isScan (cnOpOf (cnWord s (tidOfC (cidOf s.cur.sid) * 256 + (bitsR o).1))) = true) (hf : dstFree o t) :
    exec (.gscan o) s = .next (completeIssue (contribute (cidOf s.cur.sid) (bitsR o).1 x
      { sid := s.cur.sid, gen := (slotAt t s.cur.sid).gen, kind := 1, dst := dstRid o
        npc := (s.cur.ipc + 2 * s.cur.words.length) % vaTop }
      (if dstRid o % 128 = 0 then markLastB o t else addBusy s.cur.sid (dstRid o % 128) (markLastB o t)))) := by
  have hg := groupM_of_ok (scan := true) ((readsB_groupOk hr _).2 h) fun _ => (readsB_isScan hr _).trans hs
  have hi : t.cur.ipc = s.cur.ipc := (congrArg Cur.ipc (readsB_cur hr)).trans rfl
  have hl : t.cur.words = s.cur.words := (congrArg Cur.words (readsB_cur hr)).trans rfl
  rw [dstFree] at hf
  refine issue_of_ok hr.1 ?_ ?_
  · simp only [bind_apply, groupImm_of_one _ hx hb, hr.2, hf, hg, drainM_of_drained ((readsB_sid hr).symm ▸ hd), askM_apply, id,
      readsB_sid hr, hi, hl, hw, Bool.not_false, waitUnless_true, lastUseB, updM_apply]
  · split <;> exact readsB_markLastB_manual hr

end

end Sys2Proof.Machine
end

section
/-!
SUPPORT. Nodes of the combining network and their results at a core (`Obligations.Collectives`).
-/

namespace Sys2Proof.Machine

/-! ### A node's partial (R173, R174) -/

section
variable {s : State} {nk seq : Nat} {l : List (Nat × Word × Nat)} (hs : (tget s.cnInst (nk * 2 + seq % 2) { seq := seq }).sent = false)
  (ho : cnOperands (cnWord s nk) (tget s.cnInst (nk * 2 + seq % 2) { seq := seq }) = some l) (hl : l ≠ [])
include hs ho hl

/-- At the root the sum is complete; a scan starts from 0. -/
theorem cnTry_root_due (hp : wfield (cnWord s nk) 14 3 = 7) : due (cnTry nk seq s) s.now .cnInstanceComplete
    { a := nk, b := seq, p := .contrib ⟨[if isScan (cnOpOf (cnWord s nk)) = true then 0#64
        else cnFold (cnOpOf (cnWord s nk)) (l.map fun x => x.2.1)], l.foldl (fun n x => stOr n x.2.2) 0, 0⟩ } := by
  obtain ⟨x, r, rfl⟩ := List.exists_cons_of_ne_nil hl
  simp only [cnTry, hs, ho, Bool.false_eq_true, if_false, if_pos hp]
  exact due_post ..

theorem cnTry_pavilion_due (hp : wfield (cnWord s nk) 14 3 = 4) : due (cnTry nk seq s) (s.now + edgePath (nk / 256)) .ferArrival
    { p := .fer ⟨nk / 256 / 2048, if tileX (nk / 256) < 32 then 0 else 1, nk % 256, seq, 0, nk / 256 / 2048, nk / 256,
        (tileAt s (nk / 256)).tenant,
        ⟨[cnFold (cnOpOf (cnWord s nk)) (l.map fun x => x.2.1)], l.foldl (fun n x => stOr n x.2.2) 0, 1⟩⟩ } := by
  obtain ⟨x, r, rfl⟩ := List.exists_cons_of_ne_nil hl
  have h7 : wfield (cnWord s nk) 14 3 ≠ 7 := by omega
  simp only [cnTry, hs, ho, Bool.false_eq_true, if_false, if_neg h7, if_pos hp]
  exact due_post ..

theorem cnTry_parent_due {v : Nat} (hp : wfield (cnWord s nk) 14 3 < 4) (hv : neighbour (nk / 256) (wfield (cnWord s nk) 14 3) = some v) :
    due (cnTry nk seq s) (s.now + 5 + 8 * crossings (nk / 256) v) .cnPartial
      { a := v * 256 + nk % 256, b := seq, c := 4 + (wfield (cnWord s nk) 14 3 + 2) % 4
        p := .contrib ⟨[cnFold (cnOpOf (cnWord s nk)) (l.map fun x => x.2.1)], l.foldl (fun n x => stOr n x.2.2) 0, 1⟩ } := by
  obtain ⟨x, r, rfl⟩ := List.exists_cons_of_ne_nil hl
  have h7 : wfield (cnWord s nk) 14 3 ≠ 7 := by omega
  have h4 : wfield (cnWord s nk) 14 3 ≠ 4 := by omega
  simp only [cnTry, hs, ho, Bool.false_eq_true, if_false, if_neg h7, if_neg h4, hv]
  exact due_post ..

end

/-! ### What reaches a node (R171, R173) -/

section
variable {s : State} {c : Contrib} (hp : s.ev.p = .contrib c)
include hp

theorem exec_cnPartial_of_core (hc : s.ev.c < 4) :
    let ik := s.ev.a * 2 + s.ev.b % 2
    let i := tget s.cnInst ik { seq := s.ev.b }
    exec .cnPartial s = .next (cnTry s.ev.a s.ev.b
      { s with cnInst := tput s.cnInst ik { i with cores := i.cores ++ [(s.ev.c, c.vals.headD 0#64)] } }) := by
  intro ik i
  show execCnPartial s = _
  simp only [execCnPartial, hp, if_pos hc]
  rfl

variable (hc : 4 ≤ s.ev.c)
include hc

theorem exec_cnPartial_of_listed (hl : wfield (cnWord s s.ev.a) 0 1 = 1 ∧ s.ev.c - 4 ∈ cnKids (cnWord s s.ev.a)) :
    let ik := s.ev.a * 2 + s.ev.b % 2
    let i := tget s.cnInst ik { seq := s.ev.b }
    exec .cnPartial s = .next (cnTry s.ev.a s.ev.b
      { s with cnInst := tput s.cnInst ik { i with kids := i.kids ++ [(s.ev.c - 4, c)] } }) := by
  intro ik i
  have hk : ¬ (wfield (cnWord s s.ev.a) 0 1 = 0 ∨ (cnKids (cnWord s s.ev.a)).contains (s.ev.c - 4) = false) := by
    simp [hl.1, hl.2]
  show execCnPartial s = _
  simp only [execCnPartial, hp, if_neg (Nat.not_lt.2 hc), if_neg hk]
  rfl

theorem exec_cnPartial_of_unlisted (hl : ¬ (wfield (cnWord s s.ev.a) 0 1 = 1 ∧ s.ev.c - 4 ∈ cnKids (cnWord s s.ev.a))) :
    exec .cnPartial s = .next (cnErrUp (s.ev.a / 256) s) := by
  have hk : wfield (cnWord s s.ev.a) 0 1 = 0 ∨ (cnKids (cnWord s s.ev.a)).contains (s.ev.c - 4) = false := by
    have h2 := wfield_lt (cnWord s s.ev.a) 0 1
    rw [not_and_or] at hl
    refine hl.imp (fun h => by omega) fun h => ?_
    rwa [← Bool.not_eq_true, List.contains_iff_mem]
  show execCnPartial s = _
  simp only [execCnPartial, hp, if_neg (Nat.not_lt.2 hc), if_pos hk]

end

/-! ### Folds that post events -/

/-- An event that one step of a fold posts stays on the agenda, where what the step rests on is kept by every step. -/
theorem foldl_due {α : Type} {I : State → Prop} {f : State → α → State} {l : List α} {b : α} {c : Nat} {i : Instr} {x : EvArg}
    (hb : b ∈ l) (hkeep : ∀ s a, I s → I (f s a)) (hsub : ∀ s a, s.agenda ⊆ (f s a).agenda) (hdue : ∀ s, I s → due (f s b) c i x)
    {s : State} (hs : I s) : due (l.foldl f s) c i x := by
  induction l generalizing s with
  | nil => cases hb
  | cons a l ih =>
    rcases List.mem_cons.mp hb with rfl | hb
    · exact foldl_keeps (r := fun s t => s.agenda ⊆ t.agenda) (fun _ => List.Subset.refl _) List.Subset.trans hsub l _ (hdue s hs)
    · exact ih hb (hkeep s a hs)

/-! ### A result on its way down (R174, R175) -/

/-- The field SEQ of a node's entry, as it is written. -/
theorem wfield_setField_seq (e : Word) (v : Nat) : wfield (setField e 32 16 v) 32 16 = v % 65536 := by
  have he := e.isLt
  simp only [setField, wfield, nfield, word, BitVec.toNat_ofNat, Nat.shiftRight_eq_div_pow]
  omega

/-- The share of a result for one place of the node: a core, or a child, from which it goes on down. -/
def sendShare (nk seq st : Nat) (s : State) (p : Nat × Word) : State :=
  if p.1 < 4 then post s.now .cnResultArrival { a := nk, b := seq, c := nk / 256 * 4 + p.1, p := .contrib ⟨[p.2], st, 0⟩ } s
  else
    match neighbour (nk / 256) (p.1 - 4) with
    | some t => post (s.now + 3 + 8 * crossings (nk / 256) t) .cnResultArrival
        { a := t * 256 + nk % 256, b := seq, flag := true, p := .contrib ⟨[p.2], st, 0⟩ } s
    | none => s

theorem sendShare_leaves {β : Type} (φ : State → β)
    (h : ∀ (s : State) (a : List (Nat × Instr × EvArg)), φ { s with agenda := a } = φ s)
    (nk seq st : Nat) (s : State) (p : Nat × Word) : φ (sendShare nk seq st s p) = φ s := by
  unfold sendShare
  split
  · exact h ..
  · split
    · exact h ..
    · rfl

theorem sendShare_agenda (nk seq st : Nat) (s : State) (p : Nat × Word) : s.agenda ⊆ (sendShare nk seq st s p).agenda := by
  unfold sendShare
  split
  · exact List.subset_append_left _ _
  · split
    · exact List.subset_append_left _ _
    · exact List.Subset.refl _

theorem foldl_sendShare_due {nk seq st c : Nat} {i : Instr} {x : EvArg} {l : List (Nat × Word)} {p : Nat × Word} (hp : p ∈ l) (s : State)
    (h : ∀ u : State, u.now = s.now → due (sendShare nk seq st u p) c i x) : due (l.foldl (sendShare nk seq st) s) c i x :=
  foldl_due (I := fun u => u.now = s.now) hp (fun u q hu => (sendShare_leaves State.now (fun _ _ => rfl) nk seq st u q).trans hu)
    (sendShare_agenda nk seq st) h rfl

theorem sendShare_core_due {nk seq st : Nat} {p : Nat × Word} (s : State) (hp : p.1 < 4) :
    due (sendShare nk seq st s p) s.now .cnResultArrival { a := nk, b := seq, c := nk / 256 * 4 + p.1, p := .contrib ⟨[p.2], st, 0⟩ } := by
  rw [sendShare, if_pos hp]
  exact due_post ..

theorem sendShare_child_due {nk seq st v : Nat} {p : Nat × Word} (s : State) (hp : 4 ≤ p.1)
    (hv : neighbour (nk / 256) (p.1 - 4) = some v) :
    due (sendShare nk seq st s p) (s.now + 3 + 8 * crossings (nk / 256) v) .cnResultArrival
      { a := v * 256 + nk % 256, b := seq, flag := true, p := .contrib ⟨[p.2], st, 0⟩ } := by
  simp only [sendShare, if_neg (Nat.not_lt.2 hp), hv]
  exact due_post ..

/-- The node is done with what it combined: SEQ moves on. -/
def seqAdvanced (nk seq : Nat) (s : State) : State := { s with
  cnInst := tdel s.cnInst (nk * 2 + seq % 2)
  cnGrp := tput s.cnGrp nk (setField (cnWord s nk) 32 16 ((seq + 1) % 65536)) }

section
variable {s : State} {c : Contrib} (hp : s.ev.p = .contrib c)
include hp

section
variable (hf : s.ev.flag = true)
include hf

theorem exec_cnResultArrival_of_held (hh : cnHeld s s.ev.a = true) :
    exec .cnResultArrival s = .next (post (s.now + 1) .cnResultArrival s.ev s) := by
  show execCnResultArrival s = _
  simp only [execCnResultArrival, hp, hf, hh, if_true]

theorem exec_cnResultArrival_of_node (hh : cnHeld s s.ev.a = false) :
    exec .cnResultArrival s = .next ((cnShares (cnOpOf (cnWord s s.ev.a)) (c.vals.headD 0#64)
        ((cnOperands (cnWord s s.ev.a) (tget s.cnInst (s.ev.a * 2 + s.ev.b % 2) { seq := s.ev.b })).getD [])).foldl
      (sendShare s.ev.a s.ev.b c.status) (seqAdvanced s.ev.a s.ev.b s)) := by
  show execCnResultArrival s = _
  simp only [execCnResultArrival, hp, hf, hh, if_true, Bool.false_eq_true, if_false]
  rfl

/-- A result that finds the handles of the node's cores free goes to its cores and children, and SEQ moves on. -/
theorem cnResultArrival_node_spec (hh : cnHeld s s.ev.a = false) :
    let nk := s.ev.a
    let w := cnWord s nk
    let l := (cnOperands w (tget s.cnInst (nk * 2 + s.ev.b % 2) { seq := s.ev.b })).getD []
    ∃ t, exec .cnResultArrival s = .next t
      ∧ wfield (cnWord t nk) 32 16 = (s.ev.b + 1) % 65536
      ∧ (∀ p, p ∈ cnShares (cnOpOf w) (c.vals.headD 0#64) l → p.1 < 4 → due t s.now .cnResultArrival
          { a := nk, b := s.ev.b, c := nk / 256 * 4 + p.1, p := .contrib ⟨[p.2], c.status, 0⟩ })
      ∧ (∀ p v, p ∈ cnShares (cnOpOf w) (c.vals.headD 0#64) l → 4 ≤ p.1 → neighbour (nk / 256) (p.1 - 4) = some v →
          due t (s.now + 3 + 8 * crossings (nk / 256) v) .cnResultArrival
            { a := v * 256 + nk % 256, b := s.ev.b, flag := true, p := .contrib ⟨[p.2], c.status, 0⟩ }) := by
  intro nk w l
  refine ⟨_, exec_cnResultArrival_of_node hp hf hh, ?_, fun p hm h4 => ?_, fun p v hm h4 hv => ?_⟩
  · have hkept := sendShare_leaves (fun u => cnWord u nk) (fun _ _ => rfl) nk s.ev.b c.status
    rw [foldl_leaves (fun u => cnWord u nk) hkept, cnWord, seqAdvanced, tget_tput_self, wfield_setField_seq, Nat.mod_mod]
  · exact foldl_sendShare_due hm _ fun u hu => (show u.now = s.now from hu) ▸ sendShare_core_due u h4
  · exact foldl_sendShare_due hm _ fun u hu => (show u.now = s.now from hu) ▸ sendShare_child_due u h4 hv

end

/-! ### A result at a core (R175, R345, R347) -/

section
variable (hf : s.ev.flag = false) {w : CnWait}
  (hw : tfind s.cnWait ((s.ev.c * 256 + s.ev.a % 256) * 2 + s.ev.b % 2) = some w)
include hf hw

theorem exec_cnResultArrival_of_wait :
    let x := { s with cnWait := tdel s.cnWait ((s.ev.c * 256 + s.ev.a % 256) * 2 + s.ev.b % 2) }
    let first := cnDeliver (s.ev.a % 256) s.ev.b s.ev.c w (c.vals.headD 0#64) c.status x
    exec .cnResultArrival s = .next (if first.2 then first.1
      else post (s.now + 1) .cnResultUnblock { s.ev with flag := false, d := w.sid, e := w.gen }
        (modExt (s.ev.c * 256 + s.ev.a % 256) (fun x => { x with waiting := [c] }) x)) := by
  intro x first
  show execCnResultArrival s = _
  simp only [execCnResultArrival, hp, hf, Bool.false_eq_true, if_false, hw, first, x]
  split <;> rfl

end

/-- The result of a core whose handle was full (R175). -/
theorem exec_cnResultUnblock_eq :
    let held := cnDeliver (s.ev.a % 256) s.ev.b s.ev.c { sid := s.ev.d, gen := s.ev.e } (c.vals.headD 0#64) c.status s
    exec .cnResultUnblock s = .next (if held.2 then modExt (s.ev.c * 256 + s.ev.a % 256) (fun x => { x with waiting := [] }) held.1
      else post (s.now + 1) .cnResultUnblock s.ev s) := by
  intro held
  show execCnResultUnblock s = _
  simp only [execCnResultUnblock, hp, held]
  split <;> rfl

end

/-! ### What has contributed takes a result (R175, R345, R347) -/

/-- The strand that contributed is still in the life in which it did. -/
abbrev contributorLives (s : State) (w : CnWait) : Prop := (slotAt s w.sid).gen = w.gen ∧ (slotAt s w.sid).st ≠ .free

section
variable (g seq cid : Nat) {w : CnWait} (val : Word) {st : Nat} {s : State}

theorem cnDeliver_of_a2a (hk : w.kind = 2) : cnDeliver g seq cid w val st s = (a2aDone w.cmd val st s, true) := by
  simp [cnDeliver, hk]

theorem cnDeliver_of_gone (hk : w.kind ≠ 2) (hl : ¬ contributorLives s w) : cnDeliver g seq cid w val st s = (s, true) := by
  have hb : ((slotAt s w.sid).gen == w.gen && (slotAt s w.sid).st != .free) = false :=
    Bool.eq_false_iff.2 fun h => hl (by simpa using h)
  simp [cnDeliver, hk, hb]

variable (hl : contributorLives s w)
include hl

theorem cnDeliver_of_scan (hk : w.kind = 1) (hst : st / 2 ^ 17 % 4 = 0) :
    cnDeliver g seq cid w val st s = (lateResult w.sid w.dst val s, true) := by
  have ht : ¬ (st / 2 ^ 17 % 4 ≠ 0 ∧ (slotAt (lateResult w.sid w.dst val s) w.sid).st ≠ .trapped) := fun h => h.1 hst
  simp [cnDeliver, hk, hl.1, hl.2, -Nat.reducePow, if_neg ht]

variable (hk : w.kind = 0) (ho : (extAt s (cid * 256 + g)).owner = some w.sid)
include hk ho

theorem cnDeliver_of_room (hn : (extAt s (cid * 256 + g)).ents.length < 8) : cnDeliver g seq cid w val st s
    = (addNews (extNews (cid * 256 + g)) 1
        (modExt (cid * 256 + g) (fun x => { x with ents := x.ents ++ [(val, word (seq % 65536 + st))] }) s), true) := by
  simp [cnDeliver, hk, hl.1, hl.2, ho, Nat.not_le.2 hn]

theorem cnDeliver_of_full (hn : 8 ≤ (extAt s (cid * 256 + g)).ents.length) : cnDeliver g seq cid w val st s = (s, false) := by
  simp [cnDeliver, hk, hl.1, hl.2, ho, hn]

end

end Sys2Proof.Machine
end

section
/-!
SUPPORT. Pavilions (`Obligations.Collectives`): a slot's arrivals, how it closes, and the notices of a halt.
-/

namespace Sys2Proof.Machine

/-! ### The slots of a Pavilion (R179) -/

@[simp] theorem ferAtSlot_putFer_self (k : Nat) (x : FerSlot) (s : State) : ferAtSlot (putFer k x s) k = x := tget_tput_self ..

theorem ferAtSlot_putFer_of_ne {k j : Nat} (x : FerSlot) (s : State) (h : j ≠ k) : ferAtSlot (putFer k x s) j = ferAtSlot s j :=
  tget_tput_of_ne _ _ _ h

@[simp] theorem ferAtSlot_post (t : Nat) (i : Instr) (a : EvArg) (s : State) (k : Nat) : ferAtSlot (post t i a s) k = ferAtSlot s k := rfl

/-- A closed slot waits for its result under a key that is no slot's own. -/
theorem ne_ferUpKey (k seq tenant : Nat) : k ≠ ferUpKey k seq tenant := by
  unfold ferUpKey
  omega

theorem length_ferInsert (p : FerPart) (l : List FerPart) : (ferInsert p l).length = l.length + 1 := by
  induction l with
  | nil => rfl
  | cons q l ih =>
    unfold ferInsert
    split
    · rfl
    · rw [List.length_cons, ih, List.length_cons]

/-- A slot that closes is CLOSED, whether its result is its own or comes from its parent (R179, R180). -/
theorem ferClose_st (fk k : Nat) (timeout : Bool) (s : State) : (ferAtSlot (ferClose fk k timeout s) k).st = 2 := by
  unfold ferClose
  extract_lets x _ _ _ x' s1 s2
  split
  extract_lets _ _ _ _ _ note own _ _
  have hs2 : (ferAtSlot s2 k).st = 2 := by
    have hs : ferAtSlot s2 k = ferAtSlot s1 k := by
      refine foldl_leaves (fun u => ferAtSlot u k) ?_ _ _
      exact fun _ _ => rfl
    rw [hs, ferAtSlot_putFer_self]
  have hnote (u : State) : ferAtSlot (note u) k = ferAtSlot u k := ferAtSlot_putFer_of_ne _ _ (ne_ferUpKey k _ _)
  have hown (late st : Nat) (u : State) (hu : (ferAtSlot u k).st = 2) : (ferAtSlot (own late st u) k).st = 2 := by
    show (ferAtSlot (note (if _ then _ else u)) k).st = 2
    rw [hnote, if_pos hu, ferAtSlot_putFer_self]
    exact hu
  split
  · exact hown _ _ _ hs2
  · split
    · exact hown _ _ _ hs2
    · rw [overLink_leaves (fun u => ferAtSlot u k) fun _ _ _ _ => rfl, hnote]
      exact hs2

/-! ### Arrivals (R179, R180) -/

/-- A slot opens for its first arrival, with no arrival in it yet. -/
theorem ferOpen_spec (fk k : Nat) (p : FerPart) (s : State) : (ferAtSlot (ferOpen fk k p s) k).st = 1
    ∧ (ferAtSlot (ferOpen fk k p s) k).arr = [] ∧ (ferOpen fk k p s).ferGrp = s.ferGrp := by
  unfold ferOpen
  split
  extract_lets held strict tmo x
  split <;> simp [x, putFer, post, ferAtSlot]

section
variable {fk k n : Nat} {p : FerPart} {s : State} (hn : wfield (ferRoute s fk p.group).2 0 32 = n)
include hn

theorem ferTake_of_last (h : n ≤ (ferAtSlot s k).arr.length + 1) : (ferAtSlot (ferTake fk k p s) k).st = 2 := by
  have hr : ferRoute (putFer k { ferAtSlot s k with arr := ferInsert p (ferAtSlot s k).arr } s) fk p.group = ferRoute s fk p.group := rfl
  simp only [ferTake, hr, hn, ferAtSlot_putFer_self, length_ferInsert, if_pos h]
  exact ferClose_st ..

theorem ferTake_of_more (h : (ferAtSlot s k).arr.length + 1 < n) :
    ferAtSlot (ferTake fk k p s) k = { ferAtSlot s k with arr := ferInsert p (ferAtSlot s k).arr } := by
  have hr : ferRoute (putFer k { ferAtSlot s k with arr := ferInsert p (ferAtSlot s k).arr } s) fk p.group = ferRoute s fk p.group := rfl
  simp only [ferTake, hr, hn, ferAtSlot_putFer_self, length_ferInsert, if_neg (Nat.not_le.2 h)]

end

section
variable {fk : Nat} (again : Bool) {p : FerPart} {s : State} (hv : wfield (ferRoute s fk p.group).1 0 1 = 1)
include hv

theorem ferIn_of_free (h : (ferAtSlot s (ferKey fk p.group p.seq)).st = 0) :
    ferIn fk again p s = ferTake fk (ferKey fk p.group p.seq) p (ferOpen fk (ferKey fk p.group p.seq) p s) := by
  simp [ferIn, hv, h]

theorem ferIn_of_open (h : (ferAtSlot s (ferKey fk p.group p.seq)).st = 1)
    (ht : (ferAtSlot s (ferKey fk p.group p.seq)).tenant = p.tenant) (hg : (ferAtSlot s (ferKey fk p.group p.seq)).group = p.group)
    (hq : (ferAtSlot s (ferKey fk p.group p.seq)).seq = p.seq) : ferIn fk again p s = ferTake fk (ferKey fk p.group p.seq) p s := by
  simp [ferIn, hv, h, ht, hg, hq]

/-- The first arrival opens its slot, which closes at once where the route needs one arrival alone. -/
theorem ferIn_free_spec (h : (ferAtSlot s (ferKey fk p.group p.seq)).st = 0) :
    let x := ferAtSlot (ferIn fk again p s) (ferKey fk p.group p.seq)
    (1 < wfield (ferRoute s fk p.group).2 0 32 → x.st = 1 ∧ x.arr = [p]) ∧ (wfield (ferRoute s fk p.group).2 0 32 ≤ 1 → x.st = 2) := by
  intro x
  obtain ⟨hst, harr, hgrp⟩ := ferOpen_spec fk (ferKey fk p.group p.seq) p s
  have hr : wfield (ferRoute (ferOpen fk (ferKey fk p.group p.seq) p s) fk p.group).2 0 32 = wfield (ferRoute s fk p.group).2 0 32 := by
    rw [ferRoute, hgrp, ferRoute]
  rw [show x = _ from congrArg (ferAtSlot · _) (ferIn_of_free again hv h)]
  refine ⟨fun hn => ?_, fun hn => ferTake_of_last hr (by rwa [harr])⟩
  rw [ferTake_of_more hr (by rwa [harr]), harr]
  exact ⟨hst, rfl⟩

end

theorem exec_ferWaitRelease {s : State} {p : FerPart} (hp : s.ev.p = .fer p) : exec .ferWaitRelease s = .next (ferIn s.ev.a true p s) := by
  show execFerWaitRelease s = _
  rw [execFerWaitRelease, hp]

theorem exec_ferArrival {s : State} {p : FerPart} (hp : s.ev.p = .fer p) :
    exec .ferArrival s = .next (if (pkgAt s p.pkg).failed then s else ferIn (p.pkg * 2 + p.fer) false p s) := by
  show execFerArrival s = _
  rw [execFerArrival, hp]

theorem exec_ferParentResult_of_waiting {s : State} {p : FerPart} {x : FerSlot} (hp : s.ev.p = .fer p) :
    let fk := p.pkg * 2 + p.fer
    let k := ferKey fk p.group p.seq
    let uk := ferUpKey k p.seq p.tenant
    tfind s.ferSlot uk = some x → exec .ferParentResult s = .next (ferPass k x (wfield (ferRoute s fk p.group).1 1 4)
      (p.c.vals.headD 0#64) p.c.status { s with ferSlot := tdel s.ferSlot uk }) := by
  intro fk k uk hx
  show execFerParentResult s = _
  simp only [execFerParentResult, hp]
  rw [show tfind s.ferSlot _ = some x from hx]

theorem exec_ferSlotTimeout_of_running {s : State} (hst : (ferAtSlot s s.ev.b).st = 1) (ho : (ferAtSlot s s.ev.b).opened = s.ev.c)
    (hh : (ferAtSlot s s.ev.b).halted = false) : exec .ferSlotTimeout s = .next (ferClose s.ev.a s.ev.b true s) :=
  congrArg Host.Outcome.next (if_pos ⟨hst, ho, hh⟩)

/-- The slot has closed, or its timer was stopped or started anew (R180, R181). -/
theorem exec_ferSlotTimeout_of_over {s : State} (h : (ferAtSlot s s.ev.b).st ≠ 1 ∨ (ferAtSlot s s.ev.b).opened ≠ s.ev.c
    ∨ (ferAtSlot s s.ev.b).halted = true) : exec .ferSlotTimeout s = .next s := by
  have hn : ¬ ((ferAtSlot s s.ev.b).st = 1 ∧ (ferAtSlot s s.ev.b).opened = s.ev.c ∧ (ferAtSlot s s.ev.b).halted = false) := by
    rwa [not_and_or, not_and_or, Bool.not_eq_false]
  exact congrArg Host.Outcome.next (if_neg hn)

/-! ### Notices of a halt (R181) -/

/-- What a notice says goes on to the Pavilion above, which leaves this one. -/
theorem noticeUp_leaves {β : Type} (φ : State → β)
    (h : ∀ (s : State) (n : Nat) (a : List (Nat × Instr × EvArg)) (p : Tab Packet),
      φ { s with nextId := n, agenda := a, pkts := p } = φ s) (fk g : Nat) (ev : Instr) (s : State) : φ (noticeUp fk g ev s) = φ s := by
  unfold noticeUp
  split
  dsimp only
  split
  · exact overLink_leaves φ h ..
  · rfl

/-- The two slots of a group change each by itself. -/
theorem foldl_ferSlots_spec {f : State → Nat → State} {P : FerSlot → FerSlot → Prop} {fk g k : Nat}
    (hself : ∀ u i, P (ferAtSlot u i) (ferAtSlot (f u i) i)) (hother : ∀ u i j, j ≠ i → ferAtSlot (f u i) j = ferAtSlot u j)
    (hk : k ∈ ferSlots fk g) (s : State) : P (ferAtSlot s k) (ferAtSlot ((ferSlots fk g).foldl f s) k) := by
  have hne : ferKey fk g 0 ≠ ferKey fk g 1 := by
    unfold ferKey
    omega
  simp only [ferSlots, List.mem_cons, List.not_mem_nil, or_false] at hk
  simp only [ferSlots, List.foldl_cons, List.foldl_nil]
  rcases hk with rfl | rfl
  · rw [hother _ _ _ hne]
    exact hself ..
  · have h := hself (f s (ferKey fk g 0)) (ferKey fk g 1)
    rwa [hother s _ _ hne.symm] at h

/-- The timer of an OPEN slot stops, but that of a STRICT route. -/
def haltSlot (strict : Bool) (s : State) (k : Nat) : State :=
  let x := ferAtSlot s k
  if x.st ≠ 1 then s
  else if strict || x.halted then putFer k { x with memberHalted := true } s
  else putFer k { x with halted := true, memberHalted := true, spent := x.spent + (s.now - x.opened) } s

/-- The timer of an OPEN slot goes on from where it stood. -/
def resumeSlot (fk tmo : Nat) (s : State) (k : Nat) : State :=
  let x := ferAtSlot s k
  if x.st ≠ 1 then s
  else
    let s' := putFer k { x with halted := false, memberHalted := false, opened := if x.halted then s.now else x.opened } s
    if x.halted && decide (tmo ≠ 0) then post (s.now + (tmo - x.spent)) .ferSlotTimeout { a := fk, b := k, c := s.now } s' else s'

theorem haltSlot_self (strict : Bool) (s : State) (k : Nat) (h : (ferAtSlot s k).st = 1) :
    (ferAtSlot (haltSlot strict s k) k).memberHalted = true ∧ (strict = false → (ferAtSlot (haltSlot strict s k) k).halted = true) := by
  simp only [haltSlot, h, ne_eq, not_true_eq_false, if_false]
  split
  next hc =>
    rw [ferAtSlot_putFer_self]
    exact ⟨rfl, fun hs => by rwa [hs, Bool.false_or] at hc⟩
  next =>
    rw [ferAtSlot_putFer_self]
    exact ⟨rfl, fun _ => rfl⟩

theorem haltSlot_other (strict : Bool) (s : State) {k j : Nat} (h : j ≠ k) : ferAtSlot (haltSlot strict s k) j = ferAtSlot s j := by
  unfold haltSlot
  extract_lets x
  split
  · rfl
  · split <;> exact ferAtSlot_putFer_of_ne _ _ h

theorem haltSlot_fer (strict : Bool) (s : State) (k : Nat) : (haltSlot strict s k).fer = s.fer := by
  unfold haltSlot
  extract_lets x
  split
  · rfl
  · split <;> rfl

theorem resumeSlot_self (fk tmo : Nat) (s : State) (k : Nat) (h : (ferAtSlot s k).st = 1) :
    (ferAtSlot (resumeSlot fk tmo s k) k).halted = false := by
  simp only [resumeSlot, h, ne_eq, not_true_eq_false, if_false]
  split
  · rw [ferAtSlot_post, ferAtSlot_putFer_self]
  · rw [ferAtSlot_putFer_self]

theorem resumeSlot_other (fk tmo : Nat) (s : State) {k j : Nat} (h : j ≠ k) :
    ferAtSlot (resumeSlot fk tmo s k) j = ferAtSlot s j := by
  unfold resumeSlot
  extract_lets x s'
  split
  · rfl
  · split <;> exact ferAtSlot_putFer_of_ne _ _ h

theorem resumeSlot_fer (fk tmo : Nat) (s : State) (k : Nat) : (resumeSlot fk tmo s k).fer = s.fer := by
  unfold resumeSlot
  extract_lets x s'
  split
  · rfl
  · split <;> rfl

theorem ferAt_of_fer {s t : State} (h : t.fer = s.fer) (fk : Nat) : ferAt t fk = ferAt s fk := by rw [ferAt, h, ferAt]

theorem ferAt_modFer_self (fk : Nat) (f : Fer → Fer) (s : State) : ferAt (modFer fk f s) fk = f (ferAt s fk) := tget_tput_self ..

theorem foldl_haltSlot_spec (strict : Bool) {fk g k : Nat} (hk : k ∈ ferSlots fk g) (s : State) (h : (ferAtSlot s k).st = 1) :
    let x := ferAtSlot ((ferSlots fk g).foldl (haltSlot strict) s) k
    x.memberHalted = true ∧ (strict = false → x.halted = true) :=
  foldl_ferSlots_spec (P := fun x y => x.st = 1 → y.memberHalted = true ∧ (strict = false → y.halted = true))
    (haltSlot_self strict) (fun u _ _ => haltSlot_other strict u) hk s h

theorem exec_ferHaltNotice_eq (s : State) : exec .ferHaltNotice s = .next (noticeUp s.ev.a s.ev.b .ferHaltNotice
    ((ferSlots s.ev.a s.ev.b).foldl (haltSlot (wfield (ferRoute s s.ev.a s.ev.b).1 5 1 == 1))
      (modFer s.ev.a (fun f => { f with halts := f.halts ++ [s.ev.b] }) s))) := rfl

theorem ferHaltNotice_spec (s : State) : ∃ t, exec .ferHaltNotice s = .next t
    ∧ (ferAt t s.ev.a).halts = (ferAt s s.ev.a).halts ++ [s.ev.b]
    ∧ ∀ k, k ∈ ferSlots s.ev.a s.ev.b → (ferAtSlot s k).st = 1 → (ferAtSlot t k).memberHalted = true
      ∧ (wfield (ferRoute s s.ev.a s.ev.b).1 5 1 = 0 → (ferAtSlot t k).halted = true) := by
  refine ⟨_, exec_ferHaltNotice_eq s, ?_, fun k hk hst => ?_⟩
  · rw [ferAt_of_fer (noticeUp_leaves State.fer (fun _ _ _ _ => rfl) ..), ferAt_of_fer (foldl_leaves State.fer (haltSlot_fer _) ..),
      ferAt_modFer_self]
  · rw [noticeUp_leaves (ferAtSlot · k) fun _ _ _ _ => rfl]
    obtain ⟨hm, hh⟩ := foldl_haltSlot_spec (wfield (ferRoute s s.ev.a s.ev.b).1 5 1 == 1) hk
      (modFer s.ev.a (fun f => { f with halts := f.halts ++ [s.ev.b] }) s) hst
    exact ⟨hm, fun hz => hh (by rw [hz]; rfl)⟩

/-- The slots' timers go on once the group's last halt notice is taken back. -/
def haltsLifted (fk g tmo : Nat) (s : State) : State :=
  if (ferAt s fk).halts.contains g then s else (ferSlots fk g).foldl (resumeSlot fk tmo) s

theorem exec_ferResumeNotice_eq (s : State) : exec .ferResumeNotice s = .next (noticeUp s.ev.a s.ev.b .ferResumeNotice
    (haltsLifted s.ev.a s.ev.b (wfield (ferRoute s s.ev.a s.ev.b).2 32 32)
      (modFer s.ev.a (fun f => { f with halts := f.halts.erase s.ev.b }) s))) := rfl

theorem haltsLifted_fer (fk g tmo : Nat) (s : State) : (haltsLifted fk g tmo s).fer = s.fer := by
  unfold haltsLifted
  split
  · rfl
  · exact foldl_leaves State.fer (resumeSlot_fer fk tmo) _ _

theorem ferResumeNotice_spec (s : State) : ∃ t, exec .ferResumeNotice s = .next t
    ∧ (ferAt t s.ev.a).halts = (ferAt s s.ev.a).halts.erase s.ev.b
    ∧ (s.ev.b ∉ (ferAt t s.ev.a).halts → ∀ k, k ∈ ferSlots s.ev.a s.ev.b → (ferAtSlot s k).st = 1 → (ferAtSlot t k).halted = false) := by
  refine ⟨_, exec_ferResumeNotice_eq s, ?_, ?_⟩
  all_goals rw [ferAt_of_fer (noticeUp_leaves State.fer (fun _ _ _ _ => rfl) ..), ferAt_of_fer (haltsLifted_fer ..)]
  · rw [ferAt_modFer_self]
  · intro hn k hk hst
    rw [noticeUp_leaves (ferAtSlot · k) fun _ _ _ _ => rfl, haltsLifted, if_neg (by rwa [List.contains_iff_mem])]
    exact foldl_ferSlots_spec (P := fun x y => x.st = 1 → y.halted = false) (resumeSlot_self s.ev.a _)
      (fun u _ _ => resumeSlot_other s.ev.a _ u) hk (modFer s.ev.a (fun f => { f with halts := f.halts.erase s.ev.b }) s) hst

end Sys2Proof.Machine
end

section
/-!
SUPPORT. A2A (`Obligations.Collectives`): its issue, its transfers, and its contribution.
-/

namespace Sys2Proof.Machine

/-! ### Issue (R346) -/

/-- The two buffers of an A2A get the entries `e1` and `e2` of the core's range table (R183). -/
def collCovered (cid e1 e2 : Nat) (d : List Word) (s : State) : State :=
  putRt (cid * 64 + e2) (collWords (aVa d 1) (aRlen d)) (putRt (cid * 64 + e1) (collWords (aVa d 0) (aNpar d * aP d)) s)

/-- The failures kept for an A2A whose receive buffer they lie in (R184). -/
def a2aFails (cid : Nat) (d : List Word) (s : State) : List (Nat × Nat × Nat) :=
  s.parcelFails.filter fun f => f.1 == pkgOfC cid && inBuffer (tidOfC cid) d f.2.1

/-- The command that an A2A makes of its descriptor. -/
def a2aCmd (hn e1 e2 : Nat) (d : List Word) (fails : List (Nat × Nat × Nat)) (s : State) : Cmd :=
  { newCmd s 3 0 18 hn d (wfield (d.getD 5 0#64) 46 1 == 1) with
    aux := [e1, e2], status := fails.foldl (fun n f => lowStatus n f.2.2) 0 }

/-- It is pushed, and begins 4 cycles later. -/
def a2aPushed (cid hn e1 e2 : Nat) (d : List Word) (s : State) : State :=
  let s := collCovered cid e1 e2 d s
  let mine := a2aFails cid d s
  let s := { s with parcelFails := s.parcelFails.filter fun f => !mine.contains f }
  post (s.now + 4) .a2aParcelWrite { a := s.nextId } (addCmd (a2aCmd hn e1 e2 d mine s) s).2

/-- What the end of the push leaves: the command, the entries of its buffers, its event, the strand's next issue. -/
theorem a2aPushed_spec {cid hn e1 e2 : Nat} (hne : e1 ≠ e2) (d : List Word) (s : State) :
    let u := completeIssue (atCost 5 (a2aPushed cid hn e1 e2 d s))
    ∃ c, tfind u.cmds s.nextId = some c ∧ c.op = 18 ∧ c.desc = d ∧ c.aux = [e1, e2] ∧ c.sid = s.cur.sid
      ∧ rtAt u (cid * 64 + e1) = collWords (aVa d 0) (aNpar d * aP d) ∧ rtAt u (cid * 64 + e2) = collWords (aVa d 1) (aRlen d)
      ∧ due u (s.now + 4) .a2aParcelWrite { a := s.nextId } ∧ (slotAt u s.cur.sid).readyAt = s.now + 5 := by
  intro u
  have hk := completeIssue_endKeeps (atCost 5 (a2aPushed cid hn e1 e2 d s))
  have hcmds : u.cmds = (a2aPushed cid hn e1 e2 d s).cmds := by rw [show u = completeIssue _ from rfl, hk.1]; rfl
  have hrt : u.rt = (collCovered cid e1 e2 d s).rt := by rw [show u = completeIssue _ from rfl, hk.1]; rfl
  refine ⟨_, (congrArg (tfind · s.nextId) hcmds).trans (tfind_tput_self ..), rfl, rfl, rfl, rfl, ?_, ?_, ?_, ?_⟩
  · rw [rtAt, hrt]
    exact (tget_tput_of_ne _ _ _ (by omega)).trans (tget_tput_self ..)
  · rw [rtAt, hrt]
    exact tget_tput_self ..
  · exact endKeeps_due hk (due_post ..) nofun
  · rw [hk.2.1]
    exact congrArg Slot.readyAt (slotAt_putSlot_self ..)

section
variable {o : Ops} {s t : State} {hn dp e1 e2 : Nat} {h : Handle} {d : List Word} {l : List Nat}
  (hc : classTrap .a s = none) (hp : portM o 3 64 (atIssue s) = .ok ((hn, h), atIssue s))
  (hd : descM o 64 (atIssue s) = .ok ((dp, d), t)) (hl : a2aOk d = true)
  (hsend : spanBy rangeMatchM (d.getD 0 0#64) (aVa d 0 : Nat) (aNpar d * aP d) true false t = .ok ((), t))
  (hidx : spanM (d.getD 3 0#64) (aVa d 3 : Nat) (2 * aNpar d) true false t = .ok ((), t))
  (htab : spanM (d.getD 4 0#64) (aVa d 4 : Nat) (16 * aNdest d) true false t = .ok ((), t))
  (hrecv : spanBy rangeMatchM (d.getD 1 0#64) (aVa d 1 : Nat) (aRlen d) true true t = .ok ((), t))
  (hg : groupOk t (cidOf s.cur.sid) (aGroup d))
  (ho1 : userOverlap t (cidOf s.cur.sid) (aVa d 0) (aNpar d * aP d) = none)
  (ho2 : userOverlap t (cidOf s.cur.sid) (aVa d 1) (aRlen d) = none)
  (hfree : ((List.range 64).drop 16).filter (fun e => !(rtView (rtAt t (cidOf s.cur.sid * 64 + e))).valid) = e1 :: e2 :: l)
  (hq : cplM hn dp 3 0 (wfield (d.getD 5 0#64) 46 1 == 1) t = .ok ((), t)) (hf : portSlotM o hn h t = .ok ((), t))
include hc hp hd hl hsend hidx htab hrecv hg ho1 ho2 hfree hq hf

theorem exec_a2a_of_free :
    exec (.a2a o) s = .next (completeIssue (atCost 5 (a2aPushed (cidOf s.cur.sid) hn e1 e2 d (markLastB o t)))) := by
  have hcur := readKeeps_cur (descM_readsOnly _ _ _ _ _ hd)
  have hsid : t.cur.sid = s.cur.sid := (congrArg Cur.sid hcur).trans rfl
  have hgm := groupM_of_ok (scan := false) (hsid.symm ▸ hg) nofun
  refine issue_of_ok hc ?_ ?_
  · simp only [bind_apply, hp, hd, hl, limitM_true, hsend, hidx, htab, hrecv, hgm, askM_apply, id, hsid, ho1, ho2, Option.toList_none,
      List.append_nil, lowest, hfree, hq, hf, lastUseB, updM_apply, setCost_apply]
    rfl
  · show (markLastB o t).cur.manual = false
    rw [markLastB_cur, hcur]
    rfl

theorem a2a_spec : ∃ u c, exec (.a2a o) s = .next u ∧ tfind u.cmds t.nextId = some c ∧ c.op = 18 ∧ c.desc = d ∧ c.aux = [e1, e2]
    ∧ c.sid = s.cur.sid ∧ rtAt u (cidOf s.cur.sid * 64 + e1) = collWords (aVa d 0) (aNpar d * aP d)
    ∧ rtAt u (cidOf s.cur.sid * 64 + e2) = collWords (aVa d 1) (aRlen d)
    ∧ due u (s.now + 4) .a2aParcelWrite { a := t.nextId } ∧ (slotAt u s.cur.sid).readyAt = s.now + 5 := by
  have hrd := descM_readsOnly o 64 _ _ _ hd
  have hne : e1 ≠ e2 := by
    have hn : (e1 :: e2 :: l).Nodup := hfree ▸ (List.nodup_range.sublist (List.drop_sublist 16 _)).filter _
    exact (List.pairwise_cons.1 hn).1 e2 List.mem_cons_self
  obtain ⟨hk, -⟩ := markLastB_endKeeps o t
  have hcur : (markLastB o t).cur.sid = s.cur.sid := (congrArg Cur.sid ((markLastB_cur o t).trans (readKeeps_cur hrd)) :)
  have hnow : (markLastB o t).now = s.now := (show _ = t.now by rw [hk]).trans (readKeeps_now hrd :)
  have hid : (markLastB o t).nextId = t.nextId := by rw [hk]
  obtain ⟨c, hspec⟩ := a2aPushed_spec (cid := cidOf s.cur.sid) (hn := hn) hne d (markLastB o t)
  rw [hcur, hnow, hid] at hspec
  exact ⟨_, c, exec_a2a_of_free hc hp hd hl hsend hidx htab hrecv hg ho1 ho2 hfree hq hf, hspec⟩

end

end Sys2Proof.Machine
end

section
/-!
SUPPORT. The transfers of an A2A and its contribution (`Obligations.Collectives`).
-/

namespace Sys2Proof.Machine

/-! ### A parcel that is refused (R347, R261) -/

section
variable {β : Type} (φ : State → β)

theorem rejectParcel_leaves (h : ∀ (s : State) (n : Nat) (a : List (Nat × Instr × EvArg)) (c : Tab Acc),
    φ { s with nextId := n, agenda := a, accs := c } = φ s) (id va at' : Nat) (s : State) : φ (rejectParcel id va at' s) = φ s := by
  unfold rejectParcel
  split
  · rfl
  · exact h s _ _ _

theorem addStatus_leaves (h : ∀ (s : State) (c : Tab Cmd), φ { s with cmds := c } = φ s) (id st : Nat) (s : State) :
    φ (addStatus id st s) = φ s := by
  unfold addStatus modCmd
  split
  · exact h s _
  · rfl

end

/-- The command `c` stands, with the status `n`. -/
abbrev hasStatus (s : State) (id : Nat) (c : Cmd) (n : Nat) : Prop := tfind s.cmds id = some { c with status := n }

theorem addStatus_hasStatus {id n : Nat} {c : Cmd} {s : State} (st : Nat) (h : hasStatus s id c n) :
    hasStatus (addStatus id st s) id c (lowStatus n st) := by
  rw [hasStatus, addStatus, modCmd_find, h]
  rfl

theorem rejectParcel_due {id : Nat} {c : Cmd} {s : State} (h : tfind s.cmds id = some c) (va at' : Nat) :
    due (rejectParcel id va at' s) at' .remoteRejection { a := s.nextId } := by
  simp only [rejectParcel, h]
  exact due_post ..

theorem lowStatus_one (n : Nat) : lowStatus n 1 = 1 := by
  cases n <;> simp [lowStatus]

/-! ### The transfers that are sent (R347, R474) -/

/-- The parcels of an A2A, where its spans can be read. -/
def a2aParcels (s : State) (c : Cmd) : List Xfer :=
  aParcels s c (aRead s c (aVa c.desc 3) (2 * aNpar c.desc))
    (bytesWords (2 * aNdest c.desc) (aRead s c (aVa c.desc 4) (16 * aNdest c.desc))) (aNpar c.desc) 0 []

/-- The destination is in the domain of the tile's package. -/
def xferNear (s : State) (own : Nat) (x : Xfer) : Bool := x.pkg / 65536 == (pkgAt s (own / 2048)).domain

/-- It is the package itself, or can be reached from it. -/
def xferReached (s : State) (own : Nat) (x : Xfer) : Bool :=
  x.pkg % 65536 == own / 2048 || reachable s (own / 2048) (x.pkg % 65536)

/-- The parcels as they are written: neighbours together, in the order of their first parcels. -/
def a2aXfers (near reached : Xfer → Bool) (parts : Xfer → List Xfer) (all : List Xfer) : List Xfer :=
  ((xferMerge ((all.filter fun x => near x && reached x).foldr xferInsert [])).foldr xferByFirst []).flatMap parts

/-- A parcel to another domain is refused where it leaves. -/
def refuseFar (id own : Nat) (s : State) (x : Xfer) : State := rejectParcel id x.va (s.now + edgePath own) (addStatus id 1 s)

/-- What the parcels of an A2A leave in its status: an index outside the table, a package out of reach, another domain. -/
def parcelsChecked (id own npar : Nat) (near reached : Xfer → Bool) (all : List Xfer) (s : State) : State :=
  let s := if all.length < npar then addStatus id 5 s else s
  let s := if (all.filter near).all reached then s else addStatus id 4 s
  (all.filter fun x => !near x).foldl (refuseFar id own) s

/-- The status that results from the one before. -/
def parcelsStatus (npar : Nat) (near reached : Xfer → Bool) (all : List Xfer) (st : Nat) : Nat :=
  let st := if all.length < npar then lowStatus st 5 else st
  let st := if (all.filter near).all reached then st else lowStatus st 4
  (all.filter fun x => !near x).foldl (fun n _ => lowStatus n 1) st

theorem foldl_refuseFar_hasStatus {id own n : Nat} {c : Cmd} {l : List Xfer} {s : State} (h : hasStatus s id c n) :
    hasStatus (l.foldl (refuseFar id own) s) id c (l.foldl (fun n _ => lowStatus n 1) n) := by
  induction l generalizing s n with
  | nil => exact h
  | cons x l ih =>
    refine ih ?_
    rw [hasStatus, refuseFar, rejectParcel_leaves State.cmds fun _ _ _ _ => rfl]
    exact addStatus_hasStatus 1 h

theorem hasStatus_ite {s t : State} {id m n : Nat} {c : Cmd} {p : Prop} [Decidable p] (hs : hasStatus s id c m) (ht : hasStatus t id c n) :
    hasStatus (if p then s else t) id c (if p then m else n) := by
  split
  · exact hs
  · exact ht

theorem parcelsChecked_hasStatus {id npar n : Nat} (own : Nat) (near reached : Xfer → Bool) (all : List Xfer) {c : Cmd} {s : State}
    (h : hasStatus s id c n) :
    hasStatus (parcelsChecked id own npar near reached all s) id c (parcelsStatus npar near reached all n) := by
  have h5 : hasStatus _ id c (if all.length < npar then lowStatus n 5 else n) := hasStatus_ite (addStatus_hasStatus 5 h) h
  exact foldl_refuseFar_hasStatus (hasStatus_ite h5 (addStatus_hasStatus 4 h5))

theorem parcelsChecked_leaves {β : Type} (φ : State → β)
    (h : ∀ (s : State) (n : Nat) (a : List (Nat × Instr × EvArg)) (c : Tab Acc) (m : Tab Cmd),
      φ { s with nextId := n, agenda := a, accs := c, cmds := m } = φ s)
    (id own npar : Nat) (near reached : Xfer → Bool) (all : List Xfer) (s : State) :
    φ (parcelsChecked id own npar near reached all s) = φ s := by
  have hst (st : Nat) (u : State) : φ (addStatus id st u) = φ u := addStatus_leaves φ (fun u m => h u u.nextId u.agenda u.accs m) id st u
  refine (foldl_leaves φ (f := refuseFar id own) (fun u x => ?_) _ _).trans ?_
  · exact (rejectParcel_leaves φ (fun u n a c => h u n a c u.cmds) ..).trans (hst 1 u)
  · split <;> split <;> simp only [hst]

theorem parcelsStatus_of_missing {npar : Nat} {near reached : Xfer → Bool} {all : List Xfer} (hn : all.length < npar)
    (h : (all.all fun x => near x && reached x) = true) : parcelsStatus npar near reached all 0 = 5 := by
  have h' : ∀ x ∈ all, near x = true ∧ reached x = true := by simpa using h
  have hr : (all.filter near).all reached = true := List.all_eq_true.2 fun x hx => (h' x (List.mem_of_mem_filter hx)).2
  have hf : (all.filter fun x => !near x) = [] := List.filter_eq_nil_iff.2 fun x hx => by simp [(h' x hx).1]
  rw [parcelsStatus, if_pos hn, if_pos hr, hf]
  rfl

theorem parcelsStatus_of_far {npar : Nat} {near reached : Xfer → Bool} {all : List Xfer} (st : Nat) (h : all.all near = false) :
    parcelsStatus npar near reached all st = 1 := by
  have hf : (all.filter fun x => !near x) ≠ [] := by
    obtain ⟨x, hx, hn⟩ : ∃ x ∈ all, near x = false := by simpa using h
    exact List.ne_nil_of_mem (List.mem_filter.2 ⟨hx, by simp [hn]⟩)
  obtain ⟨x, r, hr⟩ := List.exists_cons_of_ne_nil hf
  rw [parcelsStatus, hr, List.foldl_cons, lowStatus_one]
  exact List.foldlRecOn (motive := (· = 1)) r _ rfl fun n _ _ _ => lowStatus_one n

/-- The A2A waits for as many acknowledgements as transfers leave, and its engine is taken while their bytes do (R474). -/
def rowsCounted (id : Nat) (xs : List Xfer) (s : State) : State :=
  modCmd id (fun c => { c with row := xs.length, nextAt := s.now + max 1 (((xs.map (·.bytes.length)).sum + 31) / 32) }) s

/-- The transfers leave; where there is none the A2A contributes at once. -/
def a2aSent (id own : Nat) (xs : List Xfer) (s : State) : State :=
  let s := rowsCounted id xs s
  if xs.isEmpty then post s.now .a2aContribute { a := id } s else xferSend id own xs 0 s

theorem xferSend_leaves {β : Type} (φ : State → β)
    (h : ∀ (s : State) (n : Nat) (a : List (Nat × Instr × EvArg)) (p : Tab Packet), φ { s with nextId := n, agenda := a, pkts := p } = φ s)
    (id own : Nat) (xs : List Xfer) (sent : Nat) (s : State) : φ (xferSend id own xs sent s) = φ s := by
  induction xs generalizing sent s with
  | nil => rfl
  | cons x xs ih =>
    unfold xferSend
    refine (ih ..).trans ?_
    split
    · exact h s s.nextId _ s.pkts
    · exact postPackets_leaves _ _ _ φ h

theorem a2aSent_cmds (id own : Nat) (xs : List Xfer) (s : State) : (a2aSent id own xs s).cmds = (rowsCounted id xs s).cmds := by
  unfold a2aSent
  dsimp only
  split
  · rfl
  · exact xferSend_leaves State.cmds (fun _ _ _ _ => rfl) ..

theorem a2aSent_find {id n : Nat} (own : Nat) (xs : List Xfer) {c : Cmd} {s : State} (h : hasStatus s id c n) :
    ∃ b, tfind (a2aSent id own xs s).cmds id = some b ∧ b.row = xs.length ∧ b.status = n := by
  rw [a2aSent_cmds, rowsCounted, modCmd_find, h]
  exact ⟨_, rfl, rfl, rfl⟩

theorem a2aSent_nil_due (id own : Nat) (s : State) : due (a2aSent id own [] s) s.now .a2aContribute { a := id } := by
  have hn : (rowsCounted id [] s).now = s.now := modCmd_now ..
  rw [← hn]
  exact due_post ..

/-- The times of a transfer within the package rest on nothing else in the state (R236). -/
theorem xferTimes_of_here {s t : State} {own : Nat} {x : Xfer} (hp : x.pkg = identityOf s (own / 2048))
    (hi : identityOf t (own / 2048) = identityOf s (own / 2048)) : xferTimes t own x = xferTimes s own x := by
  simp only [xferTimes, xferHere, hi, hp, if_true]

/-- A single transfer within the package leaves 32 bytes a cycle, and is written and acknowledged in its time (R474). -/
theorem a2aSent_single_due {id own : Nat} {x : Xfer} {s : State} (hp : x.pkg = identityOf s (own / 2048)) (hb : 0 < x.bytes.length) :
    due (a2aSent id own [x] s) (s.now + ((x.bytes.length + 31) / 32 - 1) + (xferTimes s own x).1) .a2aParcelWrite
      { a := id, b := 1 + x.first, c := x.pkg, w := word x.va, w2 := word (xferTimes s own x).2, p := .bytes x.bytes } := by
  have hn : (rowsCounted id [x] s).now = s.now := modCmd_now ..
  have hk : (rowsCounted id [x] s).pkgs = s.pkgs := modCmd_pkgs ..
  have hi : identityOf (rowsCounted id [x] s) (own / 2048) = identityOf s (own / 2048) := by
    rw [identityOf, pkgAt, hk, identityOf, pkgAt]
  have ht := xferTimes_of_here hp hi
  have hl : s.now + (0 + x.bytes.length + 31) / 32 - 1 = s.now + ((x.bytes.length + 31) / 32 - 1) := by omega
  show due (xferSend id own [x] 0 (rowsCounted id [x] s)) _ _ _
  simp only [xferSend, hn, ht, hl, hi, if_pos hp]
  exact due_post ..

/-! ### Acknowledgements (R188, R347) -/

/-- A transfer is acknowledged to the tile's package. -/
def parcelAcked (id own q at' : Nat) (s : State) : State := overLink q (own / 2048) 1 8 at' .a2aContribute { a := id, b := 1 } s

theorem parcelAcked_due (id at' : Nat) {own q : Nat} (s : State) (h : q = own / 2048) :
    due (parcelAcked id own q at' s) at' .a2aContribute { a := id, b := 1 } := by
  rw [parcelAcked, overLink, if_pos h]
  exact due_post ..

/-- The command after an acknowledgement (`b` 1). -/
def acked (s : State) (c : Cmd) : Cmd := if s.ev.b = 1 then { c with row := c.row - 1 } else c

theorem acked_row (s : State) (c : Cmd) : (acked s c).row = if s.ev.b = 1 then c.row - 1 else c.row := by
  unfold acked
  split <;> rfl

section
variable {s : State} {c : Cmd} (hf : tfind s.cmds s.ev.a = some c)
include hf

/-- After the last acknowledgement the A2A contributes, in its turn at the group's node (R174). -/
theorem exec_a2aContribute_eq :
    let t := { s with cmds := tput s.cmds s.ev.a (acked s c) }
    exec .a2aContribute s = .next (
      if (acked s c).row ≠ 0 then t
      else if cmdAway t (acked s c) then post (s.now + 1) .a2aContribute { a := s.ev.a } t
      else if cnWouldWait t (cidOf c.sid) (aGroup c.desc) then post (s.now + 1) .a2aContribute { a := s.ev.a } t
      else contribute (cidOf c.sid) (aGroup c.desc) (word (aNpar c.desc)) { sid := c.sid, gen := c.gen, kind := 2, cmd := s.ev.a } t) := by
  intro t
  have hs : (acked s c).sid = c.sid ∧ (acked s c).desc = c.desc ∧ (acked s c).gen = c.gen := by
    unfold acked
    split <;> exact ⟨rfl, rfl, rfl⟩
  obtain ⟨hsid, hdesc, hgen⟩ := hs
  rw [← hsid, ← hdesc, ← hgen]
  show execA2aContribute s = _
  simp only [execA2aContribute, hf]
  rw [← acked]
  split
  · rfl
  · split
    · rfl
    · split <;> rfl

end

/-! ### The engine's reads (R347, R474) -/

section
variable {s : State} {c : Cmd} (hf : tfind s.cmds s.ev.a = some c)
include hf

section
variable (hb : s.ev.b = 0) (hr : released s c.entries = true) (ha : a2aAhead s s.ev.a (cidOf c.sid) = false)
  (hok : ∀ p, p ∈ [(aVa c.desc 3, 2 * aNpar c.desc), (aVa c.desc 4, 16 * aNdest c.desc), (aVa c.desc 0, aNpar c.desc * aP c.desc)] →
    ∃ a k, engCheck s (tidOfC (cidOf c.sid)) p.1 (coreAt s (cidOf c.sid)).tenant p.2 = (a, .ok k))
include hb hr ha hok

theorem exec_a2aParcelWrite_of_read :
    let own := tidOfC (cidOf c.sid)
    exec .a2aParcelWrite s = .next (a2aSent s.ev.a own
      (a2aXfers (xferNear s own) (xferReached s own) (xferParts s own) (a2aParcels s c))
      (parcelsChecked s.ev.a own (aNpar c.desc) (xferNear s own) (xferReached s own) (a2aParcels s c) s)) := by
  intro own
  obtain ⟨a1, k1, h1⟩ := hok _ (.head _)
  obtain ⟨a2, k2, h2⟩ := hok _ (.tail _ (.head _))
  obtain ⟨a3, k3, h3⟩ := hok _ (.tail _ (.tail _ (.head _)))
  have hx : xferParts (parcelsChecked s.ev.a own (aNpar c.desc) (xferNear s own) (xferReached s own) (a2aParcels s c) s) own
      = xferParts s own := parcelsChecked_leaves (fun u => xferParts u own) (fun _ _ _ _ _ => rfl) ..
  rw [← hx]
  show execA2aParcelWrite s = _
  simp only [execA2aParcelWrite, hf, hb, if_true, hr, ha, Bool.not_true, Bool.or_self, Bool.false_eq_true, if_false, List.findSome?, h1,
    h2, h3]
  rfl

theorem a2aParcelWrite_read_spec :
    let own := tidOfC (cidOf c.sid)
    let near := xferNear s own
    let reached := xferReached s own
    let all := a2aParcels s c
    let xs := a2aXfers near reached (xferParts s own) all
    ∃ t b, exec .a2aParcelWrite s = .next t ∧ tfind t.cmds s.ev.a = some b ∧ b.row = xs.length
      ∧ (all.length < aNpar c.desc → c.status = 0 → (all.all fun x => near x && reached x) = true → b.status = 5)
      ∧ (c.status = 0 → all.all near = false → b.status = 1)
      ∧ (∀ x, xs = [x] → x.pkg = identityOf s (own / 2048) → 0 < x.bytes.length →
          due t (s.now + ((x.bytes.length + 31) / 32 - 1) + (xferTimes s own x).1) .a2aParcelWrite
            { a := s.ev.a, b := 1 + x.first, c := x.pkg, w := word x.va, w2 := word (xferTimes s own x).2, p := .bytes x.bytes })
      ∧ (xs = [] → due t s.now .a2aContribute { a := s.ev.a }) := by
  intro own near reached all xs
  let u := parcelsChecked s.ev.a own (aNpar c.desc) near reached all s
  have hstatus : hasStatus u s.ev.a c (parcelsStatus (aNpar c.desc) near reached all c.status) :=
    parcelsChecked_hasStatus own near reached all hf
  have hnow : u.now = s.now := parcelsChecked_leaves State.now (fun _ _ _ _ _ => rfl) ..
  have hid : identityOf u (own / 2048) = identityOf s (own / 2048) := by
    rw [identityOf, pkgAt, show u.pkgs = s.pkgs from parcelsChecked_leaves State.pkgs (fun _ _ _ _ _ => rfl) .., identityOf, pkgAt]
  obtain ⟨b, hb', hrow, hst⟩ := a2aSent_find own xs hstatus
  refine ⟨_, b, exec_a2aParcelWrite_of_read hf hb hr ha hok, hb', hrow, fun hn h0 hall => ?_, fun _ hfar => ?_, fun x hx hp hl => ?_,
    fun hx => ?_⟩
  · rw [hst, h0]
    exact parcelsStatus_of_missing hn hall
  · rw [hst]
    exact parcelsStatus_of_far _ hfar
  · have h := a2aSent_single_due (id := s.ev.a) (hp.trans hid.symm) hl
    rw [hnow, xferTimes_of_here hp hid] at h
    show due (a2aSent s.ev.a own xs u) _ _ _
    rwa [hx]
  · have h := a2aSent_nil_due s.ev.a own u
    rw [hnow] at h
    show due (a2aSent s.ev.a own xs u) _ _ _
    rwa [hx]

end

/-! ### A transfer at its destination (R347, R184) -/

section
variable {bs : List Byte} {a : Nat} (hb : s.ev.b ≠ 0) (hd : s.ev.d = 0) (hp : s.ev.p = .bytes bs)
include hb hd hp

theorem a2aParcelWrite_written_spec {k : Nat} (hk : remoteCheck s (tidOfC (cidOf c.sid)) (s.ev.c % 65536) s.ev.w.toNat bs.length
      (coreAt s (cidOf c.sid)).tenant (coreAt s (cidOf c.sid)).part = (a, .ok k)) :
    let own := tidOfC (cidOf c.sid)
    let written := remoteWrite c.sid own (s.ev.c % 65536) s.ev.w.toNat (coreAt s (cidOf c.sid)).tenant bs s
    ∃ t, exec .a2aParcelWrite s = .next t ∧ t.mem = written.mem
      ∧ (s.ev.c % 65536 = own / 2048 → due t (s.now + s.ev.w2.toNat) .a2aContribute { a := s.ev.a, b := 1 }) := by
  intro own written
  refine ⟨parcelAcked s.ev.a own (s.ev.c % 65536) (s.now + s.ev.w2.toNat) written, ?_, ?_, parcelAcked_due _ _ _⟩
  · show execA2aParcelWrite s = _
    simp only [execA2aParcelWrite, hf, if_neg hb, hd, hp, hk, ne_eq, not_true_eq_false, if_false]
    rfl
  · exact overLink_leaves State.mem (fun _ _ _ _ => rfl) ..

/-- A refused parcel is in the status, and the next FENCE reports it (R141). -/
theorem a2aParcelWrite_refused_spec {f : Nat} (hk : remoteCheck s (tidOfC (cidOf c.sid)) (s.ev.c % 65536) s.ev.w.toNat bs.length
      (coreAt s (cidOf c.sid)).tenant (coreAt s (cidOf c.sid)).part = (a, .fail f 4)) :
    ∃ t, exec .a2aParcelWrite s = .next t ∧ t.mem = s.mem
      ∧ tfind t.cmds s.ev.a = some { c with status := lowStatus c.status (failStatus 4) }
      ∧ due t (s.now + s.ev.w2.toNat) .remoteRejection { a := s.nextId }
      ∧ (s.ev.c % 65536 = tidOfC (cidOf c.sid) / 2048 → due t (s.now + s.ev.w2.toNat) .a2aContribute { a := s.ev.a, b := 1 }) := by
  let own := tidOfC (cidOf c.sid)
  let logged := logReject (remoteMtu own (s.ev.c % 65536) a) (cidOf c.sid) a (coreAt s (cidOf c.sid)).tenant s
  let rejected := rejectParcel s.ev.a s.ev.w.toNat (s.now + s.ev.w2.toNat) logged
  let u := addStatus s.ev.a (failStatus 4) rejected
  have hrej : hasStatus rejected s.ev.a c c.status :=
    (congrArg (tfind · s.ev.a) (rejectParcel_leaves State.cmds (fun _ _ _ _ => rfl) ..)).trans hf
  have hdue : due u (s.now + s.ev.w2.toNat) .remoteRejection { a := s.nextId } := by
    rw [due, show u.agenda = rejected.agenda from modCmd_agenda ..]
    exact rejectParcel_due (s := logged) hf ..
  refine ⟨parcelAcked s.ev.a own (s.ev.c % 65536) (s.now + s.ev.w2.toNat) u, ?_, ?_, ?_, overLink_agenda _ _ _ _ _ _ _ _ hdue,
    parcelAcked_due _ _ _⟩
  · show execA2aParcelWrite s = _
    simp only [execA2aParcelWrite, hf, if_neg hb, hd, hp, hk, ne_eq, not_true_eq_false, if_false, if_true]
    rfl
  · exact (overLink_leaves State.mem (fun _ _ _ _ => rfl) ..).trans
      ((modCmd_mem ..).trans (rejectParcel_leaves State.mem (fun _ _ _ _ => rfl) ..))
  · rw [parcelAcked, overLink_leaves State.cmds fun _ _ _ _ => rfl]
    exact addStatus_hasStatus (failStatus 4) hrej

end

end

/-! ### The statement -/

/-- Settles O57: each clause is one way in which its instruction or event ends. -/
theorem collectives : Obligations.Collectives := by
  unfold Obligations.Collectives
  refine ⟨?contribution, ?upward, ?arrival, fun s => rfl, ?result, ?delivery, ?pavilion, ?slot, ?timeout, ferHaltNotice_spec,
    ferResumeNotice_spec, ?push, ?transfers⟩
  case contribution =>
    intro o s x t hr hx hb g sid cid op u ok
    exact ⟨exec_gcont_of_bad hr hx hb, exec_gscan_of_bad hr hx hb, exec_gcont_of_room hr hx hb, exec_gcont_of_full hr hx hb,
      fun h hs hf hd hw => exec_gscan_of_room hr hx hb h hd hw hs hf⟩
  case upward =>
    intro s nk seq l w tid i tot st hs ho hl
    exact ⟨cnTry_root_due hs ho hl, cnTry_pavilion_due hs ho hl, fun v => cnTry_parent_due hs ho hl⟩
  case arrival =>
    exact fun s c hp => ⟨exec_cnPartial_of_core hp, exec_cnPartial_of_listed hp, exec_cnPartial_of_unlisted hp⟩
  case result =>
    intro s c hp nk w l g wk x first held
    refine ⟨exec_cnResultArrival_of_held hp, cnResultArrival_node_spec hp, fun w hf hw hd => ?_, fun w hf hw hd => ?_, fun hd => ?_,
      fun hd => ?_⟩
    · exact (exec_cnResultArrival_of_wait hp hf hw).trans (congrArg _ (if_pos hd))
    · exact (exec_cnResultArrival_of_wait hp hf hw).trans (congrArg _ (if_neg (ne_true_of_eq_false hd)))
    · exact (exec_cnResultUnblock_eq hp).trans (congrArg _ (if_pos hd))
    · exact (exec_cnResultUnblock_eq hp).trans (congrArg _ (if_neg (ne_true_of_eq_false hd)))
  case delivery =>
    intro s g seq cid val st w x live
    exact ⟨cnDeliver_of_a2a g seq cid val, cnDeliver_of_gone g seq cid val, fun hk hl => cnDeliver_of_scan g seq cid val hl hk,
      fun hk hl => cnDeliver_of_room g seq cid val hl hk, fun hk hl => cnDeliver_of_full g seq cid val hl hk⟩
  case pavilion =>
    intro s p hp
    refine ⟨exec_ferWaitRelease hp, fun hf => ?_, fun hf => ?_, fun x => exec_ferParentResult_of_waiting hp⟩
    · rw [exec_ferArrival hp, if_pos hf]
    · rw [exec_ferArrival hp, if_neg (ne_true_of_eq_false hf)]
  case slot =>
    intro s fk p again hv t k x n
    refine ⟨fun h => (ferIn_free_spec again hv h).1, fun h => (ferIn_free_spec again hv h).2, fun h ht hg _ hq => ?_⟩
    have hin : t = ferTake fk k p s := ferIn_of_open again hv h ht hg hq
    rw [hin]
    refine ⟨ferTake_of_last rfl, fun hn => ?_⟩
    rw [ferTake_of_more rfl hn]
    exact ⟨h, rfl⟩
  case timeout =>
    exact fun s => ⟨exec_ferSlotTimeout_of_running, exec_ferSlotTimeout_of_over⟩
  case push =>
    intro o s hn h dp d t e1 e2 l cid n hc hp hd hl hsend hidx htab hrecv hg hop ho1 ho2 hfree hq hf
    exact a2a_spec hc hp hd hl hsend hidx htab hrecv ⟨hg, hop⟩ ho1 ho2 hfree hq hf
  case transfers =>
    intro s c hf cid own ten d
    refine ⟨fun hb hr ha hok => a2aParcelWrite_read_spec hf hb hr ha hok,
      fun bs a k hb hd hp hk => a2aParcelWrite_written_spec hf hb hd hp hk,
      fun bs a f hb hd hp hk => a2aParcelWrite_refused_spec hf hb hd hp hk, ?_⟩
    intro n c' t
    have he := exec_a2aContribute_eq hf
    rw [acked_row] at he
    refine ⟨fun hn => ?_, fun hn ha => ?_, fun hn ha hw => ?_, fun hn ha hw => ?_⟩
    · exact he.trans (congrArg _ (if_pos hn))
    all_goals refine he.trans (congrArg _ ((if_neg (not_not.2 hn)).trans ?_))
    · exact if_pos ha
    · exact (if_neg (ne_true_of_eq_false ha)).trans (if_pos hw)
    · exact (if_neg (ne_true_of_eq_false ha)).trans (if_neg (ne_true_of_eq_false hw))

end Sys2Proof.Machine
end

section
/-!
SUPPORT. The words of the encoder read back (`Obligations.DecodeOfEncodeIsTheInstruction`): the row that an instruction's code names,
the prefixes and how `parse` collects them, the fields of the operands, then the checks of R204 on an encoded instruction.
-/

namespace Sys2Proof.Laws.Codec

/-- The laws of this namespace, put together. -/
theorem statement : ∀ i, Statement i
  | .udf o => udf o | .add o => add o | .sub_ o => sub_ o | .and_ o => and_ o | .or_ o => or_ o | .xor_ o => xor_ o | .shl o => shl o
  | .shr o => shr o | .sra o => sra o | .mul_ o => mul_ o | .mov o => mov o | .addi o => addi o | .li o => li o | .slt o => slt o
  | .sltu o => sltu o | .seq_ o => seq_ o | .beq o => beq o | .bne o => bne o | .blt o => blt o | .bge o => bge o | .bltu o => bltu o
  | .bgeu o => bgeu o | .jmp o => jmp o | .jal o => jal o | .jalr o => jalr o | .ldd o => ldd o | .ldw o => ldw o | .std o => std o
  | .stw o => stw o | .padd o => padd o | .qadv o => qadv o | .mulh o => mulh o | .mulhu o => mulhu o | .div_ o => div_ o
  | .divu o => divu o | .rem_ o => rem_ o | .remu o => remu o | .min_ o => min_ o | .max_ o => max_ o | .minu o => minu o
  | .maxu o => maxu o | .clz o => clz o | .popc o => popc o | .bfx o => bfx o | .bfi o => bfi o | .andi o => andi o | .ori o => ori o
  | .xori o => xori o | .shli o => shli o | .shri o => shri o | .srai o => srai o | .lih o => lih o | .slti o => slti o
  | .loop_ o => loop_ o | .loopi o => loopi o | .pushb o => pushb o | .brq o => brq o | .fadd o => fadd o | .fmul o => fmul o
  | .ffma o => ffma o | .fcmp o => fcmp o | .fcvt o => fcvt o | .ldb o => ldb o | .ldbu o => ldbu o | .ldh o => ldh o | .ldhu o => ldhu o
  | .ldwu o => ldwu o | .stb o => stb o | .sth o => sth o | .ldacq o => ldacq o | .strel o => strel o | .fence o => fence o
  | .ptag o => ptag o | .pfmt o => pfmt o | .pspan o => pspan o | .qbind o => qbind o | .qfill o => qfill o | .xput o => xput o
  | .clrp o => clrp o | .testp o => testp o | .waitw o => waitw o | .cpy o => cpy o | .get_ o => get_ o | .put_ o => put_ o
  | .sread o => sread o | .swrite o => swrite o | .qsend o => qsend o | .qsendWho o => qsendWho o | .time_ o => time_ o
  | .self_ o => self_ o | .bind_ o => bind_ o | .unbind o => unbind o | .acqs o => acqs o | .acqx o => acqx o | .rel_ o => rel_ o
  | .gstat o => gstat o | .gstatVerger o => gstatVerger o | .gnew o => gnew o | .gfree o => gfree o | .atom o => atom o | .cas o => cas o
  | .atomsc o => atomsc o | .ldsc o => ldsc o | .stsc o => stsc o | .bar_ o => bar_ o | .sstep o => sstep o | .ssync o => ssync o
  | .ldref o => ldref o | .stref o => stref o | .ldk o => ldk o | .stk o => stk o | .kmov o => kmov o | .kmovToG o => kmovToG o
  | .kmovFromG o => kmovFromG o | .knew o => knew o | .kpin o => kpin o | .kunpin o => kunpin o | .kcmp o => kcmp o | .knull o => knull o
  | .vadd o => vadd o | .vsub o => vsub o | .vmul o => vmul o | .vfma o => vfma o | .vmin o => vmin o | .vmax o => vmax o
  | .vabs o => vabs o | .vneg o => vneg o | .vcmp o => vcmp o | .vsel o => vsel o | .vand o => vand o | .vor o => vor o
  | .vxor o => vxor o | .vshl o => vshl o | .vshr o => vshr o | .viadd o => viadd o | .visub o => visub o | .vimul o => vimul o
  | .vrcp o => vrcp o | .vrsq o => vrsq o | .vexp2 o => vexp2 o | .vlog2 o => vlog2 o | .vred o => vred o | .vscan o => vscan o
  | .vperm o => vperm o | .vbcast o => vbcast o | .vext o => vext o | .vins o => vins o | .viota o => viota o | .vcvt o => vcvt o
  | .vmov o => vmov o | .vld o => vld o | .vst o => vst o | .vldx o => vldx o | .vstx o => vstx o | .vstm o => vstm o | .vlds o => vlds o
  | .vsts o => vsts o | .vtopk o => vtopk o | .vbscale o => vbscale o | .gjoin o => gjoin o | .gleave o => gleave o
  | .rejoin o => rejoin o | .vshare o => vshare o | .start_ o => start_ o | .startp o => startp o | .stop_ o => stop_ o
  | .joins o => joins o | .live_ o => live_ o | .liveGet o => liveGet o | .yield o => yield o | .mxc o => mxc o | .mxcap o => mxcap o
  | .mxcapGet o => mxcapGet o | .epi o => epi o | .hcompact o => hcompact o | .tqput o => tqput o | .tqget o => tqget o
  | .tdec o => tdec o | .tdset o => tdset o | .tdbind o => tdbind o | .launch o => launch o | .gcont o => gcont o | .gscan o => gscan o
  | .a2a o => a2a o | .sysrd o => sysrd o | .sysrdB o => sysrdB o | .syswr o => syswr o | .syswrB o => syswrB o | .tret o => tret o
  | .tretSkip o => tretSkip o | .tretLeave o => tretLeave o | .tretKill o => tretKill o | .svc o => svc o | .brk o => brk o
  | .rtset o => rtset o | .rtget o => rtget o | .ctxsave o => ctxsave o | .ctxload o => ctxload o | .kills o => kills o
  | .killsResume o => killsResume o | .snap o => snap o | .halt_ o => halt_ o | .wfe o => wfe o | .orphan o => orphan o
  | .gswitch o => gswitch o | .tmsg o => tmsg o | .vshareApply => vshareApply | .registerEvict => registerEvict
  | .registerFetch => registerFetch | .resultWriteback => resultWriteback | .presTimeout => presTimeout | .xputArrival => xputArrival
  | .vectorQuarterIssue => vectorQuarterIssue | .vectorResult => vectorResult | .followerIssue => followerIssue | .groupForm => groupForm
  | .gjoinTimeout => gjoinTimeout | .superstepBoundary => superstepBoundary | .accessPerform => accessPerform | .loadResult => loadResult
  | .storeAck => storeAck | .atomicPerform => atomicPerform | .watchMade => watchMade | .watchWake => watchWake
  | .watchRetry => watchRetry | .qsendArrival => qsendArrival | .qsendAnswer => qsendAnswer | .qsendResend => qsendResend
  | .ringAppendDone => ringAppendDone | .receiveQueueRefill => receiveQueueRefill | .scComplete => scComplete
  | .releaseSend => releaseSend | .guardRequest => guardRequest | .guardRequestResend => guardRequestResend
  | .guardRelease => guardRelease | .guardForward => guardForward | .grantArrival => grantArrival | .grantRetry => grantRetry
  | .writeBehindComplete => writeBehindComplete | .wbdone => wbdone | .guardPackageFailure => guardPackageFailure
  | .homeLostAnswer => homeLostAnswer | .heapBarrierWake => heapBarrierWake | .inflDecrement => inflDecrement | .healCas => healCas
  | .barrierLateTrap => barrierLateTrap | .relocCommand => relocCommand | .relocParse => relocParse | .flipArrival => flipArrival
  | .flipAck => flipAck | .relocObjectBusy => relocObjectBusy | .relocObjectDone => relocObjectDone | .relocComplete => relocComplete
  | .cnPartial => cnPartial | .cnInstanceComplete => cnInstanceComplete | .cnResultArrival => cnResultArrival
  | .cnResultUnblock => cnResultUnblock | .ferArrival => ferArrival | .ferSlotTimeout => ferSlotTimeout
  | .ferParentResult => ferParentResult | .ferWaitRelease => ferWaitRelease | .ferHaltNotice => ferHaltNotice
  | .ferResumeNotice => ferResumeNotice | .a2aParcelWrite => a2aParcelWrite | .a2aContribute => a2aContribute
  | .copyComplete => copyComplete | .completionElementPlace => completionElementPlace | .getRequestServe => getRequestServe
  | .remoteAtomicServe => remoteAtomicServe | .getComplete => getComplete | .putDataArrival => putDataArrival
  | .putLocalComplete => putLocalComplete | .putRemoteComplete => putRemoteComplete | .storageIoComplete => storageIoComplete
  | .matrixCommandArrival => matrixCommandArrival | .matrixCommandResend => matrixCommandResend | .shadowEntry => shadowEntry
  | .mode_ => mode_ | .loadb => loadb | .run_ => run_ | .clear_ => clear_ | .matrixCommandComplete => matrixCommandComplete
  | .matrixNoticeArrival => matrixNoticeArrival | .epiStart => epiStart | .epiComplete => epiComplete | .tqRefill => tqRefill
  | .tdecApply => tdecApply | .tdsetApply => tdsetApply | .tdbindApply => tdbindApply | .releasedRecordPush => releasedRecordPush
  | .barRelease => barRelease | .barTimeout => barTimeout | .takeTrap => takeTrap | .teamSwapOut => teamSwapOut
  | .teamRestore => teamRestore | .gangSwitch => gangSwitch | .gangSave => gangSave | .gangRestore => gangRestore
  | .falloutPhase => falloutPhase | .epiSwitchTimeout => epiSwitchTimeout | .escalationArrival => escalationArrival
  | .trcNoticeArrival => trcNoticeArrival | .remoteRejection => remoteRejection | .mtuAccessDecide => mtuAccessDecide
  | .mtuParkRetry => mtuParkRetry | .sqeFillRequest => sqeFillRequest | .sqeFillComplete => sqeFillComplete
  | .mtuInstallNotice => mtuInstallNotice | .sqeFillFail => sqeFillFail | .sqeCommandTimeout => sqeCommandTimeout
  | .parkedAccessAnswer => parkedAccessAnswer | .parkedAccessFail => parkedAccessFail | .faultServe => faultServe
  | .pageMigrationArrival => pageMigrationArrival | .migrationAck => migrationAck | .evictWritebackComplete => evictWritebackComplete
  | .linkFlitReceive => linkFlitReceive | .linkNak => linkNak | .linkAck => linkAck | .transportPacketArrival => transportPacketArrival
  | .transportAck => transportAck | .transportResend => transportResend | .laneLoss => laneLoss | .linkRetrainDone => linkRetrainDone
  | .bandwidthEventArrival => bandwidthEventArrival | .keepaliveSend => keepaliveSend | .keepaliveTimeout => keepaliveTimeout
  | .packageFailureDeclare => packageFailureDeclare | .failureNotice => failureNotice | .hostMemAccess => hostMemAccess
  | .crzDoor => crzDoor | .identify => identify | .negotiate => negotiate | .patch_ => patch_ | .partMake => partMake
  | .partEnd => partEnd | .tenantKeyErase => tenantKeyErase | .grant_ => grant_ | .map_ => map_ | .own_ => own_ | .evict => evict
  | .route_ => route_ | .hostmap => hostmap | .job_ => job_ | .log_ => log_ | .unsupportedCommand => unsupportedCommand
  | .gangPlace => gangPlace | .jobEnd => jobEnd | .tileClear => tileClear | .tduJdone => tduJdone | .tduJkill => tduJkill
  | .tduQbaseWrite => tduQbaseWrite | .tduDcbaseWrite => tduDcbaseWrite | .registerWrite => registerWrite
  | .partitionRegisterPropagate => partitionRegisterPropagate | .tstatWrite => tstatWrite | .orphstatWrite => orphstatWrite
  | .orphstatRead => orphstatRead | .sliceWrite => sliceWrite | .snapctlWrite => snapctlWrite | .trcPop => trcPop
  | .trcLostRead => trcLostRead | .ferPstatRead => ferPstatRead | .ferEvlostRead => ferEvlostRead | .debugStopRequest => debugStopRequest
  | .debugStop => debugStop | .debugResume => debugResume | .tduStep => tduStep | .stepDone => stepDone | .tduStepstRead => tduStepstRead
  | .tduTrbaseWrite => tduTrbaseWrite | .traceSample => traceSample | .snapshotFire => snapshotFire
  | .lifetimeCounterUpdate => lifetimeCounterUpdate | .macroScrub => macroScrub | .powerOn => powerOn | .thermalTrip => thermalTrip
  | .getVersion => getVersion | .getCapabilities => getCapabilities | .negotiateAlgorithms => negotiateAlgorithms
  | .getDigests => getDigests | .getCertificate => getCertificate | .challenge => challenge | .getMeasurements => getMeasurements
  | .powerLoss => powerLoss | .ssdPortLinkChange => ssdPortLinkChange | .wfeTimeout => wfeTimeout | .tileFailure => tileFailure

end Sys2Proof.Laws.Codec

namespace Sys2Proof

/-! ### The rows of the opcode map -/

theorem mem_rows_of_rowOf {p op v : Nat} {r : Row} (h : rowOf p op v = some r) : r ∈ rows := by
  have hm := List.mem_of_find?_eq_some h
  simp only [rows, List.mem_append]
  split at hm <;> simp_all

theorem row_page_lt_and_op_lt : ∀ r ∈ rows, r.page < 8 ∧ r.op < 31 := by decide +kernel

theorem Row.opsOk_iff {r : Row} {o : Ops} : r.opsOk o = true ↔ r.shapeOk o = true ∧ (r.isUdf = true → o = {}) ∧ o.xi.length ≤ 3
    ∧ r.prefixes o ≤ 4 ∧ (r.exrReq = true → o.exr = true) ∧ r.xiMin ≤ o.xi.length ∧ r.check8 o = none
    ∧ variantOf r.page r.op o.bits o.xi.length = r.variant := by
  simp [opsOk, and_assoc, or_iff_not_imp_left]

/-! ### Fields of concatenated bits -/

theorem zero_append_low (m n : Nat) {x : BitVec (m + n)} (h : x.toNat < 2 ^ n) : 0#m ++ x.extractLsb' 0 n = x := by
  apply BitVec.eq_of_toNat_eq
  simp [BitVec.toNat_append, Nat.mod_eq_of_lt h]

theorem high_append_low (x : BitVec 6) : x.extractLsb' 5 1 ++ x.extractLsb' 0 5 = x :=
  (BitVec.extractLsb'_append_extractLsb'_eq_extractLsb' rfl).trans BitVec.extractLsb'_eq_self

@[simp] theorem ite_one_beq_one (b : Bool) : ((if b then 1#1 else 0#1) == 1#1) = b := by cases b <;> rfl

/-! ### The words of the prefixes (R194) -/

@[simp] theorem isPrefixWord_prefixWord (k : BitVec 2) (p : BitVec 9) : isPrefixWord (prefixWord k p) = true :=
  beq_iff_eq.2 ((BitVec.extractLsb'_append_eq_of_le (by decide)).trans BitVec.extractLsb'_append_eq_left)

@[simp] theorem hw_prefixWord_kind (k : BitVec 2) (p : BitVec 9) : hw (prefixWord k p) 9 2 = k :=
  (BitVec.extractLsb'_append_eq_of_le (by decide)).trans BitVec.extractLsb'_append_eq_right

@[simp] theorem hw_prefixWord_payload (k : BitVec 2) (p : BitVec 9) : hw (prefixWord k p) 0 9 = p :=
  BitVec.extractLsb'_append_eq_right

/-! ### Collecting the prefixes (R195) -/

theorem parse_prefixWord {n : Nat} {r r' : Raw} {k : BitVec 2} {p : BitVec 9} (h : r.addPrefix (prefixWord k p) = some r')
    (ws : List (BitVec 16)) : parse (n + 1) r (prefixWord k p :: ws) = parse n r' ws := by
  simp [parse, h]

/-- One of the prefixes that stand at most once, where it stands: `set` is what the raw words become by it. -/
theorem parse_option {n : Nat} {k : BitVec 2} {set : Option (BitVec 9) → Raw}
    (h : ∀ p, (set none).addPrefix (prefixWord k p) = some (set (some p))) (e : Option (BitVec 9)) (ws : List (BitVec 16)) :
    parse (e.toList.length + n) (set none) (e.toList.map (prefixWord k) ++ ws) = parse n (set e) ws := by
  cases e with
  | none => simp
  | some p => simpa [Nat.add_comm] using parse_prefixWord (h p) ws

theorem parse_xi {n : Nat} (xi : List (BitVec 9)) {r : Raw} (h : r.xi.length + xi.length ≤ 3) (ws : List (BitVec 16)) :
    parse (xi.length + n) r (xi.map (prefixWord 0#2) ++ ws) = parse n { r with xi := r.xi ++ xi } ws := by
  induction xi generalizing r with
  | nil => simp
  | cons x xi ih =>
    rw [List.length_cons] at h
    have hx : r.addPrefix (prefixWord 0#2 x) = some { r with xi := r.xi ++ [x] } := by
      simp [Raw.addPrefix, show r.xi.length < 3 by omega]
    rw [List.length_cons, Nat.add_right_comm, List.map_cons, List.cons_append, parse_prefixWord hx, ih (by simp; omega)]
    simp

theorem parse_base {x : BitVec 16} (h : isPrefixWord x = false) (n : Nat) (r : Raw) :
    parse n r [x] = some { r with base := x } := by
  cases n <;> simp [parse, h]

/-! ### The words of a row's instruction -/

/-- The prefixes and base word that the encoder writes, as the decoder collects them. -/
def Row.raw (r : Row) (o : Ops) : Raw :=
  { xi := o.xi, exr := if o.exr then some o.exrPayload else none, exp := if r.page = 0 then none else some (BitVec.ofNat 9 r.page)
    exq := o.exq, base := r.baseWord o }

theorem Row.encode_eq (r : Row) (o : Ops) : r.encode o = (r.raw o).exp.toList.map (prefixWord 2#2)
    ++ ((r.raw o).exr.toList.map (prefixWord 1#2) ++ (o.exq.toList.map (prefixWord 3#2)
      ++ (o.xi.map (prefixWord 0#2) ++ [r.baseWord o]))) := by
  simp only [encode, raw, List.append_assoc]
  congr 1
  · split <;> rfl
  · congr 1
    · split <;> rfl
    · congr 1
      cases o.exq <;> rfl

theorem Row.prefixes_eq (r : Row) (o : Ops) : r.prefixes o
    = (r.raw o).exp.toList.length + ((r.raw o).exr.toList.length + (o.exq.toList.length + o.xi.length)) := by
  unfold prefixes raw
  cases o.exq <;> split <;> split <;> simp <;> omega

@[simp] theorem hw_baseWord_op (r : Row) (o : Ops) : hw (r.baseWord o) 11 5 = BitVec.ofNat 5 r.op := by
  unfold Row.baseWord
  cases r.form with
  | r => rw [hw, BitVec.extractLsb'_append_eq_of_le, BitVec.extractLsb'_append_eq_of_le, BitVec.extractLsb'_append_eq_left] <;> decide
  | i => rw [hw, BitVec.extractLsb'_append_eq_of_le, BitVec.extractLsb'_append_eq_left] ; decide
  | j => exact BitVec.extractLsb'_append_eq_left

theorem isPrefixWord_baseWord {r : Row} (h : r.op < 31) (o : Ops) : isPrefixWord (r.baseWord o) = false := by
  rw [isPrefixWord, hw_baseWord_op, beq_eq_false_iff_ne, Ne, ← BitVec.toNat_inj]
  simp
  omega

theorem Row.parse_encode {r : Row} {o : Ops} (hop : r.op < 31) (hx : o.xi.length ≤ 3) (hn : r.prefixes o ≤ 4) :
    parse 4 (Raw.mk [] none none none 0) (r.encode o) = some (r.raw o) := by
  obtain ⟨n, hn⟩ := Nat.exists_eq_add_of_le hn
  rw [hn, prefixes_eq, encode_eq]
  simp only [Nat.add_assoc]
  rw [parse_option (set := fun e => Raw.mk [] none e none 0) (fun p => by simp [Raw.addPrefix]),
    parse_option (set := fun e => Raw.mk [] e _ none 0) (fun p => by simp [Raw.addPrefix]),
    parse_option (set := fun e => Raw.mk [] _ _ e 0) (fun p => by simp [Raw.addPrefix]),
    parse_xi o.xi (by simpa using hx), parse_base (isPrefixWord_baseWord hop o)]
  simp [raw]

/-! ### The operands read back (R193, R197, R199) -/

theorem hw_baseWord_r {r : Row} (h : r.form = .r) (o : Ops) : hw (r.baseWord o) 6 5 = o.a.extractLsb' 0 5
    ∧ hw (r.baseWord o) 1 5 = o.b.extractLsb' 0 5 ∧ hw (r.baseWord o) 0 1 = if o.l then 1#1 else 0#1 := by
  rw [Row.baseWord, h]
  refine ⟨?_, ?_, BitVec.extractLsb'_append_eq_right⟩
  · rw [hw, BitVec.extractLsb'_append_eq_of_le, BitVec.extractLsb'_append_eq_of_le, BitVec.extractLsb'_append_eq_right] <;> decide
  · rw [hw, BitVec.extractLsb'_append_eq_of_le, BitVec.extractLsb'_append_eq_right]; decide

theorem hw_baseWord_i {r : Row} (h : r.form = .i) (o : Ops) :
    hw (r.baseWord o) 6 5 = o.a.extractLsb' 0 5 ∧ hw (r.baseWord o) 0 6 = o.lo.extractLsb' 0 6 := by
  rw [Row.baseWord, h]
  refine ⟨?_, BitVec.extractLsb'_append_eq_right⟩
  rw [hw, BitVec.extractLsb'_append_eq_of_le, BitVec.extractLsb'_append_eq_right]
  decide

theorem hw_baseWord_j {r : Row} (h : r.form = .j) (o : Ops) : hw (r.baseWord o) 0 11 = o.lo := by
  rw [Row.baseWord, h]
  exact BitVec.extractLsb'_append_eq_right

theorem extractLsb'_exrPayload (o : Ops) :
    o.exrPayload.extractLsb' 0 1 = o.c.extractLsb' 5 1 ∧ o.exrPayload.extractLsb' 1 1 = o.b.extractLsb' 5 1
    ∧ o.exrPayload.extractLsb' 2 1 = o.a.extractLsb' 5 1 ∧ o.exrPayload.extractLsb' 3 1 = (if o.la then 1#1 else 0#1)
    ∧ o.exrPayload.extractLsb' 4 5 = o.c.extractLsb' 0 5 := by
  unfold Ops.exrPayload
  refine ⟨BitVec.extractLsb'_append_eq_right, ?_, ?_, ?_, ?_⟩
  · rw [BitVec.extractLsb'_append_eq_of_le, BitVec.extractLsb'_append_eq_right]; decide
  · rw [BitVec.extractLsb'_append_eq_of_le, BitVec.extractLsb'_append_eq_of_le, BitVec.extractLsb'_append_eq_right] <;> decide
  · rw [BitVec.extractLsb'_append_eq_of_le, BitVec.extractLsb'_append_eq_of_le, BitVec.extractLsb'_append_eq_of_le,
      BitVec.extractLsb'_append_eq_right] <;> decide
  · rw [BitVec.extractLsb'_append_eq_of_le, BitVec.extractLsb'_append_eq_of_le, BitVec.extractLsb'_append_eq_of_le,
      BitVec.extractLsb'_append_eq_left] <;> decide

theorem Row.opsR_raw {r : Row} {o : Ops} (hf : r.form = .r) (h : r.shapeOk o = true) : (r.raw o).opsR = o := by
  obtain ⟨ha, hb, hl⟩ := hw_baseWord_r hf o
  obtain ⟨c5, b5, a5, pla, c0⟩ := extractLsb'_exrPayload o
  simp only [shapeOk, hf, Bool.and_eq_true, Bool.or_eq_true, decide_eq_true_eq, Bool.not_eq_true'] at h
  obtain ⟨hlo, hexr⟩ := h
  change _ = Ops.mk o.a o.b o.c o.l o.la o.exr o.exq o.xi o.lo
  cases he : o.exr with
  | true => simp [Raw.opsR, raw, he, ha, hb, hl, a5, b5, c5, c0, pla, high_append_low, hlo]
  | false =>
    obtain ⟨⟨⟨hlta, hltb⟩, hc⟩, hla⟩ := hexr.resolve_left (ne_true_of_eq_false he)
    simp [Raw.opsR, raw, he, ha, hb, hl, zero_append_low 1 5 hlta, zero_append_low 1 5 hltb, hc, hla, hlo]

theorem Row.opsI_raw {r : Row} {o : Ops} (hf : r.form = .i) (h : r.shapeOk o = true) : (r.raw o).opsI = o := by
  obtain ⟨ha, hlo⟩ := hw_baseWord_i hf o
  obtain ⟨c5, -, a5, pla, c0⟩ := extractLsb'_exrPayload o
  simp only [shapeOk, hf, Bool.and_eq_true, Bool.or_eq_true, decide_eq_true_eq, Bool.not_eq_true'] at h
  obtain ⟨⟨⟨hb, hl⟩, hlt⟩, hexr⟩ := h
  change _ = Ops.mk o.a o.b o.c o.l o.la o.exr o.exq o.xi o.lo
  cases he : o.exr with
  | true => simp [Raw.opsI, raw, he, ha, hlo, a5, c5, c0, pla, high_append_low, zero_append_low 5 6 hlt, hb, hl]
  | false =>
    obtain ⟨⟨hlta, hc⟩, hla⟩ := hexr.resolve_left (ne_true_of_eq_false he)
    simp [Raw.opsI, raw, he, ha, hlo, zero_append_low 1 5 hlta, zero_append_low 5 6 hlt, hb, hc, hl, hla]

theorem Row.opsJ_raw {r : Row} {o : Ops} (hf : r.form = .j) (h : r.shapeOk o = true) : (r.raw o).opsJ = o := by
  simp only [shapeOk, hf, Bool.and_eq_true, decide_eq_true_eq, Bool.not_eq_true', Option.isNone_iff_eq_none] at h
  obtain ⟨⟨⟨⟨⟨⟨ha, hb⟩, hc⟩, hl⟩, hla⟩, he⟩, hq⟩ := h
  change _ = Ops.mk o.a o.b o.c o.l o.la o.exr o.exq o.xi o.lo
  simp [Raw.opsJ, raw, hw_baseWord_j hf, ha, hb, hc, hl, hla, he, hq]

theorem Row.opsOf_raw {r : Row} {o : Ops} (h : r.shapeOk o = true) : (r.raw o).opsOf r.form = o := by
  cases hf : r.form with
  | r => exact opsR_raw hf h
  | i => exact opsI_raw hf h
  | j => exact opsJ_raw hf h

/-! ### The checks of R204 on an encoded instruction -/

/-- An encoding carries none of the prefixes that its form refuses: in form I the payload of EXR leaves the bit of B clear, and form J has
neither EXR nor EXQ (step 6). -/
theorem Row.refused_raw {r : Row} {o : Ops} (h : r.shapeOk o = true) : (r.raw o).refused r.form = false := by
  cases hf : r.form with
  | r => rfl
  | i =>
    simp only [shapeOk, hf, Bool.and_eq_true, decide_eq_true_eq] at h
    obtain ⟨⟨⟨hb, -⟩, -⟩, -⟩ := h
    obtain ⟨-, b5, -⟩ := extractLsb'_exrPayload o
    cases he : o.exr <;> simp [Raw.refused, raw, he, b5, hb]
  | j =>
    simp only [shapeOk, hf, Bool.and_eq_true, Bool.not_eq_true', Option.isNone_iff_eq_none] at h
    obtain ⟨⟨-, he⟩, hq⟩ := h
    simp [Raw.refused, raw, he, hq]

theorem Row.decode_raw {r : Row} {o : Ops} (hr : rowOf r.page r.op r.variant = some r) (hu : r.isUdf = false)
    (ho : r.opsOk o = true) : (r.raw o).decode (fun _ => true) = .ok (r.build o) := by
  obtain ⟨hp, hop⟩ := row_page_lt_and_op_lt r (mem_rows_of_rowOf hr)
  obtain ⟨hs, -, -, -, hreq, hmin, h8, hv⟩ := Row.opsOk_iff.1 ho
  have hpage : ((r.raw o).exp.getD 0).toNat = r.page := by
    by_cases h0 : r.page = 0
    · simp [raw, h0]
    · simp [raw, h0]; omega
  have hbase : (hw (r.raw o).base 11 5).toNat = r.op := by
    simp [raw]; omega
  have hudf : ¬ (r.page = 0 ∧ r.op = 0) := by simpa [isUdf] using hu
  have hrow : rowOf r.page r.op (variantOf r.page r.op (xiNat (r.raw o).xi 0) (r.raw o).xi.length) = some r := by
    rw [← hr, ← hv]; rfl
  have hneed : ((r.exrReq && !o.exr) || decide (o.xi.length < r.xiMin)) = false := by
    simpa [hmin] using hreq
  have hpage8 : ¬ r.page ≥ 8 := by omega
  simp only [Raw.decode, hpage, hbase, hrow, hudf, hpage8, refused_raw hs, opsOf_raw hs, h8, hneed]
  simp

theorem decode_of_decodeWords {feat : Nat → Bool} {ws : List (BitVec 16)} {i : Instr} (h : decodeWords feat ws = .ok i) :
    decode feat ws = some i := by
  simp [decode, h]

/-- A row's instruction is decoded from the words of its encoding. -/
theorem Row.decode_encode {r : Row} {o : Ops} (hr : rowOf r.page r.op r.variant = some r) (hu : r.isUdf = false)
    (ho : r.opsOk o = true) : decode (fun _ => true) (r.encode o) = some (r.build o) := by
  obtain ⟨-, hop⟩ := row_page_lt_and_op_lt r (mem_rows_of_rowOf hr)
  obtain ⟨-, -, hx, hn, -⟩ := Row.opsOk_iff.1 ho
  apply decode_of_decodeWords
  rw [decodeWords, parse_encode hop hx hn]
  exact decode_raw hr hu ho

/-- UDF's canonical term is the all-zero word, whose trap is its meaning (R234). -/
theorem Row.decode_encode_udf {r : Row} (hr : rowOf r.page r.op r.variant = some r) (hu : r.isUdf = true) (ho : r.opsOk {} = true) :
    decode (fun _ => true) (r.encode {}) = some (r.build {}) := by
  obtain ⟨hpage, hop⟩ : r.page = 0 ∧ r.op = 0 := by simpa [isUdf] using hu
  have hv : r.variant = 0 := by
    obtain ⟨-, -, -, -, -, -, -, hv⟩ := Row.opsOk_iff.1 ho
    rw [← hv, hpage, hop]; rfl
  rw [hpage, hop, hv] at hr
  cases hr
  decide

/-- A well-formed instruction is built by the row of its code, which accepts its operands. -/
theorem Instr.row_of_wf {i : Instr} (h : i.wf = true) : ∃ r o, rowOf r.page r.op r.variant = some r ∧ r.opsOk o = true
    ∧ encode i = r.encode o ∧ r.build o = i := by
  unfold wf at h
  split at h
  next p op v o hc ho =>
    obtain ⟨r, hr, hpage, hop, hv, hb⟩ := Laws.Codec.statement i p op v o hc ho
    rw [hr] at h
    exact ⟨r, o, by rw [hpage, hop, hv, hr], h, by simp [encode, hc, ho, hr], hb⟩
  next => cases h

/-- Settles O3: `parse` collects what the encoder wrote, the fields read back are the operands, and the checks that well-formedness
makes are those of the decoder. -/
theorem decodeOfEncodeIsTheInstruction : Obligations.DecodeOfEncodeIsTheInstruction := by
  unfold Obligations.DecodeOfEncodeIsTheInstruction
  intro i hwf
  obtain ⟨r, o, hr, ho, he, hb⟩ := Instr.row_of_wf hwf
  rw [he, ← hb]
  cases hu : r.isUdf with
  | false => exact Row.decode_encode hr hu ho
  | true =>
    obtain ⟨-, h0, -⟩ := Row.opsOk_iff.1 ho
    obtain rfl := h0 hu
    exact Row.decode_encode_udf hr hu ho

/-- Settles O4, by running the decoder. -/
theorem workedEncodingsDecode : Obligations.WorkedEncodingsDecode := by
  unfold Obligations.WorkedEncodingsDecode
  decide

end Sys2Proof
end

section
/-!
SUPPORT. The traps of decoding (`Obligations.RefusedWordsTrap`): what `decodeAt` does with a refusal of R204, and `attempt` with an
odd PC (R190).
-/

namespace Sys2Proof.Machine

section

variable {s : State} {sid ipc : Nat} {ws : List (BitVec 16)}

theorem decodeAt_of_illegal {n : Nat} (hn : n ≠ 1) (h : decodeWords (accepted s (pkgOfC (cidOf sid))) ws = .error (.illegal n)) :
    decodeAt sid ipc ws s = (none, recordTrap sid 1 (firstFour ws) (word n) ipc
      (markTrap sid { s with cur := { sid := sid, ipc := ipc, words := ws } })) := by
  have ha : accepted { s with cur := { sid := sid, ipc := ipc, words := ws } } = accepted s := rfl
  simp [decodeAt, ha, h]

theorem decodeAt_of_queueKind {n : Nat} (h : decodeWords (accepted s (pkgOfC (cidOf sid))) ws = .error (.queueKind n)) :
    decodeAt sid ipc ws s = (none, recordTrap sid 0x0E (word n) 0#64 ipc
      (markTrap sid { s with cur := { sid := sid, ipc := ipc, words := ws } })) := by
  have ha : accepted { s with cur := { sid := sid, ipc := ipc, words := ws } } = accepted s := rfl
  simp [decodeAt, ha, h]

theorem attempt_of_odd (hr : redoNow s sid = none) (hf : (slotAt (redoGone sid s) sid).fwd = [])
    (hpc : (slotAt (redoGone sid s) sid).pc % 2 = 1) :
    attempt sid s = (none, recordTrap sid 5 (word (slotAt (redoGone sid s) sid).pc) 0#64 (slotAt (redoGone sid s) sid).pc
      (redoGone sid s)) := by
  simp [attempt, hr, hf, hpc]

end

theorem exec_udf (o : Ops) (s : State) : exec (.udf o) s = .next (trapsAt s 1 (firstFour s.cur.words) 1#64) :=
  issue_of_trap (cls := .any) (body := illegal 1) rfl rfl

/-- Settles O2: the strand's attempt ends in the decoder's trap, or in that of an odd PC; UDF's body is its trap. -/
theorem refusedWordsTrap : Obligations.RefusedWordsTrap := by
  unfold Obligations.RefusedWordsTrap
  refine ⟨?_, exec_udf⟩
  intro s sid ho hd hc hr u x
  refine ⟨?illegal, ?queueKind, ?odd⟩
  case illegal =>
    intro ws n hf hpc hw hi hn
    rw [step_of_attempt ho hd hc ((attempt_of_fetch hr hf hpc hw).trans (decodeAt_of_illegal hn hi))]
    rfl
  case queueKind =>
    intro ws n hf hpc hw hq
    rw [step_of_attempt ho hd hc ((attempt_of_fetch hr hf hpc hw).trans (decodeAt_of_queueKind hq))]
    rfl
  case odd =>
    intro hf hpc
    rw [step_of_attempt ho hd hc (attempt_of_odd hr hf hpc)]
    rfl

end Sys2Proof.Machine
end

section
/-!
SUPPORT. The state after reset (`Obligations.ResetState`): every table but that of the packages lists nothing.
-/

namespace Sys2Proof.Machine

theorem gGet_reset (sid r : Nat) : gGet State.reset sid r = 0#64 := by
  unfold gGet
  split <;> rfl

/-- Settles O5: an entry that its table does not list has the reset value of its reader. -/
theorem resetState : Obligations.ResetState := by
  unfold Obligations.ResetState
  exact ⟨gGet_reset, fun _ _ => rfl, fun _ => ⟨rfl, rfl, rfl⟩, fun _ => ⟨rfl, rfl, rfl, rfl⟩, fun _ => rfl, reset_memory_wf⟩

end Sys2Proof.Machine
end

section
/-!
SUPPORT. The completion of an instruction (`Obligations.CompletionAdvancesThePc`): the branches of the loop decision (`loopEnd`, R231),
and what of it the strand's slot shows afterwards.
-/

namespace Sys2Proof.Machine

/-! ### Loop counters -/

theorem lcCur_lcMake (i c : Nat) : lcCur (lcMake i c) = c % 2 ^ 32 := by
  simp only [lcCur, lcMake, BitVec.toNat_ofNat]; omega

theorem lcCur_lcMake_zero (i : Nat) : lcCur (lcMake i 0) = 0 := lcCur_lcMake i 0

theorem lcInit_lcMake (i c : Nat) : lcInit (lcMake i c) = i % 2 ^ 32 := by
  simp only [lcInit, lcMake, BitVec.toNat_ofNat]; omega

theorem lcCur_lt (w : Word) : lcCur w < 2 ^ 32 := Nat.mod_lt _ (Nat.two_pow_pos 32)

theorem lcInit_lt (w : Word) : lcInit w < 2 ^ 32 := by
  have hw := w.isLt
  simp only [lcInit]; omega

/-- CUR of a counter that has counted one iteration down (R231). -/
theorem lcCur_lcMake_pred (i : Nat) (w : Word) : lcCur (lcMake i (lcCur w - 1)) = lcCur w - 1 := by
  rw [lcCur_lcMake, Nat.mod_eq_of_lt (Nat.lt_of_le_of_lt (Nat.sub_le _ 1) (lcCur_lt w))]

theorem lcInit_lcMake_self (w : Word) (c : Nat) : lcInit (lcMake (lcInit w) c) = lcInit w := by
  rw [lcInit_lcMake, Nat.mod_eq_of_lt (lcInit_lt w)]

/-- CUR of a counter that starts again at INIT (R231). -/
theorem lcCur_lcMake_init (i : Nat) (w : Word) : lcCur (lcMake i (lcInit w)) = lcInit w := by
  rw [lcCur_lcMake, Nat.mod_eq_of_lt (lcInit_lt w)]

/-! ### The loop decision (R231) -/

/-- The level of this counter and these bounds is active and ends at the address. -/
def levelEnds (c b : Word) (ipc : Nat) : Bool := lcCur c != 0 && lbEnd b == ipc

theorem levelEnds_iff {c b : Word} {ipc : Nat} : levelEnds c b ipc = true ↔ lcCur c ≠ 0 ∧ lbEnd b = ipc := by
  simp [levelEnds]

theorem levelEnds_of_not {c b : Word} {ipc : Nat} (h : ¬ (lcCur c ≠ 0 ∧ lbEnd b = ipc)) : levelEnds c b ipc = false := by
  rw [← levelEnds_iff] at h
  simpa using h

/-- A slot with another loop counter of level 0, and of level 1: the laws below are for any word, since to compare two such slots over the
counters of a loop decision would evaluate `lcMake`. -/
def withLc0 (c : Word) (x : Slot) : Slot := { x with lc0 := c }
def withLc1 (c : Word) (x : Slot) : Slot := { x with lc1 := c }

section
variable (c : Word) (x : Slot)

@[simp] theorem withLc0_lc1 : (withLc0 c x).lc1 = x.lc1 := rfl
@[simp] theorem withLc0_lb1 : (withLc0 c x).lb1 = x.lb1 := rfl
@[simp] theorem withLc1_lc0 : (withLc1 c x).lc0 = x.lc0 := rfl

end

/-- An iteration of the outer level ends: it goes on at its start, or both levels become inactive. -/
def outerEnd (x : Slot) (next : Nat) : Slot × Nat :=
  let y := withLc1 (lcMake (lcInit x.lc1) (lcCur x.lc1 - 1)) x
  if lcCur x.lc1 - 1 != 0 then (y, lbStart x.lb1) else (withLc0 0#64 y, next)

theorem outerEnd_of_last {x : Slot} (next : Nat) (h : lcCur x.lc1 = 1) :
    outerEnd x next = (withLc0 0#64 (withLc1 (lcMake (lcInit x.lc1) 0) x), next) := by
  simp [outerEnd, h]

theorem outerEnd_of_more {x : Slot} (next : Nat) (h0 : lcCur x.lc1 ≠ 0) (h : lcCur x.lc1 ≠ 1) :
    outerEnd x next = (withLc1 (lcMake (lcInit x.lc1) (lcCur x.lc1 - 1)) x, lbStart x.lb1) := by
  have hc : lcCur x.lc1 - 1 ≠ 0 := by omega
  simp [outerEnd, hc]

/-- The same where the inner level has just changed. -/
theorem outerEnd_withLc0_of_last (c : Word) {x : Slot} (next : Nat) (h : lcCur x.lc1 = 1) :
    outerEnd (withLc0 c x) next = (withLc0 0#64 (withLc1 (lcMake (lcInit x.lc1) 0) x), next) := outerEnd_of_last next h

theorem outerEnd_withLc0_of_more (c : Word) {x : Slot} (next : Nat) (h0 : lcCur x.lc1 ≠ 0) (h : lcCur x.lc1 ≠ 1) :
    outerEnd (withLc0 c x) next = (withLc1 (lcMake (lcInit x.lc1) (lcCur x.lc1 - 1)) (withLc0 c x), lbStart x.lb1) :=
  outerEnd_of_more next h0 h

/-- The loop decision by the levels that end at the instruction. -/
theorem loopEnd_eq (x : Slot) (ipc next : Nat) : loopEnd x ipc next =
    if levelEnds x.lc0 x.lb0 ipc then
      let c := lcMake (lcInit x.lc0) (lcCur x.lc0 - 1)
      if lcCur x.lc0 - 1 != 0 then (withLc0 c x, lbStart x.lb0)
      else if levelEnds x.lc1 x.lb1 ipc then outerEnd (withLc0 (lcMake (lcInit c) (lcInit c)) x) next
      else (withLc0 c x, next)
    else if levelEnds x.lc1 x.lb1 ipc then outerEnd x next
    else (x, next) := rfl

section
variable {x : Slot} {ipc : Nat} (next : Nat)

theorem loopEnd_of_none (h0 : levelEnds x.lc0 x.lb0 ipc = false) (h1 : levelEnds x.lc1 x.lb1 ipc = false) :
    loopEnd x ipc next = (x, next) := by
  simp [loopEnd_eq, h0, h1]

theorem loopEnd_of_outer (h0 : levelEnds x.lc0 x.lb0 ipc = false) (h1 : levelEnds x.lc1 x.lb1 ipc = true) :
    loopEnd x ipc next = outerEnd x next := by
  simp [loopEnd_eq, h0, h1]

theorem loopEnd_of_inner (h0 : levelEnds x.lc0 x.lb0 ipc = true) (hn : lcCur x.lc0 ≠ 1) :
    loopEnd x ipc next = (withLc0 (lcMake (lcInit x.lc0) (lcCur x.lc0 - 1)) x, lbStart x.lb0) := by
  have hc : lcCur x.lc0 - 1 ≠ 0 := by have := (levelEnds_iff.1 h0).1; omega
  simp [loopEnd_eq, h0, hc]

theorem loopEnd_of_inner_last (h0 : levelEnds x.lc0 x.lb0 ipc = true) (hn : lcCur x.lc0 = 1)
    (h1 : levelEnds x.lc1 x.lb1 ipc = false) : loopEnd x ipc next = (withLc0 (lcMake (lcInit x.lc0) 0) x, next) := by
  simp [loopEnd_eq, h0, h1, hn]

/-- Both levels end here: the inner one starts again at its INIT, and the outer one decides (R231). -/
theorem loopEnd_of_both (h0 : levelEnds x.lc0 x.lb0 ipc = true) (hn : lcCur x.lc0 = 1) (h1 : levelEnds x.lc1 x.lb1 ipc = true) :
    loopEnd x ipc next = outerEnd (withLc0 (lcMake (lcInit x.lc0) (lcInit x.lc0)) x) next := by
  simp [loopEnd_eq, h0, h1, hn, lcInit_lcMake_self]

end

/-! ### The strand's slot after the completion -/

theorem advance_of_transfer {s : State} {t : Nat} (x : Slot) (h : s.cur.xfer = some t) : advance s x = (x, t % 2 ^ 56) := by
  simp [advance, h, vaTop]

theorem advance_of_next {s : State} (x : Slot) (h : s.cur.xfer = none) :
    advance s x = loopEnd x s.cur.ipc ((s.cur.ipc + 2 * s.cur.words.length) % 2 ^ 56) := by
  simp [advance, h, vaTop]

/-- What the completion leaves in the strand's slot: the state, the time and the address at which it goes on, and the loop counters. -/
theorem slotAt_completeIssue (s : State) :
    let y := slotAt (completeIssue s) s.cur.sid
    let p := advance s (slotAt s s.cur.sid)
    y.st = (if s.cur.idle = true then .waiting else .ready) ∧ y.readyAt = s.now + s.cur.cost
    ∧ y.pc = p.2 ∧ y.lc0 = p.1.lc0 ∧ y.lc1 = p.1.lc1 := by
  have h := (completeIssue_endKeeps s).2.1 s.cur.sid
  rw [slotAt_putSlot_self] at h
  dsimp only
  rw [h]
  exact ⟨rfl, rfl, rfl, rfl, rfl⟩

/-- Settles O13: the slot takes what `advance` answers, the transfer's target or a branch of the loop decision. -/
theorem completionAdvancesThePc : Obligations.CompletionAdvancesThePc := by
  unfold Obligations.CompletionAdvancesThePc
  intro s x y next e0 e1
  obtain ⟨hst, hat, hpc, h0, h1⟩ : y.st = (if s.cur.idle = true then .waiting else .ready) ∧ y.readyAt = s.now + s.cur.cost
    ∧ y.pc = (advance s x).2 ∧ y.lc0 = (advance s x).1.lc0 ∧ y.lc1 = (advance s x).1.lc1 := slotAt_completeIssue s
  clear_value x y
  refine ⟨hst, hat, ?transfer, ?noLevel, ?inner, ?innerLast, ?bothMore, ?bothLast, ?outerMore, ?outerLast⟩ <;>
    simp only [hpc, h0, h1]
  case transfer =>
    intro t ht
    rw [advance_of_transfer _ ht]
    exact ⟨rfl, rfl, rfl⟩
  case noLevel =>
    intro hx n0 n1
    rw [advance_of_next _ hx, loopEnd_of_none _ (levelEnds_of_not n0) (levelEnds_of_not n1)]
    exact ⟨rfl, rfl, rfl⟩
  case inner =>
    intro hx p0 hn
    rw [advance_of_next _ hx, loopEnd_of_inner _ (levelEnds_iff.2 p0) hn]
    exact ⟨rfl, lcCur_lcMake_pred _ _, lcInit_lcMake_self _ _, withLc0_lc1 _ _⟩
  case innerLast =>
    intro hx p0 hn n1
    rw [advance_of_next _ hx, loopEnd_of_inner_last _ (levelEnds_iff.2 p0) hn (levelEnds_of_not n1)]
    exact ⟨rfl, lcCur_lcMake_zero _, withLc0_lc1 _ _⟩
  case bothMore =>
    intro hx p0 hn p1 hm
    rw [advance_of_next _ hx, loopEnd_of_both _ (levelEnds_iff.2 p0) hn (levelEnds_iff.2 p1),
      outerEnd_withLc0_of_more _ _ p1.1 hm]
    exact ⟨rfl, lcCur_lcMake_init _ _, lcCur_lcMake_pred _ _⟩
  case bothLast =>
    intro hx p0 hn p1 hm
    rw [advance_of_next _ hx, loopEnd_of_both _ (levelEnds_iff.2 p0) hn (levelEnds_iff.2 p1),
      outerEnd_withLc0_of_last _ _ hm]
    exact ⟨rfl, rfl, lcCur_lcMake_zero _⟩
  case outerMore =>
    intro hx n0 p1 hm
    rw [advance_of_next _ hx, loopEnd_of_outer _ (levelEnds_of_not n0) (levelEnds_iff.2 p1), outerEnd_of_more _ p1.1 hm]
    exact ⟨rfl, withLc1_lc0 _ _, lcCur_lcMake_pred _ _⟩
  case outerLast =>
    intro hx n0 p1 hm
    rw [advance_of_next _ hx, loopEnd_of_outer _ (levelEnds_of_not n0) (levelEnds_iff.2 p1), outerEnd_of_last _ hm]
    exact ⟨rfl, rfl, lcCur_lcMake_zero _⟩

end Sys2Proof.Machine
end

section
/-!
SUPPORT. The instructions with two sources (`Obligations.TwoSourceInstructionsWriteTheirResult`, `Obligations.DivisionResults`): each is
`alu2` of its result, and each result of `Machine/Flags` is what the table says.
-/

namespace Sys2Proof.Machine

/-! ### Comparisons as results (R216) -/

theorem sltW_eq : sltW = fun a b => if a.toInt < b.toInt then 1#64 else 0#64 := by
  funext a b; simp [sltW, ofBool, BitVec.slt]

theorem sltuW_eq : sltuW = fun a b => if a.toNat < b.toNat then 1#64 else 0#64 := by
  funext a b; simp [sltuW, ofBool, BitVec.ult]

theorem seqW_eq : seqW = fun a b => if a = b then 1#64 else 0#64 := by
  funext a b; simp [seqW, ofBool]

theorem minS_eq : minS = fun a b => if a.toInt ≤ b.toInt then a else b := by
  funext a b; simp [minS, BitVec.sle]

theorem maxS_eq : maxS = fun a b => if a.toInt ≥ b.toInt then a else b := by
  funext a b; simp [maxS, BitVec.sle]

theorem minU_eq : minU = fun a b => if a.toNat ≤ b.toNat then a else b := by
  funext a b; simp [minU, BitVec.ule]

theorem maxU_eq : maxU = fun a b => if a.toNat ≥ b.toNat then a else b := by
  funext a b; simp [maxU, BitVec.ule]

theorem mul_eq_word (a b : Word) : a * b = word (a.toNat * b.toNat) := by
  rw [word, BitVec.ofNat_mul]; simp

/-- Two forms of one result give one instruction. -/
theorem alu2_congr {f g : Word → Word → Word} (h : f = g) (lat : Word → Word → Nat) (o : Ops) (s : State) :
    alu2 f lat o s = alu2 g lat o s := by rw [h]

theorem twoSourceTable_alu2 : ∀ row ∈ twoSourceTable, ∀ o s, exec (row.1 o) s = alu2 row.2.1 row.2.2 o s := by
  simp only [twoSourceTable, List.forall_mem_cons, List.not_mem_nil, false_implies, implies_true, and_true]
  refine ⟨?_, ?_, ?_, ?_, ?_, ?_, ?_, ?_, ?mul, ?slt, ?sltu, ?seq, ?_, ?_, ?min, ?max, ?minu, ?maxu, ?_, ?_⟩
  case mul => exact alu2_congr (funext fun a => funext fun b => mul_eq_word a b) _
  case slt => exact alu2_congr sltW_eq _
  case sltu => exact alu2_congr sltuW_eq _
  case seq => exact alu2_congr seqW_eq _
  case min => exact alu2_congr minS_eq _
  case max => exact alu2_congr maxS_eq _
  case minu => exact alu2_congr minU_eq _
  case maxu => exact alu2_congr maxU_eq _
  all_goals exact fun _ _ => rfl

/-- Settles O15: each row is `alu2` of its result and latency. -/
theorem twoSourceInstructionsWriteTheirResult : Obligations.TwoSourceInstructionsWriteTheirResult := by
  unfold Obligations.TwoSourceInstructionsWriteTheirResult
  intro row hrow o s a b t h hd
  rw [twoSourceTable_alu2 row hrow, alu2_of_reads _ _ h hd]

/-! ### Division (R217) -/

theorem divideS_zero (a : Word) : divideS a 0#64 = (BitVec.allOnes 64, a) := rfl

theorem divideU_zero (a : Word) : divideU a 0#64 = (BitVec.allOnes 64, a) := rfl

theorem divideS_overflow : divideS 0x8000000000000000#64 (BitVec.allOnes 64) = (0x8000000000000000#64, 0#64) := by decide

theorem divideS_of_ne {a b : Word} (hb : b ≠ 0#64) (h : ¬ (a = 0x8000000000000000#64 ∧ b = BitVec.allOnes 64)) :
    divideS a b = (BitVec.ofInt 64 (a.toInt.tdiv b.toInt), a - BitVec.ofInt 64 (a.toInt.tdiv b.toInt) * b) := by
  rw [divideS, if_neg hb]
  exact if_neg h

theorem divideU_of_ne {a b : Word} (hb : b ≠ 0#64) :
    divideU a b = (word (a.toNat / b.toNat), a - word (a.toNat / b.toNat) * b) := if_neg hb

theorem divLatency_zero (signed : Bool) (a : Word) : divLatency signed a 0#64 = 18 := rfl

/-- The longest signed division: the quotient's magnitude is 2^63. -/
theorem divLatency_overflow : divLatency true 0x8000000000000000#64 (BitVec.allOnes 64) = 34 := by decide

section
variable {o : Ops} {s t : State} {a b : Word} (h : readsAB .b o s a b t) (hd : dstFree o t)
include h hd

theorem exec_div : exec (.div_ o) s = .next (withResult o (divLatency true a b) (divideS a b).1 t) := alu2_of_reads _ _ h hd
theorem exec_rem : exec (.rem_ o) s = .next (withResult o (divLatency true a b) (divideS a b).2 t) := alu2_of_reads _ _ h hd
theorem exec_divu : exec (.divu o) s = .next (withResult o (divLatency false a b) (divideU a b).1 t) := alu2_of_reads _ _ h hd
theorem exec_remu : exec (.remu o) s = .next (withResult o (divLatency false a b) (divideU a b).2 t) := alu2_of_reads _ _ h hd

end

/-- Settles O16: each clause is a branch of `divideS` and `divideU`, at the latency of R215. -/
theorem divisionResults : Obligations.DivisionResults := by
  unfold Obligations.DivisionResults
  intro o s a b t h hd lat
  rw [exec_div h hd, exec_rem h hd, exec_divu h hd, exec_remu h hd]
  refine ⟨?zero, ?unsigned, ?overflow, ?signed⟩
  case zero =>
    rintro rfl
    simp only [divideS_zero, divideU_zero, divLatency_zero, and_self]
  case unsigned =>
    intro hb
    rw [divideU_of_ne hb]
    exact ⟨rfl, rfl⟩
  case overflow =>
    rintro rfl rfl
    simp only [divideS_overflow, divLatency_overflow, and_self]
  case signed =>
    intro hb hn
    rw [divideS_of_ne hb hn]
    exact ⟨rfl, rfl⟩

end Sys2Proof.Machine
end

section
/-!
SUPPORT. The instructions with one source, and those with an immediate that they check (`Obligations.OneSourceAndFieldResults`): counts and
fields of bits, then how such a body ends.
-/

namespace Sys2Proof.Machine

/-! ### Counts of bits (R218) -/

theorem clzW_eq (b : Word) : clzW b = if b = 0#64 then 64#64 else word (63 - b.toNat.log2) := by
  by_cases hb : b = 0#64
  · subst hb; rfl
  · have hn : b.toNat ≠ 0 := fun h => hb (BitVec.eq_of_toNat_eq h)
    rw [clzW, sigBits, if_neg hn, if_neg hb, show 64 - (b.toNat.log2 + 1) = 63 - b.toNat.log2 by omega]

theorem popNat_eq (x n : Nat) : popNat x n = ((List.range n).filter fun i => x.testBit i).length := by
  induction n with
  | zero => rfl
  | succ n ih =>
    rw [popNat, ih, List.range_succ, List.filter_append, List.length_append]
    cases h : x.testBit n <;> simp [h]

/-! ### Fields of bits (R219) -/

theorem testBit_nfield (n lo : Nat) {w i : Nat} (h : i < w) : (nfield n lo w).testBit i = n.testBit (lo + i) := by
  simp [nfield, Nat.testBit_mod_two_pow, h]

theorem bfxW_eq (b : Word) (p : Nat) {w : Nat} (sign : Bool) (hw : 0 < w) :
    bfxW b p w sign = if sign = true ∧ b.toNat.testBit (p + w - 1) = true
      then BitVec.ofInt 64 ((wfield b p w : Int) - 2 ^ w) else word (wfield b p w) := by
  have ht : (wfield b p w).testBit (w - 1) = b.toNat.testBit (p + w - 1) := by
    rw [wfield, testBit_nfield _ _ (by omega), Nat.add_sub_assoc hw]
  simp only [bfxW, ht, Bool.and_eq_true]

/-- A number with one field replaced, as its upper part, the new field and its lower part. -/
theorem replace_field_eq (a c p w : Nat) :
    a - nfield a p w * 2 ^ p + c * 2 ^ p = 2 ^ p * (2 ^ w * (a / 2 ^ p / 2 ^ w) + c) + a % 2 ^ p := by
  have hparts : 2 ^ p * (2 ^ w * (a / 2 ^ p / 2 ^ w)) + a % 2 ^ p + nfield a p w * 2 ^ p = a := by
    calc 2 ^ p * (2 ^ w * (a / 2 ^ p / 2 ^ w)) + a % 2 ^ p + nfield a p w * 2 ^ p
        = 2 ^ p * (2 ^ w * (a / 2 ^ p / 2 ^ w) + a / 2 ^ p % 2 ^ w) + a % 2 ^ p := by
          rw [nfield, Nat.shiftRight_eq_div_pow]; ring
      _ = a := by rw [Nat.div_add_mod, Nat.div_add_mod]
  rw [show a - nfield a p w * 2 ^ p = 2 ^ p * (2 ^ w * (a / 2 ^ p / 2 ^ w)) + a % 2 ^ p from Nat.sub_eq_of_eq_add hparts.symm]
  ring

theorem testBit_replace_field {a c p w : Nat} (hc : c < 2 ^ w) (i : Nat) :
    (a - nfield a p w * 2 ^ p + c * 2 ^ p).testBit i = if p ≤ i ∧ i < p + w then c.testBit (i - p) else a.testBit i := by
  rw [replace_field_eq, Nat.testBit_two_pow_mul_add _ (Nat.mod_lt _ (Nat.two_pow_pos p)), Nat.testBit_two_pow_mul_add _ hc]
  rcases Nat.lt_or_ge i p with hlow | hlow
  · simp [hlow, Nat.not_le.2 hlow, Nat.testBit_mod_two_pow]
  · rcases Nat.lt_or_ge i (p + w) with hin | hhigh
    · simp [Nat.not_lt.2 hlow, hlow, hin, show i - p < w by omega]
    · simp [Nat.not_lt.2 hlow, Nat.not_lt.2 hhigh, show ¬ i - p < w by omega, Nat.testBit_div_two_pow,
        show i - p - w + w + p = i by omega, hlow]

theorem getLsbD_bfiW (a b : Word) (p w : Nat) {i : Nat} (hi : i < 64) :
    (bfiW a b p w).getLsbD i = if p ≤ i ∧ i < p + w then b.getLsbD (i - p) else a.getLsbD i := by
  have hb : p ≤ i ∧ i < p + w → (b.toNat % 2 ^ w).testBit (i - p) = b.toNat.testBit (i - p) := fun h => by
    rw [Nat.testBit_mod_two_pow, decide_eq_true (by omega), Bool.true_and]
  rw [bfiW, BitVec.getLsbD_ofNat, testBit_replace_field (Nat.mod_lt _ (Nat.two_pow_pos w)), decide_eq_true hi, Bool.true_and]
  split
  next h => rw [hb h]; rfl
  next => rfl

/-! ### How the bodies end -/

theorem need9_of_true {c : Bool} (h : c = true) (s : State) : need9 c s = .ok ((), s) := by rw [h]; rfl

theorem need9_of_false {c : Bool} (h : c = false) (s : State) : need9 c s = .error (.trap 1 (firstFour s.cur.words) 9#64) := by
  rw [h]; rfl

theorem alu1_of_reads {pre : M Unit} {o : Ops} {s t : State} {b : Word} (f : Word → Word) (lat : Nat)
    (hp : pre (atIssue s) = .ok ((), atIssue s)) (h : readsB .b o s b t) (hd : dstFree o t) :
    alu1 pre f lat o s = .next (withResult o lat (f b) t) := by
  have hk := readsB_readKeeps h
  obtain ⟨hc, hb⟩ := h
  rw [dstFree] at hd
  exact issue_of_result hc hk (by simp [bind_apply, hp, hb, hd, lastUse, writeResult])

/-- An instruction whose immediate fails its check has read nothing (R204). -/
theorem issue_of_need9 {c : Bool} (h : c = false) (s : State) (rest : Unit → M Unit) :
    issue .b s (need9 c >>= rest) = .next (trapsAt s 1 (firstFour s.cur.words) 9#64) :=
  issue_of_trap (cls := .b) rfl (by rw [bind_apply, need9_of_false h]; rfl)

section
variable {o : Ops} {s t : State} {a b : Word} (h : readsAB .b o s a b t) (hd : dstFree o t)
include h hd

theorem exec_bfi_of_ok (hb : bfOk o false = true) :
    exec (.bfi o) s = .next (withResult o 1 (bfiW a b ((bitsR o).1 % 64) (nfield (bitsR o).1 6 6 + 1)) t) := by
  have hk := readsAB_readKeeps h
  obtain ⟨hc, u, hra, hrb⟩ := h
  rw [dstFree] at hd
  exact issue_of_result hc hk (by simp [bind_apply, need9_of_true hb, hra, hrb, hd, lastUse, writeResult])

theorem exec_fcmp_of_ok (hx : o.xi.length = 1) (hn : (bitsR o).1 < 5) :
    exec (.fcmp o) s = .next (withResult o 2 (ofBool (fcmp (bitsR o).1 (lo32 a) (lo32 b))) t) := by
  have hk := readsAB_readKeeps h
  have hok : (decide (o.xi.length = 1) && decide ((bitsR o).1 < 5)) = true := by simp [hx, hn]
  obtain ⟨hc, u, hra, hrb⟩ := h
  rw [dstFree] at hd
  exact issue_of_result hc hk (by simp only [bind_apply, need9_of_true hok, hra, hrb, hd, lastUse, writeResult, updM_apply])

end

/-- FFMA reads C before it writes it (R221), so no other wait of a destination is needed. -/
theorem exec_ffma {o : Ops} {s t t' : State} {a b c : Word} (h : readsAB .b o s a b t) (hc : srcC o t = .ok (c, t')) :
    exec (.ffma o) s = .next (withResult o 4 (ofLane (Num.ffma (lo32 a) (lo32 b) (lo32 c))) t') := by
  have hk := readKeeps_trans (readsAB_readKeeps h) (src_readsOnly _ _ _ _ _ _ hc)
  obtain ⟨hcls, u, hra, hrb⟩ := h
  exact issue_of_result hcls hk (by simp [bind_apply, hra, hrb, hc, lastUse, writeResult])

/-- The immediate of an FCVT with a code of R223. -/
theorem fcvt_fields {n : Nat} (hn : n < 64) (hc : n / 4 < 13) : n / 64 = 0 ∧ n / 4 % 16 = n / 4 ∧ n / 4 % 16 < 13 := by omega

theorem exec_fcvt_of_ok {o : Ops} {s t : State} {b : Word} (h : readsB .b o s b t) (hd : dstFree o t) (hx : o.xi.length = 1)
    (hn : (bitsR o).1 < 64) (hc : (bitsR o).1 / 4 < 13) :
    exec (.fcvt o) s = .next (withResult o 3 ((Num.fcvt ((bitsR o).1 / 4) (Num.rmOf (bitsR o).1) b).getD 0#64) t) := by
  obtain ⟨h64, hcode, h13⟩ := fcvt_fields hn hc
  have hok : (decide (o.xi.length = 1) && decide ((bitsR o).1 / 64 = 0) && decide ((bitsR o).1 / 4 % 16 < 13)) = true := by
    simp [hx, h64, h13]
  refine (alu1_of_reads _ 3 (need9_of_true hok _) h hd).trans ?_
  rw [hcode]

/-- Settles O17: a result is that of the body's function, and a refused immediate is the body's first step. -/
theorem oneSourceAndFieldResults : Obligations.OneSourceAndFieldResults := by
  unfold Obligations.OneSourceAndFieldResults
  refine ⟨fun o s b t h hd => ⟨alu1_of_reads _ 1 rfl h hd, ?clz, ?popc, ?bfx, exec_fcvt_of_ok h hd⟩,
    fun o s a b t h hd => ⟨?bfi, exec_fcmp_of_ok h hd⟩, fun o s a b c t t' => exec_ffma,
    fun o s => ⟨fun h => issue_of_need9 h s _, fun h => issue_of_need9 h s _, ?fcmp⟩⟩
  case clz =>
    rw [← clzW_eq]
    exact alu1_of_reads _ 1 rfl h hd
  case popc =>
    rw [← popNat_eq]
    exact alu1_of_reads _ 1 rfl h hd
  case bfx =>
    rintro hok p w rfl rfl
    rw [← bfxW_eq b _ _ (Nat.succ_pos _)]
    exact alu1_of_reads _ 1 (need9_of_true hok _) h hd
  case bfi =>
    rintro hok p w rfl rfl
    exact ⟨_, exec_bfi_of_ok h hd hok, fun i hi => getLsbD_bfiW a b _ _ hi⟩
  case fcmp =>
    intro hbad
    refine issue_of_need9 ?_ s _
    simpa [imp_iff_not_or] using hbad

end Sys2Proof.Machine
end

section
/-!
SUPPORT. The immediate forms (`Obligations.ImmediateFormsWriteTheirResult`): the range of an immediate with its EXI words (R196), and each
form's result as one of that integer.
-/

namespace Sys2Proof.Machine

/-! ### The range of an immediate (R196) -/

theorem exiNat_lt (xs : List (BitVec 9)) (n : Nat) : exiNat xs n < (n + 1) * 512 ^ xs.length := by
  induction xs generalizing n with
  | nil => simp [exiNat]
  | cons x xs ih =>
    have hx := x.isLt
    calc exiNat xs (n * 512 + x.toNat) < (n * 512 + x.toNat + 1) * 512 ^ xs.length := ih _
      _ ≤ ((n + 1) * 512) * 512 ^ xs.length := Nat.mul_le_mul_right _ (by omega)
      _ = (n + 1) * 512 ^ (x :: xs).length := by rw [List.length_cons, pow_succ]; ring

theorem bitsI_lt (o : Ops) : (bitsI o).1 < 2 ^ (bitsI o).2 := by
  have hx := exiNat_lt o.xi 0
  have hl : o.lo.toNat % 64 < 64 := Nat.mod_lt _ (by omega)
  simp only [bitsI]
  rw [pow_add, pow_mul, show 2 ^ 9 = 512 from rfl]
  omega

theorem signExt_range {p : Nat × Nat} (h : p.1 < 2 ^ p.2) : -(2 ^ p.2 : Int) ≤ signExt p ∧ signExt p < 2 ^ p.2 := by
  have h' : (p.1 : Int) < 2 ^ p.2 := by exact_mod_cast h
  unfold signExt
  split_ifs <;> constructor <;> omega

/-- An immediate of form I with at most three EXI words is a signed 64-bit number. -/
theorem immI_range {o : Ops} (h : o.xi.length ≤ 3) : -(2 ^ 63 : Int) ≤ immI o ∧ immI o < 2 ^ 63 := by
  have hr := signExt_range (bitsI_lt o)
  have hp : (2 ^ (bitsI o).2 : Int) ≤ 2 ^ 63 := pow_le_pow_right₀ (by norm_num) (by simp only [bitsI]; omega)
  unfold immI
  omega

/-! ### Results of a word and an immediate (R220) -/

theorem toInt_wordI {i : Int} (h : -(2 ^ 63 : Int) ≤ i ∧ i < 2 ^ 63) : (wordI i).toInt = i := by
  rw [wordI, BitVec.toInt_ofInt, Int.bmod_eq_of_le] <;> omega

theorem toNat_wordI_mod (i : Int) {k : Nat} (hk : k ≤ 64) : (wordI i).toNat % 2 ^ k = (i % 2 ^ k).toNat := by
  have hd : ((2 ^ k : Nat) : Int) ∣ ((2 ^ 64 : Nat) : Int) := by exact_mod_cast Nat.pow_dvd_pow 2 hk
  have h0 : (0 : Int) ≤ i % (2 ^ 64 : Nat) := Int.emod_nonneg _ (by norm_num)
  rw [wordI, BitVec.toNat_ofInt]
  apply Int.ofNat.inj
  simp only [Int.ofNat_eq_natCast]
  rw [Int.natCast_mod, Int.toNat_of_nonneg h0, Int.emod_emod_of_dvd _ hd, Int.toNat_of_nonneg (Int.emod_nonneg _ (by positivity))]
  norm_cast

theorem add_wordI (a : Word) (i : Int) : a + wordI i = BitVec.ofInt 64 (a.toInt + i) := by
  rw [BitVec.ofInt_add, BitVec.ofInt_toInt, wordI]

/-- LIH puts the immediate's low half above that of a. -/
theorem lih_eq (a : Word) (i : Int) :
    ((wordI i).truncate 32 ++ a.truncate 32 : BitVec 64) = word ((i % 2 ^ 32).toNat * 2 ^ 32 + a.toNat % 2 ^ 32) := by
  have hi : ((wordI i).truncate 32).toNat = (i % 2 ^ 32).toNat := by
    rw [BitVec.truncate_eq_setWidth, BitVec.toNat_setWidth, toNat_wordI_mod i (by omega)]
  have ha : (a.truncate 32).toNat < 2 ^ 32 := (a.truncate 32).isLt
  have hlt : (i % 2 ^ 32).toNat * 2 ^ 32 + a.toNat % 2 ^ 32 < 2 ^ 64 := by omega
  apply BitVec.eq_of_toNat_eq
  rw [BitVec.toNat_append, ← Nat.shiftLeft_add_eq_or_of_lt ha, hi, Nat.shiftLeft_eq, BitVec.truncate_eq_setWidth,
    BitVec.toNat_setWidth, BitVec.toNat_ofNat, Nat.mod_eq_of_lt hlt]

theorem aluI_of_reads {o : Ops} {s t : State} {a : Word} (f : Word → Word → Word) (h : readsA .b o s a t) (hd : dstFree o t) :
    aluI f o s = .next (withResult o 1 (f a (wordI (immI o))) t) := by
  obtain ⟨hc, ha⟩ := h
  rw [dstFree] at hd
  exact issue_of_result hc (src_readsOnly _ _ _ _ _ _ ha) (by simp [bind_apply, ha, hd, lastUse, writeResult])

/-- Every immediate form is `aluI` of a function that answers the row's result. -/
theorem immediateTable_aluI : ∀ row ∈ immediateTable, ∃ f, (∀ o s, exec (row.1 o) s = aluI f o s)
    ∧ ∀ a i, (-(2 ^ 63 : Int) ≤ i ∧ i < 2 ^ 63) → f a (wordI i) = row.2 a i := by
  have hsh (i : Int) : (wordI i).toNat % 64 = (i % 64).toNat := toNat_wordI_mod i (k := 6) (by omega)
  simp only [immediateTable, List.forall_mem_cons, List.not_mem_nil, false_implies, implies_true, and_true]
  refine ⟨⟨_, fun _ _ => rfl, ?addi⟩, ⟨_, fun _ _ => rfl, ?andi⟩, ⟨_, fun _ _ => rfl, ?ori⟩, ⟨_, fun _ _ => rfl, ?xori⟩,
    ⟨fun a i => a <<< (i.toNat % 64), fun _ _ => rfl, ?shli⟩, ⟨fun a i => a >>> (i.toNat % 64), fun _ _ => rfl, ?shri⟩,
    ⟨fun a i => a.sshiftRight (i.toNat % 64), fun _ _ => rfl, ?srai⟩,
    ⟨fun a i => i.truncate 32 ++ a.truncate 32, fun _ _ => rfl, ?lih⟩, ⟨_, fun _ _ => rfl, ?slti⟩⟩
  case addi => exact fun a i _ => add_wordI a i
  case andi | ori | xori => exact fun _ _ _ => rfl
  case shli | shri | srai => exact fun a i _ => by simp only [hsh]
  case lih => exact fun a i _ => lih_eq a i
  case slti => exact fun a i hi => by simp only [sltW_eq, toInt_wordI hi]

theorem exec_li {o : Ops} {s : State} (he : o.exr = false ∨ o.a = 0) (hd : dstFree o (atIssue s)) :
    exec (.li o) s = .next (completeIssue (deliver (dstRid o) 1 (BitVec.ofInt 64 (immI o)) (atIssue s))) := by
  have hok : (!(o.exr && o.a != 0)) = true := by rcases he with he | he <;> simp [he]
  rw [dstFree] at hd
  refine issue_of_ok (cls := .b) rfl ?_ ?_
  · simp only [bind_apply, need9_of_true hok, hd, writeResult, updM_apply, wordI]
  · rw [deliver_cur]; rfl

/-- Settles O18: each row is `aluI` of its result, and LI reads nothing. -/
theorem immediateFormsWriteTheirResult : Obligations.ImmediateFormsWriteTheirResult := by
  unfold Obligations.ImmediateFormsWriteTheirResult
  refine ⟨fun row hrow o s a t hx h hd => ?_, fun o s => exec_li⟩
  obtain ⟨f, hexec, hf⟩ := immediateTable_aluI row hrow
  rw [hexec, aluI_of_reads f h hd, hf a _ (immI_range hx)]

end Sys2Proof.Machine
end

section
/-!
SUPPORT. Branches and jumps (`Obligations.BranchesAndJumps`): the condition of each row, and the ways that JAL and JALR end.
-/

namespace Sys2Proof.Machine

/-- Every conditional branch is `branch` of the row's condition (R224). -/
theorem branchTable_cond : ∀ row ∈ branchTable, ∃ cond, (∀ o s, exec (row.1 o) s = branch cond o s)
    ∧ ∀ a b, cond a b = true ↔ row.2 a b := by
  simp only [branchTable, List.forall_mem_cons, List.not_mem_nil, false_implies, implies_true, and_true]
  refine ⟨⟨_, fun _ _ => rfl, ?beq⟩, ⟨_, fun _ _ => rfl, ?bne⟩, ⟨_, fun _ _ => rfl, ?blt⟩, ⟨_, fun _ _ => rfl, ?bge⟩,
    ⟨_, fun _ _ => rfl, ?bltu⟩, ⟨_, fun _ _ => rfl, ?bgeu⟩⟩
  case beq => exact fun a b => beq_iff_eq
  case bne => exact fun a b => bne_iff_ne
  case blt => exact fun a b => BitVec.slt_iff_toInt_lt
  case bge => exact fun a b => BitVec.sle_iff_toInt_le
  case bltu => exact fun a b => by simp [BitVec.ult]
  case bgeu => exact fun a b => by simp [BitVec.ule]

theorem vaTop_cast : ((vaTop : Nat) : Int) = 2 ^ 56 := by norm_num [vaTop]

theorem linkOf_eq (s : State) : linkOf s = word ((s.cur.ipc + 2 * s.cur.words.length) % 2 ^ 56) := by
  rw [linkOf, vaTop]

theorem exec_jmp (o : Ops) (s : State) :
    exec (.jmp o) s = .next (completeIssue (transfer (relTarget s (immJ o)) 2 (atIssue s))) :=
  issue_of_ok (cls := .b) (s := s) (body := setPc (relTarget s (immJ o)) 2) rfl rfl rfl

/-- JAL writes g1, which must be free and in the physical file (R225, R213, R39). -/
theorem exec_jal (o : Ops) {s : State} (hb : 1 ∉ (slotAt s s.cur.sid).busy)
    (hp : tget s.place (s.cur.sid * 128 + 1) .phys = .phys) :
    exec (.jal o) s = .next (completeIssue (transfer (relTarget s (immJ o)) 2 (deliver 1 1 (linkOf s) (atIssue s)))) := by
  have hd : dstReady 1 1 (atIssue s) = .ok ((), atIssue s) := by
    simp [dstReady, bind_apply, regOf, hb, fileKey, hp]
  refine issue_of_ok (cls := .b) rfl ?_ ?_
  · simp only [bind_apply, hd, writeResult, updM_apply, setPc_apply]
  · simp [transfer, deliver_cur, atIssue]

section
variable {o : Ops} {s t : State} {b : Word} {tgt : Nat} (h : readsB .b o s b t) (hd : dstFree o t)
  (ht : ((((wfield b 0 56 : Nat) : Int) + 2 * immR o) % 2 ^ 56).toNat = tgt)
include h hd ht

theorem exec_jalr_of_even (he : tgt % 2 ≠ 1) :
    exec (.jalr o) s = .next (completeIssue (transfer tgt 3 (deliver (dstRid o) 1 (linkOf s) (markLast o t)))) := by
  have hcur := readsB_cur h
  obtain ⟨hc, hb⟩ := h
  rw [dstFree] at hd
  refine issue_of_ok hc ?_ ?_
  · simp only [bind_apply, hb, hd, vaTop_cast, ht, if_neg he, lastUse, writeResult, updM_apply, setPc_apply]
  · simp [transfer, deliver_cur, markLast_cur, hcur, atIssue]

theorem exec_jalr_of_odd (he : tgt % 2 = 1) : exec (.jalr o) s = .next (trapsAt s 5 (word tgt) 0#64) := by
  obtain ⟨hc, hb⟩ := h
  rw [dstFree] at hd
  refine issue_of_trap hc ?_
  simp only [bind_apply, hb, hd, vaTop_cast, ht, if_pos he, trapM_apply]

end

/-- Settles O19: a branch goes as its condition says, and a jump to its target unless that is odd. -/
theorem branchesAndJumps : Obligations.BranchesAndJumps := by
  unfold Obligations.BranchesAndJumps
  simp only [← relTarget_eq, ← linkOf_eq]
  refine ⟨fun row hrow o s a b t h => ?branch, exec_jmp, fun o s => exec_jal o, fun o s b t h hd => ?jalr⟩
  case branch =>
    obtain ⟨cond, hexec, hcond⟩ := branchTable_cond row hrow
    rw [hexec, branch_of_reads cond h]
    exact ⟨fun hc => by rw [if_pos ((hcond a b).2 hc)], fun hc => by rw [if_neg (mt (hcond a b).1 hc)]⟩
  case jalr =>
    have h0 : 0 ≤ (((wfield b 0 56 : Nat) : Int) + 2 * immR o) % 2 ^ 56 := Int.emod_nonneg _ (by norm_num)
    exact ⟨fun he => exec_jalr_of_even h hd rfl (by omega), fun he => exec_jalr_of_odd h hd rfl (by omega)⟩

end Sys2Proof.Machine
end

section
/-!
SUPPORT. LOOP and LOOPI (`Obligations.LoopsSetTheirLevel`): SetLoop as its nesting check and what follows it (R230), then the checks of the
two instructions before it (R228).
-/

namespace Sys2Proof.Machine

/-! ### SetLoop (R230) -/

/-- SetLoop after its nesting check: the level is set, or with a count of 0 the body is skipped, with the instruction at its end `T`. -/
def enterLoop (v c S E T sid : Nat) : M Unit :=
  if c = 0 then do
    let n ← lengthAt T
    updM (modSlot sid (withoutLoop v))
    setPc (T + 2 * n) 2
  else updM (modSlot sid (withLoop v c S E))

/-- SetLoop traps where `loopNest` names a reason, and goes on otherwise. -/
theorem setLoop_eq {v S E : Nat} (c : Nat) (t : State) (hS : S < 2 ^ 56) (hE : E < 256) :
    setLoop v c S E t = (loopNest (slotAt t t.cur.sid) v S E).elim (enterLoop v c S E ((S + 2 * E) % 2 ^ 56) t.cur.sid t)
      fun r => .error (.trap 0x1C (word v) (word r)) := by
  have hb : word (S % 2 ^ 56 + E % 256 * 2 ^ 56) = word (S + E * 2 ^ 56) := by rw [Nat.mod_eq_of_lt hS, Nat.mod_eq_of_lt hE]
  simp only [setLoop, bind_apply, askM_apply, id_eq, hb, vaTop, bne_iff_ne, loopNest]
  generalize slotAt t t.cur.sid = x
  by_cases h1 : v = 1 ∧ lcCur x.lc0 ≠ 0
  · rw [if_pos h1, if_pos h1, h1.1]
    rfl
  rw [if_neg h1, if_neg h1]
  by_cases h2 : (v = 0 ∧ lcCur x.lc0 ≠ 0 ∧ x.lb0 ≠ word (S + E * 2 ^ 56))
      ∨ (v = 1 ∧ lcCur x.lc1 ≠ 0 ∧ x.lb1 ≠ word (S + E * 2 ^ 56))
  · rw [if_pos h2, if_pos h2]
    rfl
  rw [if_neg h2, if_neg h2]
  by_cases h3 : v = 0 ∧ lcCur x.lc1 ≠ 0 ∧ ¬ (lbStart x.lb1 ≤ S ∧ (S + 2 * E) % 2 ^ 56 ≤ lbEnd x.lb1)
  · rw [if_pos h3, if_pos h3, h3.1]
    rfl
  rw [if_neg h3, if_neg h3]
  rfl

theorem lengthAt_of_words {T : Nat} {t : State} {ws : List (BitVec 16)} (h : fetchWords t t.cur.sid 5 T = .words ws) :
    lengthAt T t = .ok (ws.length, t) := by
  simp [lengthAt, bind_apply, h]

theorem lengthAt_of_trap {T cause tv : Nat} {t : State} (h : fetchWords t t.cur.sid 5 T = .trap cause tv) :
    lengthAt T t = .error (.trap cause (word tv) 0#64) := by
  simp [lengthAt, bind_apply, h]

section
variable {v c S E T sid : Nat} {t : State}

theorem enterLoop_of_count (hc : 0 < c) : enterLoop v c S E T sid t = .ok ((), modSlot sid (withLoop v c S E) t) := by
  rw [enterLoop, if_neg (Nat.ne_of_gt hc)]
  rfl

theorem enterLoop_of_skip {ws : List (BitVec 16)} (h : fetchWords t t.cur.sid 5 T = .words ws) :
    enterLoop v 0 S E T sid t = .ok ((), transfer (T + 2 * ws.length) 2 (modSlot sid (withoutLoop v) t)) := by
  simp [enterLoop, bind_apply, lengthAt_of_words h]

theorem enterLoop_of_trap {cause tv : Nat} (h : fetchWords t t.cur.sid 5 T = .trap cause tv) :
    enterLoop v 0 S E T sid t = .error (.trap cause (word tv) 0#64) := by
  simp [enterLoop, bind_apply, lengthAt_of_trap h]

end

/-! ### The two instructions -/

theorem linkOf_toNat (s : State) : (linkOf s).toNat = (s.cur.ipc + 2 * s.cur.words.length) % 2 ^ 56 := by
  rw [linkOf_eq, BitVec.toNat_ofNat]; omega

/-- An instruction that comes to SetLoop in the state `t`, and ends with `fin`, does what `setsLoop` says. -/
theorem setsLoop_of_body {i : Instr} {s t : State} {v c E : Nat} {fin : State → State} {body : M Unit} (hexec : exec i s = issue .b s body)
    (hbody : body (atIssue s) = (setLoop v c (linkOf s).toNat E >>= fun _ => updM fin) t) (ht : t.cur = (atIssue s).cur)
    (hfin : ∀ u, (fin u).cur = u.cur) (hE : E < 256) : setsLoop i s t v c E fin := by
  have hsid : t.cur.sid = s.cur.sid := by rw [ht]; rfl
  have hman : t.cur.manual = false := by rw [ht]; rfl
  rw [linkOf_toNat, bind_apply, setLoop_eq c t (Nat.mod_lt _ (by norm_num)) hE, hsid] at hbody
  unfold setsLoop
  rw [hexec]
  refine ⟨fun r hr => ?nest, fun hn hc => ?count, fun hn hc => ⟨fun ws hw => ?skip, fun cause tv hw => ?trap⟩⟩
  case nest =>
    rw [hr] at hbody
    exact issue_of_trap (cls := .b) rfl hbody
  case count =>
    rw [hn, Option.elim_none, enterLoop_of_count hc] at hbody
    exact issue_of_ok (cls := .b) rfl hbody (by rw [hfin]; exact hman)
  case skip =>
    rw [← hsid] at hw
    rw [hn, Option.elim_none, hc, enterLoop_of_skip hw] at hbody
    exact issue_of_ok (cls := .b) rfl hbody (by rw [hfin]; exact hman)
  case trap =>
    rw [← hsid] at hw
    rw [hn, Option.elim_none, hc, enterLoop_of_trap hw] at hbody
    exact issue_of_trap (cls := .b) rfl hbody

theorem exec_loop_setsLoop {o : Ops} {s t : State} {a : Word} (h : readsA .b o s a t) (hx : o.xi.length ≤ 1) (ha : a.toNat < 2 ^ 32) :
    setsLoop (.loop_ o) s t ((bitsR o).1 / 256 % 2) a.toNat ((bitsR o).1 % 256) (markLast o) := by
  have hread := h.2
  have hlvl : nfield (bitsR o).1 8 1 = (bitsR o).1 / 256 % 2 := by simp only [nfield, Nat.shiftRight_eq_div_pow]; norm_num
  refine setsLoop_of_body rfl ?_ (readKeeps_cur (src_readsOnly _ _ _ _ _ _ hread)) (markLast_cur o) (Nat.mod_lt _ (by omega))
  rw [bind_apply, oneXi, need9_of_true (decide_eq_true hx)]
  dsimp only
  rw [bind_apply, hread]
  dsimp only
  rw [bind_apply, need9_of_true (decide_eq_true ha), hlvl]
  rfl

theorem exec_loopi_setsLoop {o : Ops} (s : State) (he : o.exr = false) (ha : o.a.toNat < 2) :
    setsLoop (.loopi o) s (atIssue s) o.a.toNat ((bitsI o).1 / 256) ((bitsI o).1 % 256) id := by
  have hok : (!o.exr && decide (o.a.toNat < 2)) = true := by simp [he, ha]
  refine setsLoop_of_body rfl ?_ rfl (fun _ => rfl) (Nat.mod_lt _ (by omega))
  rw [bind_apply, need9_of_true hok, Nat.mod_eq_of_lt ha]
  dsimp only
  rw [bind_apply]
  rcases setLoop o.a.toNat ((bitsI o).1 / 256) (linkOf s).toNat ((bitsI o).1 % 256) (atIssue s) with e | ⟨⟨⟩, u⟩ <;> rfl

theorem exec_loop_of_two_exi {o : Ops} (s : State) (hx : 1 < o.xi.length) :
    exec (.loop_ o) s = .next (trapsAt s 1 (firstFour s.cur.words) 9#64) :=
  issue_of_need9 (decide_eq_false (Nat.not_le.2 hx)) s _

/-- A count of 2^32 or more (R228), or more than one EXI. -/
theorem exec_loop_of_large {o : Ops} {s t : State} {a : Word} (h : readsA .b o s a t) (ha : 2 ^ 32 ≤ a.toNat) :
    exec (.loop_ o) s = .next (trapsAt s 1 (firstFour s.cur.words) 9#64) := by
  rcases Nat.lt_or_ge 1 o.xi.length with hx | hx
  · exact exec_loop_of_two_exi s hx
  · obtain ⟨hc, hread⟩ := h
    have hcur : t.cur = (atIssue s).cur := readKeeps_cur (src_readsOnly _ _ _ _ _ _ hread)
    refine issue_of_trap hc ?_
    rw [bind_apply, oneXi, need9_of_true (decide_eq_true hx)]
    dsimp only
    rw [bind_apply, hread]
    dsimp only
    rw [bind_apply, need9_of_false (decide_eq_false (Nat.not_lt.2 ha)), hcur]
    rfl

/-- Settles O20: both instructions come to SetLoop, whose nesting check is `loopNest`, unless an immediate is refused before it. -/
theorem loopsSetTheirLevel : Obligations.LoopsSetTheirLevel := by
  unfold Obligations.LoopsSetTheirLevel
  refine ⟨fun o s a t => exec_loop_setsLoop, fun o s => exec_loopi_setsLoop s, fun o s a t => exec_loop_of_large,
    fun o s => exec_loop_of_two_exi s, fun o s h => ?_⟩
  refine issue_of_need9 ?_ s _
  rcases h with he | ha
  · rw [he]; rfl
  · rw [decide_eq_false (Nat.not_lt.2 ha), Bool.and_false]

end Sys2Proof.Machine
end

section
/-!
SUPPORT. The way of an access (`Obligations.AccessTimes`): the delays of a route to its bank and back, case by case, and what sending an
access puts on the agenda.
-/

namespace Sys2Proof.Machine

/-! ### The legs of a route (R236, R269) -/

section
variable {r : Route} {own : Nat}

theorem perfDelay_own (conv : Bool) (hd : r.dev = false) (ht : r.tid = own) :
    perfDelay r own false conv = 2 + 8 * r.c + if conv = true then 1 else 0 := by
  simp [perfDelay, hd, ht]

theorem perfDelay_far (conv : Bool) (hd : r.dev = false) (ht : r.tid ≠ own) :
    perfDelay r own false conv = 5 + 3 * r.h + 8 * r.c + if conv = true then 1 else 0 := by
  simp [perfDelay, hd, ht]

theorem perfDelay_dev (conv : Bool) (hd : r.dev = true) :
    perfDelay r own false conv = 216 + 2 * r.h + 8 * r.c + if conv = true then 1 else 0 := by
  simp [perfDelay, hd]

theorem ansDelay_own (store : Bool) (hd : r.dev = false) (ht : r.tid = own) :
    ansDelay r own false store = if store = true then 0 else 2 := by
  simp [ansDelay, hd, ht]

theorem ansDelay_far (store : Bool) (hd : r.dev = false) (ht : r.tid ≠ own) : ansDelay r own false store = 5 + 3 * r.h + 8 * r.c := by
  simp [ansDelay, hd, ht]

theorem ansDelay_dev (store : Bool) (hd : r.dev = true) : ansDelay r own false store = 4 + r.h + 8 * r.c := by
  simp [ansDelay, hd]

theorem perfDelay_atomic_tile (hd : r.dev = false) : perfDelay r own true false = 6 + 3 * r.h + 8 * r.c := by simp [perfDelay, hd]

theorem perfDelay_atomic_dev (hd : r.dev = true) : perfDelay r own true false = 218 + 2 * r.h + 8 * r.c := by simp [perfDelay, hd]

theorem ansDelay_atomic_tile (store : Bool) (hd : r.dev = false) : ansDelay r own true store = 6 + 3 * r.h + 8 * r.c := by
  simp [ansDelay, hd]

theorem ansDelay_atomic_dev (store : Bool) (hd : r.dev = true) : ansDelay r own true store = 6 + r.h + 8 * r.c := by
  simp [ansDelay, hd]

end

/-! ### The times of an access -/

section
variable (s : State) (sid va n : Nat) (kind : AccKind) (atomic conv : Bool)

theorem accOf_perfAt : (accOf s sid va n kind atomic conv).perfAt
    = s.now + perfDelay (routeOf (tidOfC (cidOf sid)) va) (tidOfC (cidOf sid)) atomic conv := rfl

theorem accOf_ansLat : (accOf s sid va n kind atomic conv).ansLat
    = ansDelay (routeOf (tidOfC (cidOf sid)) va) (tidOfC (cidOf sid)) atomic (kind == .store) := rfl

/-- An access takes a request slot unless it goes to the own scratchpad. -/
theorem accOf_slot : (accOf s sid va n kind atomic conv).slot
    = ((routeOf (tidOfC (cidOf sid)) va).dev || (routeOf (tidOfC (cidOf sid)) va).tid != tidOfC (cidOf sid)) := rfl

end

theorem sendAcc_due_mtu {a : Acc} (s : State) (h : a.dev = true) :
    due (sendAcc a s).2 (s.now + 110) .mtuAccessDecide { a := s.nextId } := by
  simp only [sendAcc, freshId, h, if_true]
  exact due_post ..

theorem sendAcc_due_bank {a : Acc} (s : State) (h : a.dev = false) : due (sendAcc a s).2 a.perfAt (perfEvent a) { a := s.nextId } := by
  simp only [sendAcc, freshId, h, Bool.false_eq_true, if_false]
  exact due_post ..

/-- Settles O27: the times of an access are the sums of its route's two legs. -/
theorem accessTimes : Obligations.AccessTimes := by
  unfold Obligations.AccessTimes
  refine ⟨?plain, ?atomic, fun a s => ⟨sendAcc_find a s, sendAcc_due_mtu s, sendAcc_due_bank s⟩⟩
  case plain =>
    intro s sid va n kind conv
    dsimp only
    rw [accOf_perfAt, accOf_ansLat, accOf_slot]
    refine ⟨fun hd ht => ?own, fun hd ht => ?far, fun hd => ?dev⟩
    case own =>
      rw [perfDelay_own conv hd ht, ansDelay_own _ hd ht]
      refine ⟨by omega, fun hk => ?_, fun hk => ?_, by simp [hd, ht]⟩
      · rw [if_neg (show ¬ (kind == .store) = true by simpa using hk)]
        omega
      · rw [if_pos (show (kind == .store) = true by simpa using hk)]
    case far =>
      rw [perfDelay_far conv hd ht, ansDelay_far _ hd ht]
      exact ⟨by omega, by omega, by simp [ht]⟩
    case dev =>
      rw [perfDelay_dev conv hd, ansDelay_dev _ hd]
      exact ⟨by omega, by omega, by simp [hd]⟩
  case atomic =>
    intro s sid va n kind
    dsimp only
    rw [accOf_perfAt, accOf_ansLat]
    refine ⟨fun hd => ?_, fun hd => ?_⟩
    · rw [perfDelay_atomic_tile hd, ansDelay_atomic_tile _ hd]
      omega
    · rw [perfDelay_atomic_dev hd, ansDelay_atomic_dev _ hd]
      omega

end Sys2Proof.Machine
end

section
/-!
SUPPORT. Scalar loads (`Obligations.LoadsIssueTheirAccess`): one run of `loadOp` for plain loads, LDACQ and converting loads, and the
formats that no load takes.
-/

namespace Sys2Proof.Machine

/-! ### Formats that no load takes (R240) -/

theorem convRow_of_refused {c : Nat} (h : c = 7 ∨ c = 8 ∨ 13 ≤ c) : convRow c = none := by
  rcases h with rfl | rfl | h
  · rfl
  · rfl
  · obtain ⟨k, rfl⟩ := Nat.exists_eq_add_of_le' h
    rfl

theorem fmtM_row_or_trap (p : Word) (s : State) : (∃ r, fmtM p s = .ok (r, s)) ∨ fmtM p s = .error (.trap 12 p 0#64) := by
  unfold fmtM
  cases Num.fmtRow (wfield p 60 4) with
  | none => exact Or.inr rfl
  | some r =>
    dsimp only
    split
    · exact Or.inl ⟨r, rfl⟩
    · exact Or.inr rfl

theorem loadForm_of_refused {p : Word} (n : Nat) (e : Ext1) (convOk : Bool) (s : State)
    (h : wfield p 60 4 = 7 ∨ wfield p 60 4 = 8 ∨ 13 ≤ wfield p 60 4) : loadForm p n e convOk s = .error (.trap 12 p 0#64) := by
  have h0 : wfield p 60 4 ≠ 0 := by omega
  unfold loadForm
  rcases fmtM_row_or_trap p s with ⟨r, hr⟩ | hr
  · simp only [bind_apply, hr, if_neg h0, convRow_of_refused h, trapM_apply]
  · simp only [bind_apply, hr]

/-! ### The run of a load -/

theorem sendLoad_eq (o : Ops) (ea z : Nat) (e : Ext1) (conv acq : Bool) (s : State) : sendLoad o ea z e conv acq s
    = sentFor o { accOf s s.cur.sid ea z .load false conv with ret := .reg (dstRid o) e, acq := acq } s := by
  simp only [sendLoad, sentFor]

theorem sentFor_cur (o : Ops) (a : Acc) (s : State) : (sentFor o a s).cur = s.cur := by
  unfold sentFor
  dsimp only
  split
  · exact sendAcc_cur a s
  · exact sendAcc_cur a s

section
variable {o : Ops} {s t : State} {p : Word} {ea n z : Nat} {e f : Ext1} {convOk conv : Bool}
variable (hb : readsB .a o s p t) (hd : dstFree o t)
include hb hd

/-- A load that passes its checks issues its access (R235 to R240). -/
theorem loadOp_of_free (acq : Bool) (hf : loadForm p n e convOk t = .ok ((z, f, conv), t)) (he : (ea : Int) = (wfield p 0 56 : Nat) + immR o * z)
    (hl : ea < 2 ^ 56) (hal : ea % z = 0) (hr : rangeOk t ea z true false) (hg : gateFree t ea false) :
    loadOp n e convOk acq o s = .next (completeIssue (sentFor o
      { accOf (markLastB o t) s.cur.sid ea z .load false conv with ret := .reg (dstRid o) f, acq := acq } (markLastB o t))) := by
  obtain ⟨m, hm⟩ := rangeM_of_rangeOk hr
  have hcur : (markLastB o t).cur = (atIssue s).cur := (markLastB_cur o t).trans (readsB_cur hb)
  rw [dstFree] at hd
  rw [gateFree] at hg
  refine issue_of_ok hb.1 ?_ ?_
  · simp only [bind_apply, hb.2, hd, hf, effAddr_of_eq t he hl, alignM_of_mod t hal, hm, hg, lastUseB, updM_apply, issueLoad, sendLoad_eq,
      hcur]
    rfl
  · rw [sentFor_cur, hcur]
    rfl

theorem loadOp_of_format (n : Nat) (e : Ext1) (convOk acq : Bool) (h : wfield p 60 4 = 7 ∨ wfield p 60 4 = 8 ∨ 13 ≤ wfield p 60 4) :
    loadOp n e convOk acq o s = .next (trapsAt s 12 p 0#64) := by
  rw [dstFree] at hd
  refine issue_of_trap hb.1 ?_
  simp only [bind_apply, hb.2, hd, loadForm_of_refused n e convOk t h]

end

/-- The rows of the table of loads are runs of `loadOp`; whether they convert is no matter for a RAW pointer. -/
theorem loadTable_loadOp : ∀ row ∈ loadTable, ∃ convOk, ∀ o s, exec (row.1 o) s = loadOp row.2.1 row.2.2.1 convOk row.2.2.2 o s := by
  simp only [loadTable, List.forall_mem_cons]
  exact ⟨⟨false, fun _ _ => rfl⟩, ⟨false, fun _ _ => rfl⟩, ⟨false, fun _ _ => rfl⟩, ⟨false, fun _ _ => rfl⟩, ⟨true, fun _ _ => rfl⟩,
    ⟨false, fun _ _ => rfl⟩, ⟨false, fun _ _ => rfl⟩, ⟨false, fun _ _ => rfl⟩, fun _ h => nomatch h⟩

/-- Settles O25: each clause is a run of `loadOp`, by the format that its pointer gives. -/
theorem loadsIssueTheirAccess : Obligations.LoadsIssueTheirAccess := by
  unfold Obligations.LoadsIssueTheirAccess
  refine ⟨?plain, ?conv, ?refused⟩
  case plain =>
    intro row hrow o s p t ea hb ⟨hp, he, hl, hal⟩ hr hd hg
    obtain ⟨convOk, hx⟩ := loadTable_loadOp row hrow
    rw [hx]
    exact loadOp_of_free hb hd _ (loadForm_of_raw _ _ convOk t hp) he hl hal hr hg
  case conv =>
    intro o s p t ea z hb hz hp he hl hal hr hd hg
    exact loadOp_of_free hb hd false (loadForm_of_conv 4 (.sext 32) t hz hp) he hl hal hr hg
  case refused =>
    intro row hrow o s p t hb hd h
    obtain ⟨convOk, hx⟩ := loadTable_loadOp row hrow
    rw [hx]
    exact loadOp_of_format hb hd _ _ convOk _ h

end Sys2Proof.Machine
end

section
/-!
SUPPORT. The engine commands of a strand (`Obligations.EngineCommandsPush`): the run of each issue up to its push, then the record that the
push leaves, and the cycle of the strand's next issue.
-/

namespace Sys2Proof.Machine

/-! ### The end of a push (R259) -/

theorem waitOnUnless_true (held : Acc → Bool) (s : State) : waitOnUnless held true s = .ok ((), s) := rfl

/-- The state after the descriptor's read, its last use marked. -/
theorem descM_markLastB {o : Ops} {s t : State} {n dp : Nat} {d : List Word} (h : descM o n (atIssue s) = .ok ((dp, d), t)) :
    (markLastB o t).cur = (atIssue s).cur ∧ (markLastB o t).now = s.now ∧ (markLastB o t).nextId = t.nextId
      ∧ (markLastB o t).tiles = t.tiles := by
  have hr : readKeeps (atIssue s) t := descM_readsOnly o n _ _ _ h
  obtain ⟨hk, -⟩ := markLastB_endKeeps o t
  refine ⟨(markLastB_cur o t).trans (readKeeps_cur hr), (show _ = t.now by rw [hk]).trans (readKeeps_now hr :), ?_, ?_⟩ <;> rw [hk]

/-- The body of an instruction at issue ends with the push that leaves `w`, and 5 cycles. -/
def bodyPushes (i : Instr) (s w : State) : Prop := ∃ body, exec i s = issue .a s body ∧ body (atIssue s) = .ok ((), atCost 5 w)

/-- The push stands, and the strand goes on 5 cycles after issue. -/
theorem exec_of_bodyPushes {i : Instr} {s w : State} (hc : classTrap .a s = none) (hb : bodyPushes i s w)
    (hcur : w.cur = (atIssue s).cur) (hnow : w.now = s.now) :
    ∃ u, exec i s = .next u ∧ u.cmds = w.cmds ∧ u.tiles = w.tiles ∧ (slotAt u s.cur.sid).readyAt = s.now + 5 := by
  obtain ⟨body, hx, hbody⟩ := hb
  obtain ⟨hk, hslot, -⟩ := completeIssue_endKeeps (atCost 5 w)
  have hsid : (atCost 5 w).cur.sid = s.cur.sid := by
    rw [atCost, hcur]
    rfl
  refine ⟨_, hx.trans (issue_of_ok hc hbody ?_), by rw [hk]; rfl, by rw [hk]; rfl, ?_⟩
  · rw [atCost, hcur]
    rfl
  · rw [hslot, hsid, slotAt_putSlot_self, ← hnow]
    rfl

/-- A command's record with its place in its port. -/
theorem addCmd_find (c : Cmd) (s : State) : tfind (addCmd c s).2.cmds s.nextId = some c := tfind_tput_self ..

theorem modCmd_find_of_some {id : Nat} {f : Cmd → Cmd} {c : Cmd} {s : State} (h : tfind s.cmds id = some c) :
    tfind (modCmd id f s).cmds id = some (f c) := by
  rw [modCmd_find, h]
  rfl

theorem modCmd_find_of_ne {j id : Nat} {f : Cmd → Cmd} (s : State) (h : j ≠ id) : tfind (modCmd id f s).cmds j = tfind s.cmds j := by
  unfold modCmd
  split
  · exact tfind_tput_of_ne _ _ h
  · rfl

/-- An exchange put that is issued changes its gang alone (R51). -/
theorem xchgIssued_leaves {β : Type} (φ : State → β) (h : ∀ (s : State) (l : Tab Gang), φ { s with gangs := l } = φ s) (sid : Nat) (s : State) :
    φ (xchgIssued sid s) = φ s := by
  unfold xchgIssued modGang
  split
  · split
    · exact h ..
    · rfl
  · rfl

/-- The same where the command's rows decide whether it is one. -/
theorem xchgIssued_ite_leaves {β : Type} (φ : State → β) (h : ∀ (s : State) (l : Tab Gang), φ { s with gangs := l } = φ s) (x : Bool)
    (sid : Nat) (s : State) : φ (if x = true then xchgIssued sid s else s) = φ s := by
  split
  · exact xchgIssued_leaves φ h sid s
  · rfl

/-! ### CPY (R260, R264) -/

theorem copyStart_leaves {β : Type} (φ : State → β)
    (h : ∀ (s : State) (c : Tab Cmd) (l : List (Nat × Instr × EvArg)), φ { s with cmds := c, agenda := l } = φ s) (tid ch : Nat) (s : State) :
    φ (copyStart tid ch s) = φ s := by
  unfold copyStart modCmd
  split
  · rfl
  · split
    · rfl
    · split
      · exact h s _ _
      · exact h s s.cmds _

/-- Starting a copy changes of the commands no more than the cycle from which it moves bytes. -/
theorem copyStart_find {id : Nat} {c : Cmd} {s : State} (tid ch : Nat) (h : tfind s.cmds id = some c) :
    ∃ n, tfind (copyStart tid ch s).cmds id = some { c with nextAt := n } := by
  unfold copyStart
  split
  · exact ⟨c.nextAt, h⟩
  · rename_i j _
    split
    · exact ⟨c.nextAt, h⟩
    · by_cases hj : id = j
      · subst hj
        exact ⟨s.now + 1, modCmd_find_of_some h⟩
      · exact ⟨c.nextAt, (modCmd_find_of_ne s hj).trans h⟩

/-- The copy stands at the end of its channel. -/
def copyQueued (c : Cmd) (s : State) : State :=
  modTile c.tile (fun t => { t with copyq := t.copyq.set c.ch ((t.copyq.getD c.ch []) ++ [s.nextId]) }) (addCmd c s).2

theorem pushCopy_eq (c : Cmd) (s : State) : pushCopy c s
    = if ((tileAt s c.tile).copyq.getD c.ch []).isEmpty then copyStart c.tile c.ch (copyQueued c s) else copyQueued c s := rfl

theorem pushCopy_leaves {β : Type} (φ : State → β)
    (h : ∀ (s : State) (c : Tab Cmd) (l : List (Nat × Instr × EvArg)), φ { s with cmds := c, agenda := l } = φ s) (c : Cmd) (s : State) :
    φ (pushCopy c s) = φ (copyQueued c s) := by
  rw [pushCopy_eq]
  split
  · exact copyStart_leaves φ h ..
  · rfl

theorem pushCopy_find (c : Cmd) (s : State) : ∃ n, tfind (pushCopy c s).cmds s.nextId = some { c with nextAt := n } := by
  rw [pushCopy_eq]
  split
  · exact copyStart_find _ _ (addCmd_find c s)
  · exact ⟨c.nextAt, addCmd_find c s⟩

theorem pushCopy_queued {c : Cmd} {s : State} (h : c.ch < (tileAt s c.tile).copyq.length) :
    s.nextId ∈ (tileAt (pushCopy c s) c.tile).copyq.getD c.ch [] := by
  rw [pushCopy_leaves (tileAt · c.tile) (fun _ _ _ => rfl)]
  have hq : (tileAt (copyQueued c s) c.tile).copyq
      = (tileAt s c.tile).copyq.set c.ch ((tileAt s c.tile).copyq.getD c.ch [] ++ [s.nextId]) :=
    congrArg Tile.copyq (tget_tput_self ..)
  rw [hq, List.getD_eq_getElem?_getD, List.getElem?_set_self h]
  exact List.mem_append_right _ (List.mem_singleton.mpr rfl)

/-- The command that CPY makes of its descriptor, with the mark of an exchange put (R51). -/
def copyCmd (h : Handle) (hn : Nat) (d : List Word) (x : Bool) (s : State) : Cmd :=
  { newCmd s 2 h.ch 19 hn d (wfield (d.getD 2 0#64) 52 1 == 1) with xchg := x }

/-- CPY's push. -/
def copyPushed (h : Handle) (hn : Nat) (d : List Word) (s : State) : State :=
  let x := rowsXchg s s.cur.sid (tidOfC (cidOf s.cur.sid)) (wfield (d.getD 1 0#64) 0 56) (signed32 (wfield (d.getD 3 0#64) 32 32))
    (wfield (d.getD 2 0#64) 0 20) (wfield (d.getD 2 0#64) 20 16)
  let s := if x then xchgIssued s.cur.sid s else s
  pushCopy (copyCmd h hn d x s) s

theorem copyPushed_spec {h : Handle} {s : State} (hn : Nat) (d : List Word)
    (hch : h.ch < (tileAt s (tidOfC (cidOf s.cur.sid))).copyq.length) :
    (copyPushed h hn d s).cur = s.cur ∧ (copyPushed h hn d s).now = s.now
      ∧ (∃ c, tfind (copyPushed h hn d s).cmds s.nextId = some c ∧ c.eng = 2 ∧ c.ch = h.ch ∧ c.desc = d ∧ c.sid = s.cur.sid)
      ∧ s.nextId ∈ (tileAt (copyPushed h hn d s) (tidOfC (cidOf s.cur.sid))).copyq.getD h.ch [] := by
  unfold copyPushed
  generalize rowsXchg s _ _ _ _ _ _ = x
  have hk {β : Type} (φ : State → β) (hφ : ∀ (s : State) (l : Tab Gang), φ { s with gangs := l } = φ s) :=
    xchgIssued_ite_leaves φ hφ x s.cur.sid s
  have hcur := hk State.cur fun _ _ => rfl
  have hnow := hk State.now fun _ _ => rfl
  have hid := hk State.nextId fun _ _ => rfl
  have htile := hk (tileAt · (tidOfC (cidOf s.cur.sid))) fun _ _ => rfl
  dsimp only
  generalize (if x = true then xchgIssued s.cur.sid s else s) = v at hcur hnow hid htile ⊢
  have htid : (copyCmd h hn d x v).tile = tidOfC (cidOf s.cur.sid) := congrArg (tidOfC ∘ cidOf ∘ Cur.sid) hcur
  obtain ⟨n, hfind⟩ := pushCopy_find (copyCmd h hn d x v) v
  have hq := pushCopy_queued (c := copyCmd h hn d x v) (s := v) (by rw [htid, htile]; exact hch)
  rw [htid] at hq
  rw [hid] at hfind hq
  exact ⟨(pushCopy_leaves State.cur (fun _ _ _ => rfl) _ v).trans hcur, (pushCopy_leaves State.now (fun _ _ _ => rfl) _ v).trans hnow,
    ⟨_, hfind, rfl, rfl, rfl, congrArg Cur.sid hcur⟩, hq⟩

section
variable {o : Ops} {s t : State} {hn dp : Nat} {h : Handle} {d : List Word} {a b : Int × Nat}
variable (hp : pushReady o 2 s hn h dp d t (wfield (d.getD 2 0#64) 52 1 == 1)) (hz : wfield (d.getD 2 0#64) 53 11 = 0)
  (hs : wfield (d.getD 0 0#64) 60 4 = 0) (ht : wfield (d.getD 1 0#64) 60 4 = 0)
  (ha : rowSpan (d.getD 0 0#64) (wfield (d.getD 2 0#64) 0 20) (wfield (d.getD 2 0#64) 20 16)
    (signed32 (wfield (d.getD 3 0#64) 0 32)) = a)
  (hb : rowSpan (d.getD 1 0#64) (wfield (d.getD 2 0#64) 0 20) (wfield (d.getD 2 0#64) 20 16)
    (signed32 (wfield (d.getD 3 0#64) 32 32)) = b)
  (hsa : spanM (d.getD 0 0#64) a.1 a.2 true false t = .ok ((), t)) (hsb : spanM (d.getD 1 0#64) b.1 b.2 false true t = .ok ((), t))
  (hrow : b.2 ≠ 0 → stepRowsM (wfield (d.getD 1 0#64) 0 56) (signed32 (wfield (d.getD 3 0#64) 32 32)) (wfield (d.getD 2 0#64) 0 20)
    (wfield (d.getD 2 0#64) 20 16) t = .ok ((), t))
include hp hz hs ht ha hb hsa hsb hrow

theorem cpy_pushes : bodyPushes (.cpy o) s (copyPushed h hn d (markLastB o t)) := by
  obtain ⟨-, hport, hdesc, hcpl, hslot⟩ := hp
  obtain ⟨al, an⟩ := a
  obtain ⟨bl, bn⟩ := b
  have hlim : (wfield (d.getD 2 0#64) 53 11 == 0 && isRaw (d.getD 0 0#64) && isRaw (d.getD 1 0#64)) = true := by
    simp only [isRaw, hz, hs, ht]
    rfl
  refine ⟨_, rfl, ?_⟩
  by_cases hn0 : bn ≠ 0
  · simp only [bind_apply, hport, hdesc, hlim, limitM_true, ha, hb, hsa, hsb, if_pos hn0, hrow hn0, hcpl, hslot, lastUseB, updM_apply,
      setCost_apply]
    rfl
  · simp only [bind_apply, hport, hdesc, hlim, limitM_true, ha, hb, hsa, hsb, if_neg hn0, hcpl, hslot, lastUseB, updM_apply, setCost_apply]
    rfl

theorem cpy_spec (hch : h.ch < (tileAt t (tidOfC (cidOf s.cur.sid))).copyq.length) :
    ∃ u c, exec (.cpy o) s = .next u ∧ tfind u.cmds t.nextId = some c ∧ c.eng = 2 ∧ c.ch = h.ch ∧ c.desc = d ∧ c.sid = s.cur.sid
      ∧ t.nextId ∈ (tileAt u (tidOfC (cidOf s.cur.sid))).copyq.getD h.ch [] ∧ (slotAt u s.cur.sid).readyAt = s.now + 5 := by
  have hpush := cpy_pushes hp hz hs ht ha hb hsa hsb hrow
  obtain ⟨hc, -, hdesc, -⟩ := hp
  obtain ⟨hcur, hnow, hid, htiles⟩ := descM_markLastB hdesc
  have hsid : (markLastB o t).cur.sid = s.cur.sid := (congrArg Cur.sid hcur).trans rfl
  obtain ⟨kcur, know, ⟨c, hfind, heng, hcch, hd, hcs⟩, hq⟩ := copyPushed_spec (s := markLastB o t) (h := h) hn d
    (by rw [hsid, tileAt, htiles]; exact hch)
  rw [hsid] at hcs hq
  rw [hid] at hfind hq
  obtain ⟨u, hu, hucmds, hutiles, hready⟩ := exec_of_bodyPushes hc hpush (kcur.trans hcur) (know.trans hnow)
  refine ⟨u, c, hu, hucmds ▸ hfind, heng, hcch, hd, hcs, ?_, hready⟩
  rw [tileAt, hutiles]
  exact hq

end

/-! ### GET and PUT (R261, R264) -/

/-- A command of the strand at issue, with its engine, operation and descriptor. -/
def isCommand (eng op : Nat) (d : List Word) (v : State) (c : Cmd) : Prop := c.eng = eng ∧ c.op = op ∧ c.desc = d ∧ c.sid = v.cur.sid

/-- It is recorded under `id`, and the instruction at issue and the clock stand. -/
def commandKept (eng op : Nat) (d : List Word) (id : Nat) (v w : State) : Prop :=
  w.cur = v.cur ∧ w.now = v.now ∧ ∃ c, tfind w.cmds id = some c ∧ isCommand eng op d v c

section
variable {eng op : Nat} {d : List Word} {v w : State}

theorem addCmd_commandKept {c : Cmd} (hcur : w.cur = v.cur) (hnow : w.now = v.now) (hc : isCommand eng op d v c) :
    commandKept eng op d w.nextId v (addCmd c w).2 := ⟨hcur, hnow, c, addCmd_find c w, hc⟩

theorem status_commandKept {id : Nat} (h : commandKept eng op d id v w) (n : Nat) :
    commandKept eng op d id v (modCmd id (fun c => { c with status := n }) w) := by
  obtain ⟨hcur, hnow, c, hf, hc⟩ := h
  exact ⟨(modCmd_cur ..).trans hcur, (modCmd_now ..).trans hnow, _, modCmd_find_of_some hf, hc⟩

end

/-- The command that GET or PUT makes of its descriptor, with the compare value of a remote CAS as it stands at issue. -/
def transferCmd (put : Bool) (hn own : Nat) (d : List Word) (s : State) : Cmd :=
  let cmp := engRead (ownView s.cur.sid s) own (tLocal d) (coreAt s (cidOf s.cur.sid)).tenant (tLen d)
  { newCmd s 3 0 (if put then 21 else 20) hn d (wfield (d.getD 2 0#64) 46 1 == 1) with
    result := word (bytesNat (if tAop d = 12 then cmp.getD [] else [])), step := if cmp.isSome then 1 else 0 }

/-- The remote-store entry of a PUT that writes beyond its own scratchpad (R396). -/
def putEntry (c : Cmd) (d : List Word) (s : State) : Acc :=
  { kind := .put, sid := c.sid, gen := c.gen, ipc := c.ipc, order := (slotAt s c.sid).issued
    dpkg := tKey s d, dev := false, va := tRemote d, size := tLen d, key := none, bank := msgBank
    perfAt := 0, ansLat := 0, remote := true, tvalue := word (tRemote d), gang := c.gang }

/-- The entry is taken where one is needed; its number, 0 for none. -/
def entryTaken (need : Bool) (c : Cmd) (d : List Word) (s : State) : Nat × State :=
  if need then (s.nextId, { s with nextId := s.nextId + 1, accs := tput s.accs s.nextId (putEntry c d s) }) else (0, s)

/-- What becomes of the command under way: a package that cannot be reached ends it (R445). -/
def transferGoes (put : Bool) (own id : Nat) (d : List Word) (s : State) : State :=
  match tTarget s (own / 2048) d with
  | none =>
    let s := modCmd id (fun c => { c with status := 4 }) s
    post (s.now + 4 + edgePath own + 1) (if put then .putRemoteComplete else .getComplete) { a := id } s
  | some _ =>
    let e := storePath s own d
    if put then
      post (s.now + 4 + loadLatency own (tLocal d) + e + (tLen d + 79) / 80 + (if e = 0 then 1 else 0)) .putLocalComplete { a := id } s
    else post (s.now + 4) (if tAop d = 0 then .getRequestServe else .remoteAtomicServe) { a := id, b := 1 } s

/-- The push of GET or PUT; `x`: an exchange put, `need`: it takes a remote-store entry. -/
def transferPushed (put : Bool) (hn own : Nat) (d : List Word) (x need : Bool) (v : State) : State :=
  let s := if x then xchgIssued v.cur.sid v else v
  if tLen d = 0 ∧ tAop d = 0 then
    post (s.now + 1) (if put then .putLocalComplete else .getComplete) { a := s.nextId } (addCmd (transferCmd put hn own d v) s).2
  else
    let (lead, s) := entryTaken need (transferCmd put hn own d v) d s
    transferGoes put own s.nextId d (addCmd { transferCmd put hn own d v with acc := lead, xchg := x } s).2

theorem entryTaken_keeps (need : Bool) (c : Cmd) (d : List Word) (s : State) :
    (entryTaken need c d s).2.cur = s.cur ∧ (entryTaken need c d s).2.now = s.now ∧ s.nextId ≤ (entryTaken need c d s).2.nextId := by
  cases need
  · exact ⟨rfl, rfl, Nat.le_refl _⟩
  · exact ⟨rfl, rfl, Nat.le_succ _⟩

theorem transferGoes_kept {op id : Nat} {d : List Word} {v w : State} (put : Bool) (own : Nat) (h : commandKept 3 op d id v w) :
    commandKept 3 op d id v (transferGoes put own id d w) := by
  unfold transferGoes
  split
  · exact status_commandKept h 4
  · cases put <;> exact h

theorem transferPushed_kept (put : Bool) (hn own : Nat) (d : List Word) (x need : Bool) (v : State) :
    ∃ id, v.nextId ≤ id ∧ commandKept 3 (if put then 21 else 20) d id v (transferPushed put hn own d x need v) := by
  have hk {β : Type} (φ : State → β) (hφ : ∀ (s : State) (l : Tab Gang), φ { s with gangs := l } = φ s) :=
    xchgIssued_ite_leaves φ hφ x v.cur.sid v
  have hcur := hk State.cur fun _ _ => rfl
  have hnow := hk State.now fun _ _ => rfl
  have hid := hk State.nextId fun _ _ => rfl
  have hc : isCommand 3 (if put then 21 else 20) d v (transferCmd put hn own d v) := ⟨rfl, rfl, rfl, rfl⟩
  unfold transferPushed
  dsimp only
  generalize (if x = true then xchgIssued v.cur.sid v else v) = s at hcur hnow hid ⊢
  by_cases hz : tLen d = 0 ∧ tAop d = 0
  · rw [if_pos hz]
    exact ⟨s.nextId, hid.ge, addCmd_commandKept hcur hnow hc⟩
  · rw [if_neg hz]
    obtain ⟨ecur, enow, eid⟩ := entryTaken_keeps need (transferCmd put hn own d v) d s
    exact ⟨_, hid.ge.trans eid, transferGoes_kept put own (addCmd_commandKept (ecur.trans hcur) (enow.trans hnow) hc)⟩

section
variable {o : Ops} {s t : State} {hn dp : Nat} {h : Handle} {d : List Word}
variable (hp : pushReady o 3 s hn h dp d t (wfield (d.getD 2 0#64) 46 1 == 1)) (hch : h.ch = 0)
include hp hch

theorem get_pushes (hl : tOk t (tidOfC (cidOf s.cur.sid) / 2048) false d = true)
    (hs : spanM (d.getD 0 0#64) (tLocal d : Nat) (tLen d) (tAop d == 12) true t = .ok ((), t)) :
    bodyPushes (.get_ o) s (transferPushed false hn (tidOfC (cidOf s.cur.sid)) d false false (markLastB o t)) := by
  obtain ⟨-, hport, hdesc, hcpl, hslot⟩ := hp
  obtain ⟨hcur, -⟩ := descM_markLastB hdesc
  have hsid : t.cur.sid = s.cur.sid := (congrArg Cur.sid (readKeeps_cur (descM_readsOnly _ _ _ _ _ hdesc))).trans rfl
  have hmsid : (markLastB o t).cur.sid = s.cur.sid := (congrArg Cur.sid hcur).trans rfl
  rw [hch] at hcpl
  refine ⟨_, rfl, ?_⟩
  simp only [bind_apply, hport, hdesc, askM_apply, id, hsid, hl, limitM_true, Bool.false_or, Bool.not_false, hs, Bool.false_and,
    Bool.false_eq_true, if_false, hcpl, hslot, Bool.true_or, waitOnUnless_true, lastUseB, updM_apply, setCost_apply]
  rw [← hmsid]
  rfl

theorem put_pushes (hl : tOk t (tidOfC (cidOf s.cur.sid) / 2048) true d = true)
    (hs : spanM (d.getD 0 0#64) (tLocal d : Nat) (tLen d) true false t = .ok ((), t))
    (hrow : tPkg d = identityOf t (tidOfC (cidOf s.cur.sid) / 2048) → stepRowsM (tRemote d) 0 (tLen d) 1 t = .ok ((), t))
    (hroom : tLen d = 0 ∨ remoteUsed t (cidOf s.cur.sid) < 32) :
    ∃ x need, bodyPushes (.put_ o) s (transferPushed true hn (tidOfC (cidOf s.cur.sid)) d x need (markLastB o t)) := by
  obtain ⟨-, hport, hdesc, hcpl, hslot⟩ := hp
  obtain ⟨hcur, -⟩ := descM_markLastB hdesc
  have hsid : t.cur.sid = s.cur.sid := (congrArg Cur.sid (readKeeps_cur (descM_readsOnly _ _ _ _ _ hdesc))).trans rfl
  have hmsid : (markLastB o t).cur.sid = s.cur.sid := (congrArg Cur.sid hcur).trans rfl
  rw [hch] at hcpl
  have hwait (ownOnly : Bool) : (false || tLen d == 0 || ownOnly || decide (remoteUsed t (cidOf s.cur.sid) < 32)) = true := by
    rcases hroom with h0 | h32
    · simp [h0]
    · simp [h32]
  by_cases hh : tPkg d = identityOf t (tidOfC (cidOf s.cur.sid) / 2048)
  · refine ⟨rowsXchg (markLastB o t) s.cur.sid (tidOfC (cidOf s.cur.sid)) (tRemote d) 0 (tLen d) 1,
      !((pageStarts (tRemote d) (tLen d)).all fun a => tileOfVa (tidOfC (cidOf s.cur.sid)) a == some (tidOfC (cidOf s.cur.sid))),
      _, rfl, ?_⟩
    simp only [bind_apply, hport, hdesc, askM_apply, id, hsid, hl, limitM_true, Bool.true_or, Bool.not_true, hs, Bool.true_and,
      beq_iff_eq.mpr hh, if_true, hrow hh, hcpl, hslot, hwait, waitOnUnless_true, lastUseB, updM_apply, setCost_apply]
    generalize rowsXchg (markLastB o t) _ _ _ _ _ _ = x
    generalize (!List.all _ _) = y
    rw [← hmsid]
    rfl
  · refine ⟨false, true, _, rfl, ?_⟩
    simp only [bind_apply, hport, hdesc, askM_apply, id, hsid, hl, limitM_true, Bool.true_or, Bool.not_true, hs, Bool.true_and,
      beq_eq_false_iff_ne.mpr hh, Bool.false_and, Bool.false_eq_true, if_false, hcpl, hslot, hwait, waitOnUnless_true, lastUseB,
      updM_apply, setCost_apply]
    rw [← hmsid]
    rfl

end

/-- A push that keeps its command under `id`: the strand goes on 5 cycles after issue, the command recorded. -/
theorem exec_of_commandKept {i : Instr} {o : Ops} {s t w : State} {eng op id dp : Nat} {d : List Word} (hc : classTrap .a s = none)
    (hd : descM o 32 (atIssue s) = .ok ((dp, d), t)) (hb : bodyPushes i s w) (hk : commandKept eng op d id (markLastB o t) w) :
    ∃ u c, exec i s = .next u ∧ tfind u.cmds id = some c ∧ c.eng = eng ∧ c.op = op ∧ c.desc = d ∧ c.sid = s.cur.sid
      ∧ (slotAt u s.cur.sid).readyAt = s.now + 5 := by
  obtain ⟨hcur, hnow, -⟩ := descM_markLastB hd
  obtain ⟨kcur, know, c, hfind, heng, hop, hdesc, hsid⟩ := hk
  obtain ⟨u, hu, hcmds, -, hready⟩ := exec_of_bodyPushes hc hb (kcur.trans hcur) (know.trans hnow)
  exact ⟨u, c, hu, hcmds ▸ hfind, heng, hop, hdesc, hsid.trans ((congrArg Cur.sid hcur).trans rfl), hready⟩

/-- A transfer's push in its words: the command stands under a number not taken before. -/
theorem exec_of_transferPushed {i : Instr} {o : Ops} {s t : State} {hn own dp : Nat} {d : List Word} {put x need : Bool}
    (hc : classTrap .a s = none) (hd : descM o 32 (atIssue s) = .ok ((dp, d), t))
    (hb : bodyPushes i s (transferPushed put hn own d x need (markLastB o t))) :
    ∃ u c id, exec i s = .next u ∧ t.nextId ≤ id ∧ tfind u.cmds id = some c ∧ c.eng = 3 ∧ c.op = (if put then 21 else 20) ∧ c.desc = d
      ∧ c.sid = s.cur.sid ∧ (slotAt u s.cur.sid).readyAt = s.now + 5 := by
  obtain ⟨-, -, hid, -⟩ := descM_markLastB hd
  obtain ⟨id, hle, hk⟩ := transferPushed_kept put hn own d x need (markLastB o t)
  obtain ⟨u, c, hu, hrest⟩ := exec_of_commandKept hc hd hb hk
  exact ⟨u, c, id, hu, hid.ge.trans hle, hrest⟩

/-! ### SREAD and SWRITE (R262, R416) -/

theorem storageSubmit_kept {eng op id : Nat} {d : List Word} {v w : State} (op' pkg port : Nat) (h : commandKept eng op d id v w) :
    commandKept eng op d id v (storageSubmit id op' pkg port w) := by
  unfold storageSubmit
  split
  · exact h
  · dsimp only
    split <;> exact h

/-- What the storage command under `id` does first: it ends where it is too long, denied or its port is not ready, and else is submitted. -/
def storageGoes (op id : Nat) (d : List Word) (s : State) : State :=
  let w2 := d.getD 2 0#64
  let port := wfield w2 16 4
  let pkg := pkgOfC (cidOf s.cur.sid)
  let ends (n : Nat) : State := post (s.now + 1) .storageIoComplete { a := id } (modCmd id (fun c => { c with status := n }) s)
  if sBytes d > 2 ^ 21 then ends 5
  else if !Config.storageRight (pkeyOf s (cidOf s.cur.sid)) port (wfield w2 20 32) then ends 1
  else if portReady s pkg port (wfield w2 20 32) = false then ends 2
  else storageSubmit id op pkg port s

theorem storageGoes_kept {eng op id : Nat} {d : List Word} {v w : State} (op' : Nat) (h : commandKept eng op d id v w) :
    commandKept eng op d id v (storageGoes op' id d w) := by
  unfold storageGoes
  dsimp only
  split
  · exact status_commandKept h 5
  · split
    · exact status_commandKept h 1
    · split
      · exact status_commandKept h 2
      · exact storageSubmit_kept op' _ _ h

/-- The push of SREAD or SWRITE. -/
def storagePushed (write : Bool) (hn : Nat) (d : List Word) (v : State) : State :=
  let op := if write then 23 else 22
  storageGoes op v.nextId d (addCmd (newCmd v 4 0 op hn d (wfield (d.getD 2 0#64) 52 1 == 1)) v).2

theorem storagePushed_kept (write : Bool) (hn : Nat) (d : List Word) (v : State) :
    commandKept 4 (if write then 23 else 22) d v.nextId v (storagePushed write hn d v) :=
  storageGoes_kept _ (addCmd_commandKept rfl rfl ⟨rfl, rfl, rfl, rfl⟩)

/-- The instruction of a storage command. -/
def storageInstr (write : Bool) (o : Ops) : Instr := if write then .swrite o else .sread o

section
variable {o : Ops} {s t : State} {hn dp : Nat} {h : Handle} {d : List Word} (write : Bool)
variable (hp : pushReady o 4 s hn h dp d t (wfield (d.getD 2 0#64) 52 1 == 1)) (hch : h.ch = 0)
  (hraw : wfield (d.getD 0 0#64) 60 4 = 0) (hal : wfield (d.getD 0 0#64) 0 9 = 0) (hwin : inWindow (wfield (d.getD 0 0#64) 0 56) = false)
  (hz2 : wfield (d.getD 2 0#64) 53 11 = 0) (hz3 : wfield (d.getD 3 0#64) 16 48 = 0)
  (hs : spanM (d.getD 0 0#64) (wfield (d.getD 0 0#64) 0 56 : Nat) (sBytes d) write (!write) t = .ok ((), t))
include hp hch hraw hal hwin hz2 hz3 hs

theorem storage_pushes : bodyPushes (storageInstr write o) s (storagePushed write hn d (markLastB o t)) := by
  obtain ⟨-, hport, hdesc, hcpl, hslot⟩ := hp
  rw [hch] at hcpl
  have hlim : (isRaw (d.getD 0 0#64) && wfield (d.getD 0 0#64) 0 9 == 0 && !inWindow (wfield (d.getD 0 0#64) 0 56)
      && wfield (d.getD 2 0#64) 53 11 == 0 && wfield (d.getD 3 0#64) 16 48 == 0) = true := by
    simp only [isRaw, hraw, hal, hwin, hz2, hz3]
    rfl
  cases write <;>
  · refine ⟨_, rfl, ?_⟩
    simp only [bind_apply, hport, hdesc, hlim, limitM_true, hs, hcpl, hslot, lastUseB, updM_apply, setCost_apply]
    rfl

theorem storage_spec : ∃ u c, exec (storageInstr write o) s = .next u ∧ tfind u.cmds t.nextId = some c ∧ c.eng = 4
    ∧ c.op = (if write then 23 else 22) ∧ c.desc = d ∧ c.sid = s.cur.sid ∧ (slotAt u s.cur.sid).readyAt = s.now + 5 := by
  have hpush := storage_pushes write hp hch hraw hal hwin hz2 hz3 hs
  obtain ⟨hc, -, hdesc, -⟩ := hp
  obtain ⟨-, -, hid, -⟩ := descM_markLastB hdesc
  exact hid ▸ exec_of_commandKept hc hdesc hpush (storagePushed_kept write hn d (markLastB o t))

end

/-- Settles O39: each body runs through its checks to the push that it makes, which keeps the strand and the clock and records the command. -/
theorem engineCommandsPush : Obligations.EngineCommandsPush := by
  unfold Obligations.EngineCommandsPush
  refine ⟨?copy, ?transfers, ?storage⟩
  case copy =>
    intro o s hn h dp d t w2 sp tp a b hp hz hs ht hsa hsb hrow hch
    exact cpy_spec hp hz hs ht rfl rfl hsa hsb hrow hch
  case transfers =>
    intro o s hn h dp d t own hp
    obtain ⟨hc, -, hdesc, -⟩ := id hp
    refine ⟨fun hl hs hch => exec_of_transferPushed hc hdesc (get_pushes hp hch hl hs), fun hl hs hch hrow hroom => ?_⟩
    obtain ⟨x, need, hb⟩ := put_pushes hp hch hl hs hrow hroom
    exact exec_of_transferPushed hc hdesc hb
  case storage =>
    intro o s hn h dp d t w2 bp hp hch hraw hal hwin hz2 hz3
    exact ⟨storage_spec false hp hch hraw hal hwin hz2 hz3, storage_spec true hp hch hraw hal hwin hz2 hz3⟩

end Sys2Proof.Machine
end

section
/-!
SUPPORT. What a held issue leaves of its access (`Obligations.AtomicsAndWatchesIssue`, `Obligations.QueueInstructions`). Both statements range
over every state, and their clauses on an issue that holds its strand name no condition on the table of accesses. They fail where that
table lists two records under the number that the access takes, as `Obligations.MessagesLeave` does (`twiceListed`): the access replaces
the first; the instruction stands at a breakpoint, whose trace record is a write of memory (R460, R461); the write wakes the watch that is
listed second (R255), and its record replaces that of the access.
-/

namespace Sys2Proof.Machine

/-- `twiceListed` with a range-table entry of the own scratchpad, and in g7 the address of the word at its offset 0x300. -/
def twiceListedAt : State :=
  { twiceListed with
    g := [(1 * 64 + 7, word (ownBase + 0x300))]
    rt := [(0, (word (ownBase + 2 ^ 56), word (ownBase + 0xF0000 + 2 ^ 56 + 2 ^ 57 + 2 ^ 58 + 2 ^ 61)))] }

/-- The operands of an LDSC through g7 into g6. -/
def ldscHere : Ops := { a := 6, b := 7 }

theorem ldscHere_leaves_watch : kindLeft (exec (.ldsc ldscHere) twiceListedAt) 20 = some .watch := by decide +kernel

/-- Refutes O29: an LDSC leaves no record of its access where its number is listed twice, `twiceListedAt`. -/
theorem not_atomicsAndWatchesIssue : ¬ Obligations.AtomicsAndWatchesIssue := by
  unfold Obligations.AtomicsAndWatchesIssue
  rintro ⟨-, -, -, hldsc, -⟩
  have hreads : readsB .a ldscHere twiceListedAt (word (ownBase + 0x300)) (atIssue twiceListedAt) := ⟨rfl, rfl⟩
  obtain ⟨z, b, hz, hb, hk, -⟩ := hldsc ldscHere twiceListedAt _ _ (ownBase + 0x300) _ hreads (by unfold rawAt; decide) ⟨_, rfl⟩ rfl rfl (by decide) rfl
  have hw := ldscHere_leaves_watch
  have hid : (markLastB ldscHere (atIssue twiceListedAt)).nextId = 20 := rfl
  rw [hz, kindLeft, ← hid, hb, Option.map_some, hk] at hw
  cases hw

/-- The word at the address in g7 is the descriptor of a pair link, for which the strand has no partner. -/
def twiceListedLink : State := { twiceListedAt with mem := mwrite [] (spKey 0 0x300) [2] }

/-- The operands of a QBIND of q0 with the descriptor at g7. -/
def qbindHere : Ops := { a := 0, b := 7 }

theorem qbindHere_leaves_watch : kindLeft (exec (.qbind qbindHere) twiceListedLink) 20 = some .watch := by decide +kernel

/-- Refutes O34: a QBIND whose descriptor would be refused leaves no record of its load where its number is listed twice,
`twiceListedLink`. -/
theorem not_queueInstructions : ¬ Obligations.QueueInstructions := by
  unfold Obligations.QueueInstructions
  rintro ⟨hqbind, -⟩
  have hreads : readsB .b qbindHere twiceListedLink (word (ownBase + 0x300)) (atIssue twiceListedLink) := ⟨rfl, rfl⟩
  obtain ⟨-, hrefused⟩ := hqbind qbindHere twiceListedLink _ _ (ownBase + 0x300) hreads (by unfold rawAt; decide) ⟨_, rfl⟩ (by decide) (by decide) rfl
  obtain ⟨z, hz, ha, -⟩ := hrefused ⟨_, rfl, by decide⟩
  have hw := qbindHere_leaves_watch
  have hid : (markLastB qbindHere (atIssue twiceListedLink)).nextId = 20 := rfl
  rw [hz, kindLeft, ← hid, ha, Option.map_some] at hw
  cases hw

end Sys2Proof.Machine
end

section
/-!
SUPPORT. Engine transfers (`Obligations.EngineTransfersComplete`): bytes written and read over several pages, spans within one tile's
window, the end of a command, the messages to another package, then each event of a transfer.
-/

namespace Sys2Proof.Machine

/-! ### Bytes in parts -/

theorem mwrite_append (m : List Host.Cell) (a : Nat) (xs ys : List Byte) : mwrite m a (xs ++ ys) = mwrite (mwrite m a xs) (a + xs.length) ys := by
  induction xs generalizing m a with
  | nil => rfl
  | cons x xs ih => rw [List.cons_append, mwrite, mwrite, ih, List.length_cons, Nat.add_assoc, Nat.add_comm 1]

theorem mread_add (m : List Host.Cell) (a i j : Nat) : mread m a (i + j) = mread m a i ++ mread m (a + i) j := by
  induction i generalizing a with
  | zero => rw [Nat.zero_add]; rfl
  | succ i ih => rw [Nat.add_right_comm, mread, mread, ih, List.cons_append, Nat.add_assoc a, Nat.add_comm 1]

theorem mread_congr {m n : List Host.Cell} {a k : Nat} (h : ∀ i, i < k → mget m (a + i) = mget n (a + i)) : mread m a k = mread n a k := by
  induction k generalizing a with
  | zero => rfl
  | succ k ih =>
    rw [mread, mread, show mget m a = mget n a from h 0 (Nat.succ_pos k)]
    refine congrArg _ (ih fun i hi => ?_)
    rw [Nat.add_assoc, Nat.add_comm 1]
    exact h _ (Nat.succ_lt_succ hi)

/-- A word beside a write is as it was. -/
theorem mem64_of_keepsOutside {s t : State} {key n k : Nat} (h : keepsOutside s t key n) (hk : k + 8 ≤ key ∨ key + n ≤ k) :
    mem64 t k = mem64 s k := by
  rw [mem64, mread_congr fun i hi => h (k + i) (by omega), mem64]

theorem keepsOutside_of_mwrite {s t : State} {key : Nat} {bs : List Byte} (h : t.mem = mwrite s.mem key bs) :
    keepsOutside s t key bs.length := fun a ha => by rw [h, mget_mwrite_outside _ _ _ _ ha]

/-! ### The pages of a span -/

/-- The start of the `i`th unit of a span, from the span's own start. -/
def unitOff (u va i : Nat) : Nat := (va / u + i) * u - va

theorem unitStarts_eq (u va n : Nat) (hn : n ≠ 0) :
    unitStarts u va n = (List.range ((va + n - 1) / u - va / u + 1)).map fun i => va + unitOff u va i := by
  rw [unitStarts, if_neg hn]
  exact List.map_congr_left fun i _ => by rw [unitOff]; omega

theorem unitOff_lt {u va n i : Nat} (hn : n ≠ 0) (hi : i < (va + n - 1) / u - va / u + 1) : unitOff u va i < n := by
  have h1 : (va / u + i) * u ≤ (va + n - 1) / u * u := Nat.mul_le_mul_right u (by
    have := Nat.div_le_div_right (c := u) (show va ≤ va + n - 1 by omega)
    omega)
  have h2 := Nat.div_mul_le_self (va + n - 1) u
  rw [unitOff]
  omega

/-- Each unit of a span starts within it. -/
theorem exists_of_mem_unitStarts {u va n a : Nat} (h : a ∈ unitStarts u va n) : ∃ i, i < n ∧ a = va + i := by
  by_cases hn : n = 0
  · rw [unitStarts, if_pos hn] at h
    cases h
  · rw [unitStarts_eq u va n hn] at h
    obtain ⟨i, hi, rfl⟩ := List.mem_map.mp h
    exact ⟨_, unitOff_lt hn (List.mem_range.mp hi), rfl⟩

/-- The part of a page in a span reaches to the next page, or to the end of the span. -/
theorem inPage_unitOff (va n i : Nat) : inPage va n (va + unitOff 65536 va i) = min (unitOff 65536 va (i + 1)) n - unitOff 65536 va i := by
  have h : unitOff 65536 va i + (65536 - (va + unitOff 65536 va i) % 65536) = unitOff 65536 va (i + 1) := by
    simp only [unitOff]
    omega
  rw [inPage]
  omega

theorem unitOff_zero (u va : Nat) : unitOff u va 0 = 0 := by
  have := Nat.div_mul_le_self va u
  rw [unitOff, Nat.add_zero]
  omega

theorem le_unitOff_end (va n : Nat) : n ≤ unitOff 65536 va ((va + n - 1) / 65536 - va / 65536 + 1) := by
  rw [unitOff]
  omega

theorem unitOff_mono (u va i : Nat) : unitOff u va i ≤ unitOff u va (i + 1) := by
  have := Nat.mul_le_mul_right u (show va / u + i ≤ va / u + (i + 1) by omega)
  rw [unitOff, unitOff]
  omega

/-! ### Spans in one tile's window (R86) -/

/-- The span lies in the scratchpad of tile `t`, as it is addressed from `base`. -/
def inOneWindow (base va n t : Nat) : Prop := inWindow va = true ∧ windowTile base va = some t ∧ va % 2 ^ 20 + n ≤ 2 ^ 20

theorem inWindow_iff (va : Nat) : inWindow va = true ↔ windowBase ≤ va ∧ va < windowBase + 2 ^ 32 := by
  simp [inWindow]

theorem windowTile_congr {va a : Nat} (base : Nat) (h : nfield a 20 12 = nfield va 20 12) : windowTile base a = windowTile base va := by
  rw [windowTile, h, windowTile]

section
variable {base va n t i : Nat} (h : inOneWindow base va n t)
include h

theorem inWindow_of_inOneWindow (hi : i < n) : inWindow (va + i) = true := by
  obtain ⟨hw, -, hn⟩ := h
  rw [inWindow_iff, windowBase] at hw ⊢
  omega

theorem windowTile_of_inOneWindow (hi : i < n) : windowTile base (va + i) = some t := by
  obtain ⟨-, ht, hn⟩ := h
  rw [windowTile_congr base, ht]
  simp only [nfield]
  omega

theorem engKey_of_inOneWindow (s : State) (ten : Nat) (hi : i < n) : engKey s base (va + i) ten = .ok (spKey t va + i) := by
  have hk : spKey t (va + i) = spKey t va + i := by
    obtain ⟨-, -, hn⟩ := h
    rw [spKey, spKey]
    omega
  rw [engKey, if_pos (inWindow_of_inOneWindow h hi), windowTile_of_inOneWindow h hi, ← hk]

theorem tileOfVa_of_inOneWindow (hi : i < n) : tileOfVa base (va + i) = some t := by
  rw [tileOfVa, if_pos (inWindow_of_inOneWindow h hi), windowTile_of_inOneWindow h hi]

theorem engCheck_of_inOneWindow (s : State) (ten : Nat) : engCheck s base va ten n = (va, .ok 0) := by
  have hf : engFind s base va ten n = (va, .ok 0) := by
    rw [engFind, List.find?_eq_none.mpr fun a ha => ?_]
    obtain ⟨i, hi, rfl⟩ := exists_of_mem_unitStarts ha
    simp [engKey_of_inOneWindow h s ten hi]
  have hu : unwalked s base va n = none := by
    refine List.find?_eq_none.mpr fun a ha => ?_
    obtain ⟨i, hi, rfl⟩ := exists_of_mem_unitStarts ha
    simp [inWindow_of_inOneWindow h hi]
  rw [engCheck, hf, hu]

theorem markDSpan_of_inOneWindow (s : State) : markDSpan base va n s = s := by
  refine List.foldlRecOn (motive := fun t => t = s) _ _ rfl fun u hu a ha => ?_
  obtain ⟨i, hi, rfl⟩ := exists_of_mem_unitStarts ha
  rw [if_pos (inWindow_of_inOneWindow h hi), hu]

end

/-! ### An engine's reads and writes in a window (R411) -/

/-- What a span is read as: the parts of its pages in order, for a reader `f` of the bytes from one offset on. -/
theorem flatMap_inPage {α : Type} (f : Nat → Nat → List α) (hf : ∀ i j, f 0 (i + j) = f 0 i ++ f i j) (va n k : Nat) :
    (List.range k).flatMap (fun i => f (unitOff 65536 va i) (inPage va n (va + unitOff 65536 va i))) = f 0 (min (unitOff 65536 va k) n) := by
  have hnil (i : Nat) : f i 0 = [] := List.self_eq_append_right.mp (hf i 0)
  induction k with
  | zero => rw [unitOff_zero, Nat.zero_min, hnil]; rfl
  | succ k ih =>
    have hm := unitOff_mono 65536 va k
    rw [List.range_succ, List.flatMap_append, ih, List.flatMap_singleton, inPage_unitOff]
    rcases Nat.le_total (unitOff 65536 va k) n with hle | hle
    · rw [Nat.min_eq_left hle, ← hf]
      exact congrArg _ (by omega)
    · rw [Nat.min_eq_right hle, Nat.min_eq_right (hle.trans hm), Nat.sub_eq_zero_of_le hle, hnil, List.append_nil]

theorem foldl_mwrite_inPage (m : List Host.Cell) (key va k : Nat) (bs : List Byte) :
    (List.range k).foldl (fun m i => mwrite m (key + unitOff 65536 va i)
      ((bs.drop (unitOff 65536 va i)).take (inPage va bs.length (va + unitOff 65536 va i)))) m = mwrite m key (bs.take (unitOff 65536 va k)) := by
  induction k with
  | zero => rw [unitOff_zero]; rfl
  | succ k ih =>
    have hm := unitOff_mono 65536 va k
    rw [List.range_succ, List.foldl_append, ih, List.foldl_cons, List.foldl_nil, inPage_unitOff]
    rcases Nat.le_total (unitOff 65536 va k) bs.length with hle | hle
    · have hlen : (bs.take (unitOff 65536 va k)).length = unitOff 65536 va k := List.length_take_of_le hle
      have happ := mwrite_append m key (bs.take (unitOff 65536 va k))
        ((bs.drop (unitOff 65536 va k)).take (min (unitOff 65536 va (k + 1)) bs.length - unitOff 65536 va k))
      rw [hlen, ← List.take_add, Nat.add_sub_cancel' (le_min hm hle), ← List.take_eq_take_min] at happ
      exact happ.symm
    · rw [List.drop_of_length_le hle, List.take_nil, mwrite, List.take_of_length_le hle, List.take_of_length_le (hle.trans hm)]

/-- An engine reads the parts of the pages that are there. -/
theorem engRead_of_keys {s : State} {own ten va n : Nat} {key : Nat → Nat} (h : ∀ a ∈ pageStarts va n, engKey s own a ten = .ok (key a)) :
    engRead s own va ten n = some ((pageStarts va n).flatMap fun a => mread s.mem (key a) (inPage va n a)) := by
  unfold engRead
  generalize pageStarts va n = l at h
  induction l with
  | nil => rfl
  | cons a l ih =>
    rw [List.foldr_cons, ih fun b hb => h b (List.mem_cons_of_mem a hb), h a List.mem_cons_self]
    rfl

/-- And writes them. -/
theorem engWrite_mem_of_keys {own ten va : Nat} {bs : List Byte} {key : Nat → Nat} (s : State) (w : Nat × Nat)
    (h : ∀ a ∈ pageStarts va bs.length, ∀ u, engKey u own a ten = .ok (key a)) : (engWrite own va ten bs s w).mem
      = (pageStarts va bs.length).foldl (fun m a => mwrite m (key a) ((bs.drop (a - va)).take (inPage va bs.length a))) s.mem := by
  unfold engWrite
  generalize pageStarts va bs.length = l at h
  induction l generalizing s with
  | nil => rfl
  | cons a l ih =>
    rw [List.foldl_cons, List.foldl_cons, ih _ fun b hb => h b (List.mem_cons_of_mem a hb), h a List.mem_cons_self]
    simp only [memWrite_mem]

section
variable {base va n t : Nat}

theorem engKey_page_of_inOneWindow (h : inOneWindow base va n t) (ten : Nat) :
    ∀ a ∈ pageStarts va n, ∀ s, engKey s base a ten = .ok (spKey t va + (a - va)) := by
  intro a ha s
  obtain ⟨i, hi, rfl⟩ := exists_of_mem_unitStarts ha
  rw [Nat.add_sub_cancel_left]
  exact engKey_of_inOneWindow h s ten hi

theorem engRead_of_inOneWindow (h : inOneWindow base va n t) (s : State) (ten : Nat) :
    engRead s base va ten n = some (mread s.mem (spKey t va) n) := by
  rw [engRead_of_keys fun a ha => engKey_page_of_inOneWindow h ten a ha s]
  by_cases hn : n = 0
  · subst hn
    rfl
  · rw [pageStarts, unitStarts_eq 65536 va n hn, List.flatMap_map]
    simp only [Nat.add_sub_cancel_left]
    generalize spKey t va = k
    rw [flatMap_inPage (fun i j => mread s.mem (k + i) j) (fun i j => mread_add s.mem k i j),
      Nat.min_eq_right (le_unitOff_end va n), Nat.add_zero]

theorem engWrite_of_inOneWindow {bs : List Byte} (h : inOneWindow base va bs.length t) (s : State) (ten : Nat) (w : Nat × Nat) :
    (engWrite base va ten bs s w).mem = mwrite s.mem (spKey t va) bs := by
  rw [engWrite_mem_of_keys s w (engKey_page_of_inOneWindow h ten)]
  by_cases hn : bs.length = 0
  · rw [List.length_eq_zero_iff.mp hn]
    rfl
  · rw [pageStarts, unitStarts_eq 65536 va _ hn, List.foldl_map]
    simp only [Nat.add_sub_cancel_left]
    rw [foldl_mwrite_inPage, List.take_of_length_le (le_unitOff_end va _)]

end

/-! ### The own window (R86) -/

theorem ownBase_eq : ownBase = 0xFF00007FF00000 := rfl

theorem windowTile_ownBase {off : Nat} (own : Nat) (h : off < 2 ^ 20) : windowTile own (ownBase + off) = some own := by
  have hf : nfield (ownBase + off) 20 12 = 0x7FF := by
    rw [ownBase_eq]
    simp only [nfield]
    omega
  simp only [windowTile, hf]
  rfl

/-- A span of the own scratchpad. -/
theorem inOneWindow_own {off n : Nat} (own : Nat) (hn : 0 < n) (h : off + n ≤ 2 ^ 20) : inOneWindow own (ownBase + off) n own := by
  refine ⟨?_, windowTile_ownBase own (by omega), ?_⟩
  · rw [inWindow_iff, ownBase_eq, windowBase]
    omega
  · rw [ownBase_eq]
    omega

theorem spKey_ownBase (tid off : Nat) : spKey tid (ownBase + off) = spKey tid off := by
  rw [spKey, spKey, ownBase_eq]
  omega

/-! ### The end of a command (R263) -/

theorem modCmd_leaves {β : Type} (φ : State → β) (h : ∀ (s : State) (c : Tab Cmd), φ { s with cmds := c } = φ s) (id : Nat) (f : Cmd → Cmd)
    (s : State) : φ (modCmd id f s) = φ s := by
  unfold modCmd
  split
  · exact h ..
  · rfl

section
variable {β : Type} (φ : State → β)
  (h : ∀ (s : State) (c : Tab Cmd) (q : Tab Tile) (l : List (Nat × Instr × EvArg)), φ { s with cmds := c, tiles := q, agenda := l } = φ s)
include h

theorem endCmd_leaves (id : Nat) (s : State) : φ (endCmd id s) = φ s := by
  have hc (s : State) (c : Tab Cmd) (l : List (Nat × Instr × EvArg)) : φ { s with cmds := c, agenda := l } = φ s := h s c s.tiles l
  unfold endCmd
  split
  · rfl
  · dsimp only
    split
    · split
      · exact h s _ _ s.agenda
      · rw [copyStart_leaves φ hc]
        exact h s _ _ s.agenda
    · exact hc s _ s.agenda

/-- A command without an element and that is no exchange put ends at once. -/
theorem complete_leaves {c : Cmd} (hc : c.cpl = false) (hx : c.xchg = false) (id tag : Nat) (remote : Bool) (s : State) :
    φ (complete id c tag remote s) = φ s := by
  rw [complete, hx, hc]
  exact (endCmd_leaves φ h ..).trans (modCmd_leaves φ (fun s c => h s c s.tiles s.agenda) ..)

end

theorem complete_find {c : Cmd} (hc : c.cpl = false) (hx : c.xchg = false) (id tag : Nat) (remote : Bool) (s : State) :
    tfind (complete id c tag remote s).cmds id = none := by
  rw [complete, hx, hc]
  exact endCmd_find ..

/-! ### Messages to another package (R445) -/

/-- A message is recorded as packets that are like it. -/
theorem postPackets_find (k : Packet) (t : Nat) (s : State) : ∃ id p, tfind (postPackets k t s).pkts id = some p ∧ p.ev = k.ev ∧ p.arg = k.arg
    ∧ p.fk = k.fk ∧ p.dst = k.dst := by
  unfold postPackets
  dsimp only
  have hne : (packetBytes k.bytes).zipIdx ≠ [] := by simp [packetBytes]
  rw [← List.dropLast_concat_getLast hne, List.foldl_append]
  exact ⟨_, _, tfind_tput_self .., rfl, rfl, rfl, rfl⟩

section
variable {p q : Nat} (vc bytes t : Nat) (ev : Instr) (arg : EvArg) (s : State)

theorem overLink_due (h : p = q) : due (overLink p q vc bytes t ev arg s) t ev arg := by
  rw [overLink, if_pos h]
  exact due_post ..

theorem overLink_find (h : p ≠ q) : ∃ id k, tfind (overLink p q vc bytes t ev arg s).pkts id = some k ∧ k.ev = ev ∧ k.arg = arg
    ∧ k.fk = p * 2 ∧ k.dst = q := by
  rw [overLink, if_neg h]
  exact postPackets_find ..

end

/-! ### A copy (R260) -/

/-- A copy between spans that do not overlap moves each byte, and no other byte changes. -/
theorem copyBytes_of_keys {sid own ten n src dst ks kd : Nat} {s : State} (hs : ∀ i, i < n → ∀ u, engKey u own (src + i) ten = .ok (ks + i))
    (hd : ∀ i, i < n → ∀ u, engKey u own (dst + i) ten = .ok (kd + i)) (hk : ks + n ≤ kd ∨ kd + n ≤ ks) (hw : Memory.wf s.mem = true) :
    let t := copyBytes sid own src dst ten n s
    (∀ i, i < n → mget t.mem (kd + i) = mget s.mem (ks + i)) ∧ keepsOutside s t kd n := by
  induction n generalizing src dst ks kd s with
  | zero => exact ⟨fun i hi => absurd hi (Nat.not_lt_zero i), fun a _ => rfl⟩
  | succ n ih =>
    have hs0 := hs 0 (Nat.succ_pos n) s
    have hd0 := hd 0 (Nat.succ_pos n) s
    simp only [Nat.add_zero] at hs0 hd0
    rw [copyBytes, hs0, hd0]
    dsimp only
    obtain ⟨hm, ho⟩ := ih (src := src + 1) (dst := dst + 1) (ks := ks + 1) (kd := kd + 1)
      (s := memWrite kd [mget s.mem ks] s (strandWriter sid s.now)) (fun i hi u => by
        have := hs (i + 1) (by omega) u
        rwa [← Nat.add_assoc, Nat.add_right_comm, ← Nat.add_assoc, Nat.add_right_comm ks] at this) (fun i hi u => by
        have := hd (i + 1) (by omega) u
        rwa [← Nat.add_assoc, Nat.add_right_comm, ← Nat.add_assoc, Nat.add_right_comm kd] at this) (by omega) (memWrite_wf hw ..)
    have h1 : (memWrite kd [mget s.mem ks] s (strandWriter sid s.now)).mem = mset s.mem kd (mget s.mem ks) := memWrite_mem ..
    refine ⟨fun i hi => ?_, fun a ha => ?_⟩
    · rcases i with _ | i
      · exact (ho kd (by omega)).trans (h1 ▸ mget_mset_self hw ..)
      · rw [show kd + (i + 1) = kd + 1 + i by omega, hm i (by omega), h1, mget_mset_of_ne _ _ (by omega)]
        congr 1
        omega
    · rw [ho a (by omega), h1, mget_mset_of_ne _ _ (by omega)]

theorem copyRows_one (sid own src dst : Nat) (ss ds : Int) (ten len : Nat) (s : State) :
    copyRows sid own src dst ss ds ten len 0 len 1 s = copyBytes sid own src dst ten len (markDSpan own dst len s) := by
  simp [copyRows]

theorem rowVas_one (va : Nat) (stride : Int) : rowVas va stride 1 = [va] := by simp [rowVas]

theorem wfield_ownBase {off : Nat} (h : off ≤ 2 ^ 20) : wfield (word (ownBase + off)) 0 56 = ownBase + off := by
  rw [ownBase_eq]
  simp only [wfield, nfield, word, BitVec.toNat_ofNat]
  omega

theorem spKey_add {off i : Nat} (tid : Nat) (h : off + i < 2 ^ 20) : spKey tid (off + i) = spKey tid off + i := by
  rw [spKey, spKey]
  omega

theorem engRouter_own (s : State) {own va n : Nat} (ten part : Nat) (h : inOneWindow own va n own) : engRouter s own va n ten part = none := by
  refine List.findSome?_eq_none_iff.mpr fun a ha => ?_
  obtain ⟨i, hi, rfl⟩ := exists_of_mem_unitStarts ha
  simp [tileOfVa_of_inOneWindow h hi]

section
variable {s : State} {c : Cmd} {so ds len : Nat} (hsrc : c.desc.getD 0 0#64 = word (ownBase + so))
  (hdst : c.desc.getD 1 0#64 = word (ownBase + ds)) (hlen : wfield (c.desc.getD 2 0#64) 0 20 = len)
  (hrows : wfield (c.desc.getD 2 0#64) 20 16 = 1) (h0 : 0 < len) (hs : so + len ≤ 2 ^ 20) (hd : ds + len ≤ 2 ^ 20)
include hsrc hdst hlen hrows h0 hs hd

/-- A copy within the own scratchpad may go at once. -/
theorem copyCan_own : copyCan s c = .go := by
  have hws := inOneWindow_own (tidOfC (cidOf c.sid)) h0 hs
  have hwd := inOneWindow_own (tidOfC (cidOf c.sid)) h0 hd
  have hfind {va : Nat} (ten : Nat) (hv : inOneWindow (tidOfC (cidOf c.sid)) va len (tidOfC (cidOf c.sid))) :
      copyRowsFind s (tidOfC (cidOf c.sid)) ten len [va] = (0, .ok 0) := by
    simp [copyRowsFind, engCheck_of_inOneWindow hv]
  simp only [copyCan, hsrc, hdst, hlen, hrows, wfield_ownBase (show so ≤ 2 ^ 20 by omega), wfield_ownBase (show ds ≤ 2 ^ 20 by omega),
    rowVas_one, List.cons_append, List.nil_append, List.findSome?_cons, List.findSome?_nil, engRouter_own s _ _ hws,
    engRouter_own s _ _ hwd, hfind _ hws, hfind _ hwd]

/-- It moves its bytes in the pages of the window, which take no D. -/
theorem copyMove_own : copyMove c 0 (copyTotal c.desc) s = copyBytes c.sid (tidOfC (cidOf c.sid)) (ownBase + so) (ownBase + ds)
    (coreAt s (cidOf c.sid)).tenant len s := by
  have hwd := inOneWindow_own (tidOfC (cidOf c.sid)) h0 hd
  simp only [copyMove, copyTotal, hsrc, hdst, hlen, hrows, wfield_ownBase (show so ≤ 2 ^ 20 by omega),
    wfield_ownBase (show ds ≤ 2 ^ 20 by omega), Nat.mul_one, copyRows_one, markDSpan_of_inOneWindow hwd]

theorem copyMove_own_spec (hw : s.memOk) (hdis : so + len ≤ ds ∨ ds + len ≤ so) : let t := copyMove c 0 (copyTotal c.desc) s
    (∀ i, i < len → mget t.mem (spKey (tidOfC (cidOf c.sid)) (ds + i)) = mget s.mem (spKey (tidOfC (cidOf c.sid)) (so + i)))
    ∧ keepsOutside s t (spKey (tidOfC (cidOf c.sid)) ds) len ∧ traceKeeps s t := by
  rw [copyMove_own hsrc hdst hlen hrows h0 hs hd]
  have hws := inOneWindow_own (tidOfC (cidOf c.sid)) h0 hs
  have hwd := inOneWindow_own (tidOfC (cidOf c.sid)) h0 hd
  obtain ⟨hm, ho⟩ := copyBytes_of_keys (sid := c.sid) (ten := (coreAt s (cidOf c.sid)).tenant)
    (fun i hi u => engKey_of_inOneWindow hws u _ hi) (fun i hi u => engKey_of_inOneWindow hwd u _ hi)
    (by simp only [spKey]; omega) hw.1
  rw [spKey_ownBase] at ho
  refine ⟨fun i hi => ?_, ho, copyBytes_traceKeeps ..⟩
  rw [spKey_add _ (by omega), spKey_add _ (by omega), ← spKey_ownBase _ ds, ← spKey_ownBase _ so]
  exact hm i hi

/-- COPY_COMPLETE of the copy at the head of its channel. -/
theorem exec_copyComplete_own (hf : tfind s.cmds s.ev.a = some c) (hst : c.status = 0) (hpl : c.placed = false) (hoff : c.off = 0)
    (hstep : c.step = s.ev.b) (hflag : s.ev.flag = false) (hq : s.ev.a ∈ (tileAt s c.tile).copyq.getD c.ch [])
    (hrel : released s c.entries = true) : exec .copyComplete s
      = .next (complete s.ev.a c (wfield (c.desc.getD 2 0#64) 36 16) false (copyMove c 0 (copyTotal c.desc) s)) := by
  have hcan : copyCan s c = .go := copyCan_own hsrc hdst hlen hrows h0 hs hd
  have htot : copyTotal c.desc ≠ 0 := by
    rw [copyTotal, hlen, hrows]
    omega
  have hin : ((tileAt s c.tile).copyq.getD c.ch []).contains s.ev.a = true := List.contains_iff_mem.mpr hq
  show execCopyComplete s = _
  simp only [execCopyComplete, readErrorCmd, hflag, Bool.false_eq_true, if_false, hf, hin, hstep, hpl, hst, hrel, htot, hcan, hoff,
    Bool.not_true, ne_eq, not_true_eq_false, or_self]

end

theorem copyComplete_own_spec {s : State} {c : Cmd} {so ds len : Nat} (hw : s.memOk) (hf : tfind s.cmds s.ev.a = some c)
    (htile : c.tile = tidOfC (cidOf c.sid)) (hst : c.status = 0) (hcpl : c.cpl = false) (hx : c.xchg = false) (hpl : c.placed = false)
    (hoff : c.off = 0) (hstep : c.step = s.ev.b) (hflag : s.ev.flag = false) (hq : s.ev.a ∈ (tileAt s c.tile).copyq.getD c.ch [])
    (hrel : released s c.entries = true) (hsrc : c.desc.getD 0 0#64 = word (ownBase + so)) (hdst : c.desc.getD 1 0#64 = word (ownBase + ds))
    (hlen : wfield (c.desc.getD 2 0#64) 0 20 = len) (hrows : wfield (c.desc.getD 2 0#64) 20 16 = 1) (h0 : 0 < len)
    (hs : so + len ≤ 2 ^ 20) (hd : ds + len ≤ 2 ^ 20) (hdis : so + len ≤ ds ∨ ds + len ≤ so) :
    ∃ t, exec .copyComplete s = .next t ∧ (∀ i, i < len → mget t.mem (spKey c.tile (ds + i)) = mget s.mem (spKey c.tile (so + i)))
      ∧ keepsOutside s t (spKey c.tile ds) len ∧ tfind t.cmds s.ev.a = none ∧ t.g = s.g := by
  obtain ⟨hm, ho, hk⟩ := copyMove_own_spec hsrc hdst hlen hrows h0 hs hd hw hdis
  rw [← htile] at hm ho
  refine ⟨_, exec_copyComplete_own hsrc hdst hlen hrows h0 hs hd hf hst hpl hoff hstep hflag hq hrel, ?_, ?_, complete_find hcpl hx ..,
    (complete_leaves State.g (fun _ _ _ _ => rfl) hcpl hx ..).trans (by rw [hk.1])⟩
  · rwa [complete_leaves State.mem (fun _ _ _ _ => rfl) hcpl hx]
  · unfold keepsOutside
    rwa [complete_leaves State.mem (fun _ _ _ _ => rfl) hcpl hx]

/-! ### Completion elements (R263) -/

/-- A held element finds a free slot and is placed. -/
theorem exec_completionElementPlace_of_free {s : State} {c : Cmd} {h : Nat} (hf : tfind s.cmds s.ev.c = some c)
    (haway : cmdAway s c = false) (hlive : cmdLive s c = true) (hport : cplHandle s c.sid c.eng c.ch = some h)
    (hfree : ringFilled s c.sid (hGet s c.sid h) < 2 ^ (hGet s c.sid h).sz) : exec .completionElementPlace s
      = .next (if s.ev.flag = true then endCmd s.ev.c (ringPush c.sid h s.ev.w s)
          else modCmd s.ev.c (fun c => { c with elem := true }) (ringPush c.sid h s.ev.w s)) := by
  have hroom : decide (2 ^ (hGet s c.sid h).sz ≤ ringFilled s c.sid (hGet s c.sid h)) = false := decide_eq_false (by omega)
  show execCompletionElementPlace s = _
  simp [execCompletionElementPlace, emit, hf, haway, hlive, hport, hroom]

theorem ringPush_spec {s : State} (hw : s.memOk) (sid h : Nat) (x : Word) :
    let r := hGet s sid h
    let t := ringPush sid h x s
    mem64 t (ringSlotKey sid r (ringWr s sid r)) = x ∧ ringWr t sid r = (ringWr s sid r + 1) % 2 ^ 64 := by
  intro r t
  let key := ringSlotKey sid r (ringWr s sid r)
  let u := memSet64 key x s
  have hkey : ringKey sid r + 8 + 8 ≤ key := by
    show _ ≤ ringKey sid r + 16 + _
    omega
  have hcount : mem64 u (ringKey sid r + 8) = mem64 s (ringKey sid r + 8) := mem64_of_keepsOutside (memSet64_keepsOutside key x s) (.inl hkey)
  have hu : u.memOk := ⟨memWrite_wf hw.1 .., by rw [show u.ssd = s.ssd from memWrite_ssd ..]; exact hw.2⟩
  have ht (k : Nat) : mem64 t k = mem64 (memSet64 (ringKey sid r + 8) (mem64 u (ringKey sid r + 8) + word 1) u) k := rfl
  refine ⟨?_, ?_⟩
  · rw [ht, mem64_of_keepsOutside (memSet64_keepsOutside _ _ _) (.inr hkey)]
    exact mem64_memSet64_self hw key x
  · rw [ringWr, ht, mem64_memSet64_self hu, hcount, BitVec.toNat_add]
    rfl

/-! ### The remote side of a transfer (R261, R398) -/

theorem tKey_of_tTarget {s : State} {p q : Nat} {d : List Word} (h : tTarget s p d = some q) : tKey s d = q := by
  unfold tTarget at h
  split at h
  next r hr =>
    split at h
    · rw [tKey, hr]
      exact Option.some.inj h
    · cases h
  next => cases h

/-- A command that its remote side may serve, with its key there. -/
theorem serveRemote_of_ok {s : State} {c : Cmd} {n q va key : Nat} {wait : Bool} (ev : Instr) (act : Nat → Cmd → Nat → State → State)
    (hf : tfind s.cmds s.ev.a = some c) (hb : ¬ (s.ev.b = 1 ∧ wait = true)) (hrel : (wait && !released s c.entries) = false)
    (hst : c.status = 0) (ht : tTarget s (tidOfC (cidOf c.sid) / 2048) c.desc = some q)
    (hk : remoteCheck s (tidOfC (cidOf c.sid)) q (tRemote c.desc) n (coreAt s (cidOf c.sid)).tenant (coreAt s (cidOf c.sid)).part
      = (va, .ok key)) : serveRemote ev n wait act s = .next (act s.ev.a c key s) := by
  simp only [serveRemote, hf, if_neg hb, ht, hrel, Bool.false_eq_true, if_false, hst, ne_eq, not_true_eq_false, hk]

/-- The event of an answer that comes back. -/
def answerEv (c : Cmd) : Instr := if c.op = 21 then .putRemoteComplete else .getComplete

section
variable {c : Cmd} (id : Nat) (s : State)

theorem answerBack_leaves {β : Type} (φ : State → β)
    (h : ∀ (s : State) (n : Nat) (a : List (Nat × Instr × EvArg)) (p : Tab Packet), φ { s with nextId := n, agenda := a, pkts := p } = φ s)
    (id : Nat) (c : Cmd) (s : State) : φ (answerBack id c s) = φ s := overLink_leaves φ h ..

theorem answerBack_due (h : tKey s c.desc = tidOfC (cidOf c.sid) / 2048) :
    due (answerBack id c s) (s.now + (tLeg s (tidOfC (cidOf c.sid)) c.desc).2) (answerEv c) { a := id } := by
  have hd := overLink_due (if (if c.op = 21 then 8 else tLen c.desc) ≤ 56 then 1 else 2) (if c.op = 21 then 8 else tLen c.desc)
    (s.now + (tLeg s (tidOfC (cidOf c.sid)) c.desc).2) (answerEv c) { a := id } s h
  simpa only [answerBack, answerEv, h, true_or, if_true, Nat.add_zero] using hd

theorem answerBack_find (h : tKey s c.desc ≠ tidOfC (cidOf c.sid) / 2048) : ∃ i k, tfind (answerBack id c s).pkts i = some k
    ∧ k.ev = answerEv c ∧ k.arg = { a := id } ∧ k.fk = tKey s c.desc * 2 ∧ k.dst = tidOfC (cidOf c.sid) / 2048 :=
  overLink_find _ _ _ _ _ s h

end

theorem exec_getRequestServe_of_sent {s : State} {c : Cmd} (hf : tfind s.cmds s.ev.a = some c) (hb : s.ev.b = 1) (hflag : s.ev.flag = false) :
    exec .getRequestServe s = .next (sendRequest .getRequestServe s.ev.a c s) := by
  show execGetRequestServe s = _
  simp [execGetRequestServe, serveRemote, readErrorCmd, hflag, hf, hb]

section
variable {s : State} {c : Cmd} {q va key : Nat} (hf : tfind s.cmds s.ev.a = some c) (hb : s.ev.b ≠ 1) (hst : c.status = 0)
  (ht : tTarget s (tidOfC (cidOf c.sid) / 2048) c.desc = some q)
  (hk : remoteCheck s (tidOfC (cidOf c.sid)) q (tRemote c.desc) (tLen c.desc) (coreAt s (cidOf c.sid)).tenant
    (coreAt s (cidOf c.sid)).part = (va, .ok key)) (hrel : released s c.entries = true)
include hf hb hst ht hk hrel

theorem exec_getRequestServe_of_ok (hflag : s.ev.flag = false) : exec .getRequestServe s = .next (modCmd s.ev.a
    (fun b => { b with data := remoteRead s (tidOfC (cidOf c.sid)) q (tRemote c.desc) (tLen c.desc) (coreAt s (cidOf c.sid)).tenant })
    (answerBack s.ev.a c s)) := by
  show execGetRequestServe s = _
  simp only [execGetRequestServe, readErrorCmd, hflag, Bool.false_eq_true, if_false, hf]
  rw [serveRemote_of_ok _ _ hf (fun h => hb h.1) (by rw [hrel]; rfl) hst ht hk, tKey_of_tTarget ht]

theorem getRequestServe_spec (hflag : s.ev.flag = false) (hop : c.op ≠ 21) : ∃ t b, exec .getRequestServe s = .next t
    ∧ tfind t.cmds s.ev.a = some b
    ∧ b.data = remoteRead s (tidOfC (cidOf c.sid)) q (tRemote c.desc) (tLen c.desc) (coreAt s (cidOf c.sid)).tenant
    ∧ (tKey s c.desc = tidOfC (cidOf c.sid) / 2048 → due t (s.now + (tLeg s (tidOfC (cidOf c.sid)) c.desc).2) .getComplete { a := s.ev.a })
    ∧ (tKey s c.desc ≠ tidOfC (cidOf c.sid) / 2048 → ∃ id k, tfind t.pkts id = some k ∧ k.ev = .getComplete ∧ k.arg = { a := s.ev.a }
        ∧ k.fk = tKey s c.desc * 2 ∧ k.dst = tidOfC (cidOf c.sid) / 2048) ∧ t.mem = s.mem := by
  have hev : answerEv c = .getComplete := if_neg hop
  have hfound : tfind (answerBack s.ev.a c s).cmds s.ev.a = some c :=
    (answerBack_leaves (fun u => tfind u.cmds s.ev.a) (fun _ _ _ _ => rfl) ..).trans hf
  refine ⟨_, _, exec_getRequestServe_of_ok hf hb hst ht hk hrel hflag, modCmd_find_of_some hfound, rfl, fun h => ?_, fun h => ?_,
    (modCmd_mem ..).trans (answerBack_leaves State.mem (fun _ _ _ _ => rfl) ..)⟩
  · rw [due, modCmd_agenda, ← hev]
    exact answerBack_due s.ev.a s h
  · rw [modCmd_leaves State.pkts (fun _ _ => rfl), ← hev]
    exact answerBack_find s.ev.a s h

theorem exec_remoteAtomicServe_of_ok (hal : tRemote c.desc % tLen c.desc = 0) :
    exec .remoteAtomicServe s = .next (engineAtom s.ev.a c (tLen c.desc) key s) := by
  show execRemoteAtomicServe s = _
  simp only [execRemoteAtomicServe, hf, hal, bne_self_eq_false, Bool.false_eq_true, if_false]
  exact serveRemote_of_ok _ _ hf (fun h => hb h.1) (by rw [hrel]; rfl) hst ht hk

theorem remoteAtomicServe_spec (hal : tRemote c.desc % tLen c.desc = 0) : ∃ t a, exec .remoteAtomicServe s = .next t
    ∧ tfind t.accs s.nextId = some a ∧ a.kind = (if tAop c.desc = 12 then .cas else .atom) ∧ a.size = tLen c.desc ∧ a.key = some key
    ∧ (1 ≤ tAop c.desc → tAop c.desc ≤ 11 → a.op = tAop c.desc - 1)
    ∧ a.data = natBytes (tLen c.desc) (c.desc.getD 3 0#64).toNat
    ∧ a.cmp = natBytes (tLen c.desc) c.result.toNat ∧ a.ret = .engine s.ev.a
    ∧ a.ansLat = (if tKey s c.desc = pkgOfC (cidOf c.sid) then (tLeg s (tidOfC (cidOf c.sid)) c.desc).2 else (tLen c.desc + 79) / 80)
    ∧ due t s.now .atomicPerform { a := s.nextId } ∧ t.mem = s.mem ∧ t.g = s.g := by
  refine ⟨_, _, exec_remoteAtomicServe_of_ok hf hb hst ht hk hrel hal, tfind_tput_self .., rfl, rfl, rfl, fun h1 h2 => ?_, rfl, rfl, rfl, rfl,
    due_post .., rfl, rfl⟩
  show [0, 0, 1, 2, 3, 4, 5, 6, 7, 8, 9, 10].getD (tAop c.desc) 0 = _
  generalize tAop c.desc = n at h1 h2
  interval_cases n <;> rfl

end

/-! ### The old value of a remote atomic (R261) -/

theorem loadResult_engine_spec {s : State} {a : Acc} {id : Nat} {c : Cmd} (ha : tfind s.accs s.ev.a = some a) (haway : accAway s s.ev.a = false)
    (hret : a.ret = .engine id) (hkind : a.kind = .atom ∨ a.kind = .cas) (hx : a.xchg = false) (hflag : s.ev.flag = false)
    (hf : tfind s.cmds id = some c) : ∃ t b, exec .loadResult s = .next t ∧ tfind t.cmds id = some b ∧ b.data = a.data
      ∧ (a.dpkg = pkgOfC (cidOf a.sid) → due t s.now .getComplete { a := id })
      ∧ (a.dpkg ≠ pkgOfC (cidOf a.sid) → ∃ i k, tfind t.pkts i = some k ∧ k.ev = .getComplete ∧ k.arg = { a := id }
          ∧ k.dst = pkgOfC (cidOf a.sid)) ∧ tfind t.accs s.ev.a = none ∧ t.mem = s.mem := by
  let u := modCmd id (fun c => { c with data := a.data }) { s with accs := tdel s.accs s.ev.a }
  let back := s.now + (if a.dpkg = pkgOfC (cidOf a.sid) then 0 else crossing s a.dpkg (pkgOfC (cidOf a.sid)))
  have hexec : exec .loadResult s = .next (overLink a.dpkg (pkgOfC (cidOf a.sid)) 1 8 back .getComplete { a := id } u) := by
    rw [exec_loadResult_of_here haway, if_neg (ne_true_of_eq_false hflag)]
    simp only [answerAcc, ha, hx, hret, hkind, Bool.false_eq_true, if_false, if_true]
    rfl
  have hk {β : Type} (φ : State → β) (h : ∀ (s : State) (n : Nat) (l : List (Nat × Instr × EvArg)) (p : Tab Packet),
      φ { s with nextId := n, agenda := l, pkts := p } = φ s) :=
    overLink_leaves φ h a.dpkg (pkgOfC (cidOf a.sid)) 1 8 back .getComplete { a := id } u
  refine ⟨_, _, hexec, (hk (fun u => tfind u.cmds id) fun _ _ _ _ => rfl).trans (modCmd_find_of_some hf), rfl, fun h => ?_, fun h => ?_, ?_, ?_⟩
  · have hback : back = s.now := congrArg (s.now + ·) (if_pos h)
    exact hback ▸ overLink_due 1 8 back .getComplete { a := id } u h
  · obtain ⟨i, k, hi, hev, harg, -, hdst⟩ := overLink_find 1 8 back .getComplete { a := id } u h
    exact ⟨i, k, hi, hev, harg, hdst⟩
  · rw [hk State.accs fun _ _ _ _ => rfl, show u.accs = tdel s.accs s.ev.a from modCmd_leaves State.accs (fun _ _ => rfl) ..]
    exact tfind_tdel_self ..
  · exact (hk State.mem fun _ _ _ _ => rfl).trans (modCmd_mem ..)

/-! ### GET's data at LOCAL (R261) -/

/-- The bytes written in a window stand there, and no other byte changed. -/
theorem engWrite_window_spec {base va t ten : Nat} {bs : List Byte} {s u : State} (hw : s.memOk) (h : inOneWindow base va bs.length t)
    (w : Nat × Nat) (hu : u.mem = (engWrite base va ten bs s w).mem) :
    mread u.mem (spKey t va) bs.length = bs ∧ keepsOutside s u (spKey t va) bs.length := by
  have hm : u.mem = mwrite s.mem (spKey t va) bs := hu.trans (engWrite_of_inOneWindow h s ten w)
  exact ⟨hm ▸ mread_mwrite hw.1 _ bs, keepsOutside_of_mwrite hm⟩

theorem getComplete_own_spec {s : State} {c : Cmd} {off : Nat} (hw : s.memOk) (hf : tfind s.cmds s.ev.a = some c) (hst : c.status = 0)
    (hcpl : c.cpl = false) (hx : c.xchg = false) (hpl : c.placed = false) (hd : c.data ≠ []) (hl : tLocal c.desc = ownBase + off)
    (hlen : off + c.data.length ≤ 2 ^ 20) : ∃ t, exec .getComplete s = .next t
      ∧ mread t.mem (spKey (tidOfC (cidOf c.sid)) off) c.data.length = c.data
      ∧ keepsOutside s t (spKey (tidOfC (cidOf c.sid)) off) c.data.length ∧ tfind t.cmds s.ev.a = none := by
  have hwin := inOneWindow_own (tidOfC (cidOf c.sid)) (List.length_pos_iff.mpr hd) hlen
  let written := engWrite (tidOfC (cidOf c.sid)) (ownBase + off) (coreAt s (cidOf c.sid)).tenant c.data s (strandWriter c.sid s.now)
  have hexec : exec .getComplete s = .next (complete s.ev.a c (tTag c.desc) false written) := by
    show execGetComplete s = _
    simp only [execGetComplete, hf, hpl, hst, hd, hl, Bool.false_eq_true, if_false, ne_eq, not_true_eq_false, or_self,
      engCheck_of_inOneWindow hwin, markDSpan_of_inOneWindow hwin]
    rfl
  obtain ⟨hr, ho⟩ := engWrite_window_spec (u := complete s.ev.a c (tTag c.desc) false written) hw hwin (strandWriter c.sid s.now)
    (complete_leaves State.mem (fun _ _ _ _ => rfl) hcpl hx ..)
  rw [spKey_ownBase] at hr ho
  exact ⟨_, hexec, hr, ho, complete_find hcpl hx ..⟩

/-! ### PUT (R261, R444, R473) -/

theorem exec_putLocalComplete_of_entered {s : State} {c : Cmd} (hf : tfind s.cmds s.ev.a = some c) (hb : s.ev.b = 1)
    (hl : wfield (c.desc.getD 2 0#64) 45 1 = 0) :
    exec .putLocalComplete s = .next (modCmd s.ev.a (fun c => { c with slotFree := true }) s) := by
  show execPutLocalComplete s = _
  simp only [execPutLocalComplete, hf, hb, hl, if_true]
  rfl

/-- The PUT's data has been read. -/
def putRead (id : Nat) (bs : List Byte) (s : State) : State := modCmd id (fun c => { c with data := bs, step := 2 }) s

/-- The data of a PUT leaves its tile: to the retransmission store, or to its location in the package. -/
def putLeaves (id own : Nat) (far : Bool) (d : List Word) (s : State) : State :=
  if far then post (s.now + 1) .putLocalComplete { a := id, b := 1 }
    (sendPkt (ferOfTile own) (tKey s d) (tLen d) (tLeg s own d).1 .putDataArrival { a := id } s.now s)
  else post (s.now + (tLeg s own d).1) .putDataArrival { a := id } (modCmd id (fun c => { c with slotFree := true }) s)

section
variable {s : State} {c : Cmd} {off : Nat} (hf : tfind s.cmds s.ev.a = some c) (hl : wfield (c.desc.getD 2 0#64) 45 1 = 0)
  (hrel : released s c.entries = true) (hheld : engHeld s s.ev.a c = false) (hb : s.ev.b = 0) (hflag : s.ev.flag = false)
  (haway : c.step ≠ 1 ∨ cmdAway s c = false) (h0 : 0 < tLen c.desc) (hloc : tLocal c.desc = ownBase + off)
  (hlen : off + tLen c.desc ≤ 2 ^ 20)
  (hroom : storePath s (tidOfC (cidOf c.sid)) c.desc = 0 ∨ storeRoom s (ferOfTile (tidOfC (cidOf c.sid))) (tLen c.desc) = true)
include hf hl hrel hheld hb hflag haway h0 hloc hlen hroom

theorem exec_putLocalComplete_own : exec .putLocalComplete s = .next (putLeaves s.ev.a (tidOfC (cidOf c.sid))
    (storePath s (tidOfC (cidOf c.sid)) c.desc != 0) c.desc
    (putRead s.ev.a (mread s.mem (spKey (tidOfC (cidOf c.sid)) off) (tLen c.desc)) s)) := by
  have hwin := inOneWindow_own (tidOfC (cidOf c.sid)) h0 hlen
  have hstep : (c.step == 1 && cmdAway s c) = false := by
    rcases haway with h | h <;> simp [h]
  have hgo : (storePath s (tidOfC (cidOf c.sid)) c.desc != 0 && !storeRoom s (ferOfTile (tidOfC (cidOf c.sid))) (tLen c.desc)) = false := by
    rcases hroom with h | h <;> simp [h]
  have h1 : ¬ s.ev.b = 1 := by omega
  show execPutLocalComplete s = _
  simp only [execPutLocalComplete, hf, if_neg h1, if_neg h0.ne', hrel, hheld, hstep, hl, hloc, hgo, hflag, engCheck_of_inOneWindow hwin,
    engRead_of_inOneWindow hwin, spKey_ownBase, Bool.not_true, Bool.or_self, Bool.false_eq_true, if_false, Option.getD_some]
  rfl

theorem putLocalComplete_own_spec : ∃ t b, exec .putLocalComplete s = .next t ∧ tfind t.cmds s.ev.a = some b
    ∧ b.data = mread s.mem (spKey (tidOfC (cidOf c.sid)) off) (tLen c.desc)
    ∧ (storePath s (tidOfC (cidOf c.sid)) c.desc = 0 → b.slotFree = true
        ∧ due t (s.now + (tLeg s (tidOfC (cidOf c.sid)) c.desc).1) .putDataArrival { a := s.ev.a })
    ∧ (storePath s (tidOfC (cidOf c.sid)) c.desc ≠ 0 → due t (s.now + 1) .putLocalComplete { a := s.ev.a, b := 1 }) ∧ t.mem = s.mem := by
  have hexec := exec_putLocalComplete_own hf hl hrel hheld hb hflag haway h0 hloc hlen hroom
  let bs := mread s.mem (spKey (tidOfC (cidOf c.sid)) off) (tLen c.desc)
  let u := putRead s.ev.a bs s
  have hu : tfind u.cmds s.ev.a = some { c with data := bs, step := 2 } := modCmd_find_of_some hf
  have hleaves {β : Type} (φ : State → β) (h : ∀ (s : State) (l : Tab Cmd), φ { s with cmds := l } = φ s) : φ u = φ s :=
    modCmd_leaves φ h ..
  have hnow : u.now = s.now := hleaves State.now fun _ _ => rfl
  have hleg : tLeg u (tidOfC (cidOf c.sid)) c.desc = tLeg s (tidOfC (cidOf c.sid)) c.desc := hleaves (tLeg · _ c.desc) fun _ _ => rfl
  have hmem : u.mem = s.mem := hleaves State.mem fun _ _ => rfl
  by_cases hs : storePath s (tidOfC (cidOf c.sid)) c.desc = 0
  · rw [putLeaves, if_neg (by rw [hs]; exact Bool.false_ne_true), hnow, hleg] at hexec
    exact ⟨_, _, hexec, modCmd_find_of_some hu, rfl, fun _ => ⟨rfl, due_post ..⟩, fun h => absurd hs h, (modCmd_mem ..).trans hmem⟩
  · rw [putLeaves, if_pos (bne_iff_ne.mpr hs), hnow] at hexec
    exact ⟨_, _, hexec, (postPackets_leaves _ _ _ (fun u => tfind u.cmds s.ev.a) fun _ _ _ _ => rfl).trans hu, rfl, fun h => absurd h hs,
      fun _ => due_post .., (postPackets_leaves _ _ _ State.mem fun _ _ _ _ => rfl).trans hmem⟩

end

/-- A remote side that answers with the key of a window span. -/
theorem inOneWindow_of_remoteCheck {s : State} {own q va n ten part key : Nat} (hwin : inWindow va = true) (hn : va % 2 ^ 20 + n ≤ 2 ^ 20)
    (hk : remoteCheck s own q va n ten part = (va, .ok key)) : ∃ t, inOneWindow (remoteBase own q) va n t ∧ key = spKey t va := by
  unfold remoteCheck at hk
  split at hk
  · cases hk
  · split at hk
    next =>
      have hkey : engKey s (remoteBase own q) va ten = .ok key := congrArg Prod.snd hk
      rw [engKey, if_pos hwin] at hkey
      split at hkey
      next t ht =>
        cases hkey
        exact ⟨t, ⟨hwin, ht, hn⟩, rfl⟩
      next => cases hkey
    next hno => exact absurd hk (hno va key)

theorem putDataArrival_spec {s : State} {c : Cmd} {q key : Nat} (hw : s.memOk) (hf : tfind s.cmds s.ev.a = some c) (hop : c.op = 21)
    (hst : c.status = 0) (ht : tTarget s (tidOfC (cidOf c.sid) / 2048) c.desc = some q) (hwin : inWindow (tRemote c.desc) = true)
    (hn : tRemote c.desc % 2 ^ 20 + c.data.length ≤ 2 ^ 20)
    (hk : remoteCheck s (tidOfC (cidOf c.sid)) q (tRemote c.desc) c.data.length (coreAt s (cidOf c.sid)).tenant (coreAt s (cidOf c.sid)).part
      = (tRemote c.desc, .ok key)) :
    ∃ t, exec .putDataArrival s = .next t ∧ mread t.mem key c.data.length = c.data ∧ keepsOutside s t key c.data.length
      ∧ (tKey s c.desc = tidOfC (cidOf c.sid) / 2048 →
          due t (s.now + (tLeg s (tidOfC (cidOf c.sid)) c.desc).2) .putRemoteComplete { a := s.ev.a })
      ∧ (tKey s c.desc ≠ tidOfC (cidOf c.sid) / 2048 → ∃ i k, tfind t.pkts i = some k ∧ k.ev = .putRemoteComplete
          ∧ k.arg = { a := s.ev.a } ∧ k.dst = tidOfC (cidOf c.sid) / 2048) := by
  obtain ⟨tile, hspan, rfl⟩ := inOneWindow_of_remoteCheck hwin hn hk
  let u := answerBack s.ev.a c s
  let t := engWrite (remoteBase (tidOfC (cidOf c.sid)) q) (tRemote c.desc) (coreAt s (cidOf c.sid)).tenant c.data u (strandWriter c.sid u.now)
  have hexec : exec .putDataArrival s = .next t := by
    show execPutDataArrival s = _
    simp only [execPutDataArrival, hf]
    rw [serveRemote_of_ok _ _ hf (fun h => Bool.false_ne_true h.2) rfl hst ht hk, remoteWrite, tKey_of_tTarget ht,
      markDSpan_of_inOneWindow hspan]
  have hmem : u.mem = s.mem := answerBack_leaves State.mem (fun _ _ _ _ => rfl) ..
  have hu : u.memOk := ⟨hmem ▸ hw.1, (answerBack_leaves State.ssd (fun _ _ _ _ => rfl) s.ev.a c s : u.ssd = s.ssd) ▸ hw.2⟩
  obtain ⟨hr, ho⟩ := engWrite_window_spec (u := t) hu hspan (strandWriter c.sid u.now) rfl
  obtain ⟨hkeep, hagenda⟩ : traceKeeps u t := engWrite_traceKeeps ..
  have hev : answerEv c = .putRemoteComplete := if_pos hop
  refine ⟨t, hexec, hr, fun a ha => (ho a ha).trans (by rw [hmem]), fun h => hagenda (hev ▸ answerBack_due s.ev.a s h), fun h => ?_⟩
  obtain ⟨i, k, hi, hkev, harg, -, hdst⟩ := answerBack_find s.ev.a s h
  exact ⟨i, k, by rw [hkeep]; exact hi, hkev.trans hev, harg, hdst⟩

theorem putRemoteComplete_spec {s : State} {c : Cmd} (hf : tfind s.cmds s.ev.a = some c) (hst : c.status = 0) (hcpl : c.cpl = false)
    (hx : c.xchg = false) (hpl : c.placed = false) : ∃ t, exec .putRemoteComplete s = .next t
      ∧ tfind t.cmds s.ev.a = none ∧ tfind t.accs c.acc = none ∧ t.mem = s.mem := by
  have hexec : exec .putRemoteComplete s
      = .next (complete s.ev.a c (tTag c.desc) true { s with accs := tdel s.accs c.acc }) := by
    show execPutRemoteComplete s = _
    simp [execPutRemoteComplete, hf, hpl, hst]
  refine ⟨_, hexec, complete_find hcpl hx .., ?_, complete_leaves State.mem (fun _ _ _ _ => rfl) hcpl hx ..⟩
  rw [complete_leaves State.accs (fun _ _ _ _ => rfl) hcpl hx]
  exact tfind_tdel_self ..

/-! ### Storage transfers (R262) -/

/-- The first byte of a storage command's blocks in its SSD. -/
def storageKey (c : Cmd) : Nat :=
  let port := wfield (c.desc.getD 2 0#64) 16 4
  let nsid := wfield (c.desc.getD 2 0#64) 20 32
  ssdKey (tidOfC (cidOf c.sid) / 2048) port nsid ((c.desc.getD 1 0#64).toNat * (if Config.bigBlocks port nsid = true then 4096 else 512))

section
variable {s : State} {c : Cmd} {a k : Nat} (hf : tfind s.cmds s.ev.a = some c) (hst : c.status = 0) (hb : s.ev.b = 0) (hc : s.ev.c = 0)
  (hflag : s.ev.flag = false) (hrel : released s c.entries = true) (hheld : engHeld s s.ev.a c = false)
  (hok : engCheck s (tidOfC (cidOf c.sid)) (wfield (c.desc.getD 0 0#64) 0 56) (coreAt s (cidOf c.sid)).tenant (sBytes c.desc) = (a, .ok k))
include hf hst hb hc hflag hrel hheld hok

/-- The blocks move where their pages are there: to memory for SREAD, to the SSD for SWRITE. -/
theorem exec_storageIoComplete_of_ok :
    let own := tidOfC (cidOf c.sid)
    let ten := (coreAt s (cidOf c.sid)).tenant
    let va := wfield (c.desc.getD 0 0#64) 0 56
    exec .storageIoComplete s = .next (complete s.ev.a c (wfield (c.desc.getD 3 0#64) 0 16) false
      (if c.op = 22 then engWrite own va ten (mread s.ssd (storageKey c) (sBytes c.desc)) (markDSpan own va (sBytes c.desc) s) (strandWriter c.sid s.now)
        else { s with ssd := mwrite s.ssd (storageKey c) ((engRead s own va ten (sBytes c.desc)).getD []) })) := by
  intro own ten va
  have h1 : ¬ s.ev.c = 1 := by omega
  have h2 : ¬ s.ev.c = 2 := by omega
  show execStorageIoComplete s = _
  simp only [execStorageIoComplete, hf, hst, hb, if_neg h1, if_neg h2, hflag, hrel, hheld, hok, Bool.not_true, Bool.or_self, Bool.false_eq_true,
    if_false, ne_eq, not_true_eq_false]
  by_cases hop : c.op = 22
  · rw [if_pos hop, if_pos hop]
    rfl
  · rw [if_neg hop, if_neg hop]
    rfl

theorem storageIoComplete_spec (hcpl : c.cpl = false) (hx : c.xchg = false) :
    let own := tidOfC (cidOf c.sid)
    let ten := (coreAt s (cidOf c.sid)).tenant
    let va := wfield (c.desc.getD 0 0#64) 0 56
    ∃ t, exec .storageIoComplete s = .next t ∧ tfind t.cmds s.ev.a = none
      ∧ (c.op = 22 → t.mem = (engWrite own va ten (mread s.ssd (storageKey c) (sBytes c.desc)) (markDSpan own va (sBytes c.desc) s)
        (strandWriter c.sid s.now)).mem ∧ t.ssd = s.ssd)
      ∧ (c.op = 23 → t.ssd = mwrite s.ssd (storageKey c) ((engRead s own va ten (sBytes c.desc)).getD []) ∧ t.mem = s.mem) := by
  intro own ten va
  have hend {β : Type} (φ : State → β) (h : ∀ (s : State) (c : Tab Cmd) (q : Tab Tile) (l : List (Nat × Instr × EvArg)),
      φ { s with cmds := c, tiles := q, agenda := l } = φ s) (u : State) := complete_leaves φ h hcpl hx s.ev.a
    (wfield (c.desc.getD 3 0#64) 0 16) false u
  refine ⟨_, exec_storageIoComplete_of_ok hf hst hb hc hflag hrel hheld hok, complete_find hcpl hx .., fun hop => ?_, fun hop => ?_⟩
  · rw [if_pos hop]
    obtain ⟨hkeep, -⟩ := traceKeeps_trans (markDSpan_traceKeeps own va (sBytes c.desc) s)
      (engWrite_traceKeeps own va ten (mread s.ssd (storageKey c) (sBytes c.desc)) _ (strandWriter c.sid s.now))
    exact ⟨hend State.mem (fun _ _ _ _ => rfl) _, (hend State.ssd (fun _ _ _ _ => rfl) _).trans (by rw [hkeep])⟩
  · rw [if_neg (by omega)]
    exact ⟨hend State.ssd (fun _ _ _ _ => rfl) _, hend State.mem (fun _ _ _ _ => rfl) _⟩

end

/-- Settles O40: each clause is one event of a transfer; in a window its bytes are one write at one key. -/
theorem engineTransfersComplete : Obligations.EngineTransfersComplete := by
  unfold Obligations.EngineTransfersComplete
  refine ⟨?copy, fun s c h => exec_completionElementPlace_of_free, fun s sid h x hw => ringPush_spec hw sid h x,
    fun s c => exec_getRequestServe_of_sent, ?remote, fun s a id c => loadResult_engine_spec, fun s c off => getComplete_own_spec, ?putLocal,
    fun s c => exec_putLocalComplete_of_entered, fun s c q key => putDataArrival_spec, fun s c => putRemoteComplete_spec, ?storage⟩
  case copy =>
    intro s c so ds len
    exact copyComplete_own_spec
  case remote =>
    intro s c q va key hf hb hflag hst ht hk own
    have hserved := hk _ rfl
    exact ⟨fun hop hrel => getRequestServe_spec hf hb hst ht hserved hrel hflag hop,
      fun hrel hal => remoteAtomicServe_spec hf hb hst ht hserved hrel hal⟩
  case putLocal =>
    intro s c off hf _ hl hrel hheld hb hflag haway h0 hloc hlen hroom
    exact putLocalComplete_own_spec hf hl hrel hheld hb hflag haway h0 hloc hlen hroom
  case storage =>
    intro s c hf hst hcpl hx hb hc hflag hrel hheld own ten va ns key a k hok
    exact storageIoComplete_spec hf hst hb hc hflag hrel hheld hok hcpl hx

end Sys2Proof.Machine
end
